-- ==== Sys2Proof/Word.lean ====
section
/-! DEFINITION. The word types of the T64 and the sparse-map type its state is made of. -/

namespace Sys2Proof

/-- A byte. -/
abbrev Byte := BitVec 8
/-- A word (R6: 32 bits unless a width is named). -/
abbrev Word := BitVec 32
/-- A 64-bit word. -/
abbrev DWord := BitVec 64

/-- A sparse table: pairs of a key and a value, keys strictly rising, no value equal to the
table's default (the canonical form of `mwf`). -/
abbrev SMap (α : Type) := List (Nat × α)

end Sys2Proof
end

