-- ==== Sys2Proof/Syntax.lean ====
section
/-! DEFINITION. The commands of the T64: one constructor of `Instr` for each row of the table of operations
and events, with the row's operands. An operand holds what the spec leaves to the outside of the part: a
register write, a packet, data read from the host, a measured value, the fact that a test failed. -/

namespace Sys2Proof

/-! ### Core instructions -/

/-- An A-half instruction (Table 05.4) issued by the sequencer of a core (R16). CLASS and OP are the row. -/
structure LaneOp where
  core : BitVec 12
  pinv : Bool
  preg : BitVec 3
  iov  : BitVec 2
  vd   : BitVec 6
  va   : BitVec 6
  vb   : BitVec 6
  vc   : BitVec 6
  pd   : BitVec 3
  nega : Bool
  negb : Bool
  absa : Bool
  imm  : BitVec 16
  deriving DecidableEq, Repr

/-- An ENG instruction (Table 05.3). -/
structure EngOp where
  core    : BitVec 12
  pinv    : Bool
  preg    : BitVec 3
  eng     : BitVec 2
  passes  : BitVec 2
  group   : BitVec 2
  accSlot : BitVec 4
  accInit : BitVec 2
  accOut  : Bool
  qin     : BitVec 4
  odst    : BitVec 6
  asrc    : BitVec 6
  wsrc    : BitVec 6
  kblk    : BitVec 15
  deriving DecidableEq, Repr

/-- A GS instruction (Table 05.9): index register `va`, result registers `vd` and `vc`, operand descriptor
`desc` of the tile, table descriptor `table`, segment `seg`. The spec lays out no word for class GS. -/
structure GsOp where
  core  : BitVec 12
  pinv  : Bool
  preg  : BitVec 3
  va    : BitVec 6
  vd    : BitVec 6
  vc    : BitVec 6
  desc  : BitVec 6
  table : BitVec 4
  seg   : BitVec 15
  deriving DecidableEq, Repr

/-- A TOK instruction (Table 06.6). -/
structure TokOp where
  core  : BitVec 12
  q     : BitVec 4
  route : BitVec 6
  opd   : BitVec 6
  deriving DecidableEq, Repr

/-- An LDST instruction (R93): lanes of register `vr` to or from the rows `row` onward of the tile the
operand descriptor `desc` stands on. The spec lays out no word for class LDST. -/
structure LdstOp where
  core : BitVec 12
  pinv : Bool
  preg : BitVec 3
  vr   : BitVec 6
  desc : BitVec 6
  row  : BitVec 5
  deriving DecidableEq, Repr

/-- The count of a LOOP (R92): a 16-bit immediate or a parameter word of the current problem-list entry. -/
inductive LoopCount where
  | imm (n : BitVec 16)
  | par (k : BitVec 2)
  deriving DecidableEq, Repr

/-- A predicate reduction of class CTL (R94). -/
structure PredOp where
  core : BitVec 12
  pinv : Bool
  preg : BitVec 3
  pd   : BitVec 3
  ps   : BitVec 3
  deriving DecidableEq, Repr

/-- A token: its 64-bit header (Table 06.3) and the element codes of its tile, row by row. -/
structure Token where
  hdr  : DWord
  tile : List Word
  deriving DecidableEq, Repr

/-- A Border instruction (Table 08.3) at the Border engine of rim die `rim`; OP is the row. -/
structure BorderOp where
  rim : BitVec 3
  d   : BitVec 4
  a   : BitVec 4
  b   : BitVec 4
  c   : BitVec 4
  s   : BitVec 2
  deriving DecidableEq, Repr

/-! ### Packets between packages -/

/-- A packet of a collective engine: the source coordinate (R307) and stream, the packet header (Table 14.2),
the tiles of a DATA packet as element codes, the body bytes of a CTRL packet (R340). A RELAY packet also carries
the sender's token headers and the remaining FWD count, for which the spec names no place in the header. -/
structure Packet where
  src     : BitVec 16
  stream  : BitVec 3
  cnLo    : Word
  layout  : Word
  jobId   : BitVec 16
  pkind   : Byte
  form    : Byte
  tile    : Word
  tensor  : Word
  landing : BitVec 16
  pseq    : BitVec 16
  pcrc    : Word
  tiles   : List (List Word)
  body    : List Byte
  hdrs    : List DWord
  fwd     : Nat
  /-- At its receiver, the end of the window that the schedule gives this arrival, in fc from step start (R243, R305); the
  packet carries none. -/
  window  : Option Nat := none
  deriving DecidableEq, Repr

/-- What reaches a member of a replica repair (R201), for which the spec gives no packet layout (log entry 73): at the
supplier the members whose digests differ; at such a member the supplier's rank and its list of entry CRCs; at the supplier
the entries whose CRCs differ at a member; at the member the CRC and bytes of an entry; at rank 0 the end of a member's
repair. -/
inductive RepairMsg where
  | supply (ranks : List (BitVec 5))
  | list (rank : BitVec 5) (crcs : List DWord)
  | want (rank : BitVec 5) (entries : List (BitVec 12))
  | entry (index : BitVec 12) (crc : DWord) (bytes : List Byte)
  | done (rank : BitVec 5)
  deriving DecidableEq, Repr

/-! ### Pattern images -/

/-- A context image (Table 06.2), as raw words: the 512-bit header, the queue, route, operand-descriptor and
table-descriptor tables, the 64 slot-map bytes, the 128-bit bundles and the 128-bit trailer. -/
structure CtxImage where
  header  : Nat
  queues  : List Nat
  routes  : List Nat
  descs   : List Nat
  tables  : List Nat
  slotMap : List Nat
  bundles : List Nat
  trailer : Nat
  deriving DecidableEq, Repr

/-- How an update-table entry declares a state stream (R187): absent, one element per parameter, one per row, or
one per column; and FP32 or L16. -/
inductive StreamExt where
  | absent | full | rows | cols
  deriving DecidableEq, Repr

/-- A state stream of an update-table entry. -/
structure StreamDecl where
  ext : StreamExt := .absent
  l16 : Bool := false
  deriving DecidableEq, Repr

/-- An update-table entry (R187): shard, first parameter, count, row and column extents, program, state streams
and scalar block. -/
structure UpdEntry where
  shard   : Nat
  first   : Nat
  count   : Nat
  rows    : Nat
  cols    : Nat
  prog    : Nat
  streams : List StreamDecl
  scalars : List Nat
  deriving DecidableEq, Repr

/-- A Border program (R188): instruction words of its parts. -/
structure BorderProg where
  prologue  : List Nat := []
  phase1    : List Nat := []
  interlude : List Nat := []
  phase2    : List Nat := []
  twoPhase  : Bool := false
  deriving DecidableEq, Repr

/-- A tier stream (R208): base tier address, extent in bytes, offset selector, and whether it writes. -/
structure TierStream where
  base   : Nat
  extent : Nat
  sel    : Option Nat
  writes : Bool
  deriving DecidableEq, Repr

/-- The timing record (Table 10.5). -/
structure Timing where
  head  : Nat := 0
  tail  : Nat := 0
  pStep : Nat := 0
  terms : List Nat := []
  deriving DecidableEq, Repr

/-- A landing-table entry (R329). -/
structure LandEntry where
  cut    : Nat
  offset : Nat
  stream : Nat
  core   : Nat
  queue  : Nat
  fmt    : Nat
  deriving DecidableEq, Repr

/-- A pattern image as the device holds it in its pattern store: the spec gives the layout of its parts, not of
their container. `staticOk` says that the schedule of weight-bank loads, which no word of an image states, loads no busy
bank (R47). -/
structure Pattern where
  /-- For each context number the pattern uses, the cores it uses, each with the image that is written there. -/
  ctxs     : List (List (Nat × CtxImage))
  /-- Fold tables: core address, 16 entries (Table 06.9) and check value (R140). -/
  folds    : List (Nat × List Nat × Nat)
  /-- Job record (Table 14.1), relay table (Table 14.4) and landing table (R329). -/
  job      : Nat
  relay    : List Nat
  landing  : List LandEntry
  /-- Micro-batches U (R173). -/
  micro    : Nat
  table    : List UpdEntry
  progs    : List BorderProg
  /-- Layout 0: shard, owner rank on the layer cut, parameter tiles (R337, R341). -/
  owners   : List (Nat × Nat × Nat)
  stash    : Nat
  gaa      : Nat
  /-- Staging granules per Slath (R211). -/
  staging  : List Nat
  streams  : List TierStream
  parMin   : List Nat
  parMax   : List Nat
  /-- Shard records declared (R203). -/
  records  : Nat
  timing   : Timing
  /-- The images contain a problem marker (R166). -/
  marker   : Bool
  staticOk : Bool
  deriving DecidableEq, Repr

/-! ### Host accesses -/

/-- A read of 16 bytes of a function's buffer table (R282): host address and bytes. -/
structure BufRead where
  addr : DWord
  data : BitVec 128
  deriving DecidableEq, Repr

/-- A buffer-table entry (R282): host address, length in bytes, access bits. -/
structure BufEntry where
  addr : DWord
  len  : BitVec 48
  acc  : Byte
  deriving DecidableEq, Repr

/-- The decision of a descriptor (R286, R287): the ring, the reads of the buffer table, the bytes read from the host buffer: the first reading and, after a check mismatch, the second (R354),
and tier addresses of which the descriptor's reads and their retries are uncorrectable (R219). -/
structure DescOp where
  ring  : BitVec 14
  bufs  : List BufRead
  data  : List Byte
  data2 : List Byte
  fails : List DWord
  deriving DecidableEq, Repr

/-- A function of a host port: port 0 is A, 1 is B; function 0 is the PF, n is VF n (R257). -/
structure FnAddr where
  port : BitVec 1
  fn   : BitVec 7
  deriving DecidableEq, Repr

/-- What resets a port (R261). -/
inductive PortResetKind where
  | perst | surpriseDown | hotReset
  deriving DecidableEq, Repr

/-- A descriptor read (R284): the host address it began at and the descriptors it returned. -/
structure FetchRead where
  addr  : DWord
  descs : List (BitVec 512)
  deriving DecidableEq, Repr

/-- What a poll reads in the doorbell area (R279, R283): the area's address, level 0, the level-1 words with their number, and
runs of doorbell words with the host address of the first. -/
structure PollRead where
  base   : DWord
  level0 : BitVec 256
  level1 : List (Byte × DWord)
  words  : List (DWord × List Word)
  deriving DecidableEq, Repr

/-- Registers of a function's configuration space that software writes (Tables 11.1, 11.2), named as the PCI Express Base
Specification names them; those of the SR-IOV capability are the PF's. -/
inductive CfgReg where
  | command | deviceControl | msixControl | aerControl
  | bar (n : BitVec 3)
  | sriovControl | numVfs
  | vfBar (n : BitVec 3)
  deriving DecidableEq, Repr

/-- Where a register write goes: BAR0 or BAR2, where its offset names the word, or a register of the configuration space, which
is named and takes no offset. -/
inductive RegPlace where
  | bar0
  | bar2
  | config (r : CfgReg)
  deriving DecidableEq, Repr

/-- One fc of an arbiter (R358): class, index, the requester inputs that present a request, those of them whose request is
of a slot's step with the slot, and whether an earlier grant still occupies the resource (R360). -/
structure ArbOp where
  cls     : BitVec 4
  index   : BitVec 12
  reqs    : List (BitVec 4)
  slots   : List (BitVec 4 × BitVec 12)
  serving : Bool
  deriving DecidableEq, Repr

/-! ### Wale links -/

/-- A 272-byte block (Table 13.3): header, 256 payload bytes, ACK word, CRC. -/
structure Block where
  hdr     : DWord
  payload : List Byte
  ack     : Word
  crc     : Word
  deriving DecidableEq, Repr

/-- A block as a receiving half meets it (R309, R311), and whether it is the second attempt of the block that the half waits for
(log entry 136). -/
structure Arrival where
  block  : Block
  second : Bool
  deriving DecidableEq, Repr

/-- The content of a LINK block (Table 13.6); `port` is the sender's port: [1:0] axis, [2] sign. -/
structure LinkMsg where
  mtch    : Bool
  lasting : Bool
  coord   : BitVec 16
  port    : BitVec 3
  lens    : BitVec 15
  groups  : Byte
  fc      : Word
  brk     : BitVec 16
  deriving DecidableEq, Repr

/-- A Wale port: 0 +X, 1 −X, 2 +Y, 3 −Y, 4 +Z, 5 −Z (R320). -/
abbrev PortNo := BitVec 3

/-! ### Management -/

/-- An image in a flash slot (Table 17.2): its numbers, and whether it passes the checks of R397 other than SVN. -/
structure ImageSt where
  version  : Nat
  svn      : Nat
  stateMin : Nat
  stateVer : Nat
  ok       : Bool
  deriving DecidableEq, Repr

/-- The board record (R403): the board limit in W, a current limit for each rail, and the PMBus address and rail of
each stage. The spec gives it no byte layout. -/
structure BoardRec where
  limit    : Nat
  currents : List Nat
  stages   : List (Nat × Nat)
  deriving DecidableEq, Repr


/-! ### Faults -/

/-- A hop whose flits carry a CRC (R372): the bond link of a compute die (12 · quadrant + site), an on-die hop of a Slath,
or a Slath bridge (0 S0–S1, 1 S2–S3, 2 S0–S2, 3 S1–S3). -/
inductive HopPlace where
  | bond (die : BitVec 6)
  | slath (q : BitVec 2)
  | bridge (b : BitVec 2)
  deriving DecidableEq, Repr

/-- A word of an SRAM (R373): of a core's operand store, of an engine's accumulator memory, of a context slot, or of a
Slath's shared cache in a granule. -/
inductive SramWord where
  | store (core : BitVec 12) (word : BitVec 21)
  | acc (core : BitVec 12) (engine : BitVec 2) (word : BitVec 16)
  | context (core : BitVec 12) (ctx : BitVec 2) (word : BitVec 16)
  | cache (q : BitVec 2) (granule : BitVec 10) (word : BitVec 21)
  deriving DecidableEq, Repr

/-- An SRAM error (R71, R85, R373): the word, and whether SECDED corrected it. -/
structure SramError where
  word      : SramWord
  corrected : Bool
  deriving DecidableEq, Repr

/-- The end of a spare's power-up (R385): the fenced die it serves, whether power-up, training and first self-test
passed, and the context numbers of which a core's image failed its first and its second check (R134). -/
structure SpareOp where
  die    : BitVec 6
  ok     : Bool
  first  : List (BitVec 2)
  second : List (BitVec 2)
  deriving DecidableEq, Repr

/-- A tile that a rim die writes to a tier (R162): the token it comes from, its format code (0 L8, 1 L16, 2 FP32), the tier address of its first element
and the bytes from one row to the next (log entry 135). -/
structure TierPut where
  tile   : Token
  fmt    : BitVec 2
  addr   : DWord
  stride : Word
  deriving DecidableEq, Repr

/-- A request at a memory tier (R218, R229): the slot whose attempt makes it, the tier (1 HBM3E, 2 LPDDR5X), the physical
granule and its 4 KiB block, whether it writes and the tile that a pattern's stream writes, its window end in fc from step start, and for a read the number of errors
corrected in it and in its retry, and whether the read and its retry were uncorrectable. -/
structure TierReadOp where
  slot      : Option (BitVec 12)
  tier      : BitVec 2
  gran      : BitVec 19
  block     : BitVec 9
  write     : Bool
  put       : Option TierPut
  due       : Nat
  corrected : Byte
  bad1      : Bool
  bad2      : Bool
  deriving DecidableEq, Repr

/-! ### Registers -/

/-- A 64-bit pair with RW access (R434): the rings' and areas' bases of HOST, the fold and running value of a check set,
and the HANDLE mailbox's argument. -/
inductive PairReg where
  | ringSq | ringCq | dbBase | bufBase
  | chkFold (unit : BitVec 5)
  | chkRun (unit : BitVec 5)
  | hmArg
  deriving DecidableEq, Repr

/-- An event-flag register (R365), by its block. -/
inductive FlagBlock where
  | cyc | ring | host | quota | tier
  | link (port : PortNo)
  | torus | coll | chk | fault | pipe | train | conv | pert | handle
  deriving DecidableEq, Repr

/-- Instruction of the TAP (R427). -/
inductive TapInstr where
  | bypass | sample | idcode | extest
  deriving DecidableEq, Repr

/-- An operation of the TAP (R427): reset by TRST_N or TMS, an instruction load, or a data scan that shifts in TDI
bits, the first one first, with the values of the VIO lands at its capture. -/
inductive TapOp where
  | reset
  | load (i : TapInstr)
  | scan (tdi lands : List Bool)
  deriving DecidableEq, Repr

/-- The commands: one constructor per row of the table. -/
inductive Instr where
  /-- CORE_NOP (R88). A NOP half of a bundle issues and does nothing. -/
  | coreNop (core : BitVec 12) (bHalf : Bool)
  /-- ENG (R55). An engine tile operation streams P·K positions through the array and writes its final tally to accumulator memory. -/
  | eng (o : EngOp)
  /-- FADD (R96). FP32 lane addition, correctly rounded. -/
  | fadd (o : LaneOp)
  /-- FSUB (R96). FP32 lane subtraction, correctly rounded. -/
  | fsub (o : LaneOp)
  /-- FMUL (R96). FP32 lane multiplication, correctly rounded. -/
  | fmul (o : LaneOp)
  /-- FMA (R96). FP32 lane fused multiply-add with one rounding. -/
  | fma (o : LaneOp)
  /-- FMIN (R96). IEEE 754-2019 minimum of two FP32 lanes. -/
  | fmin (o : LaneOp)
  /-- FMAX (R96). IEEE 754-2019 maximum of two FP32 lanes. -/
  | fmax (o : LaneOp)
  /-- FCMPLT (R96). FP32 less-than comparison written to a predicate. -/
  | fcmplt (o : LaneOp)
  /-- FCMPEQ (R96). FP32 equality comparison written to a predicate. -/
  | fcmpeq (o : LaneOp)
  /-- FSEL (R96). Selects VA or VB per lane by a predicate. -/
  | fsel (o : LaneOp)
  /-- FRSUM (R97). Sums a register across lanes by a fixed pairwise tree. -/
  | frsum (o : LaneOp)
  /-- FRMAX (R97). Takes the maximum of a register across lanes by a fixed pairwise tree. -/
  | frmax (o : LaneOp)
  /-- IADD (R98). Integer lane addition with the selected overflow behaviour. -/
  | iadd (o : LaneOp)
  /-- ISUB (R98). Integer lane subtraction with the selected overflow behaviour. -/
  | isub (o : LaneOp)
  /-- INEG (R98). Integer lane negation with the selected overflow behaviour. -/
  | ineg (o : LaneOp)
  /-- IABS (R98). Integer lane absolute value with the selected overflow behaviour. -/
  | iabs (o : LaneOp)
  /-- IAND (R98). Integer lane bitwise AND. -/
  | iand (o : LaneOp)
  /-- IOR (R98). Integer lane bitwise OR. -/
  | ior (o : LaneOp)
  /-- IXOR (R98). Integer lane bitwise XOR. -/
  | ixor (o : LaneOp)
  /-- ISHL (R98). Integer lane shift left by operand B modulo the lane width. -/
  | ishl (o : LaneOp)
  /-- ISHR (R98). Integer lane arithmetic shift right. -/
  | ishr (o : LaneOp)
  /-- IMUL (R98). Integer lane multiplication with the selected overflow behaviour. -/
  | imul (o : LaneOp)
  /-- IMAD (R98). Integer lane multiply-add with the selected overflow behaviour. -/
  | imad (o : LaneOp)
  /-- ICMPLT (R98). Integer less-than comparison written to a predicate. -/
  | icmplt (o : LaneOp)
  /-- ICMPEQ (R98). Integer equality comparison written to a predicate. -/
  | icmpeq (o : LaneOp)
  /-- CVT (R99). Converts each lane from format FROM to format TO. -/
  | cvt (o : LaneOp)
  /-- LMUL (R100). Log-lane multiplication by adding log fields. -/
  | lmul (o : LaneOp)
  /-- LDIV (R100). Log-lane division by subtracting log fields. -/
  | ldiv (o : LaneOp)
  /-- LSQRT (R100). Log-lane square root by halving the log field. -/
  | lsqrt (o : LaneOp)
  /-- LRSQRT (R100). Log-lane reciprocal square root. -/
  | lrsqrt (o : LaneOp)
  /-- LEXP (R101). Converts FP32 x to the L16 code of e^x. -/
  | lexp (o : LaneOp)
  /-- LLOG (R100). Converts an L16 code to the FP32 natural logarithm of its magnitude. -/
  | llog (o : LaneOp)
  /-- LADD (R102). Gaussian-log addition of two L16 values. -/
  | ladd (o : LaneOp)
  /-- LSUB (R102). Gaussian-log subtraction of two L16 values. -/
  | lsub (o : LaneOp)
  /-- LMAX (R100). Maximum of two L16 values in sign-magnitude order. -/
  | lmax (o : LaneOp)
  /-- LMIN (R100). Minimum of two L16 values in sign-magnitude order. -/
  | lmin (o : LaneOp)
  /-- LCMPLT (R100). L16 less-than comparison written to a predicate. -/
  | lcmplt (o : LaneOp)
  /-- SIGMOID (R103). Special-function micro-sequence computing the sigmoid of a row. -/
  | sigmoid (o : LaneOp)
  /-- SILU (R103). Special-function micro-sequence computing SiLU of a row. -/
  | silu (o : LaneOp)
  /-- GELU_T (R104). Special-function micro-sequence computing the tanh-form GELU of a row. -/
  | geluT (o : LaneOp)
  /-- SOFTMAX (R103). Special-function micro-sequence computing softmax of a row. -/
  | softmax (o : LaneOp)
  /-- LAYERNORM (R103). Special-function micro-sequence computing layer normalisation of a row. -/
  | layernorm (o : LaneOp)
  /-- RMSNORM (R103). Special-function micro-sequence computing RMS normalisation of a row. -/
  | rmsnorm (o : LaneOp)
  /-- GATHER (R106). Sends 32 indices to the rim dies to fetch one tile of table rows. -/
  | gather (o : GsOp)
  /-- GATHER_DELIVERY (R106). A gathered tile arrives in the operand store, with out-of-range indices delivered as zeros. -/
  | gatherDelivery (core : BitVec 12)
  /-- SCATTER_ADD (R108). Adds 32 FP32 tile rows into the indexed table rows at the rim die. -/
  | scatterAdd (o : GsOp)
  /-- GWAIT (R106). Stops the sequencer until all outstanding gathers of the context have arrived. -/
  | gwait (o : GsOp)
  /-- IMOD (R106). Reduces each index modulo the table's row count. -/
  | imod (o : GsOp)
  /-- IOFF (R106). Adds the table's row offset to each index. -/
  | ioff (o : GsOp)
  /-- IUNIQ (R106). Sorts 32 indices and writes the distinct values and each lane's position. -/
  | iuniq (o : GsOp)
  /-- RECV (R127). Makes the head token of a queue held once it carries the current context's tag. -/
  | recv (o : TokOp)
  /-- REL (R127). Frees the held head of a queue. -/
  | rel (o : TokOp)
  /-- SEND (R127). Reads a tile and sends it as a token on a route-table entry. -/
  | send (o : TokOp)
  /-- TOKEN_ARRIVAL (R137). A token arrives at a core and is checked for residency and sequence and then enqueued, spilled or back-pressured. -/
  | tokenArrival (t : Token)
  /-- FILL (R125). The oldest overflow-lane token moves into the hardware queue once an entry frees. -/
  | fill (core : BitVec 12) (q : BitVec 4)
  /-- LOOP (R92). Starts a counted loop over a body of bundles. -/
  | loop (core : BitVec 12) (body : BitVec 9) (count : LoopCount)
  /-- YIELD (R128). A yield point at which a pending switch may be taken. -/
  | yield (core : BitVec 12) (pinv : Bool) (preg : BitVec 3)
  /-- FOLD (R141). Moves the core to the next valid fold-table entry. -/
  | fold (core : BitVec 12) (pinv : Bool) (preg : BitVec 3)
  /-- PMARK (R168). Problem marker that takes the next problem-list entry and resets descriptor positions. -/
  | pmark (core : BitVec 12) (pinv : Bool) (preg : BitVec 3) (bundle : BitVec 12)
  /-- PANY (R94). Writes all ones when any bit of a source predicate is 1. -/
  | pany (o : PredOp)
  /-- PALL (R94). Writes all ones when all bits of a source predicate are 1. -/
  | pall (o : PredOp)
  /-- LOAD_REGISTER (R93). LDST load of a vector register from the operand store. -/
  | loadRegister (o : LdstOp)
  /-- STORE_REGISTER (R93). LDST store of a vector register to the operand store, predicated per lane. -/
  | storeRegister (o : LdstOp)
  /-- CONTEXT_SWITCH (R129). A core takes a pending switch request at its next token boundary. -/
  | contextSwitch (core : BitVec 12)
  /-- CONTEXT_LOAD_END (R133). A context load finishes writing and checking the images and makes the slot resident with the new GEN. -/
  | contextLoadEnd (part : BitVec 6) (ctx : BitVec 2) (first : List (BitVec 12)) (second : List (BitVec 12))
  /-- LOAD_PROCEED (R135). A waiting context load proceeds once none of its wait conditions holds. -/
  | loadProceed (part : BitVec 6)
  /-- LOAD_BLOCKED (R135). A load that has waited WDOG_LIMIT fc completes with LOAD_BLOCKED. -/
  | loadBlocked (part : BitVec 6) (ctx : BitVec 2)
  /-- STALL_WATCHDOG (R145). A partition's stalled-fc count reaches WDOG_LIMIT, a report is captured and the partition is discard-drained. -/
  | stallWatchdog (part : BitVec 6)
  /-- DRAIN_END (R148). A drain ends when every queue is empty and every core is at a token boundary. -/
  | drainEnd (part : BitVec 6)
  /-- WDOG_STATUS (R147). Writing 1 to HELD releases the held watchdog report. -/
  | wdogStatus (f : FnAddr) (value : Word)
  /-- STEP_START (R252). The partition controller releases a step's sources once pacing grants the start. -/
  | stepStart (slot : BitVec 12)
  /-- QUANTISE_TILE (R178). A rim die quantises a reduced parameter tile to L8 with its L16 error term and writes the record. -/
  | quantiseTile (slot : BitVec 12) (tile : Word)
  /-- UPDATE_SWEEP (R192). Border engines start the update sweep once every tile is quantised. -/
  | updateSweep (slot : BitVec 12)
  /-- INTERLUDE (R192). The interlude of a two-phase program runs after all Borders finish phase 1. -/
  | interlude (slot : BitVec 12)
  /-- BORDER_NOP (R189). Border no-operation. -/
  | borderNop (o : BorderOp)
  /-- LDG (R189). Loads G8 gradient codes converted to FP32. -/
  | ldg (o : BorderOp)
  /-- LDW (R189). Loads the master from the visible bank. -/
  | ldw (o : BorderOp)
  /-- LDS (R189). Loads a state stream from the visible bank. -/
  | lds (o : BorderOp)
  /-- STW (R184). Stores the master into the alternate bank and writes the L16 working copy. -/
  | stw (o : BorderOp)
  /-- STS (R189). Stores a state stream into the alternate bank. -/
  | sts (o : BorderOp)
  /-- BORDER_FADD (R190). Border FP32 vector addition. -/
  | borderFadd (o : BorderOp)
  /-- BORDER_FSUB (R190). Border FP32 vector subtraction. -/
  | borderFsub (o : BorderOp)
  /-- BORDER_FMUL (R190). Border FP32 vector multiplication. -/
  | borderFmul (o : BorderOp)
  /-- BORDER_FMA (R190). Border FP32 vector multiply-add. -/
  | borderFma (o : BorderOp)
  /-- FDIV (R190). Border FP32 vector division. -/
  | fdiv (o : BorderOp)
  /-- FSQRT (R190). Border FP32 vector square root. -/
  | fsqrt (o : BorderOp)
  /-- FRSQRT (R190). Border FP32 vector reciprocal square root. -/
  | frsqrt (o : BorderOp)
  /-- BORDER_FMAX (R190). Border FP32 vector maximum. -/
  | borderFmax (o : BorderOp)
  /-- BORDER_FMIN (R190). Border FP32 vector minimum. -/
  | borderFmin (o : BorderOp)
  /-- FABS (R189). Border FP32 vector absolute value. -/
  | fabs (o : BorderOp)
  /-- FSIGN (R189). Border FP32 vector sign as -1, 0 or +1. -/
  | fsign (o : BorderOp)
  /-- FMULK (R189). Multiplies a vector by a scalar register. -/
  | fmulk (o : BorderOp)
  /-- FADDK (R189). Adds a scalar register to a vector. -/
  | faddk (o : BorderOp)
  /-- FMAK (R189). Vector times scalar plus vector. -/
  | fmak (o : BorderOp)
  /-- LDR (R189). Loads a row statistic of a state stream, broadcast along the row. -/
  | ldr (o : BorderOp)
  /-- LDC (R189). Loads a column statistic of a state stream, broadcast along the column. -/
  | ldc (o : BorderOp)
  /-- SUMSQ (R191). Adds the sum of squares of a tile into a pair accumulator. -/
  | sumsq (o : BorderOp)
  /-- ARSUM (R191). Adds a tile's row sums into the entry's row accumulators. -/
  | arsum (o : BorderOp)
  /-- ACSUM (R191). Adds a tile's column sums into the entry's column accumulators. -/
  | acsum (o : BorderOp)
  /-- KADD (R189). Scalar addition. -/
  | kadd (o : BorderOp)
  /-- KSUB (R189). Scalar subtraction. -/
  | ksub (o : BorderOp)
  /-- KMUL (R189). Scalar multiplication. -/
  | kmul (o : BorderOp)
  /-- KDIV (R189). Scalar division. -/
  | kdiv (o : BorderOp)
  /-- KSQRT (R189). Scalar square root. -/
  | ksqrt (o : BorderOp)
  /-- KMOV (R189). Scalar move. -/
  | kmov (o : BorderOp)
  /-- KPOWT (R190). Raises a scalar to the integer power CN+1 with one rounding. -/
  | kpowt (o : BorderOp)
  /-- KACC (R191). Reads a scalar accumulator combined over the eight Borders. -/
  | kacc (o : BorderOp)
  /-- GRAD_READY (R193). Border writes G8 and its trailer to the host gradient buffer and writes CN+1 to GRAD_READY. -/
  | gradReady (slot : BitVec 12)
  /-- WC_READY_POLL (R193). The device reads WC_READY each poll period and installs the host working copy once it matches. -/
  | wcReadyPoll (slot : BitVec 12) (word : DWord) (data : List Byte)
  /-- HOST_TIMEOUT (R194). WC_READY does not reach CN+1 within HOST_LIMIT and the attempt aborts. -/
  | hostTimeout (slot : BitVec 12)
  /-- STEP_READY (R249). A member becomes ready, forms the deviation D and passes a held PREPARE. -/
  | stepReady (slot : BitVec 12)
  /-- PREPARE (R196). A PREPARE pass reaches a member, which adds its ready flag and digest and passes it on. -/
  | prepare (p : Packet)
  /-- REPAIR (R201). A REPAIR packet overwrites divergent entries of a member's alternate bank. -/
  | repair (slot : BitVec 12) (m : RepairMsg)
  /-- COMMIT (R196). A COMMIT pass reaches a member, which increments CN and releases held packets. -/
  | commit (p : Packet)
  /-- ABORT (R198). A member receives or originates ABORT, discard-drains and replays or reports the step. -/
  | abort (p : Packet)
  /-- PEER_LOST (R199). COMMIT_LIMIT fc pass without round progress and the member sends ABORT with PEER_LOST. -/
  | peerLost (slot : BitVec 12)
  /-- GO (R384). A GO pass reaches a member and starts its replayed attempt or its re-shard moves. -/
  | go (p : Packet)
  /-- REDUCE (R330). A REDUCE packet arrives and the engine adds its local tile and sends the running value on. -/
  | reduce (p : Packet)
  /-- GATHER_PACKET (R330). A GATHER packet delivers a final gradient value, which is kept and passed on. -/
  | gatherPacket (p : Packet)
  /-- GRAD (R337). A reduced gradient tile arrives at the shard's owner for quantisation. -/
  | grad (p : Packet)
  /-- SHARD_REQ (R337). A request for working-copy tiles arrives at the shard's owner. -/
  | shardReq (p : Packet)
  /-- SHARD (R337). Working-copy tiles arrive and are staged with a shard record. -/
  | shard (p : Packet)
  /-- RELAY (R329). A RELAY packet is delivered as tokens per the landing table and forwarded while FWD remains. -/
  | relay (p : Packet)
  /-- MOVE (R345). A MOVE packet of a re-shard is written into reserved granules and checked. -/
  | move (p : Packet)
  /-- FENCE_ROUND (R344). After its fence wait a member reserves granules and joins the fence round. -/
  | fenceRound (slot : BitVec 12)
  /-- FENCE_PASS (R344). A FENCE pass reaches a member carrying layout, MAPCRC and result. -/
  | fencePass (p : Packet)
  /-- SWITCH_PASS (R346). A SWITCH pass reaches a member, which installs the new layout in one fc. -/
  | switchPass (p : Packet)
  /-- LINK_ENABLE (R304). Writing LINK_CTL.EN = 1 starts training a Wale port. -/
  | linkEnable (f : FnAddr) (port : PortNo)
  /-- LINK_DISABLE (R304). Writing LINK_CTL.EN = 0 takes the port DOWN and, if it was UP, sends BREAK. -/
  | linkDisable (f : FnAddr) (port : PortNo)
  /-- TRAINING_DONE (R304). Link training and the lane test end and the port enters HELLO or LOST. -/
  | trainingDone (port : PortNo) (txBad : Word) (rxBad : Word)
  /-- HELLO (R304). A HELLO block arrives and the partner's coordinate is checked. -/
  | hello (port : PortNo) (m : LinkMsg)
  /-- HELLO_ECHO (R304). A HELLO_ECHO block arrives, giving the channel excess and match state. -/
  | helloEcho (port : PortNo) (m : LinkMsg) (excess : Nat)
  /-- HELLO_TIMER (R304). The HELLO repeat interval expires and HELLO is sent again. -/
  | helloTimer (port : PortNo)
  /-- BLOCK_RECEIVE (R309). A 272-byte block arrives at a receiving half and is accepted, consumed or failed. -/
  | blockReceive (port : PortNo) (a : Arrival) (fecCorr : Nat) (fecUncorr : Nat) (badLanes : Word)
  /-- RESEND_TIMEOUT (R310). 2,048 fc without ASEQ change make the sender resend from its oldest unacknowledged block. -/
  | resendTimeout (port : PortNo)
  /-- RETRAIN_RECEIVED (R312). A RETRAIN LINK block arrives and the lane test starts. -/
  | retrainReceived (port : PortNo) (m : LinkMsg)
  /-- RETRAIN (R312). Writing LINK_CTL.RETRAIN = 1 starts a retrain of an UP port. -/
  | retrain (f : FnAddr) (port : PortNo)
  /-- LANE_TEST_END (R312). The 8,192 fc lane test ends, lanes are retired and the halves resume. -/
  | laneTestEnd (port : PortNo) (txBad : Word) (rxBad : Word)
  /-- BREAK (R316). A BREAK block arrives and the axis is set to LINE or SPLIT. -/
  | breakBlock (port : PortNo) (m : LinkMsg)
  /-- TORUS_COORD (R303). Write of the package coordinate, effective only with all ports DOWN and an operator session. -/
  | torusCoord (f : FnAddr) (value : Word)
  /-- TORUS_LEN (R303). Write of the axis lengths, effective only with all ports DOWN and an operator session. -/
  | torusLen (f : FnAddr) (value : Word)
  /-- PORT_RESET (R261). PERST#, Surprise Down or Hot Reset resets every function of one host port. -/
  | portReset (port : BitVec 1) (kind : PortResetKind)
  /-- FUNCTION_LEVEL_RESET (R261). An FLR resets one VF, or the PF and all VFs of its port. -/
  | functionLevelReset (f : FnAddr)
  /-- D3HOT (R264). A function entering D3hot has its session closed. -/
  | d3hot (f : FnAddr) (enter : Bool)
  /-- OPEN (R269). Mailbox OPEN latches the key entry and nonce and issues a device nonce. -/
  | openMb (f : FnAddr) (seq : Byte)
  /-- PROVE (R271). Mailbox PROVE checks the host proof and opens the session. -/
  | proveMb (f : FnAddr) (seq : Byte)
  /-- CLOSE (R274). Mailbox CLOSE ends a challenge or drains and closes an open session. -/
  | closeMb (f : FnAddr) (seq : Byte)
  /-- PASSWORD (R273). Mailbox PASSWORD opens a SERVICE session against the verifier. -/
  | passwordMb (f : FnAddr) (seq : Byte)
  /-- MB_COMMAND_END (R268). A mailbox command in BUSY or CLOSING ends and writes SEQ, RESULT and STATE. -/
  | mbCommandEnd (f : FnAddr)
  /-- AUTH_EXPIRED (R271). A challenge takes no PROVE within 16,777,216 mc and returns to NONE. -/
  | authExpired (f : FnAddr)
  /-- LOCK_EXPIRY (R272). A key-entry or SERVICE lock-out time ends. -/
  | lockExpiry (key : BitVec 11)
  /-- RING_ENABLE (R278). Writing RING_CTL.ENABLE = 1 enables a ring if a session is open. -/
  | ringEnable (f : FnAddr) (value : BitVec 31)
  /-- RING_DISABLE (R297). Writing RING_CTL.ENABLE = 0 stops fetching and completes fetched descriptors. -/
  | ringDisable (f : FnAddr) (value : BitVec 31)
  /-- FN_RINGS (R277). The PF assigns a function its contiguous ring range. -/
  | fnRings (f : FnAddr) (value : Word)
  /-- DOORBELL_POLL (R283). The poll period expires and the device reads level 0, level 1 and doorbell words and starts fetches. -/
  | doorbellPoll (f : FnAddr) (r : PollRead)
  /-- DESCRIPTOR_FETCH (R284). A descriptor read completes and its descriptors become ready for decision. -/
  | descriptorFetch (ring : BitVec 14) (r : FetchRead)
  /-- NOP (R289). Descriptor that completes when accepted. -/
  | nop (o : DescOp)
  /-- LOAD_PATTERN (R131). Loads a pattern's context images (and fold table) into a partition. -/
  | loadPattern (o : DescOp)
  /-- EVICT (R136). Discards a context's tokens and makes its slots non-resident. -/
  | evict (o : DescOp)
  /-- SWITCH (R129). Switches a SWITCHING partition to a resident context, optionally after a run drain. -/
  | switch (o : DescOp)
  /-- RUN (R173). Admits a slot's problem list and runs N training steps. -/
  | run (o : DescOp)
  /-- COPY_IN (R464). Copies host data into a tier region, optionally converting and checking. -/
  | copyIn (o : DescOp)
  /-- COPY_OUT (R464). Copies tier data to a host buffer, optionally converting and appending a check. -/
  | copyOut (o : DescOp)
  /-- CHECKPOINT (R292). Writes a checkpoint image of the visible bank to a host buffer. -/
  | checkpoint (o : DescOp)
  /-- RESTORE (R292). Restores a checkpoint image into the visible bank and sets CN. -/
  | restore (o : DescOp)
  /-- RESHARD (R343). Starts a re-shard to a new layout after the fence wait. -/
  | reshard (o : DescOp) (table : List UpdEntry)
  /-- FENCE (R287). Completes when every earlier descriptor of its ring has completed. -/
  | fence (o : DescOp)
  /-- COMMIT_POLICY (R195). Sets a slot's placement, NaR action, repair and host buffers. -/
  | commitPolicy (o : DescOp)
  /-- PROBLEM (R291). Carries one problem-list entry consumed by a service-mode RUN. -/
  | problem (o : DescOp)
  /-- DOMAIN_CREATE (R463). Creates a domain with all limits 0. -/
  | domainCreate (o : DescOp)
  /-- DOMAIN_REMOVE (R224). Removes a domain that holds no granules. -/
  | domainRemove (o : DescOp)
  /-- QUOTA_SET (R223). Sets a domain's limit in one quota tier. -/
  | quotaSet (o : DescOp)
  /-- SLOT_CREATE (R222). Creates a slot, stores its pattern and allocates its regions as a whole. -/
  | slotCreate (o : DescOp) (pat : Pattern)
  /-- SLOT_REMOVE (R224). Evicts a slot and releases its regions. -/
  | slotRemove (o : DescOp)
  /-- REGION_ALLOC (R207). Allocates a buffer region at the lowest free GIDX run. -/
  | regionAlloc (o : DescOp)
  /-- REGION_RELEASE (R224). Releases a buffer region named by its first granule. -/
  | regionRelease (o : DescOp)
  /-- PART_CREATE (R109). Creates a partition of clusters in a given mode. -/
  | partCreate (o : DescOp)
  /-- PART_RESIZE (R109). Changes a partition's cluster map. -/
  | partResize (o : DescOp)
  /-- PART_REMOVE (R109). Removes a partition that no slot names. -/
  | partRemove (o : DescOp)
  /-- PART_MODE (R112). Changes a partition's reconfiguration mode. -/
  | partMode (o : DescOp)
  /-- PS_SIZE (R210). Sets the size of a Slath's pattern store in banks. -/
  | psSize (o : DescOp)
  /-- SERVICE_ENTER (R266). Enters service mode for the package. -/
  | serviceEnter (o : DescOp)
  /-- SERVICE_LEAVE (R266). Leaves service mode. -/
  | serviceLeave (o : DescOp)
  /-- DESCRIPTOR_COMPLETE (R294). A descriptor's operation finishes and its report, completion entry and MSI-X are written. -/
  | descriptorComplete (ring : BitVec 14)
  /-- MODERATION_TIMER (R296). MOD_TIME expires and unsignalled completions are signalled. -/
  | moderationTimer (ring : BitVec 14)
  /-- TIER_READ (R218). A tier read completes, is retried once on an uncorrectable error, or fails. -/
  | tierRead (o : TierReadOp)
  /-- GRANULE_ZEROING (R209). A rim die zeroes a released granule in idle channel cycles. -/
  | granuleZeroing (tier : BitVec 2) (gran : BitVec 19)
  /-- ARBITRATION (R358). An arbiter grants, parks or refuses requests presented in an fc. -/
  | arbitration (o : ArbOp)
  /-- WITHDRAW (R359). A requester withdraws a parked or just-granted request. -/
  | withdraw (cls : BitVec 4) (index : BitVec 12) (input : BitVec 4)
  /-- HOP_CRC (R372). A flit fails its hop CRC and its resend slot, giving a DIE fault or UNCOVERED. -/
  | hopCrc (place : HopPlace) (first : Bool) (again : Bool)
  /-- SRAM_UNCORRECTABLE (R71, R85, R373). An SECDED error: a corrected one is counted, an uncorrectable one aborts the attempts that use the word. -/
  | sramUncorrectable (e : SramError)
  /-- HEARTBEAT (R374). A heartbeat period passes and missed heartbeats are counted. -/
  | heartbeat (die : Byte) (received : Bool)
  /-- SELF_TEST (R375). An engine self-test runs in a test gap and is compared with its signature. -/
  | selfTest (core : BitVec 12) (engine : BitVec 2) (pass : Bool)
  /-- DIE_FAULT (R378). A DIE fault is contained: fences, power gating, discard drain and ABORT REPLAY. -/
  | dieFault (die : BitVec 6) (detect : BitVec 4)
  /-- SPARE_SUBSTITUTION (R385). Handle powers the spare of the same kind for the fenced logical position. -/
  | spareSubstitution (die : BitVec 6)
  /-- SPARE_POWERED (R385). The spare completes power-up and training and its contexts are loaded. -/
  | sparePowered (o : SpareOp)
  /-- RIM_FAULT (R228). A rim die is fenced and its stacks and channels leave service. -/
  | rimFault (rim : BitVec 3) (detect : BitVec 4)
  /-- TAKEOVER (R394). The standby Handle die takes the ownership latch and assumes all Handle roles. -/
  | takeover
  /-- ACK_TIMEOUT (R393). The standby fails to acknowledge a protected-state change in 6,000 mc and is lost. -/
  | ackTimeout
  /-- STANDBY_SYNC (R393). A Handle die completes receipt of the protected state and becomes standby. -/
  | standbySync (die : BitVec 1)
  /-- REQUEST_UPDATE (R410). PLDM RequestUpdate starts a live update of the Handle image. -/
  | requestUpdate (image : ImageSt)
  /-- REBOOT_TIMEOUT (R411). A die still rebooting 600 ms after its reboot started is lost. -/
  | rebootTimeout (die : BitVec 1)
  /-- COLD_RESET (R445). Assertion of COLD_RST_N with main power present discards all device state. -/
  | coldReset
  /-- COLD_RESET_RELEASE (R399). Release of COLD_RST_N samples configuration lands and starts boot stage 1. -/
  | coldResetRelease (busSel : Bool) (ownN : Bool) (testN : Bool)
  /-- ROOT_LOCK (R254). The root PLL locks and the cycle counters start at the next epoch edge. -/
  | rootLock
  /-- LATCH_DECISION (R392). H0 sends its first heartbeat in time or the 200 ms limit passes and H1 takes the latch. -/
  | latchDecision (h0 : Bool)
  /-- BOOT_STAGE_END (R399). A Handle boot stage completes and the next begins. -/
  | bootStageEnd
  /-- READY (R400). Boot stage 5 ends and every mailbox becomes NONE. -/
  | ready
  /-- SENSOR_SAMPLE (R401). A sensor sampling period expires and the sensor is read. -/
  | sensorSample (index : BitVec 9) (value : Int)
  /-- SMBALERT (R402). SMBALERT# is asserted and Handle reads the stage's STATUS_WORD. -/
  | smbalert (stage : BitVec 7) (fault : Bool)
  /-- VOUT_COMMAND (R402). Handle sets a VCORE rail by PMBus VOUT_COMMAND. -/
  | voutCommand (rail : BitVec 2) (mv : BitVec 10)
  /-- DERATE (R253). At the end of each 1 ms the thermal limit is lowered or raised by junction temperature. -/
  | derate
  /-- POWER_CORRECTION (R253). Every 10 ms the budget is lowered by measured power above prediction. -/
  | powerCorrection (measured : BitVec 16)
  /-- MG_CHALLENGE (R405). Returns a 32-byte nonce for MG_AUTH. -/
  | mgChallenge
  /-- MG_AUTH (R405). Proves the owner key and completes the management session. -/
  | mgAuth (mac : BitVec 256)
  /-- MG_OWN (R406). Sets the owner key when MGMT_OWN_N was low. -/
  | mgOwn (mkey : BitVec 256)
  /-- KEY_SET (R407). Writes a key entry and closes sessions of a replaced entry. -/
  | keySet (keyId : BitVec 16) (role : Byte) (domain : Byte) (key : BitVec 256)
  /-- KEY_CLEAR (R407). Removes a key entry and closes its sessions. -/
  | keyClear (keyId : BitVec 16)
  /-- PW_SET (R406). Replaces the SERVICE password verifier. -/
  | pwSet (password : List Byte)
  /-- LOCK_RESET (R406). Clears a lock-out and failure count. -/
  | lockReset (keyId : BitVec 16)
  /-- BOARD_SET (R403). Writes the board record, including the board limit. -/
  | boardSet (r : BoardRec)
  /-- BOARD_GET (R406). Returns the board record. -/
  | boardGet
  /-- TIME_MARK (R404). Logs a host time value with the mc counter. -/
  | timeMark (time : DWord) (format : Byte)
  /-- LOG_READ (R406). Management command returning an event-log entry by SEQ. -/
  | logRead (seq : DWord)
  /-- KEY_EXCHANGE (R405). SPDM KEY_EXCHANGE opens a secured session, or fails Busy if a management session is open. -/
  | keyExchange (reqId : BitVec 16)
  /-- FINISH (R405). SPDM FINISH completes the secured session handshake. -/
  | finish (valid : Bool)
  /-- SET_CERTIFICATE (R408). Installs the owner certificate chain in slot 1. -/
  | setCertificate (chain : List Byte)
  /-- HM_LOG_READ (R413). HM_CMD LOG_READ returns an event-log entry to the host. -/
  | hmLogRead (f : FnAddr) (seq : Byte)
  /-- SENSOR_READ (R413). HM_CMD SENSOR_READ returns one sensor value. -/
  | sensorRead (f : FnAddr) (seq : Byte)
  /-- LOG_HEAD (R413). HM_CMD LOG_HEAD returns the newest SEQ. -/
  | logHead (f : FnAddr) (seq : Byte)
  /-- HM_COMMAND_END (R413). A HANDLE mailbox command completes and writes HM_STATUS and data. -/
  | hmCommandEnd
  /-- CONV_SEL (R37). Write snapshots a slot's conversion counters. -/
  | convSel (f : FnAddr) (value : Word)
  /-- CONV_CLR (R37). Write clears the live conversion counters of the selected slot. -/
  | convClr (f : FnAddr) (value : Word)
  /-- STEP_SEL (R204). Write snapshots a slot's step registers. -/
  | stepSel (f : FnAddr) (value : Word)
  /-- DEV_SEL (R256). Write snapshots a slot's deviation counters. -/
  | devSel (f : FnAddr) (value : Word)
  /-- QUOTA_SEL (R232). Write snapshots a domain's quota limits and usage. -/
  | quotaSel (f : FnAddr) (value : Word)
  /-- TIER_SLOT_SEL (R232). Write snapshots a slot's tier counters. -/
  | tierSlotSel (f : FnAddr) (value : Word)
  /-- TIER_CH_SEL (R232). Write snapshots a channel's tier counters. -/
  | tierChSel (f : FnAddr) (value : Word)
  /-- LAYOUT_SEL (R348). Write snapshots a slot's layout registers. -/
  | layoutSel (f : FnAddr) (value : Word)
  /-- ARB_SEL (R364). Write snapshots an arbiter's status and counters. -/
  | arbSel (f : FnAddr) (value : Word)
  /-- ARB_CTL (R362). Sets or clears the software freeze of the selected arbiter. -/
  | arbCtl (f : FnAddr) (value : Word)
  /-- RING_SEL (R434). Selects a ring and reloads the holding registers of its pairs. -/
  | ringSel (f : FnAddr) (value : Word)
  /-- PAIR_COMMIT (R434). A write of the HI half commits a 64-bit pair with its held LO. -/
  | pairCommit (f : FnAddr) (pair : PairReg) (hi : Word)
  /-- CYC_SNAP (R255). Write captures the four cycle counters. -/
  | cycSnap (f : FnAddr) (value : Word)
  /-- FLAG_CLEAR (R367). Writing 1 to a W1C event flag clears it and its occurrence count. -/
  | flagClear (f : FnAddr) (block : FlagBlock) (value : Word)
  /-- CHK_CTL (R355). Writes a check set's control; EN = 1 binds a buffer and sets FRESH. -/
  | chkCtl (f : FnAddr) (unit : BitVec 5) (value : Word)
  /-- CHK_RUN (R353). Commit of CHK_RUN_HI sets the running value and clears FRESH. -/
  | chkRun (f : FnAddr) (unit : BitVec 5) (hi : Word)
  /-- PERT_CTL (R415). Write of EN enables perturbation and records the owning session. -/
  | pertCtl (f : FnAddr) (value : Word)
  /-- PT_SEL (R428). Selects a perturbation point for the PT_ registers. -/
  | ptSel (f : FnAddr) (value : Word)
  /-- PT_CTL (R417). Arms a perturbation point of a given kind and mode. -/
  | ptCtl (f : FnAddr) (value : Word)
  /-- PT_SEED (R418). Write loads the point's generator from the seed. -/
  | ptSeed (f : FnAddr) (value : Word)
  /-- QDELAY_RELEASE (R419). A token's QDELAY hold time ends and it is checked and enqueued. -/
  | qdelayRelease (core : BitVec 12) (q : BitVec 4)
  /-- LPBK_CTL (R424). Starts or stops a Wale port loopback in NEAR or BLOCK mode. -/
  | lpbkCtl (f : FnAddr) (value lanes errors : Word)
  /-- PHYLOOP (R425). BIST_CTL starts a memory PHY loopback on an idle target. -/
  | phyloop (f : FnAddr) (tkind : BitVec 2) (target : BitVec 9)
  /-- MARCH (R426). BIST_CTL starts March C- over an idle target. -/
  | march (f : FnAddr) (tkind : BitVec 2) (target : BitVec 9)
  /-- BIST_END (R426). A memory loopback or BIST completes, retiring failing granules and zeroing the target. -/
  | bistEnd (fails : List (BitVec 19)) (failed : Bool)
  /-- REGISTER_WRITE (R432). A write to a register without behaviour of its own sets its RW fields if permitted. -/
  | registerWrite (f : FnAddr) (place : RegPlace) (offset : BitVec 24) (value : Word)
  /-- THERM_TRIP (R455). A sensor reaches its trip temperature and the device shuts down. -/
  | thermTrip (sensor : BitVec 9)
  /-- PLL_LOSS (R455). The root PLL loses lock and the device shuts down. -/
  | pllLoss
  /-- SYSREF_LOSS (R450). SYSREF_CLK leaves its window and the device shuts down. -/
  | sysrefLoss
  /-- CORE_UV (R455). A VCORE monitor is under its set-point for 2 µs and the device shuts down. -/
  | coreUv (sensor : BitVec 9)
  /-- CORE_OV (R455). A VCORE monitor is over its limit for 2 µs and the device shuts down. -/
  | coreOv (sensor : BitVec 9)
  /-- POWER_LOSS (R448). Main power is lost in any order and all volatile state is gone. -/
  | powerLoss
  /-- DESCRIPTOR_FILL (R290). The FILL descriptor (opcode 0x07) writes LENGTH bytes of repeated VALUE into a tier region, reaching both mirror copies and marking the slot WC-stale when it writes W. -/
  | descriptorFill (o : DescOp)
  /-- PERST_RELEASE (R446). Release of PERST_A_N or PERST_B_N lets its port start link training, at the later of that release and the end of boot stage 2. -/
  | perstRelease (port : BitVec 1)
  /-- MB_CMD (R268). A write of MB_CMD with OP 0x00 or an undefined OP ends at once with RESULT BAD_OPCODE and sends MSI-X vector 0. -/
  | mbCmd (f : FnAddr) (value : Word)
  /-- HM_CMD (R413). A write of HM_CMD with an undefined OP completes with BAD_OPCODE. -/
  | hmCmd (f : FnAddr) (value : Word)
  /-- END_SESSION (R405). An SPDM END_SESSION ends the secured session and with it the management session, so a later KEY_EXCHANGE can succeed. -/
  | endSession
  /-- SET_ENDPOINT_ID (R394). The MCTP bus owner assigns the management target's endpoint ID, which the active Handle die keeps across a takeover. -/
  | setEndpointId (eid : Byte)
  /-- IMAGE_WRITTEN (R410). During a live update, a die finishes writing and verifying the new image in its inactive slot, writes BOOTSEL and starts its reboot. -/
  | imageWritten (die : BitVec 1) (verified : Bool)
  /-- TAP (R427). An IEEE 1149.1 TAP operation on TCK, TMS, TDI and TRST_N shifts BYPASS, SAMPLE/PRELOAD, IDCODE or EXTEST, and EXTEST drives the VIO lands when TEST_MODE_N was low. -/
  | tap (o : TapOp)
  deriving DecidableEq, Repr

end Sys2Proof
end

