-- ==== Sys2Proof/Config.lean ====
section
/-! DEFINITION. What an implementation fixes and what the spec leaves open: constants without a body. -/

namespace Sys2Proof.Config

/-- Which of the two bracketing target values a conversion out of a log format takes (R29): an
open choice, one answer for each pair of target format code and L16 code, the same in every
location (R23). Log entry 4. -/
opaque faithfulUp : Nat → Nat → Bool

/-- Deviation of the LEXP constant from log2 e · 256, in units of 2^-64 (R101 bounds it). Log entry 5. -/
opaque lexpDeviation : Int

/-- The FP32 code LLOG answers for an L16 field, where it meets the bound of Table 05.7. Log entry 5. -/
opaque llogCode : Nat → Word

/-- The code a special-function micro-sequence writes (R103): operation, row inputs, element. It is taken where
it meets the bound of Table 05.8, and where no code of the format meets it. Log entry 6. -/
opaque sfuCode : Nat → List Nat → Nat → Word

/-- Whether LCMPLT writes 1 where an operand is NaR: the two codes (R100 states no predicate). Log entry 5. -/
opaque lcmpNaR : Nat → Nat → Bool

/-- The word IMOD writes for an index where the table has no rows (R106 states no result). Log entry 10. -/
opaque imodZero : Nat → Word

/-- Random bytes of Handle's generator (R269, R405, Table 17.7): draw number, byte index. Log entry 7. -/
opaque randomByte : Nat → Nat → Byte

/-- The session identifier the device picks for a draw (R271 asks only that it is free). Log entry 7. -/
opaque sessionId : Nat → Nat

/-- Byte read from an address whose contents the spec calls undefined (R174, R211, R354): draw
number, index. Log entry 8. -/
opaque undefinedByte : Nat → Nat → Byte

/-- The fused serial number (Table 19.7). Log entry 9. -/
opaque serial : DWord

/-- The manufacturer identity code of the JTAG IDCODE (R427). Log entry 9. -/
opaque jtagManufacturer : BitVec 11

/-- The package idle power in W that Handle measures at a boot (R251): boot count. Log entry 9. -/
opaque idlePower : Nat → Nat

/-- SHA-256 digest of a measured content whose bytes the spec does not give (R409): index of Table 17.8, and what identifies the
content. Log entry 138. -/
opaque measured : Nat → List Nat → BitVec 256

/-- The board limit in W before BOARD_SET has written a record (R251, R403). Log entry 9. -/
opaque factoryBoardLimit : Nat

/-- The fused minimum VCORE in mV for 600 MHz (R402), at most the 750 mV at which a stage starts (Table 20.1). Log entry 9. -/
opaque vcoreMin : Fin 751

/-- VERSION, SVN, STATE_MIN and STATE_VER of the image a die holds from manufacture: die, slot, field. Log entry 9. -/
opaque factoryImage : Nat → Nat → Nat → Nat

end Sys2Proof.Config
end

