-- ==== Sys2Proof/Machine/Bits.lean ====
section
/-! DEFINITION. Bit fields, byte order and the operations of sparse tables. -/

namespace Sys2Proof.Machine

/-- Bits [hi:lo] of a number (R4: bit 0 is the least significant). -/
def bits (x hi lo : Nat) : Nat := x / 2 ^ lo % 2 ^ (hi + 1 - lo)

/-- Bit i of a number. -/
def bit (x i : Nat) : Bool := x / 2 ^ i % 2 == 1

/-- 0 or 1. -/
def boolNat (b : Bool) : Nat := if b then 1 else 0

/-- The n low bytes of a number, byte 0 first (R5). -/
def bytesLE : Nat → Nat → List Byte
  | 0, _ => []
  | n + 1, x => BitVec.ofNat 8 x :: bytesLE n (x / 256)

/-- The number of a little-endian byte list (R5). -/
def ofBytesLE : List Byte → Nat
  | [] => 0
  | b :: bs => b.toNat + 256 * ofBytesLE bs

/-- The n bytes from offset off, as a little-endian number; bytes beyond the end count as 0. -/
def fieldLE (bs : List Byte) (off n : Nat) : Nat := ofBytesLE ((bs.drop off).take n)

/-- Quotient rounded up. -/
def ceilDiv (a b : Nat) : Nat := (a + b - 1) / b

/-- A sum that stays at 2^32 - 1 once it reaches it. -/
def satAdd32 (a n : Nat) : Nat := min (a + n) 0xFFFFFFFF

/-- A sum that stays at 2^64 - 1 once it reaches it. -/
def satAdd64 (a n : Nat) : Nat := min (a + n) 0xFFFFFFFFFFFFFFFF

/-- The value of a key in a sparse table, `d` where the table does not list it. -/
def mget {α : Type} (d : α) : SMap α → Nat → α
  | [], _ => d
  | (k, v) :: m, i => if k = i then v else mget d m i

/-- Whether a sparse table lists a key. -/
def mhas {α : Type} (m : SMap α) (i : Nat) : Bool := m.any (fun p => p.1 == i)

/-- Remove a key. -/
def merase {α : Type} : SMap α → Nat → SMap α
  | [], _ => []
  | (k, v) :: m, i => if k = i then merase m i else (k, v) :: merase m i

/-- Insert a value at a key, keys rising. -/
def minsert {α : Type} : SMap α → Nat → α → SMap α
  | [], i, v => [(i, v)]
  | (k, w) :: m, i, v =>
    if i < k then (i, v) :: (k, w) :: m
    else if i = k then (i, v) :: m
    else (k, w) :: minsert m i v

/-- Write a key: the default removes the entry, any other value is listed. -/
def mset {α : Type} [DecidableEq α] (d : α) (m : SMap α) (i : Nat) (v : α) : SMap α :=
  if v = d then merase m i else minsert m i v

/-- Change the value of a key. -/
def mupd {α : Type} [DecidableEq α] (d : α) (m : SMap α) (i : Nat) (f : α → α) : SMap α :=
  mset d m i (f (mget d m i))

/-- Write consecutive keys from `i`. -/
def msetList {α : Type} [DecidableEq α] (d : α) (m : SMap α) (i : Nat) : List α → SMap α
  | [] => m
  | v :: vs => msetList d (mset d m i v) (i + 1) vs

/-- The values of n consecutive keys from `i`. -/
def mgetList {α : Type} (d : α) (m : SMap α) (i : Nat) : Nat → List α
  | 0 => []
  | n + 1 => mget d m i :: mgetList d m (i + 1) n

/-- Every listed key is above `i`. -/
def mabove {α : Type} (i : Nat) : SMap α → Bool
  | [] => true
  | (k, _) :: _ => decide (i < k)

/-- The canonical form: keys strictly rising, no listed value equal to the default. -/
def mwf {α : Type} [DecidableEq α] (d : α) : SMap α → Bool
  | [] => true
  | (k, v) :: m => decide (v ≠ d) && mabove k m && mwf d m

/-- The least number from `i` up that the predicate does not rule out, among `fuel` numbers. -/
def firstFree (taken : Nat → Bool) (i : Nat) : Nat → Option Nat
  | 0 => none
  | f + 1 => if taken i then firstFree taken (i + 1) f else some i

/-- Element i of a list, `d` beyond its end. -/
def nth {α : Type} (d : α) (l : List α) (i : Nat) : α := l.getD i d

/-- Set element i of a list; nothing beyond its end. -/
def setNth {α : Type} (l : List α) (i : Nat) (v : α) : List α := l.set i v

/-- Keep the last n elements of a log. -/
def keepLast {α : Type} (n : Nat) (l : List α) : List α := l.drop (l.length - n)

end Sys2Proof.Machine
end

