-- ==== Sys2Proof/Machine/Float.lean ====
section
/-! DEFINITION. Exact dyadic arithmetic, the boundary formats and correctly rounded FP32 operations
(R22, R96, R190; *Number Formats and Conversion*, *Cores, Vector Units and Sequencers*). -/

namespace Sys2Proof.Machine

/-- The real number m · 2^e, held exactly. -/
structure Dy where
  m : Int
  e : Int
  deriving DecidableEq, Repr

/-- Bring two dyadics to one exponent: the two integers and the exponent. -/
def dyAlign (a b : Dy) : Int × Int × Int :=
  let e := min a.e b.e
  (a.m * 2 ^ (a.e - e).toNat, b.m * 2 ^ (b.e - e).toNat, e)

/-- Exact sum. -/
def dyAdd (a b : Dy) : Dy :=
  let (x, y, e) := dyAlign a b
  ⟨x + y, e⟩

/-- Exact negation. -/
def dyNeg (a : Dy) : Dy := ⟨-a.m, a.e⟩

/-- Exact product. -/
def dyMul (a b : Dy) : Dy := ⟨a.m * b.m, a.e + b.e⟩

/-- Exact magnitude. -/
def dyAbs (a : Dy) : Dy := ⟨a.m.natAbs, a.e⟩

/-- a < b. -/
def dyLt (a b : Dy) : Bool :=
  let (x, y, _) := dyAlign a b
  decide (x < y)

/-- a ≤ b. -/
def dyLe (a b : Dy) : Bool := !dyLt b a

/-- a = 0. -/
def dyIsZero (a : Dy) : Bool := a.m == 0

/-- The largest natural number whose square is at most n. -/
def isqrt (n : Nat) : Nat :=
  go n (Nat.log2 n / 2 + 1) 0
where
  go (n : Nat) : Nat → Nat → Nat
    | 0, acc => acc
    | i + 1, acc =>
      let t := acc + 2 ^ i
      if t * t ≤ n then go n i t else go n i acc

/-- The formats of Table 05.5, with their codes. -/
inductive Fmt where
  | fp32 | bf16 | fp16 | e4m3 | e5m2 | int8 | int32 | l8 | l16
  deriving DecidableEq, Repr

/-- Table 05.5: the format of a 4-bit code; reserved codes give none. -/
def Fmt.ofCode : Nat → Option Fmt
  | 0 => some .fp32 | 1 => some .bf16 | 2 => some .fp16 | 3 => some .e4m3 | 4 => some .e5m2
  | 5 => some .int8 | 6 => some .int32 | 7 => some .l8 | 8 => some .l16
  | _ => none

/-- Table 05.5: the code of a format. -/
def Fmt.code : Fmt → Nat
  | .fp32 => 0 | .bf16 => 1 | .fp16 => 2 | .e4m3 => 3 | .e5m2 => 4
  | .int8 => 5 | .int32 => 6 | .l8 => 7 | .l16 => 8

/-- Width of a format in bytes (R155). -/
def Fmt.width : Fmt → Nat
  | .fp32 => 4 | .int32 => 4 | .bf16 => 2 | .fp16 => 2 | .l16 => 2
  | .e4m3 => 1 | .e5m2 => 1 | .int8 => 1 | .l8 => 1

/-- Exponent bits of a floating-point format. -/
def Fmt.ebits : Fmt → Nat
  | .fp32 => 8 | .bf16 => 8 | .fp16 => 5 | .e5m2 => 5 | .e4m3 => 4 | _ => 0

/-- Fraction bits of a floating-point format. -/
def Fmt.mbits : Fmt → Nat
  | .fp32 => 23 | .bf16 => 7 | .fp16 => 10 | .e5m2 => 2 | .e4m3 => 3 | _ => 0

/-- Exponent bias of a floating-point format. -/
def Fmt.bias (f : Fmt) : Nat := 2 ^ (f.ebits - 1) - 1

/-- Exponent of the smallest subnormal: the unit of the last place at the bottom of the range. -/
def Fmt.emin (f : Fmt) : Int := 1 - (f.bias : Int) - f.mbits

/-- The code of the largest finite magnitude (Table 02.3). -/
def Fmt.maxCode : Fmt → Nat
  | .fp32 => 0x7F7FFFFF | .bf16 => 0x7F7F | .fp16 => 0x7BFF | .e4m3 => 0x7E | .e5m2 => 0x7B
  | .int8 => 127 | .int32 => 0x7FFFFFFF | .l8 => 0x7F | .l16 => 0x7FFF

/-- The NaN code produced (Table 02.7; R33 gives 0 for integers; R18, R19 NaR). -/
def Fmt.nanCode : Fmt → Nat
  | .fp32 => 0x7FC00000 | .bf16 => 0x7FC0 | .fp16 => 0x7E00 | .e4m3 => 0x7F | .e5m2 => 0x7E
  | .int8 => 0 | .int32 => 0 | .l8 => 0x80 | .l16 => 0x8000

/-- Bit weight of the sign. -/
def Fmt.signBit (f : Fmt) : Nat := 2 ^ (8 * f.width - 1)

/-- What a boundary-format code stands for. -/
inductive Val where
  | nan
  | inf (neg : Bool)
  /-- ± m · 2^e; a zero keeps its sign. -/
  | fin (neg : Bool) (m : Nat) (e : Int)
  deriving DecidableEq, Repr

/-- The value of a floating-point code (R22). -/
def floatVal (f : Fmt) (c : Nat) : Val :=
  let neg := bit c (8 * f.width - 1)
  let ex := c / 2 ^ f.mbits % 2 ^ f.ebits
  let fr := c % 2 ^ f.mbits
  if f = .e4m3 then
    if ex = 15 ∧ fr = 7 then .nan
    else if ex = 0 then .fin neg fr f.emin
    else .fin neg (2 ^ f.mbits + fr) (f.emin + ex - 1)
  else if ex = 2 ^ f.ebits - 1 then (if fr = 0 then .inf neg else .nan)
  else if ex = 0 then .fin neg fr f.emin
  else .fin neg (2 ^ f.mbits + fr) (f.emin + ex - 1)

/-- Two's-complement value of the low n bits. -/
def signedVal (n c : Nat) : Int :=
  let x := c % 2 ^ n
  if x < 2 ^ (n - 1) then (x : Int) else (x : Int) - 2 ^ n

/-- Low n bits of an integer, as two's complement. -/
def toTwos (n : Nat) (x : Int) : Nat := (x % (2 ^ n : Int)).toNat

/-- The value of an integer code. -/
def intVal (f : Fmt) (c : Nat) : Val :=
  let x := signedVal (8 * f.width) c
  .fin (decide (x < 0)) x.natAbs 0

/-- Round m · 2^e (plus something below one unit of it, where `sticky`) to `p` bits with least
exponent `emin`, to nearest, ties to even, as if the exponent range were unbounded above (R96). -/
def roundNE (p : Nat) (emin : Int) (m : Nat) (e : Int) (sticky : Bool) : Nat × Int :=
  if m = 0 then (0, emin) else
  let q := max (e + Nat.log2 m + 1 - p) emin
  if q ≤ e then (m * 2 ^ (e - q).toNat, q) else
  let d := (q - e).toNat
  let lo := m / 2 ^ d
  let r := m % 2 ^ d
  let half := 2 ^ (d - 1)
  if r > half ∨ (r = half ∧ (sticky = true ∨ lo % 2 = 1)) then (lo + 1, q) else (lo, q)

/-- The code of ± m · 2^q for a value already rounded into the format and within its range. -/
def encodeFloat (f : Fmt) (neg : Bool) (m : Nat) (q : Int) : Nat :=
  let s := if neg then f.signBit else 0
  let (m, q) := if m = 2 ^ (f.mbits + 1) then (2 ^ f.mbits, q + 1) else (m, q)
  if m < 2 ^ f.mbits then s + m
  else s + (q - f.emin + 1).toNat * 2 ^ f.mbits + (m - 2 ^ f.mbits)

/-- Largest finite magnitude of a floating-point format. -/
def maxFinite (f : Fmt) : Dy :=
  match floatVal f f.maxCode with
  | .fin _ m e => ⟨m, e⟩
  | _ => ⟨0, 0⟩

/-- A converted or computed code and the events it raises (R35). -/
structure Cvt where
  code : Nat
  sat  : Bool := false
  ufl  : Bool := false
  nar  : Bool := false
  deriving DecidableEq, Repr

/-- Round ± m · 2^e (with sticky part) into a floating-point format: correctly rounded, saturated with
SAT where the rounded result exceeds the largest finite value (R96, R99). -/
def roundFloat (f : Fmt) (neg : Bool) (m : Nat) (e : Int) (sticky : Bool) : Cvt :=
  let (m', q) := roundNE (f.mbits + 1) f.emin m e sticky
  let mx := maxFinite f
  if dyLt mx ⟨m', q⟩ then { code := (if neg then f.signBit else 0) + f.maxCode, sat := true }
  else { code := encodeFloat f neg m' q }

/-- The FP32 NaN the device produces. -/
def qnan : Nat := 0x7FC00000

/-- FP32 value of a code. -/
def f32 (c : Nat) : Val := floatVal .fp32 c

/-- Round an exact dyadic into FP32; `zneg` is the sign of an exact zero. -/
def roundDy32 (zneg : Bool) (d : Dy) (sticky : Bool := false) : Cvt :=
  if d.m = 0 then { code := if zneg then 0x80000000 else 0 }
  else roundFloat .fp32 (decide (d.m < 0)) d.m.natAbs d.e sticky

/-- Signed dyadic of a finite value. -/
def finDy (neg : Bool) (m : Nat) (e : Int) : Dy := ⟨if neg then -(m : Int) else m, e⟩

/-- FP32 infinity code. -/
def infCode (neg : Bool) : Nat := if neg then 0xFF800000 else 0x7F800000

/-- FP32 fused multiply-add a·b + c with one rounding (R96). -/
def fpFma (a b c : Nat) : Cvt :=
  match f32 a, f32 b, f32 c with
  | .nan, _, _ => { code := qnan }
  | _, .nan, _ => { code := qnan }
  | _, _, .nan => { code := qnan }
  | .inf s, .inf t, .fin _ _ _ => { code := infCode (s != t) }
  | .inf s, .inf t, .inf u => { code := if (s != t) = u then infCode u else qnan }
  | .inf s, .fin t m _, .fin _ _ _ => { code := if m = 0 then qnan else infCode (s != t) }
  | .fin t m _, .inf s, .fin _ _ _ => { code := if m = 0 then qnan else infCode (s != t) }
  | .inf s, .fin t m _, .inf u =>
    { code := if m = 0 then qnan else if (s != t) = u then infCode u else qnan }
  | .fin t m _, .inf s, .inf u =>
    { code := if m = 0 then qnan else if (s != t) = u then infCode u else qnan }
  | .fin _ _ _, .fin _ _ _, .inf u => { code := infCode u }
  | .fin s m e, .fin t n g, .fin u k h =>
    let p := finDy (s != t) (m * n) (e + g)
    let d := dyAdd p (finDy u k h)
    roundDy32 (decide (m * n = 0 ∧ k = 0) && (s != t) && u) d

/-- FP32 addition (R96). -/
def fpAdd (a b : Nat) : Cvt :=
  match f32 a, f32 b with
  | .nan, _ => { code := qnan }
  | _, .nan => { code := qnan }
  | .inf s, .inf t => { code := if s = t then infCode s else qnan }
  | .inf s, .fin _ _ _ => { code := infCode s }
  | .fin _ _ _, .inf t => { code := infCode t }
  | .fin s m e, .fin t n g =>
    roundDy32 (decide (m = 0 ∧ n = 0) && s && t) (dyAdd (finDy s m e) (finDy t n g))

/-- Sign flip of an FP32 code. -/
def fpNeg (a : Nat) : Nat := if a < 0x80000000 then a + 0x80000000 else a - 0x80000000

/-- Magnitude of an FP32 code. -/
def fpAbs (a : Nat) : Nat := a % 0x80000000

/-- FP32 subtraction (R96). -/
def fpSub (a b : Nat) : Cvt := fpAdd a (fpNeg b)

/-- FP32 multiplication (R96). -/
def fpMul (a b : Nat) : Cvt :=
  match f32 a, f32 b with
  | .nan, _ => { code := qnan }
  | _, .nan => { code := qnan }
  | .inf s, .inf t => { code := infCode (s != t) }
  | .inf s, .fin t m _ => { code := if m = 0 then qnan else infCode (s != t) }
  | .fin t m _, .inf s => { code := if m = 0 then qnan else infCode (s != t) }
  | .fin s m e, .fin t n g => roundDy32 (s != t) (finDy (s != t) (m * n) (e + g))

/-- FP32 division (R190): x/0 is the IEEE result where an operand is infinite or a NaN; a non-zero
number over zero is infinite from finite operands, so it saturates (R96). -/
def fpDiv (a b : Nat) : Cvt :=
  match f32 a, f32 b with
  | .nan, _ => { code := qnan }
  | _, .nan => { code := qnan }
  | .inf _, .inf _ => { code := qnan }
  | .inf s, .fin t _ _ => { code := infCode (s != t) }
  | .fin s _ _, .inf t => { code := if (s != t) then 0x80000000 else 0 }
  | .fin s m e, .fin t n g =>
    if n = 0 then
      if m = 0 then { code := qnan }
      else { code := (if (s != t) then 0x80000000 else 0) + 0x7F7FFFFF, sat := true }
    else
      let q := m * 2 ^ 60 / n
      if m = 0 then { code := if (s != t) then 0x80000000 else 0 }
      else roundFloat .fp32 (s != t) q (e - 60 - g) (decide (m * 2 ^ 60 % n ≠ 0))

/-- FP32 square root (R190): a negative operand gives NaN and raises NAR. -/
def fpSqrt (a : Nat) : Cvt :=
  match f32 a with
  | .nan => { code := qnan }
  | .inf s => if s then { code := qnan, nar := true } else { code := infCode false }
  | .fin s m e =>
    if m = 0 then { code := a }
    else if s then { code := qnan, nar := true }
    else
      let (m2, e2) := if e % 2 = 0 then (m, e) else (m * 2, e - 1)
      let n := m2 * 2 ^ 64
      let r := isqrt n
      roundFloat .fp32 false r (e2 / 2 - 32) (decide (r * r ≠ n))

/-- FP32 reciprocal square root 1/√a, rounded once (R190): a zero is infinite from a finite operand and
saturates with its sign; a negative operand gives NaN and raises NAR. -/
def fpRsqrt (a : Nat) : Cvt :=
  match f32 a with
  | .nan => { code := qnan }
  | .inf s => if s then { code := qnan, nar := true } else { code := 0 }
  | .fin s m e =>
    if m = 0 then { code := (if s then 0x80000000 else 0) + 0x7F7FFFFF, sat := true }
    else if s then { code := qnan, nar := true }
    else
      let (m2, e2) := if e % 2 = 0 then (m, e) else (m * 2, e - 1)
      let n := 2 ^ 120 / m2
      let r := isqrt n
      roundFloat .fp32 false r (-60 - e2 / 2) (decide (r * r * m2 ≠ 2 ^ 120))

/-- IEEE 754 comparison a < b; a NaN compares false (R96). -/
def fpLt (a b : Nat) : Bool :=
  match f32 a, f32 b with
  | .nan, _ => false
  | _, .nan => false
  | .inf s, .inf t => s && !t
  | .inf s, .fin _ _ _ => s
  | .fin _ _ _, .inf t => !t
  | .fin s m e, .fin t n g => dyLt (finDy s m e) (finDy t n g)

/-- IEEE 754 comparison a = b. -/
def fpEq (a b : Nat) : Bool :=
  match f32 a, f32 b with
  | .nan, _ => false
  | _, .nan => false
  | .inf s, .inf t => s == t
  | .inf _, .fin _ _ _ => false
  | .fin _ _ _, .inf _ => false
  | .fin s m e, .fin t n g => dyIsZero (dyAdd (finDy s m e) (dyNeg (finDy t n g)))

/-- Whether an FP32 code is a NaN. -/
def isNaN32 (a : Nat) : Bool := f32 a == .nan

/-- IEEE 754-2019 minimum: a NaN gives the device's NaN, −0 is below +0 (R96). -/
def fpMin (a b : Nat) : Nat :=
  if isNaN32 a || isNaN32 b then qnan
  else if fpLt a b then a
  else if fpLt b a then b
  else if a ≥ 0x80000000 then a else b

/-- FABS (R190): the magnitude; a NaN result is 0x7FC0_0000 (R96). -/
def fpMag (a : Nat) : Nat := if isNaN32 a then qnan else fpAbs a

/-- IEEE 754-2019 maximum (R96). -/
def fpMax (a b : Nat) : Nat :=
  if isNaN32 a || isNaN32 b then qnan
  else if fpLt a b then b
  else if fpLt b a then a
  else if a ≥ 0x80000000 then b else a

/-- Sign as −1, 0 or +1 (Table 08.4); a NaN stays the device's NaN. -/
def fpSign (a : Nat) : Nat :=
  match f32 a with
  | .nan => qnan
  | .inf s => if s then 0xBF800000 else 0x3F800000
  | .fin s m _ => if m = 0 then 0 else if s then 0xBF800000 else 0x3F800000

/-- kA raised to a natural power, the exact value rounded once (R190). -/
def fpPow (a : Nat) (n : Nat) : Cvt :=
  match f32 a with
  | .nan => { code := qnan }
  | .inf s => { code := if n = 0 then 0x3F800000 else infCode (s && n % 2 = 1) }
  | .fin s m e =>
    let neg := s && decide (n % 2 = 1)
    if n = 0 then { code := 0x3F800000 }
    else if m = 0 then { code := if neg then 0x80000000 else 0 }
    else roundFloat .fp32 neg (m ^ n) (e * n) false

/-- An exact dyadic rounded to an integer, to nearest, ties to even (R33). -/
def dyRoundInt (d : Dy) (sticky : Bool := false) : Int :=
  let (r, q) := if d.e ≥ 0 then (d.m.natAbs * 2 ^ d.e.toNat, (0 : Int))
    else
      let k := (-d.e).toNat
      let lo := d.m.natAbs / 2 ^ k
      let rm := d.m.natAbs % 2 ^ k
      let half := 2 ^ (k - 1)
      (if rm > half ∨ (rm = half ∧ (sticky = true ∨ lo % 2 = 1)) then lo + 1 else lo, (0 : Int))
  if d.m < 0 then -((r : Int) + q) else r + q

/-- An integer put into INT8 or INT32: the nearest end of the range and SAT outside it (R33, R39). -/
def intoInt (f : Fmt) (x : Int) : Cvt :=
  let hi : Int := f.maxCode
  let lo : Int := -hi - 1
  if x > hi then { code := f.maxCode, sat := true }
  else if x < lo then { code := toTwos (8 * f.width) lo, sat := true }
  else { code := toTwos (8 * f.width) x }

/-- Conversion of a boundary value into a boundary format (R99). -/
def boundaryTo (f : Fmt) (v : Val) : Cvt :=
  match f with
  | .int8 | .int32 =>
    match v with
    | .nan => { code := 0, nar := true }
    | .inf s => if s then intoInt f (-(2 ^ 40)) else intoInt f (2 ^ 40)
    | .fin s m e => intoInt f (dyRoundInt (finDy s m e))
  | _ =>
    match v with
    | .nan => { code := f.nanCode, nar := true }
    | .inf s => { code := (if s then f.signBit else 0) + f.maxCode, sat := true }
    | .fin s m e =>
      if m = 0 then { code := if s then f.signBit else 0 }
      else
        let r := roundFloat f s m e false
        { r with ufl := decide (r.code % f.signBit = 0) }

end Sys2Proof.Machine
end

