-- ==== Sys2Proof/Machine/LogNum.lean ====
section
/-! DEFINITION. The log formats L8 and L16: conversion in and out (R18 to R33), log-lane arithmetic
(R100 to R102) and the operand split of the engines (R49). -/

namespace Sys2Proof.Machine

/-- 2^(n/256) · 2^160 for 0 ≤ n < 256, to within 2^-150: the product of the chain of square roots of 2
selected by the bits of n. Every decision the device makes on it is at least 2^-40 away. -/
def pow2frac (n : Nat) : Nat :=
  [(0, 0x100b1afa5abcbed6129ab13ec11dc954455b8187f), (1, 0x10163da9fb33356d84a66ae336dcdfa4003ec04c3),
   (2, 0x102c9a3e778060ee6f7caca4f7a29bde93d70a2ca), (3, 0x1059b0d31585743ae7c548eb68ca417fe53e3495f),
   (4, 0x10b5586cf9890f6298b92b71842a98364291408b3), (5, 0x1172b83c7d517adcdf7c8c50eb14a792035509ff7),
   (6, 0x1306fe0a31b7152de8d5a46305c85edecbc273436), (7, 0x16a09e667f3bcc908b2fb1366ea957d3e3adec175)].foldl
    (fun acc p => if bit n p.1 then acc * p.2 / 2 ^ 160 else acc) (2 ^ 160)

/-- ⌊K · log2(m · 2^e)⌋ for m > 0. -/
def log2Scaled (m : Nat) (e : Int) (k : Nat) : Int := (Nat.log2 (m ^ k) : Int) + e * k

/-- x / n rounded to the nearest integer, ties to even. -/
def rneDiv (x : Int) (n : Nat) : Int :=
  let q := x / (n : Int)
  let r := x % (n : Int)
  if 2 * r > n ∨ (2 * r = n ∧ q % 2 = 1) then q + 1 else q

/-- Bias of L16 (R19). -/
def lBias : Int := 16384

/-- The field of an L16 code. -/
def lField (c : Nat) : Nat := c % 0x8000

/-- The sign of an L16 code. -/
def lNeg (c : Nat) : Bool := decide (c % 0x10000 ≥ 0x8000)

/-- Whether an L16 code is NaR (R19). -/
def lIsNaR (c : Nat) : Bool := c % 0x10000 == 0x8000

/-- Whether an L16 code is zero (R19). -/
def lIsZero (c : Nat) : Bool := c % 0x10000 == 0

/-- The L16 code of a sign and a field. -/
def lCode (neg : Bool) (f : Nat) : Nat := (if neg then 0x8000 else 0) + f

/-- Widening L8 to L16 (R21). -/
def widen (c : Nat) : Nat :=
  let c := c % 256
  if c = 0 then 0 else if c = 0x80 then 0x8000
  else lCode (decide (c ≥ 0x80)) (64 * (c % 128) + 12288)

/-- Conversion of a finite non-zero magnitude m · 2^e into L8 (R24, R25, R28). -/
def magToL8 (neg : Bool) (m : Nat) (e : Int) : Cvt :=
  if log2Scaled m e 4 < -63 then { code := 0, ufl := true } else
  let k := (log2Scaled m e 8 + 1) / 2
  let f := k + 64
  let s := if neg then 0x80 else 0
  if f > 127 then { code := s + 127, sat := true } else { code := s + f.toNat }

/-- Conversion of a finite non-zero magnitude m · 2^e into L16 (R24, R25, R28). -/
def magToL16 (neg : Bool) (m : Nat) (e : Int) : Cvt :=
  if log2Scaled m e 1 < -64 then { code := 0, ufl := true } else
  let k := (log2Scaled m e 512 + 1) / 2
  let f := k + lBias
  if f > 32767 then { code := lCode neg 32767, sat := true }
  else if f < 1 then { code := lCode neg 1 }
  else { code := lCode neg f.toNat }

/-- Conversion of a boundary value into a log format (R24 to R28). -/
def valToLog (l8 : Bool) (v : Val) : Cvt :=
  let f : Fmt := if l8 then .l8 else .l16
  match v with
  | .nan => { code := f.nanCode, nar := true }
  | .inf s => { code := (if s then f.signBit else 0) + f.maxCode, sat := true }
  | .fin s m e => if m = 0 then { code := 0 } else if l8 then magToL8 s m e else magToL16 s m e

/-- Narrowing L16 to L8, ties to the even field (R24, R25, R28). -/
def narrow (c : Nat) : Cvt :=
  if lIsNaR c then { code := 0x80, nar := true }
  else if lIsZero c then { code := 0 }
  else
    let q := (lField c : Int) - lBias
    if q < -4032 then { code := 0, ufl := true } else
    let f := rneDiv q 64 + 64
    let s := if lNeg c then 0x80 else 0
    if f > 127 then { code := s + 127, sat := true } else { code := s + f.toNat }

/-- Octave and fraction of an L16 logarithm: 2^(q/256) = 2^(n/256) · 2^oct. -/
def logSplit (c : Nat) : Int × Nat :=
  let q := (lField c : Int) - lBias
  (q / 256, (q % 256).toNat)

/-- The exact magnitude of an L16 code as mantissa 2^160-scaled, exponent, and whether it is inexact. -/
def logMag (c : Nat) : Nat × Int × Bool :=
  let (o, n) := logSplit c
  (pow2frac n, o - 160, decide (n ≠ 0))

/-- Conversion of an L16 code into a floating-point format: faithful, saturation judged on the exact
value (R29 to R32). The choice between the two neighbours is open. -/
def logToFloat (f : Fmt) (c : Nat) : Cvt :=
  if lIsNaR c then { code := f.nanCode, nar := true }
  else if lIsZero c then { code := 0 }
  else
    let s := if lNeg c then f.signBit else 0
    let (o, n) := logSplit c
    let (p, e, _) := logMag c
    if dyLt (maxFinite f) ⟨p, e⟩ then { code := s + f.maxCode, sat := true }
    else if (lField c : Int) - lBias ≤ 256 * (f.emin - 1) then { code := s, ufl := true }
    else if o < f.emin then { code := s + 1 }
    else
      let q := max (o - f.mbits) f.emin
      let m := p / 2 ^ (q - e).toNat
      let m := if n ≠ 0 ∧ Config.faithfulUp f.code (c % 0x10000) then m + 1 else m
      { code := encodeFloat f (lNeg c) m q }

/-- Conversion of an L16 code into an integer format (R33). -/
def logToInt (f : Fmt) (c : Nat) : Cvt :=
  if lIsNaR c then { code := 0, nar := true }
  else if lIsZero c then { code := 0 }
  else
    let (p, e, x) := logMag c
    intoInt f (dyRoundInt ⟨if lNeg c then -(p : Int) else p, e⟩ x)

/-- The value of a boundary code. -/
def boundaryVal (f : Fmt) (c : Nat) : Val :=
  match f with
  | .int8 | .int32 => intVal f c
  | _ => floatVal f c

/-- Conversion of a code from one format of Table 05.5 to another (R23, R99): one result in every
converter. A format to itself is the identity. -/
def convert (src dst : Fmt) (c : Nat) : Cvt :=
  if src = dst then { code := c % 2 ^ (8 * src.width) } else
  match src, dst with
  | .l8, .l16 => { code := widen c }
  | .l16, .l8 => narrow c
  | .l8, .int8 | .l8, .int32 => logToInt dst (widen c)
  | .l8, _ => logToFloat dst (widen c)
  | .l16, .int8 | .l16, .int32 => logToInt dst c
  | .l16, _ => logToFloat dst c
  | _, .l8 => valToLog true (boundaryVal src c)
  | _, .l16 => valToLog false (boundaryVal src c)
  | _, _ => boundaryTo dst (boundaryVal src c)

/-- FP32 value Border and the quantiser read from an L16 code (R29, R178). -/
def l16ToF32 (c : Nat) : Nat := (convert .l16 .fp32 c).code

/-- FP32 value of an L8 code (R29). -/
def l8ToF32 (c : Nat) : Nat := (convert .l8 .fp32 c).code

/-! ### Log lanes -/

/-- The NaR result of a log-lane operation. -/
def narR : Cvt := { code := 0x8000, nar := true }

/-- A log-lane result from a sign and an unbounded field (R100). -/
def logResult (neg : Bool) (f : Int) : Cvt :=
  if f > 32767 then { code := lCode neg 32767, sat := true }
  else if f = 0 then { code := lCode neg 1 }
  else if f < 0 then { code := 0, ufl := true }
  else { code := lCode neg f.toNat }

/-- LMUL (Table 05.7). -/
def lMul (a b : Nat) : Cvt :=
  if lIsNaR a || lIsNaR b then narR
  else if lIsZero a || lIsZero b then { code := 0 }
  else logResult (lNeg a != lNeg b) ((lField a : Int) + lField b - lBias)

/-- LDIV (Table 05.7). -/
def lDiv (a b : Nat) : Cvt :=
  if lIsNaR a || lIsNaR b then narR
  else if lIsZero b then narR
  else if lIsZero a then { code := 0 }
  else logResult (lNeg a != lNeg b) ((lField a : Int) - lField b + lBias)

/-- LSQRT (Table 05.7). -/
def lSqrt (a : Nat) : Cvt :=
  if lIsNaR a then narR
  else if lIsZero a then { code := 0 }
  else if lNeg a then narR
  else logResult false (lBias + rneDiv ((lField a : Int) - lBias) 2)

/-- LRSQRT (Table 05.7). -/
def lRsqrt (a : Nat) : Cvt :=
  if lIsNaR a then narR
  else if lIsZero a then { code := 0x7FFF, sat := true }
  else if lNeg a then narR
  else logResult false (lBias + rneDiv (lBias - (lField a : Int)) 2)

/-- The LEXP constant in units of 2^-64: log2 e · 256 with the deviation R101 allows (relative 2^-30). -/
def lexpConst : Int :=
  let c : Int := 6812934706096293115773
  let w := c / 2 ^ 30
  let d := Config.lexpDeviation
  if -w ≤ d ∧ d ≤ w then c + d else c

/-- LEXP: FP32 to the L16 code of e^x (R101, Table 05.7). -/
def lExp (x : Nat) : Cvt :=
  match f32 x with
  | .nan => narR
  | .inf s => if s then { code := 0 } else { code := 0x7FFF, sat := true }
  | .fin s m e =>
    let p : Dy := ⟨(if s then -(m : Int) else m) * lexpConst, e - 64⟩
    logResult false (lBias + dyRoundInt p)

/-- ln 2 in units of 2^-128. -/
def ln2Fixed : Int := 235865763225513294137944142764154484399

/-- |v − y| ≤ y's magnitude · num / 2^sh, exactly. -/
def withinRel (v y : Dy) (num : Nat) (sh : Nat) : Bool :=
  dyLe (dyAbs (dyAdd v (dyNeg y))) ⟨(dyAbs y).m * num, y.e - sh⟩

/-- LLOG: FP32 natural logarithm of an L16 magnitude (Table 05.7): a code within 2^-23 of ln|a|. -/
def lLog (a : Nat) : Cvt :=
  if lIsNaR a then { code := qnan, nar := true }
  else if lIsZero a then { code := 0xFF7FFFFF, sat := true }
  else if lNeg a then { code := qnan, nar := true }
  else
    let q := (lField a : Int) - lBias
    if q = 0 then { code := 0 } else
    let y : Dy := ⟨q * ln2Fixed, -136⟩
    let c := (Config.llogCode (lField a)).toNat
    let ok := match f32 c with
      | .fin s m e => withinRel (finDy s m e) y 1 23
      | _ => false
    { code := if ok then c else (roundDy32 false y true).code }

/-- SB[d] and DB[d] of R102: round(256 · log2(1 ± 2^(−d/256))). -/
def gaussTable (plus : Bool) (d : Nat) : Int :=
  if d ≥ 2560 then 0 else
  -- 2^(−d/256) in units of 2^-64
  let v := (pow2frac ((2560 - d) % 256)) * 2 ^ ((2560 - d) / 256) / 2 ^ (160 + 10 - 64)
  let m := if plus then 2 ^ 64 + v else 2 ^ 64 - v
  (log2Scaled m (-64) 512 + 1) / 2

/-- LADD (R102). A zero operand leaves the other. -/
def lAdd (x y : Nat) : Cvt :=
  if lIsNaR x || lIsNaR y then narR
  else if lIsZero x then { code := y % 0x10000 }
  else if lIsZero y then { code := x % 0x10000 }
  else
    let (a, b) := if lField x ≥ lField y then (x, y) else (y, x)
    let d := lField a - lField b
    if lNeg a = lNeg b then logResult (lNeg a) ((lField a : Int) + gaussTable true d)
    else if d = 0 then { code := 0 }
    else logResult (lNeg a) ((lField a : Int) + gaussTable false d)

/-- Sign flip of an L16 code; zero and NaR stay (R20). -/
def lFlip (a : Nat) : Nat :=
  if lIsNaR a || lIsZero a then a % 0x10000 else lCode (!lNeg a) (lField a)

/-- LSUB (R102): LADD after the second operand's sign is flipped. -/
def lSub (x y : Nat) : Cvt := lAdd x (lFlip y)

/-- The sign-magnitude integer of an L16 code (R20). -/
def lOrder (a : Nat) : Int := if lNeg a then -(lField a : Int) else lField a

/-- LMAX (R100, R20). -/
def lMax (a b : Nat) : Cvt :=
  if lIsNaR a || lIsNaR b then narR
  else { code := if lOrder a < lOrder b then b % 0x10000 else a % 0x10000 }

/-- LMIN (R100, R20). -/
def lMin (a b : Nat) : Cvt :=
  if lIsNaR a || lIsNaR b then narR
  else { code := if lOrder b < lOrder a then b % 0x10000 else a % 0x10000 }

/-- LCMPLT (R100, R20): the predicate and whether NAR is raised; a NaR operand leaves the predicate free. -/
def lCmpLt (a b : Nat) : Bool × Bool :=
  if lIsNaR a || lIsNaR b then (Config.lcmpNaR (a % 0x10000) (b % 0x10000), true)
  else (decide (lOrder a < lOrder b), false)

/-! ### Operand split -/

/-- The lo part of a split relative to its hi part: for x′ a factor 2^(d/256) from hi, the floor of
4·log2 |2^(d/256) − 1| and its nearest integer. -/
def splitLo (d : Int) : Int × Int :=
  let v : Nat := if d ≥ 0 then pow2frac d.toNat else pow2frac (256 + d).toNat / 2
  let m := (v - 2 ^ 160) + (2 ^ 160 - v)
  (log2Scaled m (-160) 4, (log2Scaled m (-160) 8 + 1) / 2)

/-- hi and lo of one L16 value in a vector of offset `o` (R49, R50: no events). -/
def splitCode (o : Int) (c : Nat) : Nat × Nat :=
  if lIsNaR c then (0x80, 0)
  else if lIsZero c then (0, 0)
  else
    let q := (lField c : Int) - lBias - 256 * o
    if q < -4032 then (0, 0) else
    let k := rneDiv q 64
    let hi := (if lNeg c then 0x80 else 0) + (k + 64).toNat
    let d := q - 64 * k
    if d = 0 then (hi, 0) else
    let (fl, r) := splitLo d
    if fl + k < -63 then (hi, 0)
    else (hi, (if lNeg c != decide (d < 0) then 0x80 else 0) + (r + k + 64).toNat)

/-- The offset of an L16 operand vector (R49). -/
def vecOffset (cs : List Nat) : Int :=
  let fs := (cs.filter (fun c => !lIsNaR c && !lIsZero c)).map lField
  match fs with
  | [] => 0
  | f :: fs => ((fs.foldl max f : Nat) - lBias) / 256 - 14

end Sys2Proof.Machine
end

