-- ==== Sys2Proof/Machine/Crypto.lean ====
section
/-! DEFINITION. The check algorithms (R349, R350) and HMAC-SHA-256 (R270, R273, R405). -/

namespace Sys2Proof.Machine

/-! ### Check algorithms -/

/-- One bit step of the reflected CRC-32C register. -/
def crc32Bit (r : Nat) : Nat := if r % 2 = 1 then (r / 2) ^^^ 0x82F63B78 else r / 2

/-- One byte into the CRC-32C running value (Table 15.1). -/
def crc32Byte (r : Nat) (b : Byte) : Nat :=
  let x := r ^^^ b.toNat
  crc32Bit (crc32Bit (crc32Bit (crc32Bit (crc32Bit (crc32Bit (crc32Bit (crc32Bit x)))))))

/-- One bit step of the CRC-64/ECMA-182 register. -/
def crc64Bit (r : Nat) : Nat :=
  if r ≥ 2 ^ 63 then (r * 2 % 2 ^ 64) ^^^ 0x42F0E1EBA9EA3693 else r * 2

/-- One byte into the CRC-64/ECMA-182 running value (Table 15.1). -/
def crc64Byte (r : Nat) (b : Byte) : Nat :=
  let x := r ^^^ (b.toNat * 2 ^ 56)
  crc64Bit (crc64Bit (crc64Bit (crc64Bit (crc64Bit (crc64Bit (crc64Bit (crc64Bit x)))))))

/-- Initial running value of an algorithm of Table 15.1 (`true` is ALG 1). -/
def crcInit (alg64 : Bool) : Nat := if alg64 then 0 else 0xFFFFFFFF

/-- Bytes into a running value. -/
def crcRun (alg64 : Bool) (r : Nat) (bs : List Byte) : Nat :=
  bs.foldl (if alg64 then crc64Byte else crc32Byte) r

/-- The check value of a running value (R349). -/
def crcFinal (alg64 : Bool) (r : Nat) : Nat := if alg64 then r else r ^^^ 0xFFFFFFFF

/-- CRC-32C of bytes without folding. -/
def crc32c (bs : List Byte) : Nat := crcFinal false (crcRun false (crcInit false) bs)

/-- CRC-64/ECMA-182 of bytes without folding. -/
def crc64 (bs : List Byte) : Nat := crcFinal true (crcRun true (crcInit true) bs)

/-- The fold bytes of a 64-bit value (R350). -/
def foldBytes (f : Nat) : List Byte := bytesLE 8 (f % 2 ^ 64)

/-! ### SHA-256 -/

/-- A 32-bit word of a number. -/
def w32 (x : Nat) : Nat := x % 2 ^ 32

/-- Rotate a 32-bit word right. -/
def rotr (x n : Nat) : Nat := (x >>> n) ||| (w32 (x <<< (32 - n)))

/-- The largest r + i below 2^n more than r whose k-th power is at most x, found bit by bit. -/
def rootFrom (k x : Nat) : Nat → Nat → Nat
  | 0, r => r
  | n + 1, r => rootFrom k x n (if (r + 2 ^ n) ^ k ≤ x then r + 2 ^ n else r)

/-- The first 32 fractional bits of the k-th root of a prime. -/
def rootBits (k p : Nat) : Nat := w32 (rootFrom k (p * 2 ^ (32 * k)) 37 0)

/-- A number from 2 to 360 without a smaller factor above 1. -/
def primeBelow (n : Nat) : Bool := (List.range 18).all (fun d => decide (d + 2 ≥ n) || n % (d + 2) != 0)

/-- The first 64 primes. -/
def shaPrimes : List Nat := ((List.range 310).map (· + 2)).filter primeBelow

/-- The round constants: cube roots of the first 64 primes. -/
def shaK : List Nat := shaPrimes.map (rootBits 3)

/-- The initial hash words: square roots of the first eight primes. -/
def shaH0 : List Nat := (shaPrimes.take 8).map (rootBits 2)

/-- A big-endian number of n bytes, most significant first. -/
def bytesBE (n x : Nat) : List Byte := (bytesLE n x).reverse

/-- The number of a big-endian byte list. -/
def ofBytesBE (bs : List Byte) : Nat := ofBytesLE bs.reverse

/-- Padding of a message of n bytes. -/
def shaPad (n : Nat) : List Byte :=
  0x80 :: (List.replicate ((119 - n % 64) % 64) 0 ++ bytesBE 8 (8 * n))

/-- The message words of a block, most recent first. -/
def shaExpand : Nat → List Nat → List Nat
  | 0, w => w
  | n + 1, w =>
    let a := nth 0 w 14
    let b := nth 0 w 1
    let s0 := rotr a 7 ^^^ rotr a 18 ^^^ (a >>> 3)
    let s1 := rotr b 17 ^^^ rotr b 19 ^^^ (b >>> 10)
    shaExpand n (w32 (nth 0 w 15 + s0 + nth 0 w 6 + s1) :: w)

/-- One round on the eight working words. -/
def shaRound (v : List Nat) (kw : Nat) : List Nat :=
  match v with
  | [a, b, c, d, e, f, g, h] =>
    let s1 := rotr e 6 ^^^ rotr e 11 ^^^ rotr e 25
    let ch := (e &&& f) ^^^ ((0xFFFFFFFF ^^^ e) &&& g)
    let t1 := h + s1 + ch + kw
    let s0 := rotr a 2 ^^^ rotr a 13 ^^^ rotr a 22
    let mj := (a &&& b) ^^^ (a &&& c) ^^^ (b &&& c)
    [w32 (t1 + s0 + mj), a, b, c, w32 (d + t1), e, f, g]
  | _ => v

/-- One 64-byte block into the hash words. -/
def shaBlock (h : List Nat) (blk : List Byte) : List Nat :=
  let w0 := (List.range 16).map (fun i => ofBytesBE ((blk.drop (4 * i)).take 4))
  let w := (shaExpand 48 w0.reverse).reverse
  let v := (List.zipWith (· + ·) shaK w).foldl shaRound h
  List.zipWith (fun x y => w32 (x + y)) h v

/-- The blocks of a padded message into the hash words. -/
def shaBlocks : Nat → List Nat → List Byte → List Nat
  | 0, h, _ => h
  | n + 1, h, bs => shaBlocks n (shaBlock h (bs.take 64)) (bs.drop 64)

/-- SHA-256 of a byte string. -/
def sha256 (msg : List Byte) : List Byte :=
  let m := msg ++ shaPad msg.length
  (shaBlocks (m.length / 64) shaH0 m).flatMap (bytesBE 4)

/-- A key padded or hashed to one block. -/
def hmacKey (key : List Byte) : List Byte :=
  let k := if key.length > 64 then sha256 key else key
  k ++ List.replicate (64 - k.length) 0

/-- HMAC-SHA-256. -/
def hmac (key msg : List Byte) : List Byte :=
  let k := hmacKey key
  sha256 (k.map (· ^^^ 0x5C) ++ sha256 (k.map (· ^^^ 0x36) ++ msg))

end Sys2Proof.Machine
end

