-- ==== Sys2Proof/Machine/State.lean ====
section
/-! DEFINITION. The state of a T64 package: plain data, every register, queue, table and mode the spec gives it.
A sparse table (`SMap`) lists only the keys whose value differs from the default of its record. -/

namespace Sys2Proof.Machine

/-- Why a command stops the machine. -/
inductive Fault where
  /-- A gather or scatter row lies at a tier address that is mapped to no granule of the domain (R207). Raised by
  GATHER_DELIVERY and SCATTER_ADD. Safe: the spec gives such an address no contents. -/
  | noGranule
  deriving DecidableEq, Repr

/-- Why a command has no meaning. -/
inductive Refusal where
  /-- The command is not modelled yet. Raised by Dispatch alone. Safe. -/
  | notModelled (mnemonic : String)
  /-- An instruction form that the spec says is rejected when its pattern is loaded, so that no core issues it
  (R39, R52, R60, R72, R84, R88, R92, R94, R98, R99, R127, R153 to R155, R160). Raised by the core instructions.
  Safe. -/
  | rejectedAtLoad
  /-- The operand names a core, die, port, ring or other unit the package does not have (R10, R16). Safe. -/
  | noSuchUnit
  deriving DecidableEq, Repr

/-- The occurrence count of an event flag, and the fc of its last event (R366). -/
structure FlagCnt where
  count : Nat := 0
  last  : Nat := 0
  deriving DecidableEq, Repr

/-- An event-flag register (R365 to R368): the occurrence count of each flag bit. A flag is 1 exactly when its
count is not 0 (R367), so the flag itself is not stored. -/
abbrev FlagReg := SMap FlagCnt

/-! ### Cores -/

/-- Counts of the conversion events SAT, UFL, NAR and IOVF (R36). -/
structure Conv4 where
  sat  : Nat := 0
  ufl  : Nat := 0
  nar  : Nat := 0
  iovf : Nat := 0
  deriving DecidableEq, Repr

/-- An active loop (R92): its first and last bundle and the passes left after this one. -/
structure LoopRec where
  first : Nat
  last  : Nat
  left  : Nat
  deriving DecidableEq, Repr

/-- A position of an operand descriptor (R156). -/
structure Pos where
  tr : Nat := 0
  tc : Nat := 0
  b  : Nat := 0
  deriving DecidableEq, Repr

/-- A context slot of a core (R89, R133): residency, generation, image and the state a context owns. -/
structure Ctx where
  resident : Bool := false
  gen      : Bool := false
  /-- The slot (model) whose pattern the context holds. -/
  slot     : Option Nat := none
  image    : Option CtxImage := none
  /-- Lane words, key 128 · register + lane. -/
  regs     : SMap Nat := []
  /-- Lanes that a load or an operation marked as masked (R161), same keys. -/
  masked   : SMap Bool := []
  /-- Predicate bits, key 128 · predicate + lane; p0 is not stored. -/
  preds    : SMap Bool := []
  /-- Active loops, innermost first. -/
  loops    : List LoopRec := []
  pc       : Nat := 0
  /-- Descriptor positions, key descriptor number. -/
  pos      : SMap Pos := []
  /-- Next SEQ of each route-table entry (R120). -/
  sendSeq  : SMap Nat := []
  /-- Expected SEQ of each input queue (R120). -/
  recvSeq  : SMap Nat := []
  /-- Physical accumulator slot + 1, key 16 · engine + slot of the slot map, and of the C half of a pair, key 64
  higher (R82). -/
  accPhys  : SMap Nat := []
  /-- Conversion events of the step in this context (R36). -/
  conv     : Conv4 := {}
  /-- Out-of-range gather indices of the step (R107). -/
  oor      : Nat := 0
  /-- First 4 KiB page of the context's operand-store region (R86). -/
  base     : Nat := 0
  deriving DecidableEq, Repr

/-- A lane result in flight (R90): the core's ac at which it becomes readable, its context, whether it goes to a
predicate, the register, and the (lane, value, masked) triples. -/
structure InFlight where
  due  : Nat
  ctx  : Nat
  pred : Bool
  reg  : Nat
  vals : List (Nat × Nat × Bool)
  deriving DecidableEq, Repr

/-- An input queue (R121): hardware entries, overflow lane, whether the head is held. -/
structure Queue where
  hw   : List Token := []
  lane : List Token := []
  held : Bool := false
  deriving DecidableEq, Repr

/-- An outstanding gather (R106): its context, table descriptor, indices, segment and the destination
descriptor with the position it stood on. -/
structure GatherReq where
  ctx   : Nat
  table : Nat
  idx   : List Nat
  seg   : Nat
  desc  : Nat
  pos   : Pos
  deriving DecidableEq, Repr

/-- Why the sequencer of a core is stopped (R91, R74). -/
inductive StopCause where
  | recvEmpty (q : Nat)
  | sendFull (core q : Nat)
  | gatherWait
  | chainWait (q : Nat)
  deriving DecidableEq, Repr

/-- A weight bank (R46, R47): the last ac in which it is busy, and the first ac in which what it holds was loaded, 0 while
nothing was. -/
structure BankSt where
  busy   : Nat := 0
  loaded : Nat := 0
  deriving DecidableEq, Repr

/-- The last tile operation of an engine (R55, R56): its last stream ac, its last ac, P, GROUP and slot; its weight
port's last load ac and its weight banks. -/
structure EngSt where
  stream : Nat := 0
  last   : Nat := 0
  passes : Nat := 0
  group  : Nat := 0
  slot   : Nat := 0
  port   : Nat := 0
  banks  : SMap BankSt := []
  deriving DecidableEq, Repr

/-- A core (R84 to R92): its contexts and the state that contexts share. -/
structure CoreSt where
  /-- Context slots 0 to 3. -/
  ctxs     : SMap Ctx := []
  /-- The current context number. -/
  cur      : Option Nat := none
  /-- The ac the sequencer has passed. -/
  ac       : Nat := 0
  inflight : List InFlight := []
  /-- Operand store bytes. -/
  store    : SMap Byte := []
  /-- Weight banks, key 1056 · (4 · engine + bank) + i: codes at i = 32 · r + j, column offsets at 1024 + j. -/
  banks    : SMap Nat := []
  /-- Accumulator memory, key 1024 · (16 · engine + physical slot) + 32 · m + j. -/
  acc      : SMap Nat := []
  /-- VALID bits, key 16 · engine + physical slot (R73). -/
  accValid : SMap Bool := []
  engs     : SMap EngSt := []
  queues   : SMap Queue := []
  gathers  : List GatherReq := []
  /-- Parameter words of the current entry and of the next (R169). -/
  par      : List Nat := []
  parNext  : List Nat := []
  /-- Index of the current problem-list entry. -/
  entry    : Nat := 0
  /-- The marker of the last entry was passed; nothing issues until the next step (R168). -/
  finished : Bool := false
  /-- The last bundle was a yield point and no token was held: a token boundary (R128). -/
  boundary : Bool := true
  /-- The A half of the bundle at the program counter has issued (R88). -/
  aDone    : Bool := false
  stop     : Option StopCause := none
  /-- Fold table (Table 06.9) and the entry the core stands on (R140, R141). -/
  fold     : List Nat := []
  foldPos  : Nat := 0
  /-- Core-access ac taken by sends, loads, stores, spills and fills (R125, R127). -/
  accessAc : Nat := 0
  deriving DecidableEq, Repr

/-- Reconfiguration modes (Table 06.1). -/
inductive PartMode where
  | pinned | switching | folded
  deriving DecidableEq, Repr

/-- Drain in progress on a partition (R148, R149). -/
inductive Drain where
  | idle | run | discard
  deriving DecidableEq, Repr

/-! ### Partitions -/

/-- A problem-list entry (Table 07.4). -/
structure ProbEntry where
  off : List Nat
  par : List Nat
  deriving DecidableEq, Repr

/-- A context load in progress on a partition (R131 to R135). -/
structure LoadSt where
  /-- Context number c and the slot whose pattern is loaded. -/
  ctx     : Nat
  slot    : Nat
  /-- Index of this image set in a folded pattern's sequence of context images. -/
  part    : Nat
  /-- Fold flag: the load replaces the fold table (R140). -/
  fold    : Bool
  /-- Waiting under R135; otherwise the images are being written. -/
  waiting : Bool
  /-- fc of acceptance: a load waits at most WDOG_LIMIT fc (R135). -/
  since   : Nat
  /-- The descriptor it belongs to: ring and sequence number of acceptance. -/
  ring    : Nat
  desc    : Nat
  /-- First page of the operand-store region that each core gives the context (R86). -/
  regions : List (Nat × Nat)
  deriving DecidableEq, Repr

/-- A switch request (R129): its context number, the SWITCH descriptor it serves, if any, and whether a run drain is still to
come before it (R148, R150). -/
structure SwReq where
  ctx   : Nat
  desc  : Option (Nat × Nat)
  drain : Bool := false
  deriving DecidableEq, Repr

/-- A partition (R109 to R113, R129, R144, R148). -/
structure PartSt where
  /-- Cluster numbers, [8:7] QUAD, [6:3] POS, [2:0] CLUSTER as in the core address; empty: no such partition. -/
  clusters : List Nat := []
  mode     : PartMode := .pinned
  /-- Current context; none before the first switch and after its eviction (R113). -/
  cur      : Option Nat := none
  /-- The slot whose RUN is in progress (R109). -/
  run      : Option Nat := none
  /-- Slots whose RUN waits its turn, in acceptance order (R288). -/
  runQueue : List Nat := []
  /-- Outstanding switch request and the one that waits (R130). -/
  swReq    : Option SwReq := none
  swWait   : List SwReq := []
  drain    : Drain := .idle
  /-- A fold table is loaded (R140). -/
  hasFold  : Bool := false
  /-- Stalled fc counted so far (R144). -/
  stalled  : Nat := 0
  /-- The checked problem list of the RUN (R167). -/
  problems : List ProbEntry := []
  loads    : List LoadSt := []
  /-- Tokens the partition discarded since the RUN's start for TAG_MISMATCH and SEQ_ERR (R151). -/
  tagMiss  : Nat := 0
  seqErr   : Nat := 0
  deriving DecidableEq, Repr

/-! ### Memory tiers -/

/-- The state of a physical granule (R209, R220): free and zeroed, mapped to a domain, released and not yet
zeroed, or retired. -/
inductive Granule where
  | free | mapped | dirty | retired
  deriving DecidableEq, Repr

/-- What a region of a domain is for (Table 09.5). -/
inductive RegionKind where
  | wc (bank : Nat)
  | w (bank : Nat)
  | st (k bank : Nat)
  | grad
  | stash
  | gaa
  | buffer
  deriving DecidableEq, Repr

/-- A region: a run of granule indices of a domain's HBM3E (tier 1) or LPDDR5X (tier 2) space (R207, R222). -/
structure Region where
  tier     : Nat
  gidx     : Nat
  count    : Nat
  /-- First index of the run the region was allocated as; later pieces of it keep it. -/
  base     : Nat
  kind     : RegionKind
  slot     : Option Nat
  mirrored : Bool
  /-- The set of a slot's regions it belongs to: 0 from SLOT_CREATE, others from a re-shard (R344). -/
  set      : Nat
  deriving DecidableEq, Repr

/-- A domain (R206, R221): its limits and usage in granules (pattern store: usage in 64 KiB pages), granule
tables, regions and the HBM3E stack of its previous allocation. -/
structure DomSt where
  created  : Bool := false
  limSc    : Nat := 0
  limPs    : Nat := 0
  limHbm   : Nat := 0
  limLp    : Nat := 0
  useSc    : Nat := 0
  usePages : Nat := 0
  useHbm   : Nat := 0
  useLp    : Nat := 0
  /-- GIDX to physical granule + 1. -/
  hbmMap   : SMap Nat := []
  lpMap    : SMap Nat := []
  /-- LPDDR5X granule indices with a copy B at p XOR 4 (R226). -/
  lpMirror : SMap Bool := []
  regions  : List Region := []
  lastStack : Nat := 15
  deriving DecidableEq, Repr

/-- Counters of a memory channel (R231). -/
structure ChanCnt where
  corr  : Nat := 0
  retry : Nat := 0
  fail  : Nat := 0
  late  : Nat := 0
  /-- The fc counted as late: first and the one after the last. -/
  lateFc : List (Nat × Nat) := []
  deriving DecidableEq, Repr

/-- A granule of a Slath's shared cache outside the pattern store (Table 09.3): free, a problem buffer of a
partition, or staging of a slot. -/
inductive CacheUse where
  | free
  | problems (part : Nat)
  | staging (slot : Nat)
  deriving DecidableEq, Repr

/-- A Slath's shared cache (R210, R212): the banks (R210) and used pages of the pattern store, granule uses, the bytes
of the staging granules, and by granule the number + 1 of the draw that its bytes took when they became undefined (R211). -/
structure SlathSt where
  psBanks : List Nat := List.range 16
  psPages : Nat := 0
  use     : SMap CacheUse := []
  bytes   : SMap Byte := []
  undef   : SMap Nat := []
  deriving DecidableEq, Repr

/-- The DRAM tiers and their registers. -/
structure TierSt where
  /-- Bytes by physical granule · 2^21 + offset. A byte no one has written since its granule was zeroed is 0. -/
  hbm      : List Host.Cell := []
  lp       : List Host.Cell := []
  hbmGran  : SMap Granule := []
  lpGran   : SMap Granule := []
  /-- Boot has zeroed the tiers (R209); until then the granules that it has zeroed so far, those of LPDDR5X from 294,912 on. -/
  zeroed   : Bool := false
  fresh    : SMap Bool := []
  /-- HBM3E granules of step areas whose contents became undefined when an attempt began: number of the draw + 1 (R174). -/
  undef    : SMap Nat := []
  chans    : SMap ChanCnt := []
  /-- Failed reads whose granules are to be retired at the end of the attempt (R220): tier, physical granule, slot and
  4 KiB block. -/
  failed   : List (Nat × Nat × Nat × Nat) := []
  /-- Rim dies out of service (R228). -/
  fenced   : List Nat := []
  /-- The DRAM target of a running self-test: TKIND and target (R425). -/
  testing  : Option (Nat × Nat) := none
  quotaFlags : FlagReg := []
  tierFlags  : FlagReg := []
  deriving DecidableEq, Repr

/-! ### Slots, patterns and runs -/

/-- Where a RUN stands. -/
inductive RunStage where
  /-- Accepted with PSRC = 1; it still collects PROBLEM descriptors (R171, R291). -/
  | collecting
  /-- Accepted; other RUNs of the partition come first (R288). -/
  | queued
  /-- In progress on its partition, between steps. -/
  | between
  /-- Its next step start was asked for and is held by pacing (R252). -/
  | paced
  /-- Between step start and ready (R244). -/
  | step
  /-- Ready; the commit round is going on (R196). -/
  | round
  /-- The attempt is aborted; the partition is drained by discard and the replay waits for GO (R198, R384). -/
  | replay
  deriving DecidableEq, Repr

/-- A RUN (R173, R295): its descriptor, counts and report figures. Charges are PERTURB, FAULT, HOST, LINK, TIER,
PACE, UNATTR. -/
structure RunSt where
  ring     : Nat
  desc     : Nat
  fn       : Nat
  steps    : Nat
  stage    : RunStage
  problems : List ProbEntry
  done     : Nat := 0
  replayed : Nat := 0
  charges  : List Nat := []
  late     : Nat := 0
  /-- Commit-round fc, and the fc up to which they are counted. -/
  roundFc  : Nat := 0
  counted  : Nat := 0
  oor      : Nat := 0
  /-- T_report of its problem list (R245). -/
  tReport  : Nat := 0
  /-- Deviation intervals of the attempt: cause (0 PERTURB to 4 TIER), first fc, fc after the last (R248). -/
  causes   : List (Nat × Nat × Nat) := []
  /-- Start of the step's first attempt, fc in which a held start was asked for, fc at ready, DETAIL. -/
  first    : Nat := 0
  asked    : Nat := 0
  readyFc  : Nat := 0
  stepCharges : List Nat := []
  detail   : Nat := 0
  /-- Host address of the run report (R295). -/
  rptAddr  : Nat := 0
  /-- The host working copy is installed (R193). -/
  installed : Bool := false
  /-- The attempt: cycle count at step start, conversion events of the rim dies, whether the quantiser met a NaN,
  whether perturbation was in progress, whether the sweep has begun. -/
  start    : Nat := 0
  conv     : Conv4 := {}
  nan      : Bool := false
  perturbed : Bool := false
  sweeping : Bool := false
  deriving DecidableEq, Repr

/-- The rounds of a job's members (R196, R384, R344, R346). -/
inductive RoundKind where
  | none | commit | restart | fence | switch
  deriving DecidableEq, Repr

/-- A member's part in a round. -/
structure RoundSt where
  kind     : RoundKind := .none
  /-- The member is ready, and its replica digest (R200). -/
  ready    : Bool := false
  digest   : Nat := 0
  /-- PREPARE or FENCE passes held until the member may pass them on. -/
  held     : List Packet := []
  /-- Cuts whose pass this member has started, and whose pass has returned to it; once the decision is issued, those of
  the pass that carries it. -/
  started  : List Nat := []
  returned : List Nat := []
  /-- First failing RESULT seen by a fence pass (R344). -/
  result   : Nat := 0
  /-- The decision was issued by, or has reached, this member. -/
  issued   : Bool := false
  /-- ABORT already sent or received: REPORT, and the cause kept (R198). -/
  abort    : Option (Bool × Nat) := none
  /-- The cause of the abort is the loss of a rim die (R198). -/
  rimLost  : Bool := false
  /-- Members whose replica repair is still going on, by rank; the rank that supplies the data; and the entries that this
  member is still to receive (R201). -/
  repairs  : List Nat := []
  supplier : Nat := 0
  entries  : List Nat := []
  /-- Whether this member has compared its ring's digests. -/
  compared : Bool := false
  deriving DecidableEq, Repr

/-- Where a re-shard stands (Table 14.7). -/
inductive ReshardStage where
  | fenceWait | fenceRound | moving | switchRound
  deriving DecidableEq, Repr

/-- A RESHARD in progress (R342 to R347). -/
structure ReshardSt where
  ring     : Nat
  desc     : Nat
  layout   : Nat
  mapCrc   : Nat
  /-- The new map: shard, owner rank, parameter tiles. -/
  map      : List (Nat × Nat × Nat)
  table    : List UpdEntry
  stage    : ReshardStage
  accepted : Nat
  wait     : Nat := 0
  /-- Outcome of the reservation: 0 or a status code. -/
  result   : Nat := 0
  /-- The region set reserved for the shards the member gains, and their entries. -/
  set      : Nat := 0
  gained   : List UpdEntry := []
  /-- Shards still to arrive, and repeats so far of each shard. -/
  awaiting : List Nat := []
  retries  : SMap Nat := []
  allRetries : Nat := 0
  /-- Bytes received of the shards being moved. -/
  arrived  : SMap (List Byte) := []
  deriving DecidableEq, Repr

/-- A shard record (R203): shard, CN, layout and CRC-32C. -/
structure ShardRec where
  shard  : Nat
  cn     : Nat
  layout : Nat
  crc    : Nat
  deriving DecidableEq, Repr

/-- What the collective engines hold for a slot (R197, R326, R330 to R341). -/
structure CollSlot where
  /-- Contributions to a chain and running values that have arrived, FP32 codes (A and C), by chain key (R330). -/
  contrib  : SMap (List Nat) := []
  running  : SMap (List Nat × List Nat) := []
  /-- Chain keys whose value this member has sent on; final values that wait for the rest of their packet over the sequence ring,
  by chain key (R333, R334). -/
  sent     : SMap Bool := []
  finals   : SMap (List Nat) := []
  /-- Reduced tiles waiting for the quantiser, by parameter tile of the update table. -/
  reduced  : SMap (List Nat) := []
  /-- Packets held for a later CN or layout. -/
  held     : List Packet := []
  /-- Next PSEQ expected, key 8 · source + stream; next PSEQ to send, key stream. -/
  pseqIn   : SMap Nat := []
  pseqOut  : SMap Nat := []
  /-- Next SEQ of a unit stream, key 16 · core + queue (R329); tokens sent on a relay route this attempt, key
  64 · core + route; the A tile of a pair whose C tile is still to come, same key (R328). -/
  unitSeq  : SMap Nat := []
  relayN   : SMap Nat := []
  pairA    : SMap (List Nat) := []
  /-- Axes this attempt reduces in line order (R335). -/
  lineAxes : List Nat := []
  /-- Shard records of the attempt; tiles received and CRC register of a gather that goes on, by shard. -/
  records  : List ShardRec := []
  gathering : SMap (Nat × Nat) := []
  deriving DecidableEq, Repr

/-- A slot (R173 to R204, R288, R341). -/
structure SlotSt where
  present  : Bool := false
  dom      : Nat := 0
  mirrored : Bool := false
  part     : Nat := 0
  pattern  : Option Pattern := none
  /-- The update table in force, for each of its entries the region set and the index in that set's table where
  its data lie, and the tables of the sets (R187, R346). -/
  table    : List UpdEntry := []
  homes    : List (Nat × Nat) := []
  sets     : SMap (List UpdEntry) := []
  cn       : Nat := 0
  wcStale  : Bool := false
  /-- Commit policy (R195): host placement, NAR_ACTION = COMMIT, REPAIR = OFF, host buffers. -/
  hostPlaced : Bool := false
  narCommit : Bool := false
  repairOff : Bool := false
  /-- Copies in progress that read a bank of the slot: ring, descriptor, bank (R186). -/
  copies    : List (Nat × Nat × Nat) := []
  gradBuf  : Nat := 0
  wcBuf    : Nat := 0
  readyBuf : Nat := 0
  noMaster : Bool := false
  run      : Option RunSt := none
  round    : RoundSt := {}
  /-- STEP_STATUS.LAST, replays of the current step and STEP_EVENTS. -/
  last     : Nat := 0
  replays  : Nat := 0
  replayCnt : Nat := 0
  repairCnt : Nat := 0
  efclrCnt : Nat := 0
  conv     : Conv4 := {}
  /-- DEV_ counters: PERTURB, FAULT, HOST, LINK, TIER, PACE, UNATTR. -/
  dev      : List Nat := []
  tierRetry : Nat := 0
  tierFail : Nat := 0
  tierLate : Nat := 0
  layout   : Nat := 0
  /-- The layout map in force: shard, owner rank on the layer cut, parameter tiles (R337, R342). -/
  owners   : List (Nat × Nat × Nat) := []
  reshard  : Option ReshardSt := none
  coll     : CollSlot := {}
  /-- Slaths whose pattern store holds its pattern (R212), and its pages in each. -/
  quads    : List Nat := []
  pages    : Nat := 0
  /-- The slot lost LPDDR5X data with a rim die (R228). -/
  lostData : Bool := false
  /-- Host-placed update: GRAD_READY written, and one failed read of the buffer (R193, R194). -/
  hostWait : Bool := false
  hostRetry : Bool := false
  deriving DecidableEq, Repr

/-- Where a Border engine stands in the sweep of a slot (R188, R192). -/
inductive BorderStage where
  | idle | prologue | phase1 | waitInterlude | interlude | phase2 | done
  deriving DecidableEq, Repr

/-- A pair accumulator (R69, R191). -/
structure PairAcc where
  a : Nat := 0
  c : Nat := 0
  deriving DecidableEq, Repr

/-- The Border engine of a rim die (R187 to R191). -/
structure BorderSt where
  slot  : Nat := 0
  stage : BorderStage := .idle
  entry : Nat := 0
  tile  : Nat := 0
  pc    : Nat := 0
  /-- Vector registers, key 1024 · register + element. -/
  v     : SMap Nat := []
  /-- Scalar registers k0–k15. -/
  k     : SMap Nat := []
  /-- Scalar, row and column accumulators. -/
  acc   : SMap PairAcc := []
  row   : SMap PairAcc := []
  col   : SMap PairAcc := []
  /-- The accumulators combined over the eight Borders. -/
  total : SMap PairAcc := []
  deriving DecidableEq, Repr

/-- The PERF and FAULT registers of training (R204, R37, R256). -/
structure TrainSt where
  updCtl   : Word := 0x00100003
  commitLimit : Word := 0x01000000
  flags    : FlagReg := []
  cycFlags : FlagReg := []
  collFlags : FlagReg := []
  deriving DecidableEq, Repr

/-! ### Host ports, functions and descriptor rings -/

/-- MB_STATUS.STATE (Table 11.7). -/
inductive MbState where
  | idle | busy | challenged | opened | closing
  deriving DecidableEq, Repr

/-- A key entry (R266). -/
structure KeyEntry where
  role   : Nat := 0
  domain : Nat := 0
  key    : List Byte := []
  deriving DecidableEq, Repr

/-- A mailbox command in progress with the values it latched (R268, R269). -/
structure MbCmd where
  op       : Nat
  seq      : Nat
  key      : Nat
  nonce    : List Byte
  mac      : List Byte
  password : List Byte
  /-- The key entry as it stood when the command started (R268). -/
  entry    : KeyEntry
  /-- The key entry or role was locked when the command was taken (R272). -/
  locked   : Bool
  /-- The SERVICE verifier as it stood when the command started. -/
  verifier : Option (List Byte × List Byte)
  /-- The key entry or verifier changed meanwhile: a session it opens closes at once (R407). -/
  thenClose : Bool := false
  deriving DecidableEq, Repr

/-- A host register set of a check (R352, Tables 15.2 and 15.3). -/
structure ChkSet where
  en     : Bool := false
  alg64  : Bool := false
  dir    : Nat := 0
  fold   : Nat := 0
  final  : Bool := true
  fresh  : Bool := true
  busy   : Bool := false
  buf    : Nat := 0
  foldV  : Nat := 0
  run    : Nat := 0
  result : Nat := 0
  deriving DecidableEq, Repr

/-- The configuration space of a function as far as software sets it (R257, R258): Memory Space and Bus Master Enable, Max
Payload Size and Max Read Request Size as coded, Enable Relaxed Ordering, ECRC generation and check, MSI-X Enable and Function
Mask, the base addresses of BAR0 and BAR2. -/
structure CfgSt where
  mem      : Bool := false
  master   : Bool := false
  mps      : Nat := 0
  mrrs     : Nat := 2
  relaxed  : Bool := true
  ecrcGen  : Bool := false
  ecrcChk  : Bool := false
  msixEn   : Bool := false
  msixMask : Bool := false
  bar0     : Nat := 0
  bar2     : Nat := 0
  deriving DecidableEq, Repr

/-- A function view: mailbox and session (R266 to R275), ring set-up (R276 to R283, R299), check sets, MSI-X
table, and the per-function selects, snapshots, holding registers and shadow (R436). -/
structure FnSt where
  mbState  : MbState := .idle
  mbCmd    : Nat := 0
  mbSeq    : Nat := 0
  mbResult : Nat := 0
  mbKey    : Nat := 0
  cmd      : Option MbCmd := none
  /-- MB_KEY and HOST_NONCE as OPEN latched them (R269). -/
  chKey    : Nat := 0
  chNonce  : List Byte := []
  session  : Nat := 0
  role     : Nat := 0
  keyId    : Nat := 0
  domain   : Nat := 0
  hostNonce : List Byte := []
  devNonce : List Byte := []
  hostMac  : List Byte := []
  devMac   : List Byte := []
  password : List Byte := []
  pwLen    : Nat := 0
  d3hot    : Bool := false
  /-- FN_RINGS of this function. -/
  ringFirst : Nat := 0
  ringCount : Nat := 0
  fnSel    : Nat := 0
  ringSel  : Nat := 0
  dbBase   : Nat := 0
  bufBase  : Nat := 0
  bufCount : Nat := 0
  /-- DB_POLL: EN and PERIOD. -/
  pollEn   : Bool := false
  pollPer  : Nat := 3
  ringFlags : FlagReg := []
  hostFlags : FlagReg := []
  authFails : Nat := 0
  chk      : SMap ChkSet := []
  chkFlags : FlagReg := []
  /-- Select registers and their snapshots, key offset of the select register in BAR0. -/
  sels     : SMap Nat := []
  snaps    : SMap (List Nat) := []
  /-- Holding registers of the LO halves, key offset of the LO register. -/
  hold     : SMap Nat := []
  /-- The RO pair whose LO the previous read took, and its captured upper half (R435). -/
  shadow   : Option (Nat × Nat) := none
  /-- MSI-X table words, key word index; a vector's control word resets to masked (1). -/
  msix     : SMap Nat := []
  msixPend : SMap Bool := []
  cfg      : CfgSt := {}
  deriving DecidableEq, Repr

/-- A host port (R257 to R261): link up, PERST# asserted, the SR-IOV capability (VF Enable, VF Memory Space Enable, NumVFs,
VF BARs), CPL_DROP_CNT. -/
structure HostPort where
  up      : Bool := false
  perst   : Bool := true
  vfEnable : Bool := false
  vfMem   : Bool := false
  numVfs  : Nat := 0
  vfBar0  : Nat := 0
  vfBar2  : Nat := 0
  cplDrop : Nat := 0
  deriving DecidableEq, Repr

/-- A descriptor after it was decided and until its completion is written (R286, R294): acceptance number, index
in the submission ring, the 64 bytes as a number, its outcome once known, DETAIL, and whether the function that
owned the ring was reset since (R262). -/
structure DescSt where
  id     : Nat
  idx    : Nat
  raw    : Nat
  status : Option Nat := none
  detail : Nat := 0
  orphan : Bool := false
  /-- Host address and bytes of the run report (R295), once the RUN has ended. -/
  report : Option (Nat × List Byte) := none
  /-- The RUN of the same ring that consumed it as an entry (R291), by acceptance number. -/
  ofRun  : Option Nat := none
  deriving DecidableEq, Repr

/-- A descriptor ring (R276 to R297). -/
structure RingSt where
  enable  : Bool := false
  active  : Bool := false
  size    : Nat := 0
  modCnt  : Nat := 0
  modTime : Nat := 0
  vector  : Nat := 0
  sq      : Nat := 0
  cq      : Nat := 0
  /-- Fetch index, and the TAIL of the fetch in progress. -/
  fetch   : Nat := 0
  target  : Option Nat := none
  /-- Completion index, phase, completions written since enable, completions not yet signalled. -/
  cidx    : Nat := 0
  phase   : Bool := true
  written : Nat := 0
  unsig   : Nat := 0
  /-- Descriptors fetched and waiting for their decision: index and 64 bytes. -/
  ready   : List (Nat × Nat) := []
  /-- Decided descriptors whose completion is not yet written, oldest first. -/
  open_   : List DescSt := []
  /-- Acceptance numbers of open descriptors whose outcome is fixed, in that order (R294). -/
  finished : List Nat := []
  nextId  : Nat := 0
  /-- PROBLEM entries that a RUN with PSRC = 1 still collects: descriptor of the RUN, count still missing (R291). -/
  collect : Option (Nat × Nat) := none
  deriving DecidableEq, Repr

/-- An arbiter (R357 to R364). -/
structure ArbSt where
  ptr      : Nat := 0
  queue    : List Nat := []
  swFreeze : Bool := false
  fmFreeze : Bool := false
  fenced   : Nat := 0
  /-- The requester of the last grant and its fc, and whether a granted transfer is still in progress. -/
  lastGrant : Option (Nat × Nat) := none
  busy     : Bool := false
  grants   : Nat := 0
  parked   : Nat := 0
  refused  : Nat := 0
  dead     : Nat := 0
  /-- By input, the slot + 1 whose step waits for a request that met another here and was parked or refused (R238). -/
  owner    : SMap Nat := []
  deriving DecidableEq, Repr

/-! ### Wale links and the torus -/

/-- LINK_STATUS.STATE (Table 13.9). -/
inductive LinkState where
  | down | training | hello | up | retrain | lost | mismatch
  deriving DecidableEq, Repr

/-- A Wale port with the two halves of its link (R300 to R320). -/
structure LinkSt where
  en        : Bool := false
  state     : LinkState := .down
  txGroups  : Nat := 0
  rxGroups  : Nat := 0
  chdly     : Nat := 0
  partner   : Nat := 0
  txRetired : Nat := 0
  rxRetired : Nat := 0
  fecCorr   : Nat := 0
  fecUncorr : Nat := 0
  crcFail   : Nat := 0
  resend    : Nat := 0
  transient : Nat := 0
  lasting   : Nat := 0
  retrain   : Nat := 0
  flags     : FlagReg := []
  /-- This port has accepted its partner (MATCH, R304), has its channel excess measured, and the fc count of the partner's last
  HELLO. -/
  accepted  : Bool := false
  measured  : Bool := false
  echo      : Option Word := none
  /-- Transmit half: next sequence number, unacknowledged blocks oldest first, whether the partner asks for a
  pause, the block resent after a NAK naming it. -/
  txNext    : Nat := 0
  unacked   : List (Nat × Block) := []
  paused    : Bool := false
  nakSeq    : Option Nat := none
  /-- Bytes of the transmit half's stream since its lanes last changed (R300), and blocks sent since the last SKIP (R306). -/
  txBytes   : Nat := 0
  sinceSkip : Nat := 0
  /-- Receive half: expected sequence number, whether the half waits for that block again, a NAK for it that is still to be
  sent, failed attempts of it, lanes flagged in the failed second attempt, PAUSE sent. -/
  rxNext    : Nat := 0
  waiting   : Bool := false
  nakDue    : Bool := false
  attempts  : Nat := 0
  badLanes  : Nat := 0
  pauseOut  : Bool := false
  /-- fc counts of retrains that retired no lane (R312). -/
  idle      : List Nat := []
  deriving DecidableEq, Repr

/-- MODE of an axis (Table 13.16). -/
inductive RingMode where
  | ring | line | split
  deriving DecidableEq, Repr

/-- The TORUS block: coordinate and axis lengths − 1 as register words, mode and BREAK of each axis. -/
structure TorusSt where
  coord : Nat := 0
  len   : Nat := 0
  mode  : List RingMode := [.ring, .ring, .ring]
  brk   : List Nat := [0, 0, 0]
  /-- Accepted blocks that have not been handed on, with the port that received each, in order of acceptance (R315, R318); blocks of
  this package that wait for their port. -/
  transit : List (Nat × Block) := []
  inject : List Block := []
  flags : FlagReg := []
  deriving DecidableEq, Repr

/-! ### Faults -/

/-- The fault manager's records (R371 to R390). Dies are numbered as FAULT_REC_HI.DIE: 12·q + site, 0x30 to 0x37 rim
dies, 0x38, 0x39 port dies, 0x3A, 0x3B Handle dies, 0x3C to 0x3F Slaths. -/
structure FaultSt where
  cls      : Nat := 0
  detect   : Nat := 0
  code     : Nat := 0
  recNo    : Nat := 0
  die      : Nat := 0xFF
  recFc    : Nat := 0
  transCnt : Nat := 0
  lastCnt  : Nat := 0
  flags    : FlagReg := []
  /-- Fenced dies in the order in which they were fenced (R378). -/
  fenced   : List Nat := []
  /-- Logical position + 1 that the spare of a kind serves, key 2 · quadrant + (0 DD, 1 ED), and whether it is on. -/
  spareFor : SMap Nat := []
  spareOn  : SMap Bool := []
  /-- Positions left unserved: 16 · quadrant + POS (R386). -/
  unserved : List Nat := []
  /-- Fenced compute dies whose substitution is still to be started, in the order of their faults (R381, R385). -/
  latched  : List Nat := []
  /-- Fenced compute dies whose spare is being powered and loaded (R385). -/
  powering : List Nat := []
  /-- Slath bridges out of service: 0 S0–S1, 1 S2–S3, 2 S0–S2, 3 S1–S3 (R388). -/
  bridges  : List Nat := []
  /-- fc counts of bond-link transients of a die within the last second (R372). -/
  bond     : SMap (List Nat) := []
  /-- Uncorrectable words (R373): die, word, slot of the attempt, and whether it was met in the attempt before the
  present one. -/
  words    : List (Nat × Nat × Nat × Bool) := []
  /-- Words that SECDED corrected, by core address (operand store, R85), 4096 + 4 · core + engine (accumulator memory, R71),
  and 20480 for other SRAM words. -/
  sramCorr : SMap Nat := []
  /-- Missed heartbeats in a row, by die (R374). -/
  missed   : SMap Nat := []
  /-- Engines whose last self-test failed: core address · 4 + engine (R377). -/
  failedTest : List Nat := []
  /-- Failed reads of a rim die: channel and fc count (R377). -/
  rimFails : SMap (List (Nat × Nat)) := []
  deriving DecidableEq, Repr

/-! ### Clocks and step pacing -/

/-- The CLOCK block and the power budget (R251 to R256). -/
structure ClockSt where
  /-- fc count captured by CYC_SNAP (R255). -/
  snap     : Nat := 0
  memLock  : Bool := false
  serdesLock : Bool := false
  /-- Ports whose PCI Express PHY PLL has locked. -/
  pcieLock : List Nat := []
  /-- PACE_CAP.WATTS. -/
  paceCap  : Nat := 0x0BB8
  /-- Package idle power measured at boot, in W. -/
  idle     : Nat := 0
  /-- Steps of 5 % of PACE_CAP by which the thermal limit is lowered; DERATE is set while it is not 0. -/
  derated  : Nat := 0
  /-- Excess of measured over predicted power, in W (R253). -/
  correction : Nat := 0
  /-- Slots with a held step start, in the order of request (R252). -/
  held     : List Nat := []
  deriving DecidableEq, Repr

/-! ### Handle -/

/-- What a Handle die is doing (R391, R393, R411). -/
inductive DieRole where
  /-- Not started, powered off or gated. -/
  | off
  /-- Started and not yet synchronised. -/
  | starting
  | active
  | standby
  /-- Rebooting in a live update. -/
  | rebooting
  | lost
  deriving DecidableEq, Repr

/-- A Handle die with its flash (R391 to R397). A slot with no image listed holds the image of manufacture. -/
structure HandleDie where
  role     : DieRole := .off
  /-- Flash: BOOTSEL copies 0 and 1 (slot and GEN), images written since manufacture, key slot. -/
  bootsel  : List (Nat × Nat) := [(0, 1), (0, 0)]
  images   : SMap ImageSt := []
  /-- Fused minimum SVN raised since manufacture (R412). -/
  minSvn   : Nat := 0
  /-- The slot it runs from. -/
  slot     : Nat := 0
  deriving DecidableEq, Repr

/-- An event-log entry (Table 17.5) without its CRC. -/
structure LogEntry where
  seq  : Nat
  mc   : Nat
  boot : Nat
  src  : Nat
  code : Nat
  die  : Nat
  sev  : Nat
  args : List Byte
  deriving DecidableEq, Repr

/-- A failure count and lock-out (R272): consecutive failures, whether a lock is in force, its length in s. -/
structure LockSt where
  fails  : Nat := 0
  locked : Bool := false
  secs   : Nat := 0
  deriving DecidableEq, Repr

/-- An SPDM secured session (R405): session ID, FINISH done, MG_AUTH succeeded, the unconsumed nonce. -/
structure SpdmSt where
  sid    : Nat
  secured : Bool := false
  auth   : Bool := false
  nonce  : Option (List Byte) := none
  deriving DecidableEq, Repr

/-- A HANDLE mailbox command in progress (R413): OP, SEQ, argument, and the status it is refused with or 0. -/
structure HmOp where
  op      : Nat
  seq     : Nat
  arg     : Nat
  refused : Nat := 0
  deriving DecidableEq, Repr

/-- A live update in progress (R410): the image offered, and the dies that already run it. -/
structure UpdateSt where
  image  : ImageSt
  done   : List Nat
  deriving DecidableEq, Repr

/-- The fence table in flash (R15, Table 17.1): fenced dies in their order, substitutions, positions left unserved, fenced dies
whose substitution was still to come, bridges and rim dies out of service. -/
structure FenceTab where
  fenced   : List Nat := []
  spareFor : SMap Nat := []
  unserved : List Nat := []
  latched  : List Nat := []
  bridges  : List Nat := []
  rims     : List Nat := []
  deriving DecidableEq, Repr

/-- Handle (R391 to R413). The event log, key store, verifier, board record, certificates and BOOTSEL copies lie in
flash. -/
structure HandleSt where
  /-- Flash. -/
  keys     : SMap KeyEntry := []
  /-- SERVICE verifier: salt and HMAC. -/
  verifier : Option (List Byte × List Byte) := none
  mkey     : Option (List Byte) := none
  board    : Option BoardRec := none
  cert     : List Byte := []
  log      : List LogEntry := []
  nextSeq  : Nat := 0
  boots    : Nat := 0
  dies     : SMap HandleDie := []
  /-- The fence table as the last boot found it, and whether this boot has re-applied it: from then on it records what the
  fault manager and the tiers hold. -/
  fences   : FenceTab := {}
  applied  : Bool := false
  /-- The die that holds the ownership latch, and the boot stage. -/
  latch    : Option Nat := none
  stage    : Nat := 0
  /-- MGMT_BUS_SEL, MGMT_OWN_N and TEST_MODE_N as sampled at the release of COLD_RST_N (Table 20.2). -/
  busSel   : Bool := false
  ownN     : Bool := true
  testN    : Bool := true
  takeovers : Nat := 0
  update   : Option UpdateSt := none
  /-- By KEY_ID; 1024 the SERVICE role, 1025 MKEY. -/
  locks    : SMap LockSt := []
  flags    : FlagReg := []
  spdm     : Option SpdmSt := none
  /-- Measurements that follow an event (Table 17.8): the standby image as last synchronised, SITE_MAP as last measured. -/
  measStandby : Option ImageSt := none
  measSites : List Nat := []
  eid      : Nat := 0
  /-- The handover store holds a copy of the protected state (R411). -/
  handover : Bool := false
  /-- HM registers: command in progress, SEQ, RESULT, argument, data words, HM_CMD as written. -/
  hmBusy   : Option HmOp := none
  hmSeq    : Nat := 0
  hmResult : Nat := 0
  hmArg    : Nat := 0
  hmCmd    : Nat := 0
  hmData   : List Nat := []
  /-- Sensor values (Table 17.4). -/
  sensors  : SMap Int := []
  /-- VCORE set-points in mV and the mc count of the last VOUT_COMMAND (R402). -/
  vcore    : SMap Nat := []
  vcoreMc  : SMap Nat := []
  deriving DecidableEq, Repr

/-! ### Perturbation, loopback, self-test, JTAG, power -/

/-- A perturbation point (R417 to R422). -/
structure PointSt where
  arm    : Bool := false
  kind   : Nat := 0
  mode   : Nat := 0
  target : Nat := 0
  value  : Nat := 0
  duty   : Nat := 0
  seed   : Nat := 1
  gen    : Nat := 1
  count  : Nat := 0
  /-- Injections made since it was armed. -/
  made   : Nat := 0
  deriving DecidableEq, Repr

/-- The PERTURB block (R414 to R428). -/
structure PertSt where
  en     : Bool := false
  owner  : Nat := 0
  /-- The function whose session owns the block. -/
  ownerFn : Nat := 0
  flags  : FlagReg := []
  fc     : Nat := 0
  points : SMap PointSt := []
  /-- Tokens in a QDELAY hold, by queue key 16 · core + queue, with the fc in which each leaves. -/
  holds  : SMap (Option (Token × Nat)) := []
  lpEn   : Bool := false
  lpMode : Bool := false
  lpPort : Nat := 0
  lpLanes : Nat := 0
  lpErrs : Nat := 0
  bistOp : Nat := 0
  bistKind : Nat := 0
  bistTarget : Nat := 0
  bistRun : Bool := false
  bistFail : Bool := false
  bistResult : Nat := 0
  bistRetired : Nat := 0
  /-- Acknowledgement states of a receiving half with the fc from which each held, newest first (R421). -/
  acks   : SMap (List (Nat × Nat)) := []
  /-- Sequence number + 1 of the block of a port whose resend is corrupted too (WALE_TWICE). -/
  spoil  : SMap Nat := []
  deriving DecidableEq, Repr

/-- The IEEE 1149.1 TAP (R427): the instruction, the boundary register, and the values EXTEST drives. -/
structure TapSt where
  instr    : TapInstr := .idcode
  boundary : List Bool := []
  driven   : List Bool := []
  deriving DecidableEq, Repr

/-- Main power and the open-drain lands (R444 to R457). -/
structure PowerSt where
  on         : Bool := true
  /-- COLD_RST_N is low. -/
  coldReset  : Bool := true
  thermTrip  : Bool := false
  pwrFault   : Bool := false
  /-- Causes detected since power-up, in order. -/
  causes     : List Nat := []
  deriving DecidableEq, Repr

/-! ### The package -/

/-- What the part puts out. -/
inductive Output where
  /-- A token sent into the fabric (R127). -/
  | token (t : Token)
  /-- A packet a collective engine hands to the torus, to the package of a coordinate (R325). -/
  | packet (dest : Nat) (p : Packet)
  /-- A block handed to a Wale port (R306), and the lane that carries its first byte; the following bytes go on the following
  lanes in service, in rotation (R300). -/
  | block (port : Nat) (b : Block) (lane : Nat)
  /-- A block that has reached its DEST, handed to the collective engine (R314). -/
  | arrived (b : Block)
  /-- A discarded block reported to the fault manager: SRC, DEST, STREAM (R314, R315, R317). -/
  | discarded (src dest stream : Nat)
  /-- Bytes written to host memory: port and address (R193, R294). -/
  | hostWrite (port addr : Nat) (bytes : List Byte)
  /-- An MSI-X message of a function: port, function, vector (R438). -/
  | msix (port fn vector : Nat)
  /-- A REPAIR message to the member of a rank of a slot's data ring (R201). -/
  | repair (slot rank : Nat) (m : RepairMsg)
  /-- The answer to a management command: result byte and data (R406). -/
  | mgmt (result : Nat) (data : List Byte)
  /-- The board record that BOARD_GET returns (Table 17.7). -/
  | board (r : Option BoardRec)
  /-- The answer to an SPDM or PLDM request: whether it was accepted (R405, R410). -/
  | bmc (accepted : Bool)
  /-- An event-log entry of SEV 2 reported to the BMC as a PLDM platform event (Table 17.6). -/
  | event (e : LogEntry)
  /-- Bits shifted out on TDO (R427). -/
  | tdo (bits : List Bool)
  deriving DecidableEq, Repr

/-- The watchdog report registers (R145 to R147). -/
structure WdogSt where
  limit  : Nat := 0x100000
  held   : Bool := false
  part   : Nat := 0
  missed : Nat := 0
  nent   : Nat := 0
  /-- WDOG_ENTRY0 to WDOG_ENTRY7. -/
  entries : SMap Nat := []
  deriving DecidableEq, Repr

/-- The state of the package. -/
structure State where
  /-- Commands that wait, first in first out. -/
  pending : List Instr := []
  cores   : SMap CoreSt := []
  parts   : SMap PartSt := []
  /-- CONV_FLAGS and CONV_OCC (R35); the sticky flags of each converter unit, a mask of four bits, by unit: a core by its
  address, 4096 + rim die, 4104 + port die. -/
  convFlags : FlagReg := []
  convUnits : SMap Nat := []
  pipeFlags : FlagReg := []
  wdog    : WdogSt := {}
  tiers   : TierSt := {}
  doms    : SMap DomSt := []
  slaths  : SMap SlathSt := []
  slots   : SMap SlotSt := []
  borders : SMap BorderSt := []
  train   : TrainSt := {}
  ports   : SMap HostPort := []
  fns     : SMap FnSt := []
  rings   : SMap RingSt := []
  arbs    : SMap ArbSt := []
  /-- Wale ports 0 to 5. -/
  links   : SMap LinkSt := []
  torus   : TorusSt := {}
  fault   : FaultSt := {}
  /-- fc counted by the cycle counters, and whether the root PLL is locked (R254). -/
  fc      : Nat := 0
  rootLock : Bool := false
  clock   : ClockSt := {}
  handle  : HandleSt := {}
  pert    : PertSt := {}
  tap     : TapSt := {}
  power   : PowerSt := {}
  /-- Service mode of the package (R266). -/
  service : Bool := false
  /-- Draws made so far from the free values of `Config`. -/
  draws   : Nat := 0
  out     : List Output := []
  deriving DecidableEq, Repr

/-- The package after cold reset. -/
def State.reset : State := {}

end Sys2Proof.Machine
end

