-- ==== Sys2Proof/Machine/Flags.lean ====
section
/-! DEFINITION. Event flags and occurrence counts (R365 to R368) and the flag bits of every block. -/

namespace Sys2Proof.Machine

/-- The count of a flag. -/
def flagCount (f : FlagReg) (b : Nat) : Nat := (mget {} f b).count

/-- Whether the event of a flag has been raised in an fc. -/
def flagNow (fc : Nat) (f : FlagReg) (b : Nat) : Bool := flagCount f b != 0 && (mget {} f b).last == fc

/-- The event of a flag is raised in an fc: the first of that fc makes its count rise by 1, and the count stays at 0xFF (R366). -/
def raise (fc : Nat) (f : FlagReg) (b : Nat) : FlagReg :=
  if flagNow fc f b then f else mset {} f b { count := min (flagCount f b + 1) 255, last := fc }

/-- Raise a flag where a condition holds. -/
def raiseIf (fc : Nat) (c : Bool) (f : FlagReg) (b : Nat) : FlagReg := if c then raise fc f b else f

/-- Whether a flag is 1 (R367). -/
def flagSet (f : FlagReg) (b : Nat) : Bool := flagCount f b != 0

/-- A software write of `w` to the flag register in an fc: a 1 clears the flag and its count, or leaves the flag 1 and its count 1 where its
event is raised in the same fc; a 0 changes nothing (R367). -/
def flagClear (fc : Nat) (f : FlagReg) (w : Nat) : FlagReg :=
  (f.filter (fun p => !bit w p.1 || flagNow fc f p.1)).map (fun p => if bit w p.1 then (p.1, { p.2 with count := 1 }) else p)

/-- The FLAGS register as software reads it. -/
def flagWord (f : FlagReg) : Nat := (f.map (fun p => if p.2.count = 0 then 0 else 2 ^ p.1)).foldl (· + ·) 0

/-- OCC word k: the counts of flags 4k to 4k + 3, eight bits each. -/
def occWord (f : FlagReg) (k : Nat) : Nat :=
  flagCount f (4 * k) + 2 ^ 8 * flagCount f (4 * k + 1) + 2 ^ 16 * flagCount f (4 * k + 2) + 2 ^ 24 * flagCount f (4 * k + 3)

end Sys2Proof.Machine
end

