-- ==== Sys2Proof/Machine/CoreOps.lean ====
section
/-! DEFINITION. What every core instruction shares: the core addressed, whether its sequencer can issue, the
register files, results in flight and the end of a bundle (R16, R88 to R94). -/

namespace Sys2Proof.Machine

/-- Outcome type of every meaning. -/
abbrev Res := Host.Outcome State Fault Refusal

/-- POS field of a core address (R16). -/
def corePos (c : Nat) : Nat := c / 64 % 16

/-- Whether a core address lies on an even die (R16). -/
def coreEven (c : Nat) : Bool := decide (8 ≤ corePos c)

/-- Whether a core address names a core (R16). -/
def coreValid (c : Nat) : Bool :=
  decide (c < 4096) && decide (corePos c ≤ 9) && (!coreEven c || decide (c / 8 % 8 ≤ 3))

/-- Lanes of a core (Table 05.1). -/
def coreLanes (c : Nat) : Nat := if coreEven c then 128 else 32

/-- The cluster number of a core. -/
def coreCluster (c : Nat) : Nat := c / 8

/-- A core. -/
def getCore (s : State) (c : Nat) : CoreSt := mget {} s.cores c

/-- Write a core. -/
def setCore (s : State) (c : Nat) (co : CoreSt) : State := { s with cores := mset {} s.cores c co }

/-- A partition. -/
def getPart (s : State) (p : Nat) : PartSt := mget {} s.parts p

/-- Write a partition. -/
def setPart (s : State) (p : Nat) (x : PartSt) : State := { s with parts := mset {} s.parts p x }

/-- The partition a cluster belongs to (R109). -/
def partOfCluster (s : State) (k : Nat) : Option Nat :=
  (s.parts.find? (fun p => p.2.clusters.contains k)).map (·.1)

/-- The cores of a partition: eight of each cluster. -/
def partCores (p : PartSt) : List Nat := p.clusters.flatMap (fun k => (List.range 8).map (8 * k + ·))

/-- A context slot of a core. -/
def getCtx (co : CoreSt) (n : Nat) : Ctx := mget {} co.ctxs n

/-- Write a context slot of a core. -/
def setCtx (co : CoreSt) (n : Nat) (x : Ctx) : CoreSt := { co with ctxs := mset {} co.ctxs n x }

/-! ### Context images -/

/-- Header field S of an image (Table 06.2). -/
def imSize (im : CtxImage) : Nat := bits im.header 31 0
/-- Bundle count n of an image. -/
def imCount (im : CtxImage) : Nat := bits im.header 47 32
/-- Operand-store pages of an image. -/
def imPages (im : CtxImage) : Nat := bits im.header 63 48
/-- Core address of an image. -/
def imCoreAddr (im : CtxImage) : Nat := bits im.header 79 64
/-- Core kind of an image. -/
def imKind (im : CtxImage) : Nat := bits im.header 87 80

/-- Operand descriptor d of a context. -/
def Ctx.desc (x : Ctx) (d : Nat) : Nat := match x.image with | some im => nth 0 im.descs d | none => 0
/-- Table descriptor t of a context. -/
def Ctx.table (x : Ctx) (t : Nat) : Nat := match x.image with | some im => nth 0 im.tables t | none => 0
/-- Queue-table entry q of a context. -/
def Ctx.queueEntry (x : Ctx) (q : Nat) : Nat := match x.image with | some im => nth 0 im.queues q | none => 0
/-- Route-table entry r of a context. -/
def Ctx.route (x : Ctx) (r : Nat) : Nat := match x.image with | some im => nth 0 im.routes r | none => 0
/-- Slot-map entry k of an engine: 0 none, 1 plain, 2 pair. R82 gives each entry a byte and no code; the codes are the
model's choice (DESIGN CHOICE, log entry 14). -/
def Ctx.slotKind (x : Ctx) (e k : Nat) : Nat :=
  match x.image with | some im => nth 0 im.slotMap (16 * e + k) | none => 0
/-- Bundles of a context's stream. -/
def Ctx.bundles (x : Ctx) : Nat := match x.image with | some im => imCount im | none => 1

/-! ### Registers -/

/-- A lane word of a vector register. -/
def Ctx.lane (x : Ctx) (r i : Nat) : Nat := mget 0 x.regs (128 * r + i)

/-- Whether a lane of a register is a masked lane. -/
def Ctx.laneMasked (x : Ctx) (r i : Nat) : Bool := mget false x.masked (128 * r + i)

/-- A predicate bit: p0 reads as all ones (R89). -/
def Ctx.pred (x : Ctx) (p i : Nat) : Bool := if p = 0 then true else mget false x.preds (128 * p + i)

/-- The selected predicate bit of an instruction (R93). -/
def Ctx.active (x : Ctx) (pinv : Bool) (preg i : Nat) : Bool := x.pred preg i != pinv

/-- Write one lane result; writes to p0 are discarded (R89). -/
def Ctx.writeLane (x : Ctx) (pred : Bool) (r : Nat) (v : Nat × Nat × Bool) : Ctx :=
  if pred then
    if r = 0 then x else { x with preds := mset false x.preds (128 * r + v.1) (v.2.1 != 0) }
  else { x with regs := mset 0 x.regs (128 * r + v.1) v.2.1,
                masked := mset false x.masked (128 * r + v.1) v.2.2 }

/-- Write a result that has become available. -/
def Ctx.writeResult (x : Ctx) (f : InFlight) : Ctx := f.vals.foldl (fun x v => x.writeLane f.pred f.reg v) x

/-- Put a result among results that rise by the ac in which they are due, behind those due no later. -/
def insertDue (f : InFlight) : List InFlight → List InFlight
  | [] => [f]
  | g :: gs => if f.due < g.due then f :: g :: gs else g :: insertDue f gs

/-- Results in the order in which they become available, those of one ac in the order of issue. -/
def byDue (fs : List InFlight) : List InFlight := fs.foldl (fun l f => insertDue f l) []

/-- The results whose latency has passed by the core's ac reach their registers, in the order in which they became
available, so that a register holds the value of the last one available (R90). -/
def settle (co : CoreSt) : CoreSt :=
  (byDue (co.inflight.filter (fun f => decide (f.due ≤ co.ac)))).foldl
    (fun co f => setCtx co f.ctx ((getCtx co f.ctx).writeResult f))
    { co with inflight := co.inflight.filter (fun f => decide (co.ac < f.due)) }

/-- Put a result in flight. -/
def pushResult (co : CoreSt) (f : InFlight) : CoreSt :=
  if f.vals.isEmpty then co else { co with inflight := co.inflight ++ [f] }

/-! ### Issue -/

/-- What an instruction issues from: the core, its current context number and that context. -/
structure Issue where
  core : CoreSt
  n    : Nat
  ctx  : Ctx
  deriving DecidableEq, Repr

/-- Whether a switch request to another context waits for this core's token boundary (R129). -/
def switchDue (p : PartSt) (co : CoreSt) (n : Nat) : Bool :=
  co.boundary && (match p.swReq with | some m => m.ctx != n | none => false)

/-- The sequencer of a core can issue: its partition is not drained by discard (R149), the core has a resident
current context (R113), has not finished the step (R168), and no switch is due at this boundary (R129). -/
def issue? (s : State) (c : Nat) : Option Issue :=
  match partOfCluster s (coreCluster c) with
  | none => none
  | some p =>
    let pt := getPart s p
    let co := getCore s c
    match co.cur with
    | none => none
    | some n =>
      let x := getCtx co n
      if x.resident && !co.finished && pt.drain != .discard && !switchDue pt co n then
        some { core := co, n := n, ctx := x }
      else none

/-- An instruction at a core: refused where no such core exists; no effect where the sequencer cannot issue. -/
def atCore (s : State) (c : Nat) (k : Issue → Res) : Res :=
  if !coreValid c then .refused .noSuchUnit
  else match issue? s c with
    | none => .next s
    | some i => k i

/-- The bundle after the one at `pc`, with the loops that end there (R92). -/
def nextPc : List LoopRec → Nat → Nat × List LoopRec
  | [], pc => (pc + 1, [])
  | l :: ls, pc =>
    if l.last = pc then
      if 0 < l.left then (l.first, { l with left := l.left - 1 } :: ls) else nextPc ls pc
    else (pc + 1, l :: ls)

/-- A context whose bundle at `pc` has ended; the stream starts again after its last bundle. -/
def Ctx.advance (x : Ctx) (pc : Nat) : Ctx :=
  let (pc', ls) := nextPc x.loops pc
  { x with pc := if pc' ≥ x.bundles then 0 else pc', loops := ls }

/-- One ac passes at a core. -/
def tickCore (co : CoreSt) (k : Nat) : CoreSt := settle { co with ac := co.ac + k }

/-- The B half of a bundle has issued: the bundle ends and one ac passes (R88). -/
def endBundle (co : CoreSt) (n : Nat) (x : Ctx) : CoreSt :=
  tickCore { setCtx co n (x.advance x.pc) with boundary := false, aDone := false, stop := none } 1

/-- An instruction of the A half at a core: a bundle has one, so a second one before the bundle's B half has no effect
(R88). -/
def atAHalf (s : State) (c : Nat) (k : Issue → Res) : Res :=
  atCore s c (fun i => if i.core.aDone then .next s else k i)

/-- The sequencer stops: the ac passes and the bundle is issued again (R91). -/
def stopAt (co : CoreSt) (why : StopCause) : CoreSt := tickCore { co with stop := some why } 1

/-- Add conversion events. The slot's counters saturate as R36 says; that a core's counters of a context, the events of an
attempt and the events of a copy saturate too is the model's choice (DESIGN CHOICE, log entry 113). -/
def Conv4.add (a b : Conv4) : Conv4 :=
  { sat := satAdd32 a.sat b.sat, ufl := satAdd32 a.ufl b.ufl, nar := satAdd32 a.nar b.nar,
    iovf := satAdd32 a.iovf b.iovf }

/-- Bits of CONV_FLAGS (Table 02.9). -/
def convSAT : Nat := 0
def convUFL : Nat := 1
def convNAR : Nat := 2
def convIOVF : Nat := 3

/-- The bits of CONV_FLAGS that events raise. -/
def Conv4.flags (e : Conv4) : List Nat :=
  (if e.sat = 0 then [] else [convSAT]) ++ (if e.ufl = 0 then [] else [convUFL]) ++ (if e.nar = 0 then [] else [convNAR])
    ++ (if e.iovf = 0 then [] else [convIOVF])

/-- The events of a converter unit: its sticky flags, and the package's flags and counts (R35). -/
def raiseConv (s : State) (u : Nat) (e : Conv4) : State :=
  if e.flags.isEmpty then s
  else
    { s with
      convFlags := e.flags.foldl (raise s.fc) s.convFlags
      convUnits := mset 0 s.convUnits u (e.flags.foldl (fun m b => m ||| 2 ^ b) (mget 0 s.convUnits u)) }

/-- Converter units beside the cores: rim dies and port dies. -/
def rimUnit (m : Nat) : Nat := 4096 + m
def portUnit (p : Nat) : Nat := 4104 + p

end Sys2Proof.Machine
end

