-- ==== Sys2Proof/Machine/Tiers.lean ====
section
/-! DEFINITION. Memory tiers: tier addresses and their translation, placement, mirroring, regions of domains and
slots, quotas and allocation (R205 to R228), and the status codes of the device (Table 12.9). -/

namespace Sys2Proof.Machine

/-! ### Status codes (Table 12.9) -/

def sSuccess : Nat := 0x00
def sBadOpcode : Nat := 0x01
def sBadField : Nat := 0x02
def sRoleDenied : Nat := 0x03
def sNotService : Nat := 0x04
def sBadCount : Nat := 0x05
def sLenOver : Nat := 0x06
def sBadBuf : Nat := 0x07
def sBadAddr : Nat := 0x08
def sShortBuf : Nat := 0x09
def sNoSlot : Nat := 0x0A
def sSlotExists : Nat := 0x0B
def sSlotBusy : Nat := 0x0C
def sNoMaster : Nat := 0x0D
def sBadImage : Nat := 0x0E
def sBadLayout : Nat := 0x0F
def sBadRole : Nat := 0x10
def sAuthFail : Nat := 0x11
def sAuthLocked : Nat := 0x12
def sAuthExpired : Nat := 0x13
def sSessionBusy : Nat := 0x14
def sNoSession : Nat := 0x15
def sQuota : Nat := 0x20
def sTierFull : Nat := 0x21
def sTierFail : Nat := 0x22
def sRegionBusy : Nat := 0x23
def sDomainBusy : Nat := 0x24
def sTierLate : Nat := 0x25
def sBadPattern : Nat := 0x30
def sAccOvercommit : Nat := 0x31
def sPatternCheck : Nat := 0x32
def sLoadBlocked : Nat := 0x33
def sLoadRetry : Nat := 0x34
def sPartBusy : Nat := 0x35
def sPartMode : Nat := 0x36
def sNotResident : Nat := 0x37
def sTagMismatch : Nat := 0x38
def sSeqErr : Nat := 0x39
def sStallWatchdog : Nat := 0x3A
def sBadProblem : Nat := 0x3B
def sFaultUncovered : Nat := 0x40
def sPeerLost : Nat := 0x41
def sStaleShard : Nat := 0x42
def sReplicaDivergence : Nat := 0x43
def sNarGrad : Nat := 0x44
def sHostCrc : Nat := 0x45
def sHostTimeout : Nat := 0x46
def sReplayExhausted : Nat := 0x47
def sFaultCovered : Nat := 0x48
def sCycUnattr : Nat := 0x49
def sDbErr : Nat := 0x50

/-! ### Tier addresses (R206, R207) -/

def taTier (a : Nat) : Nat := bits a 63 60
def taGidx (a : Nat) : Nat := bits a 39 21
def taOffs (a : Nat) : Nat := bits a 20 0

/-- A granule: 2 MiB. -/
def granBytes : Nat := 2097152

/-- Granules of the HBM3E and of the LPDDR5X tier (R214, R216). -/
def hbmGranules : Nat := 294912
def lpGranules : Nat := 524288

/-- The tier address of offset `o` of granule index `g`; the offset may run on into later granules. -/
def tierAddr (tier g o : Nat) : Nat := tier * 2 ^ 60 + g * 2 ^ 21 + o

/-- A tier code that is not reserved and no reserved bit (R206). -/
def taForm (a : Nat) : Bool := (taTier a == 1 || taTier a == 2) && bits a 59 40 == 0 && decide (a < 2 ^ 64)

/-- A domain. -/
def getDom (s : State) (d : Nat) : DomSt := mget {} s.doms d

/-- Write a domain. -/
def setDom (s : State) (d : Nat) (x : DomSt) : State := { s with doms := mset {} s.doms d x }

/-- The physical granule a granule index maps to (R207). -/
def physOf (d : DomSt) (tier g : Nat) : Option Nat :=
  match mget 0 (if tier = 1 then d.hbmMap else d.lpMap) g with
  | 0 => none
  | p + 1 => some p

/-- Whether n bytes from a tier address are all valid for a domain (R207). -/
def rangeValid (s : State) (dom a n : Nat) : Bool :=
  let d := getDom s dom
  n == 0 || (taForm a && (List.range ((taOffs a + n - 1) / granBytes + 1)).all (fun k =>
    decide (taGidx a + k < 2 ^ 19) && (physOf d (taTier a) (taGidx a + k)).isSome))

/-! ### Placement (R214, R216, R217) -/

/-- The LPDDR5X channel of physical 4 KiB block b (R216). -/
def lpChannel (b : Nat) : Nat :=
  bits b 5 0 ^^^ bits b 11 6 ^^^ bits b 17 12 ^^^ bits b 23 18 ^^^ bits b 27 24

/-- The channel index of Table 09.12 (R231) of byte offset o of a physical granule. -/
def channelOf (tier p o : Nat) : Nat :=
  if tier = 1 then 32 * (p % 16) + ((o / 4096 % 32) ^^^ (p / 16 % 32)) else 512 + lpChannel (512 * p + o / 4096)

/-- The rim die of a channel index. -/
def channelRim (c : Nat) : Nat := if c < 512 then c / 64 else (c - 512) / 8

/-- The rim die that holds offset o of a physical granule. -/
def rimOf (tier p o : Nat) : Nat := channelRim (channelOf tier p o)

/-! ### Bytes -/

/-- The physical granule a read of an offset is taken from: copy B where copy A's rim die is fenced (R227). -/
def readGranule (s : State) (d : DomSt) (tier g p o : Nat) : Nat :=
  if tier = 2 && mget false d.lpMirror g && s.tiers.fenced.contains (rimOf tier p o) then p ^^^ 4 else p

/-- What a byte of a physical granule was before anything was written to it: 0, or in a step area the free value that it took
when the attempt began (R174, R209). -/
def openByte (t : TierSt) (tier p o : Nat) : Byte :=
  match (if tier = 1 then mget 0 t.undef p else 0) with
  | 0 => 0
  | d + 1 => Config.undefinedByte d o

/-- The byte a physical granule holds at an offset. The cells hold it with `openByte` taken out, so that an unlisted byte is an
unwritten one. -/
def physByte (t : TierSt) (tier p o : Nat) : Byte :=
  mget 0 (if tier = 1 then t.hbm else t.lp) (p * granBytes + o) ^^^ openByte t tier p o

/-- Write a byte of a physical granule. -/
def setPhysByte (t : TierSt) (tier p o : Nat) (b : Byte) : TierSt :=
  if tier = 1 then { t with hbm := mset 0 t.hbm (p * granBytes + o) (b ^^^ openByte t tier p o) }
  else { t with lp := mset 0 t.lp (p * granBytes + o) (b ^^^ openByte t tier p o) }

/-- The byte at a tier address of a domain; none where the address is not valid. -/
def tierByte (s : State) (dom a : Nat) : Option Byte :=
  let d := getDom s dom
  if taForm a then
    (physOf d (taTier a) (taGidx a)).map (fun p =>
      physByte s.tiers (taTier a) (readGranule s d (taTier a) (taGidx a) p (taOffs a)) (taOffs a))
  else none

/-- Write a byte at a tier address: both copies of a mirrored granule, except a copy whose rim die is fenced (R227,
R228). Nothing happens at an invalid address. -/
def setTierByte (s : State) (dom a : Nat) (b : Byte) : State :=
  let d := getDom s dom
  let tier := taTier a
  let o := taOffs a
  match (if taForm a then physOf d tier (taGidx a) else none) with
  | none => s
  | some p =>
    if tier = 2 && mget false d.lpMirror (taGidx a) then
      let live (q : Nat) := !s.tiers.fenced.contains (rimOf tier q o)
      let t := if live p then setPhysByte s.tiers tier p o b else s.tiers
      { s with tiers := if live (p ^^^ 4) then setPhysByte t tier (p ^^^ 4) o b else t }
    else { s with tiers := setPhysByte s.tiers tier p o b }

/-- n bytes from a tier address; a byte at an invalid address counts as 0. -/
def tierBytes (s : State) (dom a n : Nat) : List Byte :=
  (List.range n).map (fun k => (tierByte s dom (a + k)).getD 0)

/-- Write bytes from a tier address on. -/
def setTierBytes (s : State) (dom a : Nat) : List Byte → State
  | [] => s
  | b :: bs => setTierBytes (setTierByte s dom a b) dom (a + 1) bs

/-- Little-endian number of n bytes. -/
def tierNum (s : State) (dom a n : Nat) : Nat := ofBytesLE (tierBytes s dom a n)

/-! ### The allocator (R207, R209, R214, R221, R226) -/

/-- Whether the stack of a physical granule, or the LPDDR5X channels, are under self-test (R425). Every LPDDR5X granule
lies on the channels of every rim die (R216). -/
def hbmTested (t : TierSt) (p : Nat) : Bool := t.testing.any (fun x => x.1 == 0 && x.2 == p % 16)
def lpTested (t : TierSt) : Bool := t.testing.any (·.1 == 1)

/-- Whether a physical granule is free and zeroed and its HBM3E stack is in service. -/
def hbmAvail (t : TierSt) (p : Nat) : Bool :=
  t.zeroed && mget .free t.hbmGran p == .free && !t.fenced.contains (p % 16 / 2) && !hbmTested t p

/-- Whether an LPDDR5X granule is free and zeroed. -/
def lpAvail (t : TierSt) (p : Nat) : Bool := t.zeroed && mget .free t.lpGran p == .free && !lpTested t

/-- The next HBM3E granule: the stack after `last`, lowest free granule of that stack; later stacks where it has
none (R214). -/
def takeHbm (t : TierSt) (last : Nat) : Option Nat :=
  (List.range 16).findSome? (fun j =>
    let st := (last + 1 + j) % 16
    (firstFree (fun k => !hbmAvail t (16 * k + st)) 0 18432).map (16 * · + st))

/-- The next LPDDR5X granule: the lowest free one, for a mirrored region the lowest whose partner p XOR 4 is free
too (R226). -/
def takeLp (t : TierSt) (mirrored : Bool) : Option Nat :=
  firstFree (fun p => !(lpAvail t p && (!mirrored || lpAvail t (p ^^^ 4)))) 0 lpGranules

/-- The lowest run of n granule indices from `start` on that a granule table leaves unmapped (R207). -/
def lowestRun (n : Nat) : SMap Nat → Nat → Nat
  | [], start => start
  | (k, _) :: m, start => if start + n ≤ k then start else lowestRun n m (k + 1)

/-- Map one granule of a region at index g. -/
def mapGranule (s : State) (dom tier g : Nat) (mirrored : Bool) : Option State :=
  let d := getDom s dom
  if tier = 1 then
    (takeHbm s.tiers d.lastStack).map (fun p =>
      setDom { s with tiers := { s.tiers with hbmGran := mset .free s.tiers.hbmGran p .mapped } } dom
        { d with hbmMap := mset 0 d.hbmMap g (p + 1), lastStack := p % 16, useHbm := d.useHbm + 1 })
  else
    (takeLp s.tiers mirrored).map (fun p =>
      let gr := mset .free s.tiers.lpGran p .mapped
      let gr := if mirrored then mset .free gr (p ^^^ 4) .mapped else gr
      setDom { s with tiers := { s.tiers with lpGran := gr } } dom
        { d with lpMap := mset 0 d.lpMap g (p + 1), lpMirror := mset false d.lpMirror g mirrored, useLp := d.useLp + (if mirrored then 2 else 1) })

/-- Map the n granules of a region from index g on. -/
def mapRun (dom tier : Nat) (mirrored : Bool) : Nat → Nat → State → Option State
  | 0, _, s => some s
  | n + 1, g, s => (mapGranule s dom tier g mirrored).bind (mapRun dom tier mirrored n (g + 1))

/-- A region to allocate: tier, granules per copy, kind, slot, mirrored. -/
structure RegionReq where
  tier     : Nat
  count    : Nat
  kind     : RegionKind
  slot     : Option Nat
  mirrored : Bool
  set      : Nat := 0
  deriving DecidableEq, Repr

/-- Physical granules a request charges (Table 09.5). -/
def RegionReq.charge (r : RegionReq) : Nat := if r.mirrored then 2 * r.count else r.count

/-- Allocate one region: its run of indices, then its granules in order. -/
def allocRegion (s : State) (dom : Nat) (r : RegionReq) : Option State :=
  let d := getDom s dom
  let g := lowestRun r.count (if r.tier = 1 then d.hbmMap else d.lpMap) 0
  if r.count = 0 then some s
  else if 2 ^ 19 < g + r.count then none
  else (mapRun dom r.tier r.mirrored r.count g s).map (fun s =>
    let d := getDom s dom
    setDom s dom { d with regions := d.regions ++
      [{ tier := r.tier, gidx := g, count := r.count, base := g, kind := r.kind, slot := r.slot, mirrored := r.mirrored, set := r.set }] })

/-- Allocate a list of regions. -/
def allocAll (dom : Nat) : List RegionReq → State → Option State
  | [], s => some s
  | r :: rs, s => (allocRegion s dom r).bind (allocAll dom rs)

/-- Sum of a list. -/
def sumNat (l : List Nat) : Nat := l.foldl (· + ·) 0

/-- Bits of QUOTA_FLAGS (Table 09.13) and TIER_FLAGS (Table 09.14). -/
def qfQuota : Nat := 0
def qfTierFull : Nat := 1
def tfLate : Nat := 0
def tfRetry : Nat := 1
def tfFail : Nat := 2
def tfMirrorDeg : Nat := 3

def raiseQuota (s : State) (b : Nat) : State :=
  { s with tiers := { s.tiers with quotaFlags := raise s.fc s.tiers.quotaFlags b } }
def raiseTier (s : State) (b : Nat) : State :=
  { s with tiers := { s.tiers with tierFlags := raise s.fc s.tiers.tierFlags b } }

/-- Result of an operation that can be refused: a status code, or the state it leaves. -/
inductive Ans where
  | err (code : Nat)
  | ok (s : State)
  deriving DecidableEq, Repr

/-- The DRAM part of an allocation as a whole (R221, R228): QUOTA first, then TIER_FAIL where a rim die is lost, then
TIER_FULL. -/
def allocRegions (s : State) (dom : Nat) (rs : List RegionReq) : Ans :=
  let d := getDom s dom
  let hbm := sumNat ((rs.filter (·.tier == 1)).map (·.charge))
  let lp := sumNat ((rs.filter (·.tier == 2)).map (·.charge))
  if (hbm ≠ 0 ∧ d.limHbm < d.useHbm + hbm) ∨ (lp ≠ 0 ∧ d.limLp < d.useLp + lp) then .err sQuota
  else if lp ≠ 0 ∧ s.tiers.fenced ≠ [] then .err sTierFail
  else match allocAll dom rs s with
    | none => .err sTierFull
    | some s => .ok s

/-- Flags of a refused allocation (Table 09.13). -/
def quotaEvents (s : State) (code : Nat) : State :=
  if code = sQuota then raiseQuota s qfQuota else if code = sTierFull then raiseQuota s qfTierFull else s

/-- Unmap granule index g: its granules await zeroing (R209), the usage falls at once. -/
def unmapGranule (dom tier : Nat) (s : State) (g : Nat) : State :=
  let d := getDom s dom
  match physOf d tier g with
  | none => s
  | some p =>
    if tier = 1 then
      setDom { s with tiers := { s.tiers with hbmGran := mset .free s.tiers.hbmGran p .dirty } } dom
        { d with hbmMap := merase d.hbmMap g, useHbm := d.useHbm - 1 }
    else
      let m := mget false d.lpMirror g
      let gr := mset .free s.tiers.lpGran p .dirty
      let gr := if m then mset .free gr (p ^^^ 4) .dirty else gr
      setDom { s with tiers := { s.tiers with lpGran := gr } } dom
        { d with lpMap := merase d.lpMap g, lpMirror := merase d.lpMirror g, useLp := d.useLp - (if m then 2 else 1) }

/-- Release a region (R224). -/
def releaseRegion (s : State) (dom : Nat) (r : Region) : State :=
  let s := (List.range r.count).foldl (fun s k => unmapGranule dom r.tier s (r.gidx + k)) s
  let d := getDom s dom
  setDom s dom { d with regions := d.regions.filter (· != r) }

/-- The runs of consecutive numbers in a rising list: first and count. -/
def runsOf (is : List Nat) : List (Nat × Nat) :=
  is.foldl (fun l i =>
    match l.getLast? with
    | some r => if r.1 + r.2 = i then l.dropLast ++ [(r.1, r.2 + 1)] else l ++ [(i, 1)]
    | none => [(i, 1)]) []

/-- Release the granules of a region that a predicate on their place in it does not keep. -/
def trimRegion (s : State) (dom : Nat) (r : Region) (keep : Nat → Bool) : State :=
  let gs := (List.range r.count).map (r.gidx + ·)
  let s := (gs.filter (fun g => !keep (g - r.base))).foldl (unmapGranule dom r.tier) s
  let d := getDom s dom
  setDom s dom { d with regions := d.regions.filter (· != r)
    ++ (runsOf (gs.filter (fun g => keep (g - r.base)))).map (fun q => { r with gidx := q.1, count := q.2 }) }

/-- Release every region of a domain that a predicate picks. -/
def releaseWhere (s : State) (dom : Nat) (f : Region → Bool) : State :=
  ((getDom s dom).regions.filter f).foldl (fun s r => releaseRegion s dom r) s

/-! ### The shared cache (R210 to R212) -/

/-- A Slath. -/
def getSlath (s : State) (q : Nat) : SlathSt := mget {} s.slaths q

/-- Write a Slath. -/
def setSlath (s : State) (q : Nat) (x : SlathSt) : State := { s with slaths := mset {} s.slaths q x }

/-- Whether granule g of a Slath (0 to 767) is free for staging and problem buffers. -/
def slathFree (x : SlathSt) (g : Nat) : Bool := !x.psBanks.contains (g / 8) && mget .free x.use g == .free

/-- Free granules of a Slath's staging. -/
def slathFreeCount (x : SlathSt) : Nat := 768 - 8 * x.psBanks.length - x.use.length

/-- Take n granules of a Slath, lowest first. -/
def takeSlath (u : CacheUse) : Nat → SlathSt → Option SlathSt
  | 0, x => some x
  | n + 1, x =>
    (firstFree (fun g => !slathFree x g) 0 768).bind (fun g =>
      takeSlath u n { x with use := mset .free x.use g u })

/-- Pages of a Slath's pattern store (R212): 256 of 64 KiB in a 16 MiB bank. -/
def psCapacity (x : SlathSt) : Nat := 256 * x.psBanks.length

/-- Release the granules of a use in a Slath; their bytes go with them. -/
def releaseSlath (u : CacheUse) (x : SlathSt) : SlathSt :=
  { x with use := x.use.filter (fun p => p.2 != u),
           bytes := x.bytes.filter (fun p => mget .free x.use (p.1 / granBytes) != u),
           undef := x.undef.filter (fun p => mget .free x.use p.1 != u) }

/-- What a byte of a Slath's staging was before anything was written to it: the free value that it took when the attempt began
(R211). -/
def openCache (x : SlathSt) (a : Nat) : Byte :=
  match mget 0 x.undef (a / granBytes) with
  | 0 => 0
  | d + 1 => Config.undefinedByte d (a % granBytes)

/-- A byte of a Slath's staging, kept like a byte of the tiers with `openCache` taken out. -/
def cacheByte (x : SlathSt) (a : Nat) : Byte := mget 0 x.bytes a ^^^ openCache x a

/-- Write a byte of a Slath's staging. -/
def setCacheByte (x : SlathSt) (a : Nat) (b : Byte) : SlathSt := { x with bytes := mset 0 x.bytes a (b ^^^ openCache x a) }

/-! ### Slots and their regions (Table 08.2, R187) -/

/-- A slot. -/
def getSlot (s : State) (n : Nat) : SlotSt := mget {} s.slots n

/-- Write a slot. -/
def setSlot (s : State) (n : Nat) (x : SlotSt) : State := { s with slots := mset {} s.slots n x }

/-- Change a slot. -/
def updSlot (s : State) (n : Nat) (f : SlotSt → SlotSt) : State := setSlot s n (f (getSlot s n))

/-- Tiles of an update-table entry (R187). -/
def entryTiles (e : UpdEntry) : Nat := ceilDiv e.count 1024

/-- Parameter tiles of a table. -/
def tableTiles (t : List UpdEntry) : Nat := sumNat (t.map entryTiles)

/-- The entry and index in it of a parameter tile, counted from 0 through the table (R187). -/
def tileEntry : List UpdEntry → Nat → Option (Nat × UpdEntry × Nat)
  | [], _ => none
  | e :: es, t =>
    if t < entryTiles e then some (0, e, t) else (tileEntry es (t - entryTiles e)).map (fun r => (r.1 + 1, r.2))

/-- First tile of entry n. -/
def entryTile0 (t : List UpdEntry) (n : Nat) : Nat := tableTiles (t.take n)

/-- The rim die that updates parameter tile t (R187, R387). -/
def tileRim (s : State) (t : Nat) : Nat := if s.tiers.fenced.contains (t % 8) then t % 8 ^^^ 4 else t % 8

/-- Declaration of state stream k of an entry. -/
def entryStream (e : UpdEntry) (k : Nat) : StreamDecl := nth {} e.streams k

/-- Elements, in whole tiles, that state stream k of an entry holds. -/
def streamElems (e : UpdEntry) (k : Nat) : Nat :=
  match (entryStream e k).ext with
  | .absent => 0
  | .full => 1024 * entryTiles e
  | .rows => 1024 * ceilDiv e.rows 1024
  | .cols => 1024 * ceilDiv e.cols 1024

/-- Bytes per element of a state stream. -/
def declWidth (d : StreamDecl) : Nat := if d.l16 then 2 else 4

/-- Bytes of state stream k of a table. -/
def streamBytes (t : List UpdEntry) (k : Nat) : Nat := sumNat (t.map (fun e => streamElems e k * declWidth (entryStream e k)))

/-- Byte offset of entry n in state stream k, counted in table order. -/
def streamOff (t : List UpdEntry) (k n : Nat) : Nat := streamBytes (t.take n) k

/-- The entries whose state stream k is L16, or FP32. -/
def widthEntries (l16 : Bool) (k : Nat) (t : List UpdEntry) : List UpdEntry := t.filter (fun e => (entryStream e k).l16 == l16)

/-- Where entry n lies in the region of state stream k: the FP32 entries before the L16 ones, each in table order, so that every
tile is aligned to its own size (R205; log entry 127). -/
def streamPlace (t : List UpdEntry) (k n : Nat) : Nat :=
  if t[n]?.any (fun e => (entryStream e k).l16) then
    streamBytes (widthEntries false k t) k + streamBytes (widthEntries true k (t.take n)) k
  else streamBytes (widthEntries false k (t.take n)) k

/-- Granules of a number of bytes. -/
def granules (bytes : Nat) : Nat := ceilDiv bytes granBytes

/-- The regions of a pattern's parameters: WC, W, S0 to S3 in two banks each, and the gradient store (Tables 08.2,
09.5). -/
def paramRegions (slot set : Nat) (mirrored host : Bool) (t : List UpdEntry) : List RegionReq :=
  let n := 1024 * tableTiles t
  let rq (tier bytes : Nat) (m : Bool) (k : RegionKind) : RegionReq :=
    { tier := tier, count := granules bytes, kind := k, slot := some slot, mirrored := m, set := set }
  [rq 1 (2 * n) false (.wc 0), rq 1 (2 * n) false (.wc 1)]
    ++ (if host then [] else [rq 2 (4 * n) mirrored (.w 0), rq 2 (4 * n) mirrored (.w 1)]
      ++ (List.range 4).flatMap (fun k =>
        [rq 2 (streamBytes t k) mirrored (.st k 0), rq 2 (streamBytes t k) mirrored (.st k 1)]))
    ++ [rq 2 (3 * n + 4 * tableTiles t) mirrored .grad]

/-- The step areas of a pattern (R174). -/
def stepRegions (slot : Nat) (p : Pattern) : List RegionReq :=
  [{ tier := 1, count := granules p.stash, kind := .stash, slot := some slot, mirrored := false },
   { tier := 1, count := granules p.gaa, kind := .gaa, slot := some slot, mirrored := false }]

/-- The tier address of a region of a slot. -/
def regionBase (s : State) (slot set : Nat) (k : RegionKind) : Option Nat :=
  ((getDom s (getSlot s slot).dom).regions.find? (fun r => r.slot == some slot && r.set == set && r.kind == k)).map
    (fun r => tierAddr r.tier r.base 0)

/-- The streams of a slot's data: WC, W and the states by bank, and G8, E and the records of the gradient store. -/
inductive Stream where
  | wc (bank : Nat)
  | w (bank : Nat)
  | st (k bank : Nat)
  | g8
  | e
  | record
  deriving DecidableEq, Repr

/-- The region that holds a stream. -/
def Stream.kind : Stream → RegionKind
  | .wc b => .wc b
  | .w b => .w b
  | .st k b => .st k b
  | _ => .grad

/-- Bytes of a stream per parameter tile; 0 for a state stream, whose extent each entry declares. -/
def Stream.tileBytes : Stream → Nat
  | .wc _ => 2048
  | .w _ => 4096
  | .st _ _ => 0
  | .g8 => 1024
  | .e => 2048
  | .record => 4

/-- Where a stream starts in its region, for a set of T tiles: in the gradient store E, then G8, then the records, so that every
tile is aligned to its own size (R177, R205; log entry 127). -/
def Stream.start (tiles : Nat) : Stream → Nat
  | .g8 => 2048 * tiles
  | .record => 3072 * tiles
  | _ => 0

/-- The visible bank of a slot (R183). -/
def SlotSt.bank (x : SlotSt) : Nat := x.cn % 2

/-- Where entry n's data lie: region set and index in the set's table. -/
def SlotSt.home (x : SlotSt) (n : Nat) : Nat × Nat := nth (0, 0) x.homes n

/-- Bytes of a stream over the update table in force. -/
def streamSize (x : SlotSt) (st : Stream) : Nat :=
  match st with
  | .st k _ => streamBytes x.table k
  | st => st.tileBytes * tableTiles x.table

/-- The entry that holds byte `off` of state stream k, and the offset in it. -/
def stEntry (k : Nat) : List UpdEntry → Nat → Nat → Option (Nat × Nat)
  | [], _, _ => none
  | e :: es, n, off =>
    let b := streamElems e k * declWidth (entryStream e k)
    if off < b then some (n, off) else stEntry k es (n + 1) (off - b)

/-- The tier address of byte `off` of a stream, counted through the update table in force. -/
def streamAddr (s : State) (slot : Nat) (st : Stream) (off : Nat) : Option Nat :=
  let x := getSlot s slot
  match st with
  | .st k b =>
    (stEntry k x.table 0 off).bind (fun r =>
      let h := x.home r.1
      (regionBase s slot h.1 (.st k b)).map (· + streamPlace (mget [] x.sets h.1) k h.2 + r.2))
  | st =>
    (tileEntry x.table (off / st.tileBytes)).bind (fun r =>
      let h := x.home r.1
      let tbl := mget [] x.sets h.1
      (regionBase s slot h.1 st.kind).map
        (· + st.start (tableTiles tbl) + st.tileBytes * (entryTile0 tbl h.2 + r.2.2) + off % st.tileBytes))

/-- One byte of a stream; 0 where the slot has no such region. -/
def streamByte (s : State) (slot : Nat) (st : Stream) (off : Nat) : Byte :=
  match streamAddr s slot st off with
  | none => 0
  | some a => (tierByte s (getSlot s slot).dom a).getD 0

/-- Bytes of a stream. -/
def readStream (s : State) (slot : Nat) (st : Stream) (off n : Nat) : List Byte :=
  (List.range n).map (fun k => streamByte s slot st (off + k))

/-- Write bytes of a stream. -/
def writeStream (s : State) (slot : Nat) (st : Stream) (off : Nat) : List Byte → State
  | [] => s
  | b :: bs =>
    let s := match streamAddr s slot st off with
      | none => s
      | some a => setTierByte s (getSlot s slot).dom a b
    writeStream s slot st (off + 1) bs

/-- n codes of width w of a stream. -/
def readCodes (s : State) (slot : Nat) (st : Stream) (w off n : Nat) : List Nat :=
  (List.range n).map (fun i => ofBytesLE (readStream s slot st (off + w * i) w))

/-- Write codes of width w of a stream. -/
def writeCodes (s : State) (slot : Nat) (st : Stream) (w off : Nat) (cs : List Nat) : State :=
  writeStream s slot st off (cs.flatMap (bytesLE w))

/-- The quantise record of a parameter tile (R177). -/
def getRecord (s : State) (slot t : Nat) : Nat := ofBytesLE (readStream s slot .record (4 * t) 4)

/-- Write a quantise record. -/
def setRecord (s : State) (slot t v : Nat) : State := writeStream s slot .record (4 * t) (bytesLE 4 v)

/-- The record code of step n (R177). -/
def rcode (n : Nat) : Nat := (n - 1) % 0xFFFFFFFF + 1

/-! ### Retirement (R220) -/

/-- The domain and granule index that map a physical granule, as the first or the mirror copy. -/
def granuleOwner (s : State) (tier p : Nat) : Option (Nat × Nat × Nat) :=
  s.doms.findSome? (fun d =>
    let m := if tier = 1 then d.2.hbmMap else d.2.lpMap
    (m.find? (fun e => e.2 == p + 1 || (tier == 2 && mget false d.2.lpMirror e.1 && e.2 == (p ^^^ 4) + 1))).map
      (fun e => (d.1, e.1, e.2 - 1)))

/-- The listed bytes of the blocks of a physical granule that a predicate picks, added to another. -/
def copyBlocks (pick : Nat → Bool) (src dst : Nat) (cells : List Host.Cell) : List Host.Cell :=
  (cells.filter (fun c => c.1 / granBytes == src && pick (c.1 % granBytes / 4096))).foldl
    (fun m c => mset 0 m (dst * granBytes + c.1 % granBytes) c.2) cells

/-- The bytes of a granule are dropped. -/
def dropGranule (cells : List Host.Cell) (p : Nat) : List Host.Cell := cells.filter (fun c => c.1 / granBytes != p)

/-- Retire a physical granule: a free zeroed granule, or mirror pair, of the tier takes its place with every block that reads
correctly; the blocks `bad` failed, and those of a mirrored granule, like those on a rim die out of service, come from the other
copy. None where there is no free one. The usage of the domain does not change. -/
def retireGranule (s : State) (tier p : Nat) (bad : List Nat) : Option State :=
  let t := s.tiers
  match granuleOwner s tier p with
  | none =>
    some { s with tiers := if tier = 1 then { t with hbmGran := mset .free t.hbmGran p .retired } else { t with lpGran := mset .free t.lpGran p .retired } }
  | some (dom, g, q) =>
    let d := getDom s dom
    let good (b : Nat) : Bool := !bad.contains b && !t.fenced.contains (rimOf tier p (4096 * b))
    if tier = 1 then
      (takeHbm t ((p + 15) % 16)).map (fun r =>
        let gr := mset .free (mset .free t.hbmGran p .retired) r .mapped
        setDom { s with tiers := { t with hbmGran := gr, hbm := dropGranule (copyBlocks good p r (dropGranule t.hbm r)) p, undef := mset 0 (mset 0 t.undef r (mget 0 t.undef p)) p 0 } } dom { d with hbmMap := mset 0 d.hbmMap g (r + 1) })
    else
      let m := mget false d.lpMirror g
      (takeLp t m).map (fun r =>
        let gr := mset .free (mset .free t.lpGran p .retired) r .mapped
        let gr := if m then mset .free (mset .free gr (p ^^^ 4) .dirty) (r ^^^ 4) .mapped else gr
        let r0 := if q != p then r ^^^ 4 else r
        let fill (x : Nat) (cells : List Host.Cell) : List Host.Cell :=
          let own := copyBlocks good p x (dropGranule cells x)
          if m then copyBlocks (fun b => !good b) (p ^^^ 4) x own else own
        let lp := if m then fill (r ^^^ 4) (fill r t.lp) else fill r t.lp
        setDom { s with tiers := { t with lpGran := gr, lp := dropGranule lp p } } dom { d with lpMap := mset 0 d.lpMap g (r0 + 1) })

/-- Retire granules with failed blocks. -/
def retireAll (s : State) (fs : List (Nat × Nat × Nat)) : Option State :=
  ((fs.map (fun f => (f.1, f.2.1))).eraseDups).foldl (fun (a : Option State) f =>
    a.bind (fun s => retireGranule s f.1 f.2 ((fs.filter (fun h => h.1 == f.1 && h.2.1 == f.2)).map (·.2.2)))) (some s)

/-- Retire the granules in which reads of a slot failed, at the end of its attempt. -/
def retireFailed (s : State) (slot : Nat) : Option State :=
  let fs := (s.tiers.failed.filter (fun f => f.2.2.1 == slot)).map (fun f => (f.1, f.2.1, f.2.2.2))
  retireAll { s with tiers := { s.tiers with failed := s.tiers.failed.filter (fun f => f.2.2.1 != slot) } } fs

/-- A retirement found no free granule: the failed reads of a slot are forgotten, its granules stay mapped, and TIER_FULL
is raised (Table 09.13). -/
def forgetFailed (s : State) (slot : Nat) : State :=
  raiseQuota { s with tiers := { s.tiers with failed := s.tiers.failed.filter (fun f => f.2.2.1 != slot) } } qfTierFull

end Sys2Proof.Machine
end

