-- ==== Sys2Proof/Machine/Host.lean ====
section
/-! DEFINITION. Functions of the host ports, MSI-X, descriptor rings and the ends of descriptors (R257 to R297). -/

namespace Sys2Proof.Machine

/-! ### Functions -/

/-- Key of a function: 65 · port + function. -/
def fnKey (port fn : Nat) : Nat := 65 * port + fn

/-- Key of a function address. -/
def fnKeyOf (a : FnAddr) : Nat := fnKey a.port.toNat a.fn.toNat

/-- Whether a function address names the PF or one of the 64 VFs of a port. -/
def fnAddrOk (a : FnAddr) : Bool := decide (a.fn.toNat ≤ 64)

/-- Port of a function key. -/
def fnPort (k : Nat) : Nat := k / 65

/-- Whether a function key is a PF. -/
def fnIsPf (k : Nat) : Bool := k % 65 == 0

/-- A function after cold reset: the PF owns its port's 8,192 rings (R276). -/
def fnDefault (k : Nat) : FnSt := { ringCount := if fnIsPf k then 0x2000 else 0 }

/-- A function. -/
def getFn (s : State) (k : Nat) : FnSt := mget (fnDefault k) s.fns k

/-- Write a function. -/
def setFn (s : State) (k : Nat) (f : FnSt) : State := { s with fns := mset (fnDefault k) s.fns k f }

/-- Change a function. -/
def updFn (s : State) (k : Nat) (g : FnSt → FnSt) : State := setFn s k (g (getFn s k))

/-- A host port. -/
def getPort (s : State) (p : Nat) : HostPort := mget {} s.ports p

/-- Write a host port. -/
def setPort (s : State) (p : Nat) (x : HostPort) : State := { s with ports := mset {} s.ports p x }

/-- MB_STATUS.STATE codes (Table 11.7). -/
def MbState.code : MbState → Nat
  | .idle => 0 | .busy => 1 | .challenged => 2 | .opened => 3 | .closing => 4

/-- Whether a function holds a session. -/
def sessionHeld (f : FnSt) : Bool := f.session != 0

/-- Bits of HOST_FLAGS (Table 11.10), RING_FLAGS (Table 12.19) and CHK_FLAGS (Table 15.4). -/
def hfNoSession : Nat := 0
def hfAuthFail : Nat := 1
def hfCplDrop : Nat := 2
def rfDbErr : Nat := 0
def rfCfgErr : Nat := 1
def cfMismatch : Nat := 0
def cfCfgErr : Nat := 1

def raiseHost (s : State) (k b : Nat) : State := updFn s k (fun f => { f with hostFlags := raise s.fc f.hostFlags b })
def raiseRing (s : State) (k b : Nat) : State := updFn s k (fun f => { f with ringFlags := raise s.fc f.ringFlags b })
def raiseChk (s : State) (k b : Nat) : State := updFn s k (fun f => { f with chkFlags := raise s.fc f.chkFlags b })

/-! ### MSI-X (Table 11.1, R438) -/

/-- Vectors of a function. -/
def vectorCount (k : Nat) : Nat := if fnIsPf k then 2048 else 64

/-- Whether a vector is masked, as after reset: the table holds bit 0 of its control word inverted. A function whose MSI-X is
not enabled, or masked as a whole, has every vector masked (PRESUMED, log entry 131). -/
def msixMasked (f : FnSt) (v : Nat) : Bool := mget 0 f.msix (4 * v + 3) == 0 || !f.cfg.msixEn || f.cfg.msixMask

/-- Signal a vector: a message, or the pending bit while it is masked. A vector the function lacks acts as 0. -/
def sendMsix (s : State) (k v : Nat) : State :=
  let v := if v < vectorCount k then v else 0
  let f := getFn s k
  if msixMasked f v then setFn s k { f with msixPend := mset false f.msixPend v true }
  else { s with out := s.out ++ [.msix (fnPort k) (k % 65) v] }

/-! ### Rings -/

/-- A ring. -/
def getRing (s : State) (r : Nat) : RingSt := mget {} s.rings r

/-- Write a ring. -/
def setRing (s : State) (r : Nat) (x : RingSt) : State := { s with rings := mset {} s.rings r x }

/-- Change a ring. -/
def updRing (s : State) (r : Nat) (g : RingSt → RingSt) : State := setRing s r (g (getRing s r))

/-- Entries of a ring: 2^(SIZE+6) (R278). -/
def ringSize (x : RingSt) : Nat := 2 ^ (x.size + 6)

/-- The function that owns a ring (R276). -/
def fnOfRing (s : State) (r : Nat) : Option Nat :=
  let p := r / 8192
  let i := r % 8192
  (List.range 65).map (fnKey p) |>.find? (fun k =>
    let f := getFn s k
    decide (f.ringFirst ≤ i) && decide (i < f.ringFirst + f.ringCount))

/-- Whether a function owns a ring. -/
def ownsRing (s : State) (k r : Nat) : Bool :=
  r / 8192 == fnPort k && (let f := getFn s k
    decide (f.ringFirst ≤ r % 8192) && decide (r % 8192 < f.ringFirst + f.ringCount))

/-- Rings of a function. -/
def fnRingList (s : State) (k : Nat) : List Nat :=
  let f := getFn s k
  (s.rings.map (·.1)).filter (fun r => r / 8192 == fnPort k && decide (f.ringFirst ≤ r % 8192)
    && decide (r % 8192 < f.ringFirst + f.ringCount))

/-- No descriptor of the ring is being fetched, waits or is open. -/
def ringQuiet (x : RingSt) : Bool := x.ready.isEmpty && x.open_.isEmpty && x.target.isNone

/-- A disabled ring becomes inactive once its fetched descriptors have completed (R297). -/
def settleRing (x : RingSt) : RingSt := if !x.enable && ringQuiet x then { x with active := false } else x

/-- Max Read Request Size of a port in bytes (Table 11.1): its PF's setting. -/
def readSize (s : State) (p : Nat) : Nat := 128 * 2 ^ min (getFn s (fnKey p 0)).cfg.mrrs 5

/-- Descriptors that the read of a fetch that is out may bring (R284): up to the TAIL of the fetch, at most 8 and no more than
reads of m bytes allow, not beyond the end of the ring. -/
def fetchRoom (m : Nat) (x : RingSt) : Nat :=
  match x.target with
  | none => 0
  | some t => min (min 8 (m / 64)) (min ((t + ringSize x - x.fetch) % ringSize x) (ringSize x - x.fetch))

/-- Stop fetching from a ring (R297): the read that is out still counts as fetched (DESIGN CHOICE, log entry 133: one read of
a fetch is out at a time). -/
def disableRing (m : Nat) (x : RingSt) : RingSt :=
  settleRing { x with enable := false, target := x.target.map (fun _ => (x.fetch + fetchRoom m x) % ringSize x) }

/-- Disable every ring of a function. -/
def disableRings (s : State) (k : Nat) : State := (fnRingList s k).foldl (fun s r => updRing s r (disableRing (readSize s (fnPort k)))) s

/-! ### Ends of descriptors -/

/-- Whether a descriptor's outcome is fixed by that of number `id`: it is that one, or an entry its RUN consumed. -/
def endsWith (id : Nat) (d : DescSt) : Bool := d.status.isNone && (d.id == id || d.ofRun == some id)

/-- The outcome of an accepted descriptor is fixed, and with a RUN's outcome that of the entries it consumed (R291).
The completion is written by DESCRIPTOR_COMPLETE, in the order in which outcomes are fixed. -/
def finishDesc (s : State) (r id status detail : Nat) : State :=
  updRing s r (fun x =>
    { x with
      finished := x.finished ++ (x.open_.filter (endsWith id)).map (·.id),
      open_ := x.open_.map (fun d =>
        if endsWith id d then { d with status := some status, detail := if d.id = id || status = sBadProblem then detail else 0 } else d),
      collect := match x.collect with
        | some c => if c.1 = id then none else some c
        | none => none })

/-- The entries that a RUN consumed complete once the RUN is admitted (Table 12.3). -/
def finishEntries (s : State) (r id : Nat) : State :=
  updRing s r (fun x =>
    { x with
      finished := x.finished ++ (x.open_.filter (fun d => d.status.isNone && d.ofRun == some id)).map (·.id),
      open_ := x.open_.map (fun d => if d.status.isNone && d.ofRun == some id then { d with status := some sSuccess } else d) })

/-- The report of a RUN joins its descriptor (R295). -/
def attachReport (s : State) (r id addr : Nat) (bs : List Byte) : State :=
  updRing s r (fun x =>
    { x with open_ := x.open_.map (fun d => if d.id = id then { d with report := some (addr, bs) } else d) })

/-- Whether a descriptor is accepted and its outcome not yet fixed. -/
def descPending (s : State) (r id : Nat) : Bool :=
  (getRing s r).open_.any (fun d => d.id == id && d.status.isNone)

/-- Bytes `off` to `off + n − 1` of a descriptor held as a number. -/
def dfld (raw off n : Nat) : Nat := raw / 2 ^ (8 * off) % 2 ^ (8 * n)

end Sys2Proof.Machine
end

