-- ==== Sys2Proof/Machine/Points.lean ====
section
/-! DEFINITION. Perturbation points (R417 to R422). -/

namespace Sys2Proof.Machine

/-- A perturbation point. -/
def getPoint (s : State) (i : Nat) : PointSt := mget {} s.pert.points i

/-- Write a perturbation point. -/
def setPoint (s : State) (i : Nat) (p : PointSt) : State :=
  { s with pert := { s.pert with points := mset {} s.pert.points i p } }

/-- One advance of a point's generator (R418). -/
def lfsr (g : Nat) : Nat := if g % 2 = 1 then (g / 2) ^^^ 0x80200003 else g / 2

/-- The first point that acts with a kind and passes a test (R417). -/
def findPoint (s : State) (kind : Nat) (f : PointSt → Bool) : Option (Nat × PointSt) :=
  if s.pert.en then (s.pert.points.find? (fun p => p.2.arm && p.2.kind == kind && f p.2)) else none

/-- A QBP or ABP point blocks its target in this fc (R420). -/
def blocksNow (s : State) (p : PointSt) : Bool :=
  if p.mode = 0 then decide (s.fc % 64 < p.duty) else p.mode == 1 && decide (lfsr p.gen % 64 < p.duty)

/-- Queue q of core c accepts no token in this fc. -/
def queueBlocked (s : State) (c q : Nat) : Bool := (findPoint s 2 (fun p => p.target == 16 * c + q && blocksNow s p)).isSome

/-- An arbiter behaves as frozen in this fc. -/
def arbBlocked (s : State) (key : Nat) : Bool := (findPoint s 3 (fun p => p.target == key && blocksNow s p)).isSome

/-- Add 1 to a point's count. -/
def countPoint (s : State) (i : Nat) : State :=
  setPoint s i { getPoint s i with count := satAdd32 (getPoint s i).count 1 }

/-- The generators of the blocking points advance, and their blocked fc are counted, at the end of an fc. -/
def tickPoints (s : State) : State :=
  s.pert.points.foldl (fun s p =>
    if s.pert.en && p.2.arm && (p.2.kind == 2 || p.2.kind == 3) && decide (p.2.mode ≤ 1) then
      let q := { p.2 with count := if blocksNow s p.2 then satAdd32 p.2.count 1 else p.2.count }
      setPoint s p.1 { q with gen := if p.2.mode = 1 then lfsr p.2.gen else p.2.gen }
    else s) s

/-- An injection is made on an operation of a target, where a point is armed for it: its count rises and the last one
clears ARM (R422). -/
def takeInject (s : State) (mode target : Nat) : Option State :=
  (findPoint s 5 (fun p => p.mode == mode && p.target == target)).map (fun p =>
    let made := p.2.made + 1
    setPoint s p.1 { p.2 with made := made, count := satAdd32 p.2.count 1, arm := decide (made < max p.2.value 1) })

end Sys2Proof.Machine
end

