-- ==== Sys2Proof/Machine/Torus.lean ====
section
/-! DEFINITION. Coordinates, axes, routing and the block layer's shared operations (R300 to R318). -/

namespace Sys2Proof.Machine

/-! ### Coordinates (R302, R307) -/

/-- Index on axis A of a coordinate word (X [4:0], Y [9:5], Z [14:10]). -/
def idx (w a : Nat) : Nat := w / 2 ^ (5 * a) % 32

/-- A coordinate with its index on axis A replaced. -/
def setIdx (w a v : Nat) : Nat := w - idx w a * 2 ^ (5 * a) + v % 32 * 2 ^ (5 * a)

/-- Length of axis A. -/
def axisLen (s : State) (a : Nat) : Nat := idx s.torus.len a + 1

/-- The package's own index on axis A. -/
def ownIdx (s : State) (a : Nat) : Nat := idx s.torus.coord a

/-- MODE of axis A and its BREAK. -/
def axisMode (s : State) (a : Nat) : RingMode := nth .ring s.torus.mode a
def axisBreak (s : State) (a : Nat) : Nat := nth 0 s.torus.brk a

/-- Axis and sign of a port, and the port of an axis and sign. -/
def portAxis (p : Nat) : Nat := p / 2
def portNeg (p : Nat) : Bool := p % 2 == 1
def portOf (a : Nat) (neg : Bool) : Nat := 2 * a + boolNat neg

/-- A coordinate whose every index is below its axis length. -/
def coordOk (s : State) (w : Nat) : Bool := (List.range 3).all (fun a => decide (idx w a < axisLen s a))

/-- The neighbour's coordinate through a port (R302). -/
def neighbour (s : State) (p : Nat) : Nat :=
  let a := portAxis p
  let l := axisLen s a
  setIdx s.torus.coord a ((ownIdx s a + (if portNeg p then l - 1 else 1)) % l)

/-- A link port. -/
def getLink (s : State) (p : Nat) : LinkSt := mget {} s.links p

/-- Write a link port. -/
def setLink (s : State) (p : Nat) (x : LinkSt) : State := { s with links := mset {} s.links p x }

/-- Change a link port. -/
def updLink (s : State) (p : Nat) (g : LinkSt → LinkSt) : State := setLink s p (g (getLink s p))

/-- Bits of LINK_FLAGS (Table 13.13) and TORUS_FLAGS (Table 13.17). -/
def lfTransient : Nat := 0
def lfLasting : Nat := 1
def lfCableErr : Nat := 2
def lfPortLost : Nat := 3
def xfCfgErr : Nat := 0
def xfMisroute : Nat := 1
def xfUnreach : Nat := 2
def xfRingChg : Nat := 3

def raiseLink (s : State) (p b : Nat) : State := updLink s p (fun x => { x with flags := raise s.fc x.flags b })
def raiseTorus (s : State) (b : Nat) : State := { s with torus := { s.torus with flags := raise s.fc s.torus.flags b } }

/-! ### Block headers (Table 13.4) -/

def bType (h : DWord) : Nat := bits h.toNat 63 60
def bStream (h : DWord) : Nat := bits h.toNat 41 39
def bLast (h : DWord) : Bool := bit h.toNat 38
def bHops (h : DWord) : Nat := bits h.toNat 37 31

/-- A coordinate field of a block header has x on top; as a coordinate word. -/
def fieldCoord (f : Nat) : Nat := bits f 14 10 + bits f 9 5 * 32 + bits f 4 0 * 1024

def bDest (h : DWord) : Nat := fieldCoord (bits h.toNat 59 45)
def bSrc (h : DWord) : Nat := fieldCoord (bits h.toNat 22 8)

/-- DIR of an axis: whether the block travels in the negative direction. -/
def bNeg (h : DWord) (a : Nat) : Bool := bit h.toNat (44 - a)

/-- A block header. `dirs` holds DIR, bit A of axis A. -/
def mkBlockHdr (ty dest dirs stream : Nat) (last : Bool) (hops seq src : Nat) : DWord :=
  BitVec.ofNat 64 (ty * 2 ^ 60 + fieldCoord dest * 2 ^ 45 + (dirs % 2 * 4 + dirs / 2 % 2 * 2 + dirs / 4 % 2) * 2 ^ 42
    + stream % 8 * 2 ^ 39 + boolNat last * 2 ^ 38 + hops % 128 * 2 ^ 31 + seq % 256 * 2 ^ 23 + fieldCoord src * 2 ^ 8)

/-- DIR bits of a header, bit A of axis A. -/
def hdrDirs (h : DWord) : Nat := boolNat (bNeg h 0) + 2 * boolNat (bNeg h 1) + 4 * boolNat (bNeg h 2)

/-- A header on its next hop: HOPS, DIR and BSEQ_LO replaced. -/
def reHdr (h : DWord) (dirs hops seq : Nat) : DWord :=
  mkBlockHdr (bType h) (bDest h) dirs (bStream h) (bLast h) hops seq (bSrc h)

/-! ### Checks (R307) -/

/-- The fold prefix: sequence number, receiving coordinate, receiving port. -/
def foldPrefix (seq coord port : Nat) : List Byte :=
  bytesLE 4 seq ++ bytesLE 2 (coord % 2 ^ 15) ++ bytesLE 1 (portAxis port + 4 * boolNat (portNeg port)) ++ bytesLE 1 0

/-- The CRC of a block at a receiver. -/
def blockCrc (seq coord port : Nat) (b : Block) : Nat :=
  crc32c (foldPrefix seq coord port ++ bytesLE 8 b.hdr.toNat ++ b.payload ++ bytesLE 4 b.ack.toNat)

/-! ### Line order and direction (R315, R316) -/

/-- Position of an index along an axis run as a line. -/
def linePos (s : State) (a i : Nat) : Nat := (i + 2 * axisLen s a - axisBreak s a - 1) % axisLen s a

/-- Whether the way to an index on an axis goes in the negative direction. -/
def goNeg (s : State) (a i : Nat) : Bool :=
  let l := axisLen s a
  let d := (i + l - ownIdx s a) % l
  match axisMode s a with
  | .ring => decide (l - d < d)
  | _ => decide (linePos s a i < linePos s a (ownIdx s a))

/-- DIR bits an originating package sets for a destination. -/
def dirsTo (s : State) (dest : Nat) : Nat :=
  boolNat (goNeg s 0 (idx dest 0)) + 2 * boolNat (goNeg s 1 (idx dest 1)) + 4 * boolNat (goNeg s 2 (idx dest 2))

/-- The axis a block leaves on: the first on which it has not arrived. -/
def routeAxis (s : State) (dest : Nat) : Option Nat := (List.range 3).find? (fun a => idx dest a != ownIdx s a)

/-! ### Sending -/

/-- The ACK word a half carries (R308): a NAK where one is still to be sent, else the acknowledgement. -/
def ackWord (x : LinkSt) : Word :=
  BitVec.ofNat 32 ((if x.nakDue then 2 else 1) * 2 ^ 30 + boolNat x.pauseOut * 2 ^ 29 + x.rxNext % 2 ^ 29)

/-- The ACKDLY point that acts on a port, if any (R421). -/
def ackPoint (s : State) (p : Nat) : Option (Nat × PointSt) := findPoint s 4 (fun q => q.target % 8 == p)

/-- The ACK word a port sends: the present state of its receiving half, or under ACKDLY the state it held VALUE fc
earlier, the oldest one known where none is that old. -/
def ackNow (s : State) (p : Nat) (x : LinkSt) : Word :=
  match ackPoint s p with
  | none => ackWord x
  | some q =>
    let h := mget [] s.pert.acks p
    match h.find? (fun e => decide (e.2 + q.2.value ≤ s.fc)) with
    | some e => BitVec.ofNat 32 e.1
    | none => match h.reverse.head? with | some e => BitVec.ofNat 32 e.1 | none => ackWord x

/-- While an ACKDLY point acts, the acknowledgement states of its port are recorded with the fc from which they hold. -/
def recordAck (s : State) (p : Nat) : State :=
  match ackPoint s p with
  | none => s
  | some _ =>
    let w := (ackWord (getLink s p)).toNat
    let h := mget [] s.pert.acks p
    let h := if h.head?.any (fun e => e.1 == w) then h else ((w, s.fc) :: h).take 4096
    { s with pert := { s.pert with acks := mset [] s.pert.acks p h } }

/-- A block is sent: a delayed acknowledgement counts for its point. -/
def noteAck (s : State) (p : Nat) : State :=
  let s := recordAck s p
  match ackPoint s p with
  | none => s
  | some q => countPoint s q.1

/-- A block with the ACK word and CRC it leaves with under a sequence number. -/
def sealBlock (s : State) (p : Nat) (x : LinkSt) (seq : Nat) (b : Block) : Block :=
  let b := { b with ack := ackNow s p x }
  { b with crc := BitVec.ofNat 32 (blockCrc seq (neighbour s p) (portOf (portAxis p) (!portNeg p)) b) }

/-- A block whose CRC is inverted (Table 18.2). -/
def spoilBlock (b : Block) : Block := { b with crc := ~~~ b.crc }

/-- The lanes of the groups in service, ascending (R300). -/
def lanesIn (groups : Nat) : List Nat := (List.range 32).filter (fun l => bit groups (l / 8))

/-- The width of a port direction: 32, 24, 16 or 8 lanes, 0 with no group in service. -/
def laneWidth (groups : Nat) : Nat := (lanesIn groups).length

/-- The lane that carries byte i of the block stream: the (i mod width)-th lane in service. -/
def byteLane (groups i : Nat) : Nat := nth 0 (lanesIn groups) (i % laneWidth groups)

/-- A block leaves on a port's transmit half under a sequence number, with the latest acknowledgement; `spoil` inverts its CRC
(R306 to R308). -/
def emitBlock (s : State) (p seq : Nat) (b : Block) (spoil : Bool) (skips : Nat) : State :=
  let s := noteAck s p
  let x := getLink s p
  let b := sealBlock s p x seq b
  { setLink s p { x with nakDue := false, txBytes := x.txBytes + 272, sinceSkip := skips } with
    out := s.out ++ [.block p (if spoil then spoilBlock b else b) (byteLane x.txGroups x.txBytes)] }

/-- The header of an IDLE, SKIP or LINK block: DEST and SRC are the package's own coordinate. -/
def ownHdr (s : State) (ty : Nat) : DWord := mkBlockHdr ty s.torus.coord 0 0 false 0 0 s.torus.coord

/-- A block before its ACK word and CRC. -/
def bareBlock (h : DWord) (payload : List Byte) : Block := { hdr := h, payload := payload, ack := 0, crc := 0 }

/-- TYPE codes of a block header. -/
def tyIdle : Nat := 0
def tySkip : Nat := 3
def tyLink : Nat := 4

/-- An IDLE or SKIP block. -/
def blankBlock (s : State) (ty : Nat) : Block := bareBlock (ownHdr s ty) (List.replicate 256 0)

/-- Send a block under a sequence number; one SKIP leaves in every 2,048 blocks (R306). -/
def putBlock (s : State) (p seq : Nat) (b : Block) (spoil : Bool) : State :=
  let x := getLink s p
  if x.sinceSkip = 2047 then emitBlock (emitBlock s p x.txNext (blankBlock s tySkip) false 0) p seq b spoil 1
  else emitBlock s p seq b spoil (x.sinceSkip + 1)

/-- Send a block that takes no sequence number: its CRC stands under the next number the half will assign (R307). -/
def putPlain (s : State) (p : Nat) (b : Block) : State := putBlock s p (getLink s p).txNext b false

/-- An IDLE block fills a gap (R306). -/
def sendIdle (s : State) (p : Nat) : State := putPlain s p (blankBlock s tyIdle)

/-- The Wale injections on a block sent under a number (R422): WALE_ONCE inverts its CRC, WALE_TWICE that of its
resend too. -/
def injectWale (s : State) (p seq : Nat) : State × Bool :=
  match takeInject s 5 p with
  | some s => (s, true)
  | none => match takeInject s 6 p with
    | some s => ({ s with pert := { s.pert with spoil := mset 0 s.pert.spoil p (seq + 1) } }, true)
    | none => (s, false)

/-- Hand a sequenced block to a port: it takes the next number and waits for its acknowledgement. -/
def sendBlock (s : State) (p : Nat) (b : Block) : State :=
  let n := (getLink s p).txNext
  let b := { b with hdr := reHdr b.hdr (hdrDirs b.hdr) (bHops b.hdr) n }
  let r := injectWale s p n
  updLink (putBlock r.1 p n b r.2) p (fun x => { x with txNext := (n + 1) % 2 ^ 32, unacked := x.unacked ++ [(n, b)] })

/-- Resend unacknowledged blocks from a sequence number on (R310). -/
def resendFrom (s : State) (p : Nat) (bs : List (Nat × Block)) : State :=
  let sp := mget 0 s.pert.spoil p
  let s := { s with pert := { s.pert with spoil := merase s.pert.spoil p } }
  let s := updLink s p (fun x => { x with resend := satAdd32 x.resend bs.length })
  bs.foldl (fun s b => putBlock s p b.1 b.2 (sp == b.1 + 1)) s

/-- SUB codes of LINK blocks. -/
def subHello : Nat := 1
def subEcho : Nat := 2
def subRetrain : Nat := 3
def subBreak : Nat := 4

/-- The content of a LINK block of this package (Table 13.6): MATCH and the fc count in HELLO and HELLO_ECHO, which returns the
count `echo`; LASTING in RETRAIN; a coordinate in BREAK. -/
def linkMsg (s : State) (p sub : Nat) (lasting : Bool) (brk : Nat) (echo : Word) : LinkMsg :=
  let x := getLink s p
  { mtch := decide (sub ≤ subEcho) && x.accepted, lasting := decide (sub = subRetrain) && lasting,
    coord := BitVec.ofNat 16 s.torus.coord, port := BitVec.ofNat 3 (portAxis p + 4 * boolNat (portNeg p)),
    lens := BitVec.ofNat 15 s.torus.len, groups := BitVec.ofNat 8 (x.txGroups + 16 * x.rxGroups),
    fc := if sub = subHello then BitVec.ofNat 32 s.fc else if sub = subEcho then echo else 0,
    brk := if sub = subBreak then BitVec.ofNat 16 brk else 0 }

/-- The payload of a LINK block (Table 13.6). -/
def linkPayload (sub : Nat) (m : LinkMsg) : List Byte :=
  bytesLE 1 sub ++ bytesLE 1 (boolNat m.mtch + 2 * boolNat m.lasting) ++ bytesLE 2 m.coord.toNat ++ bytesLE 1 m.port.toNat
    ++ bytesLE 2 m.lens.toNat ++ [m.groups] ++ bytesLE 4 m.fc.toNat ++ bytesLE 2 m.brk.toNat ++ List.replicate 242 0

/-- SUB and content of a LINK block's payload. -/
def linkSub (bs : List Byte) : Nat := fieldLE bs 0 1
def linkParse (bs : List Byte) : LinkMsg :=
  { mtch := bit (fieldLE bs 1 1) 0, lasting := bit (fieldLE bs 1 1) 1, coord := BitVec.ofNat 16 (fieldLE bs 2 2),
    port := BitVec.ofNat 3 (fieldLE bs 4 1), lens := BitVec.ofNat 15 (fieldLE bs 5 2), groups := BitVec.ofNat 8 (fieldLE bs 7 1),
    fc := BitVec.ofNat 32 (fieldLE bs 8 4), brk := BitVec.ofNat 16 (fieldLE bs 12 2) }

/-- Send a LINK block. -/
def sendLink (s : State) (p sub : Nat) (m : LinkMsg) : State := putPlain s p (bareBlock (ownHdr s tyLink) (linkPayload sub m))

/-- HELLO from a port; HELLO_ECHO, which returns the fc count of the partner's last HELLO. -/
def sendHello (s : State) (p : Nat) : State := sendLink s p subHello (linkMsg s p subHello false 0 0)
def sendEcho (s : State) (p : Nat) : State := sendLink s p subEcho (linkMsg s p subEcho false 0 ((getLink s p).echo.getD 0))

/-- BREAK from a port whose link is in service. -/
def sendBreak (s : State) (p brk : Nat) : State :=
  let x := getLink s p
  if x.state = .up ∨ x.state = .retrain then sendLink s p subBreak (linkMsg s p subBreak false brk 0) else s

/-! ### Loss of a link (R304, R314, R316, R317) -/

/-- The mode of an axis after a BREAK: LINE at the first, SPLIT at a second lost link. -/
def ringBreak (s : State) (a brk : Nat) : State :=
  let t := s.torus
  match axisMode s a with
  | .ring =>
    raiseTorus { s with torus := { t with mode := setNth t.mode a .line, brk := setNth t.brk a (idx brk a) } } xfRingChg
  | .line =>
    if axisBreak s a = idx brk a then s
    else raiseTorus { s with torus := { t with mode := setNth t.mode a .split } } xfRingChg
  | .split => s

/-- The coordinate a BREAK for a port's link carries: of the package whose positive port is lost. -/
def breakCoord (s : State) (p : Nat) : Nat := if portNeg p then neighbour s p else s.torus.coord

/-- The unacknowledged blocks of a port are discarded and reported (R314). -/
def dropUnacked (s : State) (p : Nat) : State :=
  let x := getLink s p
  { setLink s p { x with unacked := [], nakSeq := none } with
    out := s.out ++ x.unacked.map (fun b => .discarded (bSrc b.2.hdr) (bDest b.2.hdr) (bStream b.2.hdr)) }

/-- BREAK round the ring from this package: to the axis's other port, and the axis's mode here. -/
def announceBreak (s : State) (p : Nat) : State :=
  let brk := breakCoord s p
  let q := portOf (portAxis p) (!portNeg p)
  ringBreak (sendBreak s q brk) (portAxis p) brk

/-- The link of a port is lost: LOST, PORT_LOST, discards reported, BREAK sent. -/
def loseLink (s : State) (p : Nat) : State :=
  announceBreak (raiseLink (updLink (dropUnacked s p) p (fun x => { x with state := .lost, accepted := false })) p lfPortLost) p

/-! ### Routing (R315 to R317) -/

/-- A block discarded with a TORUS flag and reported. -/
def discardBlock (s : State) (b : Block) (flag : Nat) : State :=
  { raiseTorus s flag with out := s.out ++ [.discarded (bSrc b.hdr) (bDest b.hdr) (bStream b.hdr)] }

/-- Whether a port can take a block now: UP, window not full, no PAUSE for DATA (R310, R318). -/
def canSend (x : LinkSt) (b : Block) : Bool :=
  x.state == .up && decide (x.unacked.length < 1024) && !(x.paused && bType b.hdr == 1)

/-- What routing does with a block at this package. -/
inductive Route where
  | here
  | out (port : Nat) (hdr : DWord)
  | wait
  | misroute
  | unreach
  deriving DecidableEq, Repr

/-- The way of a block that leaves on an axis in a direction. -/
def leaveBy (s : State) (b : Block) (a : Nat) (hops : Nat) : Route :=
  let p := portOf a (bNeg b.hdr a)
  let x := getLink s p
  let st := x.state
  if 93 < hops then .misroute
  else if st = .up then (if canSend x b then .out p (reHdr b.hdr (hdrDirs b.hdr) hops 0) else .wait)
  else if st = .retrain then .wait
  else match axisMode s a with
    | .ring => if st = .lost then .wait else .unreach
    | .split => .unreach
    | .line =>
      let q := portOf a (!bNeg b.hdr a)
      let d := hdrDirs b.hdr
      let d' := if bNeg b.hdr a then d - 2 ^ a else d + 2 ^ a
      let y := getLink s q
      if 93 < hops + 1 then .misroute
      else if y.state = .up then (if canSend y b then .out q (reHdr b.hdr d' (hops + 1) 0) else .wait)
      else if y.state = .retrain then .wait
      else .unreach

/-- Where a block goes from this package; `transit`: it was received for another coordinate (HOPS + 1). -/
def routeBlock (s : State) (b : Block) (transit : Bool) : Route :=
  if !coordOk s (bDest b.hdr) then .misroute
  else match routeAxis s (bDest b.hdr) with
    | none => .here
    | some a => leaveBy s b a (bHops b.hdr + boolNat transit)

/-- Handle a block held at this package: hand it on, forward it or discard it; none where it has to wait. -/
def handOn (s : State) (b : Block) (transit : Bool) : Option State :=
  match routeBlock s b transit with
  | .here => some { s with out := s.out ++ [.arrived b] }
  | .out p h => some (sendBlock s p { b with hdr := h })
  | .wait => none
  | .misroute => some (discardBlock s b xfMisroute)
  | .unreach => some (discardBlock s b xfUnreach)

/-- Blocks in transit that a receiving half holds (R318). -/
def heldBy (s : State) (p : Nat) : Nat := (s.torus.transit.filter (fun b => b.1 == p)).length

/-- Hand on the blocks in transit that can move, in order of acceptance (R315); a half hands on its own in sequence order, so that one
that waits stops those the half accepted later (R314). `stuck` lists the halves that wait. -/
def drainTransit (s : State) (stuck : List Nat) : List (Nat × Block) → List (Nat × Block) → State
  | [], keep => { s with torus := { s.torus with transit := keep } }
  | b :: bs, keep =>
    match if stuck.contains b.1 then none else handOn s b.2 true with
    | some s => drainTransit s stuck bs keep
    | none => drainTransit s (b.1 :: stuck) bs (keep ++ [b])

/-- Hand on the locally injected blocks that can leave, in order. -/
def drainLocal (s : State) : List Block → List Block → State
  | [], keep => { s with torus := { s.torus with inject := keep } }
  | b :: bs, keep =>
    match handOn s b false with
    | some s => drainLocal s bs keep
    | none => drainLocal s bs (keep ++ [b])

/-- Blocks were handed to a port. -/
def sentOn (p : Nat) (l : List Output) : Bool := l.any (fun o => match o with | .block q _ _ => q == p | _ => false)

/-- A half transmits continuously (R306): an UP port whose acknowledgement changed since an earlier state and that sent nothing
since sends an IDLE block, which carries it (DESIGN CHOICE, log entry 137: the IDLE blocks that say nothing new are not shown). -/
def fillGaps (s0 s : State) : State :=
  (List.range 6).foldl (fun s p =>
    let x := getLink s p
    if x.state == .up && ackWord x != ackWord (getLink s0 p) && !sentOn p (s.out.drop s0.out.length) then sendIdle s p else s) s

/-- Move what can move, blocks in transit first (R315), and set or clear PAUSE by the blocks held (R318). -/
def drainAll (s0 : State) : State :=
  let s := drainTransit s0 [] s0.torus.transit []
  let s := (List.range 6).foldl (fun s p =>
    updLink s p (fun x =>
      { x with pauseOut := if 384 < heldBy s p then true else if heldBy s p < 256 then false else x.pauseOut })) s
  fillGaps s0 (drainLocal s s.torus.inject [])

/-- Inject a block of this package. -/
def injectBlock (s : State) (b : Block) : State :=
  drainAll { s with torus := { s.torus with inject := s.torus.inject ++ [b] } }

end Sys2Proof.Machine
end

