-- ==== Sys2Proof/Machine/Fault.lean ====
section
/-! DEFINITION. The fault manager's records and the places of dies (R12 to R16, R371 to R390). -/

namespace Sys2Proof.Machine

/-- Fault classes (Table 16.1). -/
def fcTrans : Nat := 1
def fcDie : Nat := 2
def fcLane : Nat := 3
def fcLink : Nat := 4
def fcHandle : Nat := 5
def fcHost : Nat := 6
def fcRim : Nat := 7
def fcUncovered : Nat := 8

/-- DETECT codes (Table 16.6). -/
def dtHop : Nat := 1
def dtSram : Nat := 2
def dtHeartbeat : Nat := 3
def dtSelfTest : Nat := 4
def dtWale : Nat := 5
def dtHostLink : Nat := 6
def dtTier : Nat := 7
def dtSequence : Nat := 8

/-- Bits of FAULT_FLAGS (Table 16.9). -/
def ffTransient : Nat := 0
def ffLasting : Nat := 1
def ffSubst : Nat := 2
def ffUncovered : Nat := 3

/-- A transient was classified (R371). -/
def faultTransient (s : State) : State :=
  { s with fault := { s.fault with transCnt := satAdd32 s.fault.transCnt 1, flags := raise s.fc s.fault.flags ffTransient } }

/-- A lasting or uncovered fault is recorded (R390): class, detector, die and cause. -/
def faultRecord (s : State) (cls detect code die : Nat) : State :=
  { s with fault := { s.fault with
      cls := cls, detect := detect, code := code, die := die, recNo := (s.fault.recNo + 1) % 256, recFc := s.fc % 2 ^ 32,
      lastCnt := satAdd32 s.fault.lastCnt 1,
      flags := raise s.fc s.fault.flags (if cls = fcUncovered then ffUncovered else ffLasting) } }

/-- Whether a die is fenced. -/
def isFenced (s : State) (die : Nat) : Bool := s.fault.fenced.contains die

/-- Quadrant and site of a compute die. -/
def dieQuad (die : Nat) : Nat := die / 12
def dieSite (die : Nat) : Nat := die % 12

/-- Whether a site carries an even die (Table 01.3). -/
def siteEven (site : Nat) : Bool := decide (9 ≤ site)

/-- The logical position a compute die serves (R12, R385): its own index, or that of the die a spare replaces; POS
0 to 7 for d0 to d7, 8 and 9 for e0 and e1. -/
def diePos (s : State) (die : Nat) : Option Nat :=
  let st := dieSite die
  if isFenced s die then none
  else if st < 8 then some st
  else if st = 9 ∨ st = 10 then some (st - 1)
  else
    let k := 2 * dieQuad die + boolNat (siteEven st)
    match mget 0 s.fault.spareFor k with
    | 0 => none
    | p + 1 => some p

/-- The position a compute die has or had before it was fenced. -/
def dieHome (s : State) (die : Nat) : Option Nat :=
  let st := dieSite die
  if st < 8 then some st
  else if st = 9 ∨ st = 10 then some (st - 1)
  else
    match mget 0 s.fault.spareFor (2 * dieQuad die + boolNat (siteEven st)) with
    | 0 => none
    | p + 1 => some p

/-- The clusters at a position of a quadrant. -/
def posClusters (q pos : Nat) : List Nat :=
  (List.range (if 8 ≤ pos then 4 else 8)).map (fun k => 128 * q + 8 * pos + k)

/-- Partitions that have a cluster among the given ones. -/
def partsWith (s : State) (ks : List Nat) : List Nat :=
  (s.parts.filter (fun p => p.2.clusters.any ks.contains)).map (·.1)

/-- A cluster of an unserved position (R386). -/
def clusterUnserved (s : State) (k : Nat) : Bool := s.fault.unserved.contains (16 * (k / 128) + k / 8 % 16)

/-- FAULT_REC_HI, SITE_MAP_Qn as read (Tables 16.6, 01.4). -/
def faultRecHi (f : FaultSt) : Nat :=
  f.cls * 2 ^ 28 + f.detect * 2 ^ 24 + f.code * 2 ^ 16 + f.recNo * 2 ^ 8 + f.die

def siteMap (f : FaultSt) (q : Nat) : Nat :=
  let fen := sumNat ((List.range 12).map (fun m => if f.fenced.contains (12 * q + m) then 2 ^ m else 0))
  let sp (k : Nat) : Nat := match mget 0 f.spareFor (2 * q + k) with | 0 => 15 | p + 1 => if k = 1 then p - 8 else p
  fen * 2 ^ 12 + sp 0 * 2 ^ 8 + sp 1 * 2 ^ 4 + boolNat (mget false f.spareOn (2 * q)) * 8
    + boolNat (mget false f.spareOn (2 * q + 1)) * 4

end Sys2Proof.Machine
end

