-- ==== Sys2Proof/Machine/Operands.lean ====
section
/-! DEFINITION. Operand descriptors: fields, extents, the walk over tiles, masking, and the reads and writes of
tile elements in the operand store and at queue heads (R153 to R163, Tables 07.1 to 07.3). -/

namespace Sys2Proof.Machine

/-- Fields of an operand descriptor (Table 07.1). -/
def dFmt (d : Nat) : Nat := bits d 127 124
def dSpace (d : Nat) : Nat := bits d 123 122
def dAxes (d : Nat) : Nat := bits d 121 120
def dMorton (d : Nat) : Bool := bit d 119
def dAdv (d : Nat) : Nat := bits d 118 117
def dIdent (d : Nat) : Nat := bits d 116 115
def dRsel (d : Nat) : Nat := bits d 114 112
def dCsel (d : Nat) : Nat := bits d 111 109
def dOsel (d : Nat) : Nat := bits d 108 106
def dQueue (d : Nat) : Nat := bits d 105 102
def dRowsF (d : Nat) : Nat := bits d 101 82
def dColsF (d : Nat) : Nat := bits d 81 62
def dOtherF (d : Nat) : Nat := bits d 61 42
def dStride (d : Nat) : Nat := bits d 31 16
def dBase (d : Nat) : Nat := bits d 15 0

/-- The element format of a descriptor. -/
def dFormat (d : Nat) : Fmt := (Fmt.ofCode (dFmt d)).getD .fp32

/-- An extent: the field plus 1, or a parameter word (Table 07.1). -/
def extent (sel field : Nat) (par : List Nat) : Nat := if sel = 0 then field + 1 else nth 0 par (sel - 1)

/-- Row, column and other extent of a descriptor. -/
def dRows (d : Nat) (par : List Nat) : Nat := extent (dRsel d) (dRowsF d) par
def dCols (d : Nat) (par : List Nat) : Nat := extent (dCsel d) (dColsF d) par
def dOther (d : Nat) (par : List Nat) : Nat := extent (dOsel d) (dOtherF d) par

/-- M of the output tile grid. -/
def dM (d : Nat) (par : List Nat) : Nat := if dAxes d = 2 then dOther d par else dRows d par
/-- N of the output tile grid. -/
def dN (d : Nat) (par : List Nat) : Nat := if dAxes d = 1 then dOther d par else dCols d par
/-- The inner extent; 0 where the descriptor has none. -/
def dInner (d : Nat) (par : List Nat) : Nat :=
  if dAxes d = 1 then dCols d par else if dAxes d = 2 then dRows d par else 0

/-! ### Visit order (R157) -/

/-- One step of the Hilbert curve of order 8, side `sd`, on (x, y, t). -/
def hilbertStep (sd : Nat) (x y t : Nat) : Nat × Nat × Nat :=
  let rx := t / 2 % 2
  let ry := (t ^^^ rx) % 2
  let (x, y) := if ry = 0 then
      (let (x, y) := if rx = 1 then (sd - 1 - x, sd - 1 - y) else (x, y)
       (y, x))
    else (x, y)
  (x + sd * rx, y + sd * ry, t / 4)

/-- Local row and column at index d of the Hilbert curve. -/
def hilbert8 (d : Nat) : Nat × Nat :=
  let (x, y, t) := hilbertStep 1 0 0 d
  let (x, y, t) := hilbertStep 2 x y t
  let (x, y, _) := hilbertStep 4 x y t
  (y, x)

/-- Local row and column at index d of the Morton curve. -/
def morton8 (d : Nat) : Nat × Nat :=
  (d / 2 % 2 + 2 * (d / 8 % 2) + 4 * (d / 32 % 2), d % 2 + 2 * (d / 4 % 2) + 4 * (d / 16 % 2))

/-- The tile at index d of super-tile number i of super-row sr. -/
def visitCell (morton : Bool) (nsc sr i d : Nat) : Nat × Nat :=
  let odd := !morton && decide (sr % 2 = 1)
  let sc := if odd then nsc - 1 - i else i
  let (r, c) := if morton then morton8 d else hilbert8 d
  (8 * sr + r, 8 * sc + (if odd then 7 - c else c))

/-- The first tile inside the R × C grid from index d of a super-tile on. -/
def visitFrom (morton : Bool) (nr nc nsc sr i : Nat) : Nat → Nat → Option (Nat × Nat)
  | 0, _ => none
  | f + 1, d =>
    let t := visitCell morton nsc sr i d
    if t.1 < nr ∧ t.2 < nc then some t else visitFrom morton nr nc nsc sr i f (d + 1)

/-- The index of a tile in its super-tile. -/
def visitIndex (morton : Bool) (nsc sr i tr tc : Nat) : Nat :=
  ((List.range 64).find? (fun d => visitCell morton nsc sr i d == (tr, tc))).getD 0

/-- The tile after (tr, tc) in the visit order of an R × C grid; the first tile after the last. -/
def visitNext (morton : Bool) (nr nc tr tc : Nat) : Nat × Nat :=
  let nsr := ceilDiv nr 8
  let nsc := ceilDiv nc 8
  let sr := tr / 8
  let odd := !morton && decide (sr % 2 = 1)
  let i := if odd then nsc - 1 - tc / 8 else tc / 8
  let d := visitIndex morton nsc sr i tr tc
  match visitFrom morton nr nc nsc sr i (63 - d) (d + 1) with
  | some t => t
  | none =>
    let (sr', i') := if i + 1 < nsc then (sr, i + 1) else if sr + 1 < nsr then (sr + 1, 0) else (0, 0)
    (visitFrom morton nr nc nsc sr' i' 64 0).getD (0, 0)

/-- The position after a use that took `blocks` blocks (R156). -/
def advancePos (d : Nat) (par : List Nat) (blocks : Nat) (p : Pos) : Pos :=
  let tile : Pos :=
    let t := visitNext (dMorton d) (ceilDiv (dM d par) 32) (ceilDiv (dN d par) 32) p.tr p.tc
    { tr := t.1, tc := t.2, b := 0 }
  match dAdv d with
  | 0 => tile
  | 1 =>
    if dAxes d = 0 then tile
    else if p.b + blocks ≥ ceilDiv (dInner d par) 32 then tile else { p with b := p.b + blocks }
  | _ => p

/-- A context after one use of descriptor number n that took `blocks` blocks. -/
def Ctx.useDesc (x : Ctx) (par : List Nat) (n blocks : Nat) : Ctx :=
  { x with pos := mupd {} x.pos n (advancePos (x.desc n) par blocks) }

/-- Position of descriptor number n. -/
def Ctx.posOf (x : Ctx) (n : Nat) : Pos := mget {} x.pos n

/-! ### Elements -/

/-- Table 07.2: the identity of a format under IDENT. -/
def identity (f : Fmt) (ident : Nat) : Nat :=
  match ident with
  | 1 => match f with
    | .l8 => 0xFF | .l16 => 0xFFFF | .fp32 => 0xFF7FFFFF | .bf16 => 0xFF7F | .fp16 => 0xFBFF
    | .e4m3 => 0xFE | .e5m2 => 0xFB | .int8 => 0x80 | .int32 => 0x80000000
  | 2 => match f with
    | .l8 => 0x40 | .l16 => 0x4000 | .fp32 => 0x3F800000 | .bf16 => 0x3F80 | .fp16 => 0x3C00
    | .e4m3 => 0x38 | .e5m2 => 0x3C | .int8 => 1 | .int32 => 1
  | _ => 0

/-- Tile coordinates of a position in the descriptor's own tensor (R163), with `b` further blocks on. -/
def tileCoord (d : Nat) (p : Pos) (b : Nat) : Nat × Nat :=
  match dAxes d with
  | 1 => (p.tr, p.b + b)
  | 2 => (p.b + b, p.tc)
  | _ => (p.tr, p.tc)

/-- Header fields of a token (Table 06.3). -/
def tokSrc (h : DWord) : Nat := bits h.toNat 63 52
def tokDst (h : DWord) : Nat := bits h.toNat 51 40
def tokQ (h : DWord) : Nat := bits h.toNat 39 36
def tokGen (h : DWord) : Bool := bit h.toNat 35
def tokCtx (h : DWord) : Nat := bits h.toNat 34 33
def tokTag (h : DWord) : Nat := bits h.toNat 35 33
def tokKind (h : DWord) : Nat := bits h.toNat 32 31
def tokMrows (h : DWord) : Nat := bits h.toNat 30 26
def tokMcols (h : DWord) : Nat := bits h.toNat 25 21
def tokTrow (h : DWord) : Nat := bits h.toNat 20 13
def tokTcol (h : DWord) : Nat := bits h.toNat 12 5
def tokSeq (h : DWord) : Nat := bits h.toNat 4 0

/-- A token header (Table 06.3). -/
def mkHdr (src dst q : Nat) (gen : Bool) (ctx kind mrows mcols trow tcol seq : Nat) : DWord :=
  BitVec.ofNat 64 (src * 2 ^ 52 + dst % 4096 * 2 ^ 40 + q % 16 * 2 ^ 36 + boolNat gen * 2 ^ 35 + ctx % 4 * 2 ^ 33
    + kind % 4 * 2 ^ 31 + mrows % 32 * 2 ^ 26 + mcols % 32 * 2 ^ 21 + trow % 256 * 2 ^ 13 + tcol % 256 * 2 ^ 5
    + seq % 32)

/-- The oldest token of a queue. -/
def Queue.head (q : Queue) : Option Token :=
  match q.hw with
  | t :: _ => some t
  | [] => q.lane.head?

/-- Byte address of element (i, j) of a STORE descriptor (R155). -/
def elemAddr (d i j : Nat) : Nat := 32 * dBase d + 32 * dStride d * i + (dFormat d).width * j

/-- Whether element (m, j) of the tile at `tc` lies inside the descriptor's tensor. -/
def inTensor (d : Nat) (par : List Nat) (t : Nat × Nat) (m j : Nat) : Bool :=
  decide (m < 32) && decide (32 * t.1 + m < dRows d par) && decide (32 * t.2 + j < dCols d par)

/-- Whether element (m, j) of the tile a descriptor reads is valid (R159): inside the tensor, or within the
token's valid rows and columns in QUEUE space. -/
def elemValid (co : CoreSt) (d : Nat) (t : Nat × Nat) (m j : Nat) : Bool :=
  if dSpace d = 1 then
    match (mget {} co.queues (dQueue d)).head with
    | some k => decide (m ≤ tokMrows k.hdr) && decide (j ≤ tokMcols k.hdr)
    | none => false
  else inTensor d co.par t m j

/-- Element (m, j) of the tile at `t`: its code, or the identity in a masked lane (R159). -/
def readElem (co : CoreSt) (d : Nat) (t : Nat × Nat) (m j : Nat) : Nat :=
  if !elemValid co d t m j then identity (dFormat d) (dIdent d)
  else if dSpace d = 1 then
    match (mget {} co.queues (dQueue d)).head with
    | some k => (nth 0 k.tile (32 * m + j)).toNat
    | none => 0
  else ofBytesLE (mgetList 0 co.store (elemAddr d (32 * t.1 + m) (32 * t.2 + j)) (dFormat d).width)

/-- Write a code as element (m, j) of the tile at `t`, if the element lies in the tensor (R162). -/
def writeElem (co : CoreSt) (d : Nat) (t : Nat × Nat) (m j code : Nat) : CoreSt :=
  let a := elemAddr d (32 * t.1 + m) (32 * t.2 + j)
  if dSpace d = 0 && inTensor d co.par t m j then
    { co with store := msetList 0 co.store a (bytesLE (dFormat d).width code) }
  else co

/-- Valid rows and columns of the tile at `t` of a descriptor's tensor (R163). -/
def validRows (d : Nat) (par : List Nat) (t : Nat × Nat) : Nat := min 32 (dRows d par - 32 * t.1)
def validCols (d : Nat) (par : List Nat) (t : Nat × Nat) : Nat := min 32 (dCols d par - 32 * t.2)

/-- Valid rows and columns of the tile at `t` that a descriptor reads: in QUEUE space its token's (R159). -/
def readRows (co : CoreSt) (d : Nat) (t : Nat × Nat) : Nat :=
  if dSpace d = 1 then ((mget {} co.queues (dQueue d)).head.map (fun k => tokMrows k.hdr + 1)).getD 0 else validRows d co.par t
def readCols (co : CoreSt) (d : Nat) (t : Nat × Nat) : Nat :=
  if dSpace d = 1 then ((mget {} co.queues (dQueue d)).head.map (fun k => tokMcols k.hdr + 1)).getD 0 else validCols d co.par t

/-- The 1,024 codes of the tile at `t`. -/
def readTile (co : CoreSt) (d : Nat) (t : Nat × Nat) : List Nat :=
  (List.range 1024).map (fun k => readElem co d t (k / 32) (k % 32))

end Sys2Proof.Machine
end

