-- ==== Sys2Proof/Machine/Sequencer.lean ====
section
/-! DEFINITION. CTL instructions and the taking of a switch (R92, R94, R128, R129, R141, R168). -/

namespace Sys2Proof.Machine

/-- Whether the core holds a token (R127). -/
def holdsToken (co : CoreSt) : Bool := co.queues.any (fun q => q.2.held)

/-- LOOP (R92): its body of 1 to 256 bundles runs `count` times; a count of 0 skips it. Nesting deeper than four
or past the enclosing body's end is rejected at load. -/
def execLoop (core : BitVec 12) (body : BitVec 9) (count : LoopCount) (s : State) : Res :=
  atCore s core.toNat (fun i =>
    let b := body.toNat
    let n := match count with
      | .imm n => n.toNat
      | .par k => nth 0 i.core.par k.toNat
    let crosses := match i.ctx.loops with
      | l :: _ => decide (l.last < i.ctx.pc + b)
      | [] => false
    if b = 0 ∨ 256 < b ∨ 4 ≤ i.ctx.loops.length ∨ crosses = true then .refused .rejectedAtLoad
    else
      let x := if n = 0 then i.ctx.advance (i.ctx.pc + b)
        else { i.ctx with pc := i.ctx.pc + 1,
                          loops := { first := i.ctx.pc + 1, last := i.ctx.pc + b, left := n - 1 } :: i.ctx.loops }
      .next (setCore s core.toNat
        (tickCore { setCtx i.core i.n x with boundary := false, stop := none } 1)))

/-- YIELD: a token boundary (R128). An image that holds a token here is rejected at load. With lane 0's predicate
bit 0 the bundle only passes (R93). -/
def execYield (core : BitVec 12) (pinv : Bool) (preg : BitVec 3) (s : State) : Res :=
  atCore s core.toNat (fun i =>
    if holdsToken i.core then .refused .rejectedAtLoad
    else if !i.ctx.active pinv preg.toNat 0 then .next (setCore s core.toNat (endBundle i.core i.n i.ctx))
    else .next (setCore s core.toNat { endBundle i.core i.n i.ctx with boundary := true }))

/-- Fields of a fold-table entry (Table 06.9). -/
def foldValid (e : Nat) : Bool := bit e 31
def foldCtx (e : Nat) : Nat := bits e 30 29
def foldStart (e : Nat) : Nat := bits e 27 16
def foldMask (e : Nat) : Nat := bits e 15 0

/-- The fold entry after entry k: the next valid one, entry 0 after the last (R141). -/
def foldNext (fold : List Nat) (k : Nat) : Nat := if foldValid (nth 0 fold (k + 1)) then k + 1 else 0

/-- A core placed on fold entry k: its context current, its program counter at START (R140, R141). -/
def enterFold (co : CoreSt) (k : Nat) : CoreSt :=
  let e := nth 0 co.fold k
  let n := foldCtx e
  { setCtx co n { getCtx co n with pc := foldStart e, loops := [] } with
    cur := some n, foldPos := k, boundary := true }

/-- FOLD (R141): the next fold step after the FOLD bundle's ac and the switch ac. With lane 0's predicate bit 0 it
takes the same time and the core goes on in its fold step (R93). -/
def execFold (core : BitVec 12) (pinv : Bool) (preg : BitVec 3) (s : State) : Res :=
  atCore s core.toNat (fun i =>
    if holdsToken i.core then .refused .rejectedAtLoad
    else if !i.ctx.active pinv preg.toNat 0 then
      let co := endBundle i.core i.n i.ctx
      .next (setCore s core.toNat (if co.fold.isEmpty then co else tickCore co 1))
    else
      let co := { endBundle i.core i.n i.ctx with boundary := true }
      .next (setCore s core.toNat
        (if co.fold.isEmpty then co else tickCore (enterFold co (foldNext co.fold co.foldPos)) 1)))

/-- Problem-list entry k of a partition's RUN: its parameter words. -/
def entryPar (p : PartSt) (k : Nat) : List Nat := (p.problems[k]?.map (·.par)).getD []

/-- PMARK (R168): takes the next entry, resets every descriptor position and continues at the named bundle; at
the last entry the core has finished the step. With lane 0's predicate bit 0 the bundle only passes (R93). In a FOLDED core
the positions reset are those of the context that issues the marker (DESIGN CHOICE, log entry 122). -/
def execPmark (core : BitVec 12) (pinv : Bool) (preg : BitVec 3) (bundle : BitVec 12) (s : State) : Res :=
  atCore s core.toNat (fun i =>
    if holdsToken i.core then .refused .rejectedAtLoad
    else if !i.ctx.active pinv preg.toNat 0 then .next (setCore s core.toNat (endBundle i.core i.n i.ctx))
    else
      let p := getPart s ((partOfCluster s (coreCluster core.toNat)).getD 0)
      let x := { i.ctx with pc := bundle.toNat, loops := [] }
      let co := if i.core.entry + 1 < p.problems.length then
          { setCtx i.core i.n { x with pos := [] } with
            entry := i.core.entry + 1, par := i.core.parNext, parNext := entryPar p (i.core.entry + 2) }
        else { setCtx i.core i.n x with finished := true }
      .next (setCore s core.toNat (tickCore { co with boundary := true, stop := none } 1)))

/-- A predicate reduction: writes all ones or all zeros after 2 ac (R94). -/
def predReduce (f : List Bool → Bool) (o : PredOp) (s : State) : Res :=
  atCore s o.core.toNat (fun i =>
    let ls := List.range (coreLanes o.core.toNat)
    let v := boolNat (f (ls.map (fun l => i.ctx.pred o.ps.toNat l)))
    let co := if i.ctx.active o.pinv o.preg.toNat 0 then
        pushResult i.core { due := i.core.ac + 2, ctx := i.n, pred := true, reg := o.pd.toNat,
                            vals := ls.map (fun l => (l, v, false)) }
      else i.core
    .next (setCore s o.core.toNat (endBundle co i.n i.ctx)))

/-- PANY (R94). -/
def execPany (o : PredOp) (s : State) : Res := predReduce (fun l => l.any id) o s

/-- PALL (R94). -/
def execPall (o : PredOp) (s : State) : Res := predReduce (fun l => l.all id) o s

/-- The next waiting switch request becomes the outstanding one, unless a drain is in progress or its context is
being loaded (R130, R150). One that a run drain is still to come before starts that drain (R148). -/
def promoteSwitch (pt : PartSt) : PartSt :=
  match pt.swReq, pt.swWait with
  | none, r :: rs =>
    if pt.drain == .idle && !pt.loads.any (fun l => l.ctx == r.ctx && !l.waiting) then
      if r.drain then { pt with drain := .run, swWait := { r with drain := false } :: rs }
      else { pt with swReq := some r, swWait := rs }
    else pt
  | _, _ => pt

/-- Once every core of a partition stands in the requested context the request has ended, its descriptor completes,
and a request that waited takes its place (R130). -/
def settleSwitch (s : State) (p : Nat) : State :=
  let pt := promoteSwitch (getPart s p)
  match pt.swReq with
  | none => setPart s p pt
  | some r =>
    if (partCores pt).all (fun c => (getCore s c).cur == some r.ctx) then
      let s := setPart s p (promoteSwitch { pt with cur := some r.ctx, swReq := none })
      match r.desc with
      | none => s
      | some d => finishDesc s d.1 d.2 0 0
    else setPart s p pt

/-- Ask a partition for a switch (R129). -/
def askSwitch (s : State) (p : Nat) (r : SwReq) : State :=
  let pt := getPart s p
  settleSwitch (setPart s p { pt with swWait := pt.swWait ++ [r] }) p

/-- CONTEXT_SWITCH (R129): at a token boundary the core takes the pending request and spends the switch ac; a
core already in that context ignores it. -/
def execContextSwitch (core : BitVec 12) (s : State) : Res :=
  let c := core.toNat
  if !coreValid c then .refused .noSuchUnit
  else match partOfCluster s (coreCluster c) with
    | none => .next s
    | some p =>
      let pt := getPart s p
      let co := getCore s c
      match pt.swReq with
      | none => .next s
      | some m =>
        if co.cur != some m.ctx && (co.boundary || co.cur.isNone) && (getCtx co m.ctx).resident && pt.drain == .idle then
          .next (settleSwitch (setCore s c (tickCore { co with cur := some m.ctx, boundary := true, stop := none } 1)) p)
        else .next s

end Sys2Proof.Machine
end

