-- ==== Sys2Proof/Machine/Tokens.lean ====
section
/-! DEFINITION. Tokens and input queues: arrival checks, overflow lanes (R116 to R127, R137 to
R139). -/

namespace Sys2Proof.Machine

/-- Bits of PIPE_FLAGS (Table 06.13). -/
def pipeTagMismatch : Nat := 0
def pipeStallWdog : Nat := 1
def pipeSeqErr : Nat := 2
def pipeLoadRetry : Nat := 3

/-- Fields of a queue-table entry (Table 06.5). -/
def qeEn (e : Nat) : Bool := bit e 31
def qeFmt (e : Nat) : Nat := bits e 30 29
def qeOvf (e : Nat) : Bool := bit e 28
def qeCap (e : Nat) : Nat := bits e 26 18 + 1
def qePage (e : Nat) : Nat := bits e 17 9

/-- Fields of a route-table entry (Table 06.7). -/
def reEn (e : Nat) : Bool := bit e 31
def reDst (e : Nat) : Nat := bits e 30 19
def reDq (e : Nat) : Nat := bits e 18 15
def reFmt (e : Nat) : Nat := bits e 14 13

/-- The element format of a token format code (Table 06.5). -/
def tokFmt (k : Nat) : Fmt := if k = 0 then .l8 else if k = 1 then .l16 else .fp32

/-- Unit addresses in SRC (R117, Table 06.4): stream t of rim die r, whose quadrant is q; collective stream t of port die p;
the partition controller. -/
def rimSrc (q r t : Nat) : Nat := q % 4 * 1024 + 0xA * 64 + r % 8 * 8 + t % 8
def portSrc (p t : Nat) : Nat := 0xB * 64 + p % 2 * 8 + t % 8
def pcSrc : Nat := 0xC * 64

/-- An input queue of a core. -/
def getQueue (co : CoreSt) (q : Nat) : Queue := mget {} co.queues q

/-- Write an input queue of a core. -/
def setQueue (co : CoreSt) (q : Nat) (x : Queue) : CoreSt := { co with queues := mset {} co.queues q x }

/-- Where a token of tag (gen, ctx) arriving at a queue goes (R121, R124). -/
inductive Place where
  | hardware | lane | full
  deriving DecidableEq, Repr

/-- R124: the overflow lane is used only while every token of the queue carries the token's tag; tokens never
overtake one another (R121). -/
def place (co : CoreSt) (q : Nat) (h : DWord) : Place :=
  let qu := getQueue co q
  let e := (getCtx co (tokCtx h)).queueEntry q
  let sameTag := (qu.hw ++ qu.lane).all (fun t => tokTag t.hdr == tokTag h)
  if qu.lane.isEmpty && decide (qu.hw.length < 8) then .hardware
  else if qeOvf e && sameTag && decide (qu.lane.length < qeCap e) then .lane
  else .full

/-- The token is discarded for its sequence number or kind: SEQ_ERR, counted for the partition's RUN (R120, R151). -/
def seqError (s : State) (c : Nat) : State :=
  let s := { s with pipeFlags := raise s.fc s.pipeFlags pipeSeqErr }
  match partOfCluster s (coreCluster c) with
  | none => s
  | some p => setPart s p { getPart s p with seqErr := satAdd32 (getPart s p).seqErr 1 }

/-- The token is discarded as non-resident: TAG_MISMATCH (R137). -/
def tagMismatch (s : State) (c : Nat) : State :=
  let s := { s with pipeFlags := raise s.fc s.pipeFlags pipeTagMismatch }
  match partOfCluster s (coreCluster c) with
  | none => s
  | some p => setPart s p { getPart s p with tagMiss := satAdd32 (getPart s p).tagMiss 1 }

/-- A token of the partition moved: the stalled-fc count starts again (R144). -/
def tokenMoved (s : State) (c : Nat) : State :=
  match partOfCluster s (coreCluster c) with
  | none => s
  | some p => setPart s p { getPart s p with stalled := 0 }

/-- A token checked at its core: residency (R137), then sequence (R120), then its place in the queue (R124).
Where the queue is full the sender is held back and nothing changes. R122 does not say what becomes of a token for a queue
whose entry has EN = 0: it enters the queue like any other (DESIGN CHOICE, log entry 121). -/
def deliver (s : State) (t : Token) : State :=
  let c := tokDst t.hdr
  let q := tokQ t.hdr
  let n := tokCtx t.hdr
  let co := getCore s c
  let x := getCtx co n
  if !(x.resident && x.gen == tokGen t.hdr) then tokenMoved (tagMismatch s c) c
  else if tokSeq t.hdr != mget 0 x.recvSeq q || tokKind t.hdr == 3 then tokenMoved (seqError s c) c
  else
    let qu := getQueue co q
    let co' := setCtx co n { x with recvSeq := mset 0 x.recvSeq q ((mget 0 x.recvSeq q + 1) % 32) }
    match place co q t.hdr with
    | .hardware => tokenMoved (setCore s c (setQueue co' q { qu with hw := qu.hw ++ [t] })) c
    | .lane => tokenMoved (setCore s c
        { setQueue co' q { qu with lane := qu.lane ++ [t] } with accessAc := co.accessAc + 3 }) c
    | .full => s

/-- Remove the oldest token of a queue. -/
def Queue.pop (q : Queue) : Queue :=
  match q.hw with
  | _ :: l => { q with hw := l, held := false }
  | [] => { q with lane := q.lane.drop 1, held := false }

/-- Whether a queue may be received on in the core's fold step (R142). -/
def foldAllows (p : PartSt) (co : CoreSt) (q : Nat) : Bool :=
  p.mode != .folded || co.fold.isEmpty || bit (foldMask (nth 0 co.fold co.foldPos)) q

/-- A token sent on a route-table entry r: header of Table 06.3, next SEQ of that entry (R120). -/
def routeToken (i : Issue) (c r kind mrows mcols trow tcol : Nat) (seqAhead : Nat) (tile : List Nat) : Token :=
  let e := i.ctx.route r
  { hdr := mkHdr c (reDst e) (reDq e) i.ctx.gen i.n kind mrows mcols trow tcol (mget 0 i.ctx.sendSeq r + seqAhead),
    tile := tile.map (BitVec.ofNat 32) }

/-- Whether a queue of a core has no room for a token of this header. -/
def queueFull (s : State) (h : DWord) : Bool :=
  match place (getCore s (tokDst h)) (tokQ h) h with
  | .full => true
  | _ => false

end Sys2Proof.Machine
end

