-- ==== Sys2Proof/Machine/Packets.lean ====
section
/-! DEFINITION. Jobs, ranks and the packets of the collective engines (R321 to R327, R340). -/

namespace Sys2Proof.Machine

/-! ### Jobs (Table 14.1) -/

/-- Fields of a job record. -/
def jobId (j : Nat) : Nat := bits j 15 0
def jobAxis (j cut : Nat) : Nat := bits j (16 + 2 * cut + 1) (16 + 2 * cut)
def jobOrigin (j : Nat) : Nat := bits j 47 32
def jobLengths (j : Nat) : Nat := bits j 63 48
def jobRelays (j : Nat) : Nat := bits j 79 64
def jobLands (j : Nat) : Nat := bits j 95 80

/-- Cuts: 0 data, 1 layer, 2 sequence. -/
def cutData : Nat := 0
def cutLayer : Nat := 1
def cutSeq : Nat := 2

/-- The job record of a slot. -/
def slotJob (x : SlotSt) : Nat := (x.pattern.map (·.job)).getD 0

/-- The axis of a cut: 0 X, 1 Y, 2 Z; none where the job has no such cut. -/
def cutAxis (j cut : Nat) : Option Nat := match jobAxis j cut with | 0 => none | a + 1 => some a

/-- Length of a cut. -/
def cutLen (s : State) (j cut : Nat) : Nat := match cutAxis j cut with | none => 1 | some a => axisLen s a

/-- The package's rank on a cut (R323). -/
def cutRank (s : State) (j cut : Nat) : Nat :=
  match cutAxis j cut with
  | none => 0
  | some a => (ownIdx s a + axisLen s a - idx (jobOrigin j) a % axisLen s a) % axisLen s a

/-- Coordinate of the member of a rank on a cut, the other indices being the package's own. -/
def rankCoord (s : State) (j cut r : Nat) : Nat :=
  match cutAxis j cut with
  | none => s.torus.coord
  | some a => setIdx s.torus.coord a ((idx (jobOrigin j) a + r) % axisLen s a)

/-- The rank on a cut of a coordinate. -/
def coordRank (s : State) (j cut w : Nat) : Nat :=
  match cutAxis j cut with
  | none => 0
  | some a => (idx w a + axisLen s a - idx (jobOrigin j) a % axisLen s a) % axisLen s a

/-- Whether a cut's axis runs as a ring. -/
def cutRing (s : State) (j cut : Nat) : Bool :=
  match cutAxis j cut with | none => true | some a => axisMode s a == .ring

/-- The order in which a round pass visits the members of a cut from rank 0 on (R340): round the ring; on a line,
from its first package to its last. -/
def passOrder (s : State) (j cut : Nat) : List Nat :=
  let l := cutLen s j cut
  if cutRing s j cut then (List.range l).drop 1
  else
    match cutAxis j cut with
    | none => []
    | some a =>
      ((List.range l).map (fun p => coordRank s j cut (setIdx s.torus.coord a ((axisBreak s a + 1 + p) % l)))).filter (· != 0)

/-- The member to which a pass goes from a rank: the next of the order, rank 0 after the last. -/
def passNext (s : State) (j cut r : Nat) : Nat :=
  let o := 0 :: passOrder s j cut
  nth 0 o (o.idxOf r + 1)

/-- The member from which the pass returns to rank 0. -/
def passLast (s : State) (j cut : Nat) : Nat := nth 0 (passOrder s j cut) ((passOrder s j cut).length - 1)

/-- Whether the checks of R322 accept a job record on this package; `slot` is the slot that carries it. -/
def jobOk (s : State) (slot j : Nat) : Bool :=
  let as := (List.range 3).filterMap (cutAxis j)
  as.eraseDups.length == as.length && as.all (fun a => decide (a < 3) && decide (1 < axisLen s a))
    && (List.range 3).all (fun a => idx (jobLengths j) a + 1 == axisLen s a)
    && (List.range 3).all (fun a => as.contains a || idx (jobOrigin j) a == ownIdx s a)
    && s.slots.all (fun p => p.1 == slot || !p.2.present || jobId (slotJob p.2) != jobId j)
    && bits j 31 24 == 0 && bits j 23 22 == 0 && bits j 127 96 == 0

/-! ### Packets -/

/-- Packet kinds (Table 14.3). -/
def pkReduce : Nat := 0x01
def pkGather : Nat := 0x02
def pkGrad : Nat := 0x03
def pkShardReq : Nat := 0x04
def pkShard : Nat := 0x05
def pkMove : Nat := 0x06
def pkRelay : Nat := 0x07
def pkRepair : Nat := 0x08
def pkPrepare : Nat := 0x10
def pkCommit : Nat := 0x11
def pkAbort : Nat := 0x12
def pkFence : Nat := 0x13
def pkGo : Nat := 0x14
def pkSwitch : Nat := 0x15

/-- Whether a packet kind is a CTRL kind. -/
def pkCtrl (k : Nat) : Bool := k == pkShardReq || decide (0x10 ≤ k)

/-- Whether a packet kind is reserved. -/
def pkReserved (k : Nat) : Bool := k == 0 || (decide (0x08 < k) && decide (k < 0x10)) || decide (0x15 < k)

/-- The stream of a packet kind; a RELAY's stream is its cut's. -/
def pkStream (k : Nat) : Nat :=
  if k ≤ 2 then 0 else if k = 3 then 1 else if k ≤ 6 then 2 else if k = 8 then 6 else 7

/-- Stream of a RELAY on a cut. -/
def relayStream (cut : Nat) : Nat := if cut = cutLayer then 3 else if cut = cutSeq then 4 else 5

/-- Bytes per element of a FORM. -/
def formWidth (form : Nat) : Nat := if form / 64 = 0 then 1 else if form / 64 = 1 then 2 else 4

/-- The data bytes of a packet. -/
def packetData (p : Packet) : List Byte :=
  (p.tiles.flatMap (fun t => t.flatMap (fun w => bytesLE (formWidth p.form.toNat) w.toNat))) ++ p.body

/-- PCRC (Table 14.2): CRC-32C of the data bytes with TENSOR folded in; 0 in CTRL packets. -/
def packetCrc (p : Packet) : Nat :=
  if pkCtrl p.pkind.toNat then 0 else crc32c (foldBytes p.tensor.toNat ++ packetData p)

/-- The 32 header bytes of a packet. -/
def packetHeader (p : Packet) : List Byte :=
  bytesLE 4 p.cnLo.toNat ++ bytesLE 4 p.layout.toNat ++ bytesLE 2 p.jobId.toNat ++ [p.pkind, p.form]
    ++ bytesLE 4 p.tile.toNat ++ bytesLE 4 p.tensor.toNat ++ bytesLE 2 p.landing.toNat ++ bytesLE 2 p.pseq.toNat
    ++ bytesLE 4 p.pcrc.toNat ++ bytesLE 4 0

/-- Cut bytes into block payloads of 256, the last padded with zeros. -/
def payloads (bs : List Byte) : List (List Byte) :=
  (List.range (ceilDiv bs.length 256)).map (fun k =>
    let c := (bs.drop (256 * k)).take 256
    c ++ List.replicate (256 - c.length) 0)

/-- The blocks of a packet on their way to a coordinate (R324). -/
def packetBlocks (s : State) (dest : Nat) (p : Packet) : List Block :=
  let ps := payloads (packetHeader p ++ packetData p)
  let ty := if pkCtrl p.pkind.toNat then 2 else 1
  ps.zipIdx.map (fun c =>
    { hdr := mkBlockHdr ty dest (dirsTo s dest) p.stream.toNat (c.2 + 1 == ps.length) 0 0 s.torus.coord,
      payload := c.1, ack := 0, crc := 0 })

/-- What a packet of a slot carries besides its kind. -/
structure PacketArgs where
  form    : Nat := 0
  tile    : Nat := 0
  tensor  : Nat := 0
  landing : Nat := 0
  tiles   : List (List Nat) := []
  body    : List Byte := []
  hdrs    : List DWord := []
  fwd     : Nat := 0
  deriving DecidableEq, Repr

/-- Send a packet of a slot to a coordinate: CN, layout, JOB_ID and PSEQ of this member (Table 14.2). -/
def sendPacket (s : State) (slot dest kind stream : Nat) (a : PacketArgs) : State :=
  let x := getSlot s slot
  let seq := mget 0 x.coll.pseqOut stream
  let p : Packet :=
    { src := BitVec.ofNat 16 s.torus.coord, stream := BitVec.ofNat 3 stream, cnLo := BitVec.ofNat 32 x.cn,
      layout := BitVec.ofNat 32 x.layout, jobId := BitVec.ofNat 16 (jobId (slotJob x)), pkind := BitVec.ofNat 8 kind,
      form := BitVec.ofNat 8 a.form, tile := BitVec.ofNat 32 a.tile, tensor := BitVec.ofNat 32 a.tensor,
      landing := BitVec.ofNat 16 a.landing, pseq := BitVec.ofNat 16 seq, pcrc := 0,
      tiles := a.tiles.map (fun t => t.map (BitVec.ofNat 32)), body := a.body, hdrs := a.hdrs, fwd := a.fwd }
  let p := { p with pcrc := BitVec.ofNat 32 (packetCrc p) }
  let s := setSlot s slot { x with coll := { x.coll with pseqOut := mset 0 x.coll.pseqOut stream ((seq + 1) % 2 ^ 16) } }
  (packetBlocks s dest p).foldl injectBlock { s with out := s.out ++ [.packet dest p] }

/-- FORM of n tiles of FP32, L16 or L8 (width 4, 2, 1). -/
def mkForm (width : Nat) (pair : Bool) (n : Nat) : Nat :=
  (if width = 4 then 2 else if width = 2 then 1 else 0) * 64 + boolNat pair * 32 + (n - 1)

/-- Bits of COLL_FLAGS (Table 14.8) and TRAIN_FLAGS (Table 08.14). -/
def kfLayoutOld : Nat := 0
def kfUnlanded : Nat := 1
def kfLineOrder : Nat := 2
def kfMoveRetry : Nat := 3
def nfReplay : Nat := 0
def nfEfCleared : Nat := 1
def nfReplicaDiv : Nat := 2
def nfStaleShard : Nat := 3

def raiseColl (s : State) (b : Nat) : State := { s with train := { s.train with collFlags := raise s.fc s.train.collFlags b } }
def raiseTrain (s : State) (b : Nat) : State := { s with train := { s.train with flags := raise s.fc s.train.flags b } }

/-- Send a round packet (stream 7) to a rank of a cut. -/
def sendRound (s : State) (slot cut rank kind : Nat) (body : List Byte) : State :=
  sendPacket s slot (rankCoord s (slotJob (getSlot s slot)) cut rank) kind 7 { body := body }

/-- The slot a packet is for: the one with its JOB_ID. -/
def packetSlot (s : State) (p : Packet) : Option Nat :=
  (s.slots.find? (fun x => x.2.present && jobId (slotJob x.2) == p.jobId.toNat)).map (·.1)

/-- A packet matched no slot, landing entry or kind: UNLANDED, reported as a transient of the fabric path (R327). -/
def unlanded (s : State) : State := faultTransient (raiseColl s kfUnlanded)

/-- Key of the PSEQ expectation of a source and stream. -/
def pseqKey (p : Packet) : Nat := 8 * (p.src.toNat % 2 ^ 15) + p.stream.toNat

/-- What the checks of an arriving packet say (R326, R327, R341). -/
inductive PacketCheck where
  | unlanded
  /-- Kept until the commit number, the layout or the attempt it belongs to is reached. -/
  | hold (slot : Nat)
  /-- Of an attempt this member has aborted: discarded. -/
  | drop (slot : Nat)
  | seqErr (slot : Nat)
  | old (slot : Nat)
  | ok (slot : Nat)
  deriving DecidableEq, Repr

/-- Whether CN_LO is ahead of a commit number, modulo 2^32. -/
def cnAhead (cnLo cn : Nat) : Bool :=
  let d := (cnLo + 2 ^ 32 - cn % 2 ^ 32) % 2 ^ 32
  d != 0 && decide (d < 2 ^ 31)

/-- A packet kind that belongs to an attempt: REDUCE, GATHER, GRAD, SHARD_REQ, SHARD, RELAY. -/
def pkAttempt (k : Nat) : Bool := (decide (1 ≤ k) && decide (k ≤ 5)) || k == pkRelay

/-- A member is inside an attempt: between its start and the decision of the round. -/
def inAttempt (x : SlotSt) : Bool := x.run.any (fun r => r.stage == .step || r.stage == .round)

/-- A member has aborted its attempt and has not yet joined the restart round. -/
def stopping (x : SlotSt) : Bool := x.run.any (fun r => r.stage == .replay) && !(x.round.kind == .restart && x.round.ready)

/-- A packet whose layout number counts (R341). -/
def pkLayout (k : Nat) : Bool := k == pkGrad || k == pkShardReq || k == pkShard || k == pkMove

/-- A packet whose layout number is below the slot's (R341). -/
def olderLayout (x : SlotSt) (p : Packet) : Bool := pkLayout p.pkind.toNat && decide (p.layout.toNat < x.layout)

/-- The checks of R326, R327, R197 and R341. Packets held for a later commit number, layout or attempt are checked
for PSEQ when they are released, since R382 sets those counters anew at the attempt's start. -/
def checkPacket (s : State) (p : Packet) : PacketCheck :=
  let k := p.pkind.toNat
  if pkReserved k then .unlanded
  else match packetSlot s p with
    | none => .unlanded
    | some n =>
      let x := getSlot s n
      if cnAhead p.cnLo.toNat x.cn then .hold n
      else if pkLayout k && decide (x.layout < p.layout.toNat) then .hold n
      else if pkAttempt k && !inAttempt x && !(k == pkShardReq && x.reshard.any (fun r => r.stage == .moving)) then
        (if stopping x then .drop n
        else if packetCrc p ≠ p.pcrc.toNat then .seqErr n
        else if olderLayout x p then .old n
        else .hold n)
      else if p.pseq.toNat ≠ mget 0 x.coll.pseqIn (pseqKey p) ∨ packetCrc p ≠ p.pcrc.toNat then .seqErr n
      else if olderLayout x p then .old n
      else .ok n

/-- The PSEQ expectation after a packet was taken. -/
def takePseq (s : State) (n : Nat) (p : Packet) : State :=
  updSlot s n (fun x => { x with coll := { x.coll with
    pseqIn := mset 0 x.coll.pseqIn (pseqKey p) ((p.pseq.toNat + 1) % 2 ^ 16) } })

/-- Keep a packet for later. -/
def holdPacket (s : State) (n : Nat) (p : Packet) : State :=
  updSlot s n (fun x => { x with coll := { x.coll with held := x.coll.held ++ [p] } })

end Sys2Proof.Machine
end

