-- ==== Sys2Proof/Machine/Lanes.lean ====
section
/-! DEFINITION. Lane operations of classes VF, VI, VC and VL (R95 to R102, Tables 05.4 to 05.7). -/

namespace Sys2Proof.Machine

/-- One lane's result: its word and the events it raises. -/
structure LaneRes where
  code : Nat
  sat  : Bool := false
  ufl  : Bool := false
  nar  : Bool := false
  iovf : Bool := false
  deriving DecidableEq, Repr

/-- A lane result from a converted code. -/
def LaneRes.ofCvt (c : Cvt) : LaneRes := { code := c.code, sat := c.sat, ufl := c.ufl, nar := c.nar }

/-- A lane result from a truth value. -/
def LaneRes.ofBool (b : Bool) : LaneRes := { code := boolNat b }

/-- Classes of A-half instructions (Table 05.2). -/
inductive LaneClass where
  | vf | vi | vl | vc
  deriving DecidableEq, Repr

/-- An A-half form that a loaded pattern can hold: IOV only in class VI and not 0b11 (R39), reserved IMM bits 0,
no VL on a dense core (R84), and FROM ≠ TO with both formats defined (R99). -/
def laneFormOk (k : LaneClass) (o : LaneOp) : Bool :=
  let imm := o.imm.toNat
  match k with
  | .vf => o.iov == 0 && imm == 0
  | .vi => o.iov != 3 && imm % 0x8000 == 0
  | .vl => o.iov == 0 && imm == 0 && coreEven o.core.toNat
  | .vc => o.iov == 0 && imm % 0x100 == 0 &&
      (match Fmt.ofCode (imm / 0x1000), Fmt.ofCode (imm / 0x100 % 0x10) with
       | some f, some t => f != t
       | _, _ => false)

/-- Operand A of an FP32 lane: magnitude, then sign (Table 05.4). -/
def operandA (o : LaneOp) (a : Nat) : Nat :=
  let a := if o.absa then fpAbs a else a
  if o.nega then fpNeg a else a

/-- Operand B of an FP32 lane. -/
def operandB (o : LaneOp) (b : Nat) : Nat := if o.negb then fpNeg b else b

/-- Operand A of a log lane (R20). -/
def logOperandA (o : LaneOp) (a : Nat) : Nat :=
  let a := a % 0x10000
  let a := if o.absa && lNeg a && !lIsNaR a then lFlip a else a
  if o.nega then lFlip a else a

/-- Operand B of a log lane. -/
def logOperandB (o : LaneOp) (b : Nat) : Nat := if o.negb then lFlip (b % 0x10000) else b % 0x10000

/-- Lane width of class VI (IMM[15], R98). -/
def viWidth (o : LaneOp) : Nat := if o.imm.toNat ≥ 0x8000 then 8 else 32

/-- Operand A of an integer lane, exact. -/
def intOperandA (o : LaneOp) (a : Nat) : Int :=
  let x := signedVal (viWidth o) a
  let x := if o.absa then (x.natAbs : Int) else x
  if o.nega then -x else x

/-- Operand B of an integer lane, exact. -/
def intOperandB (o : LaneOp) (b : Nat) : Int :=
  let x := signedVal (viWidth o) b
  if o.negb then -x else x

/-- An exact integer put into a lane under IOV (R39). -/
def intoLane (o : LaneOp) (x : Int) : LaneRes :=
  let w := viWidth o
  let hi : Int := 2 ^ (w - 1) - 1
  let beyond := decide (x > hi) || decide (x < -hi - 1)
  if !beyond then { code := toTwos w x }
  else match o.iov.toNat with
    | 0 => { code := toTwos w x }
    | 1 => { code := toTwos w x, iovf := true }
    | _ => { code := toTwos w (if x > hi then hi else -hi - 1), iovf := true }

/-- An exact integer wrapped into a lane without an event. -/
def wrapLane (o : LaneOp) (x : Int) : LaneRes := { code := toTwos (viWidth o) x }

/-- Bitwise operation on two exact integers in the lane width. -/
def bitsLane (o : LaneOp) (f : Nat → Nat → Nat) (x y : Int) : LaneRes :=
  { code := f (toTwos (viWidth o) x) (toTwos (viWidth o) y) }

/-- The events of the unmasked lanes of a result (R36, R161). -/
def laneEvents (rs : List (Nat × LaneRes × Bool)) : Conv4 :=
  let live := rs.filter (fun r => !r.2.2)
  { sat := (live.filter (fun r => r.2.1.sat)).length, ufl := (live.filter (fun r => r.2.1.ufl)).length,
    nar := (live.filter (fun r => r.2.1.nar)).length, iovf := (live.filter (fun r => r.2.1.iovf)).length }

/-- Put the lane results of an A-half instruction in flight and count their events; the bundle's A half has issued. -/
def commitLanes (s : State) (o : LaneOp) (i : Issue) (lat : Nat) (toPred : Bool)
    (rs : List (Nat × LaneRes × Bool)) : State :=
  let ev := laneEvents rs
  let x := { i.ctx with conv := i.ctx.conv.add ev }
  let co := pushResult (setCtx i.core i.n x)
    { due := i.core.ac + lat, ctx := i.n, pred := toPred,
      reg := if toPred then o.pd.toNat else o.vd.toNat,
      vals := rs.map (fun r => (r.1, r.2.1.code, r.2.2)) }
  setCore (raiseConv s o.core.toNat ev) o.core.toNat { co with aDone := true }

/-- The active lanes of a lane instruction (R93). -/
def activeLanes (o : LaneOp) (x : Ctx) : List Nat :=
  (List.range (coreLanes o.core.toNat)).filter (fun l => x.active o.pinv o.preg.toNat l)

/-- A lane-wise instruction: `f` gives a lane's result from its operand words A, B, C and its bit of PD; `srcs`
are the registers the operation reads. A result lane is masked where a source lane is. -/
def laneOp (k : LaneClass) (lat : Nat) (toPred : Bool) (srcs : LaneOp → List (BitVec 6)) (o : LaneOp)
    (f : Nat → Nat → Nat → Bool → LaneRes) (s : State) : Res :=
  if !coreValid o.core.toNat then .refused .noSuchUnit
  else if !laneFormOk k o then .refused .rejectedAtLoad
  else atAHalf s o.core.toNat (fun i =>
    .next (commitLanes s o i lat toPred ((activeLanes o i.ctx).map (fun l =>
      (l, f (i.ctx.lane o.va.toNat l) (i.ctx.lane o.vb.toNat l) (i.ctx.lane o.vc.toNat l) (i.ctx.pred o.pd.toNat l),
        (srcs o).any (fun r => i.ctx.laneMasked r.toNat l))))))

/-- Registers read: VA; VA and VB; VA, VB and VC. -/
def srcA (o : LaneOp) : List (BitVec 6) := [o.va]
def srcAB (o : LaneOp) : List (BitVec 6) := [o.va, o.vb]
def srcABC (o : LaneOp) : List (BitVec 6) := [o.va, o.vb, o.vc]

/-! ### VF -/

/-- FADD (R96). -/
def execFadd (o : LaneOp) (s : State) : Res :=
  laneOp .vf 4 false srcAB o (fun a b _ _ => .ofCvt (fpAdd (operandA o a) (operandB o b))) s

/-- FSUB (R96). -/
def execFsub (o : LaneOp) (s : State) : Res :=
  laneOp .vf 4 false srcAB o (fun a b _ _ => .ofCvt (fpSub (operandA o a) (operandB o b))) s

/-- FMUL (R96). -/
def execFmul (o : LaneOp) (s : State) : Res :=
  laneOp .vf 4 false srcAB o (fun a b _ _ => .ofCvt (fpMul (operandA o a) (operandB o b))) s

/-- FMA: VA · VB + VC with one rounding (R96). -/
def execFma (o : LaneOp) (s : State) : Res :=
  laneOp .vf 4 false srcABC o (fun a b c _ => .ofCvt (fpFma (operandA o a) (operandB o b) c)) s

/-- FMIN (R96). -/
def execFmin (o : LaneOp) (s : State) : Res :=
  laneOp .vf 2 false srcAB o (fun a b _ _ => { code := fpMin (operandA o a) (operandB o b) }) s

/-- FMAX (R96). -/
def execFmax (o : LaneOp) (s : State) : Res :=
  laneOp .vf 2 false srcAB o (fun a b _ _ => { code := fpMax (operandA o a) (operandB o b) }) s

/-- FCMPLT, to PD (R96). -/
def execFcmplt (o : LaneOp) (s : State) : Res :=
  laneOp .vf 2 true srcAB o (fun a b _ _ => .ofBool (fpLt (operandA o a) (operandB o b))) s

/-- FCMPEQ, to PD (R96). -/
def execFcmpeq (o : LaneOp) (s : State) : Res :=
  laneOp .vf 2 true srcAB o (fun a b _ _ => .ofBool (fpEq (operandA o a) (operandB o b))) s

/-- FSEL: VA where the PD bit is 1, else VB (Table 05.6). -/
def execFsel (o : LaneOp) (s : State) : Res :=
  laneOp .vf 2 false srcAB o (fun a b _ p => { code := if p then operandA o a else operandB o b }) s

/-- Combine neighbours 2i and 2i + 1 (R97). -/
def pairUp {α : Type} (f : α → α → α) : List α → List α
  | a :: b :: l => f a b :: pairUp f l
  | l => l

/-- The pairwise tree of `n` levels (R97). -/
def treeLevelsOf {α : Type} (f : α → α → α) : Nat → List α → List α
  | 0, l => l
  | n + 1, l => treeLevelsOf f n (pairUp f l)

/-- log2 of the lanes of a core. -/
def laneLog (c : Nat) : Nat := if coreEven c then 7 else 5

/-- A tree node of FRSUM: the sum, whether all its lanes are masked, and the SAT events below it. -/
structure SumNode where
  code   : Nat
  masked : Bool
  sats   : Nat
  deriving DecidableEq, Repr

/-- One addition of the FRSUM tree. -/
def sumNode (a b : SumNode) : SumNode :=
  let r := fpAdd a.code b.code
  let m := a.masked && b.masked
  { code := r.code, masked := m, sats := a.sats + b.sats + boolNat (r.sat && !m) }

/-- A reduction across lanes: the tree's root is written to every active lane of VD (R97). -/
def reduceOp (lat : Nat) (o : LaneOp) (f : SumNode → SumNode → SumNode) (s : State) : Res :=
  if !coreValid o.core.toNat then .refused .noSuchUnit
  else if !laneFormOk .vf o then .refused .rejectedAtLoad
  else atAHalf s o.core.toNat (fun i =>
    let c := o.core.toNat
    let leaves := (List.range (coreLanes c)).map (fun l =>
      ({ code := operandA o (i.ctx.lane o.va.toNat l), masked := i.ctx.laneMasked o.va.toNat l, sats := 0 } : SumNode))
    let root := (treeLevelsOf f (laneLog c) leaves).headD { code := 0, masked := false, sats := 0 }
    let act := activeLanes o i.ctx
    let ev : Conv4 := { sat := if act.isEmpty then 0 else root.sats }
    let x := { i.ctx with conv := i.ctx.conv.add ev }
    let co := pushResult (setCtx i.core i.n x)
      { due := i.core.ac + lat, ctx := i.n, pred := false, reg := o.vd.toNat,
        vals := act.map (fun l => (l, root.code, root.masked)) }
    .next (setCore (raiseConv s c ev) c { co with aDone := true }))

/-- FRSUM (R97). -/
def execFrsum (o : LaneOp) (s : State) : Res := reduceOp (4 * laneLog o.core.toNat) o sumNode s

/-- FRMAX (R97). -/
def execFrmax (o : LaneOp) (s : State) : Res :=
  reduceOp (2 * laneLog o.core.toNat) o
    (fun a b => { code := fpMax a.code b.code, masked := a.masked && b.masked, sats := 0 }) s

/-! ### VI -/

/-- IADD (R98). -/
def execIadd (o : LaneOp) (s : State) : Res :=
  laneOp .vi 1 false srcAB o (fun a b _ _ => intoLane o (intOperandA o a + intOperandB o b)) s

/-- ISUB (R98). -/
def execIsub (o : LaneOp) (s : State) : Res :=
  laneOp .vi 1 false srcAB o (fun a b _ _ => intoLane o (intOperandA o a - intOperandB o b)) s

/-- INEG (R98). -/
def execIneg (o : LaneOp) (s : State) : Res :=
  laneOp .vi 1 false srcA o (fun a _ _ _ => intoLane o (-intOperandA o a)) s

/-- IABS (R98). -/
def execIabs (o : LaneOp) (s : State) : Res :=
  laneOp .vi 1 false srcA o (fun a _ _ _ => intoLane o (intOperandA o a).natAbs) s

/-- IAND (R98). -/
def execIand (o : LaneOp) (s : State) : Res :=
  laneOp .vi 1 false srcAB o (fun a b _ _ => bitsLane o (· &&& ·) (intOperandA o a) (intOperandB o b)) s

/-- IOR (R98). -/
def execIor (o : LaneOp) (s : State) : Res :=
  laneOp .vi 1 false srcAB o (fun a b _ _ => bitsLane o (· ||| ·) (intOperandA o a) (intOperandB o b)) s

/-- IXOR (R98). -/
def execIxor (o : LaneOp) (s : State) : Res :=
  laneOp .vi 1 false srcAB o (fun a b _ _ => bitsLane o (· ^^^ ·) (intOperandA o a) (intOperandB o b)) s

/-- The shift count: operand B modulo the lane width (R98). -/
def shiftCount (o : LaneOp) (b : Nat) : Nat := (intOperandB o b % (viWidth o : Int)).toNat

/-- ISHL (R98). -/
def execIshl (o : LaneOp) (s : State) : Res :=
  laneOp .vi 1 false srcAB o (fun a b _ _ => wrapLane o (intOperandA o a * 2 ^ shiftCount o b)) s

/-- ISHR, arithmetic (R98). -/
def execIshr (o : LaneOp) (s : State) : Res :=
  laneOp .vi 1 false srcAB o (fun a b _ _ => wrapLane o (intOperandA o a / 2 ^ shiftCount o b)) s

/-- IMUL (R98). -/
def execImul (o : LaneOp) (s : State) : Res :=
  laneOp .vi 3 false srcAB o (fun a b _ _ => intoLane o (intOperandA o a * intOperandB o b)) s

/-- IMAD (R98). -/
def execImad (o : LaneOp) (s : State) : Res :=
  laneOp .vi 3 false srcABC o
    (fun a b c _ => intoLane o (intOperandA o a * intOperandB o b + signedVal (viWidth o) c)) s

/-- ICMPLT, to PD (R98). -/
def execIcmplt (o : LaneOp) (s : State) : Res :=
  laneOp .vi 1 true srcAB o (fun a b _ _ => .ofBool (decide (intOperandA o a < intOperandB o b))) s

/-- ICMPEQ, to PD (R98). -/
def execIcmpeq (o : LaneOp) (s : State) : Res :=
  laneOp .vi 1 true srcAB o (fun a b _ _ => .ofBool (decide (intOperandA o a = intOperandB o b))) s

/-! ### VC -/

/-- An exact integer into a format (R99). -/
def intTo (t : Fmt) (x : Int) : Cvt :=
  let v : Val := .fin (decide (x < 0)) x.natAbs 0
  match t with
  | .l8 => valToLog true v
  | .l16 => valToLog false v
  | .int8 | .int32 => intoInt t x
  | _ => boundaryTo t v

/-- The sign bit operations ABSA and NEGA on a code whose sign is its top bit; `fixed` codes keep theirs. -/
def signOps (o : LaneOp) (f : Fmt) (fixed : Bool) (a : Nat) : Nat :=
  if fixed then a else
  let a := if o.absa then a % f.signBit else a
  if o.nega then a ^^^ f.signBit else a

/-- CVT of one lane: FROM and TO of IMM (R99), after the sign operations on operand A. -/
def cvtLane (o : LaneOp) (a : Nat) : LaneRes :=
  match Fmt.ofCode (o.imm.toNat / 0x1000), Fmt.ofCode (o.imm.toNat / 0x100 % 0x10) with
  | some f, some t =>
    let a := a % 2 ^ (8 * f.width)
    match f with
    | .int8 | .int32 =>
      let x := signedVal (8 * f.width) a
      let x := if o.absa then (x.natAbs : Int) else x
      .ofCvt (intTo t (if o.nega then -x else x))
    | .l8 | .l16 => .ofCvt (convert f t (signOps o f (decide (a = 0 ∨ a = f.signBit)) a))
    | _ => .ofCvt (convert f t (signOps o f false a))
  | _, _ => { code := 0 }

/-- CVT (R99). -/
def execCvt (o : LaneOp) (s : State) : Res :=
  laneOp .vc 2 false srcA o (fun a _ _ _ => cvtLane o a) s

/-! ### VL -/

/-- LMUL (R100). -/
def execLmul (o : LaneOp) (s : State) : Res :=
  laneOp .vl 1 false srcAB o (fun a b _ _ => .ofCvt (lMul (logOperandA o a) (logOperandB o b))) s

/-- LDIV (R100). -/
def execLdiv (o : LaneOp) (s : State) : Res :=
  laneOp .vl 1 false srcAB o (fun a b _ _ => .ofCvt (lDiv (logOperandA o a) (logOperandB o b))) s

/-- LSQRT (R100). -/
def execLsqrt (o : LaneOp) (s : State) : Res :=
  laneOp .vl 1 false srcA o (fun a _ _ _ => .ofCvt (lSqrt (logOperandA o a))) s

/-- LRSQRT (R100). -/
def execLrsqrt (o : LaneOp) (s : State) : Res :=
  laneOp .vl 1 false srcA o (fun a _ _ _ => .ofCvt (lRsqrt (logOperandA o a))) s

/-- LEXP (R101). -/
def execLexp (o : LaneOp) (s : State) : Res :=
  laneOp .vl 1 false srcA o (fun a _ _ _ => .ofCvt (lExp (operandA o a))) s

/-- LLOG (R100). -/
def execLlog (o : LaneOp) (s : State) : Res :=
  laneOp .vl 3 false srcA o (fun a _ _ _ => .ofCvt (lLog (logOperandA o a))) s

/-- LADD (R102). -/
def execLadd (o : LaneOp) (s : State) : Res :=
  laneOp .vl 3 false srcAB o (fun a b _ _ => .ofCvt (lAdd (logOperandA o a) (logOperandB o b))) s

/-- LSUB (R102). -/
def execLsub (o : LaneOp) (s : State) : Res :=
  laneOp .vl 3 false srcAB o (fun a b _ _ => .ofCvt (lSub (logOperandA o a) (logOperandB o b))) s

/-- LMAX (R100). -/
def execLmax (o : LaneOp) (s : State) : Res :=
  laneOp .vl 1 false srcAB o (fun a b _ _ => .ofCvt (lMax (logOperandA o a) (logOperandB o b))) s

/-- LMIN (R100). -/
def execLmin (o : LaneOp) (s : State) : Res :=
  laneOp .vl 1 false srcAB o (fun a b _ _ => .ofCvt (lMin (logOperandA o a) (logOperandB o b))) s

/-- LCMPLT, to PD (R100). -/
def execLcmplt (o : LaneOp) (s : State) : Res :=
  laneOp .vl 1 true srcAB o (fun a b _ _ =>
    let r := lCmpLt (logOperandA o a) (logOperandB o b)
    { code := boolNat r.1, nar := r.2 }) s

end Sys2Proof.Machine
end

