-- ==== Sys2Proof/Machine/Sfu.lean ====
section
/-! DEFINITION. The exact functions of the special-function micro-sequences and their bounds (R103, R104,
Table 05.8). The exact result is held to about 2^-180; the code written is a free value within the bound. -/

namespace Sys2Proof.Machine

/-- The operations of class SFU. -/
inductive SfuOp where
  | sigmoid | silu | geluT | softmax | layernorm | rmsnorm
  deriving DecidableEq, Repr

/-- Table 05.8: the OP code. -/
def SfuOp.code : SfuOp → Nat
  | .sigmoid => 0 | .silu => 1 | .geluT => 2 | .softmax => 3 | .layernorm => 4 | .rmsnorm => 5

/-- Table 05.8: time in ac for a row of n elements. -/
def sfuTime (op : SfuOp) (n : Nat) : Nat :=
  let c := ceilDiv n 128
  match op with
  | .sigmoid => 3 * c + 9 | .silu => 5 * c + 12 | .geluT => 8 * c + 22
  | .softmax => 6 * c + 58 | .layernorm => 9 * c + 64 | .rmsnorm => 4 * c + 52

/-- Whether the result is FP32 (Table 05.8); otherwise it is L16. -/
def SfuOp.outF32 : SfuOp → Bool
  | .layernorm => true | .rmsnorm => true | _ => false

/-- Quotient to about 200 significant bits, towards zero. -/
def dyDiv (a b : Dy) : Dy :=
  if b.m = 0 then ⟨0, 0⟩ else
  let k := Nat.log2 b.m.natAbs + 200
  let q : Int := a.m.natAbs * 2 ^ k / b.m.natAbs
  ⟨if (decide (a.m < 0)) != (decide (b.m < 0)) then -q else q, a.e - k - b.e⟩

/-- Square root to about 200 significant bits. -/
def dySqrt (a : Dy) : Dy :=
  let (m, e) := if a.e % 2 = 0 then (a.m.natAbs, a.e) else (a.m.natAbs * 2, a.e - 1)
  ⟨isqrt (m * 2 ^ 400), e / 2 - 200⟩

/-- Drop bits of a dyadic below about 240 significant ones. -/
def dyTrim (a : Dy) : Dy :=
  let l := Nat.log2 a.m.natAbs
  if l ≤ 240 then a else
    let k := l - 240
    ⟨if a.m < 0 then -(a.m.natAbs / 2 ^ k : Nat) else (a.m.natAbs / 2 ^ k : Nat), a.e + k⟩

/-- log2 e in units of 2^-256. -/
def log2eFixed : Int := 167052672916848388242985626561247531987276682633131050150846402744536260568207

/-- ln 2 in units of 2^-256. -/
def ln2Fixed256 : Nat := 80260960185991308862233904206310070533990667611589946606122867505419956976171

/-- The Taylor sum of e^y for y in units of 2^-256, `i` the next factor, `term` the last term. -/
def expTaylor (y : Nat) : Nat → Nat → Nat → Nat → Nat
  | 0, _, _, acc => acc
  | f + 1, i, term, acc =>
    let t := term * y / 2 ^ 256 / i
    expTaylor y f (i + 1) t (acc + t)

/-- e^x for a dyadic x, the exponent of two held to ±2^12. -/
def dyExp (x : Dy) : Dy :=
  let t := dyMul x ⟨log2eFixed, -256⟩
  let fx : Int := if t.e ≥ -256 then t.m * 2 ^ (t.e + 256).toNat else t.m / 2 ^ (-256 - t.e).toNat
  let n := fx / 2 ^ 256
  if n > 4096 then ⟨1, 4096⟩ else if n < -4096 then ⟨1, -4096⟩ else
  let y := (fx % 2 ^ 256).toNat * ln2Fixed256 / 2 ^ 256
  ⟨expTaylor y 60 1 (2 ^ 256) (2 ^ 256), n - 256⟩

/-- 1 / (1 + e^-u). -/
def dySigmoid (u : Dy) : Dy := dyDiv ⟨1, 0⟩ (dyTrim (dyAdd ⟨1, 0⟩ (dyExp (dyNeg (dyTrim u)))))

/-- The dyadic of a finite FP32 code. -/
def f32Dy (c : Nat) : Option Dy :=
  match f32 c with
  | .fin s m e => some (finDy s m e)
  | _ => none

/-- The dyadics of a row of FP32 codes, if all are finite. -/
def rowDy : List Nat → Option (List Dy)
  | [] => some []
  | c :: cs =>
    match f32Dy c, rowDy cs with
    | some d, some ds => some (d :: ds)
    | _, _ => none

/-- Value of an L16 code, to 2^-150 relative. -/
def l16Dy (c : Nat) : Dy :=
  let (p, e, _) := logMag c
  if lIsZero c then ⟨0, 0⟩ else ⟨if lNeg c then -(p : Int) else p, e⟩

/-- Whether a code lies within num/den · a + 2^-23 · b of y; the first term is narrowed by 2^-40 of itself
to stay inside the exact bound. -/
def sfuWithin (outF : Bool) (y a b : Dy) (num den : Nat) (c : Nat) : Bool :=
  let v := if outF then f32Dy c else if lIsNaR c then none else some (l16Dy c)
  match v with
  | none => false
  | some v =>
    let lim := dyAdd (dyMul (dyDiv (dyMul (dyAbs a) ⟨num, 0⟩) ⟨den, 0⟩) ⟨2 ^ 40 - 1, -40⟩)
      ⟨(dyAbs b).m, b.e - 23⟩
    dyLe (dyAbs (dyAdd v (dyNeg y))) lim

/-- The nearest code to y in the output format. -/
def sfuNearest (outF : Bool) (y : Dy) : Nat :=
  if outF then (roundDy32 false y true).code
  else if y.m = 0 then 0 else (magToL16 (decide (y.m < 0)) y.m.natAbs y.e).code

/-- The code written for one element: the free value where it meets the bound; the nearest code where only
that meets it; the free value where no code does or the inputs have no exact function value. -/
def sfuPick (op : SfuOp) (ins : List Nat) (i : Nat) (y : Option (Dy × Dy × Dy × Nat × Nat)) : Nat :=
  let free := (Config.sfuCode op.code ins i).toNat % (if op.outF32 then 2 ^ 32 else 2 ^ 16)
  match y with
  | none => free
  | some (y, a, b, num, den) =>
    let dflt := sfuNearest op.outF32 y
    if sfuWithin op.outF32 y a b num den free then free
    else if sfuWithin op.outF32 y a b num den dflt then dflt
    else free

/-- 2·√(2/π) in units of 2^-192. -/
def geluConst : Dy := ⟨10016805122507811459578197244997354253072253424553930005347, -192⟩

/-- GELU_T of one finite input (R103, R104): the code where R104 fixes it, else exact value and bound. -/
def geluElem (ins : List Nat) (i : Nat) (c : Nat) (x : Dy) : Nat :=
  let cube := dyMul x (dyMul x x)
  -- 10^13 · u, u = 1.5957691 · x · (1 + 0.044715 x²)
  let u13 := dyMul ⟨15957691, 0⟩ (dyAdd (dyMul x ⟨1000000, 0⟩) (dyMul cube ⟨44715, 0⟩))
  if dyLt u13 ⟨-40 * 10 ^ 13, 0⟩ then 0
  else if dyLt ⟨40 * 10 ^ 13, 0⟩ u13 then (convert .fp32 .l16 c).code
  else
    let arg := dyDiv (dyMul geluConst (dyAdd (dyMul x ⟨1000000, 0⟩) (dyMul cube ⟨44715, 0⟩))) ⟨1000000, 0⟩
    let y := dyTrim (dyMul x (dySigmoid arg))
    sfuPick .geluT ins i (some (y, y, ⟨0, 0⟩, 42, 10000))

/-- GELU_T of one input without a finite value (R104): u is as infinite as x; a NaN has no stated result. -/
def geluInf (c : Nat) : Nat :=
  if c = 0xFF800000 then 0
  else if c = 0x7F800000 then (convert .fp32 .l16 c).code
  else sfuPick .geluT [c] 0 none

/-- Largest dyadic of a list. -/
def dyMaxList : List Dy → Dy
  | [] => ⟨0, 0⟩
  | [d] => d
  | d :: ds => let m := dyMaxList ds; if dyLt m d then d else m

/-- Exact sum of a list. -/
def dySum (l : List Dy) : Dy := l.foldl dyAdd ⟨0, 0⟩

/-- Bound of a relative error a thousandth-based fraction. -/
def relBound (y : Dy) (num den : Nat) : Option (Dy × Dy × Dy × Nat × Nat) := some (y, y, ⟨0, 0⟩, num, den)

/-- The output codes of a row: x the FP32 inputs, g and b the rows γ and β, eps the FP32 code of ε. -/
def sfuRow (op : SfuOp) (x g b : List Nat) (eps : Nat) : List Nat :=
  let ins := x ++ g ++ b ++ [eps]
  let n := x.length
  let free := (List.range n).map (fun i => sfuPick op ins i none)
  match op with
  | .sigmoid => x.map (fun c => match f32Dy c with
    | none => sfuPick op [c] 0 none
    | some d => sfuPick op [c] 0 (relBound (dySigmoid d) 28 10000))
  | .silu => x.map (fun c => match f32Dy c with
    | none => sfuPick op [c] 0 none
    | some d => sfuPick op [c] 0 (relBound (dyTrim (dyMul d (dySigmoid d))) 41 10000))
  | .geluT => x.map (fun c => match f32Dy c with
    | none => geluInf c
    | some d => geluElem [c] 0 c d)
  | .softmax => match rowDy x with
    | none => free
    | some xs =>
      let m := dyMaxList xs
      let es := xs.map (fun d => dyExp (dyAdd d (dyNeg m)))
      let tot := dyTrim (dySum es)
      es.mapIdx (fun i e => sfuPick op ins i (relBound (dyDiv e tot) 28 10000))
  | .layernorm => match rowDy x, rowDy g, rowDy b, f32Dy eps with
    | some xs, some gs, some bs, some ep =>
      let s := dySum xs
      let dev := xs.map (fun d => dyAdd (dyMul d ⟨n, 0⟩) (dyNeg s))
      -- n³ · (variance + ε)
      let v := dyAdd (dySum (dev.map (fun d => dyMul d d))) (dyMul ep ⟨(n ^ 3 : Nat), 0⟩)
      if v.m ≤ 0 then free else
      let sd := dySqrt (dyMul v ⟨n, 0⟩)
      dev.mapIdx (fun i d =>
        let a := dyDiv (dyMul (dyMul (nth ⟨0, 0⟩ gs i) d) ⟨n, 0⟩) sd
        let y := dyAdd a (nth ⟨0, 0⟩ bs i)
        sfuPick op ins i (some (y, a, y, 42, 10000)))
    | _, _, _, _ => free
  | .rmsnorm => match rowDy x, rowDy g, f32Dy eps with
    | some xs, some gs, some ep =>
      -- n · (mean of squares + ε)
      let v := dyAdd (dySum (xs.map (fun d => dyMul d d))) (dyMul ep ⟨n, 0⟩)
      if v.m ≤ 0 then free else
      let sd := dySqrt (dyMul v ⟨n, 0⟩)
      xs.mapIdx (fun i d =>
        let y := dyDiv (dyMul (dyMul (nth ⟨0, 0⟩ gs i) d) ⟨n, 0⟩) sd
        sfuPick op ins i (relBound y 42 10000))
    | _, _, _ => free

end Sys2Proof.Machine
end

