-- ==== Sys2Proof/Machine/SfuUnit.lean ====
section
/-! DEFINITION. The special-function instructions of even cores (R103 to R105). -/

namespace Sys2Proof.Machine

/-- Element e of the row that starts at the tile a descriptor stands on (log entry 11). -/
def rowElem (co : CoreSt) (x : Ctx) (d e : Nat) : Nat :=
  let p := x.posOf d
  readElem co (x.desc d) (p.tr, p.tc + e / 32) 0 (e % 32)

/-- n elements of a row. -/
def rowElems (co : CoreSt) (x : Ctx) (d n : Nat) : List Nat := (List.range n).map (rowElem co x d)

/-- Write the elements of a row whose lanes are active: element e uses lane e mod 128 (R93, R162). -/
def writeRow (o : LaneOp) (x : Ctx) (co : CoreSt) (vs : List Nat) : CoreSt :=
  let p := x.posOf o.vd.toNat
  (vs.zipIdx).foldl (fun co v =>
    if x.active o.pinv o.preg.toNat (v.2 % 128) then
      writeElem co (x.desc o.vd.toNat) (p.tr, p.tc + v.2 / 32) 0 (v.2 % 32) v.1
    else co) co

/-- An SFU instruction: one row from VA, γ in VB and β in VC for LAYERNORM, γ in VB for RMSNORM, ε in lane 0 of
register 63; the result row goes to VD. Its core issues nothing else until the time of Table 05.8 has passed; the B half of
its bundle then issues, in 1 ac (DESIGN CHOICE, log entry 119). IOV must be 0 (R88). R103 names no conversion event of the
micro-sequences, and none is raised (DESIGN CHOICE, log entry 120). -/
def sfuInstr (op : SfuOp) (o : LaneOp) (s : State) : Res :=
  let c := o.core.toNat
  if coreValid c && (!coreEven c || o.iov != 0) then .refused .rejectedAtLoad
  else atAHalf s c (fun i =>
    let n := o.imm.toNat + 1
    let xs := rowElems i.core i.ctx o.va.toNat n
    let gs := if op = .layernorm ∨ op = .rmsnorm then rowElems i.core i.ctx o.vb.toNat n else []
    let bs := if op = .layernorm then rowElems i.core i.ctx o.vc.toNat n else []
    let co := writeRow o i.ctx i.core (sfuRow op xs gs bs (i.ctx.lane 63 0))
    let x := (i.ctx.useDesc co.par o.va.toNat 1).useDesc co.par o.vd.toNat 1
    let x := if op = .layernorm ∨ op = .rmsnorm then x.useDesc co.par o.vb.toNat 1 else x
    let x := if op = .layernorm then x.useDesc co.par o.vc.toNat 1 else x
    .next (setCore s c (tickCore { setCtx co i.n x with aDone := true } (sfuTime op n))))

/-- SIGMOID (R103). -/
def execSigmoid (o : LaneOp) (s : State) : Res := sfuInstr .sigmoid o s
/-- SILU (R103). -/
def execSilu (o : LaneOp) (s : State) : Res := sfuInstr .silu o s
/-- GELU_T (R103, R104). -/
def execGeluT (o : LaneOp) (s : State) : Res := sfuInstr .geluT o s
/-- SOFTMAX (R103). -/
def execSoftmax (o : LaneOp) (s : State) : Res := sfuInstr .softmax o s
/-- LAYERNORM (R103). -/
def execLayernorm (o : LaneOp) (s : State) : Res := sfuInstr .layernorm o s
/-- RMSNORM (R103). -/
def execRmsnorm (o : LaneOp) (s : State) : Res := sfuInstr .rmsnorm o s

end Sys2Proof.Machine
end

