-- ==== Sys2Proof/Machine/Static.lean ====
section
/-! DEFINITION. The instruction words of a context image and the checks that a load makes on its bundles (R39, R52, R60, R72,
R80, R84, R88, R90, R92, R94, R98, R99, R108, R126 to R128, R142, R154, R155, R160, R168, R169). The spec lays out the words of
classes ENG, TOK and of the A half; the fields [55:0] of classes GS, CTL and LDST are the model's choice (log entry 112). -/

namespace Sys2Proof.Machine

/-- Fields of a table descriptor; the spec names its content and no layout (log entry 12). -/
def tdBase (t : Nat) : Nat := tierAddr (bits t 127 124) (bits t 123 105) (bits t 104 84)
def tdRows (t : Nat) : Nat := bits t 83 53
def tdStride (t : Nat) : Nat := 64 * bits t 52 37
def tdFmt (t : Nat) : Fmt := (Fmt.ofCode (bits t 36 33)).getD .fp32
def tdOffset (t : Nat) : Nat := bits t 31 0

/-! ### Words -/

/-- The halves of a bundle (R88). -/
def halfA (b : Nat) : Nat := b % 2 ^ 64
def halfB (b : Nat) : Nat := b / 2 ^ 64

/-- Fields that every instruction carries (R88). -/
def wClass (w : Nat) : Nat := bits w 63 60
def wPred (w : Nat) : Nat := bits w 59 56
def wOp (w : Nat) : Nat := bits w 55 48

/-- Fields of an A-half lane instruction (Table 05.4). -/
def wIov (w : Nat) : Nat := bits w 47 46
def wVd (w : Nat) : Nat := bits w 45 40
def wVa (w : Nat) : Nat := bits w 39 34
def wVb (w : Nat) : Nat := bits w 33 28
def wVc (w : Nat) : Nat := bits w 27 22
def wPd (w : Nat) : Nat := bits w 21 19
def wImm (w : Nat) : Nat := bits w 15 0

/-- Fields of an ENG instruction (Table 05.3). -/
def weEng (w : Nat) : Nat := bits w 55 54
def wePasses (w : Nat) : Nat := bits w 53 52
def weGroup (w : Nat) : Nat := bits w 51 50
def weSlot (w : Nat) : Nat := bits w 49 46
def weInit (w : Nat) : Nat := bits w 45 44
def weOut (w : Nat) : Bool := bit w 43
def weQin (w : Nat) : Nat := bits w 42 39
def weOdst (w : Nat) : Nat := bits w 38 33
def weAsrc (w : Nat) : Nat := bits w 32 27
def weWsrc (w : Nat) : Nat := bits w 26 21

/-- Fields of a TOK instruction (Table 06.6). -/
def wtOp (w : Nat) : Nat := bits w 55 52
def wtQ (w : Nat) : Nat := bits w 51 48
def wtRoute (w : Nat) : Nat := bits w 47 42
def wtOpd (w : Nat) : Nat := bits w 41 36

/-- Fields of a GS instruction: OP of Table 05.9, VA, VD, VC, operand descriptor, table descriptor, segment (log entry
112). -/
def wgVd (w : Nat) : Nat := bits w 41 36
def wgVc (w : Nat) : Nat := bits w 35 30
def wgTable (w : Nat) : Nat := bits w 23 20

/-- Fields of a CTL instruction: OP 0 LOOP, 1 YIELD, 2 FOLD, 3 PMARK, 4 PANY, 5 PALL; of LOOP its body length, the source of its
count (0 the field, 1 to 4 a parameter word) and the count; the bundle of PMARK; PD of PANY and PALL (log entry 112). -/
def wcBody (w : Nat) : Nat := bits w 47 40 + 1
def wcSel (w : Nat) : Nat := bits w 39 37
def wcCount (w : Nat) : Nat := bits w 36 21
def wcBundle (w : Nat) : Nat := bits w 47 36
def wcPd (w : Nat) : Nat := bits w 47 45

/-- The register of an LDST instruction, OP 0 load, 1 store (log entry 112). -/
def wlVr (w : Nat) : Nat := bits w 47 42

/-- The word of a CTL YIELD. -/
def yieldWord : Nat := 9 * 2 ^ 60 + 1 * 2 ^ 48

/-- An A half that an image may hold: a class of Table 05.2, a listed OP, IOV and IMM as Table 05.4 allows, and no class its
core kind lacks (R39, R84, R88, R98, R99). -/
def halfAOk (even : Bool) (w : Nat) : Bool :=
  let imm := wImm w
  match wClass w with
  | 0 => w % 2 ^ 56 == 0
  | 2 => decide (wOp w ≤ 0x0A) && wIov w == 0 && imm == 0
  | 3 => decide (wOp w ≤ 0x0C) && wIov w != 3 && imm % 0x8000 == 0
  | 4 => even && decide (wOp w ≤ 0x0A) && wIov w == 0 && imm == 0
  | 5 => wOp w == 0 && wIov w == 0 && imm % 0x100 == 0 &&
      (match Fmt.ofCode (imm / 0x1000), Fmt.ofCode (imm / 0x100 % 0x10) with
       | some f, some t => f != t
       | _, _ => false)
  | 6 => even && decide (wOp w ≤ 5) && wIov w == 0
  | _ => false

/-- The class, OP and reserved bits of a B half (R84, R88, R94, R126, Tables 05.2, 05.3, 05.9 and 06.6). -/
def halfBOk (even : Bool) (w : Nat) : Bool :=
  match wClass w with
  | 0 => w % 2 ^ 56 == 0
  | 1 => w % 2 ^ 6 == 0 && wePasses w != 0 && weGroup w != 3 && weInit w != 3 && (!even || decide (weEng w < 2))
  | 7 => even && decide (wOp w ≤ 5) && w % 2 ^ 5 == 0
  | 8 => wPred w == 0 && decide (wtOp w ≤ 2) && w % 2 ^ 36 == 0
  | 9 => match wOp w with
    | 0 => wPred w == 0 && decide (wcSel w ≤ 4) && (wcSel w == 0 || wcCount w == 0) && w % 2 ^ 21 == 0
    | 1 => w % 2 ^ 48 == 0
    | 2 => w % 2 ^ 48 == 0
    | 3 => w % 2 ^ 36 == 0
    | 4 => w % 2 ^ 42 == 0
    | 5 => w % 2 ^ 42 == 0
    | _ => false
  | 10 => decide (wOp w ≤ 1) && w % 2 ^ 31 == 0
  | _ => false

/-! ### Descriptors that an instruction names (R154, R155, R160) -/

/-- The sources of M, N and the inner extent of a descriptor: parameter word or field (R154). -/
def gridM (d : Nat) : Nat × Nat := if dAxes d = 2 then (dOsel d, dOtherF d) else (dRsel d, dRowsF d)
def gridN (d : Nat) : Nat × Nat := if dAxes d = 1 then (dOsel d, dOtherF d) else (dCsel d, dColsF d)
def innerOf (d : Nat) : Nat × Nat := if dAxes d = 1 then (dCsel d, dColsF d) else (dRsel d, dRowsF d)

/-- Two descriptors give the same output grid (R154). -/
def sameGrid (d e : Nat) : Bool := gridM d == gridM e && gridN d == gridN e

/-- Whether an operand format is one an engine accepts (R155). -/
def engFmt (d : Nat) : Bool := dFormat d == .l8 || dFormat d == .l16

/-- What an instruction word asks of the tables of its image: an ENG of its operands, slot and route (R72, R154, R155, R160), an
SFU of its rows (R154), a SEND of its route's format (R155), a GS SCATTER_ADD of FP32 (R108). -/
def namesOk (im : CtxImage) (a b : Nat) : Bool :=
  let desc (k : Nat) : Nat := nth 0 im.descs k
  (wClass a != 6 ||
    (sameGrid (desc (wVa a)) (desc (wVd a))
      && (decide (wOp a < 4) || sameGrid (desc (wVb a)) (desc (wVd a)))
      && (wOp a != 4 || sameGrid (desc (wVc a)) (desc (wVd a)))))
  && (match wClass b with
    | 1 =>
      let x := desc (weAsrc b)
      let w := desc (weWsrc b)
      engFmt x && engFmt w && dAxes x == 1 && dAxes w == 2 && dIdent x == 0 && dIdent w == 0
        && sameGrid x w && innerOf x == innerOf w
        && nth 0 im.slotMap (16 * weEng b + weSlot b) != 0 && (!weOut b || reEn (nth 0 im.routes (weOdst b)))
    | 7 => wOp b != 1 || (dFormat (desc (bits b 29 24)) == .fp32 && tdFmt (nth 0 im.tables (wgTable b)) == .fp32)
    | 8 =>
      let e := nth 0 im.routes (wtRoute b)
      wtOp b != 2 || (reEn e && dFormat (desc (wtOpd b)) == tokFmt (reFmt e))
    | _ => true)

/-! ### Loops (R92) and yield points (R128) -/

/-- The body length and the least and greatest count of a LOOP word; none for any other. -/
def loopOf (pmin pmax : List Nat) (w : Nat) : Option (Nat × Nat × Nat) :=
  if wClass w = 9 ∧ wOp w = 0 then
    some (if wcSel w = 0 then (wcBody w, wcCount w, wcCount w)
      else (wcBody w, nth 0 pmin (wcSel w - 1), nth 0 pmax (wcSel w - 1)))
  else none

/-- The loops of a stream: index of the first bundle of the body, its last, and the least and greatest count. -/
def loopList (pmin pmax : List Nat) (bs : List Nat) : List (Nat × Nat × Nat × Nat) :=
  bs.zipIdx.filterMap (fun b => (loopOf pmin pmax (halfB b.1)).map (fun l => (b.2 + 1, b.2 + l.1, l.2)))

/-- Bodies end inside the stream and inside every body around them, four deep at most (R92). -/
def loopsNest (n : Nat) (ls : List (Nat × Nat × Nat × Nat)) : Bool :=
  ls.all (fun l =>
    let around := ls.filter (fun k => decide (k.1 < l.1) && decide (l.1 ≤ k.2.1 + 1))
    decide (l.2.1 < n) && around.all (fun k => decide (l.2.1 ≤ k.2.1)) && decide (around.length < 4))

/-- A YIELD, FOLD or PMARK. -/
def isYield (w : Nat) : Bool := wClass w == 9 && decide (1 ≤ wOp w) && decide (wOp w ≤ 3)

/-- A yield point that every pass of the outermost loop, which is the stream itself (log entry 23), comes to: each body around
it runs at least once (R128; log entry 115). -/
def yieldsOk (bs : List Nat) (ls : List (Nat × Nat × Nat × Nat)) : Bool :=
  bs.zipIdx.any (fun b => isYield (halfB b.1) &&
    ls.all (fun l => !(decide (l.1 ≤ b.2) && decide (b.2 ≤ l.2.1)) || decide (1 ≤ l.2.2.1)))

/-- The loops that end at a bundle go on or end there: the tokens held must be those of the body's start unless the body runs
exactly once. -/
def closeLoops (pc held : Nat) : List (Nat × Nat × Bool) → Option (List (Nat × Nat × Bool))
  | [] => some []
  | l :: ls => if l.1 = pc then (if l.2.2 || l.2.1 == held then closeLoops pc held ls else none) else some (l :: ls)

/-- Follow the stream from a bundle at which nothing is held, over `left` bundles: no RECV on a held queue, no REL without a
held head, nothing held at a yield point, and nothing held at the end (R127, R128, R168). `held` is the mask of held queues,
`ls` the open loops with last bundle, mask at the start and whether the body runs exactly once. -/
def heldFrom (pmin pmax bs : List Nat) : Nat → Nat → Nat → Nat → List (Nat × Nat × Bool) → Bool
  | 0, _, _, held, _ => held == 0
  | f + 1, left, pc, held, ls =>
    if left = 0 then held == 0
    else
      let pc := pc % bs.length
      let w := halfB (nth 0 bs pc)
      let go (pc' k held' : Nat) (ls' : List (Nat × Nat × Bool)) : Bool :=
        match closeLoops pc' held' ls' with
        | none => false
        | some l => heldFrom pmin pmax bs f (left - k) (pc' + 1) held' l
      if wClass w = 8 ∧ wtOp w = 0 then !bit held (wtQ w) && go pc 1 (held + 2 ^ wtQ w) ls
      else if wClass w = 8 ∧ wtOp w = 1 then bit held (wtQ w) && go pc 1 (held - 2 ^ wtQ w) ls
      else if isYield w then held == 0 && ((wOp w != 1 && wPred w == 0) || go pc 1 held ls)
      else match loopOf pmin pmax w with
        | some (len, lo, hi) =>
          if hi = 0 then go (pc + len) (1 + len) held ls
          else heldFrom pmin pmax bs f (left - 1) (pc + 1) held ((pc + len, held, lo == 1 && hi == 1) :: ls)
        | none => go pc 1 held ls

/-- Whether the stream holds only the tokens it may, from each bundle at which it can be entered. -/
def heldOk (pmin pmax bs : List Nat) (starts : List Nat) : Bool :=
  (starts ++ bs.filterMap (fun b => if wClass (halfB b) = 9 ∧ wOp (halfB b) = 3 then some (wcBundle (halfB b)) else none)).all
    (fun k => heldFrom pmin pmax bs bs.length bs.length k 0 [])

/-! ### Fold steps (R142) -/

/-- The queues that a fold step receives on: the RECVs from its START to the FOLD that ends it. -/
def foldRecvs (bs : List Nat) : Nat → Nat → List Nat
  | 0, _ => []
  | f + 1, pc =>
    let w := halfB (nth 0 bs (pc % bs.length))
    if wClass w = 9 ∧ wOp w = 2 ∧ wPred w = 0 then []
    else if wClass w = 8 ∧ wtOp w = 0 then wtQ w :: foldRecvs bs f (pc + 1)
    else foldRecvs bs f (pc + 1)

/-! ### Times (R90, R169) -/

/-- The special functions by OP (Table 05.8). -/
def sfuOf (op : Nat) : SfuOp :=
  match op with
  | 0 => .sigmoid | 1 => .silu | 2 => .geluT | 3 => .softmax | 4 => .layernorm | _ => .rmsnorm

/-- The ac a bundle issues for. -/
def bundleTime (b : Nat) : Nat :=
  (if wClass (halfA b) = 6 then sfuTime (sfuOf (wOp (halfA b))) (wImm (halfA b) + 1) else 0)
    + (if wClass (halfB b) = 7 ∧ wOp (halfB b) = 5 then 8 else 1)

/-- The ac from bundle `pc` to bundle `stop` with each loop at its least count. -/
def spanTime (pmin pmax bs : List Nat) : Nat → Nat → Nat → Nat
  | 0, _, _ => 0
  | f + 1, pc, stop =>
    if stop ≤ pc then 0
    else
      let b := nth 0 bs pc
      match loopOf pmin pmax (halfB b) with
      | some (len, lo, _) =>
        bundleTime b + lo * spanTime pmin pmax bs f (pc + 1) (pc + 1 + len) + spanTime pmin pmax bs f (pc + 1 + len) stop
      | none => bundleTime b + spanTime pmin pmax bs f (pc + 1) stop

/-- No problem body, from the bundle a PMARK names to that PMARK, takes under 48 ac with every parameter word at its least
(R169). -/
def bodiesOk (pmin pmax bs : List Nat) : Bool :=
  let n := bs.length
  let span := spanTime pmin pmax bs n
  bs.zipIdx.all (fun b =>
    let w := halfB b.1
    if wClass w = 9 ∧ wOp w = 3 then
      let k := wcBundle w
      decide (k < n) && decide (48 ≤ if k ≤ b.2 then span k (b.2 + 1) else span k n + span 0 (b.2 + 1))
    else true)

/-- Latency of an A half's result (Table 05.6). -/
def latencyA (even : Bool) (w : Nat) : Nat :=
  let lg := if even then 7 else 5
  match wClass w with
  | 2 => if wOp w ≤ 3 then 4 else if wOp w ≤ 8 then 2 else if wOp w = 9 then 4 * lg else 2 * lg
  | 3 => if wOp w = 2 ∨ wOp w = 3 then 3 else 1
  | 4 => if 5 ≤ wOp w ∧ wOp w ≤ 7 then 3 else 1
  | _ => 2

/-- The results of a bundle: whether to a predicate, the register, and after how many ac (Table 05.6, R94; GS index results
as log entry 29 says). -/
def resultsOf (even : Bool) (b : Nat) : List (Bool × Nat × Nat) :=
  let a := halfA b
  let w := halfB b
  let toPred := (wClass a == 2 && (wOp a == 6 || wOp a == 7)) || (wClass a == 3 && (wOp a == 0x0B || wOp a == 0x0C))
    || (wClass a == 4 && wOp a == 0x0A)
  (if 2 ≤ wClass a ∧ wClass a ≤ 5 then
      (if toPred then (if wPd a = 0 then [] else [(true, wPd a, latencyA even a)]) else [(false, wVd a, latencyA even a)])
    else [])
  ++ (match wClass w with
    | 7 => if wOp w = 3 ∨ wOp w = 4 then [(false, wgVd w, 1)] else if wOp w = 5 then [(false, wgVd w, 8), (false, wgVc w, 8)] else []
    | 9 => if (wOp w = 4 ∨ wOp w = 5) ∧ wcPd w ≠ 0 then [(true, wcPd w, 2)] else []
    | 10 => if wOp w = 0 then [(false, wlVr w, 3)] else []
    | _ => [])

/-- The bundles that can follow a bundle: a loop whose count may be 2 or more can go round, one whose count may be 0 can be
skipped. -/
def bundleSuccs (n : Nat) (ls : List (Nat × Nat × Nat × Nat)) (bs : List Nat) (pc : Nat) : List Nat :=
  let after (k : Nat) : List Nat :=
    (k + 1) % n :: (ls.filter (fun l => l.2.1 == k && decide (2 ≤ l.2.2.2))).map (·.1)
  let w := halfB (nth 0 bs pc)
  match ls.find? (fun l => l.1 == pc + 1) with
  | some l => (if 1 ≤ l.2.2.2 then [l.1] else []) ++ (if l.2.2.1 = 0 then after l.2.1 else [])
  | none =>
    if wClass w = 9 ∧ wOp w = 3 then wcBundle w :: (if wPred w = 0 then [] else after pc)
    else if wClass w = 9 ∧ wOp w = 2 ∧ wPred w = 0 then []
    else after pc

/-- The bundles that can issue up to 28 ac after those of a list, with their distance in ac. -/
def bundlesWithin (n : Nat) (ls : List (Nat × Nat × Nat × Nat)) (bs : List Nat) : Nat → List (Nat × Nat) → List (Nat × Nat)
  | 0, _ => []
  | f + 1, ps =>
    let next := ((ps.flatMap (fun p => (bundleSuccs n ls bs p.1).map (fun k => (k, p.2 + bundleTime (nth 0 bs p.1))))).filter
      (fun p => decide (p.2 ≤ 28))).eraseDups
    next ++ bundlesWithin n ls bs f next

/-- No two results reach one register or predicate in the same ac while the stream issues without a stop (R90). -/
def resultsApart (even : Bool) (ls : List (Nat × Nat × Nat × Nat)) (bs : List Nat) : Bool :=
  bs.zipIdx.all (fun b =>
    let rs := resultsOf even b.1
    rs.eraseDups.length == rs.length &&
    (rs.isEmpty || (bundlesWithin bs.length ls bs 28 [(b.2, 0)]).all (fun p =>
      (resultsOf even (nth 0 bs p.1)).all (fun q => rs.all (fun r => !(r.1 == q.1 && r.2.1 == q.2.1 && r.2.2 == p.2 + q.2.2))))))

/-! ### The checks of a load -/

/-- The bundles of one core's image: each half, what it names, loops, yield points, held tokens, problem bodies and the
results in flight. `starts` are the bundles at which the fold table enters the context, if it has one. -/
def bundlesOk (pmin pmax : List Nat) (starts : List Nat) (even : Bool) (im : CtxImage) : Bool :=
  let bs := im.bundles
  let ls := loopList pmin pmax bs
  bs.all (fun b => decide (b < 2 ^ 128) && halfAOk even (halfA b) && halfBOk even (halfB b) && namesOk im (halfA b) (halfB b))
    && loopsNest bs.length ls && yieldsOk bs ls && starts.all (fun k => decide (k < bs.length))
    && heldOk pmin pmax bs (if starts.isEmpty then [0] else starts)
    && bodiesOk pmin pmax bs && resultsApart even ls bs

/-- The fold entries of a core that run a context receive only on queues of their masks (R142). -/
def foldQueuesOk (fold : List Nat) (c : Nat) (im : CtxImage) : Bool :=
  (fold.filter (fun e => foldValid e && foldCtx e == c)).all (fun e =>
    (foldRecvs im.bundles im.bundles.length (foldStart e)).all (fun q => bit (foldMask e) q))

/-- Every CHAIN_IN on a queue has the mode, P and G of every ACC_OUT that feeds it over a local route (R80). `relay` tells the
routes that the relay table lists. -/
def chainsOk (relay : Nat → Nat → Bool) (ims : List (Nat × CtxImage)) : Bool :=
  let engs (im : CtxImage) : List Nat := (im.bundles.map halfB).filter (fun w => wClass w == 1)
  let mode (im : CtxImage) (w : Nat) : List Nat := [nth 0 im.slotMap (16 * weEng w + weSlot w), wePasses w, weGroup w]
  ims.all (fun a => (engs a.2).all (fun w => !weOut w || relay a.1 (weOdst w) ||
    (let r := nth 0 a.2.routes (weOdst w)
     ims.all (fun b => b.1 != reDst r || (engs b.2).all (fun v =>
      !(weInit v == 2 && weQin v == reDq r) || mode b.2 v == mode a.2 w)))))

/-- The tables that an image scatters into: first byte and the byte after the last. -/
def scatterRanges (im : CtxImage) : List (Nat × Nat) :=
  (im.bundles.map halfB).filterMap (fun w =>
    if wClass w = 7 ∧ wOp w = 1 then
      let t := nth 0 im.tables (wgTable w)
      some (tdBase t, tdBase t + tdStride t * tdRows t)
    else none)

/-- No rows are scattered into by GS units of two cores (R108). -/
def scattersOk (ims : List (Nat × CtxImage)) : Bool :=
  ims.all (fun a => ims.all (fun b => a.1 == b.1 ||
    (scatterRanges a.2).all (fun r => (scatterRanges b.2).all (fun q => decide (r.2 ≤ q.1) || decide (q.2 ≤ r.1)))))

end Sys2Proof.Machine
end

