-- ==== Sys2Proof/Machine/Contexts.lean ====
section
/-! DEFINITION. Context slots of a partition: admission checks, loads, eviction (R82, R83, R86, R109 to R115, R122,
R123, R127, R131 to R136, R140, R153, R328, R329). -/

namespace Sys2Proof.Machine

/-- Apply a function to every core of a partition. -/
def mapCores (s : State) (p : Nat) (f : Nat → CoreSt → CoreSt) : State :=
  (partCores (getPart s p)).foldl (fun s c => setCore s c (f c (getCore s c))) s

/-- Context numbers of a partition whose resident contexts hold a slot's pattern. -/
def slotCtxs (s : State) (p slot : Nat) : List Nat :=
  (List.range 4).filter (fun c =>
    (partCores (getPart s p)).any (fun k => (getCtx (getCore s k) c).resident && (getCtx (getCore s k) c).slot == some slot))

/-- Whether a context number is resident on every core of a partition. -/
def ctxResident (s : State) (p c : Nat) : Bool :=
  let ks := partCores (getPart s p)
  !ks.isEmpty && ks.all (fun k => (getCtx (getCore s k) c).resident)

/-- A slot is resident: some context number holds its pattern on every core of its partition. -/
def slotResident (s : State) (slot : Nat) : Bool :=
  let p := (getSlot s slot).part
  (slotCtxs s p slot).any (ctxResident s p)

/-! ### Images -/

/-- An idle image: one YIELD bundle and nothing else (R110). -/
def idleImage (c : Nat) : CtxImage :=
  { header := 1760 + 2 ^ 32 + c * 2 ^ 64 + boolNat (coreEven c) * 2 ^ 80, queues := [], routes := [], descs := [], tables := [], slotMap := [], bundles := [yieldWord * 2 ^ 64], trailer := 0 }

/-- The image that a set of images writes to a core. -/
def imageFor (ims : List (Nat × CtxImage)) (c : Nat) : Option CtxImage := (ims.find? (fun im => im.1 == c)).map (·.2)

/-- Bytes 0 to S − 17 of an image (Table 06.2). -/
def imageBytes (im : CtxImage) : List Byte :=
  bytesLE 64 im.header ++ im.queues.flatMap (bytesLE 4) ++ im.routes.flatMap (bytesLE 4)
    ++ im.descs.flatMap (bytesLE 16) ++ im.tables.flatMap (bytesLE 16) ++ im.slotMap.flatMap (bytesLE 1)
    ++ im.bundles.flatMap (bytesLE 16)

/-- The check value of an image for a core: CRC-32C whose register starts from the core address (R134). -/
def imageCheck (im : CtxImage) (c : Nat) : Nat := crcFinal false (crcRun false c (imageBytes im))

/-- The check value of a fold table for a core: as of an image, over its 64 bytes (R134, R140). -/
def foldCheck (f : List Nat) (c : Nat) : Nat := crcFinal false (crcRun false c (f.flatMap (bytesLE 4)))

/-! ### Admission checks (R131) -/

/-- Pages of an overflow lane (R123). -/
def lanePages (e : Nat) : Nat := ceilDiv (qeCap e) 2 + 1

/-- A queue-table entry (Table 06.5, R123). -/
def queueEntryOk (pages e : Nat) : Bool :=
  bits e 27 27 == 0 && bits e 8 0 == 0 && qeFmt e != 3
    && (!qeOvf e || (qeFmt e != 2 && decide (qePage e + lanePages e ≤ pages)))

/-- No two overflow lanes of a context overlap (R123). -/
def lanesApart (es : List Nat) : Bool :=
  let ls := es.filter qeOvf
  ls.zipIdx.all (fun a => ls.zipIdx.all (fun b => decide (b.2 ≤ a.2)
    || decide (qePage a.1 + lanePages a.1 ≤ qePage b.1) || decide (qePage b.1 + lanePages b.1 ≤ qePage a.1)))

/-- An extent of a descriptor at its largest (R155). -/
def bigExtent (pat : Pattern) (sel field : Nat) : Nat := if sel = 0 then field + 1 else nth 0 pat.parMax (sel - 1)

/-- First byte of a STORE descriptor's elements and the byte after the last, at the largest extents (R155). -/
def descSpan (pat : Pattern) (d : Nat) : Nat × Nat :=
  (32 * dBase d, 32 * dBase d + 32 * dStride d * (bigExtent pat (dRsel d) (dRowsF d) - 1)
    + (dFormat d).width * bigExtent pat (dCsel d) (dColsF d))

/-- An operand descriptor (R153, R155): codes defined, unused fields 0, rows that do not overlap, a queue of the same
format. That its elements lie in the context's region is checked with the region's place (`regionFits`). -/
def descriptorOk (pat : Pattern) (im : CtxImage) (d : Nat) : Bool :=
  let selOk (sel field : Nat) : Bool := decide (sel ≤ 4) && (sel == 0 || field == 0)
  decide (dFmt d ≤ 8) && decide (dSpace d ≤ 1) && dAxes d != 3 && dAdv d != 3 && dIdent d != 3 && bits d 41 32 == 0
    && selOk (dRsel d) (dRowsF d) && selOk (dCsel d) (dColsF d) && selOk (dOsel d) (dOtherF d)
    && (dAxes d != 0 || dOtherF d == 0)
    && (if dSpace d = 1 then
          let e := nth 0 im.queues (dQueue d)
          dStride d == 0 && dBase d == 0 && qeEn e && tokFmt (qeFmt e) == dFormat d
        else
          dQueue d == 0 && decide ((dFormat d).width * bigExtent pat (dCsel d) (dColsF d) ≤ 32 * dStride d))

/-- Pages of a core's operand store (R85, R86). -/
def storePages (c : Nat) : Nat := if coreEven c then 512 else 384

/-- The region of a context from page `p` on holds every STORE descriptor of its image, lies in the core's store and meets
no other region (R86, R155). -/
def regionFits (pat : Pattern) (im : CtxImage) (c : Nat) (others : List (Nat × Nat)) (p : Nat) : Bool :=
  decide (p + imPages im ≤ storePages c)
    && im.descs.all (fun d => dSpace d != 0 ||
      (decide (4096 * p ≤ (descSpan pat d).1) && decide ((descSpan pat d).2 ≤ 4096 * (p + imPages im))))
    && others.all (fun r => decide (p + imPages im ≤ r.1) || decide (r.1 + r.2 ≤ p))

/-- The place of a context's region: the lowest page from which it fits beside the others. R86 states sizes and that regions
never overlap, and no place (DESIGN CHOICE, log entry 116). -/
def placeRegion (pat : Pattern) (im : CtxImage) (c : Nat) (others : List (Nat × Nat)) : Option Nat :=
  (List.range (storePages c + 1)).find? (regionFits pat im c others)

/-- Fields of a relay-table entry (Table 14.4). -/
def rlCore (e : Nat) : Nat := bits e 127 116
def rlRoute (e : Nat) : Nat := bits e 115 110
def rlCut (e : Nat) : Nat := bits e 109 108
def rlOffset (e : Nat) : Int := signedVal 6 (bits e 107 102)
def rlKind (e : Nat) : Nat := bits e 101 99
def rlPair (e : Nat) : Bool := bit e 98
def rlFwd (e : Nat) : Nat := bits e 97 93
def rlTensor (e : Nat) : Nat := bits e 63 32
def rlTile0 (e : Nat) : Nat := bits e 31 0

/-- The relay-table entry of a core's route. -/
def relayOf (pat : Pattern) (c r : Nat) : Option Nat := pat.relay.find? (fun e => rlCore e == c && rlRoute e == r)

/-- A route-table entry (R16, R127, R328): reserved bits 0; an enabled local route meets an enabled queue-table entry of
the same format on a core of the partition; a RELAY route names a core. -/
def routeOk (pat : Pattern) (ims : List (Nat × CtxImage)) (c r e : Nat) : Bool :=
  bits e 12 0 == 0 && (!reEn e || (reFmt e != 3 && (match relayOf pat c r with
    | some rl => if rlKind rl = 0 then coreValid (reDst e) else reDst e == 0 && reDq e == 0
    | none => match imageFor ims (reDst e) with
      | none => false
      | some im => let q := nth 0 im.queues (reDq e); qeEn q && qeFmt q == reFmt e)))

/-- Enabled local routes of a set of images: destination core and queue. -/
def localRoutes (pat : Pattern) (ims : List (Nat × CtxImage)) : List (Nat × Nat) :=
  ims.flatMap (fun im => im.2.routes.zipIdx.filterMap (fun e =>
    if reEn e.1 && (relayOf pat im.1 e.2).isNone then some (reDst e.1, reDq e.1) else none))

/-- A landing-table entry (R16, R110, R111, R329): a cut, and a queue of a core of the partition that the context enables for the
entry's format. -/
def landOk (ks : List Nat) (ims : List (Nat × CtxImage)) (e : LandEntry) : Bool :=
  ks.contains e.core && decide (1 ≤ e.cut) && decide (e.cut ≤ 3) &&
    (match imageFor ims e.core with
     | none => false
     | some im => let q := nth 0 im.queues e.queue; qeEn q && qeFmt q == e.fmt)

/-- A relay-table entry (R328). -/
def relayOk (s : State) (p : Nat) (pat : Pattern) (ims : List (Nat × CtxImage)) (e : Nat) : Bool :=
  (partCores (getPart s p)).contains (rlCore e) && bits e 92 64 == 0 && decide (rlKind e ≤ 2)
    && rlCut e != 0 && decide (1 < cutLen s pat.job (rlCut e - 1))
    && (rlKind e != 0 || rlOffset e != 0) && (rlKind e == 0 || rlOffset e == 0)
    && (match imageFor ims (rlCore e) with
        | none => false
        | some im => reEn (nth 0 im.routes (rlRoute e)))

/-- The form of the image that is to be written to core `c` (R84, R114, R115, R122, R123, R127, R153, R386). -/
def imageOk (s : State) (p : Nat) (pat : Pattern) (ims : List (Nat × CtxImage)) (c : Nat) (im : CtxImage) : Bool :=
  let n := imCount im
  (partCores (getPart s p)).contains c && imCoreAddr im == c && imKind im == boolNat (coreEven c) && !clusterUnserved s (coreCluster c)
    && decide (1 ≤ n) && decide (n ≤ 2963) && imSize im == 1744 + 16 * n && im.header / 2 ^ 88 == 0
    && im.bundles.length == n && im.queues.length == 16 && im.routes.length == 64 && im.descs.length == 64
    && im.tables.length == 16 && im.slotMap.length == 64 && im.trailer / 2 ^ 32 == 0
    && im.queues.all (queueEntryOk (imPages im)) && lanesApart im.queues
    && im.routes.zipIdx.all (fun e => routeOk pat ims c e.2 e.1)
    && im.descs.all (descriptorOk pat im)
    && im.slotMap.all (fun k => decide (k ≤ 2)) && (!coreEven c || (im.slotMap.drop 32).all (· == 0))

/-- Accumulator slots an image asks of an engine (R82). -/
def footprint (im : CtxImage) (e : Nat) : Nat :=
  sumNat ((List.range 16).map (fun k => let v := nth 0 im.slotMap (16 * e + k); if v = 2 then 2 else v))

/-- Physical slots the other resident contexts of a core hold on an engine. -/
def heldSlots (co : CoreSt) (c e : Nat) : List Nat :=
  ((List.range 4).filter (fun k => k != c && (getCtx co k).resident)).flatMap (fun k =>
    ((getCtx co k).accPhys.filter (fun a => a.1 / 16 % 4 == e)).map (·.2 - 1))

/-- The pattern and set of images of a load. -/
def loadImages (s : State) (l : LoadSt) : List (Nat × CtxImage) :=
  match (getSlot s l.slot).pattern with
  | none => []
  | some pat => nth [] pat.ctxs l.part

/-- The images that a core holds or may come to hold in each context number that a load leaves alone: the resident one, and
those of accepted loads (log entry 42). -/
def otherImages (s : State) (p : Nat) (cs : List Nat) (k : Nat) : List (List CtxImage) :=
  ((List.range 4).filter (fun c => !cs.contains c)).map (fun c =>
    (if (getCtx (getCore s k) c).resident then ((getCtx (getCore s k) c).image).toList else [])
      ++ ((getPart s p).loads.filter (fun l => l.ctx == c)).filterMap (fun l => imageFor (loadImages s l) k))

/-- The operand-store regions, first page and pages, of those contexts. -/
def otherRegions (s : State) (p : Nat) (cs : List Nat) (k : Nat) : List (Nat × Nat) :=
  ((List.range 4).filter (fun c => !cs.contains c)).flatMap (fun c =>
    let x := getCtx (getCore s k) c
    (if x.resident then (x.image.map (fun im => (x.base, imPages im))).toList else [])
      ++ ((getPart s p).loads.filter (fun l => l.ctx == c)).filterMap (fun l =>
        (imageFor (loadImages s l) k).bind (fun im => (l.regions.find? (fun r => r.1 == k)).map (fun r => (r.2, imPages im)))))

/-- What an admission check answers: a status and the first core concerned. -/
abbrev Refusal2 := Option (Nat × Nat)

/-- The images of a load for a core. -/
def coreImages (ctxs : List (List (Nat × CtxImage))) (k : Nat) : List CtxImage := ctxs.filterMap (fun ims => imageFor ims k)

/-- The first core of a partition that a check rejects. -/
def firstBad (ks : List Nat) (ok : Nat → Bool) : Option Nat := ks.find? (fun k => !ok k)

/-- The senders of a set of images, the local routes and the landing entries: no two reach one queue (R120, R127). -/
def routesApart (pat : Pattern) (ims : List (Nat × CtxImage)) : Bool :=
  let rs := localRoutes pat ims ++ pat.landing.map (fun e => (e.core, e.queue))
  rs.eraseDups.length == rs.length

/-- The first pages of the regions that a core gives the contexts of a load, one after another; none where one does not
fit. -/
def placeRegions (pat : Pattern) (k : Nat) : List (List (Nat × CtxImage)) → List (Nat × Nat) → Option (List Nat)
  | [], _ => some []
  | ims :: rest, others =>
    match imageFor ims k with
    | none => (placeRegions pat k rest others).map (0 :: ·)
    | some im =>
      (placeRegion pat im k others).bind (fun p => (placeRegions pat k rest ((p, imPages im) :: others)).map (p :: ·))

/-- A sum over what each context may hold, at its greatest. -/
def sumOfMax (f : CtxImage → Nat) (ctxs : List (List CtxImage)) : Nat := sumNat (ctxs.map (fun l => (l.map f).foldl max 0))

/-- The admission checks of the images of a load into context numbers `cs` of a partition (R131): form, then operand-store
pages and regions (R86), then accumulators (R83). -/
def admitImages (s : State) (p : Nat) (cs : List Nat) (pat : Pattern) : Refusal2 :=
  let ks := partCores (getPart s p)
  let ctxs := pat.ctxs
  match ctxs.flatten.find? (fun im => !ks.contains im.1) with
  | some im => some (sBadPattern, im.1)
  | none =>
    match firstBad ks (fun k => ctxs.all (fun ims =>
        decide ((ims.filter (fun im => im.1 == k)).length ≤ 1) && (imageFor ims k).all (imageOk s p pat ims k))) with
    | some k => some (sBadPattern, k)
    | none =>
      if !ctxs.all (routesApart pat) || !pat.relay.all (fun e => ctxs.any (fun ims => relayOk s p pat ims e))
          || !pat.landing.all (fun e => ctxs.any (fun ims => landOk ks ims e)) then
        some (sBadPattern, 0xFFFFFFFF)
      else
        let held (k : Nat) : List (List CtxImage) := (coreImages ctxs k).map ([·]) ++ otherImages s p cs k
        match firstBad ks (fun k => decide (sumOfMax imPages (held k) ≤ storePages k)
            && (placeRegions pat k ctxs (otherRegions s p cs k)).isSome) with
        | some k => some (sBadPattern, k)
        | none =>
          (firstBad ks (fun k => (List.range 4).all (fun e => decide (sumOfMax (footprint · e) (held k) ≤ 16)))).map
            (fun k => (sAccOvercommit, k))

/-- The regions that the cores of a partition give the context of image set `part` of a load. -/
def loadRegions (s : State) (p : Nat) (cs : List Nat) (pat : Pattern) (part : Nat) : List (Nat × Nat) :=
  (partCores (getPart s p)).filterMap (fun k =>
    (placeRegions pat k pat.ctxs (otherRegions s p cs k)).map (fun ps => (k, nth 0 ps part)))

/-- The checks that a load makes on the bundles of a core's image while it is written (R131). -/
def imageBundlesOk (pat : Pattern) (fold : Bool) (c k : Nat) (im : CtxImage) : Bool :=
  let f := if fold then ((pat.folds.find? (fun f => f.1 == k)).map (·.2.1)).getD [] else []
  bundlesOk pat.parMin pat.parMax ((f.filter (fun e => foldValid e && foldCtx e == c)).map foldStart) (coreEven k) im
    && foldQueuesOk f c im

/-- The later checks of a load of context number `c` (R131): the first core whose bundles are refused, or 0xFFFF_FFFF where
bundles of several cores do not go together (R80, R108) or the schedule of bank loads is refused (R47). -/
def lateRefusal (pat : Pattern) (fold : Bool) (c : Nat) (ims : List (Nat × CtxImage)) : Option Nat :=
  match ims.find? (fun im => !imageBundlesOk pat fold c im.1 im.2) with
  | some im => some im.1
  | none =>
    if pat.staticOk && chainsOk (fun k r => (relayOf pat k r).isSome) ims && scattersOk pat.ctxs.flatten then none
    else some 0xFFFFFFFF

/-! ### Border programs (R188, R191) -/

/-- Fields of a Border instruction word (Table 08.3). -/
def bwOp (w : Nat) : Nat := bits w 31 26
def bwD (w : Nat) : Nat := bits w 25 22
def bwA (w : Nat) : Nat := bits w 21 18

/-- A vector or a scalar instruction of Table 08.4, no reserved bit set. -/
def bwVector (w : Nat) : Bool := decide (bwOp w ≤ 0x18) && bits w 7 0 == 0 && decide (w < 2 ^ 32)
def bwScalar (w : Nat) : Bool := decide (0x20 ≤ bwOp w) && decide (bwOp w ≤ 0x27) && bits w 7 0 == 0 && decide (w < 2 ^ 32)

/-- A Border program is accepted at load. -/
def progOk (g : BorderProg) : Bool :=
  decide (g.prologue.length ≤ 32) && decide (g.phase1.length ≤ 128) && decide (g.interlude.length ≤ 32)
    && decide (g.phase2.length ≤ 128)
    && g.prologue.all bwScalar && g.interlude.all bwScalar && g.phase1.all bwVector && g.phase2.all bwVector
    && g.prologue.all (fun w => bwOp w != 0x27)
    && g.interlude.all (fun w => bwOp w != 0x27 || g.phase1.any (fun v => bwOp v == 0x16 && bwD v == bwA w))
    && (if g.twoPhase then g.phase1.all (fun w => bwOp w != 0x04 && bwOp w != 0x05)
        else g.interlude.isEmpty && g.phase2.isEmpty)

/-- Every entry whose program uses ARSUM or ACSUM declares S2 and S3 with its row and column extents (R189). -/
def entryStatsOk (progs : List BorderProg) (e : UpdEntry) : Bool :=
  match progs[e.prog]? with
  | none => false
  | some g =>
    !(g.phase1 ++ g.phase2).any (fun w => bwOp w == 0x17 || bwOp w == 0x18)
      || ((entryStream e 2).ext == .rows && (entryStream e 3).ext == .cols)

/-- A fold table (R140, R142): entry 0 valid, the valid entries contiguous, no reserved bit set, START a bundle index, and no
queue in the masks of two entries of one context. -/
def foldOk (f : List Nat) : Bool :=
  f.length == 16 && f.zipIdx.all (fun a => f.zipIdx.all (fun b => decide (b.2 ≤ a.2) || !foldValid a.1 || !foldValid b.1
      || foldCtx a.1 != foldCtx b.1 || foldMask a.1 &&& foldMask b.1 == 0)) && foldValid (nth 0 f 0)
    && (List.range 15).all (fun i => foldValid (nth 0 f i) || !foldValid (nth 0 f (i + 1)))
    && f.all (fun e => bits e 28 28 == 0 && decide (foldStart e ≤ 2962) && decide (e < 2 ^ 32))

/-- The parts of a pattern that do not depend on a context number (R166, R169, R187, R188, R203, R322): job record,
table sizes, Border programs. -/
def patternOk (s : State) (slot : Nat) (pat : Pattern) : Bool :=
  jobOk s slot pat.job && pat.relay.length == jobRelays pat.job && pat.landing.length == jobLands pat.job
    && decide (pat.relay.length ≤ 1024) && decide (pat.landing.length ≤ 1024) && decide (pat.records ≤ 8192)
    && decide (1 ≤ pat.micro) && decide (pat.micro ≤ 4096)
    && decide (pat.table.length ≤ 4096) && decide (pat.progs.length ≤ 8) && decide (1 ≤ pat.ctxs.length)
    && decide (pat.ctxs.length ≤ 4)
    && pat.progs.all progOk && pat.table.all (entryStatsOk pat.progs)

/-! ### Physical accumulator slots (R82) -/

/-- The physical slots of a slot map: each pair takes an even and odd pair, a plain slot a free slot whose partner is taken
or else the highest free one; keys as in `Ctx.accPhys` (log entry 14). -/
def assignAcc (im : CtxImage) (e : Nat) (held : List Nat) : SMap Nat :=
  let pairs := (List.range 16).filter (fun k => nth 0 im.slotMap (16 * e + k) == 2)
  let plains := (List.range 16).filter (fun k => nth 0 im.slotMap (16 * e + k) == 1)
  let r := pairs.foldl (fun (r : List Nat × SMap Nat) k =>
    let q := ((List.range 8).find? (fun i => !r.1.contains (2 * i) && !r.1.contains (2 * i + 1))).getD 0
    ((2 * q) :: (2 * q + 1) :: r.1, mset 0 (mset 0 r.2 (16 * e + k) (2 * q + 1)) (64 + 16 * e + k) (2 * q + 2))) (held, [])
  (plains.foldl (fun (r : List Nat × SMap Nat) k =>
    let free := (List.range 16).reverse.filter (fun i => !r.1.contains i)
    let i := (free.find? (fun i => r.1.contains (i ^^^ 1))).getD (free.headD 0)
    (i :: r.1, mset 0 r.2 (16 * e + k) (i + 1))) r).2

/-- Physical slots of all engines. -/
def assignAll (im : CtxImage) (co : CoreSt) (c : Nat) : SMap Nat :=
  (List.range 4).foldl (fun m e => (assignAcc im e (heldSlots co c e)).foldl (fun m a => mset 0 m a.1 a.2) m) []

/-- A plain slot of another context moves to a free physical slot, with its contents and VALID bit. -/
def moveAcc (co : CoreSt) (e src dst : Nat) : CoreSt :=
  { co with
    ctxs := co.ctxs.map (fun x => (x.1, { x.2 with accPhys := x.2.accPhys.map (fun a =>
      if a.1 / 16 % 4 = e ∧ a.2 = src + 1 then (a.1, dst + 1) else a) })),
    acc := msetList 0 co.acc (1024 * (16 * e + dst)) (mgetList 0 co.acc (1024 * (16 * e + src)) 1024),
    accValid := mset false co.accValid (16 * e + dst) (mget false co.accValid (16 * e + src)),
    engs := mupd {} co.engs e (fun g => if g.slot = src then { g with slot := dst } else g) }

/-- While an engine has two free slots whose partners are taken, fewer free pairs than the image asks for are made whole: the
partner of one, a plain slot of another context, moves to the other (R82; log entry 14). -/
def makePairs (im : CtxImage) (c e : Nat) : Nat → CoreSt → CoreSt
  | 0, co => co
  | f + 1, co =>
    let held := heldSlots co c e
    let lone := (List.range 16).filter (fun i => !held.contains i && held.contains (i ^^^ 1))
    let whole := (List.range 8).filter (fun i => !held.contains (2 * i) && !held.contains (2 * i + 1))
    let need := ((List.range 16).filter (fun k => nth 0 im.slotMap (16 * e + k) == 2)).length
    match lone with
    | a :: b :: _ => if whole.length < need then makePairs im c e f (moveAcc co e (a ^^^ 1) b) else co
    | _ => co

/-- The accumulator slots a context owns become invalid (R73). -/
def invalidateAcc (co : CoreSt) (x : Ctx) : CoreSt :=
  { co with accValid := x.accPhys.foldl (fun v a => mset false v (16 * (a.1 / 16 % 4) + (a.2 - 1)) false) co.accValid }

/-! ### Loads (R131 to R135) -/

/-- Whether a queue or lane of a core holds a token of a context number. -/
def holdsCtxToken (co : CoreSt) (c : Nat) : Bool :=
  co.queues.any (fun q => (q.2.hw ++ q.2.lane).any (fun t => tokCtx t.hdr == c))

/-- A load into a context slot has to wait (R135, R150). A load that carries the fold flag replaces the fold table and leaves the
partition without a current context, so that neither holds it back (R140). -/
def loadHeld (s : State) (p : Nat) (earlier : List LoadSt) (l : LoadSt) : Bool :=
  let pt := getPart s p
  let ks := partCores pt
  (!l.fold && ks.any (fun k => (getCore s k).cur == some l.ctx))
    || (pt.mode == .folded && !l.fold && ks.any (fun k => (getCore s k).fold.any (fun e => foldValid e && foldCtx e == l.ctx)))
    || ks.any (fun k => holdsCtxToken (getCore s k) l.ctx)
    || earlier.any (fun m => m.ctx == l.ctx && !(m.ring == l.ring && m.desc == l.desc))
    || (l.fold && pt.run.isSome) || pt.drain != .idle

/-- The images start to be written: the context slot is no longer resident on any core, its GEN inverted, and its physical
accumulator slots are free. -/
def beginLoad (s : State) (p c : Nat) : State :=
  mapCores s p (fun _ co =>
    let x := getCtx co c
    setCtx (invalidateAcc co x) c { x with resident := false, gen := !x.gen, accPhys := [] })

/-- A load with the fold flag that begins discards the old fold table and leaves the partition without a current context
(R140). -/
def dropFold (s : State) (p : Nat) : State :=
  mapCores (setPart s p { getPart s p with hasFold := false, cur := none }) p
    (fun _ co => { co with fold := [], foldPos := 0, cur := none })

/-- Two loads of one descriptor. -/
def sameDesc (l m : LoadSt) : Bool := m.ring == l.ring && m.desc == l.desc

/-- Try to start the waiting loads of a partition, in acceptance order. The loads of one descriptor start together, once
nothing holds one of them back, so that a LOAD_PATTERN that waits has changed nothing (R135; log entry 47). -/
def proceedLoads (p : Nat) : List LoadSt → List LoadSt → State → State
  | [], done, s => setPart s p { getPart s p with loads := done }
  | l :: ls, done, s =>
    let group := (done ++ l :: ls).filter (sameDesc l)
    if l.waiting && !(group.any (loadHeld s p done) && done.all (fun m => m.waiting || !sameDesc l m)) then
      let s := if l.fold && done.all (fun m => !sameDesc l m) then dropFold s p else s
      proceedLoads p ls (done ++ [{ l with waiting := false }]) (beginLoad s p l.ctx)
    else proceedLoads p ls (done ++ [l]) s

/-- Let the waiting loads of a partition begin where nothing holds them back. -/
def tryLoads (s : State) (p : Nat) : State := proceedLoads p (getPart s p).loads [] s

/-- The state a load establishes in a context (R89, R133). -/
def freshCtx (slot : Nat) (im : CtxImage) (gen : Bool) (phys : SMap Nat) (base : Nat) : Ctx :=
  { resident := true, gen := gen, slot := some slot, image := some im, accPhys := phys, base := base }

/-- Load one core: image, cleared context state, invalid accumulator slots. -/
def loadCore (slot c : Nat) (ims : List (Nat × CtxImage)) (regions : List (Nat × Nat)) (k : Nat) (co : CoreSt) : CoreSt :=
  let old := getCtx co c
  let im := (imageFor ims k).getD (idleImage k)
  let co := (List.range 4).foldl (fun co e => makePairs im c e 8 co) co
  let phys := assignAll im co c
  let co := setCtx co c (freshCtx slot im old.gen phys (((regions.find? (fun r => r.1 == k)).map (·.2)).getD 0))
  { invalidateAcc co (getCtx co c) with inflight := co.inflight.filter (fun f => f.ctx != c), gathers := co.gathers.filter (fun g => g.ctx != c) }

/-- Switch requests that waited for a load end with NOT_RESIDENT where it failed (R129, R130). -/
def refuseSwitches (s : State) (p c : Nat) : State :=
  let pt := getPart s p
  (pt.swWait.filter (fun r => r.ctx == c)).foldl (fun s r => match r.desc with | none => s | some d => finishDesc s d.1 d.2 sNotResident 0)
    (setPart s p { pt with swWait := pt.swWait.filter (fun r => r.ctx != c) })

/-- A load ends with a status: its descriptor's other loads end with it when it failed, and the descriptor completes
when none is left. -/
def endLoad (s : State) (p : Nat) (l : LoadSt) (status detail : Nat) : State :=
  let pt := getPart s p
  let same := sameDesc l
  let rest := if status = 0 then pt.loads.filter (· != l) else pt.loads.filter (fun m => !same m)
  let s := setPart s p { pt with loads := rest }
  let s := if status ≠ 0 ∨ rest.any same = false then finishDesc s l.ring l.desc status detail else s
  settleSwitch (tryLoads (if status = 0 || l.waiting then s else refuseSwitches s p l.ctx) p) p

/-- CONTEXT_LOAD_END (R131, R133, R134): the load of context number `ctx` that is being written ends. `first` and
`second` name the cores whose first and second reading of the image arrived corrupted; an image that passes its second check
was a transient (R371). -/
def execContextLoadEnd (part : BitVec 6) (ctx : BitVec 2) (first second : List (BitVec 12)) (s : State) : Res :=
  let p := part.toNat
  let c := ctx.toNat
  match (getPart s p).loads.find? (fun l => l.ctx == c && !l.waiting) with
  | none => .next s
  | some l =>
    let ims := loadImages s l
    let ks := partCores (getPart s p)
    let folds := match (getSlot s l.slot).pattern with | some pat => if l.fold then pat.folds else [] | none => []
    let wrong (k : Nat) : Bool := (imageFor ims k).any (fun im => imageCheck im k != im.trailer % 2 ^ 32)
      || folds.any (fun f => f.1 == k && foldCheck f.2.1 k != f.2.2)
    let bad (r : List (BitVec 12)) (k : Nat) : Bool := r.any (fun c => c.toNat == k) || wrong k
    let s := { s with pipeFlags := raiseIf s.fc (ks.any (bad first)) s.pipeFlags pipeLoadRetry }
    let s := (ks.filter (fun k => bad first k && !bad second k)).foldl (fun s _ => faultTransient s) s
    match ks.find? (fun k => bad first k && bad second k) with
    | some k => .next (endLoad s p l sPatternCheck k)
    | none =>
      match (getSlot s l.slot).pattern with
      | none => .next (endLoad s p l sBadPattern 0xFFFFFFFF)
      | some pat =>
        match lateRefusal pat l.fold c ims with
        | some k => .next (endLoad s p l sBadPattern k)
        | none =>
          let s := mapCores s p (loadCore l.slot c ims l.regions)
          -- the fold table takes effect with the last load of its descriptor
          let others := (getPart s p).loads.any (fun m => m != l && m.ring == l.ring && m.desc == l.desc)
          let s := if l.fold && !others then
              let s := mapCores s p (fun k co =>
                { co with fold := ((pat.folds.find? (fun f => f.1 == k)).map (·.2.1)).getD [], foldPos := 0 })
              setPart s p { getPart s p with hasFold := true }
            else s
          .next (endLoad s p l sSuccess 0)

/-- LOAD_PROCEED (R135): waiting loads that nothing holds back begin. -/
def execLoadProceed (part : BitVec 6) (s : State) : Res :=
  .next (tryLoads s part.toNat)

/-- WDOG_LIMIT as it acts (Table 06.10). -/
def wdogLimit (s : State) : Nat := max s.wdog.limit 0x1000

/-- LOAD_BLOCKED (R135): a load that has waited WDOG_LIMIT fc completes with LOAD_BLOCKED and has changed nothing. -/
def execLoadBlocked (part : BitVec 6) (ctx : BitVec 2) (s : State) : Res :=
  match (getPart s part.toNat).loads.find? (fun l => l.ctx == ctx.toNat && l.waiting && decide (l.since + wdogLimit s ≤ s.fc)) with
  | none => .next s
  | some l => .next (endLoad s part.toNat l sLoadBlocked 0)

/-! ### Eviction (R136) -/

/-- Discard the tokens of context numbers from a core's queues and lanes. -/
def dropTokens (cs : List Nat) (co : CoreSt) : CoreSt :=
  { co with queues := co.queues.filterMap (fun q =>
      let keep (t : Token) : Bool := !cs.contains (tokCtx t.hdr)
      let x : Queue := { hw := q.2.hw.filter keep, lane := q.2.lane.filter keep, held := q.2.held && (q.2.head.any keep) }
      if x = {} then none else some (q.1, x)) }

/-- Tokens of context numbers in a core's queues and lanes. -/
def countTokens (cs : List Nat) (co : CoreSt) : Nat :=
  sumNat (co.queues.map (fun q => ((q.2.hw ++ q.2.lane).filter (fun t => cs.contains (tokCtx t.hdr))).length))

/-- Make context numbers of a core non-resident, GEN inverted, accumulators invalid. -/
def evictCore (cs : List Nat) (co : CoreSt) : CoreSt :=
  cs.foldl (fun co c =>
    let x := getCtx co c
    let co := setCtx (invalidateAcc co x) c { gen := !x.gen }
    { co with
      inflight := co.inflight.filter (fun f => f.ctx != c),
      gathers := co.gathers.filter (fun g => g.ctx != c),
      cur := if co.cur = some c then none else co.cur }) (dropTokens cs co)

/-- Evict the contexts of a slot: the tokens discarded, and the state. A partition whose current context goes is left
without one (R113); the slot's counters of R38, R204 and R256 are cleared. -/
def evictSlot (s : State) (slot : Nat) : Nat × State :=
  let p := (getSlot s slot).part
  let cs := slotCtxs s p slot
  let n := sumNat ((partCores (getPart s p)).map (fun k => countTokens cs (getCore s k)))
  let s := mapCores s p (fun _ co => evictCore cs co)
  let pt := getPart s p
  let s := setPart s p { pt with cur := if pt.cur.any cs.contains then none else pt.cur }
  (n, updSlot s slot (fun x => { x with conv := {}, replayCnt := 0, repairCnt := 0, efclrCnt := 0, dev := [] }))

end Sys2Proof.Machine
end

