-- ==== Sys2Proof/Machine/Pacing.lean ====
section
/-! DEFINITION. Handle's event log, the power budget, and the charging of a step's cycles (R244 to R253, R404,
R423). -/

namespace Sys2Proof.Machine

/-! ### Event log (R404) -/

/-- The mc counter. -/
def mcNow (s : State) : Nat := s.fc / 6

/-- SRC values of a log entry (Table 17.5). -/
def lgFault : Nat := 1
def lgAuth : Nat := 2
def lgProvision : Nat := 3
def lgFirmware : Nat := 4
def lgPower : Nat := 5
def lgLink : Nat := 6
def lgTime : Nat := 7
def lgFence : Nat := 8

/-- A Handle die. -/
def getDie (s : State) (d : Nat) : HandleDie := mget {} s.handle.dies d

/-- A Handle die is active: step-start grants, mailboxes and the BMC are served (R381, R391). -/
def handleUp (s : State) : Bool := s.handle.latch.any (fun d => (getDie s d).role == .active)

/-- Change Handle. -/
def updHandle (s : State) (f : HandleSt → HandleSt) : State := { s with handle := f s.handle }

/-- The next entry of the event log (Table 17.5). -/
def newEntry (s : State) (src code die sev : Nat) (args : List Byte) : LogEntry :=
  { seq := s.handle.nextSeq, mc := mcNow s, boot := s.handle.boots % 2 ^ 32, src := src, code := code, die := die, sev := sev,
    args := (args ++ List.replicate 32 0).take 32 }

/-- Append an entry to the event log; the 32,768 most recent are kept (R404). Once boot stage 2 has ended an entry of SEV 2 is reported
to the BMC (Table 17.6, R405; log entry 139). -/
def logEvent (s : State) (src code die sev : Nat) (args : List Byte) : State :=
  let e := newEntry s src code die sev args
  updHandle { s with out := s.out ++ (if sev = 2 ∧ 3 ≤ s.handle.stage then [.event e] else []) }
    (fun h => { h with log := keepLast 32768 (h.log ++ [e]), nextSeq := h.nextSeq + 1 })

/-- A lasting or uncovered fault is recorded in the registers (R390) and in the event log. -/
def recordFault (s : State) (cls detect code die : Nat) : State :=
  logEvent (faultRecord s cls detect code die) lgFault code die 2 []

/-! ### Power budget (R251 to R253) -/

/-- The board limit in W: the board record's, or that of manufacture, which is not below the 3,000 W that the budget reads
after cold reset (Table 10.12; log entry 9). -/
def boardLimit (s : State) : Nat :=
  match s.handle.board with
  | some b => b.limit
  | none => max 0xBB8 Config.factoryBoardLimit

/-- PACE_CAP as it acts (Table 10.11). -/
def paceCap (s : State) : Nat := min (max s.clock.paceCap 0x3E8) (boardLimit s)

/-- The thermal limit where it binds: PACE_CAP less 5 % of it per step (R253). -/
def thermalLimit (s : State) : Nat := paceCap s * (20 - s.clock.derated) / 20

/-- The least of the three values of R251, less the correction. -/
def rawBudget (s : State) : Nat := min (paceCap s) (thermalLimit s) - s.clock.correction

/-- The budget B: never below the idle power (R253). -/
def budget (s : State) : Nat := max (rawBudget s) s.clock.idle

/-- Budget hold (R253). -/
def budgetHold (s : State) : Bool := decide (rawBudget s ≤ s.clock.idle)

/-- P_STEP of a slot's pattern. -/
def pStep (x : SlotSt) : Nat := (x.pattern.map (·.timing.pStep)).getD 0

/-- Whether a slot has a step between step start and ready. -/
def inStep (x : SlotSt) : Bool := x.run.any (fun r => r.stage == .step)

/-- The power of the steps in progress. -/
def stepPower (s : State) : Nat := sumNat ((s.slots.filter (fun p => inStep p.2)).map (fun p => pStep p.2))

/-- Whether the budget lets a step of a slot start (R251 to R253); no start is granted without an active Handle die
(R381). -/
def mayStart (s : State) (slot : Nat) : Bool :=
  let p := pStep (getSlot s slot)
  handleUp s && !budgetHold s && (decide (s.clock.idle + stepPower s + p ≤ budget s)
    || (decide (budget s < s.clock.idle + p) && s.slots.all (fun q => !inStep q.2)))

/-- PACE_STATUS (Table 10.12). -/
def paceStatus (s : State) : Nat :=
  budget s % 2 ^ 16 * 2 ^ 16 + min s.clock.held.length 0xFFF * 16 + boolNat (s.clock.derated != 0)

/-! ### Timing record (R245) -/

/-- A selector of a timing term: 1 or a parameter word. -/
def timeSel (sel : Nat) (par : List Nat) : Nat := if sel = 0 then 1 else nth 0 par (sel - 1)

/-- One term for one entry. -/
def timeTerm (t : Nat) (par : List Nat) : Nat :=
  bits t 63 32 * timeSel (bits t 31 29) par * timeSel (bits t 28 26) par

/-- T_report of a problem list, given its parameter words. -/
def tReport (t : Timing) (pars : List (List Nat)) : Nat :=
  t.head + sumNat (pars.map (fun p => sumNat (t.terms.map (fun x => timeTerm x p)))) + t.tail

/-- The timing record is accepted at load (R245). -/
def timingOk (pat : Pattern) : Bool :=
  let t := pat.timing
  decide (1 ≤ t.terms.length) && decide (t.terms.length ≤ 8)
    && t.terms.all (fun x => decide (bits x 31 29 ≤ 4) && decide (bits x 28 26 ≤ 4) && bits x 25 0 == 0)
    && decide (t.head + 65535 * sumNat (t.terms.map (fun x => timeTerm x pat.parMax)) + t.tail ≤ 2 ^ 48)

/-! ### Perturbation (R423) -/

/-- The acknowledgement history of a port still holds a state that a delayed ACK has not yet reported. -/
def ackPending (s : State) : Bool :=
  s.pert.points.any (fun p => p.2.kind == 4 && (s.pert.acks.any (fun a => a.1 == p.2.target % 8 &&
    a.2.any (fun h => decide (s.fc < h.2 + p.2.value)))))

/-- Perturbation is enabled on the package. -/
def pertActive (s : State) : Bool :=
  s.pert.en || s.pert.lpEn || s.pert.bistRun || s.arbs.any (fun a => a.2.swFreeze)
    || s.pert.holds.any (fun h => h.2.isSome) || ackPending s

/-! ### Charging (R247 to R249) -/

/-- Cause numbers, by priority; 5 and 6 are PACE and UNATTR in the lists of counters. -/
def cPerturb : Nat := 0
def cFault : Nat := 1
def cHost : Nat := 2
def cLink : Nat := 3
def cTier : Nat := 4
def cPace : Nat := 5
def cUnattr : Nat := 6

/-- A port of the job is resending, waits for a resend, retrains or runs on reduced lanes (Table 10.6). -/
def linkSlow (s : State) (p : Nat) : Bool :=
  let x := getLink s p
  (x.state == .up || x.state == .retrain) &&
    (x.waiting || x.nakSeq.isSome || x.state == .retrain || x.txGroups != 15 || x.rxGroups != 15)

/-- Every parameter tile of a slot is quantised in this step. -/
def allQuantised (s : State) (n : Nat) : Bool :=
  let x := getSlot s n
  (List.range (tableTiles x.table)).all (fun t => getRecord s n t == rcode (x.cn + 1))

/-- A copy in progress is reading the bank that the slot's next sweep writes (R186). -/
def bankHeld (x : SlotSt) : Bool := x.copies.any (fun c => c.2.2 == (x.cn + 1) % 2)

/-- The device waits for the host: in a host-placed update (R193), for the PROBLEM descriptors of a RUN (R171), or for a copy
that holds back the sweep (R186). -/
def hostWaits (s : State) (n : Nat) : Bool :=
  let x := getSlot s n
  x.hostWait || x.run.any (fun r => r.stage == .collecting)
    || (bankHeld x && x.run.any (fun r => r.stage == .step && !r.sweeping) && allQuantised s n)

/-- The deviation of a step that ended last, the one of highest priority among several. -/
def lastCause (r : RunSt) : Option Nat :=
  (r.causes.foldl (fun (a : Option (Nat × Nat × Nat)) i => match a with
    | none => some i
    | some j => if j.2.2 < i.2.2 ∨ (j.2.2 = i.2.2 ∧ i.1 < j.1) then some i else some j) none).map (·.1)

/-- A request of the slot's step met another at an arbiter and waits: the delay is charged to the deviation that shifted one
of the two (R238), the slot's own last one, else that of another slot (DESIGN CHOICE, log entry 129). -/
def metCause (s : State) (n : Nat) : List Nat :=
  if s.arbs.any (fun a => a.2.owner.any (fun o => o.2 == n + 1)) then
    (((getSlot s n).run.bind lastCause) <|> s.slots.findSome? (fun p => p.2.run.bind lastCause)).toList
  else []

/-- The causes in progress for a slot in this fc (Table 10.6). The fc in which a request was late or an arrival past its
window are reported by the command that ends them. -/
def causesNow (s : State) (n : Nat) : List Nat :=
  let x := getSlot s n
  let axes := (List.range 3).filterMap (cutAxis (slotJob x))
  metCause s n ++ (if pertActive s then [cPerturb] else [])
    ++ (if !s.tiers.fenced.isEmpty || !x.round.repairs.isEmpty then [cFault] else [])
    ++ (if hostWaits s n then [cHost] else [])
    ++ (if !x.coll.held.isEmpty || axes.any (fun a => linkSlow s (2 * a) || linkSlow s (2 * a + 1)) then [cLink] else [])

/-- Add the interval [from, to) of a cause, joined to an interval that ends where it begins. -/
def addCause (l : List (Nat × Nat × Nat)) (c a b : Nat) : List (Nat × Nat × Nat) :=
  match l.find? (fun i => i.1 == c && i.2.2 == a) with
  | some i => l.map (fun j => if j = i then (c, i.2.1, b) else j)
  | none => l ++ [(c, a, b)]

/-- Insert into a rising list. -/
def insertNat (x : Nat) : List Nat → List Nat
  | [] => [x]
  | y :: ys => if x ≤ y then x :: y :: ys else y :: insertNat x ys

/-- The end points of the intervals inside [a, b), rising. -/
def cutPoints (l : List (Nat × Nat × Nat)) (a b : Nat) : List Nat :=
  ((l.flatMap (fun i => [i.2.1, i.2.2])).filter (fun x => decide (a < x) && decide (x < b))).foldr insertNat [b]

/-- The cause of highest priority in progress at an fc. -/
def causeAt (l : List (Nat × Nat × Nat)) (x : Nat) : Option Nat :=
  (List.range 5).find? (fun c => l.any (fun i => i.1 == c && decide (i.2.1 ≤ x) && decide (x < i.2.2)))

/-- Add n to element i of a list of seven counters. -/
def addAt (l : List Nat) (i n : Nat) : List Nat :=
  (List.range 7).map (fun k => nth 0 l k + (if k = i then n else 0))

/-- The fc of [a, b) charged to each cause (R248). -/
def chargeFrom (l : List (Nat × Nat × Nat)) : Nat → List Nat → List Nat → List Nat
  | _, [], acc => acc
  | a, p :: ps, acc =>
    chargeFrom l p ps (match causeAt l a with | some c => addAt acc c (p - a) | none => acc)

def charges (l : List (Nat × Nat × Nat)) (a b : Nat) : List Nat :=
  if b ≤ a then [] else chargeFrom l a (cutPoints l a b) []

/-- Element-wise sum of counters, each saturating. -/
def addCounters (sat : Nat → Nat → Nat) (a b : List Nat) : List Nat :=
  (List.range 7).map (fun k => sat (nth 0 a k) (nth 0 b k))

/-- A slot whose attempt was aborted drains, or waits for its restart or for the grant of its replay: FAULT is in progress
(Table 10.6). -/
def inAbort (x : SlotSt) : Bool :=
  x.run.any (fun r => r.stage == .replay || (r.stage == .paced && !r.stepCharges.isEmpty))

/-- The causes in progress are noted for every step between step start and ready, and from an abort to the next start. -/
def noteCauses (s : State) : State :=
  { s with slots := s.slots.map (fun p =>
      if inStep p.2 || inAbort p.2 then
        (p.1, { p.2 with run := p.2.run.map (fun r =>
          let cs := (causesNow s p.1 ++ (if inAbort p.2 then [cFault] else [])).eraseDups
          { r with perturbed := r.perturbed || cs.contains cPerturb, causes := cs.foldl (fun l c => addCause l c s.fc (s.fc + 1)) r.causes }) })
      else p) }

/-- Perturbation that a register write enables is in progress in this fc, though a later write of the same fc ends it (R247,
R249). -/
def notePerturb (s : State) : State :=
  if !pertActive s then s
  else
    { s with slots := s.slots.map (fun p =>
        if inStep p.2 || inAbort p.2 then
          (p.1, { p.2 with run := p.2.run.map (fun r => { r with perturbed := true, causes := addCause r.causes cPerturb s.fc (s.fc + 1) }) })
        else p) }

/-- A cause ran in the fc [a, b) before this one: no fc of them was stalled (R144). -/
def dropStalled (s : State) (n a b : Nat) : State :=
  if a < b then setPart s (getSlot s n).part { getPart s (getSlot s n).part with stalled := 0 } else s

/-- The slots of a partition whose RUN is accepted, with a cause of a counted deviation in progress (R144). -/
def partCauses (s : State) (p : Nat) : Bool :=
  pertActive s || s.slots.any (fun x => x.2.part == p && x.2.run.isSome && !(causesNow s x.1).isEmpty)

/-- A partition has a queue that is full with its lane disabled or full (R144). A hardware queue that is full of tokens of
mixed tags, so that its lane takes none (R124), counts as full though its lane is enabled and has room (DESIGN CHOICE, log
entry 123). -/
def hasFullQueue (s : State) (p : PartSt) : Bool :=
  (partCores p).any (fun c =>
    let co := getCore s c
    co.queues.any (fun q => match q.2.head with
      | none => false
      | some t => decide (8 ≤ q.2.hw.length) && (match place co q.1 t.hdr with | .full => true | _ => false)))

/-- Stalled fc are counted for each partition (R144). -/
def countStalled (s : State) : State :=
  { s with parts := (s.parts.map (fun p =>
      (p.1, { p.2 with stalled := if hasFullQueue s p.2 && !partCauses s p.1 then p.2.stalled + 1 else 0 }))).filter (fun p => p.2 != {}) }

/-- One fc in which no command takes effect: the cycle counters count once the root PLL is locked (R254), PERT_FC
counts, and the causes and stalls of this fc are noted. -/
def idleFc (s : State) : State :=
  if !s.rootLock then s
  else
    let s := tickPoints (countStalled (noteCauses s))
    { s with fc := s.fc + 1, pert := { s.pert with fc := if pertActive s then satAdd64 s.pert.fc 1 else s.pert.fc } }

end Sys2Proof.Machine
end

