-- ==== Sys2Proof/Machine/Attempt.lean ====
section
/-! DEFINITION. Attempts of a step: start, abort, drains, the end of a RUN, and the watchdog (R113, R144 to R150,
R168, R173, R198, R248, R252, R288, R382, R384). -/

namespace Sys2Proof.Machine

/-- The RUN of a slot. -/
def updRun (s : State) (n : Nat) (f : RunSt → RunSt) : State :=
  updSlot s n (fun x => { x with run := x.run.map f })

/-- Set the stage of a slot's RUN. -/
def setStage (s : State) (n : Nat) (g : RunStage) : State := updRun s n (fun r => { r with stage := g })

/-- The context numbers a slot's pattern occupies in its partition. -/
def ownCtxs (s : State) (n : Nat) : List Nat := slotCtxs s (getSlot s n).part n

/-! ### Starting a RUN on its partition (R113, R185, R288) -/

/-- Events of a conversion. -/
def evOf (c : Cvt) : Conv4 := { sat := boolNat c.sat, ufl := boolNat c.ufl, nar := boolNat c.nar }

/-- Elements of a parameter tile inside its entry (R187). -/
def tileElems (x : SlotSt) (t : Nat) : Nat :=
  match tileEntry x.table t with
  | none => 0
  | some r => min 1024 (r.2.1.count - 1024 * r.2.2)

/-- Regenerate WC of the visible bank from the master (R184, R185), one parameter tile after another; the events of the
conversions reach CONV_FLAGS and the slot (R35). -/
def regenTile (s : State) (n t : Nat) : State :=
  let x := getSlot s n
  let cs := (readCodes s n (.w x.bank) 4 (4096 * t) (tileElems x t)).map (convert .fp32 .l16)
  let ev := cs.foldl (fun a c => a.add (evOf c)) {}
  let s := writeCodes s n (.wc x.bank) 2 (2048 * t) (cs.map (·.code))
  updSlot (raiseConv s (rimUnit (tileRim s t)) ev) n (fun x => { x with conv := x.conv.add ev })

/-- The slot's working copy is regenerated if it is WC-stale. -/
def regenWc (s : State) (n : Nat) : State :=
  let x := getSlot s n
  if x.wcStale && !x.hostPlaced then
    updSlot ((List.range (tableTiles x.table)).foldl (fun s t => regenTile s n t) s) n (fun x => { x with wcStale := false })
  else s

/-- The 128-byte run report (Table 12.8). -/
def runReport (x : SlotSt) (r : RunSt) (tagMiss seqErr status detail : Nat) : List Byte :=
  bytesLE 8 x.cn ++ bytesLE 2 r.done ++ bytesLE 2 (min r.replayed 0xFFFF) ++ bytesLE 1 status ++ bytesLE 3 0
    ++ (List.range 7).flatMap (fun k => bytesLE 8 (nth 0 r.charges k)) ++ bytesLE 8 r.late ++ bytesLE 8 r.roundFc
    ++ bytesLE 4 r.oor ++ bytesLE 4 tagMiss ++ bytesLE 4 seqErr ++ bytesLE 4 detail
    ++ bytesLE 8 (satAdd64 0 (r.tReport * r.done)) ++ List.replicate 16 0

/-- The outcome of a RUN is fixed: its descriptor may complete with its report. -/
def closeRun (s : State) (n status detail : Nat) : State :=
  match (getSlot s n).run with
  | none => s
  | some r =>
    let p := (getSlot s n).part
    let pt := getPart s p
    let s := if pt.run = some n then setPart s p { pt with run := none, problems := [] } else setPart s p { pt with runQueue := pt.runQueue.filter (· != n) }
    let s := updSlot s n (fun x =>
      { x with
        replays := 0,
        hostWait := false,
        round := { held := x.round.held },
        run := none })
    let own : Bool := pt.run == some n
    let bs := runReport (getSlot s n) r (if own then pt.tagMiss else 0) (if own then pt.seqErr else 0) status detail
    let s := { s with fault := { s.fault with words := s.fault.words.filter (fun w => w.2.2.1 != n) } }
    attachReport (finishDesc s r.ring r.desc status detail) r.ring r.desc r.rptAddr bs

/-- The partition's RUN slot takes its problem list and asks for its context where that is not current. -/
def beginRun (s : State) (p n : Nat) : State :=
  let pt := getPart s p
  let probs := ((getSlot s n).run.map (·.problems)).getD []
  let s := setPart s p { pt with run := some n, runQueue := pt.runQueue.filter (· != n), problems := probs, tagMiss := 0, seqErr := 0 }
  let s := setStage (regenWc s n) n .between
  if pt.mode == .folded then s
  else match (ownCtxs s n).head? with
    | none => s
    | some c => if pt.cur == some c then s else askSwitch s p { ctx := c, desc := none }

/-- Whether a slot can run on its partition as it stands: resident, and in FOLDED mode with a fold table (R140). -/
def runResident (s : State) (n : Nat) : Bool :=
  let pt := getPart s (getSlot s n).part
  slotResident s n && (pt.mode != .folded || pt.hasFold)

/-- Why a queued RUN cannot begin when its turn comes: its slot was evicted meanwhile, or a RUN before it has pinned another
context on a PINNED partition (R113, Table 12.3). -/
def startRefusal (s : State) (n : Nat) : Option Nat :=
  let pt := getPart s (getSlot s n).part
  if !runResident s n then some sNotResident
  else if pt.mode == .pinned && pt.cur.any (fun c => !(ownCtxs s n).contains c) then some sPartMode
  else none

/-- Queued RUNs of a partition in order: those that cannot begin end with a status, the next starts. One that still collects
its entries keeps its place (R288). -/
def startFrom (p : Nat) : List Nat → State → State
  | [], s => s
  | n :: ns, s =>
    if (getSlot s n).run.any (fun r => r.stage == .collecting) then s
    else match startRefusal s n with
      | none => beginRun s p n
      | some c => startFrom p ns (closeRun s n c 0)

/-- Start the next queued RUN of a partition once nothing runs or drains on it (R288). -/
def startRuns (s : State) (p : Nat) : State :=
  let pt := getPart s p
  if pt.run.isNone && pt.drain == .idle then startFrom p pt.runQueue s else s

/-- A cluster lies on a die in service: its own, or the spare that serves its position. -/
def clusterWhole (s : State) (k : Nat) : Bool :=
  let q := k / 128
  let pos := k / 8 % 16
  let own := 12 * q + (if pos < 8 then pos else pos + 1)
  let kind := 2 * q + boolNat (decide (8 ≤ pos))
  !isFenced s own || (mget 0 s.fault.spareFor kind == pos + 1 && mget false s.fault.spareOn kind
    && !isFenced s (12 * q + (if pos < 8 then 8 else 11)))

/-- The cores of a partition that a fenced die has left are served again: no cluster lies on a fenced die whose spare
is still to come. -/
def partWhole (s : State) (p : Nat) : Bool := (getPart s p).clusters.all (clusterWhole s)

/-- Every core of the slot's partition stands where its first step may start: in the slot's context, or in FOLDED
mode with a fold table. -/
def runPlaced (s : State) (n : Nat) : Bool :=
  let p := (getSlot s n).part
  let pt := getPart s p
  pt.run == some n && pt.drain == .idle && partWhole s p && pt.swReq.isNone &&
    (if pt.mode == .folded then pt.hasFold else pt.cur.any (fun c => (ownCtxs s n).contains c))

/-! ### Attempts (R382) -/

/-- A context at the start of an attempt: the state a load establishes (R89, R133). -/
def freshAttempt (co : CoreSt) (c : Nat) : CoreSt :=
  let x := getCtx co c
  setCtx (invalidateAcc co x) c
    { resident := x.resident, gen := x.gen, slot := x.slot, image := x.image, accPhys := x.accPhys, base := x.base }

/-- A core at the start of an attempt, with the parameter words of entries 0 and 1 (R169). -/
def attemptCore (cs : List Nat) (pt : PartSt) (co : CoreSt) : CoreSt :=
  let co := cs.foldl freshAttempt co
  let co := { co with
    inflight := co.inflight.filter (fun f => !cs.contains f.ctx),
    gathers := co.gathers.filter (fun g => !cs.contains g.ctx),
    par := entryPar pt 0,
    parNext := entryPar pt 1,
    entry := 0,
    finished := false,
    boundary := true,
    stop := none }
  if pt.mode == .folded && !co.fold.isEmpty then enterFold co 0 else co

/-- The gradient axes of a slot's job that run as a line (R335). -/
def lineAxesOf (s : State) (j : Nat) : List Nat :=
  ([cutData, cutSeq].filterMap (cutAxis j)).filter (fun a => axisMode s a != .ring)

/-- Uncorrectable words at the start of a slot's next attempt: those of the attempt before it stay under watch (R373). -/
def ageWords (s : State) (n : Nat) : State :=
  let ws := s.fault.words.filterMap (fun w => if w.2.2.1 = n then (if w.2.2.2 then none else some (w.1, w.2.1, n, true)) else some w)
  { s with fault := { s.fault with words := ws } }

/-- The slot's attempt met the words of the attempt before it in order: each was a transient (R371, R373). -/
def settleWords (s : State) (n : Nat) : State :=
  let good := s.fault.words.filter (fun w => w.2.2.1 == n && w.2.2.2)
  good.foldl (fun s _ => faultTransient s)
    { s with fault := { s.fault with words := s.fault.words.filter (fun w => w.2.2.1 != n) } }

/-- The physical granules of a slot's step areas (R174). -/
def areaGranules (s : State) (n : Nat) : List Nat :=
  let d := getDom s (getSlot s n).dom
  (d.regions.filter (fun r => r.slot == some n && (r.kind == .stash || r.kind == .gaa))).flatMap
    (fun r => (List.range r.count).filterMap (fun k => physOf d 1 (r.gidx + k)))

/-- The contents of a step area's granule become undefined: a fresh draw. -/
def spoilGranule (s : State) (p : Nat) : State :=
  { s with tiers := { s.tiers with hbm := dropGranule s.tiers.hbm p, undef := mset 0 s.tiers.undef p (s.draws + 1) }, draws := s.draws + 1 }

/-- The contents of a slot's staging granules in a Slath become undefined: a fresh draw for each (R211). -/
def spoilStaging (n : Nat) (s : State) (q : Nat) : State :=
  let x := getSlath s q
  let gs := (x.use.filter (fun u => u.2 == .staging n)).map (·.1)
  if gs.isEmpty then s
  else
    let y := gs.zipIdx.foldl (fun (y : SlathSt) g =>
      { y with bytes := y.bytes.filter (fun b => b.1 / granBytes != g.1), undef := mset 0 y.undef g.1 (s.draws + g.2 + 1) }) x
    { setSlath s q y with draws := s.draws + gs.length }

/-- Step start of an attempt: sources released, cores in their first state, collective state of the step cleared,
the axis modes sampled, the contents of the step areas and of staging undefined (R174, R211, R244, R335, R382). A working copy
that has become stale is regenerated first (R185, R228). -/
def beginAttempt (s : State) (n : Nat) : State :=
  let s := regenWc s n
  let x := getSlot s n
  let lines := lineAxesOf s (slotJob x)
  let cs := ownCtxs s n
  let pt := getPart s x.part
  let s := mapCores ((List.range 4).foldl (spoilStaging n) ((areaGranules s n).foldl spoilGranule s)) x.part (fun _ co => attemptCore cs pt co)
  let s := if pt.mode == .folded then setPart s x.part { pt with cur := none } else s
  let s := ageWords s n
  let s := updSlot s n (fun x =>
    { x with
      coll := { held := x.coll.held, lineAxes := lines, pseqIn := x.coll.pseqIn.filter (fun q => q.1 % 8 == 7), pseqOut := x.coll.pseqOut.filter (fun q => q.1 == 7) },
      round := { kind := .commit, held := x.round.held },
      hostWait := false,
      hostRetry := false,
      run := x.run.map (fun r =>
        let f := if r.stepCharges.isEmpty then s.fc else r.first
        let again := !r.stepCharges.isEmpty
        let fcs := if again then s.fc - r.start else 0
        { r with
          stage := .step,
          first := f,
          start := s.fc,
          causes := [],
          conv := {},
          nan := again && r.nan,
          perturbed := (again && r.perturbed) || pertActive s,
          sweeping := false,
          installed := false,
          stepCharges := addCounters satAdd64 r.stepCharges (addAt [] cFault fcs) }) })
  if lines.isEmpty then s else raiseColl s kfLineOrder

/-! ### Aborts (R198) -/

/-- The coordinates to which a member sends ABORT on a cut: the next member of a ring, both neighbours of a line. -/
def abortTargets (s : State) (j cut : Nat) : List Nat :=
  let l := cutLen s j cut
  let r := cutRank s j cut
  if l ≤ 1 then []
  else if cutRing s j cut then [rankCoord s j cut ((r + 1) % l)]
  else match cutAxis j cut with
    | none => []
    | some a =>
      let p := linePos s a (ownIdx s a)
      let at_ (q : Nat) : Nat := setIdx s.torus.coord a ((axisBreak s a + 1 + q) % l)
      (if 0 < p then [at_ (p - 1)] else []) ++ (if p + 1 < l then [at_ (p + 1)] else [])

/-- Send ABORT of a kind and cause on every cut of the job (R198, R340). -/
def sendAborts (s : State) (n : Nat) (report : Bool) (code : Nat) : State :=
  let j := slotJob (getSlot s n)
  let body := [if report then 2 else 1, BitVec.ofNat 8 code] ++ bytesLE 2 s.torus.coord
  (List.range 3).foldl (fun s c => (abortTargets s j c).foldl (fun s d => sendPacket s n d pkAbort 7 { body := body }) s) s

/-- The kind and cause after a further abort: REPORT prevails, and of the causes of that kind the first is kept. -/
def joinAbort (old : Option (Bool × Nat)) (report : Bool) (code : Nat) : Bool × Nat :=
  match old with
  | none => (report, code)
  | some (r, c) => if report && !r then (true, code) else (r, c)

/-- The switch requests of a partition are cancelled; the descriptors they served complete with PART_BUSY. -/
def cancelSwitches (s : State) (p : Nat) : State :=
  let pt := getPart s p
  let rs := (match pt.swReq with | some r => [r] | none => []) ++ pt.swWait
  rs.foldl (fun s r => match r.desc with | none => s | some d => finishDesc s d.1 d.2 sPartBusy 0)
    (setPart s p { pt with swReq := none, swWait := [] })

/-- A step of the slot's RUN can still be aborted at this member: it is between step start and the decision, or
between the request of a start and that start. -/
def abortable (x : SlotSt) : Bool :=
  match x.run with
  | none => false
  | some r => (r.stage == .step || r.stage == .round || r.stage == .replay || r.stage == .paced)
      && !(r.stage == .round && x.round.issued)

/-- The fc for which a start was held are charged to PACE, once it is granted or withdrawn; those of a replay lie between the
abort and the next start and are charged to FAULT (R248, R252). -/
def chargeHeld (s : State) (n : Nat) : State :=
  let w := match (getSlot s n).run with | some r => if r.stage == .paced && r.stepCharges.isEmpty then s.fc - r.asked else 0 | none => 0
  let s := { s with clock := { s.clock with held := s.clock.held.filter (· != n) } }
  updSlot s n (fun x =>
    { x with
      dev := addCounters satAdd32 x.dev (addAt [] cPace w),
      run := x.run.map (fun r => { r with charges := addCounters satAdd64 r.charges (addAt [] cPace w) }) })

/-- The round's own fc and its waits, since ready or since they were last counted, are added to the RUN (R244). -/
def noteRound (s : State) (n : Nat) : State :=
  updRun s n (fun r => { r with roundFc := satAdd64 r.roundFc (s.fc - max r.readyFc r.counted), counted := s.fc })

/-- A round that an abort ends is counted too (R295). -/
def noteBroken (s : State) (n : Nat) : State :=
  if (getSlot s n).run.any (fun r => r.stage == .round) then noteRound s n else s

/-- Stop an attempt: discard drain of the partition, ABORT sent once, kind and cause kept, packets of the attempt
dropped (R149, R150, R198). After REPLAY_LIMIT replays an ABORT REPLAY becomes REPORT with REPLAY_EXHAUSTED. -/
def stopAttempt (s : State) (n : Nat) (report : Bool) (code : Nat) : State :=
  let x := getSlot s n
  let spent := !report && decide (bits s.train.updCtl.toNat 3 0 ≤ x.replays)
  let report := report || spent
  let code := if spent then sReplayExhausted else code
  let k := joinAbort x.round.abort report code
  let s := if x.round.abort.isNone then sendAborts s n k.1 k.2 else s
  let s := updSlot s n (fun x =>
    { x with
      round := { x.round with abort := some k, held := [] },
      coll := { x.coll with held := x.coll.held.filter (fun p => !pkAttempt p.pkind.toNat || cnAhead p.cnLo.toNat x.cn) } })
  let s := setStage (chargeHeld (noteBroken s n) n) n .replay
  let pt := getPart s x.part
  cancelSwitches (setPart s x.part { pt with drain := .discard }) x.part

/-- Abort the attempt of a slot's RUN, where one can be aborted. -/
def abortAttempt (s : State) (n : Nat) (report : Bool) (code : Nat) : State :=
  if abortable (getSlot s n) then stopAttempt s n report code else s

/-- Abort every step in progress on a list of partitions. -/
def abortParts (s : State) (ps : List Nat) (report : Bool) (code : Nat) : State :=
  ps.foldl (fun s p => match (getPart s p).run with | none => s | some n => abortAttempt s n report code) s

/-! ### Ends of RUNs -/

/-- Conversion events of the attempt in the cores of a slot's contexts (R36). -/
def coreConv (s : State) (n : Nat) : Conv4 :=
  let cs := ownCtxs s n
  (partCores (getPart s (getSlot s n).part)).foldl (fun a k =>
    cs.foldl (fun a c => a.add (getCtx (getCore s k) c).conv) a) {}

/-- Out-of-range gather indices of the attempt (R107). -/
def coreOor (s : State) (n : Nat) : Nat :=
  let cs := ownCtxs s n
  sumNat ((partCores (getPart s (getSlot s n).part)).flatMap (fun k => cs.map (fun c => (getCtx (getCore s k) c).oor)))

/-- Add the events of the last attempt of a step to the slot (R36). -/
def addConv (s : State) (n : Nat) : State :=
  let e := coreConv s n
  updSlot s n (fun x => { x with conv := (x.conv.add e).add ((x.run.map (·.conv)).getD {}) })

/-- A RUN ends, and its partition goes on to the next RUN. -/
def endRun (s : State) (n status detail : Nat) : State :=
  match (getSlot s n).run with
  | none => s
  | some _ =>
    let p := (getSlot s n).part
    tryLoads (startRuns (closeRun s n status detail) p) p

/-- DETAIL of a RUN that ends with a cause: the steps committed, or the shard of STALE_SHARD (Table 12.7). -/
def runDetail (s : State) (n status : Nat) : Nat :=
  match (getSlot s n).run with
  | none => 0
  | some r => if status = sStaleShard then r.detail else r.done

/-- Clear E and the record of the parameter tiles that the aborted step quantised (R198); of every tile where the
cause is the loss of a rim die. -/
def clearErrors (s : State) (n : Nat) (all : Bool) : Bool × State :=
  let x := getSlot s n
  let rc := rcode (x.cn + 1)
  (List.range (tableTiles x.table)).foldl (fun (a : Bool × State) t =>
    if getRecord a.2 n t == rc then
      (true, setRecord (writeCodes a.2 n .e 2 (2048 * t) (List.replicate 1024 0)) n t 0)
    else if all then (true, writeCodes a.2 n .e 2 (2048 * t) (List.replicate 1024 0))
    else a) (false, s)

/-- The fc of a step that ends in a reported abort are charged by priority, up to the end of its drain (R248). -/
def chargeAborted (s : State) (n : Nat) : State :=
  updSlot s n (fun x =>
    match x.run with
    | none => x
    | some r =>
      if r.stepCharges.isEmpty then x
      else
        let c := addCounters satAdd64 r.stepCharges (charges r.causes r.start s.fc)
        { x with
          dev := addCounters satAdd32 x.dev c,
          run := some { r with charges := addCounters satAdd64 r.charges c, stepCharges := [], causes := [] } })

/-- The REPORT outcome of an abort: error terms cleared, events counted, the step's fc charged, RUN completed with the cause,
which is the slot's last step outcome (Table 08.12). -/
def reportAbort (s : State) (n code : Nat) : State :=
  let oor := coreOor s n
  let s := updSlot (chargeAborted s n) n (fun x => { x with last := code, run := x.run.map (fun r => { r with oor := satAdd32 r.oor oor }) })
  let c := clearErrors s n (getSlot s n).round.rimLost
  let s := addConv c.2 n
  let s := if c.1 then updSlot (raiseTrain s nfEfCleared) n (fun x => { x with efclrCnt := min (x.efclrCnt + 1) 0xFF }) else s
  endRun s n code (runDetail s n code)

/-! ### Draining (R148 to R150) -/

/-- The results of operations already issued reach their registers (R149). -/
def completeIssued (co : CoreSt) : CoreSt := settle { co with ac := (co.inflight.map (·.due)).foldl max co.ac }

/-- The end of a discard drain on a partition: what was issued has completed, and the tokens of context numbers are gone. A
gather that can no longer be delivered, on a core that a fenced die carried, is dropped. -/
def discardTokens (s : State) (p : Nat) (cs : List Nat) : State :=
  mapCores s p (fun _ co => { completeIssued (dropTokens cs co) with gathers := [] })

/-- A core of a partition in service still waits for a gather that was issued (R149). -/
def gathersOut (s : State) (p : Nat) : Bool :=
  (partCores (getPart s p)).any (fun k => !(getCore s k).gathers.isEmpty && clusterWhole s (coreCluster k))

/-- A partition has run empty: no token in a queue or lane, every core at a token boundary (R148). -/
def partEmpty (s : State) (p : Nat) : Bool :=
  (partCores (getPart s p)).all (fun k =>
    let co := getCore s k
    (co.boundary || co.cur.isNone) && co.queues.all (fun q => q.2.hw.isEmpty && q.2.lane.isEmpty))

/-- The partition's RUN whose own switch request a drain has cancelled asks again (R149; log entry 124). -/
def askAgain (s : State) (p : Nat) : State :=
  let pt := getPart s p
  match pt.run with
  | none => s
  | some n =>
    let own := ownCtxs s n
    if pt.mode == .folded || pt.cur.any own.contains || pt.swReq.any (fun r => r.desc.isNone)
        || pt.swWait.any (fun r => r.desc.isNone) then s
    else match own.head? with
      | none => s
      | some c => askSwitch s p { ctx := c, desc := none }

/-- What waited for the end of a drain goes on (R150). -/
def afterDrain (s : State) (p : Nat) : State := settleSwitch (askAgain (startRuns (tryLoads s p) p) p) p

/-- STALL_WATCHDOG report entries of a partition (Table 06.12): full queues, then cores stopped on an empty receive,
each in ascending core address and queue. -/
def stallEntries (s : State) (p : Nat) : List Nat :=
  let ks := ((partCores (getPart s p)).foldr insertNat [])
  let full := ks.flatMap (fun k => (getCore s k).queues.filterMap (fun q =>
    match q.2.head with
    | none => none
    | some t =>
      if decide (8 ≤ q.2.hw.length) && (match place (getCore s k) q.1 t.hdr with | .full => true | _ => false) then
        some (tokTag t.hdr * 2 ^ 28 + k * 2 ^ 16 + q.1 * 2 ^ 12 + (q.2.hw.length + q.2.lane.length))
      else none))
  let empty := ks.filterMap (fun k =>
    let co := getCore s k
    match co.stop, co.cur with
    | some (.recvEmpty q), some c =>
      some (2 ^ 31 + (4 * boolNat (getCtx co c).gen + c) * 2 ^ 28 + k * 2 ^ 16 + q * 2 ^ 12
        + ((getQueue co q).hw.length + (getQueue co q).lane.length))
    | _, _ => none)
  (full ++ empty).take 8

/-- Capture a watchdog report, or count it as missed while one is held (R145, R147). -/
def captureStall (s : State) (p : Nat) : State :=
  if s.wdog.held then { s with wdog := { s.wdog with missed := min (s.wdog.missed + 1) 0xFF } }
  else
    let es := stallEntries s p
    { s with wdog := { s.wdog with held := true, part := p, missed := 0, nent := es.length, entries := msetList 0 [] 0 es } }

/-- The watchdog's report is captured, and STALL_WATCHDOG raised for the partition (R144, R145). -/
def raiseStall (s : State) (p : Nat) : State :=
  let s := captureStall s p
  let s := { s with pipeFlags := raise s.fc s.pipeFlags pipeStallWdog }
  setPart s p { getPart s p with stalled := 0 }

/-- The partition is drained by discard, and its RUN completes with STALL_WATCHDOG (R145): at the end of the drain where a
step can be aborted or is yet to start; at once where the step's decision has fallen already (log entry 123). -/
def stallRun (s : State) (p : Nat) : State :=
  match (getPart s p).run with
  | none => cancelSwitches (setPart s p { getPart s p with drain := .discard }) p
  | some n =>
    if abortable (getSlot s n) || (getSlot s n).run.any (fun r => r.stage == .between) then stopAttempt s n true sStallWatchdog
    else endRun (cancelSwitches (setPart s p { getPart s p with drain := .discard }) p) n sStallWatchdog (runDetail s n sStallWatchdog)

/-- STALL_WATCHDOG (R144, R145): the stalled-fc count of a partition has reached WDOG_LIMIT. A partition without a full
queue, or with a cause of a deviation in progress, is not stalled. A run drain gives way to the discard drain (R150). -/
def execStallWatchdog (part : BitVec 6) (s : State) : Res :=
  let p := part.toNat
  let pt := getPart s p
  if decide (wdogLimit s ≤ pt.stalled) && hasFullQueue s pt && !partCauses s p && pt.drain != .discard then
    .next (stallRun (raiseStall s p) p)
  else .next s

/-- WDOG_STATUS as read (Table 06.11). -/
def wdogStatus (w : WdogSt) : Nat := boolNat w.held * 2 ^ 31 + w.part * 2 ^ 16 + w.missed * 2 ^ 8 + w.nent

end Sys2Proof.Machine
end

