-- ==== Sys2Proof/Machine/Gather.lean ====
section
/-! DEFINITION. The gather, scatter and index unit of even cores (R106 to R108, Table 05.9). -/

namespace Sys2Proof.Machine

/-- The 32 indices of a register as INT32 values. -/
def indices (x : Ctx) (r : Nat) : List Int := (List.range 32).map (fun l => signedVal 32 (x.lane r l))

/-- Whether an index names a row (R107). -/
def indexOk (t : Nat) (k : Int) : Bool := decide (0 ≤ k) && decide (k < tdRows t)

/-- The tier address of element e of a row, where the row is that wide. -/
def rowAddr (t row e : Nat) : Option Nat :=
  if (tdFmt t).width * (e + 1) ≤ tdStride t then some (tdBase t + tdStride t * row + (tdFmt t).width * e) else none

/-- The domain of the slot whose pattern a context holds. -/
def ctxDom (s : State) (x : Ctx) : Nat := (getSlot s (x.slot.getD 0)).dom

/-- An instruction of class GS (R84): even cores only. -/
def gsInstr (o : GsOp) (s : State) (k : Issue → Res) : Res :=
  if coreValid o.core.toNat && !coreEven o.core.toNat then .refused .rejectedAtLoad else atCore s o.core.toNat k

/-- GATHER (R106): a request joins the unit's outstanding gathers; a ninth stops the sequencer. -/
def execGather (o : GsOp) (s : State) : Res :=
  gsInstr o s (fun i =>
    let c := o.core.toNat
    if i.core.gathers.length ≥ 8 then .next (setCore s c (stopAt i.core .gatherWait))
    else
      let x := i.ctx.useDesc i.core.par o.desc.toNat 1
      let co := if i.ctx.active o.pinv o.preg.toNat 0 then
          { i.core with gathers := i.core.gathers ++
            [{ ctx := i.n, table := i.ctx.table o.table.toNat, idx := (indices i.ctx o.va.toNat).map (toTwos 32), seg := o.seg.toNat, desc := o.desc.toNat, pos := i.ctx.posOf o.desc.toNat }] }
        else i.core
      .next (setCore s c (endBundle co i.n x)))

/-- The element codes of one gathered row: zeros for an index out of range and beyond the row's width; none where a
byte of the row lies in no granule of the domain. -/
def gatherRow (s : State) (dom t seg : Nat) (k : Int) : Option (List Nat) :=
  if !indexOk t k then some (List.replicate 32 0)
  else (List.range 32).mapM (fun e =>
    match rowAddr t k.toNat (32 * seg + e) with
    | none => some 0
    | some a => if rangeValid s dom a (tdFmt t).width then some (tierNum s dom a (tdFmt t).width) else none)

/-- A table's row is wanted of a channel of a rim die out of service, so that its read fails (R219, R228). -/
def rowLost (s : State) (dom t seg : Nat) (k : Int) : Bool :=
  indexOk t k && (List.range 32).any (fun e =>
    match rowAddr t k.toNat (32 * seg + e) with
    | none => false
    | some a =>
      let d := getDom s dom
      (physOf d (taTier a) (taGidx a)).any (fun p =>
        s.tiers.fenced.contains (rimOf (taTier a) (readGranule s d (taTier a) (taGidx a) p (taOffs a)) (taOffs a))))

/-- A failed read of a buffer region by the context's slot: its attempt is reported (Table 09.4). -/
def tableFailed (s : State) (x : Ctx) : State := abortAttempt s (x.slot.getD 0) true sTierFail

/-- GATHER_DELIVERY (R106, R107): the oldest outstanding gather of the core arrives in the operand store. The codes of the
table's format are written at the element width of the operand descriptor, whatever its FMT; no rule makes the two agree
(DESIGN CHOICE, log entry 114). -/
def execGatherDelivery (core : BitVec 12) (s : State) : Res :=
  let c := core.toNat
  if !coreValid c then .refused .noSuchUnit
  else
    let co := getCore s c
    match co.gathers with
    | [] => .next s
    | g :: gs =>
      let x := getCtx co g.ctx
      let ks := g.idx.map (signedVal 32)
      match ks.mapM (gatherRow s (ctxDom s x) g.table g.seg) with
      | none => .fault .noGranule
      | some rows =>
        if ks.any (rowLost s (ctxDom s x) g.table g.seg) then
          .next (tableFailed (setCore s c { co with gathers := gs }) x)
        else
        let d := x.desc g.desc
        let tc := tileCoord d g.pos 0
        let bad := (ks.filter (fun k => !indexOk g.table k)).length
        let co := setCtx { co with gathers := gs } g.ctx { x with oor := satAdd32 x.oor bad }
        let co := (rows.zipIdx).foldl (fun co r =>
          (r.1.zipIdx).foldl (fun co v => writeElem co d tc r.2 v.2 v.1) co) co
        .next (setCore s c co)

/-- One element of a scattered row (R108): a correctly rounded FP32 read-modify-write. -/
def scatterElem (dom t row : Nat) (e code : Nat) (r : Option (State × Nat)) : Option (State × Nat) :=
  r.bind (fun sn =>
    match rowAddr t row e with
    | none => some sn
    | some a =>
      if rangeValid sn.1 dom a 4 then
        let v := fpAdd (tierNum sn.1 dom a 4) code
        some (setTierBytes sn.1 dom a (bytesLE 4 v.code), sn.2 + boolNat v.sat)
      else none)

/-- SCATTER_ADD (R108): tile row m into table row index[m], m = 0 to 31 in order. R107 states what an index outside the
table does in a gather; in a scatter it adds nothing and is counted like one of a gather (DEDUCED, log entry 13). -/
def execScatterAdd (o : GsOp) (s : State) : Res :=
  gsInstr o s (fun i =>
    let c := o.core.toNat
    let d := i.ctx.desc o.desc.toNat
    let t := i.ctx.table o.table.toNat
    if dFormat d != .fp32 || tdFmt t != .fp32 then .refused .rejectedAtLoad
    else
      let tc := tileCoord d (i.ctx.posOf o.desc.toNat) 0
      let ks := indices i.ctx o.va.toNat
      let x := i.ctx.useDesc i.core.par o.desc.toNat 1
      if !i.ctx.active o.pinv o.preg.toNat 0 then .next (setCore s c (endBundle i.core i.n x))
      else
        let dom := ctxDom s i.ctx
        if ks.any (rowLost s dom t o.seg.toNat) then .next (tableFailed (setCore s c (endBundle i.core i.n x)) i.ctx)
        else
        let r := (List.range 1024).foldl (fun r k =>
          let ix := nth 0 ks (k / 32)
          if indexOk t ix && elemValid i.core d tc (k / 32) (k % 32) then
            scatterElem dom t ix.toNat (32 * o.seg.toNat + k % 32) (readElem i.core d tc (k / 32) (k % 32)) r
          else r) (some (s, 0))
        match r with
        | none => .fault .noGranule
        | some (s', sats) =>
          let ev : Conv4 := { sat := sats }
          let bad := (ks.filter (fun k => !indexOk t k)).length
          let x := { x with conv := x.conv.add ev, oor := satAdd32 x.oor bad }
          .next (setCore (raiseConv s' c ev) c (endBundle i.core i.n x)))

/-- GWAIT (R106): the sequencer stops while a gather of the context is outstanding. -/
def execGwait (o : GsOp) (s : State) : Res :=
  gsInstr o s (fun i =>
    if i.ctx.active o.pinv o.preg.toNat 0 && i.core.gathers.any (fun g => g.ctx == i.n) then
      .next (setCore s o.core.toNat (stopAt i.core .gatherWait))
    else .next (setCore s o.core.toNat (endBundle i.core i.n i.ctx)))

/-- Write index results to lanes 0 to 31 of registers, available in the next ac, after `extra` further issue ac. -/
def indexResult (o : GsOp) (s : State) (i : Issue) (extra : Nat) (rs : List (Nat × List Int)) : Res :=
  let co := if i.ctx.active o.pinv o.preg.toNat 0 then
      rs.foldl (fun co r => pushResult co
        { due := i.core.ac + extra + 1, ctx := i.n, pred := false, reg := r.1, vals := r.2.zipIdx.map (fun v => (v.2, toTwos 32 v.1, false)) }) i.core
    else i.core
  .next (setCore s o.core.toNat (tickCore (endBundle co i.n i.ctx) extra))

/-- IMOD: each index modulo the table's row count. -/
def execImod (o : GsOp) (s : State) : Res :=
  gsInstr o s (fun i =>
    let n := tdRows (i.ctx.table o.table.toNat)
    indexResult o s i 0 [(o.vd.toNat, (indices i.ctx o.va.toNat).map (fun k =>
      if n = 0 then (Config.imodZero (toTwos 32 k)).toNat else k % (n : Int)))])

/-- IOFF: the table's row offset added to each index, with INT32 wrap. -/
def execIoff (o : GsOp) (s : State) : Res :=
  gsInstr o s (fun i =>
    indexResult o s i 0 [(o.vd.toNat, (indices i.ctx o.va.toNat).map (· + tdOffset (i.ctx.table o.table.toNat)))])

/-- Insert a value into an ascending list without repeats. -/
def insertDistinct (k : Int) : List Int → List Int
  | [] => [k]
  | x :: xs => if k < x then k :: x :: xs else if k = x then x :: xs else x :: insertDistinct k xs

/-- IUNIQ: the distinct indices ascending in VD, −1 above; each lane's position in VC; 8 issue ac. -/
def execIuniq (o : GsOp) (s : State) : Res :=
  gsInstr o s (fun i =>
    let ks := indices i.ctx o.va.toNat
    let u := ks.foldl (fun l k => insertDistinct k l) []
    indexResult o s i 7 [(o.vd.toNat, (List.range 32).map (fun l => nth (-1) u l)),
      (o.vc.toNat, ks.map (fun k => (u.idxOf k : Int)))])

end Sys2Proof.Machine
end

