-- ==== Sys2Proof/Machine/Session.lean ====
section
/-! DEFINITION. Session mailboxes, lock-outs, and resets of ports and functions (R257 to R275, R400, R416). -/

namespace Sys2Proof.Machine

/-- The device is ready (R399). -/
def deviceReady (s : State) : Bool := s.handle.stage == 6

/-- A function answers on its port: the link is up, and a VF is enabled and one of NumVFs (Table 11.1). -/
def fnLive (s : State) (k : Nat) : Bool :=
  let p := getPort s (fnPort k)
  p.up && (fnIsPf k || (p.vfEnable && decide (k % 65 ≤ p.numVfs)))

/-- A function decodes its BARs: Memory Space Enable, for a VF that of the SR-IOV capability (log entry 131). -/
def fnDecodes (s : State) (k : Nat) : Bool := if fnIsPf k then (getFn s k).cfg.mem else (getPort s (fnPort k)).vfMem

/-- A host access to a BAR reaches the function: it answers, decodes its BARs and is not in D3hot (R264). -/
def fnReach (s : State) (k : Nat) : Bool := fnLive s k && fnDecodes s k && !(getFn s k).d3hot

/-- An access of a function reaches its registers: the function exists and answers. -/
def fnWrite (f : FnAddr) (s : State) (k : Nat → Res) : Res :=
  if !fnAddrOk f then .refused .noSuchUnit
  else if !fnReach s (fnKeyOf f) then .next s
  else k (fnKeyOf f)

/-- FUNC (R270). -/
def fnFunc (k : Nat) : Nat := 0x8000 * fnPort k + k % 65

/-- MB_KEY fields (Table 11.8). -/
def keyRole (w : Nat) : Nat := bits w 31 28
def keyNo (w : Nat) : Nat := bits w 9 0

/-- Mailbox operations (Table 11.6). -/
def mbOpen : Nat := 1
def mbProve : Nat := 2
def mbClose : Nat := 3
def mbPassword : Nat := 4

/-- The lock number of the SERVICE role, and of MKEY. -/
def lockService : Nat := 1024
def lockMkey : Nat := 1025

/-- n bytes of Handle's random bit generator. -/
def drawBytes (s : State) (n : Nat) : List Byte × State :=
  ((List.range n).map (Config.randomByte s.draws), { s with draws := s.draws + 1 })

/-- A lock-out record. -/
def getLock (s : State) (k : Nat) : LockSt := mget {} s.handle.locks k
def setLock (s : State) (k : Nat) (l : LockSt) : State := updHandle s (fun h => { h with locks := mset {} h.locks k l })

/-- One more failure (R272): the fourth in a row locks for 60 s, each further one after a lock has ended for twice the
time before, up to 3,840 s; a failure while a lock is in force leaves the lock unchanged. -/
def failLock (l : LockSt) : LockSt :=
  let n := l.fails + 1
  if l.locked || decide (n < 4) then { l with fails := n }
  else { fails := n, locked := true, secs := if l.secs = 0 then 60 else min (2 * l.secs) 3840 }

/-- A success: the count returns to 0, and the next lock is one of 60 s; a lock in force goes on. -/
def passLock (l : LockSt) : LockSt := { fails := 0, locked := l.locked, secs := 0 }

/-! ### Ends of sessions -/

/-- The writable registers of a perturbation point return to their reset values (R416); its count stays. -/
def clearPoint (p : PointSt) : PointSt := { count := p.count }

/-- The PERTURB block after its owner's session has ended (R416). -/
def clearPerturb (s : State) : State :=
  let pts := (s.pert.points.map (fun p => (p.1, clearPoint p.2))).filter (fun p => p.2 != {})
  let s := { s with pert := { s.pert with
      en := false, owner := 0, ownerFn := 0, points := pts, lpEn := false, lpMode := false, lpPort := 0,
      bistOp := 0, bistKind := 0, bistTarget := 0, bistRun := false } }
  { s with tiers := { s.tiers with testing := none } }

/-- A session ends: its identifier and domain are cleared, and an owned PERTURB block returns to reset (R274, R416). -/
def endSession (s : State) (k : Nat) : State :=
  let f := getFn s k
  let s := if s.pert.en && s.pert.ownerFn == k && f.session != 0 then
      updFn (clearPerturb s) k (fun f => { f with sels := mset 0 f.sels 0xA0020 0 })
    else s
  updFn s k (fun f => { f with session := 0, role := 0, keyId := 0, domain := 0 })

/-- Every ring of a function is inactive. -/
def fnQuiet (s : State) (k : Nat) : Bool := (fnRingList s k).all (fun r => !(getRing s r).active)

/-- The slot of a RUN that still collects entries on a ring. -/
def collecting (s : State) (r : Nat) : Option Nat :=
  (s.slots.find? (fun p => p.2.run.any (fun x => x.stage == .collecting && x.ring == r))).map (·.1)

/-- A RUN that still collects entries on a ring ends as if the first missing one were no PROBLEM (log entry 132). -/
def endCollecting (s : State) (r : Nat) : State :=
  match collecting s r with
  | none => s
  | some n =>
    let left := ((getRing s r).collect.map (·.2)).getD 0
    let all := ((getSlot s n).run.map (fun x => x.problems.length)).getD 0
    endRun s n sBadProblem (all - left)

/-- A ring that fetches no more has brought its last descriptor: a RUN that waits for more entries ends (R274, R297). -/
def settleCollect (s : State) (r : Nat) : State :=
  let x := getRing s r
  if !x.enable && x.target.isNone && x.ready.isEmpty then updRing (endCollecting s r) r settleRing else s

/-- A session starts to close (R274): its rings stop fetching. -/
def closeSession (s : State) (k : Nat) : State :=
  if (getFn s k).mbState == .opened then
    let s := disableRings (updFn s k (fun f => { f with mbState := .closing })) k
    (fnRingList s k).foldl settleCollect s
  else s

/-- Sessions that a predicate picks close as by CLOSE; a PROVE or PASSWORD in progress that it picks closes the session it
opens (R407). -/
def closeWhere (s : State) (pick : FnSt → Bool) (pickCmd : MbCmd → Bool) : State :=
  s.fns.foldl (fun s p =>
    let f := getFn s p.1
    let s := if f.mbState == .opened && pick f then closeSession s p.1 else s
    if f.cmd.any pickCmd then updFn s p.1 (fun f => { f with cmd := f.cmd.map (fun c => { c with thenClose := true }) }) else s) s

/-! ### Commands (R268, R269, R271, R273, R274) -/

/-- A command ends: SEQ, RESULT and STATE in one mc, then vector 0 of the function. -/
def endMb (s : State) (k seq result : Nat) (st : MbState) : State :=
  sendMsix (updFn s k (fun f => { f with mbSeq := seq, mbResult := result, mbState := st, cmd := none })) k 0

/-- A command other than an immediate one starts: it latches what it uses, and STATE becomes BUSY. -/
def beginMb (s : State) (k op seq key : Nat) (st : MbState) : State :=
  let h := s.handle
  let lock := if op = mbPassword then lockService else keyNo key
  updFn s k (fun f =>
    { f with
      mbState := st,
      cmd := some { op := op, seq := seq, key := key, nonce := f.hostNonce, mac := f.hostMac, password := (List.range f.pwLen).map (nth 0 f.password), entry := mget {} h.keys (keyNo key), locked := (getLock s lock).locked, verifier := h.verifier } })

/-- A write of MB_CMD that is taken (R268). -/
def takeMb (s : State) (k seq op : Nat) : State :=
  let s := updFn s k (fun f => { f with mbCmd := seq * 2 ^ 24 + op })
  let f := getFn s k
  let now (code : Nat) : State := endMb s k seq code f.mbState
  if op = mbOpen then
    match f.mbState with
    | .idle => beginMb s k op seq f.mbKey .busy
    | _ => now sSessionBusy
  else if op = mbProve then
    match f.mbState with
    | .challenged => beginMb s k op seq f.chKey .busy
    | .opened => now sSessionBusy
    | _ => now sNoSession
  else if op = mbClose then
    match f.mbState with
    | .challenged => endMb (updFn s k (fun f => { f with devNonce := [], role := 0 })) k seq sSuccess .idle
    | .opened => beginMb (closeSession s k) k op seq f.mbKey .closing
    | _ => now sNoSession
  else if op = mbPassword then
    match f.mbState with
    | .idle =>
      if keyRole f.mbKey ≠ 4 ∨ fnIsPf k = false then now sBadRole
      else if f.pwLen < 8 ∨ 64 < f.pwLen then now sBadCount
      else beginMb s k op seq f.mbKey .busy
    | _ => now sSessionBusy
  else now sBadOpcode

/-- A write of MB_CMD (R268, R400): discarded before the device is ready and while a command is in progress. -/
def writeMbCmd (s : State) (k seq op : Nat) : State :=
  let x := getFn s k
  if !deviceReady s || x.cmd.isSome || x.mbState == .busy || x.mbState == .closing then s
  else takeMb s k seq op

/-- MB_CMD written by a function. -/
def mbWrite (f : FnAddr) (seq op : Nat) (s : State) : Res := fnWrite f s (fun k => .next (writeMbCmd s k seq op))

/-- OPEN (R269). -/
def execOpenMb (f : FnAddr) (seq : Byte) (s : State) : Res := mbWrite f seq.toNat mbOpen s

/-- PROVE (R271). -/
def execProveMb (f : FnAddr) (seq : Byte) (s : State) : Res := mbWrite f seq.toNat mbProve s

/-- CLOSE (R274). -/
def execCloseMb (f : FnAddr) (seq : Byte) (s : State) : Res := mbWrite f seq.toNat mbClose s

/-- PASSWORD (R273). -/
def execPasswordMb (f : FnAddr) (seq : Byte) (s : State) : Res := mbWrite f seq.toNat mbPassword s

/-- MB_CMD (R268): any value of OP. -/
def execMbCmd (f : FnAddr) (value : Word) (s : State) : Res := mbWrite f (bits value.toNat 31 24) (bits value.toNat 7 0) s

/-! ### Ends of commands -/

/-- Session identifiers in use. -/
def heldIds (s : State) : List Nat := (s.fns.map (·.2.session)).filter (· != 0)

/-- A session identifier from 1 to 0xFFFF that no session of the package holds (R271). -/
def freshId (s : State) : Nat × State :=
  let c := Config.sessionId s.draws
  let ids := heldIds s
  let i := if 1 ≤ c ∧ c ≤ 0xFFFF ∧ ids.contains c = false then c else (firstFree ids.contains 1 0xFFFF).getD 0
  (i, { s with draws := s.draws + 1 })

/-- The 70-byte message of a proof (Table 11.9). -/
def proofMessage (mark k key : Nat) (n1 n2 : List Byte) : List Byte :=
  bytesLE 1 mark ++ bytesLE 2 (fnFunc k) ++ bytesLE 2 (keyNo key) ++ bytesLE 1 (keyRole key)
    ++ (List.range 32).map (nth 0 n1) ++ (List.range 32).map (nth 0 n2)

/-- 32 bytes of an array that lists its leading bytes. -/
def array32 (bs : List Byte) : List Byte := (List.range 32).map (nth 0 bs)

/-- A failed PROVE or PASSWORD (R272): lock-out count, AUTH_FAILS, AUTH_FAIL and the event log. -/
def authFailure (s : State) (k lock keyId : Nat) : State :=
  let s := setLock s lock (failLock (getLock s lock))
  let s := updFn s k (fun f => { f with authFails := satAdd32 f.authFails 1, hostFlags := raise s.fc f.hostFlags hfAuthFail })
  logEvent s lgAuth sAuthFail 0xFF 1 (bytesLE 2 (fnFunc k) ++ bytesLE 2 keyId)

/-- A session opens (R271, R273, R356): identifier, role, domain, fresh check sets. -/
def openSession (s : State) (k seq role keyId domain : Nat) (mac : List Byte) (thenClose : Bool) : State :=
  let i := freshId s
  let s := updFn i.2 k (fun f =>
    { f with session := i.1, role := role, keyId := keyId, domain := domain, devMac := mac, chk := [], hold := f.hold.filter (fun h => decide (h.1 < 0x70000) || decide (0x72000 ≤ h.1)) })
  let s := endMb s k seq sSuccess .opened
  if thenClose then closeSession s k else s

/-- OPEN ends (R269); a challenge of a function that has entered D3hot meanwhile closes at once (R264, R274). -/
def endOpen (s : State) (k : Nat) (c : MbCmd) : State :=
  let role := keyRole c.key
  let e := c.entry
  if role = 0 ∨ 3 < role ∨ (fnIsPf k = false ∧ role ≠ 1) then endMb s k c.seq sBadRole .idle
  else if e.role ≠ role then endMb s k c.seq sAuthFail .idle
  else if c.locked then endMb s k c.seq sAuthLocked .idle
  else
    let d := drawBytes s 32
    if c.thenClose then endMb d.2 k c.seq sSuccess .idle
    else endMb (updFn d.2 k (fun f => { f with devNonce := d.1, role := role, chKey := c.key, chNonce := c.nonce })) k c.seq sSuccess .challenged

/-- PROVE ends (R271, R272). -/
def endProve (s : State) (k : Nat) (c : MbCmd) : State :=
  let f := getFn s k
  let keyId := keyNo c.key
  let role := keyRole c.key
  let e := c.entry
  let refuse (s : State) (code : Nat) : State := endMb (updFn s k (fun f => { f with devNonce := [], role := 0 })) k c.seq code .idle
  if c.locked then refuse s sAuthLocked
  else if e.role = role ∧ array32 c.mac = hmac e.key (proofMessage 1 k c.key f.devNonce f.chNonce) then
    let s := setLock s keyId (passLock (getLock s keyId))
    openSession s k c.seq role keyId (if role = 1 then e.domain else 0)
      (hmac e.key (proofMessage 2 k c.key f.chNonce f.devNonce)) c.thenClose
  else refuse (authFailure s k keyId keyId) sAuthFail

/-- The SERVICE role is held by another session. -/
def serviceHeld (s : State) (k : Nat) : Bool := s.fns.any (fun p => p.1 != k && p.2.session != 0 && p.2.role == 4)

/-- The verifier of a password: HMAC-SHA-256 keyed by the salt (Table 17.7). -/
def verify (salt password : List Byte) : List Byte := hmac salt password

/-- PASSWORD ends (R272, R273): the password words and PW_LEN are cleared in every case. -/
def endPassword (s : State) (k : Nat) (c : MbCmd) : State :=
  let s := updFn s k (fun f => { f with password := [], pwLen := 0 })
  if c.locked then endMb s k c.seq sAuthLocked .idle
  else if c.verifier.any (fun v => verify v.1 c.password == v.2) then
    let s := setLock s lockService (passLock (getLock s lockService))
    if serviceHeld s k then endMb s k c.seq sSessionBusy .idle
    else openSession s k c.seq 4 0 0 [] c.thenClose
  else endMb (authFailure s k lockService 0) k c.seq sAuthFail .idle

/-- MB_COMMAND_END (R268, R274): the command in progress ends; a session that closes ends once every descriptor its
rings fetched has completed. -/
def execMbCommandEnd (f : FnAddr) (s : State) : Res :=
  if !fnAddrOk f then .refused .noSuchUnit
  else
    let k := fnKeyOf f
    let x := getFn s k
    if !handleUp s then .next s
    else match x.mbState, x.cmd with
    | .closing, c =>
      if !fnQuiet s k then .next s
      else
        let s := endSession s k
        match c with
        | some c => .next (endMb s k c.seq sSuccess .idle)
        | none => .next (updFn s k (fun f => { f with mbState := .idle }))
    | _, none => .next s
    | _, some c =>
      if c.op = mbOpen then .next (endOpen s k c)
      else if c.op = mbProve then .next (endProve s k c)
      else .next (endPassword s k c)

/-- AUTH_EXPIRED (R271): a challenge that has taken no PROVE for 16,777,216 mc. -/
def execAuthExpired (f : FnAddr) (s : State) : Res :=
  if !fnAddrOk f then .refused .noSuchUnit
  else
    let k := fnKeyOf f
    if (getFn s k).mbState != .challenged then .next s
    else .next (sendMsix (updFn s k (fun f => { f with mbState := .idle, mbResult := sAuthExpired, devNonce := [], role := 0 })) k 0)

/-- LOCK_EXPIRY (R272): the lock of a key entry, of the SERVICE role (1024) or of MKEY (1025) ends. -/
def execLockExpiry (key : BitVec 11) (s : State) : Res :=
  .next (setLock s key.toNat { getLock s key.toNat with locked := false })

/-- Whether a PF holds a session of role OPERATOR, TEST or SERVICE (R432). -/
def operatorSession (s : State) (k : Nat) : Bool :=
  fnIsPf k && sessionHeld (getFn s k) && decide (2 ≤ (getFn s k).role)

/-! ### Resets (R261, R262, R264, R416, R436) -/

/-- A ring of a reset function: accepted descriptors stay, without an owner to complete to (R262). -/
def orphanRing (x : RingSt) : RingSt :=
  { open_ := x.open_.map (fun d => { d with orphan := true }), finished := x.finished, nextId := x.nextId }

/-- A ring is reset: a RUN that still collects its entries ends, since no more are fetched. -/
def resetRing (s : State) (r : Nat) : State := updRing (endCollecting s r) r orphanRing

/-- A function after a reset (R261, R436): the HOST and SESSION views, selects, snapshots, holding registers and shadow
at their reset values; AUTH_FAILS and the check sets with their flags stay. -/
def resetFnSt (k : Nat) (keepRings : Bool) (f : FnSt) : FnSt :=
  let d := fnDefault k
  { d with
    authFails := f.authFails,
    chk := f.chk,
    chkFlags := f.chkFlags,
    ringFirst := if keepRings then f.ringFirst else d.ringFirst,
    ringCount := if keepRings then f.ringCount else d.ringCount }

/-- Reset one function. -/
def resetFn (s : State) (k : Nat) (keepRings : Bool) : State :=
  let rs := fnRingList s k
  let s := rs.foldl resetRing s
  let s := updFn (endSession s k) k (resetFnSt k keepRings)
  s.slots.foldl (fun s p =>
    if p.2.hostWait && p.2.run.any (fun r => r.fn == k) then abortAttempt s p.1 true sHostTimeout else s) s

/-- Reset the PF and every VF of a port, and the SR-IOV capability. -/
def resetPort (s : State) (p : Nat) : State :=
  let s := (List.range 65).foldl (fun s n => resetFn s (fnKey p n) false) s
  setPort s p { getPort s p with vfEnable := false, vfMem := false, numVfs := 0, vfBar0 := 0, vfBar2 := 0 }

/-- The other port's link is up. -/
def otherUp (s : State) (p : Nat) : Bool := (getPort s (1 - p)).up

/-- PORT_RESET (R261, R263): PERST#, a Surprise Down or a Hot Reset. The loss of the link by a Surprise Down, that of its
reference clock among them (R451), is a fault of class HOST, covered while the other port's link is up (Table 16.1). -/
def execPortReset (port : BitVec 1) (kind : PortResetKind) (s : State) : Res :=
  let p := port.toNat
  let s := resetPort s p
  match kind with
  | .perst => .next (setPort s p { getPort s p with perst := true, up := false })
  | .hotReset => .next s
  | .surpriseDown =>
    let die := 0x38 + p
    .next (setPort (if otherUp s p then recordFault s fcHost dtHostLink sFaultCovered die
      else recordFault s fcUncovered dtHostLink sFaultUncovered die) p { getPort s p with up := false })

/-- PERST_RELEASE (R446): the port trains at the later of the release and the end of boot stage 2. -/
def execPerstRelease (port : BitVec 1) (s : State) : Res :=
  let p := port.toNat
  let train := !s.power.coldReset && s.power.on && decide (2 < s.handle.stage) && !isFenced s (0x38 + p)
  let s := setPort s p { getPort s p with perst := false, up := train }
  .next (if train && !s.clock.pcieLock.contains p then { s with clock := { s.clock with pcieLock := s.clock.pcieLock ++ [p] } } else s)

/-- FUNCTION_LEVEL_RESET (R261). -/
def execFunctionLevelReset (f : FnAddr) (s : State) : Res :=
  if !fnAddrOk f then .refused .noSuchUnit
  else if fnIsPf (fnKeyOf f) then .next (resetPort s f.port.toNat)
  else .next (resetFn s (fnKeyOf f) true)

/-- The identifier of a session that still closes is cleared; what its rings fetched is decided under its role and domain until
it has closed (log entry 134). -/
def dropSession (s : State) (k : Nat) : State :=
  let f := getFn s k
  let t := endSession s k
  updFn t k (fun g => { g with role := f.role, keyId := f.keyId, domain := f.domain })

/-- D3HOT (R264): entering closes the session as by CLOSE; a mailbox command in progress ends as usual (R268), and what it opens
closes. On its return to D0 the function has no session, though its fetched descriptors may still complete. -/
def execD3hot (f : FnAddr) (enter : Bool) (s : State) : Res :=
  if !fnAddrOk f then .refused .noSuchUnit
  else
    let k := fnKeyOf f
    let s := updFn s k (fun f => { f with d3hot := enter })
    if !enter then .next (match (getFn s k).mbState with | .closing => dropSession s k | _ => s)
    else
      let f := getFn s k
      match f.mbState with
      | .opened => .next (closeSession s k)
      | .closing => .next s
      | .busy => .next (updFn s k (fun f => { f with cmd := f.cmd.map (fun c => { c with thenClose := true }) }))
      | _ => .next (updFn s k (fun f => { f with mbState := .idle, devNonce := [], role := 0 }))

end Sys2Proof.Machine
end

