-- ==== Sys2Proof/Machine/Rings.lean ====
section
/-! DEFINITION. Ring set-up, doorbell polls, descriptor fetches and completions (R275 to R284, R294 to R299). -/

namespace Sys2Proof.Machine

/-! ### Ring set-up -/

/-- Whether a ring is enabled or active. -/
def ringLive (x : RingSt) : Bool := x.enable || x.active

/-- A ring that is enabled starts from index 0 and phase 1 (R278). -/
def startRing (x : RingSt) : RingSt :=
  { x with enable := true, active := true, fetch := 0, target := none, cidx := 0, phase := true, written := 0, unsig := 0 }

/-- A write of RING_CTL through a function's RING_SEL (R275, R277, R297). What is discarded while ACTIVE = 1 is an enable, a
write that takes ENABLE from 0 to 1; on an enabled ring a write of ENABLE = 1 sets the other fields (log entry 133). -/
def writeRingCtl (s : State) (k : Nat) (enable : Bool) (v : Nat) : State :=
  let r := (getFn s k).ringSel
  if !ownsRing s k r then s
  else
    let x := getRing s r
    let size := bits v 29 26
    let rises := enable && !x.enable
    if (ringLive x && size != x.size) || (rises && (x.active || decide (11 ≤ size))) then raiseRing s k rfCfgErr
    else if rises && (getFn s k).mbState != .opened then raiseHost s k hfNoSession
    else
      let x := { x with size := size, modCnt := bits v 25 19, modTime := bits v 18 11, vector := bits v 10 0 }
      settleCollect (setRing s r (if rises then startRing x else if enable then x else if x.enable then disableRing (readSize s (fnPort k)) x else x)) r

/-- RING_ENABLE (R275, R278): RING_CTL written with ENABLE = 1; `value` is the rest of the word. -/
def execRingEnable (f : FnAddr) (value : BitVec 31) (s : State) : Res :=
  fnWrite f s (fun k => .next (writeRingCtl s k true value.toNat))

/-- RING_DISABLE (R297): RING_CTL written with ENABLE = 0. -/
def execRingDisable (f : FnAddr) (value : BitVec 31) (s : State) : Res :=
  fnWrite f s (fun k => .next (writeRingCtl s k false value.toNat))

/-- Whether two ranges of rings meet. -/
def rangesMeet (f c g d : Nat) : Bool := decide (0 < c) && decide (0 < d) && decide (f < g + d) && decide (g < f + c)

/-- A write of FN_RINGS for the function in FN_SEL (R276, R277). -/
def writeFnRings (s : State) (k v : Nat) : State :=
  let sel := (getFn s k).fnSel
  if !fnIsPf k || decide (64 < sel) then s
  else
    let p := fnPort k
    let t := fnKey p sel
    let first := bits v 12 0
    let count := bits v 31 18
    let old := getFn s t
    let within (f c i : Nat) : Bool := decide (f ≤ i) && decide (i < f + c)
    let overlap := (List.range 65).any (fun n => n != sel && (let o := getFn s (fnKey p n)
      rangesMeet first count o.ringFirst o.ringCount))
    let live := s.rings.any (fun r => r.1 / 8192 == p && ringLive r.2
      && within old.ringFirst old.ringCount (r.1 % 8192) != within first count (r.1 % 8192))
    if decide (8192 < first + count) || overlap || live then raiseRing s k rfCfgErr
    else updFn s t (fun f => { f with ringFirst := first, ringCount := count })

/-- FN_RINGS (R276, R277). -/
def execFnRings (f : FnAddr) (value : Word) (s : State) : Res :=
  fnWrite f s (fun k => .next (writeFnRings s k value.toNat))

/-! ### Polls and fetches -/

/-- The host address of a ring's doorbell word (Table 12.1): the k-th ring of the function lies at 0x1000 + 4 · k. -/
def doorbellAddr (f : FnSt) (r : Nat) : Nat := (f.dbBase + 0x1000 + 4 * (r % 8192 - f.ringFirst)) % 2 ^ 64

/-- The doorbell word at a host address, where a poll read it. -/
def doorbellWord (words : List (DWord × List Word)) (a : Nat) : Option Word :=
  words.findSome? (fun w =>
    if decide (w.1.toNat ≤ a) && (a - w.1.toNat) % 4 == 0 then w.2[(a - w.1.toNat) / 4]? else none)

/-- The doorbell word of one ring in a poll (R283): a TAIL not below the ring size is ignored, another TAIL starts a
fetch. The flag tells whether DB_ERR is raised. -/
def pollRing (f : FnSt) (words : List (DWord × List Word)) (a : Bool × State) (r : Nat) : Bool × State :=
  match doorbellWord words (doorbellAddr f r) with
  | none => a
  | some w =>
    let tail := w.toNat % 2 ^ 16
    let x := getRing a.2 r
    if ringSize x ≤ tail then (true, a.2)
    else if tail ≠ x.fetch ∧ x.target = none then (a.1, setRing a.2 r { x with target := some tail })
    else a

/-- Rings that a poll looks at: flagged in level 0 and level 1, owned by the function and enabled. -/
def polledRings (s : State) (k : Nat) (r : PollRead) : List Nat :=
  r.level1.flatMap (fun w =>
    if bit r.level0.toNat w.1.toNat then
      ((List.range 64).filter (bit w.2.toNat)).map (64 * w.1.toNat + ·)
    else []) |>.filter (fun q => ownsRing s k q && (getRing s q).enable)

/-- DOORBELL_POLL (R283): one poll of a function's doorbell area, with what the device read there. A function that is no bus
master reads nothing (log entry 131). -/
def execDoorbellPoll (f : FnAddr) (r : PollRead) (s : State) : Res :=
  fnWrite f s (fun k =>
    let f := getFn s k
    if !f.pollEn || !f.cfg.master || r.base.toNat != f.dbBase then .next s
    else
      let a := (polledRings s k r).foldl (pollRing f r.words) (false, s)
      .next (if a.1 then raiseRing a.2 k rfDbErr else a.2))

/-- The host address of the descriptor at a ring's fetch index (R278). -/
def fetchAddr (x : RingSt) : Nat := (x.sq + 64 * x.fetch) % 2 ^ 64

/-- DESCRIPTOR_FETCH (R278, R284): the read of a fetch at an address returns descriptors; the fetch ends when its index reaches
the TAIL it was started with. -/
def execDescriptorFetch (ring : BitVec 14) (o : FetchRead) (s : State) : Res :=
  let r := ring.toNat
  let x := getRing s r
  let n := o.descs.length
  if n = 0 ∨ fetchRoom (readSize s (r / 8192)) x < n ∨ o.addr.toNat ≠ fetchAddr x ∨ !(fnOfRing s r).any (fun k => (getFn s k).cfg.master) then .next s
  else
    let tl := (x.fetch + n) % ringSize x
    let got := o.descs.zipIdx.map (fun d => (x.fetch + d.2, d.1.toNat))
    .next (setRing s r { x with fetch := tl, target := if x.target = some tl then none else x.target, ready := x.ready ++ got })

/-! ### Completions (R294 to R296) -/

/-- Opcode of a descriptor. -/
def dOpcode (raw : Nat) : Nat := dfld raw 0 1

/-- A completion entry (Table 12.6). -/
def completionEntry (d : DescSt) (head : Nat) (phase : Bool) : List Byte :=
  bytesLE 4 (dfld d.raw 4 4) ++ bytesLE 2 d.idx ++ bytesLE 2 head ++ bytesLE 4 d.detail
    ++ bytesLE 1 (d.status.getD 0) ++ bytesLE 1 (dOpcode d.raw) ++ [0] ++ bytesLE 1 (128 * boolNat phase)

/-- Signal the completions not yet signalled: moderation word, then the vector (R296). -/
def signalRing (s : State) (r : Nat) : State :=
  let x := getRing s r
  let s := setRing s r { x with unsig := 0 }
  let s := { s with out := s.out ++ [.hostWrite (r / 8192) (x.cq + 16 * ringSize x) (bytesLE 8 (x.written % 2 ^ 32))] }
  match fnOfRing s r with
  | none => s
  | some k => sendMsix s k x.vector

/-- A FENCE ends once it is the oldest descriptor of its ring (R287). -/
def settleFence (s : State) (r : Nat) : State :=
  match (getRing s r).open_.filter (fun d => !d.orphan) with
  | [d] => if dOpcode d.raw = 0x0B ∧ d.status = none ∧ d.ofRun = none then finishDesc s r d.id sSuccess 0 else s
  | _ => s

/-- Write the completion of a descriptor of a ring still owned: report, entry, and the interrupt where it is due. -/
def writeCompletion (s : State) (r : Nat) (d : DescSt) : State :=
  let x := getRing s r
  let p := r / 8192
  let rep : List Output := match d.report with | some q => [.hostWrite p q.1 q.2] | none => []
  let entry : Output := .hostWrite p (x.cq + 16 * x.cidx) (completionEntry d x.fetch x.phase)
  let s := { s with out := s.out ++ rep ++ [entry] }
  let last : Bool := x.cidx + 1 == ringSize x
  let x := { x with cidx := if last then 0 else x.cidx + 1, phase := if last then !x.phase else x.phase, written := x.written + 1, unsig := x.unsig + 1 }
  let s := setRing s r x
  if bit d.raw 8 || d.status != some 0 || decide (max x.modCnt 1 ≤ x.unsig) then signalRing s r else s

/-- The completion of a descriptor whose function was reset is discarded and counted (R262). -/
def dropCompletion (s : State) (r : Nat) : State :=
  let p := r / 8192
  let s := setPort s p { getPort s p with cplDrop := satAdd32 (getPort s p).cplDrop 1 }
  raiseHost s (fnKey p 0) hfCplDrop

/-- A copy that read a bank has completed: the bank is held no longer (R186). -/
def endCopy (s : State) (r id : Nat) : State :=
  let mine (c : Nat × Nat × Nat) : Bool := c.1 == r && c.2.1 == id
  { s with slots := s.slots.map (fun p =>
      if p.2.copies.any mine then (p.1, { p.2 with copies := p.2.copies.filter (fun c => !mine c) }) else p) }

/-- DESCRIPTOR_COMPLETE (R294, R295): the next completion of a ring, in the order in which outcomes were fixed. -/
def execDescriptorComplete (ring : BitVec 14) (s : State) : Res :=
  let r := ring.toNat
  let x := getRing s r
  match x.finished with
  | [] => .next s
  | id :: ids =>
    match x.open_.find? (fun d => d.id == id) with
    | none => .next (setRing s r { x with finished := ids })
    | some d =>
      let t := endCopy (setRing s r { x with finished := ids, open_ := x.open_.filter (fun d => d.id != id) }) r id
      if !d.orphan && !(fnOfRing s r).all (fun k => (getFn s k).cfg.master) then .next s
      else
      let s := if d.orphan then dropCompletion t r else writeCompletion t r d
      .next (updRing (settleFence s r) r settleRing)

/-- MODERATION_TIMER (R296): MOD_TIME has passed since the oldest unsignalled completion. -/
def execModerationTimer (ring : BitVec 14) (s : State) : Res :=
  let x := getRing s ring.toNat
  if x.modTime = 0 ∨ x.unsig = 0 ∨ !(fnOfRing s ring.toNat).all (fun k => (getFn s k).cfg.master) then .next s else .next (signalRing s ring.toNat)

end Sys2Proof.Machine
end

