-- ==== Sys2Proof/Machine/Arb.lean ====
section
/-! DEFINITION. Arbiters (R357 to R364). -/

namespace Sys2Proof.Machine

/-- Key of an arbiter: class and index (Table 15.8). -/
def arbKey (cls index : Nat) : Nat := 4096 * cls + index

/-- Arbiters of a class, and requester inputs of each (Table 15.6). -/
def arbCount (cls : Nat) : Nat := nth 0 [512, 64, 384, 48] cls
def arbInputs (cls : Nat) : Nat := nth 0 [8, 8, 16, 8] cls

/-- Whether a key names an arbiter. -/
def arbValid (key : Nat) : Bool := decide (key % 4096 < arbCount (key / 4096))

/-- An arbiter. -/
def getArb (s : State) (key : Nat) : ArbSt := mget {} s.arbs key

/-- Write an arbiter. -/
def setArb (s : State) (key : Nat) (a : ArbSt) : State := { s with arbs := mset {} s.arbs key a }

/-- Whether an arbiter is frozen (R361), and drained; a blocked fc freezes but does not drain (R420). -/
def arbFrozen (a : ArbSt) : Bool := a.swFreeze || a.fmFreeze
def arbDrained (a : ArbSt) : Bool := arbFrozen a && !a.busy

/-- The inputs in cyclic order from p. -/
def cyclic (n p : Nat) : List Nat := (List.range n).map (fun j => (p + j) % n)

/-- Park the requests not granted, in order, while entries are free; the rest are refused. -/
def parkAll (a : ArbSt) (rs : List Nat) : ArbSt :=
  rs.foldl (fun a r =>
    if a.queue.length < 8 then { a with queue := a.queue ++ [r], parked := satAdd32 a.parked 1 }
    else { a with refused := satAdd32 a.refused 1 }) a

/-- A grant to an input: counter, pointer, transfer in progress. -/
def grantTo (n fc i : Nat) (a : ArbSt) : ArbSt :=
  { a with lastGrant := some (i, fc), busy := true, grants := satAdd64 a.grants 1, ptr := (i + 1) % n }

/-- The decision of one fc (R358). `stopped`: frozen, blocked, or still serving a grant. -/
def arbitrate (n fc : Nat) (stopped serving : Bool) (reqs : List Nat) (a : ArbSt) : ArbSt :=
  let fen := reqs.filter (bit a.fenced)
  let rs := (cyclic n a.ptr).filter (fun i => reqs.contains i && !bit a.fenced i && !a.queue.contains i)
  let a := { a with lastGrant := none, busy := serving, refused := satAdd32 a.refused fen.eraseDups.length }
  if stopped then parkAll a rs
  else match a.queue, rs with
    | h :: q, rs => parkAll (grantTo n fc h { a with queue := q }) rs
    | [], r :: rs => parkAll (grantTo n fc r a) rs
    | [], [] => a

/-- The slots whose steps wait here (R238): those of requests presented in this fc, until the arbiter grants them. -/
def noteOwners (reqs : List Nat) (slots : List (Nat × Nat)) (a : ArbSt) : ArbSt :=
  let o := (slots.filter (fun p => reqs.contains p.1)).foldl (fun o p => mset 0 o p.1 (p.2 + 1)) a.owner
  { a with owner := match a.lastGrant with | some g => mset 0 o g.1 0 | none => o }

/-- ARBITRATION (R358, R360): one fc of an arbiter with the requests presented in it. `serving` says that the transfer of
an earlier grant still occupies the resource. -/
def execArbitration (o : ArbOp) (s : State) : Res :=
  let key := arbKey o.cls.toNat o.index.toNat
  if !arbValid key then .refused .noSuchUnit
  else
    let n := arbInputs o.cls.toNat
    let a := getArb s key
    let reqs := (o.reqs.map (·.toNat)).filter (fun i => decide (i < n))
    .next (setArb s key (noteOwners reqs (o.slots.map (fun p => (p.1.toNat, p.2.toNat)))
      (arbitrate n s.fc (arbFrozen a || arbBlocked s key || o.serving) o.serving reqs a)))

/-- A grant becomes a dead slot (R359). -/
def deadSlot (a : ArbSt) : ArbSt :=
  { a with lastGrant := none, busy := false, grants := a.grants - 1, dead := satAdd32 a.dead 1 }

/-- Whether the grant of this fc went to an input. -/
def grantedNow (a : ArbSt) (fc i : Nat) : Bool := a.lastGrant == some (i, fc)

/-- WITHDRAW (R358, R359): a parked entry is removed; a request granted in this fc leaves a dead slot. -/
def execWithdraw (cls : BitVec 4) (index : BitVec 12) (input : BitVec 4) (s : State) : Res :=
  let key := arbKey cls.toNat index.toNat
  if !arbValid key then .refused .noSuchUnit
  else
    let a := getArb s key
    let i := input.toNat
    if a.queue.contains i then .next (setArb s key { a with queue := a.queue.filter (· != i), owner := mset 0 a.owner i 0 })
    else if grantedNow a s.fc i then .next (setArb s key (deadSlot a))
    else .next s

/-- A requester fence on an input (R363). -/
def fenceInput (s : State) (key i : Nat) : State :=
  let a := getArb s key
  let a := if grantedNow a s.fc i then deadSlot a else a
  setArb s key { a with queue := a.queue.filter (· != i), owner := mset 0 a.owner i 0, fenced := if bit a.fenced i then a.fenced else a.fenced + 2 ^ i }

/-- ARB_STATUS (Table 15.10). -/
def arbStatus (s : State) (key : Nat) : Nat :=
  let a := getArb s key
  boolNat (arbFrozen a) * 2 ^ 31 + boolNat a.fmFreeze * 2 ^ 30 + boolNat (arbDrained a && !arbBlocked s key) * 2 ^ 29
    + a.fenced % 2 ^ 16 * 2 ^ 8 + a.ptr * 2 ^ 4 + a.queue.length

end Sys2Proof.Machine
end

