-- ==== Sys2Proof/Machine/Handle.lean ====
section
/-! DEFINITION. The Handle pair: boot, latch, takeover, live update, sensors and supervision (R233 to R236, R251 to R254,
R391 to R404, R410 to R412, R444 to R457). -/

namespace Sys2Proof.Machine

/-- Bits of HANDLE_FLAGS (Table 17.16). -/
def mfStandbyLost : Nat := 0
def mfImgFallback : Nat := 1
def mfTakeover : Nat := 2

def raiseHandle (s : State) (b : Nat) : State := updHandle s (fun h => { h with flags := raise s.fc h.flags b })

/-- Write a Handle die. -/
def setDie (s : State) (d : Nat) (x : HandleDie) : State := updHandle s (fun h => { h with dies := mset {} h.dies d x })

/-- Change the role of a Handle die. -/
def setRole (s : State) (d : Nat) (r : DieRole) : State := setDie s d { getDie s d with role := r }

/-- The other Handle die. -/
def otherDie (d : Nat) : Nat := 1 - d

/-- The active die, where one is active. -/
def activeDie (s : State) : Option Nat := s.handle.latch.bind (fun d => if (getDie s d).role = .active then some d else none)

/-- STANDBY_OK (Table 17.10). -/
def standbyOk (s : State) : Bool := (activeDie s).any (fun d => (getDie s (otherDie d)).role == .standby)

/-! ### Images (R396 to R398) -/

/-- The image in a flash slot of a die. -/
def imageAt (s : State) (d slot : Nat) : ImageSt :=
  match (getDie s d).images.find? (fun p => p.1 == slot) with
  | some p => p.2
  | none => { version := Config.factoryImage d slot 0 % 2 ^ 32, svn := Config.factoryImage d slot 1 % 2 ^ 32,
              stateMin := Config.factoryImage d slot 2 % 2 ^ 16, stateVer := Config.factoryImage d slot 3 % 2 ^ 16, ok := true }

/-- The boot ROM accepts an image (R397). -/
def romAccepts (x : HandleDie) (i : ImageSt) : Bool := i.ok && decide (x.minSvn ≤ i.svn)

/-- The slot that BOOTSEL names: that of the copy with the higher GEN (R396). -/
def bootSlot (x : HandleDie) : Nat :=
  let a := nth (0, 0) x.bootsel 0
  let b := nth (0, 0) x.bootsel 1
  if b.2 ≤ a.2 then a.1 else b.1

/-- A die boots into a role: the slot that BOOTSEL names, the other one where that fails, or not at all (R397). -/
def bootDie (s : State) (d : Nat) (r : DieRole) : State :=
  let x := getDie s d
  let k := bootSlot x
  if romAccepts x (imageAt s d k) then setDie s d { x with role := r, slot := k }
  else if romAccepts x (imageAt s d (1 - k)) then
    logEvent (raiseHandle (setDie s d { x with role := r, slot := 1 - k }) mfImgFallback) lgFirmware 0 (0x3A + d) 1 []
  else setDie s d { x with role := .off }

/-- Image of a running die. -/
def runningImage (s : State) (d : Nat) : ImageSt := imageAt s d (getDie s d).slot

/-- The format condition of R398 between a standby's and the active die's image. -/
def formatsMeet (standby active : ImageSt) : Bool :=
  decide (standby.stateMin ≤ active.stateVer) && decide (active.stateVer ≤ standby.stateVer)

/-- A new BOOTSEL copy, with GEN one above the other, takes the place of the older one (R396). -/
def writeBootsel (x : HandleDie) (slot : Nat) : HandleDie :=
  let a := nth (0, 0) x.bootsel 0
  let b := nth (0, 0) x.bootsel 1
  { x with bootsel := if b.2 ≤ a.2 then [a, (slot, a.2 + 1)] else [(slot, b.2 + 1), b] }

/-! ### Cold reset, power and boot (R254, R399, R400, R444 to R448) -/

/-- The fence table: what this package holds of fences and substitutions, with what an earlier boot recorded until this one has
re-applied it (R15). -/
def fenceTable (s : State) : FenceTab :=
  let f := s.fault
  let live : FenceTab := { fenced := f.fenced, spareFor := f.spareFor, unserved := f.unserved, latched := f.powering ++ f.latched, bridges := f.bridges, rims := s.tiers.fenced }
  if s.handle.applied then live
  else
    let t := s.handle.fences
    let both (a b : List Nat) : List Nat := a ++ b.filter (fun x => !a.contains x)
    { fenced := both t.fenced live.fenced,
      spareFor := t.spareFor.foldl (fun m p => if mget 0 m p.1 = 0 then mset 0 m p.1 p.2 else m) live.spareFor,
      unserved := both t.unserved live.unserved, latched := both t.latched live.latched, bridges := both t.bridges live.bridges,
      rims := both t.rims live.rims }

/-- What the flashes keep of Handle: BOOTSEL and images, provisioning store with the fence table, event log (Table 17.1). -/
def flashOf (h : HandleSt) (t : FenceTab) : HandleSt :=
  { fences := t, keys := h.keys, verifier := h.verifier, mkey := h.mkey, board := h.board, cert := h.cert, log := h.log,
    nextSeq := h.nextSeq, boots := h.boots,
    dies := (h.dies.map (fun p => (p.1, { p.2 with role := DieRole.off, slot := 0 }))).filter (fun p => p.2 != {}) }

/-- The state after every volatile part is lost: the flashes with their fence table stay (R15, R220, R389, R445), of which the
retired granules stand where the tiers hold them, and the PERST# lands are as the board drives them. -/
def coldState (s : State) : State :=
  { State.reset with
    pending := s.pending,
    handle := flashOf s.handle (fenceTable s),
    tiers := { hbmGran := s.tiers.hbmGran.filter (fun g => g.2 == .retired), lpGran := s.tiers.lpGran.filter (fun g => g.2 == .retired) },
    ports := (s.ports.map (fun p => (p.1, ({ perst := p.2.perst } : HostPort)))).filter (fun p => p.2 != {}),
    draws := s.draws,
    out := s.out }

/-- A protective shutdown has happened since power-up (R455). -/
def shutDown (s : State) : Bool := s.power.thermTrip || s.power.pwrFault

/-- COLD_RESET (R445): COLD_RST_N is asserted with main power present. After a protective shutdown it changes nothing: the lands stay
asserted, and Handle keeps answering until power is removed (R455, R457). -/
def execColdReset (s : State) : Res :=
  if !s.power.on || shutDown s then .next s
  else .next { coldState s with power := { s.power with coldReset := true } }

/-- POWER_LOSS (R448): main power is gone, and with it everything but the flashes. -/
def execPowerLoss (s : State) : Res :=
  .next { coldState s with power := { on := false } }

/-- COLD_RESET_RELEASE (R445, R456): every rail is within tolerance; the configuration lands are sampled. After a
protective shutdown only a power-up starts the device. -/
def execColdResetRelease (busSel ownN testN : Bool) (s : State) : Res :=
  if !s.power.coldReset || shutDown s then .next s
  else
    let s := updHandle s (fun h => { h with busSel := busSel, ownN := ownN, testN := testN })
    .next { s with power := { s.power with on := true, coldReset := false } }

/-- ROOT_LOCK (R254, R399): the counters start at 0 and boot stage 1 begins on both dies. -/
def execRootLock (s : State) : Res :=
  if s.rootLock || s.power.coldReset || !s.power.on || shutDown s then .next s
  else
    let s := updHandle { s with rootLock := true, fc := 0 } (fun h => { h with stage := 1, boots := h.boots + 1 })
    .next (bootDie (bootDie s 0 .starting) 1 .starting)

/-- LATCH_DECISION (R392): H0 takes the latch if its first heartbeat came in time, otherwise H1. A die that did not start
leaves the latch to the other. -/
def execLatchDecision (h0 : Bool) (s : State) : Res :=
  if s.handle.stage ≠ 2 ∨ s.handle.latch ≠ none then .next s
  else
    let up (d : Nat) : Bool := (getDie s d).role == .starting
    let pick := if h0 && up 0 then some 0 else if up 1 then some 1 else none
    match pick with
    | none => .next s
    | some d =>
      let s := setRole (updHandle s (fun h => { h with latch := some d })) d .active
      if up (otherDie d) then .next s
      else .next (raiseHandle (setRole s (otherDie d) .lost) mfStandbyLost)

/-- SITE_MAP is measured: at boot, at a takeover and at a substitution (Table 17.8). -/
def measureSites (s : State) : State := updHandle s (fun h => { h with measSites := (List.range 4).map (siteMap s.fault) })

/-- The standby image is measured: when the standby synchronises, and as none when it is lost. -/
def measureStandby (s : State) (i : Option ImageSt) : State := updHandle s (fun h => { h with measStandby := i })

/-- A port whose PERST# is released starts training; its PHY PLL locks. -/
def trainPort (s : State) (p : Nat) : State :=
  if (getPort s p).perst || (fenceTable s).fenced.contains (0x38 + p) then s
  else
    let s := setPort s p { getPort s p with up := true }
    { s with clock := { s.clock with pcieLock := if s.clock.pcieLock.contains p then s.clock.pcieLock else insertNat p s.clock.pcieLock } }

/-- The spare die of a kind: key 2 · quadrant + (0 DD, 1 ED). -/
def spareDie (k : Nat) : Nat := 12 * (k / 2) + (if k % 2 = 1 then 11 else 8)

/-- The fence table is re-applied at boot (R15, R399 stage 4): fenced dies stay gated, and the spares that serve a position and
are not fenced themselves are powered and loaded. -/
def reapplyFences (s : State) : State :=
  let t := fenceTable s
  updHandle
    { s with
      fault := { s.fault with
        fenced := t.fenced, spareFor := t.spareFor, unserved := t.unserved, latched := t.latched, powering := [], bridges := t.bridges,
        spareOn := (t.spareFor.filter (fun p => !t.fenced.contains (spareDie p.1))).map (fun p => (p.1, true)) },
      tiers := { s.tiers with fenced := t.rims } }
    (fun h => { h with fences := t, applied := true })

/-- BOOT_STAGE_END (R399): stages 1 to 4. Stage 1 lasts for ever with TEST_MODE_N low; stage 2 ends with the latch
decided. -/
def execBootStageEnd (s : State) : Res :=
  let stageTo (s : State) (n : Nat) : State := updHandle s (fun h => { h with stage := n })
  match s.handle.stage with
  | 1 => if s.handle.testN && [0, 1].any (fun d => (getDie s d).role == .starting) then .next (stageTo s 2) else .next s
  | 2 => if s.handle.latch.isSome then .next (trainPort (trainPort (stageTo s 3) 0) 1) else .next s
  | 3 => .next { stageTo s 4 with clock := { s.clock with memLock := true, serdesLock := true, idle := Config.idlePower s.handle.boots } }
  | 4 => .next (measureSites (reapplyFences (stageTo s 5)))
  | _ => .next s

/-- READY (R209, R399, R400): boot stage 5 has zeroed every granule that is not retired; the device is ready. -/
def execReady (s : State) : Res :=
  if s.handle.stage ≠ 5 then .next s
  else
    let s := updHandle s (fun h => { h with stage := 6 })
    .next { s with tiers := { s.tiers with zeroed := true } }

/-! ### The pair (R391 to R394, R410 to R412) -/

/-- The other die is lost as standby: STANDBY_LOST, and an update that needs it fails. -/
def loseStandby (s : State) (d : Nat) : State :=
  let s := raiseHandle (setRole s d .lost) mfStandbyLost
  updHandle (measureStandby s none) (fun h => { h with update := none, handover := false })

/-- A die runs the image of the update in progress. -/
def runsUpdate (s : State) (d : Nat) : Bool := s.handle.update.any (fun u => u.done.contains d)

/-- An update ends: with success each die raises its minimum SVN (R412). -/
def endUpdate (s : State) (success : Bool) : State :=
  match s.handle.update with
  | none => s
  | some u =>
    let lift (s : State) (d : Nat) : State := setDie s d { getDie s d with minSvn := max (getDie s d).minSvn u.image.svn }
    let s := if success then lift (lift s 0) 1 else s
    let s := updHandle s (fun h => { h with update := none })
    logEvent s lgFirmware 0 0xFF (if success then 0 else 1) []

/-- STANDBY_SYNC (R393, R398, R410, R411): a die that started or rebooted has received the protected state. With formats
that do not meet it is lost. -/
def execStandbySync (die : BitVec 1) (s : State) : Res :=
  let d := die.toNat
  let r := (getDie s d).role
  match activeDie s with
  | none => .next s
  | some a =>
    if a = d ∨ (r ≠ .starting ∧ r ≠ .rebooting) then .next s
    else if !formatsMeet (runningImage s d) (runningImage s a) then .next (loseStandby s d)
    else
      let s := updHandle (measureStandby (setRole s d .standby) (some (runningImage s d))) (fun h => { h with handover := false })
      if r = .starting then .next s
      else match s.handle.update with
        | none => .next s
        | some u =>
          if runningImage s d ≠ u.image then .next (endUpdate s false)
          else
            let s := updHandle s (fun h => { h with update := some { u with done := insertNat d u.done } })
            if u.done.contains (otherDie d) then .next (endUpdate s true) else .next s

/-- ACK_TIMEOUT (R393): the standby has not acknowledged a change within 6,000 mc. -/
def execAckTimeout (s : State) : Res :=
  match activeDie s with
  | none => .next s
  | some a => if (getDie s (otherDie a)).role = .standby then .next (loseStandby s (otherDie a)) else .next s

/-- REBOOT_TIMEOUT (R411): a die still rebooting after 600 ms is lost. -/
def execRebootTimeout (die : BitVec 1) (s : State) : Res :=
  let d := die.toNat
  if (getDie s d).role ≠ .rebooting ∨ s.handle.latch = some d then .next s else .next (loseStandby s d)

/-- The active die fails (R374, R391): the standby, or a die that is rebooting in a live update, takes the latch and
power-gates it. With neither, the fault is uncovered and nothing serves the package. -/
def loseActive (s : State) (a det : Nat) : State :=
  let b := otherDie a
  let r := (getDie s b).role
  if r = .standby ∨ r = .rebooting then
    let s := recordFault (setRole s a .lost) fcHandle det sFaultCovered (0x3A + a)
    updHandle s (fun h => { h with latch := some b })
  else recordFault (setRole s a .lost) fcUncovered det sFaultUncovered (0x3A + a)

/-- A die becomes the active one: TAKEOVERS, TAKEOVER and the log (R394). -/
def becomeActive (s : State) (d : Nat) : State :=
  let s := updHandle (setRole s d .active) (fun h => { h with latch := some d, takeovers := min (h.takeovers + 1) 0xFF, handover := false })
  logEvent (raiseHandle (measureSites (measureStandby s none)) mfTakeover) lgFirmware 0 (0x3A + d) 1 []

/-- A mailbox command is in progress (R394). -/
def mbCommandOpen (s : State) : Bool := s.fns.any (fun f => f.2.mbState == .busy) || s.handle.hmBusy.isSome

/-- TAKEOVER (R381, R394, R412): a takeover on fault completes; or, in a live update, the planned handover to the die
that already runs the new image, once the mailbox command in progress has ended. -/
def execTakeover (s : State) : Res :=
  match s.handle.latch with
  | none => .next s
  | some d =>
    let o := otherDie d
    match (getDie s d).role with
    | .standby => .next (becomeActive (if s.handle.update.isSome then endUpdate s false else s) d)
    | .rebooting =>
      -- the update completes with the rebooted die active and the other one lost
      let s := becomeActive s d
      .next (if s.handle.update.isSome then logEvent (updHandle s (fun h => { h with update := none })) lgFirmware 0 0xFF 0 [] else s)
    | .active =>
      if runsUpdate s o && !runsUpdate s d && (getDie s o).role == .standby && !mbCommandOpen s then
        .next (becomeActive (setRole s d .starting) o)
      else .next s
    | _ => .next s

/-- REQUEST_UPDATE (R410): refused without a standby, during an update, or with a fault recovery pending. An image that
fails the header check or the format condition changes nothing. -/
def execRequestUpdate (image : ImageSt) (s : State) : Res :=
  match activeDie s with
  | none => .next s
  | some a =>
    let answer (s : State) (ok : Bool) : State := { s with out := s.out ++ [.bmc ok] }
    if !standbyOk s || s.handle.update.isSome || !s.fault.latched.isEmpty || !s.fault.powering.isEmpty then .next (answer s false)
    else if romAccepts (getDie s (otherDie a)) image && formatsMeet image (runningImage s a) then
      .next (answer (updHandle s (fun h => { h with update := some { image := image, done := [] } })) true)
    else .next (logEvent (answer s true) lgFirmware 0 0xFF 1 [])

/-- IMAGE_WRITTEN (R410, R411): the standby has written the new image into its inactive slot; a copy that verifies is
named by BOOTSEL and the die reboots into it, else the update has failed. -/
def execImageWritten (die : BitVec 1) (verified : Bool) (s : State) : Res :=
  let d := die.toNat
  let x := getDie s d
  match s.handle.update with
  | none => .next s
  | some u =>
    if x.role ≠ .standby ∨ u.done.contains d then .next s
    else
      let k := 1 - x.slot
      let i := { u.image with ok := u.image.ok && verified }
      let x := { x with images := minsert x.images k i }
      if !romAccepts x i then .next (endUpdate (setDie s d x) false)
      else
        let s := setDie s d (writeBootsel x k)
        .next (bootDie (updHandle s (fun h => { h with handover := true })) d .rebooting)

/-! ### Sensors and power stages (R253, R401, R402) -/

/-- Whether the die of a junction sensor is gated, so that the sensor reads 0 (Table 17.4). -/
def sensorGated (s : State) (i : Nat) : Bool :=
  decide (i < 96) && (diePos s (i / 2)).isNone

/-- SENSOR_SAMPLE (R401): a sensor is read; during a takeover none is (R394). -/
def execSensorSample (index : BitVec 9) (value : Int) (s : State) : Res :=
  let i := index.toNat
  if 293 < i then .refused .noSuchUnit
  else if !handleUp s then .next s
  else .next (updHandle s (fun h => { h with sensors := mset 0 h.sensors i (if sensorGated s i then 0 else value) }))

/-- The junction sensors. -/
def junctions (s : State) : List Int := (List.range 150).map (mget 0 s.handle.sensors)

/-- DERATE (R253): at the end of 1 ms the thermal limit falls by 5 % of PACE_CAP where a junction reads 100 °C or more,
which raises the flag DERATE (Table 10.15), and rises by as much where every one reads below 98 °C. -/
def execDerate (s : State) : Res :=
  let js := junctions s
  let n := s.clock.derated
  if js.any (fun t => decide (1600 ≤ t)) then
    .next { s with
      clock := { s.clock with derated := min (n + 1) 20 },
      train := if n < 20 then { s.train with cycFlags := raise s.fc s.train.cycFlags 2 } else s.train }
  else .next { s with clock := { s.clock with derated := if js.all (fun t => decide (t < 1568)) then n - 1 else n } }

/-- POWER_CORRECTION (R253): B is lowered by the excess of the measured average power, in W, over the predicted use. -/
def execPowerCorrection (measured : BitVec 16) (s : State) : Res :=
  .next { s with clock := { s.clock with correction := measured.toNat - (s.clock.idle + stepPower s) } }

/-- VCORE set-point of a quadrant in mV: 750 until Handle first sets it (Table 20.1). -/
def vcore (s : State) (q : Nat) : Nat := mget 750 s.handle.vcore q

/-- VOUT_COMMAND (R402): Handle sets VCORE_Qq where the board record lists a stage of that rail, within 0.60 V to 0.80 V
and the fused minimum, in a step of at most 5 mV, 20,000 mc after the last one. -/
def execVoutCommand (rail : BitVec 2) (mv : BitVec 10) (s : State) : Res :=
  let q := rail.toNat
  let v := mv.toNat
  let listed := s.handle.board.any (fun b => b.stages.any (fun t => t.2 == q))
  let due := match mget 0 s.handle.vcoreMc q with | 0 => true | m => decide (m + 20000 ≤ mcNow s + 1)
  if handleUp s && listed && due && decide (600 ≤ v) && decide (v ≤ 800) && decide (Config.vcoreMin.val ≤ v)
      && decide (v ≤ vcore s q + 5) && decide (vcore s q ≤ v + 5) then
    .next (updHandle s (fun h => { h with vcore := mset 750 h.vcore q v, vcoreMc := mset 0 h.vcoreMc q (mcNow s + 1) }))
  else .next s

/-! ### Protective shutdowns (R454 to R457) -/

/-- A cause: issue, tiers, dies, links and ports stop and nothing of the package is served but the BMC; the land is
asserted; once boot stage 2 has ended the event is logged. -/
def shutdown (s : State) (cause arg : Nat) (thermal : Bool) : State :=
  if !s.power.on then s
  else
    let p := { s.power with causes := s.power.causes ++ [cause] }
    let p := if thermal then { p with thermTrip := true } else { p with pwrFault := true }
    let t := { coldState s with handle := { s.handle with fences := fenceTable s, applied := false }, fc := s.fc, rootLock := s.rootLock && cause != 2, power := p }
    if 3 ≤ s.handle.stage then logEvent t lgPower 0 0xFF 2 (bytesLE 1 cause ++ bytesLE 2 arg) else t

/-- THERM_TRIP (R455): a junction at 115 °C or an HBM3E or LPDDR5X sensor at 105 °C. -/
def execThermTrip (sensor : BitVec 9) (s : State) : Res := .next (shutdown s 1 sensor.toNat true)

/-- PLL_LOSS (R236, R455): the root PLL loses lock. -/
def execPllLoss (s : State) : Res := .next (shutdown s 2 0xFFFF false)

/-- SYSREF_LOSS (R450, R455). -/
def execSysrefLoss (s : State) : Res := .next (shutdown s 3 0xFFFF false)

/-- CORE_UV (R455): a VCORE monitor more than 50 mV below its set-point for 2 µs. -/
def execCoreUv (sensor : BitVec 9) (s : State) : Res := .next (shutdown s 4 sensor.toNat false)

/-- CORE_OV (R455): a VCORE monitor more than 50 mV above its set-point, or above 0.85 V, for 2 µs. -/
def execCoreOv (sensor : BitVec 9) (s : State) : Res := .next (shutdown s 5 sensor.toNat false)

/-- SMBALERT (R402, R455): Handle reads STATUS_WORD of a listed stage; an over-voltage, under-voltage or over-current
fault is cause 0x06. -/
def execSmbalert (stage : BitVec 7) (fault : Bool) (s : State) : Res :=
  let listed := s.handle.board.any (fun b => (b.stages.take 16).any (fun t => t.1 == stage.toNat))
  if handleUp s && listed && fault then .next (shutdown s 6 stage.toNat false) else .next s

end Sys2Proof.Machine
end

