-- ==== Sys2Proof/Machine/EngineArith.lean ====
section
/-! DEFINITION. The arithmetic of a log-multiply engine: cell products (R41 to R43), groups (R61 to R63), the
tally (R64, R65) and promotion in plain and pairing mode (R67 to R69). -/

namespace Sys2Proof.Machine

/-- The delog table of stepping A1 (R43). -/
def delog (k : Nat) : Nat := nth 0 [2048, 2435, 2896, 3444] k

/-- A product word (Table 03.1): NaR, zero, or signed SIG and octave N. -/
inductive PWord where
  | nar
  | zero
  | val (sig : Int) (n : Int)
  deriving DecidableEq, Repr

/-- The product of two L8 codes (R41, R42). -/
def cellProduct (a b : Nat) : PWord :=
  let a := a % 256
  let b := b % 256
  if a = 0x80 ∨ b = 0x80 then .nar
  else if a = 0 ∨ b = 0 then .zero
  else
    let q : Int := (a % 128 : Nat) + (b % 128 : Nat) - 128
    let n := q / 4
    let d : Int := delog (q % 4).toNat
    .val (if (decide (a ≥ 128)) != (decide (b ≥ 128)) then -d else d) n

/-- A group word (Table 04.2): NaR, or Eg and the exact sum in units of 2^(Eg − 38 + g). -/
inductive GWord where
  | nar
  | sum (eg s : Int)
  deriving DecidableEq, Repr

/-- x · 2^k, truncated towards minus infinity where k is negative. -/
def shiftInt (x k : Int) : Int := if 0 ≤ k then x * 2 ^ k.toNat else x / 2 ^ (-k).toNat

/-- The largest octave among the products of a group that are neither zero nor NaR. -/
def groupOctave : List PWord → Option Int
  | [] => none
  | .val _ n :: ps =>
    match groupOctave ps with
    | none => some n
    | some m => some (max n m)
  | _ :: ps => groupOctave ps

/-- Group alignment and the adder tree (R62, R63): the exact sum of the aligned values. -/
def groupSum (g : Nat) (ps : List PWord) : GWord :=
  if ps.any (· == .nar) then .nar
  else match groupOctave ps with
    | none => .sum 0 0
    | some eg => .sum eg (ps.foldl (fun acc p => match p with
        | .val sig n => acc + shiftInt sig (n - 11 - eg + 38 - g)
        | _ => acc) 0)

/-- A tally (Table 04.3). -/
structure Tally where
  nr   : Bool := false
  satf : Bool := false
  x    : Nat := 0
  t    : Int := 0
  q    : Nat := 0
  deriving DecidableEq, Repr

/-- The value of a tally (R64). -/
def Tally.value (t : Tally) : Dy := ⟨t.t * 2 ^ 20 + t.q, (t.x : Int) - 166⟩

/-- Add a group word, its octave offset by `off`, to a tally (R65, R51). -/
def tallyAdd (g : Nat) (t : Tally) (w : GWord) (off : Int) : Tally :=
  match w with
  | .nar => { t with nr := true }
  | .sum eg s =>
    if t.nr then t
    else if t.satf then t
    else
      let v := dyAdd t.value ⟨s, eg + off - 38 + g⟩
      if v.m = 0 then { t with t := 0, q := 0, x := 0 }
      else
        let l : Int := Nat.log2 v.m.natAbs + v.e
        if l ≥ 128 then
          { t with satf := true, x := 255, t := if v.m > 0 then 2 ^ 19 - 1 else -(2 ^ 19), q := 0 }
        else
          let x := (max (l + 128) 0).toNat
          let r := shiftInt v.m (v.e - ((x : Int) - 166))
          { t with x := x, t := r / 2 ^ 20, q := (r % 2 ^ 20).toNat }

/-- An accumulator element: A, C (used in pairing mode) and the SAT events raised so far. -/
structure Accum where
  a    : Nat
  c    : Nat := 0
  sats : Nat := 0
  deriving DecidableEq, Repr

/-- Largest finite FP32 of a sign. -/
def maxCode32 (neg : Bool) : Nat := if neg then 0xFF7FFFFF else 0x7F7FFFFF

/-- A code plus an exact dyadic, rounded once to FP32, saturated with SAT (R68 steps 2 and 4). -/
def addExact (a : Nat) (v : Dy) : Cvt :=
  match f32 a with
  | .nan => { code := qnan }
  | .inf s => { code := maxCode32 s, sat := true }
  | .fin s m e => roundDy32 false (dyAdd (finDy s m e) v)

/-- The significand of a promotion: T + Q · 2^-20 rounded to the nearest integer, ties to even (R68 step 1). -/
def promoteValue (t : Tally) : Dy :=
  ⟨dyRoundInt ⟨t.t * 2 ^ 20 + t.q, -20⟩, (t.x : Int) - 146⟩

/-- A promotion in plain mode (R68). -/
def promotePlain (acc : Accum) (t : Tally) : Accum :=
  let r := addExact acc.a (promoteValue t)
  let sat := t.satf || r.sat
  let neg := decide (t.t < 0)
  let a := if t.nr || isNaN32 acc.a then qnan
    else if r.sat then r.code
    else if t.satf then
      (match f32 r.code with
       | .fin s m _ => maxCode32 (if m = 0 then neg else s)
       | _ => maxCode32 neg)
    else r.code
  { acc with a := a, sats := acc.sats + boolNat sat }

/-- A promotion in pairing mode (R69). -/
def promotePair (acc : Accum) (t : Tally) : Accum :=
  let v := promoteValue t
  let p := promotePlain { acc with c := 0 } t
  if isNaN32 p.a then { p with c := qnan }
  else if p.sats ≠ acc.sats then { p with c := p.a }
  else
    match f32Dyadic acc.a, f32Dyadic p.a with
    | some da, some ds =>
      let r := addExact acc.c (dyAdd (dyAdd da v) (dyNeg ds))
      { a := p.a, c := r.code, sats := acc.sats + boolNat r.sat }
    | _, _ => { p with c := p.a }
where
  f32Dyadic (c : Nat) : Option Dy :=
    match f32 c with
    | .fin s m e => some (finDy s m e)
    | _ => none

/-- A promotion in the slot's mode. -/
def promote (pair : Bool) (acc : Accum) (t : Tally) : Accum :=
  if pair then promotePair acc t else promotePlain acc t

/-- The FP32 value of a pair and whether forming it raises SAT (R69). -/
def pairValue (a c : Nat) : Nat × Bool :=
  if isNaN32 a then (qnan, false)
  else if a = c ∧ (a = 0x7F7FFFFF ∨ a = 0xFF7FFFFF) then (a, false)
  else
    let r := fpAdd a c
    if r.code = 0x7F800000 ∨ r.code = 0xFF800000 then (maxCode32 (decide (r.code ≥ 0x80000000)), true)
    else (r.code, r.sat)

/-- A value of FP32 enters a pair (A, C) as v does in R69: the new A and C, and the saturations raised. -/
def addPair (a c v : Nat) : Nat × Nat × Nat :=
  let r := fpAdd a v
  if isNaN32 r.code then (qnan, qnan, 0)
  else if r.sat then (r.code, r.code, 1)
  else
    match f32 a, f32 v, f32 r.code with
    | .fin s m e, .fin s' m' e', .fin s'' m'' e'' =>
      let k := addExact c (dyAdd (dyAdd (finDy s m e) (finDy s' m' e')) (dyNeg (finDy s'' m'' e'')))
      (r.code, k.code, boolNat k.sat)
    | _, _, _ => (r.code, r.code, 0)

/-- Cut a list into pieces of n; `fuel` bounds the number of pieces. -/
def chunk {α : Type} (n : Nat) : Nat → List α → List (List α)
  | 0, _ => []
  | f + 1, l => if l.isEmpty then [] else l.take n :: chunk n f (l.drop n)

/-- One window: its groups into a cleared tally, then a promotion (R66, R67). -/
def window (g : Nat) (pair : Bool) (acc : Accum) (gs : List (GWord × Int)) : Accum :=
  promote pair acc (gs.foldl (fun t w => tallyAdd g t w.1 w.2) {})

/-- The chain of one output element over the groups of one tile operation (R61, R67). -/
def chain (g : Nat) (pair : Bool) (acc : Accum) (gs : List (GWord × Int)) : Accum :=
  (chunk 16 gs.length gs).foldl (window g pair) acc

/-- A coded operand vector of one block: the hi and lo parts and the offset (R49). -/
structure OpVec where
  hi  : List Nat
  lo  : List Nat
  off : Int
  deriving DecidableEq, Repr

/-- The operand feeder (R49): L8 passes, L16 is shifted and split. -/
def feed (l16 : Bool) (codes : List Nat) : OpVec :=
  if l16 then
    let o := vecOffset codes
    let ps := codes.map (splitCode o)
    { hi := ps.map (·.1), lo := ps.map (·.2), off := o }
  else { hi := codes, lo := codes.map (fun _ => 0), off := 0 }

/-- The products of one pass of a block, rows in order (R53): pass 1 hi·hi, pass 2 hi·lo, pass 3 lo·hi (R52). -/
def passProducts (p : Nat) (a b : OpVec) : List PWord :=
  match p with
  | 0 => List.zipWith cellProduct a.hi b.hi
  | 1 => List.zipWith cellProduct a.hi b.lo
  | _ => List.zipWith cellProduct a.lo b.hi

/-- The groups of one block for one output element, with the offset of each (R51, R53, R61). -/
def blockGroups (g passes : Nat) (a b : OpVec) : List (GWord × Int) :=
  (List.range passes).flatMap (fun p =>
    (chunk (2 ^ g) 32 (passProducts p a b)).map (fun ps => (groupSum g ps, a.off + b.off)))

/-- One tile operation on one output element: the operand vectors of its blocks in order. -/
def tileElement (g passes : Nat) (pair : Bool) (acc : Accum) (blocks : List (OpVec × OpVec)) : Accum :=
  chain g pair acc (blocks.flatMap (fun ab => blockGroups g passes ab.1 ab.2))

/-- L_G, the levels of the adder tree (Table 04.1). -/
def treeLevels (group : Nat) : Nat := group + 2

/-- T_tile in ac (R55): P passes over K = 32·blocks inner indices, tree of L_G levels. -/
def tileTime (passes blocks lg : Nat) : Nat := passes * 32 * blocks + 70 + lg

end Sys2Proof.Machine
end

