-- ==== Sys2Proof/Machine/Collect.lean ====
section
/-! DEFINITION. What the collective engines do with tiles: chains over the cuts, gathers, owners, relay routes
(R328 to R339), and the arrival of tokens at a core (R137, R419, R420). -/

namespace Sys2Proof.Machine

/-! ### Sequence errors and arrivals -/

/-- A token or packet was discarded for its sequence (R120, R326): a transient of the fabric path, and the attempt it
strikes is replayed (Table 16.5). -/
def seqFault (s : State) (n : Nat) : State := abortAttempt (faultTransient s) n false sFaultCovered

/-- The sequence fault of a token discarded at a core. -/
def coreSeqFault (s : State) (c : Nat) : State :=
  match (partOfCluster s (coreCluster c)).bind (fun p => (getPart s p).run) with
  | none => faultTransient s
  | some n => seqFault s n

/-- Whether the checks of R137 and R120 discard a token for its sequence. -/
def seqWrong (s : State) (t : Token) : Bool :=
  let x := getCtx (getCore s (tokDst t.hdr)) (tokCtx t.hdr)
  x.resident && x.gen == tokGen t.hdr && (tokSeq t.hdr != mget 0 x.recvSeq (tokQ t.hdr) || tokKind t.hdr == 3)

/-- Whether the check of R137 discards a token as non-resident. -/
def tagWrong (s : State) (t : Token) : Bool :=
  let x := getCtx (getCore s (tokDst t.hdr)) (tokCtx t.hdr)
  !(x.resident && x.gen == tokGen t.hdr)

/-- A token passes its checks and enters its queue, or is discarded (R120, R137). A blocked or full queue holds its
sender back and nothing changes (R124, R420); a token that the checks discard never enters it and goes all the same (R423). -/
def arriveNow (s : State) (t : Token) : State :=
  if queueBlocked s (tokDst t.hdr) (tokQ t.hdr) && !tagWrong s t && !seqWrong s t then s
  else if seqWrong s t then coreSeqFault (deliver s t) (tokDst t.hdr)
  else deliver s t

/-- The key of a queue in the hold table. -/
def holdKey (c q : Nat) : Nat := 16 * c + q

/-- A token arrives for a queue: under a QDELAY point it first enters the hold, where that is free (R419). -/
def arrive (s : State) (t : Token) : State :=
  let c := tokDst t.hdr
  let q := tokQ t.hdr
  match findPoint s 1 (fun p => p.target == holdKey c q && decide (p.mode ≤ 1)) with
  | none => if (mget none s.pert.holds (holdKey c q)).isSome then s else arriveNow s t
  | some p =>
    if (mget none s.pert.holds (holdKey c q)).isSome then s
    else
      let g := lfsr p.2.gen
      let d := if p.2.mode = 0 then p.2.value else (g % 4096) &&& p.2.value
      let s := setPoint s p.1 { p.2 with gen := if p.2.mode = 0 then p.2.gen else g, count := satAdd32 p.2.count 1 }
      { s with pert := { s.pert with holds := mset none s.pert.holds (holdKey c q) (some (t, s.fc + d)) } }

/-! ### Chains (R330 to R335) -/

/-- Key of tile t of a shard on a cut. -/
def chainKey (cut sh t : Nat) : Nat := ((sh % 2 ^ 32) * 2 ^ 32 + t % 2 ^ 32) * 4 + cut

/-- Whether the chains of a cut run in line order in this attempt. -/
def cutLine (x : SlotSt) (cut : Nat) : Bool :=
  match cutAxis (slotJob x) cut with
  | none => false
  | some a => x.coll.lineAxes.contains a

/-- The ranks that tile t's chain visits (R330, R335). -/
def chainOrder (s : State) (x : SlotSt) (cut t : Nat) : List Nat :=
  let j := slotJob x
  let l := cutLen s j cut
  if cutLine x cut then
    match cutAxis j cut with
    | none => []
    | some a => (List.range l).map (fun p => coordRank s j cut (setIdx s.torus.coord a ((axisBreak s a + 1 + p) % l)))
  else if t / l % 2 = 0 then (List.range l).map (fun i => (t % l + 1 + i) % l)
  else (List.range l).map (fun i => (t % l + 2 * l - 1 - i) % l)

/-- The member to which the holder of the final value of tile t sends it from a rank; none where the gather ends. -/
def gatherNext (s : State) (x : SlotSt) (cut t r : Nat) : Option Nat :=
  let o := chainOrder s x cut t
  let i := o.idxOf r
  if cutLine x cut then (if 0 < i then o[i - 1]? else none)
  else
    -- round the ring in the chain's direction, from the chain's last rank to the one before it
    let n := if i + 1 = o.length then 0 else i + 1
    if n + 1 = o.length then none else o[n]?

/-- Parameter tiles of a shard as the layout map or the update table gives them. -/
def shardTiles (x : SlotSt) (sh : Nat) : Option Nat :=
  match x.owners.find? (fun o => o.1 == sh) with
  | some o => some o.2.2
  | none => (x.table.find? (fun e => e.shard == sh)).map entryTiles

/-- Whether the reduction of a shard runs in pair mode: its relay entries say so (Table 14.4). -/
def shardPair (x : SlotSt) (sh : Nat) : Bool :=
  match x.pattern with
  | none => false
  | some p => p.relay.any (fun e => rlKind e == 1 && rlTensor e == sh && rlPair e)

/-- Whether tile t is reduced at this member on a cut: over the data cut of a job with a sequence cut, only the tiles whose final
value over the sequence ring rests here (R334). -/
def reducesHere (s : State) (x : SlotSt) (cut t : Nat) : Bool :=
  !(cut == cutData && decide (1 < cutLen s (slotJob x) cutSeq))
    || (chainOrder s x cutSeq t).getLast? == some (cutRank s (slotJob x) cutSeq)

/-- The tiles of a shard that travel over a cut in the chunk and the direction of tile t, ascending (R333). -/
def chunkTiles (s : State) (x : SlotSt) (cut sh t : Nat) : List Nat :=
  let l := cutLen s (slotJob x) cut
  match shardTiles x sh with
  | none => [t]
  | some n => ((List.range ((n + 2 * l - 1) / (2 * l))).map (fun m => t % (2 * l) + 2 * l * m)).filter
      (fun u => decide (u < n) && reducesHere s x cut u)

/-- The tiles that travel in one packet with tile t: 8 tiles or 4 pairs to a packet (R333). -/
def packetGroup (s : State) (x : SlotSt) (cut sh t : Nat) : List Nat :=
  let l := chunkTiles s x cut sh t
  let w := if shardPair x sh then 4 else 8
  (l.drop (l.idxOf t / w * w)).take w

/-- The numbers of n tiles of one packet whose first is tile t. -/
def groupFrom (s : State) (x : SlotSt) (cut sh t n : Nat) : List Nat :=
  let l := chunkTiles s x cut sh t
  (l.drop (l.idxOf t)).take n

/-- The owner rank of a shard on the layer cut (R337); none where neither the map nor the update table names it. -/
def shardOwner (s : State) (x : SlotSt) (sh : Nat) : Option Nat :=
  match x.owners.find? (fun o => o.1 == sh) with
  | some o => some o.2.1
  | none => if x.table.any (fun e => e.shard == sh) then some (cutRank s (slotJob x) cutLayer) else none

/-- The parameter tile of tile t of a shard in the update table (R187). -/
def paramTile (x : SlotSt) (sh t : Nat) : Option Nat :=
  (x.table.findIdx? (fun e => e.shard == sh)).map (fun i => entryTile0 x.table i + t)

/-- A reduced tile waits for the quantiser of its owner; a tile of a shard this member does not own goes to the owner
as a GRAD packet (R176, R337). -/
def landTile (s : State) (n sh t : Nat) (v : List Nat) : State :=
  let x := getSlot s n
  match shardOwner s x sh with
  | none => s
  | some r =>
    let j := slotJob x
    if r = cutRank s j cutLayer then
      match paramTile x sh t with
      | none => s
      | some p => updSlot s n (fun x => { x with coll := { x.coll with reduced := mset [] x.coll.reduced p v } })
    else
      sendPacket s n (rankCoord s j cutLayer r) pkGrad 1 { form := mkForm 4 false 1, tile := t, tensor := sh, tiles := [v] }

/-- Add a local tile to a running value (R331): the codes, the compensation, and the values that saturated. -/
def addRunning (pair : Bool) (a c g : List Nat) : List Nat × List Nat × Nat :=
  let rs := (List.range 1024).map (fun i =>
    if pair then addPair (nth 0 a i) (nth 0 c i) (nth 0 g i)
    else let r := fpAdd (nth 0 a i) (nth 0 g i); (r.code, 0, boolNat r.sat))
  (rs.map (·.1), if pair then rs.map (·.2.1) else [], sumNat (rs.map (·.2.2)))

/-- Count saturations of the collective engine of port die p for the slot (R331, R36). -/
def countSat (s : State) (p n k : Nat) : State :=
  let e : Conv4 := { sat := k }
  updRun (raiseConv s (portUnit p) e) n (fun r => { r with conv := r.conv.add e })

/-- Send tiles of a group to a rank of a cut. -/
def sendTiles (s : State) (n cut rank kind sh t : Nat) (pair : Bool) (tiles : List (List Nat)) : State :=
  sendPacket s n (rankCoord s (slotJob (getSlot s n)) cut rank) kind 0
    { form := mkForm 4 pair tiles.length, tile := t, tensor := sh, tiles := tiles }

/-- The gather of final values that this member holds or passes on over a cut (R330). -/
def sendGather (s : State) (n cut sh : Nat) (ts : List Nat) (vs : List (List Nat)) : State :=
  match ts with
  | [] => s
  | t :: _ =>
    let x := getSlot s n
    match gatherNext s x cut t (cutRank s (slotJob x) cut) with
    | none => s
    | some r => sendTiles s n cut r pkGather sh t false vs

/-- Final values of the data reduction at this member: kept, and gathered over the sequence cut where the job has one
(R334). -/
def keepFinal (s : State) (n sh : Nat) (ts : List Nat) (vs : List (List Nat)) : State :=
  (ts.zip vs).foldl (fun s p => landTile s n sh p.1 p.2) s

/-- What this member adds of its own on a cut: contributions and running values of a whole group, where they are all
there and the group has not left yet. The value moves on, or is final at the chain's last rank. The answer lists the
final tiles. -/
def runChain (s : State) (n cut sh t : Nat) : State × List (Nat × List Nat) :=
  let x := getSlot s n
  let g := packetGroup s x cut sh t
  let key := chainKey cut sh
  let o := chainOrder s x cut t
  let r := cutRank s (slotJob x) cut
  let first := o.head? == some r
  let pair := shardPair x sh
  let have_ := g.all (fun u => mhas x.coll.contrib (key u) && (first || mhas x.coll.running (key u)) && !mget false x.coll.sent (key u))
  if !have_ then (s, [])
  else
    let vals := g.map (fun u =>
      let c := mget [] x.coll.contrib (key u)
      if first then (c, if pair then List.replicate 1024 0 else [], 0)
      else let v := mget ([], []) x.coll.running (key u); addRunning pair v.1 v.2 c)
    -- the port die of the direction in which the group travels (R330)
    let port := t / o.length % 2
    let s := countSat s port n (sumNat (vals.map (·.2.2)))
    let s := updSlot s n (fun x =>
      { x with coll := { x.coll with
          sent := g.foldl (fun m u => mset false m (key u) true) x.coll.sent,
          contrib := g.foldl (fun m u => merase m (key u)) x.coll.contrib,
          running := g.foldl (fun m u => merase m (key u)) x.coll.running } })
    let i := o.idxOf r
    if i + 1 < o.length then
      let tiles := if pair then vals.flatMap (fun v => [v.1, v.2.1]) else vals.map (·.1)
      (sendTiles s n cut (nth 0 o (i + 1)) pkReduce sh (nth t g 0) pair tiles, [])
    else
      let fs := vals.map (fun v => if pair then (v.1.zip v.2.1).map (fun p => pairValue p.1 p.2) else v.1.map (fun a => (a, false)))
      (countSat s port n (sumNat (fs.map (fun f => (f.filter (·.2)).length))), g.zip (fs.map (fun f => f.map (·.1))))

/-- Note a contribution of this member on a cut. -/
def putContrib (s : State) (n cut sh t : Nat) (v : List Nat) : State :=
  updSlot s n (fun x => { x with coll := { x.coll with contrib := minsert x.coll.contrib (chainKey cut sh t) v } })

/-- The last stage of R334: final values go round the sequence ring, each packet's tiles together once all of them are here (R333). -/
def passSeq (s : State) (n sh : Nat) (fs : List (Nat × List Nat)) : State :=
  if cutLen s (slotJob (getSlot s n)) cutSeq ≤ 1 then s
  else
    let key := chainKey cutSeq sh
    let s := updSlot s n (fun x => { x with coll := { x.coll with finals := fs.foldl (fun m f => minsert m (key f.1) f.2) x.coll.finals } })
    fs.foldl (fun s f =>
      let x := getSlot s n
      let g := packetGroup s x cutSeq sh f.1
      if g.all (fun u => mhas x.coll.finals (key u)) then
        sendGather (updSlot s n (fun x => { x with coll := { x.coll with finals := g.foldl (fun m u => merase m (key u)) x.coll.finals } }))
          n cutSeq sh g (g.map (fun u => mget [] x.coll.finals (key u)))
      else s) s

/-- Final tiles of the data stage: kept, gathered over the data cut, and over the sequence cut where there is one. -/
def finishData (s : State) (n sh : Nat) (fs : List (Nat × List Nat)) : State :=
  let ts := fs.map (·.1)
  let vs := fs.map (·.2)
  passSeq (sendGather (keepFinal s n sh ts vs) n cutData sh ts vs) n sh fs

/-- The data stage gets this member's contribution for tiles (R334, step 2). -/
def feedData (s : State) (n sh : Nat) (fs : List (Nat × List Nat)) : State :=
  if cutLen s (slotJob (getSlot s n)) cutData ≤ 1 then
    passSeq (keepFinal s n sh (fs.map (·.1)) (fs.map (·.2))) n sh fs
  else
    fs.foldl (fun s f =>
      let r := runChain (putContrib s n cutData sh f.1 f.2) n cutData sh f.1
      if r.2.isEmpty then r.1 else finishData r.1 n sh r.2) s

/-- A local gradient tile enters its reduction: over the sequence cut first, then over the data cut (R330, R334). -/
def feedTile (s : State) (n sh t : Nat) (v : List Nat) : State :=
  if 1 < cutLen s (slotJob (getSlot s n)) cutSeq then
    let r := runChain (putContrib s n cutSeq sh t v) n cutSeq sh t
    if r.2.isEmpty then r.1 else feedData r.1 n sh r.2
  else feedData s n sh [(t, v)]

/-! ### Tokens on relay routes (R328) -/

/-- The slot and the relay-table entry of a route of a context. -/
def routeRelay (s : State) (x : Ctx) (c r : Nat) : Option (Nat × Nat) :=
  x.slot.bind (fun n => (getSlot s n).pattern.bind (fun p => (relayOf p c r).map (fun e => (n, e))))

/-- A token leaves a core on a route: into the fabric, or on a relay route to the collective engines. -/
def emitToken (c r : Nat) (x : Ctx) (s : State) (t : Token) : State :=
  match routeRelay s x c r with
  | none => { s with out := s.out ++ [.token t] }
  | some (n, e) =>
    let key := 64 * c + r
    let sl := getSlot s n
    let k := mget 0 sl.coll.relayN key
    let tile := t.tile.map (·.toNat)
    let bump (s : State) : State :=
      updSlot s n (fun y => { y with coll := { y.coll with relayN := mset 0 y.coll.relayN key (k + 1) } })
    let tn := (rlTile0 e + k) % 2 ^ 32
    if rlKind e = 1 then
      if rlPair e && tokKind t.hdr == 1 then
        updSlot s n (fun y => { y with coll := { y.coll with pairA := mset [] y.coll.pairA key tile } })
      else
        let v := if rlPair e && tokKind t.hdr == 2 then ((mget [] sl.coll.pairA key).zip tile).map (fun p => pairValue p.1 p.2)
          else tile.map (fun a => (a, false))
        feedTile (countSat (bump s) (tn / cutLen s (slotJob sl) cutData % 2) n (v.filter (·.2)).length) n (rlTensor e) tn (v.map (·.1))
    else if rlKind e = 2 then landTile (bump s) n (rlTensor e) tn tile
    else
      let cut := rlCut e - 1
      let j := slotJob sl
      let l := cutLen s j cut
      let dst := ((cutRank s j cut : Int) + rlOffset e) % (l : Int)
      let en := x.route r
      sendPacket (bump s) n (rankCoord s j cut dst.toNat) pkRelay (relayStream cut)
        { form := mkForm (tokFmt (reFmt en)).width false 1, tile := tn, tensor := rlTensor e, landing := reDst en + reDq en * 4096, tiles := [tile], hdrs := [t.hdr], fwd := rlFwd e }

/-- Tokens leave a core on a route, in order. -/
def emitTokens (c r : Nat) (x : Ctx) (s : State) (ts : List Token) : State := ts.foldl (emitToken c r x) s

end Sys2Proof.Machine
end

