-- ==== Sys2Proof/Machine/Landing.lean ====
section
/-! DEFINITION. Packets of an attempt that reach a member: reductions, gathers, gradients, shards and relays (R197, R203,
R326 to R341), and the start of an attempt, at which held packets are taken (R173, R244, R252). -/

namespace Sys2Proof.Machine

/-- The cut a packet travelled on: the one on whose axis its source's index differs from the member's own. -/
def packetCut (s : State) (j : Nat) (p : Packet) : Option Nat :=
  (List.range 3).find? (fun c => match cutAxis j c with | none => false | some a => idx p.src.toNat a != ownIdx s a)

/-- The tiles of a packet. -/
def packetTiles (p : Packet) : List (List Nat) := p.tiles.map (fun t => t.map (·.toNat))

/-- A and C tiles of a packet in pair mode (Table 14.2). -/
def pairTiles : List (List Nat) → List (List Nat × List Nat)
  | a :: c :: r => (a, c) :: pairTiles r
  | _ => []

/-- A REDUCE packet: its running values arrive, and the member's own tiles are added where they are there (R330,
R331). -/
def landReduce (s : State) (n : Nat) (p : Packet) : State :=
  let j := slotJob (getSlot s n)
  match packetCut s j p with
  | none => s
  | some c =>
    if c = cutLayer then s
    else
      let sh := p.tensor.toNat
      let vs := if bit p.form.toNat 5 then pairTiles (packetTiles p) else (packetTiles p).map (fun t => (t, []))
      let ts := groupFrom s (getSlot s n) c sh p.tile.toNat vs.length
      let s := updSlot s n (fun x => { x with coll := { x.coll with
        running := (ts.zip vs).foldl (fun m v => minsert m (chainKey c sh v.1) v.2) x.coll.running } })
      let r := runChain s n c sh p.tile.toNat
      if r.2.isEmpty then r.1
      else if c = cutData then finishData r.1 n sh r.2
      else feedData r.1 n sh r.2

/-- A GATHER packet: the final values are kept and passed on (R330, R334). -/
def landGather (s : State) (n : Nat) (p : Packet) : State :=
  let j := slotJob (getSlot s n)
  match packetCut s j p with
  | none => s
  | some c =>
    let sh := p.tensor.toNat
    let vs := packetTiles p
    let ts := groupFrom s (getSlot s n) c sh p.tile.toNat vs.length
    let s := sendGather (keepFinal s n sh ts vs) n c sh ts vs
    if c = cutData then passSeq s n sh (ts.zip vs) else s

/-- A packet with an older layout number, or a gradient of a shard the member does not own: LAYOUT_OLD, and the attempt
in progress aborts with STALE_SHARD (R341). -/
def layoutOld (s : State) (n : Nat) (p : Packet) : State :=
  let s := raiseColl s kfLayoutOld
  if abortable (getSlot s n) then abortAttempt (updRun s n (fun r => { r with detail := p.tensor.toNat })) n true sStaleShard else s

/-- A GRAD packet: reduced tiles wait for the owner's quantiser (R337). -/
def landGrad (s : State) (n : Nat) (p : Packet) : State :=
  let x := getSlot s n
  let sh := p.tensor.toNat
  if shardOwner s x sh = some (cutRank s (slotJob x) cutLayer) then
    (packetTiles p).zipIdx.foldl (fun s v => landTile s n sh (p.tile.toNat + v.2) v.1) s
  else layoutOld s n p

/-- The tiles a SHARD_REQ asks for: from TILE on, as many as the first four bytes of its body say, within the shard. -/
def askedTiles (x : SlotSt) (p : Packet) : List Nat :=
  let n := (shardTiles x p.tensor.toNat).getD 0
  (List.range (min (fieldLE p.body 0 4) (n - p.tile.toNat))).map (p.tile.toNat + ·)

/-- A SHARD_REQ packet: the owner answers with working-copy tiles of its visible bank, up to eight to a packet (R337). -/
def landShardReq (s : State) (n : Nat) (p : Packet) : State :=
  let x := getSlot s n
  match (x.table.findIdx? (fun e => e.shard == p.tensor.toNat)).map (entryTile0 x.table) with
  | none => s
  | some t0 =>
    (chunk 8 512 (askedTiles x p)).foldl (fun s ts =>
      let tiles := ts.map (fun t => readCodes s n (.wc x.bank) 2 (2048 * (t0 + t)) 1024)
      sendPacket s n p.src.toNat pkShard 2 { form := mkForm 2 false ts.length, tile := ts.headD 0, tensor := p.tensor.toNat, tiles := tiles }) s

/-- Where a slot stages byte o in shared cache: the Slath and its byte; its staging granules in order, Slath by Slath. -/
def stagingByte (s : State) (n o : Nat) : Option (Nat × Nat) :=
  let gs := (List.range 4).flatMap (fun q => ((getSlath s q).use.filter (fun u => u.2 == .staging n)).map (fun u => (q, u.1)))
  (gs[o / granBytes]?).map (fun g => (g.1, g.2 * granBytes + o % granBytes))

/-- Stage bytes of a slot from offset o on. -/
def stageBytes (s : State) (n o : Nat) (bs : List Byte) : State :=
  bs.zipIdx.foldl (fun s b =>
    match stagingByte s n (o + b.2) with
    | none => s
    | some a => setSlath s a.1 (setCacheByte (getSlath s a.1) a.2 b.1)) s

/-- A gather of a shard has ended: its record is kept, or compared with the record of the forward gather (R203). -/
def noteRecord (s : State) (n : Nat) (r : ShardRec) : State :=
  let x := getSlot s n
  match x.coll.records.find? (fun q => q.shard == r.shard) with
  | none => updSlot s n (fun x => { x with coll := { x.coll with records := x.coll.records ++ [r] } })
  | some q =>
    if q = r then s
    else abortAttempt (updRun (raiseTrain s nfStaleShard) n (fun u => { u with detail := r.shard })) n true sStaleShard

/-- A SHARD packet: its tiles are staged and enter the shard record of the gather (R203, R337). -/
def landShard (s : State) (n : Nat) (p : Packet) : State :=
  let x := getSlot s n
  let sh := p.tensor.toNat
  let t := p.tile.toNat
  let bs := packetData p
  let s := stageBytes s n (2048 * t) bs
  let g := if t = 0 then (0, crcRun false (crcInit false) (foldBytes sh)) else mget (0, 0) x.coll.gathering sh
  if g.1 ≠ t then s
  else
    let k := t + p.tiles.length
    let reg := crcRun false g.2 bs
    let done := match shardTiles x sh with | none => true | some m => decide (m ≤ k)
    if done then
      let s := updSlot s n (fun x => { x with coll := { x.coll with gathering := merase x.coll.gathering sh } })
      noteRecord s n { shard := sh, cn := p.cnLo.toNat, layout := p.layout.toNat, crc := crcFinal false reg }
    else updSlot s n (fun x => { x with coll := { x.coll with gathering := minsert x.coll.gathering sh (k, reg) } })

/-! ### Relays (R329, R338) -/

/-- The landing-table entry that a RELAY packet matches. -/
def landingOf (s : State) (x : SlotSt) (p : Packet) : Option LandEntry :=
  let j := slotJob x
  match x.pattern, packetCut s j p with
  | some pat, some c =>
    let l := cutLen s j c
    let off := (coordRank s j c p.src.toNat + l - cutRank s j c) % l
    pat.landing.find? (fun e => e.cut == c + 1 && e.offset == off && e.stream == p.stream.toNat
      && e.core == bits p.landing.toNat 11 0 && e.queue == bits p.landing.toNat 15 12 && e.fmt == p.form.toNat / 64)
  | _, _ => none

/-- The token of one tile of a RELAY packet: SRC the receiving port die and stream, TAG of the slot's context (R329). -/
def relayToken (s : State) (n : Nat) (p : Packet) (e : LandEntry) (i : Nat) : Token :=
  let x := getSlot s n
  let h := nth 0 p.hdrs i
  let a := ((packetCut s (slotJob x) p).bind (cutAxis (slotJob x))).getD 0
  let unit := portSrc (boolNat (goNeg s a (idx p.src.toNat a))) p.stream.toNat
  let c := (ownCtxs s n).headD 0
  let key := 16 * e.core + e.queue
  { hdr := mkHdr unit e.core e.queue (getCtx (getCore s e.core) c).gen c (tokKind h) (tokMrows h) (tokMcols h) (tokTrow h) (tokTcol h) (mget 0 x.coll.unitSeq key % 32),
    tile := nth [] p.tiles i }

/-- Deliver tile i of a RELAY packet; none where its queue holds it back. -/
def deliverRelay (n : Nat) (p : Packet) (e : LandEntry) (s : State) (i : Nat) : Option State :=
  let t := relayToken s n p e i
  let key := 16 * e.core + e.queue
  if queueFull s t.hdr || queueBlocked s e.core e.queue || (mget none s.pert.holds key).isSome then none
  else some (updSlot (arrive s t) n (fun x => { x with coll := { x.coll with unitSeq := mset 0 x.coll.unitSeq key (mget 0 x.coll.unitSeq key + 1) } }))

/-- A RELAY packet: its tiles enter the named queue as tokens, and it goes on while FWD remains; none where the queue
holds it back. A packet that matches no landing entry is discarded (R329). -/
def landRelay (s : State) (n : Nat) (p : Packet) : Option State :=
  let x := getSlot s n
  let j := slotJob x
  match landingOf s x p with
  | none =>
    let s := raiseColl s kfUnlanded
    some (setPart s x.part { getPart s x.part with tagMiss := satAdd32 (getPart s x.part).tagMiss p.tiles.length })
  | some e =>
    ((List.range p.tiles.length).foldl (fun (a : Option State) i => a.bind (fun s => deliverRelay n p e s i)) (some s)).map (fun s =>
      match packetCut s j p with
      | none => s
      | some c =>
        if p.fwd = 0 then s
        else
          sendPacket s n (rankCoord s j c ((cutRank s j c + 1) % cutLen s j c)) pkRelay p.stream.toNat
            { form := p.form.toNat, tile := p.tile.toNat, tensor := p.tensor.toNat, landing := p.landing.toNat, tiles := packetTiles p, hdrs := p.hdrs, fwd := p.fwd - 1 })

/-! ### The checks of a packet -/

/-- Take a packet through its checks (R326, R327, R197, R341); `f` says what it does once it has passed, none where it
has to wait, and `wait` is the state in which it waits. -/
def gate (s : State) (p : Packet) (wait : Nat → State) (f : State → Nat → Option State) : State :=
  match checkPacket s p with
  | .unlanded => unlanded s
  | .hold n => holdPacket s n p
  | .drop n => takePseq s n p
  | .seqErr n => seqFault { s with pipeFlags := raise s.fc s.pipeFlags pipeSeqErr } n
  | .old n => layoutOld (takePseq s n p) n p
  | .ok n => (f (takePseq s n p) n).getD (wait n)

/-- What a packet of an attempt does. -/
def landData (s : State) (n : Nat) (p : Packet) : Option State :=
  let k := p.pkind.toNat
  if k = pkReduce then some (landReduce s n p)
  else if k = pkGather then some (landGather s n p)
  else if k = pkGrad then some (landGrad s n p)
  else if k = pkShardReq then some (landShardReq s n p)
  else if k = pkShard then some (landShard s n p)
  else if k = pkRelay then landRelay s n p
  else some s

/-- An arrival past its window in a step: the fc from the window's end up to it are the cause LINK (R247, R305). -/
def arrivalLate (s : State) (p : Packet) : State :=
  match p.window, packetSlot s p with
  | some w, some n =>
    let x := getSlot s n
    match x.run with
    | none => s
    | some r =>
      let a := r.start + w + 1
      if inStep x && decide (a ≤ s.fc) then
        dropStalled (updSlot s n (fun x => { x with run := x.run.map (fun r => { r with causes := r.causes ++ [(cLink, a, s.fc + 1)] }) })) n a (s.fc + 1)
      else s
  | _, _ => s

/-- A command that brings a packet of one kind: a reserved kind is discarded (R327), a packet of another kind is not this
command's. -/
def packetRow (k : Nat) (p : Packet) (s : State) (f : State → Nat → Option State) : Res :=
  if p.pkind.toNat = k ∨ pkReserved p.pkind.toNat = true then
    let s := arrivalLate s p
    .next (gate s p (fun _ => s) f)
  else .next s

/-- REDUCE (R330, R331). -/
def execReduce (p : Packet) (s : State) : Res := packetRow pkReduce p s (fun s n => some (landReduce s n p))

/-- GATHER_PACKET (R330, R334). -/
def execGatherPacket (p : Packet) (s : State) : Res := packetRow pkGather p s (fun s n => some (landGather s n p))

/-- GRAD (R337). -/
def execGrad (p : Packet) (s : State) : Res := packetRow pkGrad p s (fun s n => some (landGrad s n p))

/-- SHARD (R203, R337). -/
def execShard (p : Packet) (s : State) : Res := packetRow pkShard p s (fun s n => some (landShard s n p))

/-! ### Starting an attempt -/

/-- Take the packets held for the attempt that starts, in order. -/
def releaseData (s : State) (n : Nat) : State :=
  let ps := (getSlot s n).coll.held
  ps.foldl (fun s p => gate s p (fun n => holdPacket s n p) (fun s n => landData s n p)) (updSlot s n (fun x => { x with coll := { x.coll with held := [] } }))

/-- RELAY (R329, R338). Packets of the attempt that waited for room in a queue come first. -/
def execRelay (p : Packet) (s : State) : Res :=
  let s := match packetSlot s p with
    | none => s
    | some n => if inAttempt (getSlot s n) && (getSlot s n).coll.held.any (fun q => q.pkind == p.pkind) then releaseData s n else s
  packetRow pkRelay p s (fun s n => landRelay s n p)

/-- Step start of an attempt (R244, R382), and the packets of it that other members sent before. -/
def startAttempt (s : State) (n : Nat) : State := releaseData (beginAttempt s n) n

/-- A step start is asked for: granted at once, or held in order (R252). -/
def requestStart (s : State) (n : Nat) : State :=
  let held := s.clock.held
  if held.isEmpty && mayStart s n then startAttempt s n
  else
    let s := setStage s n .paced
    let s := updRun s n (fun r => { r with asked := s.fc })
    { s with
      clock := { s.clock with held := held ++ [n] },
      train := { s.train with cycFlags := raise s.fc s.train.cycFlags 1 } }

/-- A held start is granted if it is the oldest and the budget allows it (R252). -/
def grantHeld (s : State) (n : Nat) : State :=
  if s.clock.held.head? == some n && mayStart s n then startAttempt (chargeHeld s n) n else s

/-- A re-shard of the slot keeps its next step from starting (R343). -/
def reshardHolds (x : SlotSt) : Bool := x.reshard.isSome

/-- STEP_START (R173, R244, R252): the partition controller asks for the next step of a slot's RUN, or a held start
is granted. A RUN whose context was replaced before its first step ends with NOT_RESIDENT. -/
def execStepStart (slot : BitVec 12) (s : State) : Res :=
  let n := slot.toNat
  let x := getSlot s n
  match x.run with
  | none => .next s
  | some r =>
    match r.stage with
    | .between =>
      if !runResident s n && (getPart s x.part).loads.isEmpty then .next (endRun s n sNotResident (runDetail s n sNotResident))
      else if runPlaced s n && !reshardHolds x then
        .next (requestStart (updRun s n (fun r => { r with stepCharges := [], perturbed := false })) n)
      else .next s
    | .paced => .next (grantHeld s n)
    | _ => .next s

end Sys2Proof.Machine
end

