-- ==== Sys2Proof/Machine/Moves.lean ====
section
/-! DEFINITION. The data of a re-shard: reserved regions, shards sent and received, and the switch (R337, R342 to
R347). -/

namespace Sys2Proof.Machine

/-- The entries of the new table that the member does not hold yet, and those of the table in force that it gives up. -/
def gainedEntries (x : SlotSt) (rs : ReshardSt) : List UpdEntry :=
  rs.table.filter (fun e => x.table.all (fun f => f.shard != e.shard))
def lostEntries (x : SlotSt) (rs : ReshardSt) : List UpdEntry :=
  x.table.filter (fun e => rs.table.all (fun f => f.shard != e.shard))

/-- The number of a new region set of a slot. -/
def newSet (x : SlotSt) : Nat := (x.sets.map (·.1)).foldl max 0 + 1

/-- A slot whose update table is a region set's own. -/
def viewSet (x : SlotSt) (set : Nat) (t : List UpdEntry) : SlotSt :=
  { x with table := t, homes := (List.range t.length).map (fun i => (set, i)), sets := minsert x.sets set t }

/-- Granules for the shards the member gains (R344): the regions of a new set, or why they were refused. -/
def reserveMoves (s : State) (n : Nat) (rs : ReshardSt) : State × ReshardSt :=
  let x := getSlot s n
  let g := gainedEntries x rs
  let set := newSet x
  match allocRegions s x.dom (paramRegions n set x.mirrored x.hostPlaced g) with
  | .err c => (quotaEvents s c, { rs with result := c })
  | .ok s => (updSlot s n (fun x => { x with sets := minsert x.sets set g }), { rs with set := set, gained := g, result := 0 })

/-- The streams of an entry in the order in which a shard moves (R345): W, S0 to S3, WC of a bank, E; each with its
element width, first byte and bytes, counted through a table. -/
def entryParts (host : Bool) (t : List UpdEntry) (i b : Nat) : List (Stream × Nat × Nat × Nat) :=
  match t[i]? with
  | none => []
  | some e =>
    let t0 := entryTile0 t i
    let k := entryTiles e
    (if host then [] else (.w b, 4, 4096 * t0, 4096 * k) :: (List.range 4).map (fun j =>
        (.st j b, declWidth (entryStream e j), streamOff t j i, streamElems e j * declWidth (entryStream e j))))
      ++ [(.wc b, 2, 2048 * t0, 2048 * k), (.e, 2, 2048 * t0, 2048 * k)]

/-- The packets of a part: width and tiles, up to eight to a packet. -/
def partPackets (s : State) (n : Nat) (p : Stream × Nat × Nat × Nat) : List (Nat × List (List Nat)) :=
  let w := p.2.1
  (chunk 8 65536 (List.range (p.2.2.2 / (1024 * w)))).map (fun ts => (w, ts.map (fun t => readCodes s n p.1 w (p.2.2.1 + 1024 * w * t) 1024)))

/-- The shard's last packet has room for its CRC in place of one tile. -/
def roomForCrc (ps : List (Nat × List (List Nat))) : List (Nat × List (List Nat)) :=
  match ps.getLast? with
  | none => []
  | some l => if l.2.length < 8 then ps else ps.dropLast ++ [(l.1, l.2.take 7), (l.1, l.2.drop 7)]

/-- Send the shard of entry i of the table in force to a layer rank in MOVE packets (R345). -/
def sendMove (s : State) (n i rank : Nat) : State :=
  let x := getSlot s n
  match x.table[i]? with
  | none => s
  | some e =>
    let parts := entryParts x.hostPlaced x.table i x.bank
    let crc := crc64 (parts.flatMap (fun p => readStream s n p.1 p.2.2.1 p.2.2.2))
    let ps := roomForCrc (parts.flatMap (partPackets s n))
    let dest := rankCoord s (slotJob x) cutLayer rank
    (ps.zipIdx.foldl (fun (a : State × Nat) p =>
      let last := p.2 + 1 == ps.length
      (sendPacket a.1 n dest pkMove 2 { form := mkForm p.1.1 false p.1.2.length, tile := a.2, tensor := e.shard, tiles := p.1.2, body := if last then bytesLE 8 crc else [] },
        a.2 + p.1.2.length)) (s, 0)).1

/-- The rank to which the new map gives a shard. -/
def newOwner (rs : ReshardSt) (sh : Nat) : Option Nat := (rs.map.find? (fun m => m.1 == sh)).map (·.2.1)

/-- Send every shard the member gives up. -/
def sendLost (s : State) (n : Nat) (rs : ReshardSt) : State :=
  let x := getSlot s n
  x.table.zipIdx.foldl (fun s e =>
    if (lostEntries x rs).contains e.1 then
      match newOwner rs e.1.shard with
      | none => s
      | some r => sendMove s n e.2 r
    else s) s

/-- Write the bytes of a shard into the member's reserved granules, its quantise records 0 (R345). -/
def storeShard (s : State) (n : Nat) (rs : ReshardSt) (sh : Nat) (bs : List Byte) : State :=
  let x := getSlot s n
  match rs.gained.findIdx? (fun e => e.shard == sh) with
  | none => s
  | some i =>
    let v := setSlot s n (viewSet x rs.set rs.gained)
    let w := (entryParts x.hostPlaced rs.gained i x.bank).foldl (fun (a : State × List Byte) p =>
      (writeStream a.1 n p.1 p.2.2.1 (a.2.take p.2.2.2), a.2.drop p.2.2.2)) (v, bs)
    let t0 := entryTile0 rs.gained i
    let k := entryTiles (nth { shard := 0, first := 0, count := 0, rows := 0, cols := 0, prog := 0, streams := [], scalars := [] } rs.gained i)
    setSlot ((List.range k).foldl (fun s t => setRecord s n (t0 + t) 0) w.1) n x

/-- Change a slot's re-shard. -/
def updReshard (s : State) (n : Nat) (f : ReshardSt → ReshardSt) : State :=
  updSlot s n (fun x => { x with reshard := x.reshard.map f })

/-- A RESHARD fails before SWITCH is issued: reservations released, the old layout in force (R347). -/
def dropReshard (s : State) (n code : Nat) : State :=
  let x := getSlot s n
  match x.reshard with
  | none => s
  | some rs =>
    let s := if rs.gained.isEmpty then s else releaseWhere s x.dom (fun r => r.slot == some n && r.set == rs.set)
    let s := updSlot s n (fun x => { x with reshard := none, round := {}, sets := if rs.gained.isEmpty then x.sets else merase x.sets rs.set })
    finishDesc ((retireFailed s n).getD (forgetFailed s n)) rs.ring rs.desc code rs.wait

/-- The bytes of a region that entry i of a set's table occupies: first byte and count. -/
def entryBytes (t : List UpdEntry) (i : Nat) (k : RegionKind) : List (Nat × Nat) :=
  match t[i]? with
  | none => []
  | some e =>
    let t0 := entryTile0 t i
    let c := entryTiles e
    let all := tableTiles t
    match k with
    | .wc _ => [(2048 * t0, 2048 * c)]
    | .w _ => [(4096 * t0, 4096 * c)]
    | .st j _ => [(streamPlace t j i, streamElems e j * declWidth (entryStream e j))]
    | .grad => [(2048 * t0, 2048 * c), (2048 * all + 1024 * t0, 1024 * c), (3072 * all + 4 * t0, 4 * c)]
    | _ => []

/-- The granules of a slot's regions that hold no shard of the table in force go back to its domain (R346). -/
def releaseGiven (s : State) (n : Nat) : State :=
  let x := getSlot s n
  let isParam (k : RegionKind) : Bool := match k with | .stash => false | .gaa => false | .buffer => false | _ => true
  ((getDom s x.dom).regions.filter (fun r => r.slot == some n && isParam r.kind)).foldl (fun s r =>
    let t := mget [] x.sets r.set
    let kept := (x.homes.filter (fun h => h.1 == r.set)).flatMap (fun h => entryBytes t h.2 r.kind)
    trimRegion s x.dom r (fun g => kept.any (fun b => b.2 != 0 && decide (b.1 / granBytes ≤ g) && decide (g ≤ (b.1 + b.2 - 1) / granBytes)))) s

/-- The switch at a member, in one fc (R346): layout number, update table, owner map; granules given up and packets held for the
layout released. -/
def installLayout (s : State) (n : Nat) : State :=
  let x := getSlot s n
  match x.reshard with
  | none => s
  | some rs =>
    let home (e : UpdEntry) : Nat × Nat :=
      match x.table.findIdx? (fun f => f.shard == e.shard) with
      | some i => x.home i
      | none => (rs.set, (rs.gained.findIdx? (fun f => f.shard == e.shard)).getD 0)
    let homes := rs.table.map home
    releaseData (releaseGiven (updSlot s n (fun x => { x with layout := rs.layout, table := rs.table, homes := homes, owners := rs.map })) n) n

/-- A SHARD_REQ of a member whose moved shard failed its check: the old owner sends the shard again (R345). -/
def answerMove (s : State) (n : Nat) (p : Packet) : State :=
  let x := getSlot s n
  match x.reshard, x.table.findIdx? (fun e => e.shard == p.tensor.toNat) with
  | some rs, some i =>
    match newOwner rs p.tensor.toNat with
    | some r => if (lostEntries x rs).any (fun e => e.shard == p.tensor.toNat) then sendMove s n i r else s
    | none => s
  | _, _ => s

/-- SHARD_REQ (R337, R345). -/
def execShardReq (p : Packet) (s : State) : Res :=
  packetRow pkShardReq p s (fun s n =>
    if (getSlot s n).reshard.any (fun r => r.stage == .moving) then some (answerMove s n p) else some (landShardReq s n p))

/-- A moved shard failed its CRC-64: it is requested again from its old owner, or after REPLAY_LIMIT repeats the
re-shard fails; whether it fails (R345). -/
def retryMove (s : State) (n sh : Nat) : Bool × State :=
  let x := getSlot s n
  let s := raiseColl s kfMoveRetry
  match x.reshard with
  | none => (false, s)
  | some rs =>
    let k := mget 0 rs.retries sh
    if bits s.train.updCtl.toNat 3 0 ≤ k then (true, s)
    else
      let s := updReshard s n (fun r => { r with retries := minsert r.retries sh (k + 1), allRetries := r.allRetries + 1, arrived := merase r.arrived sh })
      match x.owners.find? (fun o => o.1 == sh) with
      | none => (false, s)
      | some o => (false, sendPacket s n (rankCoord s (slotJob x) cutLayer o.2.1) pkShardReq 2 { tensor := sh, body := bytesLE 4 o.2.2 })

/-- A MOVE packet's bytes arrive; with the CRC the shard is checked and stored (R345). The answer says that the
re-shard fails. -/
def landMove (s : State) (n : Nat) (p : Packet) : Bool × State :=
  let sh := p.tensor.toNat
  match (getSlot s n).reshard with
  | none => (false, s)
  | some rs =>
    if rs.stage != .moving || !rs.awaiting.contains sh then (false, s)
    else
      let bs := (if p.tile.toNat = 0 then [] else mget [] rs.arrived sh) ++ packetData { p with body := [] }
      if p.body.isEmpty then (false, updReshard s n (fun r => { r with arrived := minsert r.arrived sh bs }))
      else if crc64 bs = fieldLE p.body 0 8 then
        (false, updReshard (storeShard s n rs sh bs) n (fun r => { r with awaiting := r.awaiting.filter (· != sh), arrived := merase r.arrived sh }))
      else retryMove s n sh

end Sys2Proof.Machine
end

