-- ==== Sys2Proof/Machine/Rounds.lean ====
section
/-! DEFINITION. The rounds of a job's members: commit, restart, fence and switch (R196 to R201, R340, R344 to R347,
R384), ABORT, and the ends of drains. -/

namespace Sys2Proof.Machine

/-! ### Passes (R196, R340) -/

/-- The cuts of a job of length above 1. -/
def jobCuts (s : State) (j : Nat) : List Nat := (List.range 3).filter (fun c => decide (1 < cutLen s j c))

/-- The member takes part in the passes of a cut: it has rank 0 on every lower cut. -/
def onPass (s : State) (j c : Nat) : Bool := (jobCuts s j).all (fun d => decide (c ≤ d) || cutRank s j d == 0)

/-- What the passes of lower cuts and the repairs of R201 have to say before the member passes on a cut is said. -/
def lowerDone (s : State) (x : SlotSt) (c : Nat) : Bool :=
  x.round.ready && x.round.repairs.isEmpty
    && (jobCuts s (slotJob x)).all (fun d => decide (c ≤ d) || x.round.returned.contains d)

/-- Kind of a round's passes before the decision, and of those that carry it. -/
def passKind (k : RoundKind) : Nat := match k with | .fence => pkFence | _ => pkPrepare
def finalKind (k : RoundKind) : Nat := match k with | .commit => pkCommit | .switch => pkSwitch | _ => pkGo

/-- READY of a pass. -/
def passReady (p : Packet) : Nat := if p.pkind.toNat = pkFence then fieldLE p.body 13 4 else fieldLE p.body 0 4

/-- The 32 digests of a PREPARE on a data ring. -/
def passDigests (p : Packet) : List Nat := (List.range 32).map (fun i => fieldLE p.body (224 + 8 * i) 8)

/-- Body of a PREPARE pass (R340). -/
def prepareBody (cut ready : Nat) (ds : List Nat) : List Byte :=
  if cut = cutData then bytesLE 4 ready ++ List.replicate 220 0 ++ (List.range 32).flatMap (fun i => bytesLE 8 (nth 0 ds i))
  else bytesLE 4 ready

/-- Body of a FENCE pass (R340). -/
def fenceBody (layout crc result ready : Nat) : List Byte :=
  bytesLE 4 layout ++ bytesLE 8 crc ++ bytesLE 1 result ++ bytesLE 4 ready

/-- The cause a member adds to a fence pass (R344): BAD_LAYOUT for a mismatch, then its own. -/
def fenceCause (rs : ReshardSt) (layout crc : Nat) : Nat :=
  if rs.layout ≠ layout ∨ rs.mapCrc ≠ crc then sBadLayout else rs.result

/-- The body with which a member passes a round packet on, or starts it. -/
def passBody (s : State) (x : SlotSt) (c : Nat) (old : Option Packet) : List Byte :=
  let r := cutRank s (slotJob x) c
  let ready := (old.map passReady).getD 0 ||| 2 ^ r
  if x.round.kind == .fence then
    match x.reshard with
    | none => []
    | some rs =>
      let layout := (old.map (fun p => fieldLE p.body 0 4)).getD rs.layout
      let crc := (old.map (fun p => fieldLE p.body 4 8)).getD rs.mapCrc
      let prev := (old.map (fun p => fieldLE p.body 12 1)).getD x.round.result
      fenceBody layout crc (if prev = 0 then fenceCause rs layout crc else prev) ready
  else
    let ds := (old.map passDigests).getD (List.replicate 32 0)
    prepareBody c ready (if x.round.kind == .commit then setNth ds r x.round.digest else ds)

/-- Change the round of a slot. -/
def updRound (s : State) (n : Nat) (f : RoundSt → RoundSt) : State := updSlot s n (fun x => { x with round := f x.round })

/-- Start the pass of a cut at rank 0, or pass on the one held, where the member may. -/
def pushCut (s : State) (n c : Nat) : State :=
  let x := getSlot s n
  let j := slotJob x
  let r := cutRank s j c
  if !(jobCuts s j).contains c || !onPass s j c || !lowerDone s x c || x.round.issued then s
  else if r = 0 then
    if x.round.started.contains c then s
    else
      updRound (sendRound s n c (passNext s j c 0) (passKind x.round.kind) (passBody s x c none)) n
        (fun q => { q with started := q.started ++ [c] })
  else
    match x.round.held.find? (fun p => packetCut s j p == some c && p.pkind.toNat == passKind x.round.kind) with
    | none => s
    | some p =>
      updRound (sendRound s n c (passNext s j c r) (passKind x.round.kind) (passBody s x c (some p))) n
        (fun q => { q with held := q.held.filter (· != p) })

/-- Every flag of a pass that has returned is ready. -/
def allReady (s : State) (j c : Nat) (p : Packet) : Bool := (List.range (cutLen s j c)).all (bit (passReady p))

/-! ### Commit (R196, R197) -/

/-- The charges of the step that the final attempt adds (R248). -/
def finalCharges (r : RunSt) : List Nat := addCounters satAdd64 r.stepCharges (charges r.causes r.start r.readyFc)

/-- A round packet kept for the member's next round. -/
def keepPass (s : State) (n : Nat) (p : Packet) : State := updRound s n (fun q => { q with held := q.held ++ [p] })

/-- Take the round packets that waited for the new commit number (R197). -/
def releaseRound (s : State) (n : Nat) : State :=
  let ps := (getSlot s n).coll.held
  ps.foldl (fun s p =>
      if pkAttempt p.pkind.toNat then holdPacket s n p
      else gate s p (fun _ => s) (fun s n =>
        some (if p.pkind.toNat = pkPrepare ∨ p.pkind.toNat = pkFence then keepPass s n p else s)))
    (updSlot s n (fun x => { x with coll := { x.coll with held := [] } }))

/-- A member has completed the round once it has passed COMMIT on all of its rings: the next step may be asked for, or
the RUN is done (R173, R196). -/
def finishCommit (s : State) (n : Nat) : State :=
  let x := getSlot s n
  match x.run with
  | none => s
  | some r =>
    let s := updRound (noteRound s n) n (fun q => { held := q.held })
    if r.steps ≤ r.done then endRun s n sSuccess r.done else setStage s n .between

/-- COMMIT reaches a member: CN rises by 1 and the new bank is visible (R183, R196). -/
def commitStep (s : State) (n : Nat) : State :=
  let s := settleWords (addConv s n) n
  let oor := coreOor s n
  let s := updSlot s n (fun x =>
    let c := match x.run with | some r => finalCharges r | none => []
    { x with
      cn := x.cn + 1,
      wcStale := false,
      last := sSuccess,
      replays := 0,
      dev := addCounters satAdd32 x.dev c,
      coll := { held := x.coll.held, pseqIn := x.coll.pseqIn.filter (fun q => q.1 % 8 == 7), pseqOut := x.coll.pseqOut.filter (fun q => q.1 == 7) },
      run := x.run.map (fun r =>
        { r with
          stage := .round,
          done := r.done + 1,
          charges := addCounters satAdd64 r.charges c,
          oor := satAdd32 r.oor oor,
          stepCharges := [],
          causes := [] }) })
  let s := { s with borders := s.borders.filter (fun b => b.2.slot != n) }
  releaseRound s n

/-! ### Replica resolution (R201) -/

/-- The digest that a strict majority holds; of two members, rank 0's. -/
def authority (ds : List Nat) : Option Nat :=
  if ds.length = 2 then ds.head?
  else ds.find? (fun d => decide (ds.length < 2 * (ds.filter (· == d)).length))

/-- Bytes of an update-table entry in the alternate bank, in the order of R200. -/
def entryData (s : State) (n i : Nat) : List Byte :=
  let x := getSlot s n
  let b := (x.cn + 1) % 2
  ((entryParts x.hostPlaced x.table i b).filter (fun p => p.1 != .e)).flatMap (fun p => readStream s n p.1 p.2.2.1 p.2.2.2)

/-- The CRC of each update-table entry of the alternate bank (R200). -/
def entryCrcs (s : State) (n : Nat) : List Nat :=
  (List.range (getSlot s n).table.length).map (fun i => crc64 (entryData s n i))

/-- The member's rank on its data ring. -/
def dataRank (s : State) (n : Nat) : Nat := cutRank s (slotJob (getSlot s n)) cutData

/-- The supplier sends its list of entry CRCs to members whose digests differ (R201). -/
def sendLists (s : State) (n : Nat) (ranks : List Nat) : State :=
  { s with out := s.out ++ ranks.map (fun r => .repair n r (.list (BitVec.ofNat 5 (dataRank s n)) ((entryCrcs s n).map (BitVec.ofNat 64)))) }

/-- Rank 0 of a data ring compares the digests, and the repair of members that differ starts. -/
def resolve (s : State) (n : Nat) (ds : List Nat) : State :=
  let x := getSlot s n
  if ds.eraseDups.length ≤ 1 then s
  else
    let s := raiseTrain s nfReplicaDiv
    if x.repairOff then abortAttempt s n true sReplicaDivergence
    else
      match authority ds with
      | none => abortAttempt s n true sReplicaDivergence
      | some a =>
        let bad := (List.range ds.length).filter (fun r => nth 0 ds r != a)
        updSlot s n (fun x =>
          { x with
            repairCnt := min (x.repairCnt + bad.length) 0xFF,
            round := { x.round with repairs := bad, supplier := ds.idxOf a } }) |> fun s =>
          if ds.idxOf a = 0 then sendLists s n bad
          else { s with out := s.out ++ [.repair n (ds.idxOf a) (.supply (bad.map (BitVec.ofNat 5)))] }

/-! ### Deciding and carrying the decision -/

/-- The decision goes on by the passes of the cuts below `c` of which the member is rank 0, in reverse order. -/
def sendFinals (s : State) (n pk : Nat) (body : List Byte) (below : Nat) : State :=
  let j := slotJob (getSlot s n)
  let cs := (jobCuts s j).reverse.filter (fun c => decide (c < below) && cutRank s j c == 0)
  updRound (cs.foldl (fun s c => sendRound s n c (passNext s j c 0) pk body) s) n
    (fun q => { q with started := cs, returned := [], issued := true })

/-- A re-shard goes on to its moves: shards given up are sent, and the switch round waits for those gained (R345). -/
def beginMoves (s : State) (n : Nat) : State :=
  let x := getSlot s n
  match x.reshard with
  | none => s
  | some rs =>
    let first := rs.wait == 0
    let aw := if first then rs.gained.map (·.shard) else rs.awaiting
    let s := updReshard s n (fun r =>
      { r with
        stage := if aw.isEmpty then .switchRound else .moving,
        wait := if first then s.fc - r.accepted else r.wait,
        awaiting := aw })
    let s := updRound s n (fun q => { kind := .switch, ready := aw.isEmpty, held := q.held })
    sendLost s n rs

/-- A re-shard is complete: SWITCH was passed on all of the member's rings (R346). -/
def finishSwitch (s : State) (n : Nat) : State :=
  match (getSlot s n).reshard with
  | none => s
  | some rs =>
    let s := updSlot s n (fun x => { x with reshard := none, round := { held := x.round.held } })
    finishDesc ((retireFailed s n).getD (forgetFailed s n)) rs.ring rs.desc sSuccess rs.wait

/-- Every pass with the decision that this member started has returned to it. -/
def finalsBack (x : SlotSt) : Bool := x.round.started.all x.round.returned.contains

/-- What is left of a round once the decision has been acted on. -/
def settleRound (s : State) (n : Nat) : State :=
  let x := getSlot s n
  if !x.round.issued || !finalsBack x then s
  else match x.round.kind with
    | .commit => finishCommit s n
    | .switch => finishSwitch s n
    | _ => s

/-- A member acts on the decision of its round; a replay asks for a new grant (Table 16.3). -/
def act (s : State) (n : Nat) : State :=
  match (getSlot s n).round.kind with
  | .none => s
  | .commit => settleRound (commitStep s n) n
  | .restart => requestStart (updRound (regenWc s n) n (fun q => { held := q.held })) n
  | .fence => beginMoves s n
  | .switch => settleRound (installLayout s n) n

/-- ABORT REPORT of a re-shard: sent once, and the re-shard ends here (R344, R347). -/
def failReshard (s : State) (n code : Nat) : State := dropReshard (sendAborts s n true code) n code

/-- The body of the passes that carry the decision. -/
def finalBody (x : SlotSt) : List Byte :=
  match x.round.kind, x.reshard with
  | .switch, some rs => bytesLE 4 rs.layout
  | _, _ => []

/-- The leader decides once every pass has returned to it (R196, R344, R346, R384). -/
def decide_ (s : State) (n : Nat) : State :=
  let x := getSlot s n
  let j := slotJob x
  let lead := (jobCuts s j).all (fun c => cutRank s j c == 0 && x.round.returned.contains c)
  if x.round.kind == .none || !x.round.ready || !x.round.repairs.isEmpty || x.round.issued || x.round.abort.isSome || !lead then s
  else
    let res := match x.reshard with
      | some rs => if x.round.result = 0 then rs.result else x.round.result
      | none => 0
    if x.round.kind == .fence && res != 0 then failReshard s n res
    else act (sendFinals s n (finalKind x.round.kind) (finalBody x) 3) n

/-- One round of starting and passing on what the member may, and of deciding. -/
def pushOnce (s : State) (n : Nat) : State :=
  if (getSlot s n).round.kind == .none || !(getSlot s n).round.ready then s
  else decide_ ((List.range 3).foldl (fun s c => pushCut s n c) s) n

/-- Go on with the slot's round as far as the member can; after a fence the switch round follows. -/
def pushRound (s : State) (n : Nat) : State := pushOnce (pushOnce s n) n

/-- A PREPARE or FENCE pass reaches a member: kept until it may pass on, or returned to rank 0. -/
def landPass (s : State) (n : Nat) (p : Packet) : State :=
  let x := getSlot s n
  let j := slotJob x
  if cnAhead x.cn p.cnLo.toNat then s
  else
    match packetCut s j p with
    | none => s
    | some c =>
      if cutRank s j c ≠ 0 then pushRound (keepPass s n p) n
      else if x.round.started.contains c && !x.round.returned.contains c && !x.round.issued
          && p.pkind.toNat == passKind x.round.kind && allReady s j c p then
        let s := updRound s n (fun q => { q with returned := q.returned ++ [c], result := if x.round.kind == .fence then fieldLE p.body 12 1 else 0 })
        let s := if x.round.kind == .commit && c == cutData then resolve s n ((passDigests p).take (cutLen s j c)) else s
        pushRound s n
      else s

/-- A member's RUN or re-shard stands where the decision of this kind may reach it. -/
def awaitsFinal (x : SlotSt) (pk : Nat) (p : Packet) : Bool :=
  if pk = pkCommit then
    p.cnLo.toNat == x.cn % 2 ^ 32 && x.run.any (fun r => r.stage == .round || r.stage == .replay) && !x.round.issued
  else finalKind x.round.kind == pk && x.round.kind != .none && x.round.ready && !x.round.issued

/-- A COMMIT of the member's step that reached it before it had recovered (Table 08.7). -/
def heldCommit (x : SlotSt) : Option Packet :=
  x.round.held.find? (fun p => p.pkind.toNat == pkCommit && p.cnLo.toNat == x.cn % 2 ^ 32)

/-- The member has recovered from what struck its attempt: its drain has ended and its partition is served. -/
def recovered (s : State) (n : Nat) : Bool :=
  let x := getSlot s n
  !x.run.any (fun r => r.stage == .replay) || (x.round.abort.isNone && (getPart s x.part).drain == .idle && partWhole s x.part)

/-- A pass with the decision reaches a member: passed on, carried down to its lower cuts, acted on; or returned to
rank 0. A COMMIT waits at a member that is yet to recover (Table 08.7). -/
def landFinal (s : State) (n : Nat) (p : Packet) : State :=
  let x := getSlot s n
  let j := slotJob x
  let pk := p.pkind.toNat
  match packetCut s j p with
  | none => s
  | some c =>
    let r := cutRank s j c
    if r = 0 then
      if x.round.issued && x.round.started.contains c && finalKind x.round.kind == pk then
        settleRound (updRound s n (fun q => { q with returned := q.returned ++ [c] })) n
      else s
    else if awaitsFinal x pk p && pk == pkCommit && !recovered s n then keepPass s n p
    else if awaitsFinal x pk p then
      let s := sendFinals (sendRound s n c (passNext s j c r) pk p.body) n pk p.body c
      let s := if pk = pkCommit then updRound s n (fun q => { q with kind := .commit }) else s
      pushRound (act s n) n
    else s

/-! ### Aborts of rounds (R198, R347) -/

/-- A covered fault in a re-shard: every member starts its moves again from GO; what has been checked is kept. -/
def restartMoves (s : State) (n code : Nat) : State :=
  let x := getSlot s n
  if x.round.abort.isSome then s
  else
    let s := sendAborts s n false code
    let s := updReshard s n (fun r => { r with stage := .fenceRound, arrived := [] })
    updRound s n (fun _ => { kind := .fence, ready := true, abort := some (false, code) })

/-- A re-shard that an ABORT can still end. -/
def reshardOpen (x : SlotSt) : Bool := x.reshard.any (fun r => r.stage != .fenceWait) && !x.round.issued

/-- ABORT reaches a member (R198, R344, R347). -/
def landAbort (s : State) (n : Nat) (p : Packet) : State :=
  let x := getSlot s n
  let report := fieldLE p.body 0 1 == 2
  let code := fieldLE p.body 1 1
  if cnAhead x.cn p.cnLo.toNat then s
  else if reshardOpen x then (if report then failReshard s n code else restartMoves s n code)
  else if abortable x || x.run.any (fun r => r.stage == .between) then stopAttempt s n report code
  else s

/-! ### Rows -/

/-- PREPARE (R196, R340). -/
def execPrepare (p : Packet) (s : State) : Res := packetRow pkPrepare p s (fun s n => some (landPass s n p))

/-- FENCE_PASS (R344). -/
def execFencePass (p : Packet) (s : State) : Res := packetRow pkFence p s (fun s n => some (landPass s n p))

/-- COMMIT (R196). -/
def execCommit (p : Packet) (s : State) : Res := packetRow pkCommit p s (fun s n => some (landFinal s n p))

/-- GO (R344, R384). -/
def execGo (p : Packet) (s : State) : Res := packetRow pkGo p s (fun s n => some (landFinal s n p))

/-- SWITCH_PASS (R346). -/
def execSwitchPass (p : Packet) (s : State) : Res := packetRow pkSwitch p s (fun s n => some (landFinal s n p))

/-- ABORT (R198). -/
def execAbort (p : Packet) (s : State) : Res := packetRow pkAbort p s (fun s n => some (landAbort s n p))

/-- MOVE (R345): when the last shard has been checked, the member joins the switch round. -/
def execMove (p : Packet) (s : State) : Res :=
  packetRow pkMove p s (fun s n =>
    let r := landMove s n p
    let s := r.2
    if r.1 then some (failReshard s n sReplayExhausted)
    else if (getSlot s n).reshard.any (fun q => q.stage == .moving && q.awaiting.isEmpty) then
      let s := updReshard s n (fun q => { q with stage := .switchRound })
      some (pushRound (updRound s n (fun q => { q with kind := .switch, ready := true })) n)
    else some s)

/-- FENCE_ROUND (R343, R344): a member past its fence wait reserves its granules and joins the fence round. -/
def execFenceRound (slot : BitVec 12) (s : State) : Res :=
  let n := slot.toNat
  let x := getSlot s n
  match x.reshard with
  | none => .next s
  | some rs =>
    let busy := x.run.any (fun r => r.stage == .step || r.stage == .round || r.stage == .replay)
    if rs.stage != .fenceWait || busy || !x.coll.contrib.isEmpty || !x.coll.running.isEmpty then .next s
    else
      let a := reserveMoves s n rs
      let s := updReshard a.1 n (fun _ => { a.2 with stage := .fenceRound })
      .next (pushRound (updRound s n (fun q => { kind := .fence, ready := true, held := q.held })) n)

/-- PEER_LOST (R199, R344): COMMIT_LIMIT fc have passed without progress of a round the member is ready for. After the
decision the member keeps what it has done, and completes with PEER_LOST. -/
def execPeerLost (slot : BitVec 12) (s : State) : Res :=
  let n := slot.toNat
  let x := getSlot s n
  if !x.round.ready then .next s
  else match x.round.kind with
    | .none => .next s
    | .fence => .next (failReshard s n sPeerLost)
    | .switch =>
      if x.round.issued then
        match x.reshard with
        | none => .next s
        | some rs =>
          let s := updSlot s n (fun x => { x with reshard := none, round := { held := x.round.held } })
          .next (finishDesc s rs.ring rs.desc sPeerLost rs.wait)
      else .next (failReshard s n sPeerLost)
    | _ =>
      if x.round.issued then .next (endRun (noteRound s n) n sPeerLost (runDetail s n sPeerLost))
      else .next (abortAttempt s n true sPeerLost)

/-! ### Readiness (R196, R200, R249) -/

/-- The member's replica digest (R200). -/
def replicaDigest (s : State) (n : Nat) : Nat :=
  crc64 ((entryCrcs s n).flatMap (bytesLE 8))

/-- The sweep of a slot has ended on every rim die in service. -/
def sweepDone (s : State) (n : Nat) : Bool :=
  (getSlot s n).run.any (·.sweeping) &&
    (List.range 8).all (fun m => s.tiers.fenced.contains m || ((mget {} s.borders m).slot == n && (mget {} s.borders m).stage == .done))

/-- The deviation D and the charges A of a step at ready, and what of them no cause explains (R249). -/
def unexplained (r : RunSt) (fc : Nat) : Nat :=
  let t := fc - r.first
  let a := sumNat (finalCharges { r with readyFc := fc })
  if t < r.tReport then r.tReport - t else t - r.tReport - a

/-- STEP_READY (R196, R249): the sweep or the installation has ended; the member forms D, computes its digest and joins
the commit round. A NaN met by the quantiser aborts the step unless the policy commits it (R195). -/
def execStepReady (slot : BitVec 12) (s : State) : Res :=
  let n := slot.toNat
  let x := getSlot s n
  match x.run with
  | none => .next s
  | some r =>
    if r.stage != .step || !(if x.hostPlaced then r.installed else sweepDone s n) then .next s
    else if r.nan && !x.narCommit then .next (abortAttempt s n true sNarGrad)
    else match retireFailed s n with
      | none => .next (abortAttempt (forgetFailed s n) n true sTierFull)
      | some s =>
        let u := if r.perturbed || pertActive s then 0 else unexplained r s.fc
        let s := if u = 0 then s else { s with train := { s.train with cycFlags := raise s.fc s.train.cycFlags 0 } }
        let s := updSlot s n (fun x =>
          { x with
            dev := addCounters satAdd32 x.dev (addAt [] cUnattr u),
            run := x.run.map (fun r => { r with charges := addCounters satAdd64 r.charges (addAt [] cUnattr u), readyFc := s.fc, stage := .round }) })
        .next (pushRound (updRound s n (fun q => { kind := .commit, ready := true, digest := replicaDigest s n, held := q.held })) n)

/-- At rank 0 the repair of a member has ended; the round goes on after the last. -/
def repairDone (s : State) (n r : Nat) : State :=
  pushRound (updRound s n (fun q => { q with repairs := q.repairs.filter (· != r) })) n

/-- The member's repair has ended: rank 0 hears of it. -/
def endRepair (s : State) (n : Nat) : State :=
  let r := dataRank s n
  if r = 0 then repairDone s n 0 else { s with out := s.out ++ [.repair n 0 (.done (BitVec.ofNat 5 r))] }

/-- The member asks its supplier for entries. -/
def askEntries (s : State) (n : Nat) (is : List Nat) : State :=
  { s with out := s.out ++ [.repair n (getSlot s n).round.supplier (.want (BitVec.ofNat 5 (dataRank s n)) (is.map (BitVec.ofNat 12)))] }

/-- The list of the supplier's CRCs reaches a member: it is to receive each entry whose CRC differs. -/
def landList (s : State) (n rank : Nat) (crcs : List Nat) : State :=
  let own := entryCrcs s n
  let bad := (List.range own.length).filter (fun i => nth 0 own i != nth 0 crcs i)
  let s := updRound s n (fun q => { q with supplier := rank, entries := bad })
  if bad.isEmpty then endRepair s n else askEntries s n bad

/-- Write the bytes of an entry into the alternate bank; the gradient store is left alone. -/
def writeEntry (s : State) (n i : Nat) (bs : List Byte) : State :=
  let x := getSlot s n
  let parts := (entryParts x.hostPlaced x.table i ((x.cn + 1) % 2)).filter (fun p => p.1 != .e)
  (parts.foldl (fun (a : State × List Byte) p => (writeStream a.1 n p.1 p.2.2.1 (a.2.take p.2.2.2), a.2.drop p.2.2.2)) (s, bs)).1

/-- An entry reaches the member: overwritten, its CRC computed again and checked; one that still differs is asked for once more
(log entry 73). -/
def landEntry (s : State) (n i crc : Nat) (bs : List Byte) : State :=
  if !(getSlot s n).round.entries.contains i then s
  else
    let s := writeEntry s n i bs
    if crc64 (entryData s n i) ≠ crc then askEntries s n [i]
    else
      let s := updRound s n (fun q => { q with entries := q.entries.filter (· != i) })
      if (getSlot s n).round.entries.isEmpty then endRepair s n else s

/-- The supplier sends entries with their CRCs. -/
def sendEntries (s : State) (n rank : Nat) (is : List Nat) : State :=
  { s with out := s.out ++ is.map (fun i =>
      let bs := entryData s n i
      .repair n rank (.entry (BitVec.ofNat 12 i) (BitVec.ofNat 64 (crc64 bs)) bs)) }

/-- REPAIR (R201): a message of the repair of divergent replicas, in a round that the member is ready for. -/
def execRepair (slot : BitVec 12) (m : RepairMsg) (s : State) : Res :=
  let n := slot.toNat
  let x := getSlot s n
  if x.round.kind != .commit || !x.round.ready || x.round.issued then .next s
  else match m with
    | .supply rs => .next (sendLists s n (rs.map (·.toNat)))
    | .list r crcs => .next (landList s n r.toNat (crcs.map (·.toNat)))
    | .want r is => .next (sendEntries s n r.toNat (is.map (·.toNat)))
    | .entry i crc bs => .next (landEntry s n i.toNat crc.toNat bs)
    | .done r => .next (repairDone s n r.toNat)

/-! ### Ends of drains (R148, R149, R384) -/

/-- A member that has recovered takes the COMMIT that waited for it: the decision stands (R196, Table 08.7). -/
def takeCommit (s : State) (n : Nat) (p : Packet) : State :=
  let s := updRound (setStage s n .round) n (fun q =>
    { q with kind := .commit, ready := true, abort := none, rimLost := false, held := q.held.filter (· != p) })
  landFinal s n p

/-- A member whose partition is served again takes the COMMIT that waits for it, or joins the restart round (R384). -/
def joinRestart (s : State) (n : Nat) : State :=
  let x := getSlot s n
  if x.run.any (fun r => r.stage == .replay) && x.round.abort.isNone && partWhole s x.part then
    match heldCommit x with
    | some p => takeCommit s n p
    | none =>
      if x.round.kind == .restart && !x.round.ready then pushRound (updRound s n (fun q => { q with ready := true })) n else s
  else s

/-- The replay of a step begins: counted, flagged, and the restart round joined (R198, R384). -/
def beginReplay (s : State) (n : Nat) : State :=
  let s := updSlot s n (fun x =>
    { x with
      replays := x.replays + 1,
      replayCnt := min (x.replayCnt + 1) 0xFFFF,
      round := { kind := .restart, held := x.round.held },
      hostWait := false,
      run := x.run.map (fun r => { r with replayed := r.replayed + 1, causes := addCause [] cFault r.start s.fc }) })
  joinRestart { raiseTrain s nfReplay with borders := s.borders.filter (fun b => b.2.slot != n) } n

/-- An aborted attempt has run out of a partition: what waits for the drain's end, and REPORT or REPLAY (R198). -/
def endDiscard (s : State) (p : Nat) : State :=
  let pt := getPart s p
  let s := setPart s p { pt with drain := .idle }
  match pt.run with
  -- with no RUN, the tokens of every context number go (log entry 123)
  | none => afterDrain (discardTokens s p [0, 1, 2, 3]) p
  | some n =>
    let s := discardTokens s p (ownCtxs s n)
    match (getSlot s n).round.abort, heldCommit (getSlot s n) with
    | none, _ => afterDrain s p
    -- COMMIT was issued: the decision stands, and a RUN with a cause to report ends with it
    | some (report, code), some c =>
      let s := (retireFailed s n).getD (forgetFailed s n)
      if report then
        let s := takeCommit s n c
        afterDrain (if (getSlot s n).run.isSome then endRun s n code (runDetail s n code) else s) p
      else afterDrain (joinRestart (updRound s n (fun q => { q with kind := .commit, ready := true, abort := none })) n) p
    | some (true, code), none =>
      let s := match retireFailed s n with
        | some s => reportAbort s n code
        | none => reportAbort (forgetFailed s n) n sTierFull
      afterDrain { s with borders := s.borders.filter (fun b => b.2.slot != n) } p
    | some (false, _), none =>
      match retireFailed s n with
      | some s => afterDrain (beginReplay s n) p
      | none => afterDrain (reportAbort (sendAborts (forgetFailed s n) n true sTierFull) n sTierFull) p

/-- DRAIN_END (R148, R149): a discard drain ends once the operations issued have completed, or a run drain once every queue and lane of the partition is empty and
every core is at a token boundary. -/
def execDrainEnd (part : BitVec 6) (s : State) : Res :=
  let p := part.toNat
  let pt := getPart s p
  match pt.drain with
  | .idle => .next s
  | .discard => if gathersOut s p then .next s else .next (endDiscard s p)
  | .run => if partEmpty s p then .next (afterDrain (setPart s p { pt with drain := .idle }) p) else .next s

end Sys2Proof.Machine
end

