-- ==== Sys2Proof/Machine/Faults.lean ====
section
/-! DEFINITION. Detection, containment and recovery of faults (R228, R371 to R388). -/

namespace Sys2Proof.Machine

/-! ### What a fault reaches -/

/-- The clusters a compute die serves. -/
def dieClusters (s : State) (die : Nat) : List Nat :=
  match diePos s die with
  | none => []
  | some p => posClusters (dieQuad die) p

/-- Partitions with a cluster in a quadrant. -/
def quadParts (s : State) (q : Nat) : List Nat :=
  (s.parts.filter (fun p => p.2.clusters.any (fun k => k / 128 == q))).map (·.1)

/-- The bridges between two quadrants, horizontal first (R11): 0 S0–S1, 1 S2–S3, 2 S0–S2, 3 S1–S3. -/
def bridgesBetween (a b : Nat) : List Nat :=
  (if a % 2 = b % 2 then [] else [a / 2]) ++ (if a / 2 = b / 2 then [] else [2 + b % 2])

/-- Partitions whose cores reach one another over a bridge. -/
def bridgeParts (s : State) (g : Nat) : List Nat :=
  (s.parts.filter (fun p =>
    let qs := (p.2.clusters.map (· / 128)).eraseDups
    qs.any (fun a => qs.any (fun b => (bridgesBetween a b).contains g)))).map (·.1)

/-- Slots whose job reaches beyond the package. -/
def jobSlots (s : State) : List Nat := (s.slots.filter (fun p => !(jobCuts s (slotJob p.2)).isEmpty)).map (·.1)

/-- A partition lies on an unserved position (R386), on a Slath out of service or across a bridge out of service
(R388). -/
def partUnserved (s : State) (p : Nat) : Bool :=
  (getPart s p).clusters.any (fun k => clusterUnserved s k || isFenced s (0x3C + k / 128))
    || s.fault.bridges.any (fun g => (bridgeParts s g).contains p)

/-- A RUN of a slot cannot be served (R386, R388). -/
def runUncovered (s : State) (n : Nat) : Bool :=
  partUnserved s (getSlot s n).part || ((isFenced s 0x38 || isFenced s 0x39) && (jobSlots s).contains n)

/-! ### Aborts for faults -/

/-- A RUN between its steps ends with a status, or its step is aborted with REPORT. -/
def failRun (s : State) (n code : Nat) : State :=
  match (getSlot s n).run with
  | none => s
  | some r => if r.stage == .between || r.stage == .queued then endRun s n code (runDetail s n code) else abortAttempt s n true code

/-- Every RUN of a partition ends with a status: those that wait first. -/
def failParts (s : State) (ps : List Nat) (code : Nat) : State :=
  ps.foldl (fun s p =>
    let s := (getPart s p).runQueue.foldl (fun s n => failRun s n code) s
    match (getPart s p).run with | none => s | some n => failRun s n code) s

/-- A covered fault strikes a slot: its attempt, or the moves of its re-shard, start again (R347, R382). -/
def replaySlot (s : State) (n : Nat) : State :=
  let x := getSlot s n
  if reshardOpen x then restartMoves s n sFaultCovered else abortAttempt s n false sFaultCovered

/-- An uncovered fault strikes a slot. -/
def failSlot (s : State) (n code : Nat) : State :=
  if reshardOpen (getSlot s n) then failReshard s n code else failRun s n code

/-! ### DIE faults (R377, R378, R386) -/

/-- Requester fences on every arbiter input a compute die drives (R378): its bond port and its site's input on each
bank port of its Slath. -/
def fenceArbiters (s : State) (die : Nat) : State :=
  let s := (List.range 8).foldl (fun s i => fenceInput s (arbKey 3 die) i) s
  (List.range 96).foldl (fun s b => fenceInput s (arbKey 2 (96 * dieQuad die + b)) (dieSite die)) s

/-- A discard drain starts on partitions. -/
def discardParts (s : State) (ps : List Nat) : State :=
  ps.foldl (fun s p => cancelSwitches (setPart s p { getPart s p with drain := .discard }) p) s

/-- The spare that could serve a compute die is taken, or the die is that spare (R13). -/
def spareTaken (s : State) (die : Nat) : Bool :=
  let q := dieQuad die
  let even := siteEven (dieSite die)
  let same (d : Nat) : Bool := dieQuad d == q && siteEven (dieSite d) == even
  let spare := 12 * q + (if even then 11 else 8)
  die == spare || isFenced s spare || mget 0 s.fault.spareFor (2 * q + boolNat even) != 0
    || (s.fault.latched ++ s.fault.powering).any same

/-- Record the fence of a die in the fence table and the event log (R15, R404). A fenced spare is no longer powered; what
position it is for stays as it was (log entry 130). -/
def fenceDie (s : State) (die code : Nat) : State :=
  let off : SMap Bool := s.fault.spareOn.filter (fun p => spareDie p.1 != die)
  logEvent { s with fault := { s.fault with fenced := s.fault.fenced ++ [die], spareOn := off } } lgFence code die 2 []

/-- A DIE fault is classified and contained (R378); with no spare left it is uncovered and the position stays unserved
(R386). A die that serves no position is not powered and has no faults. -/
def dieFault (s : State) (die det : Nat) : State :=
  match diePos s die with
  | none => s
  | some pos =>
    let ps := partsWith s (dieClusters s die)
    if spareTaken s die then
      let s := fenceDie (fenceArbiters (recordFault s fcUncovered det sFaultUncovered die) die) die sFaultUncovered
      let s := { s with fault := { s.fault with unserved := s.fault.unserved ++ [16 * dieQuad die + pos] } }
      discardParts (failParts s ps sFaultUncovered) ps
    else
      let s := fenceDie (fenceArbiters (recordFault s fcDie det sFaultCovered die) die) die sFaultCovered
      let s := { s with fault := { s.fault with latched := s.fault.latched ++ [die] } }
      discardParts (abortParts s ps false sFaultCovered) ps

/-- DIE_FAULT (R378, R386). -/
def execDieFault (die : BitVec 6) (detect : BitVec 4) (s : State) : Res :=
  if 48 ≤ die.toNat then .refused .noSuchUnit else .next (dieFault s die.toNat detect.toNat)

/-! ### Dies without redundancy (R388) -/

/-- A Slath fails: the RUNs of partitions in its quadrant end with FAULT_UNCOVERED. -/
def slathFault (s : State) (q det : Nat) : State :=
  if isFenced s (0x3C + q) then s
  else
    let s := fenceDie (recordFault s fcUncovered det sFaultUncovered (0x3C + q)) (0x3C + q) sFaultUncovered
    failParts s (quadParts s q) sFaultUncovered

/-- A bridge between Slaths fails. -/
def bridgeFault (s : State) (g det : Nat) : State :=
  if s.fault.bridges.contains g then s
  else
    let s := recordFault s fcUncovered det sFaultUncovered 0xFF
    failParts { s with fault := { s.fault with bridges := s.fault.bridges ++ [g] } } (bridgeParts s g) sFaultUncovered

/-- A port die fails: its Wale links and its host port are lost, and the RUNs of jobs beyond the package end with
FAULT_UNCOVERED. -/
def portDieFault (s : State) (d det : Nat) : State :=
  if isFenced s (0x38 + d) then s
  else
    let s := fenceDie (recordFault s fcUncovered det sFaultUncovered (0x38 + d)) (0x38 + d) sFaultUncovered
    let s := (jobSlots s).foldl (fun s n => failSlot s n sFaultUncovered) s
    let s := [d, d + 2, d + 4].foldl (fun s p => if (getLink s p).state == .up || (getLink s p).state == .retrain then drainAll (loseLink s p) else s) s
    let s := resetPort s d
    setPort s d { getPort s d with up := false }

/-! ### Rim dies (R228, R377, R387) -/

/-- A granule index whose HBM3E granule lies on a stack out of service is mapped to a free zeroed granule (R220, R228);
none where there is no free one. -/
def replaceHbm (dom : Nat) (s : State) (g : Nat) : Option State :=
  let d := getDom s dom
  match physOf d 1 g with
  | none => some s
  | some p =>
    if !s.tiers.fenced.contains (p % 16 / 2) then some s
    else (takeHbm s.tiers ((p + 15) % 16)).map (fun r =>
      let t := s.tiers
      setDom { s with tiers := { t with hbmGran := mset .free (mset .free t.hbmGran p .retired) r .mapped, hbm := dropGranule t.hbm p, undef := mset 0 t.undef p 0 } } dom
        { d with hbmMap := mset 0 d.hbmMap g (r + 1) })

/-- The HBM3E granules of a slot's regions, with the kind of their region. -/
def slotHbm (s : State) (n : Nat) : List (RegionKind × Nat) :=
  ((getDom s (getSlot s n).dom).regions.filter (fun r => r.slot == some n && r.tier == 1)).flatMap
    (fun r => (List.range r.count).map (fun k => (r.kind, r.gidx + k)))

/-- A slot's HBM3E granules on stacks out of service are replaced, and its working copy becomes WC-stale where the
visible one lay there. -/
def replaceLost (s : State) (n : Nat) : Option State :=
  let x := getSlot s n
  let d := getDom s x.dom
  let lost := (slotHbm s n).filter (fun k => (physOf d 1 k.2).any (fun p => s.tiers.fenced.contains (p % 16 / 2)))
  (lost.foldl (fun (a : Option State) k => a.bind (fun s => replaceHbm x.dom s k.2)) (some s)).map (fun s =>
    if lost.any (fun k => k.1 == .wc x.bank) then updSlot s n (fun x => { x with wcStale := true }) else s)

/-- The loss of a rim die is the cause of the abort that is to come, unless a reported cause came before (R198). -/
def noteRimLoss (s : State) (n : Nat) : State :=
  if abortable (getSlot s n) && !(getSlot s n).round.abort.any (·.1) then updRound s n (fun q => { q with rimLost := true }) else s

/-- What the loss of a rim die means for a slot (R228, R387): a mirrored slot goes on from the surviving copies; any other
slot has lost data. -/
def rimLossSlot (covered : Bool) (s : State) (n : Nat) : State :=
  if !(getSlot s n).mirrored then
    failSlot (noteRimLoss (updSlot s n (fun x => { x with lostData := true })) n) n sTierFail
  else
    let s := if covered then replaySlot s n else failSlot (noteRimLoss s n) n sFaultUncovered
    match replaceLost s n with
    | some s => s
    | none => failSlot (noteRimLoss s n) n sTierFull

/-- Mirrored slots that have lost both copies of a block: rim dies d and d XOR 4 are out of service (R226). -/
def loseMirrored (s : State) : State :=
  if s.tiers.fenced.any (fun d => s.tiers.fenced.contains (d ^^^ 4)) then
    (s.slots.map (·.1)).foldl (fun s n => updSlot s n (fun x => if x.present then { x with lostData := true } else x)) s
  else s

/-- A rim die fails: fenced, its stacks and channels out of service, MIRROR_DEG raised. A second one is uncovered. -/
def rimFault (s : State) (d det : Nat) : State :=
  if s.tiers.fenced.contains d then s
  else
    let covered := s.tiers.fenced.isEmpty
    let s := if covered then recordFault s fcRim det sFaultCovered (0x30 + d) else recordFault s fcUncovered det sFaultUncovered (0x30 + d)
    let s := logEvent s lgFence (if covered then sFaultCovered else sFaultUncovered) (0x30 + d) 2 []
    let s := raiseTier { s with tiers := { s.tiers with fenced := s.tiers.fenced ++ [d] } } tfMirrorDeg
    let s := loseMirrored s
    ((s.slots.filter (·.2.present)).map (·.1)).foldl (rimLossSlot covered) s

/-- RIM_FAULT (R228). -/
def execRimFault (rim : BitVec 3) (detect : BitVec 4) (s : State) : Res := .next (rimFault s rim.toNat detect.toNat)

/-- A failed read on a channel counts towards its rim die's fault: four channels within 1 s (R377). -/
def rimFailure (s : State) (c : Nat) : State :=
  let d := channelRim c
  let l := (mget [] s.fault.rimFails d).filter (fun f => f.1 != c && decide (s.fc < f.2 + 1200000000)) ++ [(c, s.fc)]
  let s := { s with fault := { s.fault with rimFails := mset [] s.fault.rimFails d l } }
  if 4 ≤ l.length then rimFault s d dtTier else s

/-! ### Links (R313, R314, R317) -/

/-- The slots whose job has a cut on an axis. -/
def axisSlots (s : State) (a : Nat) : List Nat :=
  (s.slots.filter (fun p => (List.range 3).any (fun c => cutAxis (slotJob p.2) c == some a))).map (·.1)

/-- The port die of a Wale port (Table 00.7). -/
def linkDie (p : Nat) : Nat := 0x38 + boolNat (portNeg p)

/-- The fault of a lost link (Table 16.1): covered while the axis was in RING mode. -/
def linkFault (s : State) (p : Nat) (ring : Bool) : State :=
  let ns := axisSlots s (portAxis p)
  if ring then ns.foldl replaySlot (recordFault s fcLink dtWale sFaultCovered (linkDie p))
  else ns.foldl (fun s n => failSlot s n sFaultUncovered) (recordFault s fcUncovered dtWale sFaultUncovered (linkDie p))

/-! ### Detectors -/

/-- A transient on a bond link: 256 within 1 s are a DIE fault (R372). -/
def bondTransient (s : State) (die : Nat) : State :=
  let s := faultTransient s
  let l := (mget [] s.fault.bond die).filter (fun t => decide (s.fc < t + 1200000000)) ++ [s.fc]
  let s := { s with fault := { s.fault with bond := mset [] s.fault.bond die l } }
  if 256 ≤ l.length then dieFault s die dtHop else s

/-- HOP_CRC (R372): a flit crosses a hop. Its check failed where `first`, that of its resend where `again`; a HOP point
corrupts it once (R422). -/
def execHopCrc (place : HopPlace) (first again : Bool) (s : State) : Res :=
  match place with
  | .bond d =>
    let die := d.toNat
    if 48 ≤ die then .refused .noSuchUnit
    else if (diePos s die).isNone then .next s
    else if first then .next (if again then dieFault s die dtHop else bondTransient s die)
    else match takeInject s 0 die with
      | none => .next s
      | some s => .next (faultTransient s)
  | .slath q => .next (if !first then s else if again then slathFault s q.toNat dtHop else faultTransient s)
  | .bridge b => .next (if !first then s else if again then bridgeFault s b.toNat dtHop else faultTransient s)

/-- The die that carries a position, as the fault manager numbers it. -/
def posDie (s : State) (q pos : Nat) : Nat :=
  let own := 12 * q + (if pos < 8 then pos else pos + 1)
  if isFenced s own then 12 * q + (if pos < 8 then 8 else 11) else own

/-- The die of a core. -/
def coreDie (s : State) (c : Nat) : Nat := posDie s (c / 1024) (corePos c)

/-- Die, number and user of an SRAM word: the slot whose attempt uses it. -/
def sramPlace (s : State) (w : SramWord) : Nat × Nat × Option Nat :=
  let runOf (c : Nat) : Option Nat := (partOfCluster s (coreCluster c)).bind (fun p => (getPart s p).run)
  match w with
  | .store c k => (coreDie s c.toNat, c.toNat * 2 ^ 24 + k.toNat, runOf c.toNat)
  | .acc c e k => (coreDie s c.toNat, 2 ^ 40 + c.toNat * 2 ^ 24 + e.toNat * 2 ^ 16 + k.toNat, runOf c.toNat)
  | .context c x k => (coreDie s c.toNat, 2 ^ 41 + c.toNat * 2 ^ 24 + x.toNat * 2 ^ 16 + k.toNat, (getCtx (getCore s c.toNat) x.toNat).slot)
  | .cache q g k =>
    (0x3C + q.toNat, 2 ^ 42 + g.toNat * 2 ^ 24 + k.toNat,
      match mget .free (getSlath s q.toNat).use g.toNat with
      | .free => none
      | .problems p => (getPart s p).run
      | .staging n => some n)

/-- An uncorrectable word met by a slot's attempt (R373): the attempt is replayed; a word met again in the next attempt is
a lasting fault. -/
def sramError (s : State) (die word n : Nat) : State :=
  if !abortable (getSlot s n) then s
  else if s.fault.words.contains (die, word, n, true) then
    let s := { s with fault := { s.fault with words := s.fault.words.filter (fun w => !(w.1 == die && w.2.1 == word)) } }
    if die < 48 then dieFault s die dtSram else slathFault s (die - 0x3C) dtSram
  else
    let s := { s with fault := { s.fault with words := s.fault.words ++ [(die, word, n, false)] } }
    abortAttempt s n false sFaultCovered

/-- The counter of corrected errors of an SRAM (R71, R85, Table 16.5): a core's operand store by the core's address, an engine's
accumulator memory from 4,096 on, a context's memory from 20,480 on, a Slath's shared cache from 36,864 on. -/
def sramCounter : SramWord → Nat
  | .store c _ => c.toNat
  | .acc c e _ => 4096 + 4 * c.toNat + e.toNat
  | .context c x _ => 20480 + 4 * c.toNat + x.toNat
  | .cache q _ _ => 36864 + q.toNat

/-- A corrected error costs no cycle and is counted (R71, R85). -/
def countCorrected (s : State) (w : SramWord) : State :=
  let k := sramCounter w
  { s with fault := { s.fault with sramCorr := mset 0 s.fault.sramCorr k (satAdd32 (mget 0 s.fault.sramCorr k) 1) } }

/-- SRAM_UNCORRECTABLE (R373). With `corrected` the SECDED code has corrected the word's error instead (log entry 128). -/
def execSramUncorrectable (e : SramError) (s : State) : Res :=
  let p := sramPlace s e.word
  if e.corrected then .next (countCorrected s e.word)
  else match p.2.2 with
  | none => .next s
  | some n => .next (sramError s p.1 p.2.1 n)

/-- A read of a core's operand store through the core access: `k` reads it, unless an SRAM point injects an uncorrectable
error, whose word no later attempt meets (R422). -/
def coreRead (s : State) (c : Nat) (k : Res) : Res :=
  match (partOfCluster s (coreCluster c)).bind (fun p => (getPart s p).run) with
  | none => k
  | some n =>
    if !abortable (getSlot s n) then k
    else match takeInject s 1 c with
      | none => k
      | some s => .next (sramError s (coreDie s c) (2 ^ 43 + s.fc) n)

/-- A Handle die misses its heartbeats (R374). A die that is rebooting in a live update is exempt (R411). -/
def handleLost (s : State) (d : Nat) : State :=
  if activeDie s = some d then loseActive s d dtHeartbeat
  else if (getDie s d).role = .standby then
    loseStandby (recordFault s fcHandle dtHeartbeat sFaultCovered (0x3A + d)) d
  else s

/-- A lasting fault by missed heartbeats, by kind of die (R374). -/
def heartbeatFault (s : State) (die : Nat) : State :=
  if die < 0x30 then dieFault s die dtHeartbeat
  else if die < 0x38 then rimFault s (die - 0x30) dtHeartbeat
  else if die < 0x3A then portDieFault s (die - 0x38) dtHeartbeat
  else if die < 0x3C then handleLost s (die - 0x3A)
  else slathFault s (die - 0x3C) dtHeartbeat

/-- Whether a die sends heartbeats: not fenced, and powered where it is a compute die; a rebooting Handle die is exempt. -/
def beats (s : State) (die : Nat) : Bool :=
  if die < 0x30 then (diePos s die).isSome
  else if die < 0x38 then !s.tiers.fenced.contains (die - 0x30)
  else if 0x3A ≤ die && die < 0x3C then (getDie s (die - 0x3A)).role == .active || (getDie s (die - 0x3A)).role == .standby
  else !isFenced s die

/-- HEARTBEAT (R374): a period of a die passes with or without its heartbeat; the third missed in a row is a fault. -/
def execHeartbeat (die : Byte) (received : Bool) (s : State) : Res :=
  let d := die.toNat
  if 0x40 ≤ d then .refused .noSuchUnit
  else if !beats s d then .next s
  else
    let n := if received then 0 else mget 0 s.fault.missed d + 1
    let s := { s with fault := { s.fault with missed := mset 0 s.fault.missed d (if n = 3 then 0 else n) } }
    .next (if n = 3 then heartbeatFault s d else s)

/-- SELF_TEST (R375 to R377): a first failure aborts the attempts on the die's partitions with REPLAY, a second in a row
is a DIE fault. -/
def execSelfTest (core : BitVec 12) (engine : BitVec 2) (pass : Bool) (s : State) : Res :=
  let c := core.toNat
  if !coreValid c || (coreEven c && decide (2 ≤ engine.toNat)) then .refused .noSuchUnit
  else
    let die := coreDie s c
    let k := 4 * c + engine.toNat
    let failed := s.fault.failedTest.contains k
    let drop := { s with fault := { s.fault with failedTest := s.fault.failedTest.filter (· != k) } }
    if (diePos s die).isNone then .next s
    else if pass then .next (if failed then faultTransient drop else s)
    else if failed then .next (dieFault drop die dtSelfTest)
    else
      let s := { s with fault := { s.fault with failedTest := s.fault.failedTest ++ [k] } }
      .next (abortParts s (partsWith s (dieClusters s die)) false sFaultCovered)

/-! ### Spare substitution (R385, R386) -/

/-- SPARE_SUBSTITUTION (R381, R385): Handle switches on the spare for the fenced die whose fault was classified first. -/
def execSpareSubstitution (die : BitVec 6) (s : State) : Res :=
  let d := die.toNat
  if handleUp s && s.fault.latched.head? == some d then
    .next { s with fault := { s.fault with latched := s.fault.latched.drop 1, powering := s.fault.powering ++ [d] } }
  else .next s

/-- A core of a spare: residency, GEN and images as the partition controller holds them; stores, weight banks,
accumulators and queues empty (R89, R382, R385). -/
def spareCore (pt : PartSt) (co : CoreSt) : CoreSt :=
  { ctxs := (co.ctxs.map (fun x => (x.1, ({ resident := x.2.resident, gen := x.2.gen, slot := x.2.slot, image := x.2.image, accPhys := x.2.accPhys } : Ctx)))).filter (fun x => x.2 != {}),
    cur := pt.cur, fold := co.fold }

/-- The loads of a spare's cores end (R385 step 3): a context whose image failed its check twice stays non-resident on
every core of the partition (R134). -/
def loadSpare (s : State) (ks : List Nat) (o : SpareOp) : State :=
  let bad := (o.first.filter o.second.contains).map (·.toNat)
  let ps := partsWith s ks
  let s := { s with pipeFlags := raiseIf s.fc (!o.first.isEmpty) s.pipeFlags pipeLoadRetry }
  ps.foldl (fun s p =>
    let pt := getPart s p
    let s := (partCores pt).foldl (fun s c => if ks.contains (coreCluster c) then setCore s c (spareCore pt (getCore s c)) else s) s
    let s := if bad.isEmpty then s else mapCores s p (fun _ co => evictCore bad co)
    match pt.run with | none => s | some n => joinRestart s n) s

/-- SPARE_POWERED (R385, R386): the spare takes the fenced die's position and is loaded. A spare that fails leaves the
position unserved; it is then fenced as the spare for that position, so that the _SPARE_FOR field names it (DESIGN CHOICE, log
entry 130: R385 sets the field for a spare that powers up). -/
def execSparePowered (o : SpareOp) (s : State) : Res :=
  let d := o.die.toNat
  if !s.fault.powering.contains d then .next s
  else
    let q := dieQuad d
    let even := siteEven (dieSite d)
    let pos := (dieHome s d).getD 0
    let k := 2 * q + boolNat even
    let spare := 12 * q + (if even then 11 else 8)
    let f := { s.fault with powering := s.fault.powering.filter (· != d), spareFor := mset 0 s.fault.spareFor k (pos + 1) }
    if o.ok then
      let s := { s with fault := { f with spareOn := mset false f.spareOn k true, flags := raise s.fc f.flags ffSubst } }
      .next (loadSpare (logEvent (measureSites s) lgFence 0 spare 0 []) (posClusters q pos) o)
    else .next (dieFault { s with fault := f } spare dtSelfTest)

end Sys2Proof.Machine
end

