-- ==== Sys2Proof/Machine/TierReads.lean ====
section
/-! DEFINITION. Requests at the memory tiers: retries, failed reads, lateness and the zeroing of granules (R209, R218 to
R220, R229, R230, R422, R462). -/

namespace Sys2Proof.Machine

/-! ### Counters (R231) -/

/-- A channel's counters. -/
def getChan (s : State) (c : Nat) : ChanCnt := mget {} s.tiers.chans c

/-- Change a channel's counters. -/
def updChan (s : State) (c : Nat) (f : ChanCnt → ChanCnt) : State :=
  { s with tiers := { s.tiers with chans := mset {} s.tiers.chans c (f (getChan s c)) } }

/-- Change the counters of the slot a request belongs to. -/
def updSlot? (s : State) (n : Option Nat) (f : SlotSt → SlotSt) : State :=
  match n with
  | none => s
  | some n => updSlot s n f

/-! ### Lateness (R229, R230) -/

/-- The parts of an interval of fc [from, to) that lie outside another. -/
def outside (i p : Nat × Nat) : List (Nat × Nat) :=
  [(p.1, min p.2 i.1), (max p.1 i.2, p.2)].filter (fun q => decide (q.1 < q.2))

/-- The fc of [a, b) that lie in none of a list of intervals. -/
def freshFc (l : List (Nat × Nat)) (a b : Nat) : Nat :=
  sumNat ((l.foldl (fun ps i => ps.flatMap (outside i)) (if a < b then [(a, b)] else [])).map (fun p => p.2 - p.1))

/-- A request of a slot on a channel was late in the fc [a, b): the slot's and the channel's LATE counters and the cause
TIER of its step. -/
def noteLate (s : State) (n c a b : Nat) : State :=
  if b ≤ a then s
  else
    let s := updChan (raiseTier (dropStalled s n a b) tfLate) c (fun k => { k with late := satAdd64 k.late (freshFc k.lateFc a b), lateFc := k.lateFc ++ [(a, b)] })
    updSlot s n (fun x =>
      let old := match x.run with
        | none => []
        | some r => (r.causes.filter (·.1 == cTier)).map (·.2)
      let k := freshFc old a b
      { x with
        tierLate := satAdd64 x.tierLate k,
        run := x.run.map (fun r => { r with late := satAdd64 r.late k, causes := r.causes ++ [(cTier, a, b)] }) })

/-- Lateness of a request that ends in this fc: its window end counted from the start of the attempt. A read is late up to
and including the fc of its delivery, a write until it is accepted. -/
def requestLate (s : State) (n c due : Nat) (write : Bool) : State :=
  match (getSlot s n).run with
  | none => s
  | some r => if r.stage == .step || (r.stage == .replay && (getSlot s n).round.abort.isSome) then noteLate s n c (r.start + due + 1) (if write then s.fc else s.fc + 1) else s

/-! ### Reads and retries (R218, R219, R422) -/

/-- How a read went: errors corrected in it and in its retry, uncorrectable, uncorrectable again, and whether a DRAM point made
it so. -/
structure ReadFate where
  corrected : Nat
  bad1 : Bool
  bad2 : Bool
  injected : Bool := false
  deriving DecidableEq, Repr

/-- A read on a channel meets the DRAM points armed for it: DRAM_FAIL, DRAM_RETRY, DRAM_CORR. -/
def injectRead (s : State) (c : Nat) (f : ReadFate) : State × ReadFate :=
  match takeInject s 4 c with
  | some s => (s, { f with bad1 := true, bad2 := true, injected := true })
  | none =>
    match takeInject s 3 c with
    | some s => (s, { f with bad1 := true })
    | none =>
      match takeInject s 2 c with
      | some s => (s, { f with corrected := f.corrected + 1 })
      | none => (s, f)

/-- Counters and flags of a read (R218, R219): a corrected error, a retry, a failed read. A failed read counts towards its
rim die's fault unless it was injected (R377). -/
def countRead (s : State) (n : Option Nat) (c : Nat) (f : ReadFate) : State :=
  let s := if f.corrected = 0 then s else updChan s c (fun k => { k with corr := satAdd32 k.corr f.corrected })
  if !f.bad1 then s
  else
    let s := updChan (raiseTier s tfRetry) c (fun k => { k with retry := satAdd32 k.retry 1 })
    let s := updSlot? s n (fun x => { x with tierRetry := satAdd32 x.tierRetry 1 })
    if !f.bad2 then faultTransient s
    else
      let s := updChan (raiseTier s tfFail) c (fun k => { k with fail := satAdd32 k.fail 1 })
      let s := updSlot? s n (fun x => { x with tierFail := satAdd32 x.tierFail 1 })
      if f.injected then s else rimFailure s c

/-- Domain and region of a physical granule. -/
def granuleRegion (s : State) (tier p : Nat) : Option (Nat × Region) :=
  (granuleOwner s tier p).bind (fun o =>
    ((getDom s o.1).regions.find? (fun r => r.tier == tier && decide (r.gidx ≤ o.2.1) && decide (o.2.1 < r.gidx + r.count))).map
      (fun r => (o.1, r)))

/-- A region with a second copy (Table 09.4). -/
def hasCopy (r : Region) : Bool := r.mirrored && (match r.kind with | .w _ | .st _ _ | .grad => true | _ => false)

/-- A block of a region can be read from its other copy: the rim die that holds it is in service (R227, R228). -/
def otherCopy (s : State) (r : Region) (tier p o : Nat) : Bool :=
  hasCopy r && !s.tiers.fenced.contains (rimOf tier (p ^^^ 4) o)

/-- A RUN whose read has failed: its attempt aborts; between two steps, where the working copy is regenerated, a cause that is
reported ends the RUN (log entry 126). -/
def readAborts (s : State) (n : Nat) (report : Bool) (code : Nat) : State :=
  if report && (getSlot s n).run.any (fun r => r.stage == .between) then endRun s n code (runDetail s n code)
  else abortAttempt s n report code

/-- The response to a failed read of a slot's RUN, by region (Table 09.4). A master that cannot be read leaves the working copy
that would be regenerated from it stale. -/
def failedRead (s : State) (n tier p o : Nat) : State :=
  match granuleRegion s tier p with
  | none => s
  | some (_, r) =>
    match r.kind with
    | .wc _ => readAborts (updSlot s n (fun x => { x with wcStale := true })) n false sFaultCovered
    | .stash | .gaa => readAborts s n false sFaultCovered
    | .buffer => readAborts s n true sTierFail
    | _ =>
      if otherCopy s r tier p o then s
      else
        let s := if (getSlot s n).run.any (fun r => r.stage == .between) then updSlot s n (fun x => { x with wcStale := true }) else s
        readAborts s n true sTierFail

/-- The response to a failed read of the moves of a slot's re-shard (R462): served from the other copy, or the re-shard fails;
WC becomes stale. -/
def failedMove (s : State) (n tier p o : Nat) : State :=
  match granuleRegion s tier p with
  | none => s
  | some (_, r) =>
    if otherCopy s r tier p o then s
    else
      let s := match r.kind with | .wc _ => updSlot s n (fun x => { x with wcStale := true }) | _ => s
      failReshard s n sTierFail

/-- A RUN of the slot makes tier reads: in an attempt, or for the working copy before one. -/
def runReads (x : SlotSt) : Bool := abortable x || x.run.any (fun r => r.stage == .between)

/-- Whether a tier code and physical granule exist. -/
def granuleOk (tier p : Nat) : Bool := (tier == 1 && decide (p < hbmGranules)) || (tier == 2 && decide (p < lpGranules))

/-- The first tier address of a stream for an entry. -/
def streamFirst (t : TierStream) (e : ProbEntry) : Nat :=
  t.base + (match t.sel with | none => 0 | some i => nth 0 e.off i)

/-- The byte ranges that the tier streams of a slot's RUN may write. -/
def writeStreams (x : SlotSt) : List (Nat × Nat) :=
  match x.run, x.pattern with
  | some r, some pat => (pat.streams.filter (·.writes)).flatMap (fun t => r.problems.map (fun e => (streamFirst t e, t.extent)))
  | _, _ => []

/-- Element (m, n) of a tile that a rim die writes: not where the token masks it (R162), nor outside the streams. -/
def putElem (x : SlotSt) (u : TierPut) (s : State) (i : Nat) : State :=
  let m := i / 32
  let n := i % 32
  let w := (tokFmt u.fmt.toNat).width
  let a := u.addr.toNat + m * u.stride.toNat + n * w
  if tokMrows u.tile.hdr < m ∨ tokMcols u.tile.hdr < n then s
  else if (writeStreams x).any (fun q => decide (q.1 ≤ a) && decide (a + w ≤ q.1 + q.2)) then
    setTierBytes s x.dom a (bytesLE w (nth 0 u.tile.tile i).toNat)
  else s

/-- A rim die writes a tile of a stream of a slot's attempt. -/
def putTile (s : State) (n : Option Nat) (u : Option TierPut) : State :=
  match n, u with
  | some n, some u => if abortable (getSlot s n) then (List.range 1024).foldl (putElem (getSlot s n) u) s else s
  | _, _ => s

/-- TIER_READ (R218, R219, R229): a request of a step, or of another requester, completes at its channel. -/
def execTierRead (o : TierReadOp) (s : State) : Res :=
  let tier := o.tier.toNat
  let p := o.gran.toNat
  if !granuleOk tier p then .refused .noSuchUnit
  else
    let c := channelOf tier p (4096 * o.block.toNat)
    let n := o.slot.map (·.toNat)
    if s.tiers.fenced.contains (channelRim c) then .next s
    else
      let s := match n with
        | none => s
        | some n => requestLate s n c o.due o.write
      if o.write then .next (putTile s n o.put)
      else
        let r := injectRead s c { corrected := o.corrected.toNat, bad1 := o.bad1, bad2 := o.bad1 && o.bad2 }
        let s := countRead r.1 n c r.2
        match n with
        | none => .next s
        | some n =>
          let x := getSlot s n
          if !(r.2.bad1 && r.2.bad2) || !(runReads x || reshardOpen x) then .next s
          else
            let s := if r.2.injected then s else { s with tiers := { s.tiers with failed := s.tiers.failed ++ [(tier, p, n, o.block.toNat)] } }
            .next (if reshardOpen x then failedMove s n tier p (4096 * o.block.toNat) else failedRead s n tier p (4096 * o.block.toNat))

/-! ### Reads of copies (R220, R462) -/

/-- What the reads of a copy have met so far: its state, whether it fails, and blocks whose granules are to be retired. -/
structure CopyRead where
  s : State
  fails : Bool := false
  bad : List (Nat × Nat × Nat) := []
  deriving DecidableEq, Repr

/-- A failed block of a copy: served from the other copy of a mirrored slot, else the copy fails; WC of a slot becomes
stale. -/
def copyFailed (a : CopyRead) (r : Option Region) (tier p o : Nat) : CopyRead :=
  match r with
  | none => { a with fails := true }
  | some r =>
    if otherCopy a.s r tier p o then a
    else
      match r.kind, r.slot with
      | .wc _, some n => { a with s := updSlot a.s n (fun x => { x with wcStale := true }), fails := true }
      | _, _ => { a with fails := true }

/-- A copy reads the 4 KiB block that holds a tier address; `bad` says that the read and its retry are uncorrectable. A
block on a rim die out of service without a second copy is lost (R228). -/
def copyBlock (dom : Nat) (bad : Bool) (a : CopyRead) (addr : Nat) : CopyRead :=
  let tier := taTier addr
  let d := getDom a.s dom
  match physOf d tier (taGidx addr) with
  | none => a
  | some p0 =>
    let p := readGranule a.s d tier (taGidx addr) p0 (taOffs addr)
    let c := channelOf tier p (taOffs addr)
    let r := (granuleRegion a.s tier p).map (·.2)
    if a.s.tiers.fenced.contains (channelRim c) then { a with fails := true }
    else
      let q := injectRead a.s c { corrected := 0, bad1 := bad, bad2 := bad }
      let s := countRead q.1 (r.bind (·.slot)) c q.2
      if q.2.bad1 && q.2.bad2 then
        copyFailed { a with s := s, bad := if q.2.injected then a.bad else a.bad ++ [(tier, p, taOffs addr / 4096)] } r tier p (taOffs addr)
      else { a with s := s }

/-- The first byte read of each 4 KiB block of n bytes from a tier address. -/
def blockAddrs (a n : Nat) : List Nat :=
  if n = 0 then [] else (List.range ((a + n - 1) / 4096 - a / 4096 + 1)).map (fun k => if k = 0 then a else (a / 4096 + k) * 4096)

/-- A copy reads the blocks that hold some addresses of its domain's tiers; `fails` are tier addresses in blocks whose
reads fail. It answers whether the copy fails, and with which status. The granules concerned are retired at its end
(R220). -/
def copyReadsAt (s : State) (dom : Nat) (addrs fails : List Nat) : Option Nat × State :=
  let a := addrs.foldl (fun a x => copyBlock dom (fails.any (fun f => f / 4096 == x / 4096)) a x) ({ s := s } : CopyRead)
  match retireAll a.s a.bad with
  | none => (some sTierFull, raiseQuota a.s qfTierFull)
  | some s => (if a.fails then some sTierFail else none, s)

/-- A copy reads n bytes from a tier address. -/
def copyReads (s : State) (dom a n : Nat) (fails : List Nat) : Option Nat × State := copyReadsAt s dom (blockAddrs a n) fails

/-! ### Zeroing (R209) -/

/-- GRANULE_ZEROING: a rim die has zeroed a granule: a released one returns to the free pool; in boot stage 5 the free zeroed
granules of the package rise by one that is not retired (Table 09.10). -/
def execGranuleZeroing (tier : BitVec 2) (gran : BitVec 19) (s : State) : Res :=
  let p := gran.toNat
  if !granuleOk tier.toNat p then .refused .noSuchUnit
  else
    let t := s.tiers
    if s.handle.stage = 5 then
      let key := if tier.toNat = 1 then p else hbmGranules + p
      let retired := mget .free (if tier.toNat = 1 then t.hbmGran else t.lpGran) p == .retired
      .next (if retired then s else { s with tiers := { t with fresh := mset false t.fresh key true } })
    else if tier.toNat = 1 then
      if mget .free t.hbmGran p != .dirty then .next s
      else .next { s with tiers := { t with hbmGran := mset .free t.hbmGran p .free, hbm := dropGranule t.hbm p, undef := mset 0 t.undef p 0 } }
    else if mget .free t.lpGran p != .dirty then .next s
    else .next { s with tiers := { t with lpGran := mset .free t.lpGran p .free, lp := dropGranule t.lp p } }

end Sys2Proof.Machine
end

