-- ==== Sys2Proof/Machine/Desc.lean ====
section
/-! DEFINITION. Decision of descriptors: the fields of Table 12.4, the acceptance checks 1 to 9 of Table 12.2, and the
admission of problem lists (R164 to R171, R208, R286 to R291). -/

namespace Sys2Proof.Machine

/-! ### Descriptor fields (Table 12.4) -/

/-- A field by byte offset and size: TARGET, and those that several opcodes share. -/
def dSubop (raw : Nat) : Nat := dfld raw 0x08 1
def dFlag (raw i : Nat) : Bool := bit raw (8 + i)
def dTarget (raw : Nat) : Nat := bits raw 27 16
def dLength (raw : Nat) : Nat := dfld raw 0x08 4
def dBuf (raw : Nat) : Nat := dfld raw 0x18 2
def dBufOff (raw : Nat) : Nat := dfld raw 0x20 8

/-- A descriptor's row: its opcode, and for ADMIN 0x100 + SUBOP. -/
def dCode (raw : Nat) : Nat := if dOpcode raw = 0x10 then 0x100 + dSubop raw else dOpcode raw

/-- OPCODE, and for ADMIN SUBOP, is defined (check 1). -/
def codeDefined (c : Nat) : Bool :=
  decide (c ≤ 0x0C) || c == 0x11 || (decide (0x101 ≤ c) && decide (c ≤ 0x10E))

/-- Fields as first bit and width: OPCODE, INT and TAG of every descriptor. -/
def commonFields : List (Nat × Nat) := [(0, 8), (8, 1), (32, 32)]

/-- Fields that several opcodes share: a flag bit, TARGET as slot or partition, SUBOP. -/
def flagField (i : Nat) : Nat × Nat := (8 + i, 1)
def slotField : Nat × Nat := (16, 12)
def partField : Nat × Nat := (16, 6)
def subopField : Nat × Nat := (64, 8)

/-- A field of `n` bytes at a byte offset. -/
def byteField (off n : Nat) : Nat × Nat := (8 * off, 8 * n)

/-- Every bit outside the fields is 0 (check 2). -/
def reservedZero (raw : Nat) (fields : List (Nat × Nat)) : Bool :=
  let mask := (commonFields ++ fields).foldl (fun m f => m ||| (2 ^ f.2 - 1) * 2 ^ f.1) 0
  (raw ||| mask) == mask

/-! ### Roles and sessions (Table 11.4, check 3) -/

/-- The role permits a row. -/
def rolePermits (role c : Nat) : Bool :=
  if role = 1 then decide (c ≤ 0x0C)
  else if role = 2 ∨ role = 3 then c != 0x11 && c != 0x10D && c != 0x10E
  else role == 4

/-- A named slot exists, and for a TENANT session belongs to its domain (check 5). -/
def slotVisible (s : State) (k n : Nat) : Bool :=
  let x := getSlot s n
  x.present && ((getFn s k).role != 1 || x.dom == (getFn s k).domain)

/-- A named partition exists; a named domain exists (R463). -/
def partExists (s : State) (p : Nat) : Bool := !(getPart s p).clusters.isEmpty
def domExists (s : State) (d : Nat) : Bool := (getDom s d).created

/-! ### Plans -/

/-- A buffer a descriptor uses: index, access bits it needs, offset and bytes. -/
structure BufUse where
  idx   : Nat
  acc   : Nat
  off   : Nat
  bytes : Nat
  deriving DecidableEq, Repr

/-- What a descriptor asks for: its fields, the answers of checks 2 and 5 to 7 that depend on its row, its buffers, and
whether the operand holds what the device reads from the host. -/
structure Plan where
  fields : List (Nat × Nat) := []
  /-- Further conditions of check 2: enumerations, ranges, fields that must be 0. -/
  form   : Bool := true
  /-- A domain that the descriptor names (check 3). -/
  dom    : Option Nat := none
  /-- Check 4 applies. -/
  service : Bool := false
  /-- Check 5: the status where a name does not exist. -/
  names  : Option Nat := none
  counts : Bool := true
  empty  : Bool := false
  bufs   : List BufUse := []
  ready  : Bool := true
  deriving DecidableEq, Repr

/-- The outcome of checks 2 to 9. -/
inductive Verdict where
  /-- The operand lacks a buffer entry or host data that the device reads: nothing happens. -/
  | wait
  | refuse (status : Nat)
  | go
  deriving DecidableEq, Repr

/-- Buffer checks 8 and 9. -/
def bufVerdict (f : FnSt) (es : List BufEntry) (us : List BufUse) : Verdict :=
  if us.any (fun u => decide (f.bufCount ≤ u.idx)) then .refuse sBadBuf
  else if es.length ≠ us.length then .wait
  else if (us.zip es).any (fun p => p.1.acc &&& p.2.acc.toNat != p.1.acc) then .refuse sBadBuf
  else if (us.zip es).any (fun p => decide (p.2.len.toNat < p.1.off + p.1.bytes)) then .refuse sLenOver
  else .go

/-- A buffer-table entry (R282). -/
def bufEntry (w : BitVec 128) : BufEntry :=
  { addr := w.extractLsb' 0 64, len := w.extractLsb' 64 48, acc := w.extractLsb' 112 8 }

/-- The entries of the buffers that a descriptor uses, as the device read them: entry i lies at BUF_BASE + 16 · i. -/
def readEntries (f : FnSt) (o : DescOp) (p : Plan) : List BufEntry :=
  p.bufs.filterMap (fun u => (o.bufs.find? (fun b => b.addr.toNat == (f.bufBase + 16 * u.idx) % 2 ^ 64)).map (fun b => bufEntry b.data))

/-- Checks 2 to 9 of Table 12.2, in order. -/
def checkPlan (s : State) (k raw : Nat) (es : List BufEntry) (p : Plan) : Verdict :=
  let f := getFn s k
  if !(reservedZero raw p.fields && p.form) then .refuse sBadField
  else if !rolePermits f.role (dCode raw) || (f.role == 1 && p.dom.any (· != f.domain)) then .refuse sRoleDenied
  else if p.service && !s.service then .refuse sNotService
  else match p.names with
    | some c => .refuse c
    | none =>
      if !p.counts then .refuse sBadCount
      else if p.empty then .refuse sSuccess
      else match bufVerdict f es p.bufs with
        | .go => if p.ready && (p.bufs.isEmpty || f.cfg.master) then .go else .wait
        | v => v

/-! ### The head of a ring -/

/-- A FENCE of the ring has not completed (R287). -/
def fenceOpen (x : RingSt) : Bool := x.open_.any (fun d => !d.orphan && d.status.isNone && dOpcode d.raw == 0x0B && d.ofRun.isNone)

/-- A ring has a descriptor that can be decided. -/
def ringReady (s : State) (r : Nat) (x : RingSt) : Bool := !x.ready.isEmpty && !fenceOpen x && (fnOfRing s r).isSome

/-- No ring goes before ring r: port A before port B, and of one port the lower number (R287). -/
def ringFirst (s : State) (r : Nat) : Bool := s.rings.all (fun q => decide (r ≤ q.1) || !ringReady s q.1 q.2)

/-- Take the head of a ring: it becomes an open descriptor; its acceptance number. -/
def takeHead (s : State) (r : Nat) (ofRun : Option Nat) : Nat × State :=
  let x := getRing s r
  match x.ready with
  | [] => (x.nextId, s)
  | d :: ds =>
    (x.nextId, setRing s r { x with ready := ds, open_ := x.open_ ++ [{ id := x.nextId, idx := d.1, raw := d.2, ofRun := ofRun }], nextId := x.nextId + 1 })

/-- The head of a ring completes at once with a status. -/
def finishHead (s : State) (r status detail : Nat) : State :=
  let h := takeHead s r none
  finishDesc h.2 r h.1 status detail

/-! ### Problem lists (R164 to R166, R208) -/

/-- A problem-list entry of 32 bytes (Table 07.4). -/
def parseEntry (bs : List Byte) : ProbEntry :=
  { off := (List.range 3).map (fun i => fieldLE bs (8 * i) 8), par := (List.range 4).map (fun i => fieldLE bs (24 + 2 * i) 2) }

/-- Entries of a list of bytes. -/
def parseEntries (bs : List Byte) (c : Nat) : List ProbEntry := (List.range c).map (fun i => parseEntry ((bs.drop (32 * i)).take 32))

/-- One entry passes the checks of R166 and R208. -/
def entryOk (s : State) (dom : Nat) (pat : Pattern) (e : ProbEntry) : Bool :=
  e.off.all (fun o => o % 1024 == 0)
    && pat.streams.all (fun t => rangeValid s dom (streamFirst t e) t.extent)
    && (List.range 4).all (fun i => decide (nth 0 pat.parMin i ≤ nth 0 e.par i) && decide (nth 0 e.par i ≤ nth 0 pat.parMax i))

/-- The index of the entry that fails admission (R166): 0 for a pattern without a marker and C ≠ 1. -/
def badEntry (s : State) (dom : Nat) (pat : Pattern) (es : List ProbEntry) : Option Nat :=
  if !pat.marker && es.length != 1 then some 0
  else es.findIdx? (fun e => !entryOk s dom pat e)

/-- What keeps an accepted RUN from starting at all: data lost with a rim die (R228), a die without redundancy
(R386, R388). -/
def runBarred (s : State) (n : Nat) : Option Nat :=
  if (getSlot s n).lostData then some sTierFail
  else if runUncovered s n then some sFaultUncovered
  else none

/-- Admission of the entries of a slot's accepted RUN, which stands in its partition's queue since its acceptance (R166, R167,
R288): they are checked, and the PROBLEM descriptors that brought them complete. -/
def admitRun (s : State) (n : Nat) (es : List ProbEntry) : State :=
  let x := getSlot s n
  match runBarred s n, x.pattern with
  | some c, _ => endRun s n c 0
  | none, none => endRun s n sNotResident 0
  | none, some pat =>
    match badEntry s x.dom pat es with
    | some i => endRun s n sBadProblem i
    | none =>
      let s := match x.run with | none => s | some r => finishEntries s r.ring r.desc
      startRuns (updRun s n (fun r => { r with stage := .queued, problems := es, tReport := tReport pat.timing (es.map (·.par)) })) x.part

/-- The ring of a RUN with PSRC = 1 has all its C descriptors: one that is not a PROBLEM fails the RUN at its position
(R171, R291). -/
def admitCollected (s : State) (r id : Nat) : State :=
  match collecting s r with
  | none => s
  | some n =>
    let ds := (getRing s r).open_.filter (fun d => d.ofRun == some id)
    match ds.findIdx? (fun d => dOpcode d.raw != 0x11) with
    | some i => endRun s n sBadProblem i
    | none => admitRun s n (ds.map (fun d => parseEntry (bytesLE 32 (dfld d.raw 0x10 32))))

/-- The head of a ring is consumed as an entry of a RUN (R291). -/
def collectHead (s : State) (r : Nat) (c : Nat × Nat) : State :=
  let s := (takeHead s r (some c.1)).2
  let left := c.2 - 1
  let s := updRing s r (fun x => { x with collect := if left = 0 then none else some (c.1, left) })
  if left = 0 then admitCollected s r c.1 else settleCollect s r

/-! ### Decision (R286, R287) -/

/-- What a descriptor's execution sees: ring, function, acceptance number, the 64 bytes and the host's side. -/
structure DescEnv where
  r   : Nat
  k   : Nat
  id  : Nat
  raw : Nat
  o   : DescOp
  es  : List BufEntry
  deriving DecidableEq, Repr

/-- A descriptor's outcome is fixed. -/
def DescEnv.done (e : DescEnv) (s : State) (status detail : Nat) : State := finishDesc s e.r e.id status detail

/-- The host address of the descriptor's i-th buffer. -/
def DescEnv.addr (e : DescEnv) (i : Nat) : Nat := match e.es[i]? with | some b => b.addr.toNat | none => 0

/-- Decide the head of a ring, where it is of the row `code`: checks, then `go` (checks 10 to 12 and the effect). A ring
with an open FENCE decides nothing, nor does one that another ready ring precedes; an undefined opcode completes with BAD_OPCODE, and the head of a ring whose RUN
collects entries is consumed, by a command of any row. -/
def decideRow (code : Nat) (o : DescOp) (plan : Nat → Nat → State → Plan) (go : DescEnv → State → State) (s : State) : Res :=
  let r := o.ring.toNat
  let x := getRing s r
  match x.ready.head?, fnOfRing s r with
  | some d, some k =>
    if fenceOpen x || !ringFirst s r then .next s
    else match x.collect with
      | some c => .next (collectHead s r c)
      | none =>
        let raw := d.2
        if !codeDefined (dCode raw) then .next (finishHead s r sBadOpcode 0)
        else if dCode raw ≠ code then .next s
        else match checkPlan s k raw (readEntries (getFn s k) o (plan k raw s)) (plan k raw s) with
          | .wait => .next s
          | .refuse c => .next (finishHead s r c 0)
          | .go =>
            let h := takeHead s r none
            .next (go { r := r, k := k, id := h.1, raw := raw, o := o, es := readEntries (getFn s k) o (plan k raw s) } h.2)
  | _, _ => .next s

end Sys2Proof.Machine
end

