-- ==== Sys2Proof/Machine/Runs.lean ====
section
/-! DEFINITION. Descriptors of slots and partitions: NOP, LOAD_PATTERN, EVICT, SWITCH, RUN, RESHARD, FENCE, COMMIT_POLICY
and PROBLEM (Tables 12.3, 12.4). -/

namespace Sys2Proof.Machine

/-- Check 5 of a descriptor that names a slot. -/
def slotName (s : State) (k raw : Nat) : Option Nat := if slotVisible s k (dTarget raw) then none else some sNoSlot

/-- A RUN of the slot is accepted or in progress. -/
def slotRunning (s : State) (n : Nat) : Bool := (getSlot s n).run.isSome

/-- A RUN is in progress on a partition, or waits its turn there. -/
def partRunning (s : State) (p : Nat) : Bool := (getPart s p).run.isSome || !(getPart s p).runQueue.isEmpty

/-- A context of the slot is current on a core of its partition. -/
def slotCurrent (s : State) (n : Nat) : Bool :=
  let p := (getSlot s n).part
  let cs := slotCtxs s p n
  (partCores (getPart s p)).any (fun c => (getCore s c).cur.any cs.contains)

/-! ### NOP, FENCE, PROBLEM -/

/-- A descriptor with no field of its own. -/
def barePlan (_ _ : Nat) (_ : State) : Plan := {}

/-- NOP (R289): completes when accepted. -/
def execNop (o : DescOp) (s : State) : Res := decideRow 0x00 o barePlan (fun e s => e.done s sSuccess 0) s

/-- FENCE (R287): completes once it is the oldest descriptor of its ring. -/
def execFence (o : DescOp) (s : State) : Res := decideRow 0x0B o barePlan (fun e s => settleFence s e.r) s

def problemPlan (_ _ : Nat) (_ : State) : Plan := { fields := [byteField 0x10 32], service := true }

/-- PROBLEM (R291): one that no RUN consumes completes with BAD_PROBLEM. -/
def execProblem (o : DescOp) (s : State) : Res :=
  decideRow 0x11 o problemPlan (fun e s => e.done s sBadProblem 0xFFFFFFFF) s

/-! ### LOAD_PATTERN (R131 to R140) -/

/-- Context numbers of CTXMASK, ascending. -/
def maskCtxs (m : Nat) : List Nat := (List.range 4).filter (bit m)

/-- Fields and names of LOAD_PATTERN. -/
def loadPlan (k raw : Nat) (s : State) : Plan := { fields := [slotField, flagField 2, (64, 4)], names := slotName s k raw }

/-- The checks of an image that are made before anything is written: of the pattern as a whole, of the images, of the fold
table (R131). -/
def loadRefusal (s : State) (n : Nat) (cs : List Nat) (fold : Bool) (pat : Pattern) : Refusal2 :=
  let p := (getSlot s n).part
  if !patternOk s n pat || !timingOk pat then some (sBadPattern, 0xFFFFFFFF)
  else match admitImages s p cs pat with
    | some c => some c
    | none =>
      if !fold then none
      else (firstBad (partCores (getPart s p)) (fun k => (pat.folds.find? (fun f => f.1 == k)).any (fun f => foldOk f.2.1))).map
        (fun k => (sBadPattern, k))

/-- The loads of a descriptor, one for each context number, in the order of the pattern's images. -/
def newLoads (e : DescEnv) (s : State) (n : Nat) (cs : List Nat) (fold : Bool) (pat : Pattern) : List LoadSt :=
  cs.zipIdx.map (fun c =>
    { ctx := c.1, slot := n, part := c.2, fold := fold, waiting := true, ring := e.r, desc := e.id, since := s.fc,
      regions := loadRegions s (getSlot s n).part cs pat c.2 })

/-- LOAD_PATTERN once its acceptance checks 2 to 9 have passed. -/
def startLoad (e : DescEnv) (s : State) : State :=
  let n := dTarget e.raw
  let x := getSlot s n
  let cs := maskCtxs (dfld e.raw 0x08 1)
  let fold := dFlag e.raw 2
  let pt := getPart s x.part
  match x.pattern with
  | none => e.done s sBadPattern 0xFFFFFFFF
  | some pat =>
    if slotCurrent s n then e.done s sPartBusy 0
    else if cs.length ≠ pat.ctxs.length then e.done s sBadField 0
    else if fold && pt.mode != .folded then e.done s sPartMode 0
    else match loadRefusal s n cs fold pat with
      | some c => e.done s c.1 c.2
      | none => tryLoads (setPart s x.part { pt with loads := pt.loads ++ newLoads e s n cs fold pat }) x.part

/-- LOAD_PATTERN (R131 to R135, R140). -/
def execLoadPattern (o : DescOp) (s : State) : Res := decideRow 0x01 o loadPlan startLoad s

/-! ### EVICT and SWITCH (R129, R136, R148) -/

def evictPlan (k raw : Nat) (s : State) : Plan := { fields := [slotField], names := slotName s k raw }

/-- Switch requests for context numbers that have been evicted end with NOT_RESIDENT (R129). -/
def refuseGone (s : State) (p : Nat) (cs : List Nat) : State :=
  let pt := getPart s p
  let gone (r : SwReq) : Bool := cs.contains r.ctx
  let rs := ((match pt.swReq with | some r => [r] | none => []) ++ pt.swWait).filter gone
  settleSwitch (rs.foldl (fun s r => match r.desc with | none => s | some d => finishDesc s d.1 d.2 sNotResident 0)
    (setPart s p { pt with swReq := if pt.swReq.any gone then none else pt.swReq, swWait := pt.swWait.filter (!gone ·) })) p

/-- A slot loses its contexts: switch requests for them end, and so does a RUN of the slot that has not started its first step
(R129, R136, Table 12.3). -/
def dropContexts (s : State) (n : Nat) : Nat × State :=
  let p := (getSlot s n).part
  let cs := slotCtxs s p n
  let v := evictSlot s n
  let s := refuseGone v.2 p cs
  let s := if (getPart s p).run == some n && (getSlot s n).run.any (fun r => r.stage == .between || r.stage == .paced) then
      endRun (chargeHeld s n) n sNotResident (runDetail s n sNotResident)
    else s
  (v.1, tryLoads s p)

/-- EVICT once its acceptance checks 2 to 9 have passed: refused for a current context, except on a PINNED partition with no
RUN. -/
def startEvict (e : DescEnv) (s : State) : State :=
  let n := dTarget e.raw
  let p := (getSlot s n).part
  if slotCurrent s n && !((getPart s p).mode == .pinned && !partRunning s p) then e.done s sPartBusy 0
  else
    let v := dropContexts s n
    tryLoads (e.done v.2 sSuccess v.1) p

/-- EVICT (R136). -/
def execEvict (o : DescOp) (s : State) : Res := decideRow 0x02 o evictPlan startEvict s

/-- Check 5 of a descriptor that names a partition. -/
def partName (s : State) (raw : Nat) : Option Nat := if partExists s (dTarget raw) then none else some sBadField

/-- SWITCH once its acceptance checks 2 to 9 have passed: with DRAIN a run drain comes first. -/
def startSwitch (e : DescEnv) (s : State) : State :=
  let p := dTarget e.raw
  let c := bits e.raw 65 64
  let pt := getPart s p
  if pt.mode != .switching then e.done s sPartMode 0
  else if !ctxResident s p c && !pt.loads.any (fun l => l.ctx == c && !l.waiting) then e.done s sNotResident 0
  else if partRunning s p then e.done s sPartBusy 0
  else
    let s := if dFlag e.raw 1 && pt.drain == .idle then setPart s p { pt with drain := .run } else s
    askSwitch s p { ctx := c, desc := some (e.r, e.id), drain := dFlag e.raw 1 && pt.drain != .idle }

def switchPlan (_ raw : Nat) (s : State) : Plan := { fields := [partField, flagField 1, (64, 2)], names := partName s raw }

/-- SWITCH (R129, R130, R148). -/
def execSwitch (o : DescOp) (s : State) : Res := decideRow 0x03 o switchPlan startSwitch s

/-! ### RUN (R164 to R173, R288) -/

/-- Fields of RUN. -/
def dSteps (raw : Nat) : Nat := dfld raw 0x08 2
def dPcount (raw : Nat) : Nat := dfld raw 0x0A 2
def dPlist (raw : Nat) : Nat := dfld raw 0x10 8

def runPlan (k raw : Nat) (s : State) : Plan :=
  { fields := [slotField, flagField 3, byteField 0x08 2, byteField 0x0A 2, byteField 0x10 8, byteField 0x18 2, byteField 0x20 8],
    form := (!dFlag raw 3 || dPlist raw == 0) && dBufOff raw % 64 == 0,
    service := dFlag raw 3,
    names := slotName s k raw,
    counts := dSteps raw != 0 && dPcount raw != 0,
    bufs := [{ idx := dBuf raw, acc := 2, off := dBufOff raw, bytes := 128 }] }

/-- The problem list's range is valid (R164). -/
def plistOk (s : State) (dom raw : Nat) : Bool :=
  dFlag raw 3 || (dPlist raw % 32 == 0 && taTier (dPlist raw) == 1 && rangeValid s dom (dPlist raw) (32 * dPcount raw))

/-- The state checks of RUN (Table 12.3). -/
def runRefusal (s : State) (n : Nat) : Option Nat :=
  let x := getSlot s n
  let pt := getPart s x.part
  if x.run.isSome then some sSlotBusy
  else if !runResident s n then some sNotResident
  else if pt.mode == .pinned && pt.cur.any (fun c => !(slotCtxs s x.part n).contains c) then some sPartMode
  else if !x.hostPlaced && x.noMaster then some sNoMaster
  else none

/-- The record of an accepted RUN. -/
def newRun (e : DescEnv) : RunSt :=
  { ring := e.r, desc := e.id, fn := e.k, steps := dSteps e.raw, stage := .collecting,
    problems := List.replicate (dPcount e.raw) { off := [], par := [] }, rptAddr := e.addr 0 + dBufOff e.raw }

/-- RUN once its acceptance checks 2 to 9 have passed. -/
def acceptRun (e : DescEnv) (s : State) : State :=
  let n := dTarget e.raw
  let x := getSlot s n
  if !plistOk s x.dom e.raw then e.done s sBadAddr 0
  else match runRefusal s n with
    | some c => e.done s c 0
    | none =>
      let pt := getPart s x.part
      let s := setPart (updSlot s n (fun x => { x with run := some (newRun e) })) x.part { pt with runQueue := pt.runQueue ++ [n] }
      let c := dPcount e.raw
      if dFlag e.raw 3 then settleCollect (updRing s e.r (fun x => { x with collect := some (e.id, c) })) e.r
      else
        let v := copyReads s x.dom (dPlist e.raw) (32 * c) (e.o.fails.map (·.toNat))
        match v.1 with
        | some st => endRun v.2 n st 0
        | none => admitRun v.2 n (parseEntries (tierBytes v.2 x.dom (dPlist e.raw) (32 * c)) c)

/-- RUN (R164 to R173, R288). -/
def execRun (o : DescOp) (s : State) : Res := decideRow 0x04 o runPlan acceptRun s

/-! ### COMMIT_POLICY (R193, R195, R293) -/

def policyPlan (k raw : Nat) (s : State) : Plan :=
  let host := bit raw 64
  let g := dfld raw 0x10 2
  let w := dfld raw 0x12 2
  let r := dfld raw 0x14 2
  let tiles := tableTiles (getSlot s (dTarget raw)).table
  { fields := [slotField, (64, 3), byteField 0x10 2, byteField 0x12 2, byteField 0x14 2],
    form := host || (g == 0 && w == 0 && r == 0),
    names := slotName s k raw,
    bufs := if host then [{ idx := g, acc := 2, off := 0, bytes := tiles * 1024 + 64 },
        { idx := w, acc := 1, off := 0, bytes := tiles * 2048 + 64 }, { idx := r, acc := 3, off := 0, bytes := 16 }]
      else [] }

/-- A region of the master or of a state stream. -/
def masterKind : RegionKind → Bool
  | .w _ => true
  | .st _ _ => true
  | _ => false

/-- The W and S regions of every region set of a slot. -/
def masterRegions (n : Nat) (x : SlotSt) : List RegionReq :=
  x.sets.flatMap (fun q => (paramRegions n q.1 x.mirrored false q.2).filter (fun r => masterKind r.kind))

/-- A slot's placement changes (R293): W and S regions are released, or allocated. -/
def changePlacement (s : State) (n : Nat) (host : Bool) : Ans :=
  let x := getSlot s n
  if x.hostPlaced == host then .ok s
  else if host then .ok (updSlot (releaseWhere s x.dom (fun r => r.slot == some n && masterKind r.kind)) n (fun x => { x with noMaster := false }))
  else match allocRegions s x.dom (masterRegions n x) with
    | .err c => .err c
    | .ok s => .ok (updSlot s n (fun x => { x with noMaster := true }))

/-- COMMIT_POLICY once its acceptance checks 2 to 9 have passed. -/
def setPolicy (e : DescEnv) (s : State) : State :=
  let n := dTarget e.raw
  let x := getSlot s n
  if x.run.isSome || x.reshard.isSome then e.done s sSlotBusy 0
  else
    let host := bit e.raw 64
    match changePlacement s n host with
    | .err c => e.done (quotaEvents s c) c 0
    | .ok s =>
      e.done (updSlot s n (fun x =>
        { x with
          hostPlaced := host,
          narCommit := bit e.raw 65,
          repairOff := bit e.raw 66,
          gradBuf := e.addr 0,
          wcBuf := e.addr 1,
          readyBuf := e.addr 2 })) sSuccess 0

/-- COMMIT_POLICY (R195, R293). -/
def execCommitPolicy (o : DescOp) (s : State) : Res := decideRow 0x0C o policyPlan setPolicy s

/-! ### RESHARD (R342, R343) -/

/-- The map of a layout description: shard, owner rank, parameter tiles. -/
def parseMap (bs : List Byte) (n : Nat) : List (Nat × Nat × Nat) :=
  (List.range n).map (fun i =>
    let v := fieldLE bs (8 * i) 8
    (bits v 31 0, bits v 39 32, bits v 63 40))

/-- Numbers rise strictly. -/
def rising : List Nat → Bool
  | a :: b :: l => decide (a < b) && rising (b :: l)
  | _ => true

/-- A layout description follows the rules of R342; `table` is the update table it holds. -/
def layoutOk (s : State) (n length layout : Nat) (bs : List Byte) (table : List UpdEntry) : Bool :=
  let j := slotJob (getSlot s n)
  let ns := fieldLE bs 0x08 4
  let mb := (bs.drop 64).take (8 * ns)
  let map := parseMap mb ns
  (cutAxis j cutLayer).isSome
    && decide (64 + 8 * ns ≤ bs.length) && decide (64 + 8 * ns ≤ length)
    && fieldLE bs 0x00 4 == 0x5453594C && fieldLE bs 0x04 2 == 1 && fieldLE bs 0x06 2 == 0
    && fieldLE bs 0x0C 2 == table.length && decide (table.length ≤ 4096) && fieldLE bs 0x0E 2 == 0
    && fieldLE bs 0x10 4 == layout && fieldLE bs 0x14 4 == 0 && fieldLE bs 0x18 8 == crc64 mb && fieldLE bs 0x20 32 == 0
    && rising (map.map (·.1))
    && (let own := (map.filter (fun m => m.2.1 == cutRank s j cutLayer)).map (·.1)
        own.all (fun sh => (table.filter (fun e => e.shard == sh)).length == 1) && table.length == own.length)

def reshardPlan (k raw : Nat) (s : State) : Plan :=
  { fields := [slotField, byteField 0x08 4, byteField 0x0C 4, byteField 0x18 2, byteField 0x20 8],
    names := slotName s k raw,
    empty := dLength raw == 0,
    bufs := [{ idx := dBuf raw, acc := 1, off := dBufOff raw, bytes := dLength raw }] }

/-- RESHARD once its acceptance checks 2 to 9 have passed: it waits for its fence (R343). -/
def acceptReshard (table : List UpdEntry) (e : DescEnv) (s : State) : State :=
  let n := dTarget e.raw
  let x := getSlot s n
  let layout := dfld e.raw 0x0C 4
  let bs := e.o.data
  if layout ≤ x.layout then e.done s sBadLayout 0
  else if x.reshard.isSome then e.done s sSlotBusy 0
  else if !layoutOk s n (dLength e.raw) layout bs table then e.done s sBadLayout 0
  else
    let ns := fieldLE bs 0x08 4
    let rs : ReshardSt := { ring := e.r, desc := e.id, layout := layout, mapCrc := fieldLE bs 0x18 8, map := parseMap (bs.drop 64) ns, table := table, stage := .fenceWait, accepted := s.fc }
    updSlot s n (fun x => { x with reshard := some rs })

/-- RESHARD (R342, R343). `data` of the operand holds the header and the map of the layout description, `table` its update
table. -/
def execReshard (o : DescOp) (table : List UpdEntry) (s : State) : Res := decideRow 0x0A o reshardPlan (acceptReshard table) s

end Sys2Proof.Machine
end

