-- ==== Sys2Proof/Machine/Update.lean ====
section
/-! DEFINITION. Quantisation, the Border engines and host-placed updates (R177 to R194). -/

namespace Sys2Proof.Machine

/-! ### Quantisation (R178 to R180) -/

/-- Count events of a slot's rim die m (R35, R36). -/
def countConv (s : State) (m n : Nat) (e : Conv4) : State :=
  updRun (raiseConv s (rimUnit m) e) n (fun r => { r with conv := r.conv.add e })

/-- One element quantised: G8, E, the events, and whether v is a NaN, which counts as NAR once, be it from g or from e
(R178). -/
def quantise (g e : Nat) : Nat × Nat × Conv4 × Bool :=
  let x := convert .l16 .fp32 e
  let v := fpAdd g x.code
  let ev := (evOf x).add { sat := boolNat v.sat }
  if isNaN32 v.code then (0x80, 0, { nar := 1 }, true)
  else
    let q := (convert .fp32 .l8 v.code).code
    let r := (fpSub v.code (l8ToF32 q)).code
    let t := convert .fp32 .l16 r
    (q, t.code, ev.add (evOf t), false)

/-- Quantise a parameter tile of a slot. -/
def quantiseNow (s : State) (n t : Nat) (g : List Nat) : State :=
  let k := tileElems (getSlot s n) t
  let es := readCodes s n .e 2 (2048 * t) k
  let rs := (List.range k).map (fun i => quantise (nth 0 g i) (nth 0 es i))
  let s := writeCodes s n .g8 1 (1024 * t) (rs.map (·.1))
  let s := writeCodes s n .e 2 (2048 * t) (rs.map (·.2.1))
  let s := setRecord s n t (rcode ((getSlot s n).cn + 1))
  let s := countConv s (tileRim s t) n (rs.foldl (fun a r => a.add r.2.2.1) {})
  updRun s n (fun r => { r with nan := r.nan || rs.any (·.2.2.2) })

/-- A slot's attempt may still quantise: it runs, or its discard drain goes on (R179). -/
def quantising (x : SlotSt) : Bool :=
  x.run.any (fun r => r.stage == .step || (r.stage == .replay && x.round.kind != .restart))

/-- QUANTISE_TILE (R178, R180): a reduced parameter tile is quantised, unless an earlier attempt of the step has done
so. -/
def execQuantiseTile (slot : BitVec 12) (tile : Word) (s : State) : Res :=
  let n := slot.toNat
  let t := tile.toNat
  let x := getSlot s n
  if !quantising x || !mhas x.coll.reduced t then .next s
  else
    let g := mget [] x.coll.reduced t
    let done := getRecord s n t == rcode (x.cn + 1)
    let s := updSlot s n (fun x => { x with coll := { x.coll with reduced := merase x.coll.reduced t } })
    .next (if done then s else quantiseNow s n t g)

/-! ### Border engines (R187 to R192) -/

/-- A Border engine. -/
def getBorder (s : State) (m : Nat) : BorderSt := mget {} s.borders m

/-- Write a Border engine. -/
def setBorder (s : State) (m : Nat) (b : BorderSt) : State := { s with borders := mset {} s.borders m b }

/-- The next tile of an entry that a Border updates, from tile t on. -/
def nextTile (s : State) (x : SlotSt) (m e t : Nat) : Option Nat :=
  let t1 := entryTile0 x.table (e + 1)
  (List.range (t1 - t)).findSome? (fun i => if tileRim s (t + i) = m then some (t + i) else none)

/-- The program of an entry. -/
def entryProg (x : SlotSt) (e : Nat) : BorderProg :=
  match x.table[e]?, x.pattern with
  | some u, some p => nth {} p.progs u.prog
  | _, _ => {}

/-- The instructions of the part a stage runs. -/
def stageProg (p : BorderProg) : BorderStage → List Nat
  | .prologue => p.prologue
  | .phase1 => p.phase1
  | .interlude => p.interlude
  | .phase2 => p.phase2
  | _ => []

/-- A Border at the start of entry e: accumulators cleared, scalars loaded (R188, R191); done after the last. -/
def startEntry (x : SlotSt) (b : BorderSt) (e : Nat) : BorderSt :=
  match x.table[e]? with
  | none => { slot := b.slot, stage := .done }
  | some u => { slot := b.slot, stage := .prologue, entry := e, k := msetList 0 [] 0 (u.scalars.take 16) }

/-- A program whose first phase sums rows or columns: its totals are written at the end of that phase (R189). -/
def statProg (p : BorderProg) : Bool := p.phase1.any (fun w => bits w 31 26 == 0x17 || bits w 31 26 == 0x18)

/-- What follows the end of a stage: the phases over the entry's tiles, the wait for the combination of the accumulators, the next
entry. -/
def afterStage (s : State) (x : SlotSt) (m : Nat) (b : BorderSt) : BorderSt :=
  let p := entryProg x b.entry
  let first (g : BorderStage) : BorderSt :=
    match nextTile s x m b.entry (entryTile0 x.table b.entry) with
    | none => { b with stage := g, tile := entryTile0 x.table (b.entry + 1), pc := 128, v := [] }
    | some t => { b with stage := g, tile := t, pc := 0, v := [] }
  match b.stage with
  | .prologue => first .phase1
  | .phase1 => if p.twoPhase || statProg p then { b with stage := .waitInterlude, pc := 0, v := [] } else startEntry x b (b.entry + 1)
  | .interlude => first .phase2
  | .phase2 => startEntry x b (b.entry + 1)
  | _ => b

/-- A Border moves on past the tiles and parts whose instructions have all run. -/
def settleBorder (s : State) (x : SlotSt) (m : Nat) : Nat → BorderSt → BorderSt
  | 0, b => b
  | f + 1, b =>
    let l := (stageProg (entryProg x b.entry) b.stage).length
    match b.stage with
    | .prologue => if b.pc < l then b else settleBorder s x m f (afterStage s x m { b with pc := 0 })
    | .interlude => if b.pc < l then b else settleBorder s x m f (afterStage s x m { b with pc := 0 })
    | .phase1 | .phase2 =>
      if b.pc < l then b
      else
        match (if l = 0 then none else nextTile s x m b.entry (b.tile + 1)) with
        | some t => { b with tile := t, pc := 0, v := [] }
        | none => settleBorder s x m f (afterStage s x m b)
    | _ => b

/-- Steps that suffice for a table. -/
def borderFuel (x : SlotSt) : Nat := 4 * x.table.length + 8

/-- UPDATE_SWEEP (R192): once every tile of the slot is quantised, the Border engines in service start the sweep, unless a copy
in progress is reading the bank that it would write (R186). -/
def execUpdateSweep (slot : BitVec 12) (s : State) : Res :=
  let n := slot.toNat
  let x := getSlot s n
  if x.hostPlaced || !x.run.any (fun r => r.stage == .step && !r.sweeping) || !allQuantised s n || bankHeld x then .next s
  else
    let s' := (List.range 8).foldl (fun s m =>
      if s.tiers.fenced.contains m then s
      else setBorder s m (settleBorder s x m (borderFuel x) (startEntry x { slot := n } 0))) s
    .next (updRun s' n (fun r => { r with sweeping := true }))

/-- Whether a Border works on a step in progress. -/
def borderLive (s : State) (b : BorderSt) : Bool :=
  (getSlot s b.slot).run.any (fun r => r.stage == .step && r.sweeping)

/-- The word of a Border instruction (Table 08.3). -/
def borderWord (op : Nat) (o : BorderOp) : Nat :=
  op * 2 ^ 26 + o.d.toNat * 2 ^ 22 + o.a.toNat * 2 ^ 18 + o.b.toNat * 2 ^ 14 + o.c.toNat * 2 ^ 10 + o.s.toNat * 2 ^ 8

/-- The word of the loaded program at which a Border stands. -/
def borderAt (x : SlotSt) (b : BorderSt) : Option Nat := (stageProg (entryProg x b.entry) b.stage)[b.pc]?

/-- One instruction at a Border: it issues where the loaded program has its word (R188, R189), and `f` is its effect. A command
whose word does not stand there changes nothing (log entry 16). -/
def borderOp (op : Nat) (o : BorderOp) (s : State) (f : SlotSt → BorderSt → State → State × BorderSt) : Res :=
  let m := o.rim.toNat
  let b := getBorder s m
  let x := getSlot s b.slot
  if !borderLive s b || borderAt x b != some (borderWord op o) then .next s
  else
    let r := f x b s
    .next (setBorder r.1 m (settleBorder s x m (borderFuel x) { r.2 with pc := b.pc + 1 }))

/-- A vector register's element. -/
def vElem (b : BorderSt) (r i : Nat) : Nat := mget 0 b.v (1024 * r + i)

/-- A scalar register. -/
def kReg (b : BorderSt) (r : Nat) : Nat := mget 0 b.k r

/-- Elements of the current tile inside the entry. -/
def liveElems (x : SlotSt) (b : BorderSt) : Nat := tileElems x b.tile

/-- Write a vector register; elements beyond the entry's count hold 0. -/
def setVec (b : BorderSt) (r : Nat) (cs : List Nat) : BorderSt :=
  { b with v := msetList 0 b.v (1024 * r) (cs ++ List.replicate (1024 - cs.length) 0) }

/-- A vector operation element by element, its events counted over the elements of the entry. -/
def vecOp (op : Nat) (o : BorderOp) (s : State) (f : Nat → Nat → Nat → Nat → Cvt) : Res :=
  borderOp op o s (fun x b s =>
    let rs := (List.range (liveElems x b)).map (fun i =>
      f (vElem b o.a.toNat i) (vElem b o.b.toNat i) (vElem b o.c.toNat i) (kReg b o.c.toNat))
    (countConv s o.rim.toNat b.slot (rs.foldl (fun a r => a.add (evOf r)) {}), setVec b o.d.toNat (rs.map (·.code))))

/-- A scalar operation. -/
def scalarOp (op : Nat) (o : BorderOp) (s : State) (f : SlotSt → Nat → Nat → Cvt) : Res :=
  borderOp op o s (fun x b s =>
    let r := f x (kReg b o.a.toNat) (kReg b o.b.toNat)
    (countConv s o.rim.toNat b.slot (evOf r), { b with k := mset 0 b.k o.d.toNat r.code }))

/-- BORDER_NOP. -/
def execBorderNop (o : BorderOp) (s : State) : Res := borderOp 0x00 o s (fun _ b s => (s, b))

/-- LDG: the tile's G8 codes as FP32, no event (R190). -/
def execLdg (o : BorderOp) (s : State) : Res :=
  borderOp 0x01 o s (fun x b s =>
    (s, setVec b o.d.toNat ((readCodes s b.slot .g8 1 (1024 * b.tile) (liveElems x b)).map l8ToF32)))

/-- LDW: the master of the visible bank. -/
def execLdw (o : BorderOp) (s : State) : Res :=
  borderOp 0x02 o s (fun x b s =>
    (s, setVec b o.d.toNat (readCodes s b.slot (.w x.bank) 4 (4096 * b.tile) (liveElems x b))))

/-- Entry and first element of the current tile in it. -/
def tileBase (x : SlotSt) (b : BorderSt) : Nat := 1024 * (b.tile - entryTile0 x.table b.entry)

/-- Declaration of stream k of the current entry. -/
def curStream (x : SlotSt) (b : BorderSt) (k : Nat) : StreamDecl :=
  match x.table[b.entry]? with | none => {} | some e => entryStream e k

/-- Elements that stream k holds for the current entry. -/
def curElems (x : SlotSt) (b : BorderSt) (k : Nat) : Nat :=
  match x.table[b.entry]? with | none => 0 | some e => streamElems e k

/-- Element q of stream k of the current entry in a bank, as FP32. -/
def readState (s : State) (x : SlotSt) (b : BorderSt) (k bank q : Nat) : Nat :=
  if curElems x b k ≤ q then 0
  else
    let d := curStream x b k
    let c := (readCodes s b.slot (.st k bank) (declWidth d) (streamOff x.table k b.entry + declWidth d * q) 1).headD 0
    if d.l16 then l16ToF32 c else c

/-- Codes to be written to stream k from FP32 values, with their events. -/
def stateCodes (d : StreamDecl) (vs : List Nat) : List Nat × Conv4 :=
  if d.l16 then
    let cs := vs.map (convert .fp32 .l16)
    (cs.map (·.code), cs.foldl (fun a c => a.add (evOf c)) {})
  else (vs, {})

/-- Write values from element q of stream k of the current entry in a bank, as far as the stream reaches, by the Border of
rim die m. -/
def writeState (s : State) (m : Nat) (x : SlotSt) (b : BorderSt) (k bank q : Nat) (vs : List Nat) : State :=
  let d := curStream x b k
  let r := stateCodes d (vs.take (curElems x b k - q))
  countConv (writeCodes s b.slot (.st k bank) (declWidth d) (streamOff x.table k b.entry + declWidth d * q) r.1) m b.slot r.2

/-- LDS: a state stream of the visible bank as FP32, no event (R190). -/
def execLds (o : BorderOp) (s : State) : Res :=
  borderOp 0x03 o s (fun x b s =>
    (s, setVec b o.d.toNat ((List.range (liveElems x b)).map (fun i => readState s x b o.s.toNat x.bank (tileBase x b + i)))))

/-- STW (R184): the master of the alternate bank, and its L16 conversion as the working copy. -/
def execStw (o : BorderOp) (s : State) : Res :=
  borderOp 0x04 o s (fun x b s =>
    let alt := (x.cn + 1) % 2
    let vs := (List.range (liveElems x b)).map (vElem b o.a.toNat)
    let cs := vs.map (convert .fp32 .l16)
    let s := writeCodes s b.slot (.w alt) 4 (4096 * b.tile) vs
    let s := writeCodes s b.slot (.wc alt) 2 (2048 * b.tile) (cs.map (·.code))
    (countConv s o.rim.toNat b.slot (cs.foldl (fun a c => a.add (evOf c)) {}), b))

/-- STS: a state stream of the alternate bank, converted to L16 where the entry declares it. -/
def execSts (o : BorderOp) (s : State) : Res :=
  borderOp 0x05 o s (fun x b s =>
    (writeState s o.rim.toNat x b o.s.toNat ((x.cn + 1) % 2) (tileBase x b) ((List.range (liveElems x b)).map (vElem b o.a.toNat)), b))

/-- BORDER_FADD: vA + vB. -/
def execBorderFadd (o : BorderOp) (s : State) : Res := vecOp 0x06 o s (fun a b _ _ => fpAdd a b)
/-- BORDER_FSUB: vA − vB. -/
def execBorderFsub (o : BorderOp) (s : State) : Res := vecOp 0x07 o s (fun a b _ _ => fpSub a b)
/-- BORDER_FMUL: vA · vB. -/
def execBorderFmul (o : BorderOp) (s : State) : Res := vecOp 0x08 o s (fun a b _ _ => fpMul a b)
/-- BORDER_FMA: vA · vB + vC, one rounding. -/
def execBorderFma (o : BorderOp) (s : State) : Res := vecOp 0x09 o s (fun a b c _ => fpFma a b c)
/-- FDIV: vA / vB. -/
def execFdiv (o : BorderOp) (s : State) : Res := vecOp 0x0A o s (fun a b _ _ => fpDiv a b)
/-- FSQRT: √vA; a negative operand gives NaN with NAR (R190). -/
def execFsqrt (o : BorderOp) (s : State) : Res := vecOp 0x0B o s (fun a _ _ _ => fpSqrt a)
/-- FRSQRT: 1/√vA. -/
def execFrsqrt (o : BorderOp) (s : State) : Res := vecOp 0x0C o s (fun a _ _ _ => fpRsqrt a)
/-- BORDER_FMAX. -/
def execBorderFmax (o : BorderOp) (s : State) : Res := vecOp 0x0D o s (fun a b _ _ => { code := fpMax a b })
/-- BORDER_FMIN. -/
def execBorderFmin (o : BorderOp) (s : State) : Res := vecOp 0x0E o s (fun a b _ _ => { code := fpMin a b })
/-- FABS. -/
def execFabs (o : BorderOp) (s : State) : Res := vecOp 0x0F o s (fun a _ _ _ => { code := fpMag a })
/-- FSIGN: −1, 0 or +1. -/
def execFsign (o : BorderOp) (s : State) : Res := vecOp 0x10 o s (fun a _ _ _ => { code := fpSign a })
/-- FMULK: vA · kC. -/
def execFmulk (o : BorderOp) (s : State) : Res := vecOp 0x11 o s (fun a _ _ k => fpMul a k)
/-- FADDK: vA + kC. -/
def execFaddk (o : BorderOp) (s : State) : Res := vecOp 0x12 o s (fun a _ _ k => fpAdd a k)
/-- FMAK: vA · kC + vB, one rounding. -/
def execFmak (o : BorderOp) (s : State) : Res := vecOp 0x13 o s (fun a b _ k => fpFma a k b)

/-- Row and column of element i of the current tile (R191). -/
def elemRow (x : SlotSt) (b : BorderSt) (i : Nat) : Nat :=
  match x.table[b.entry]? with | none => 0 | some e => (tileBase x b + i) / max e.cols 1
def elemCol (x : SlotSt) (b : BorderSt) (i : Nat) : Nat :=
  match x.table[b.entry]? with | none => 0 | some e => (tileBase x b + i) % max e.cols 1

/-- Broadcast a row or column statistic: from the visible bank, in phase 2 from the alternate bank (Table 08.4). -/
def loadStat (op : Nat) (o : BorderOp) (s : State) (at_ : SlotSt → BorderSt → Nat → Nat) : Res :=
  borderOp op o s (fun x b s =>
    let bank := if b.stage == .phase2 then (x.cn + 1) % 2 else x.bank
    (s, setVec b o.d.toNat ((List.range (liveElems x b)).map (fun i => readState s x b o.s.toNat bank (at_ x b i)))))

/-- LDR. -/
def execLdr (o : BorderOp) (s : State) : Res := loadStat 0x14 o s elemRow
/-- LDC. -/
def execLdc (o : BorderOp) (s : State) : Res := loadStat 0x15 o s elemCol

/-- An FP32 value enters a pair accumulator (R69, R191). -/
def PairAcc.enter (p : PairAcc) (v : Nat) : PairAcc × Nat :=
  let r := addPair p.a p.c v
  ({ a := r.1, c := r.2.1 }, r.2.2)

/-- A sequential FP32 sum, from its first element on, with its saturations. -/
def seqSum : List Nat → Nat × Nat
  | [] => (0, 0)
  | v :: vs => vs.foldl (fun a w => let r := fpAdd a.1 w; (r.code, a.2 + boolNat r.sat)) (v, 0)

/-- SUMSQ (R191): lane sums of eight squares, the tree of R97, then the pair accumulator. -/
def execSumsq (o : BorderOp) (s : State) : Res :=
  borderOp 0x16 o s (fun x b s =>
    let k := liveElems x b
    let sq := (List.range 1024).map (fun i =>
      if i < k then let v := vElem b o.a.toNat i; fpMul v v else { code := 0 })
    let lanes := (List.range 128).map (fun l => let r := seqSum ((sq.drop (8 * l)).take 8 |>.map (·.code)); ({ code := r.1, masked := false, sats := r.2 } : SumNode))
    let root := (treeLevelsOf sumNode 7 lanes).headD { code := 0, masked := false, sats := 0 }
    let p := (mget {} b.acc o.d.toNat).enter root.code
    (countConv s o.rim.toNat b.slot { sat := (sq.filter (·.sat)).length + root.sats + p.2 }, { b with acc := mset {} b.acc o.d.toNat p.1 }))

/-- Add the tile's sums by row or column into accumulators, as one term each, in ascending order. -/
def addStat (x : SlotSt) (b : BorderSt) (reg : Nat) (at_ : SlotSt → BorderSt → Nat → Nat) (m : SMap PairAcc) : SMap PairAcc × Nat :=
  let k := liveElems x b
  let keys := ((List.range k).map (at_ x b)).eraseDups
  keys.foldl (fun a q =>
    let r := seqSum (((List.range k).filter (fun i => at_ x b i == q)).map (vElem b reg))
    let p := (mget {} a.1 q).enter r.1
    (mset {} a.1 q p.1, a.2 + r.2 + p.2)) (m, 0)

/-- ARSUM (R191). -/
def execArsum (o : BorderOp) (s : State) : Res :=
  borderOp 0x17 o s (fun x b s =>
    let r := addStat x b o.a.toNat elemRow b.row
    (countConv s o.rim.toNat b.slot { sat := r.2 }, { b with row := r.1 }))

/-- ACSUM (R191). -/
def execAcsum (o : BorderOp) (s : State) : Res :=
  borderOp 0x18 o s (fun x b s =>
    let r := addStat x b o.a.toNat elemCol b.col
    (countConv s o.rim.toNat b.slot { sat := r.2 }, { b with col := r.1 }))

/-- KADD: kA + kB. -/
def execKadd (o : BorderOp) (s : State) : Res := scalarOp 0x20 o s (fun _ a b => fpAdd a b)
/-- KSUB: kA − kB. -/
def execKsub (o : BorderOp) (s : State) : Res := scalarOp 0x21 o s (fun _ a b => fpSub a b)
/-- KMUL: kA · kB. -/
def execKmul (o : BorderOp) (s : State) : Res := scalarOp 0x22 o s (fun _ a b => fpMul a b)
/-- KDIV: kA / kB. -/
def execKdiv (o : BorderOp) (s : State) : Res := scalarOp 0x23 o s (fun _ a b => fpDiv a b)
/-- KSQRT: √kA. -/
def execKsqrt (o : BorderOp) (s : State) : Res := scalarOp 0x24 o s (fun _ a _ => fpSqrt a)
/-- KMOV: kA. -/
def execKmov (o : BorderOp) (s : State) : Res := scalarOp 0x25 o s (fun _ a _ => { code := a })
/-- KPOWT: kA to the power CN + 1, rounded once (R190). -/
def execKpowt (o : BorderOp) (s : State) : Res := scalarOp 0x26 o s (fun x a _ => fpPow a (x.cn + 1))

/-- KACC (R191): the combined accumulator A as its FP32 value; interlude only. -/
def execKacc (o : BorderOp) (s : State) : Res :=
  borderOp 0x27 o s (fun _ b s =>
    let p := mget {} b.total o.a.toNat
    let v := pairValue p.a p.c
    (countConv s o.rim.toNat b.slot { sat := boolNat v.2 }, { b with k := mset 0 b.k o.d.toNat v.1 }))

/-- Combine partial pairs in the order of the Borders: the two-sum of A, then C (R191). -/
def combinePairs : List PairAcc → PairAcc × Nat
  | [] => ({}, 0)
  | p :: ps =>
    ps.foldl (fun a q =>
      let r := addPair a.1.a a.1.c q.a
      let k := fpAdd r.2.1 q.c
      ({ a := r.1, c := k.code }, a.2 + r.2.2 + boolNat k.sat)) (p, 0)

/-- Totals of one kind of accumulator over the Borders, by key. -/
def totals (ms : List (SMap PairAcc)) : SMap PairAcc × Nat :=
  let keys := (ms.flatMap (fun m => m.map (·.1))).eraseDups
  keys.foldl (fun a k =>
    let r := combinePairs (ms.map (fun m => mget {} m k))
    (mset {} a.1 k r.1, a.2 + r.2)) ([], 0)

/-- Write the totals of a statistic to its stream of the alternate bank as FP32 values. -/
def writeTotals (s : State) (m : Nat) (x : SlotSt) (b : BorderSt) (k len : Nat) (t : SMap PairAcc) : State :=
  let vs := (List.range len).map (fun q => let p := mget {} t q; pairValue p.a p.c)
  countConv (writeState s m x b k ((x.cn + 1) % 2) 0 (vs.map (·.1))) m b.slot { sat := (vs.filter (·.2)).length }

/-- A Border goes on once the accumulators are combined: to its interlude, or in a one-phase program to the next entry. -/
def afterCombine (x : SlotSt) (b : BorderSt) (total : SMap PairAcc) : BorderSt :=
  if (entryProg x b.entry).twoPhase then { b with stage := .interlude, pc := 0, total := total } else startEntry x b (b.entry + 1)

/-- INTERLUDE (R189, R191, R192): every Border has finished phase 1 of the entry; the accumulators are combined, row and column
statistics written, and each Border goes on. -/
def execInterlude (slot : BitVec 12) (s : State) : Res :=
  let n := slot.toNat
  let x := getSlot s n
  let ms := (List.range 8).filter (fun m => !s.tiers.fenced.contains m)
  let bs := ms.map (getBorder s)
  match bs.head? with
  | none => .next s
  | some b =>
    if !borderLive s b || !bs.all (fun c => c.slot == n && c.stage == .waitInterlude && c.entry == b.entry) then .next s
    else
      let acc := totals (bs.map (·.acc))
      let row := totals (bs.map (·.row))
      let col := totals (bs.map (·.col))
      let e := x.table[b.entry]?
      let uses (op : Nat) : Bool := (entryProg x b.entry).phase1.any (fun w => bits w 31 26 == op)
      -- the first Border in service stands for the unit that combines (log entry 76)
      let m0 := ms.headD 0
      let s := countConv s m0 n { sat := acc.2 + row.2 + col.2 }
      let s := if uses 0x17 then writeTotals s m0 x b 2 ((e.map (·.rows)).getD 0) row.1 else s
      let s := if uses 0x18 then writeTotals s m0 x b 3 ((e.map (·.cols)).getD 0) col.1 else s
      .next (ms.foldl (fun s m =>
        setBorder s m (settleBorder s x m (borderFuel x) (afterCombine x (getBorder s m) acc.1))) s)

/-! ### Host-placed updates (R193, R194) -/

/-- The host port of the function that issued a RUN. -/
def runPort (r : RunSt) : Nat := fnPort r.fn

/-- A trailer (R193): CN + 1, CRC-32C, 52 zero bytes. -/
def hostTrailer (cn crc : Nat) : List Byte := bytesLE 8 (cn + 1) ++ bytesLE 4 crc ++ List.replicate 52 0

/-- The function that issued a RUN was reset since (R262). -/
def runOrphan (s : State) (r : RunSt) : Bool := (getRing s r.ring).open_.any (fun d => d.id == r.desc && d.orphan)

/-- GRAD_READY (R193): with every tile quantised, G8 in tile order and its trailer go to the gradient buffer, and CN + 1
to the GRAD_READY word. For a function that was reset nothing is sent, and the attempt aborts at once (R261, R262). -/
def execGradReady (slot : BitVec 12) (s : State) : Res :=
  let n := slot.toNat
  let x := getSlot s n
  match x.run with
  | none => .next s
  | some r =>
    if !x.hostPlaced || r.stage != .step || r.sweeping || !allQuantised s n then .next s
    else if runOrphan s r then .next (abortAttempt s n true sHostTimeout)
    else if !(getFn s r.fn).cfg.master then .next s
    else
      let g := readStream s n .g8 0 (1024 * tableTiles x.table)
      let p := runPort r
      let s := updSlot s n (fun x => { x with hostWait := true, run := x.run.map (fun r => { r with sweeping := true }) })
      .next { s with out := s.out ++ [.hostWrite p x.gradBuf (g ++ hostTrailer x.cn (crc32c g)), .hostWrite p x.readyBuf (bytesLE 8 (x.cn + 1))] }

/-- WC_READY_POLL (R193, R194): the device reads the WC_READY word, and once it equals CN + 1 the working-copy buffer. A
buffer that passes its check becomes WC of the alternate bank; one that fails twice aborts with HOST_CRC. -/
def execWcReadyPoll (slot : BitVec 12) (word : DWord) (data : List Byte) (s : State) : Res :=
  let n := slot.toNat
  let x := getSlot s n
  if !x.hostWait || !x.run.any (fun r => r.stage == .step && (getFn s r.fn).cfg.master) || word.toNat != (x.cn + 1) % 2 ^ 64 then .next s
  else
    let k := 2048 * tableTiles x.table
    let wc := data.take k
    if data.length == k + 64 && (data.drop k).take 12 == (hostTrailer x.cn (crc32c wc)).take 12 then
      let s := writeStream s n (.wc ((x.cn + 1) % 2)) 0 wc
      .next (updSlot s n (fun x => { x with hostWait := false, hostRetry := false, run := x.run.map (fun r => { r with installed := true }) }))
    else if x.hostRetry then .next (abortAttempt s n true sHostCrc)
    else .next (updSlot s n (fun x => { x with hostRetry := true }))

/-- HOST_TIMEOUT (R194): WC_READY has not reached CN + 1 within HOST_LIMIT. -/
def execHostTimeout (slot : BitVec 12) (s : State) : Res :=
  let n := slot.toNat
  if (getSlot s n).hostWait then .next (abortAttempt s n true sHostTimeout) else .next s

end Sys2Proof.Machine
end

