-- ==== Sys2Proof/Machine/Copies.lean ====
section
/-! DEFINITION. Descriptors that move data between host and tiers: COPY_IN, COPY_OUT, FILL, CHECKPOINT and RESTORE (R185,
R186, R224, R290, R292, R352 to R354, R462, R464). -/

namespace Sys2Proof.Machine

/-! ### The tier side (Table 12.4, R290) -/

/-- Fields of COPY_IN, COPY_OUT and FILL. -/
def dFrom (raw : Nat) : Nat := bits (dfld raw 0x0C 1) 7 4
def dTo (raw : Nat) : Nat := bits (dfld raw 0x0C 1) 3 0
def dRegion (raw : Nat) : Nat := dfld raw 0x0D 1
def dDomain (raw : Nat) : Nat := dfld raw 0x0E 1
def dAddr (raw : Nat) : Nat := dfld raw 0x10 8
def dSlotv (raw : Nat) : Bool := dFlag raw 4

/-- The format of a code. -/
def fmtOf (c : Nat) : Fmt := (Fmt.ofCode c).getD .fp32

/-- A log format. -/
def fmtLog (f : Fmt) : Bool := f == .l8 || f == .l16

/-- Where a copy acts: a tier address of a domain, or an offset in a stream of a slot. -/
inductive CopySide where
  | tier (dom addr : Nat)
  | stream (slot : Nat) (st : Stream) (off : Nat)
  deriving DecidableEq, Repr

/-- The stream of a REGION code, in the visible bank. -/
def regionStream (x : SlotSt) (region : Nat) : Stream :=
  if region = 1 then .wc x.bank else if region = 2 then .w x.bank else if region = 7 then .e else .st (region - 3) x.bank

/-- The side that a descriptor names. -/
def copySide (s : State) (raw : Nat) : CopySide :=
  if dRegion raw = 0 then .tier (dDomain raw) (dAddr raw)
  else .stream (dTarget raw) (regionStream (getSlot s (dTarget raw)) (dRegion raw)) (dAddr raw)

/-- Bytes of a stream of a slot; a host-placed slot has no master and no states (R182). -/
def sideSize (x : SlotSt) (st : Stream) : Nat := if x.hostPlaced && masterKind st.kind then 0 else streamSize x st

/-- n bytes of a side are valid, its start aligned to w (check 10). -/
def sideOk (s : State) (w n : Nat) : CopySide → Bool
  | .tier d a => rangeValid s d a n && a % w == 0
  | .stream k st off => decide (off + n ≤ sideSize (getSlot s k) st) && off % w == 0

/-- Read and write bytes of a side. -/
def sideRead (s : State) (n : Nat) : CopySide → List Byte
  | .tier d a => tierBytes s d a n
  | .stream k st off => readStream s k st off n
def sideWrite (s : State) (bs : List Byte) : CopySide → State
  | .tier d a => setTierBytes s d a bs
  | .stream k st off => writeStream s k st off bs

/-- The first address of each 4 KiB block that a list of addresses enters. -/
def enterBlocks : Option Nat → List Nat → List Nat
  | _, [] => []
  | last, a :: l => if last = some (a / 4096) then enterBlocks last l else a :: enterBlocks (some (a / 4096)) l

/-- Tier addresses of n bytes of a stream, one for each block. -/
def streamBlocks (s : State) (k : Nat) (st : Stream) (off n : Nat) : List Nat :=
  enterBlocks none ((List.range n).filterMap (fun i => streamAddr s k st (off + i)))

/-- Domain of a side, and an address in each of its blocks. -/
def sideBlocks (s : State) (n : Nat) : CopySide → Nat × List Nat
  | .tier d a => (d, blockAddrs a n)
  | .stream k st off => ((getSlot s k).dom, streamBlocks s k st off n)

/-! ### What a copy meets (R186, R224) -/

/-- Bytes [a, a + n) meet [b, b + m). -/
def bytesMeet (a n b m : Nat) : Bool := decide (0 < n) && decide (0 < m) && decide (a < b + m) && decide (b < a + n)

/-- A region meets n bytes from a tier address. -/
def regionMeets (r : Region) (a n : Nat) : Bool :=
  r.tier == taTier a && bytesMeet (taGidx a * granBytes + taOffs a) n (r.gidx * granBytes) (r.count * granBytes)

/-- Regions of a domain that n bytes from a tier address touch. -/
def touched (s : State) (dom a n : Nat) : List Region := (getDom s dom).regions.filter (fun r => regionMeets r a n)

/-- The byte ranges of the tier streams of RUNs in a domain that a predicate picks. -/
def runStreams (s : State) (dom : Nat) (pick : TierStream → Bool) : List (Nat × Nat) :=
  s.slots.flatMap (fun p =>
    match p.2.run, p.2.pattern with
    | some r, some pat =>
      if p.2.dom = dom then (pat.streams.filter pick).flatMap (fun t => r.problems.map (fun e => (streamFirst t e, t.extent))) else []
    | _, _ => [])

/-- The tables that patterns of RUNs in a domain gather from and scatter into. -/
def runTables (s : State) (dom : Nat) : List (Nat × Nat) :=
  s.slots.flatMap (fun p =>
    match p.2.run, p.2.pattern with
    | some _, some pat =>
      if p.2.dom = dom then pat.ctxs.flatten.flatMap (fun im => (im.2.tables.filter (· != 0)).map (fun t => (tdBase t, tdStride t * tdRows t))) else []
    | _, _ => [])

/-- A RUN uses a region (R224). -/
def regionInUse (s : State) (dom : Nat) (r : Region) : Bool :=
  (runStreams s dom (fun _ => true) ++ runTables s dom).any (fun q => regionMeets r q.1 q.2)

/-- A RUN names a region as a stream source. -/
def regionSource (s : State) (dom : Nat) (r : Region) : Bool := (runStreams s dom (fun t => !t.writes)).any (fun q => regionMeets r q.1 q.2)

/-- Why a write of n bytes of a side is refused (check 11). -/
def writeRefusal (s : State) (n : Nat) : CopySide → Option Nat
  | .stream k _ _ => if slotRunning s k then some sSlotBusy else none
  | .tier d a =>
    let rs := touched s d a n
    if rs.any (fun r => r.slot.any (slotRunning s)) then some sSlotBusy
    else if rs.any (fun r => r.kind == .buffer && regionSource s d r) then some sRegionBusy
    else none

/-- Slots whose master a write of n bytes of a side reaches. -/
def masterSlots (s : State) (n : Nat) : CopySide → List Nat
  | .stream k st _ => match st with | .w _ => [k] | _ => []
  | .tier d a => (touched s d a n).filterMap (fun r => match r.kind with | .w _ => r.slot | _ => none)

/-- The banks of slots that a copy of n bytes of a side reads: slot and bank. -/
def banksRead (s : State) (n : Nat) : CopySide → List (Nat × Nat)
  | .stream k st _ => match st with
    | .wc b | .w b | .st _ b => if n = 0 then [] else [(k, b)]
    | _ => []
  | .tier d a => (touched s d a n).filterMap (fun r => match r.kind, r.slot with
    | .wc b, some k | .w b, some k | .st _ b, some k => some (k, b)
    | _, _ => none)

/-- A copy holds the banks that it reads until its completion is written (R186). -/
def holdBanks (s : State) (r id : Nat) (bs : List (Nat × Nat)) : State :=
  bs.foldl (fun s b => updSlot s b.1 (fun x => { x with copies := x.copies ++ [(r, id, b.2)] })) s

/-- Slots whose master was written become WC-stale (R185); a COPY_IN also loads it (R293). -/
def markStale (s : State) (ns : List Nat) (load : Bool) : State :=
  ns.foldl (fun s n => updSlot s n (fun x => { x with wcStale := true, noMaster := x.noMaster && !load })) s

/-! ### Conversion (R290, R464) -/

/-- Cut bytes into codes of w bytes. -/
def codesOf (w : Nat) (bs : List Byte) : List Nat := (List.range (bs.length / w)).map (fun i => fieldLE bs (w * i) w)

/-- Bytes converted from one format to another, and the events; equal formats pass unchanged. -/
def convertBytes (src dst : Fmt) (bs : List Byte) : List Byte × Conv4 :=
  if src = dst then (bs, {})
  else
    let cs := (codesOf src.width bs).map (convert src dst)
    (cs.flatMap (fun c => bytesLE dst.width c.code), cs.foldl (fun a c => a.add (evOf c)) {})

/-- The events of a copy of function k reach CONV_FLAGS by the converter of its port (R464), and the slot that the descriptor
names (R36). -/
def countCopy (s : State) (k raw : Nat) (ev : Conv4) : State :=
  let s := raiseConv s (portUnit (k / 65)) ev
  if dSlotv raw then updSlot s (dTarget raw) (fun x => { x with conv := x.conv.add ev }) else s

/-! ### Check sets (R352 to R354) -/

/-- A check set of a function. -/
def getChk (s : State) (k i : Nat) : ChkSet := mget {} (getFn s k).chk i
def setChk (s : State) (k i : Nat) (c : ChkSet) : State := updFn s k (fun f => { f with chk := mset {} f.chk i c })

/-- The check set bound to a buffer index. -/
def boundSet (s : State) (k buf : Nat) : Option Nat := (List.range 32).find? (fun i => (getChk s k i).en && (getChk s k i).buf == buf)

/-- DIR codes of CHK_CTL. -/
def dirAppend : Nat := 1
def dirCheck : Nat := 2

/-- Bytes of a check value. -/
def chkWidth (c : ChkSet) : Nat := if c.alg64 then 8 else 4

/-- Check bytes that a copy adds to its buffer's use: APPEND on a COPY_OUT, CHECK on a COPY_IN, of a set with FINAL. -/
def chkBytes (s : State) (k buf dir : Nat) : Nat :=
  match boundSet s k buf with
  | none => 0
  | some i => let c := getChk s k i; if c.final && c.dir == dir then chkWidth c else 0

/-- The running value after a copy of bytes. -/
def chkRun (c : ChkSet) (addr : Nat) (bs : List Byte) : Nat :=
  let fold := if c.fold = 1 then foldBytes addr else if c.fold = 2 then foldBytes c.foldV else []
  crcRun c.alg64 (if c.fresh then crcRun c.alg64 (crcInit c.alg64) fold else c.run) bs

/-- The check value of a copy of bytes. -/
def chkValue (c : ChkSet) (addr : Nat) (bs : List Byte) : Nat := crcFinal c.alg64 (chkRun c addr bs)

/-- A set after a copy. -/
def endChk (c : ChkSet) (addr : Nat) (bs : List Byte) : ChkSet :=
  { c with
    run := chkRun c addr bs,
    fresh := c.final,
    result := if c.final then chkValue c addr bs else c.result,
    foldV := if c.final && c.fold == 2 then (c.foldV + 1) % 2 ^ 64 else c.foldV }

/-- The set bound to a buffer processes a copy's host-side bytes; the check value as bytes. -/
def runChk (s : State) (k buf addr : Nat) (bs : List Byte) : List Byte × State :=
  match boundSet s k buf with
  | none => ([], s)
  | some i =>
    let c := getChk s k i
    (bytesLE (chkWidth c) (chkValue c addr bs), setChk s k i (endChk c addr bs))

/-! ### COPY_IN, COPY_OUT, FILL -/

/-- Conditions of check 2 that the three opcodes share. -/
def copyForm (raw : Nat) : Bool := decide (dRegion raw ≤ 7) && (dSlotv raw || (dRegion raw == 0 && dTarget raw == 0)) && (Fmt.ofCode (dTo raw)).isSome

/-- Check 5 of the three opcodes. -/
def copyNames (s : State) (k raw : Nat) : Option Nat :=
  if dSlotv raw && !slotVisible s k (dTarget raw) then some sNoSlot
  else if !domExists s (dDomain raw) then some sBadField
  else if dSlotv raw && (getSlot s (dTarget raw)).dom != dDomain raw then some sBadField
  else none

/-- Fields of the three opcodes up to ADDR. -/
def copyFields : List (Nat × Nat) :=
  [slotField, flagField 4, byteField 0x08 4, byteField 0x0C 1, byteField 0x0D 1, byteField 0x0E 1, byteField 0x10 8]

/-- Formats of a copy: a conversion names a pair of Table 02.4, with LENGTH a multiple of the host width. -/
def copyFmt (raw : Nat) (toHost : Bool) : Bool :=
  (Fmt.ofCode (dFrom raw)).isSome && (dFrom raw == dTo raw
    || ((fmtLog (fmtOf (dFrom raw)) || fmtLog (fmtOf (dTo raw)))
      && dLength raw % (fmtOf (if toHost then dTo raw else dFrom raw)).width == 0))

/-- Bytes of the tier side, and the alignment of its start. -/
def tierLength (raw : Nat) (toHost : Bool) : Nat × Nat :=
  if dFrom raw = dTo raw then (dLength raw, 1)
  else
    let h := (fmtOf (if toHost then dTo raw else dFrom raw)).width
    let t := (fmtOf (if toHost then dFrom raw else dTo raw)).width
    (dLength raw / h * t, t)

/-- Plan of COPY_IN and COPY_OUT; `chk` check bytes follow the data in the buffer. -/
def copyPlan (toHost : Bool) (chk : Nat) (ready : Bool) (k raw : Nat) (s : State) : Plan :=
  { fields := copyFields ++ [byteField 0x18 2, byteField 0x20 8],
    form := copyForm raw && copyFmt raw toHost,
    dom := some (dDomain raw),
    names := copyNames s k raw,
    empty := dLength raw == 0,
    bufs := [{ idx := dBuf raw, acc := if toHost then 2 else 1, off := dBufOff raw, bytes := dLength raw + chk }],
    ready := ready }

/-- A reading of a copy's buffer: the data, and whether its check value is the one expected. -/
def chkMatch (s : State) (k raw : Nat) (bs : List Byte) : Bool :=
  match boundSet s k (dBuf raw) with
  | none => true
  | some i =>
    let c := getChk s k i
    let n := dLength raw
    !(c.final && c.dir == dirCheck) || bs.drop n == bytesLE (chkWidth c) (chkValue c (dAddr raw) (bs.take n))

/-- The operand of a COPY_IN holds what the device reads: the data with the check value, and a second reading after a
mismatch. -/
def copyInReady (o : DescOp) (chk k raw : Nat) (s : State) : Bool :=
  let n := dLength raw + chk
  o.data.length == n && (chkMatch s k raw o.data || o.data2.length == n)

/-- Write a reading of a COPY_IN: conversion, tier side, events. -/
def copyWrite (s : State) (raw : Nat) (bs : List Byte) : State × Conv4 :=
  let c := convertBytes (fmtOf (dFrom raw)) (fmtOf (dTo raw)) bs
  (sideWrite s c.1 (copySide s raw), c.2)

/-- Bytes without defined contents (R354). -/
def undefinedBytes (s : State) (n : Nat) : List Byte × State :=
  ((List.range n).map (Config.undefinedByte s.draws), { s with draws := s.draws + 1 })

/-- COPY_IN once its acceptance checks 2 to 9 have passed. -/
def copyIn (e : DescEnv) (s : State) : State :=
  let raw := e.raw
  let side := copySide s raw
  let t := tierLength raw false
  if !sideOk s t.2 t.1 side then e.done s sBadAddr 0
  else match writeRefusal s t.1 side with
    | some c => e.done s c 0
    | none =>
      let n := dLength raw
      let first := e.o.data.take n
      let ns := masterSlots s t.1 side
      let w := copyWrite s raw first
      if chkMatch s e.k raw e.o.data then
        let s := countCopy (runChk w.1 e.k (dBuf raw) (dAddr raw) first).2 e.k raw w.2
        e.done (markStale s ns true) sSuccess 0
      else
        let again := e.o.data2.take n
        let v := copyWrite w.1 raw again
        let ok := chkMatch s e.k raw e.o.data2
        let s := countCopy (runChk v.1 e.k (dBuf raw) (dAddr raw) again).2 e.k raw (w.2.add v.2)
        if ok then e.done (markStale s ns true) sSuccess 0
        else
          let u := undefinedBytes s t.1
          e.done (raiseChk (markStale (sideWrite u.2 u.1 side) ns true) e.k cfMismatch) sHostCrc 0

def copyInPlan (o : DescOp) (k raw : Nat) (s : State) : Plan :=
  let chk := chkBytes s k (dBuf raw) dirCheck
  copyPlan false chk (copyInReady o chk k raw s) k raw s

/-- COPY_IN (R290, R352 to R354, R464). -/
def execCopyIn (o : DescOp) (s : State) : Res := decideRow 0x05 o (copyInPlan o) copyIn s

/-- COPY_OUT once its acceptance checks 2 to 9 have passed. -/
def copyOut (e : DescEnv) (s : State) : State :=
  let raw := e.raw
  let side := copySide s raw
  let t := tierLength raw true
  if !sideOk s t.2 t.1 side then e.done s sBadAddr 0
  else
    let b := sideBlocks s t.1 side
    let v := copyReadsAt s b.1 b.2 (e.o.fails.map (·.toNat))
    let s := v.2
    match v.1 with
    | some st => e.done s st 0
    | none =>
      let s := holdBanks s e.r e.id (banksRead s t.1 side)
      let c := convertBytes (fmtOf (dFrom raw)) (fmtOf (dTo raw)) (sideRead s t.1 side)
      let append := chkBytes s e.k (dBuf raw) dirAppend != 0
      let r := runChk s e.k (dBuf raw) (dAddr raw) c.1
      let s := countCopy r.2 e.k raw c.2
      let w : Output := .hostWrite (fnPort e.k) (e.addr 0 + dBufOff raw) (c.1 ++ (if append then r.1 else []))
      e.done { s with out := s.out ++ [w] } sSuccess 0

def copyOutPlan (k raw : Nat) (s : State) : Plan := copyPlan true (chkBytes s k (dBuf raw) dirAppend) true k raw s

/-- COPY_OUT (R290, R352, R353, R462, R464). -/
def execCopyOut (o : DescOp) (s : State) : Res := decideRow 0x06 o copyOutPlan copyOut s

/-- LENGTH bytes of a repeated element; a trailing partial element has its leading bytes. -/
def fillBytes (w value n : Nat) : List Byte :=
  let el := bytesLE w value
  (List.range n).map (fun i => nth 0 el (i % w))

/-- FILL once its acceptance checks 2 to 9 have passed. -/
def fill (e : DescEnv) (s : State) : State :=
  let raw := e.raw
  let n := dLength raw
  let side := copySide s raw
  if !sideOk s 1 n side then e.done s sBadAddr 0
  else match writeRefusal s n side with
    | some c => e.done s c 0
    | none => e.done (markStale (sideWrite s (fillBytes (fmtOf (dTo raw)).width (dfld raw 0x18 4) n) side) (masterSlots s n side) false) sSuccess 0

def fillPlan (k raw : Nat) (s : State) : Plan :=
  { fields := copyFields ++ [byteField 0x18 4],
    form := copyForm raw && dFrom raw == 0,
    dom := some (dDomain raw),
    names := copyNames s k raw,
    empty := dLength raw == 0 }

/-- DESCRIPTOR_FILL (R290): the FILL descriptor. -/
def execDescriptorFill (o : DescOp) (s : State) : Res := decideRow 0x07 o fillPlan fill s

/-! ### CHECKPOINT and RESTORE (R186, R292) -/

/-- Fields of CHECKPOINT and RESTORE. -/
def dNtiles (raw : Nat) : Nat := dfld raw 0x0C 2
def dTile0 (raw : Nat) : Nat := dfld raw 0x10 4

def imagePlan (toHost ready : Bool) (k raw : Nat) (s : State) : Plan :=
  { fields := [slotField, byteField 0x08 4, byteField 0x0C 2, byteField 0x10 4, byteField 0x18 2, byteField 0x20 8],
    names := slotName s k raw,
    counts := dNtiles raw != 0,
    empty := dLength raw == 0,
    bufs := [{ idx := dBuf raw, acc := if toHost then 2 else 1, off := dBufOff raw, bytes := dLength raw }],
    ready := ready }

/-- The bytes of state stream k that a parameter tile brings into an image: its own elements, or with the first tile of an
entry that declares one element per row or column, all of them. First byte and length. -/
def tileState (x : SlotSt) (k t : Nat) : Nat × Nat :=
  match tileEntry x.table t with
  | none => (0, 0)
  | some (n, e, i) =>
    let w := declWidth (entryStream e k)
    let base := streamOff x.table k n
    match (entryStream e k).ext with
    | .absent => (base, 0)
    | .full => (base + 1024 * w * i, 1024 * w)
    | _ => (base, if i = 0 then streamElems e k * w else 0)

/-- The parts of the body of an image in order: W, the present state streams, E; each stream with first byte and length. -/
def imageParts (x : SlotSt) (b t0 n : Nat) : List (Stream × Nat × Nat) :=
  let ts := (List.range n).map (t0 + ·)
  let es := ts.map (fun t => (Stream.e, 2048 * t, 2048))
  if x.hostPlaced then es
  else ts.map (fun t => (Stream.w b, 4096 * t, 4096))
    ++ (List.range 4).flatMap (fun k => ts.map (fun t => (Stream.st k b, tileState x k t))) ++ es

/-- STATES: the format of each state stream in the first entry of the range that declares it. -/
def imageStates (x : SlotSt) (t0 n : Nat) : Nat :=
  if x.hostPlaced then 0
  else sumNat ((List.range 4).map (fun k =>
    let ds := ((List.range n).filterMap (fun i => tileEntry x.table (t0 + i))).map (fun r => entryStream r.2.1 k)
    match ds.find? (fun d => d.ext != .absent) with
    | none => 0
    | some d => (if d.l16 then 2 else 1) * 4 ^ k))

/-- The 64-byte header of an image. -/
def imageHeader (x : SlotSt) (slot t0 n crc : Nat) : List Byte :=
  bytesLE 4 0x4B43594C ++ bytesLE 2 1 ++ bytesLE 2 (imageStates x t0 n) ++ bytesLE 8 x.cn ++ bytesLE 4 slot ++ bytesLE 4 t0
    ++ bytesLE 4 n ++ bytesLE 4 0 ++ bytesLE 8 crc ++ bytesLE 24 0

/-- Size of an image. -/
def imageSize (x : SlotSt) (t0 n : Nat) : Nat := 64 + sumNat ((imageParts x x.bank t0 n).map (·.2.2))

/-- The tiles of a descriptor lie in the slot's. -/
def tilesOk (x : SlotSt) (raw : Nat) : Bool := decide (dTile0 raw + dNtiles raw ≤ tableTiles x.table)

/-- CHECKPOINT once its acceptance checks 2 to 9 have passed. -/
def checkpoint (e : DescEnv) (s : State) : State :=
  let n := dTarget e.raw
  let x := getSlot s n
  let t0 := dTile0 e.raw
  let nt := dNtiles e.raw
  let size := imageSize x t0 nt
  if !tilesOk x e.raw then e.done s sBadAddr 0
  else if dLength e.raw < size then e.done s sShortBuf size
  else
    let ps := imageParts x x.bank t0 nt
    let v := copyReadsAt s x.dom (ps.flatMap (fun p => streamBlocks s n p.1 p.2.1 p.2.2)) (e.o.fails.map (·.toNat))
    let s := v.2
    match v.1 with
    | some st => e.done s st size
    | none =>
      let body := ps.flatMap (fun p => readStream s n p.1 p.2.1 p.2.2)
      let w : Output := .hostWrite (fnPort e.k) (e.addr 0 + dBufOff e.raw) (imageHeader x n t0 nt (crc64 body) ++ body)
      let s := holdBanks s e.r e.id (if x.hostPlaced then [] else [(n, x.bank)])
      e.done { s with out := s.out ++ [w] } sSuccess size

/-- CHECKPOINT (R292). -/
def execCheckpoint (o : DescOp) (s : State) : Res := decideRow 0x08 o (imagePlan true true) checkpoint s

/-- The image's header and CRC match (R292). -/
def restoreOk (x : SlotSt) (raw : Nat) (bs : List Byte) : Bool :=
  let size := imageSize x (dTile0 raw) (dNtiles raw)
  decide (size ≤ bs.length) && fieldLE bs 0x00 4 == 0x4B43594C && fieldLE bs 0x04 2 == 1
    && fieldLE bs 0x06 2 == imageStates x (dTile0 raw) (dNtiles raw)
    && fieldLE bs 0x20 8 == crc64 ((bs.drop 64).take (size - 64))

/-- Write the parts of an image body one after another. -/
def writeParts (n : Nat) : List (Stream × Nat × Nat) → List Byte → State → State
  | [], _, s => s
  | p :: ps, bs, s => writeParts n ps (bs.drop p.2.2) (writeStream s n p.1 p.2.1 (bs.take p.2.2))

/-- RESTORE once its acceptance checks 2 to 9 have passed. -/
def restore (e : DescEnv) (s : State) : State :=
  let n := dTarget e.raw
  let x := getSlot s n
  let t0 := dTile0 e.raw
  let nt := dNtiles e.raw
  let bs := e.o.data
  if !tilesOk x e.raw then e.done s sBadAddr 0
  else if slotRunning s n then e.done s sSlotBusy 0
  else if !restoreOk x e.raw bs then e.done s sBadImage 0
  else
    let cn := fieldLE bs 0x08 8
    let s := updSlot s n (fun x => { x with cn := cn, wcStale := x.wcStale || !x.hostPlaced, noMaster := false })
    let s := writeParts n (imageParts x (cn % 2) t0 nt) (bs.drop 64) s
    e.done ((List.range nt).foldl (fun s i => setRecord s n (t0 + i) 0) s) sSuccess 0

def restorePlan (o : DescOp) (k raw : Nat) (s : State) : Plan := imagePlan false (o.data.length == dLength raw) k raw s

/-- RESTORE (R292). -/
def execRestore (o : DescOp) (s : State) : Res := decideRow 0x09 o (restorePlan o) restore s

end Sys2Proof.Machine
end

