-- ==== Sys2Proof/Machine/Admin.lean ====
section
/-! DEFINITION. ADMIN descriptors: domains, quotas, slots, regions, partitions, pattern stores and service mode (Table 12.5,
R109, R112, R207, R210 to R212, R221 to R224, R341, R386, R463). -/

namespace Sys2Proof.Machine

/-- Fields of the sub-ops. -/
def aDomain (raw : Nat) : Nat := dfld raw 0x10 1
def aByte11 (raw : Nat) : Nat := dfld raw 0x11 1
def aByte12 (raw : Nat) : Nat := dfld raw 0x12 1
def aWord (raw : Nat) : Nat := dfld raw 0x14 4

/-- Check 5 of a sub-op that names a domain. -/
def domName (s : State) (raw : Nat) : Option Nat := if domExists s (aDomain raw) then none else some sBadField

/-! ### Domains and quotas (R221 to R224, R463) -/

/-- Fields of DOMAIN_CREATE and DOMAIN_REMOVE. -/
def domainPlan (_ _ : Nat) (_ : State) : Plan := { fields := [subopField, byteField 0x10 1] }

/-- DOMAIN_CREATE once its acceptance checks 2 to 9 have passed. -/
def createDomain (e : DescEnv) (s : State) : State :=
  let d := aDomain e.raw
  e.done (if domExists s d then s else setDom s d { created := true }) sSuccess 0

/-- DOMAIN_CREATE (R463): a new domain has all limits 0; an existing one stays as it is. -/
def execDomainCreate (o : DescOp) (s : State) : Res := decideRow 0x101 o domainPlan createDomain s

/-- A domain holds granules in some tier, or pattern-store pages. -/
def domHolds (d : DomSt) : Bool := decide (0 < d.useSc + d.usePages + d.useHbm + d.useLp)

/-- DOMAIN_REMOVE once its acceptance checks 2 to 9 have passed. -/
def removeDomain (e : DescEnv) (s : State) : State :=
  let d := aDomain e.raw
  if domHolds (getDom s d) then e.done s sDomainBusy 0 else e.done (setDom s d {}) sSuccess 0

/-- DOMAIN_REMOVE (R224, R463). -/
def execDomainRemove (o : DescOp) (s : State) : Res := decideRow 0x102 o domainPlan removeDomain s

/-- A domain's limit in a quota tier: 0 staging, 1 pattern store, 2 HBM3E, 3 LPDDR5X. -/
def setLimit (d : DomSt) (tier v : Nat) : DomSt :=
  if tier = 0 then { d with limSc := v } else if tier = 1 then { d with limPs := v }
  else if tier = 2 then { d with limHbm := v } else { d with limLp := v }

def quotaPlan (_ raw : Nat) (s : State) : Plan :=
  { fields := [subopField, byteField 0x10 1, byteField 0x11 1, byteField 0x14 4],
    form := decide (aByte11 raw ≤ 3) && decide (aWord raw ≤ 0xFFFFF),
    names := domName s raw }

/-- QUOTA_SET once its acceptance checks 2 to 9 have passed. -/
def setQuota (e : DescEnv) (s : State) : State :=
  let d := aDomain e.raw
  e.done (setDom s d (setLimit (getDom s d) (aByte11 e.raw) (aWord e.raw))) sSuccess 0

/-- QUOTA_SET (R223). -/
def execQuotaSet (o : DescOp) (s : State) : Res := decideRow 0x103 o quotaPlan setQuota s

/-! ### Regions (R207, R224) -/

/-- REGION_ALLOC once its acceptance checks 2 to 9 have passed: DETAIL is the first granule index. -/
def allocBuffer (e : DescEnv) (s : State) : State :=
  let d := aDomain e.raw
  let tier := aByte11 e.raw - 1
  let n := aWord e.raw
  let dm := getDom s d
  let g := lowestRun n (if tier = 1 then dm.hbmMap else dm.lpMap) 0
  match allocRegions s d [{ tier := tier, count := n, kind := .buffer, slot := none, mirrored := false }] with
  | .err c => e.done (quotaEvents s c) c 0
  | .ok s => e.done s sSuccess g

def allocPlan (_ raw : Nat) (s : State) : Plan :=
  { fields := [subopField, byteField 0x10 1, byteField 0x11 1, byteField 0x14 4],
    form := (aByte11 raw == 2 || aByte11 raw == 3) && aWord raw != 0,
    names := domName s raw }

/-- REGION_ALLOC (R207, R221). -/
def execRegionAlloc (o : DescOp) (s : State) : Res := decideRow 0x106 o allocPlan allocBuffer s

/-- REGION_RELEASE once its acceptance checks 2 to 9 have passed. -/
def releaseBuffer (e : DescEnv) (s : State) : State :=
  let d := aDomain e.raw
  let a := dfld e.raw 0x18 8
  match (getDom s d).regions.find? (fun r => taForm a && r.tier == taTier a && r.gidx == taGidx a && taOffs a == 0) with
  | none => e.done s sBadAddr 0
  | some r => if r.kind != .buffer || regionInUse s d r then e.done s sRegionBusy 0 else e.done (releaseRegion s d r) sSuccess 0

def releasePlan (_ raw : Nat) (s : State) : Plan :=
  { fields := [subopField, byteField 0x10 1, byteField 0x18 8], names := domName s raw }

/-- REGION_RELEASE (R224). -/
def execRegionRelease (o : DescOp) (s : State) : Res := decideRow 0x107 o releasePlan releaseBuffer s

/-! ### Partitions (R109, R112, R210, R386) -/

/-- The cluster of bit i of CLUSTERS. -/
def clusterOfBit (i : Nat) : Nat :=
  let q := i / 72
  let j := i % 72
  if j < 64 then 128 * q + j else 128 * q + 64 + 8 * ((j - 64) / 4) + j % 4

/-- The clusters of a map of 288 bits. -/
def clustersOf (m : Nat) : List Nat := ((List.range 288).filter (bit m)).map clusterOfBit

/-- Quadrants of a list of clusters. -/
def quadsOf (ks : List Nat) : List Nat := (List.range 4).filter (fun q => ks.any (fun k => k / 128 == q))

/-- A cluster map that a partition can take: not empty, no cluster of another partition, none of an unserved position. -/
def clustersOk (s : State) (p : Nat) (ks : List Nat) : Bool :=
  !ks.isEmpty && ks.all (fun k => !clusterUnserved s k && (match partOfCluster s k with | none => true | some o => o == p))

/-- Problem buffers of a partition on Slaths (R167, R210): one granule each; none where a Slath has no free one. -/
def takeBuffers (s : State) (p : Nat) (qs : List Nat) : Option State :=
  qs.foldl (fun (a : Option State) q => a.bind (fun s => (takeSlath (.problems p) 1 (getSlath s q)).map (setSlath s q))) (some s)
def dropBuffers (s : State) (p : Nat) (qs : List Nat) : State :=
  qs.foldl (fun s q => setSlath s q (releaseSlath (.problems p) (getSlath s q))) s

/-- A context of the partition is resident on some core. -/
def partOccupied (s : State) (p : Nat) : Bool :=
  (partCores (getPart s p)).any (fun k => (List.range 4).any (fun c => (getCtx (getCore s k) c).resident))

/-- A partition that PART_RESIZE and PART_REMOVE may not change: a context is resident or being loaded, or a RUN or a drain is
in progress. -/
def partBusy (s : State) (p : Nat) : Bool :=
  partOccupied s p || !(getPart s p).loads.isEmpty || partRunning s p || (getPart s p).drain != .idle

/-- A partition mode's code. -/
def modeOf (c : Nat) : PartMode := if c = 0 then .pinned else if c = 1 then .switching else .folded

/-- A partition takes its clusters: its cores have no fold table and no current context (R113). -/
def placePart (s : State) (p : Nat) (x : PartSt) : State :=
  mapCores (setPart s p x) p (fun _ co => { co with fold := [], foldPos := 0, cur := none })

/-- PART_CREATE once its acceptance checks 2 to 9 have passed. -/
def createPart (e : DescEnv) (s : State) : State :=
  let p := dTarget e.raw
  let ks := clustersOf (dfld e.raw 0x18 36)
  if partExists s p || !clustersOk s p ks then e.done s sBadField 0
  else match takeBuffers s p (quadsOf ks) with
    | none => e.done (quotaEvents s sTierFull) sTierFull 0
    | some s => e.done (placePart s p { clusters := ks, mode := modeOf (aByte11 e.raw) }) sSuccess 0

def partPlan (_ raw : Nat) (_ : State) : Plan :=
  { fields := [partField, subopField, byteField 0x11 1, byteField 0x18 36], form := decide (aByte11 raw ≤ 2) }

/-- PART_CREATE (R109, R210). -/
def execPartCreate (o : DescOp) (s : State) : Res := decideRow 0x108 o partPlan createPart s

/-- PART_RESIZE once its acceptance checks 2 to 9 have passed. -/
def resizePart (e : DescEnv) (s : State) : State :=
  let p := dTarget e.raw
  let pt := getPart s p
  let ks := clustersOf (dfld e.raw 0x18 36)
  let old := quadsOf pt.clusters
  let new := quadsOf ks
  if partBusy s p then e.done s sPartBusy 0
  else if !clustersOk s p ks then e.done s sBadField 0
  else match takeBuffers s p (new.filter (fun q => !old.contains q)) with
    | none => e.done (quotaEvents s sTierFull) sTierFull 0
    | some s =>
      let s := dropBuffers s p (old.filter (fun q => !new.contains q))
      e.done (placePart s p { clusters := ks, mode := pt.mode }) sSuccess 0

def resizePlan (_ raw : Nat) (s : State) : Plan :=
  { fields := [partField, subopField, byteField 0x18 36], names := partName s raw }

/-- PART_RESIZE (R109). -/
def execPartResize (o : DescOp) (s : State) : Res := decideRow 0x109 o resizePlan resizePart s

/-- PART_REMOVE once its acceptance checks 2 to 9 have passed. -/
def removePart (e : DescEnv) (s : State) : State :=
  let p := dTarget e.raw
  if partBusy s p || s.slots.any (fun x => x.2.present && x.2.part == p) then e.done s sPartBusy 0
  else e.done (setPart (dropBuffers s p (quadsOf (getPart s p).clusters)) p {}) sSuccess 0

def removePlan (_ raw : Nat) (s : State) : Plan := { fields := [partField, subopField], names := partName s raw }

/-- PART_REMOVE (R109). -/
def execPartRemove (o : DescOp) (s : State) : Res := decideRow 0x10A o removePlan removePart s

def modePlan (_ raw : Nat) (s : State) : Plan :=
  { fields := [partField, subopField, byteField 0x11 1], form := decide (aByte11 raw ≤ 2), names := partName s raw }

/-- PART_MODE once its acceptance checks 2 to 9 have passed. -/
def setMode (e : DescEnv) (s : State) : State :=
  let p := dTarget e.raw
  if partRunning s p then e.done s sPartBusy 0
  else e.done (setPart s p { getPart s p with mode := modeOf (aByte11 e.raw) }) sSuccess 0

/-- PART_MODE (R112). -/
def execPartMode (o : DescOp) (s : State) : Res := decideRow 0x10B o modePlan setMode s

/-- The banks of a pattern store of n banks (R210): the lowest-numbered that hold no staging and no problem buffer, those it
has among them; none where there are too few. -/
def storeBanks (x : SlathSt) (n : Nat) : Option (List Nat) :=
  if n ≤ x.psBanks.length then some (x.psBanks.take n)
  else
    let free := (List.range 96).filter (fun b => !x.psBanks.contains b && x.use.all (fun g => g.1 / 8 != b))
    let more := free.take (n - x.psBanks.length)
    if x.psBanks.length + more.length < n then none
    else some ((List.range 96).filter (fun b => x.psBanks.contains b || more.contains b))

def storePlan (_ raw : Nat) (_ : State) : Plan :=
  { fields := [subopField, byteField 0x11 1, byteField 0x12 1], form := decide (aByte11 raw ≤ 3) && decide (aByte12 raw ≤ 16) }

/-- PS_SIZE once its acceptance checks 2 to 9 have passed. -/
def sizeStore (e : DescEnv) (s : State) : State :=
  let q := aByte11 e.raw
  let x := getSlath s q
  if x.psPages ≠ 0 then e.done s sRegionBusy 0
  else match storeBanks x (aByte12 e.raw) with
    | none => e.done (quotaEvents s sTierFull) sTierFull 0
    | some bs => e.done (setSlath s q { x with psBanks := bs }) sSuccess 0

/-- PS_SIZE (R210). -/
def execPsSize (o : DescOp) (s : State) : Res := decideRow 0x10C o storePlan sizeStore s

/-! ### Slots (R211, R212, R222, R224, R341) -/

/-- What a new slot takes of the shared cache: Slaths, pages of the pattern in each, staging granules by Slath. -/
structure SlotCache where
  quads   : List Nat
  pages   : Nat
  staging : List (Nat × Nat)
  deriving DecidableEq, Repr

def slotCache (s : State) (part length : Nat) (pat : Pattern) : SlotCache :=
  let qs := quadsOf (getPart s part).clusters
  { quads := qs, pages := ceilDiv length 65536, staging := qs.map (fun q => (q, nth 0 pat.staging q)) }

/-- Limits of the shared cache (R212, R221): pattern-store pages and staging granules. A full pattern store is refused with
QUOTA too. -/
def cacheQuota (s : State) (d : DomSt) (c : SlotCache) : Bool :=
  decide (d.usePages + c.pages * c.quads.length ≤ 32 * d.limPs)
    && c.quads.all (fun q => decide ((getSlath s q).psPages + c.pages ≤ psCapacity (getSlath s q)))
    && (let n := sumNat (c.staging.map (·.2)); n == 0 || decide (d.useSc + n ≤ d.limSc))

/-- Take the shared cache of a slot; none where a Slath has too few free granules. -/
def takeCache (s : State) (slot dom : Nat) (c : SlotCache) : Option State :=
  (c.staging.foldl (fun (a : Option State) q =>
      a.bind (fun s => (takeSlath (.staging slot) q.2 (getSlath s q.1)).map (setSlath s q.1))) (some s)).map (fun s =>
    let s := c.quads.foldl (fun s q => setSlath s q { getSlath s q with psPages := (getSlath s q).psPages + c.pages }) s
    let d := getDom s dom
    setDom s dom { d with usePages := d.usePages + c.pages * c.quads.length, useSc := d.useSc + sumNat (c.staging.map (·.2)) })

/-- Everything a new slot takes, as a whole (R221, R222): QUOTA first. -/
def allocSlot (s : State) (slot dom : Nat) (c : SlotCache) (rs : List RegionReq) : Ans :=
  if !cacheQuota s (getDom s dom) c then .err sQuota
  else match allocRegions s dom rs with
    | .err k => .err k
    | .ok s => match takeCache s slot dom c with
      | none => .err sTierFull
      | some s => .ok s

/-- A pattern image is refused when it is stored for its job record and for cores of unserved positions (R322, R386), after the
checks of its allocations (R286); what is rejected at load is found by LOAD_PATTERN (R131). -/
def storeRefusal (s : State) (slot : Nat) (pat : Pattern) : Option Nat :=
  if !jobOk s slot pat.job then some 0xFFFFFFFF
  else (pat.ctxs.flatten.find? (fun im => clusterUnserved s (coreCluster im.1))).map (·.1)

/-- A slot as SLOT_CREATE leaves it: commit policy at its defaults, layout number 0 (R195, R341). -/
def newSlot (dom part : Nat) (mirrored : Bool) (pat : Pattern) (c : SlotCache) : SlotSt :=
  { present := true, dom := dom, mirrored := mirrored, part := part, pattern := some pat, table := pat.table,
    homes := (List.range pat.table.length).map (fun i => (0, i)), sets := minsert [] 0 pat.table, owners := pat.owners,
    quads := c.quads, pages := c.pages }

/-- SLOT_CREATE once its acceptance checks 2 to 9 have passed. -/
def createSlot (pat : Pattern) (e : DescEnv) (s : State) : State :=
  let n := dTarget e.raw
  let d := aDomain e.raw
  let p := aByte12 e.raw
  let m := aByte11 e.raw == 1
  if (getSlot s n).present then e.done s sSlotExists 0
  else
    let c := slotCache s p (aWord e.raw) pat
    match allocSlot s n d c (paramRegions n 0 m false pat.table ++ stepRegions n pat) with
    | .err k => e.done (quotaEvents s k) k 0
    | .ok t => match storeRefusal s n pat with
      | some k => e.done s sBadPattern k
      | none => e.done (setSlot t n (newSlot d p m pat c)) sSuccess 0

def createPlan (_ raw : Nat) (s : State) : Plan :=
  { fields := [slotField, subopField, byteField 0x10 1, byteField 0x11 1, byteField 0x12 1, byteField 0x14 4, byteField 0x18 2, byteField 0x20 8],
    form := decide (aByte11 raw ≤ 1) && decide (aByte12 raw ≤ 63),
    names := if partExists s (aByte12 raw) then domName s raw else some sBadField,
    empty := aWord raw == 0,
    bufs := [{ idx := dBuf raw, acc := 1, off := dBufOff raw, bytes := aWord raw }] }

/-- SLOT_CREATE (R211, R212, R222): `pat` stands for the pattern image of LENGTH bytes in the buffer. -/
def execSlotCreate (o : DescOp) (pat : Pattern) (s : State) : Res := decideRow 0x104 o createPlan (createSlot pat) s

/-- A slot's regions, staging areas and pattern pages are released (R211, R224). -/
def releaseSlot (s : State) (n : Nat) : State :=
  let x := getSlot s n
  let s := releaseWhere s x.dom (fun r => r.slot == some n)
  let held (q : Nat) : Nat := ((getSlath s q).use.filter (fun g => g.2 == .staging n)).length
  let k := sumNat ((List.range 4).map held)
  let s := (List.range 4).foldl (fun s q =>
    let y := releaseSlath (.staging n) (getSlath s q)
    setSlath s q { y with psPages := y.psPages - (if x.quads.contains q then x.pages else 0) }) s
  let d := getDom s x.dom
  setSlot (setDom s x.dom { d with useSc := d.useSc - k, usePages := d.usePages - x.pages * x.quads.length }) n {}

/-- SLOT_REMOVE once its acceptance checks 2 to 9 have passed. -/
def removeSlot (e : DescEnv) (s : State) : State :=
  let n := dTarget e.raw
  let p := (getSlot s n).part
  if slotRunning s n || (getSlot s n).reshard.isSome || (getPart s p).loads.any (fun l => l.slot == n) then e.done s sSlotBusy 0
  else if slotCurrent s n then e.done s sPartBusy 0
  else tryLoads (e.done (releaseSlot (dropContexts s n).2 n) sSuccess 0) p

def removeSlotPlan (k raw : Nat) (s : State) : Plan := { fields := [slotField, subopField], names := slotName s k raw }

/-- SLOT_REMOVE (R224). -/
def execSlotRemove (o : DescOp) (s : State) : Res := decideRow 0x105 o removeSlotPlan removeSlot s

/-! ### Service mode (R266) -/

def servicePlan (_ _ : Nat) (_ : State) : Plan := { fields := [subopField] }

/-- SERVICE_ENTER: service mode for the package. -/
def execServiceEnter (o : DescOp) (s : State) : Res :=
  decideRow 0x10D o servicePlan (fun e s => e.done { s with service := true } sSuccess 0) s

/-- SERVICE_LEAVE. -/
def execServiceLeave (o : DescOp) (s : State) : Res :=
  decideRow 0x10E o servicePlan (fun e s => e.done { s with service := false } sSuccess 0) s

end Sys2Proof.Machine
end

