-- ==== Sys2Proof/Machine/CoreMem.lean ====
section
/-! DEFINITION. LDST and NOP instructions (R88, R93, R155, R159, R162). -/

namespace Sys2Proof.Machine

/-- NOP in the A half does nothing; in the B half it ends the bundle (R88). -/
def execCoreNop (core : BitVec 12) (bHalf : Bool) (s : State) : Res :=
  if bHalf then atCore s core.toNat (fun i => .next (setCore s core.toNat (endBundle i.core i.n i.ctx)))
  else atAHalf s core.toNat (fun i => .next (setCore s core.toNat { i.core with aDone := true }))

/-- The tile row and column that lane l of a register stands for, from row `row` on. -/
def laneElem (row l : Nat) : Nat × Nat := (row + l / 32, l % 32)

/-- LDST load (R93): lanes of VR take elements of the tile the descriptor stands on, identities where masked
(R159); lane 0's predicate bit decides; latency 3 ac. -/
def execLoadRegister (o : LdstOp) (s : State) : Res :=
  atCore s o.core.toNat (fun i =>
    let d := i.ctx.desc o.desc.toNat
    let t := tileCoord d (i.ctx.posOf o.desc.toNat) 0
    let co := { i.core with accessAc := i.core.accessAc + 1 }
    let x := i.ctx.useDesc co.par o.desc.toNat 1
    let vals := (List.range (coreLanes o.core.toNat)).map (fun l =>
      let e := laneElem o.row.toNat l
      (l, readElem i.core d t e.1 e.2, !elemValid i.core d t e.1 e.2))
    let co := if i.ctx.active o.pinv o.preg.toNat 0 then
        pushResult co { due := i.core.ac + 3, ctx := i.n, pred := false, reg := o.vr.toNat, vals := vals }
      else co
    coreRead s o.core.toNat (.next (setCore s o.core.toNat (endBundle co i.n x))))

/-- The lanes of a store written into the operand store (R93, R162). -/
def storeLanes (o : LdstOp) (x : Ctx) (d : Nat) (t : Nat × Nat) : List Nat → CoreSt → CoreSt
  | [], co => co
  | l :: ls, co =>
    let e := laneElem o.row.toNat l
    storeLanes o x d t ls
      (if x.active o.pinv o.preg.toNat l then writeElem co d t e.1 e.2 (x.lane o.vr.toNat l) else co)

/-- LDST store (R93, R162): writes exactly the lanes inside the tensor whose predicate bit is 1. -/
def execStoreRegister (o : LdstOp) (s : State) : Res :=
  atCore s o.core.toNat (fun i =>
    let d := i.ctx.desc o.desc.toNat
    let t := tileCoord d (i.ctx.posOf o.desc.toNat) 0
    let co := storeLanes o i.ctx d t (List.range (coreLanes o.core.toNat))
      { i.core with accessAc := i.core.accessAc + 1 }
    let x := i.ctx.useDesc co.par o.desc.toNat 1
    .next (setCore s o.core.toNat (endBundle co i.n x)))

end Sys2Proof.Machine
end

