-- ==== Sys2Proof/Machine/Engine.lean ====
section
/-! DEFINITION. The ENG instruction (R45 to R56, R71 to R74, Tables 03.3, 04.4 and 05.3). -/

namespace Sys2Proof.Machine

/-- Weight bank of block number b, its hi part, or its lo part where P > 1 (R47). -/
def bankOf (passes b : Nat) (lo : Bool) : Nat := if passes = 1 then b % 4 else 2 * (b % 2) + boolNat lo

/-- A weight bank loaded with one block: 32 columns of codes and their offsets (R46). -/
def loadBank (banks : SMap Nat) (key : Nat) (cols : List (List Nat × Int)) : SMap Nat :=
  (List.range 32).foldl (fun m j =>
    let col := nth ([], 0) cols j
    let m := (List.range 32).foldl (fun m r => mset 0 m (1056 * key + 32 * r + j) (nth 0 col.1 r)) m
    mset 0 m (1056 * key + 1024 + j) (toTwos 8 col.2)) banks

/-- An ENG form a loaded pattern can hold: engine present (R84), PASSES, GROUP and ACC_INIT valid (R52, R60,
R72), L8 or L16 operands as ACT and WGT with ZERO identity (R155, R160), the slot in the slot map (R72). -/
def engFormOk (i : Issue) (o : EngOp) : Bool :=
  let a := i.ctx.desc o.asrc.toNat
  let w := i.ctx.desc o.wsrc.toNat
  let logFmt (f : Fmt) : Bool := f == .l8 || f == .l16
  (!coreEven o.core.toNat || decide (o.eng.toNat < 2)) && o.passes != 0 && o.group != 3 && o.accInit != 3
    && logFmt (dFormat a) && logFmt (dFormat w) && dAxes a == 1 && dAxes w == 2 && dIdent a == 0 && dIdent w == 0
    && i.ctx.slotKind o.eng.toNat o.accSlot.toNat != 0 && mget 0 i.ctx.accPhys (16 * o.eng.toNat + o.accSlot.toNat) != 0
    && (!o.accOut || reEn (i.ctx.route o.odst.toNat))

/-- The coded activation vector of output row m in block b (R49). -/
def actVec (i : Issue) (o : EngOp) (b m : Nat) : OpVec :=
  let d := i.ctx.desc o.asrc.toNat
  let t := tileCoord d (i.ctx.posOf o.asrc.toNat) b
  feed (dFormat d == .l16) ((List.range 32).map (fun r => readElem i.core d t m r))

/-- The coded weight vector of column j in block b (R49). -/
def wgtVec (i : Issue) (o : EngOp) (b j : Nat) : OpVec :=
  let d := i.ctx.desc o.wsrc.toNat
  let t := tileCoord d (i.ctx.posOf o.wsrc.toNat) b
  feed (dFormat d == .l16) ((List.range 32).map (fun r => readElem i.core d t r j))

/-- Key of an accumulator element of a physical slot. -/
def accKey (e slot k : Nat) : Nat := 1024 * (16 * e + slot) + k

/-- The elements an ENG leaves in its slot, in order m·32 + j. -/
def engResult (i : Issue) (o : EngOp) (pair : Bool) (init : Nat → Accum) : List Accum :=
  let nb := o.kblk.toNat + 1
  let acts := (List.range 32).map (fun m => (List.range nb).map (fun b => actVec i o b m))
  let wgts := (List.range 32).map (fun j => (List.range nb).map (fun b => wgtVec i o b j))
  (List.range 1024).map (fun k =>
    tileElement (o.group.toNat + 2) o.passes.toNat pair (init k)
      (List.zip (nth [] acts (k / 32)) (nth [] wgts (k % 32))))

/-- A bank holds a block already, so that a tile reuses it without reloading (R47). -/
def bankHolds (banks : SMap Nat) (key : Nat) (cols : List (List Nat × Int)) : Bool :=
  (List.range 32).all (fun j =>
    let col := nth ([], 0) cols j
    mget 0 banks (1056 * key + 1024 + j) == toTwos 8 col.2
      && (List.range 32).all (fun r => mget 0 banks (1056 * key + 32 * r + j) == nth 0 col.1 r))

/-- The weight banks of an engine and what is known of its engine. -/
abbrev Banks := EngSt × SMap Nat

/-- A bank comes to hold a block. Where it does not hold it yet, one load of 32 ac brings it (R46), in the first ac in which
neither the weight port nor the bank is in use: a schedule that loads ahead as far as R47 lets it (DESIGN CHOICE, log entry
117). -/
def bringBlock (e bank : Nat) (cols : List (List Nat × Int)) (v : Banks) : Banks :=
  let b := mget {} v.1.banks bank
  if b.loaded ≠ 0 ∧ bankHolds v.2 (4 * e + bank) cols = true then v
  else
    let first := max (v.1.port + 1) (b.busy + 1)
    ({ v.1 with port := first + 31, banks := mset {} v.1.banks bank { b with loaded := first + 32 } },
      loadBank v.2 (4 * e + bank) cols)

/-- The banks of block number b, with the parts of the weights that they hold (R47). -/
def blockBanks (i : Issue) (o : EngOp) (b : Nat) : List (Nat × List (List Nat × Int)) :=
  let vs := (List.range 32).map (fun j => wgtVec i o b j)
  (bankOf o.passes.toNat b false, vs.map (fun v => (v.hi, v.off))) ::
    (if o.passes = 1 then [] else [(bankOf o.passes.toNat b true, vs.map (fun v => (v.lo, v.off)))])

/-- The banks of a block come to hold it. -/
def bringBlocks (i : Issue) (o : EngOp) (b : Nat) (v : Banks) : Banks :=
  (blockBanks i o b).foldl (fun v k => bringBlock o.eng.toNat k.1 k.2 v) v

/-- The banks of block 0 are loaded and not busy at an ac (R47, R56). -/
def banksReady (i : Issue) (o : EngOp) (g : EngSt) (t : Nat) : Bool :=
  (blockBanks i o 0).all (fun k => let b := mget {} g.banks k.1; decide (b.loaded ≤ t) && decide (b.busy < t || b.busy = 0))

/-- The three conditions of R56 under which a tile starts in the ac after the previous tile's last stream position. -/
def backToBack (i : Issue) (o : EngOp) (slot : Nat) (g : EngSt) : Bool :=
  g.passes == o.passes.toNat && g.group == o.group.toNat && banksReady i o g (g.stream + 1)
    && (g.slot != slot || o.accInit == 1)

/-- First stream ac of a tile operation issued at the core's ac, whose banks of block 0 are as `g` has them (R55, R56). -/
def engStart (i : Issue) (o : EngOp) (slot : Nat) (g : EngSt) : Nat :=
  max i.core.ac (if backToBack i o slot g then g.stream + 1 else if g.last = 0 then 0 else g.last + 1)

/-- The engine and the banks after a tile operation: block b of the weights in the banks of R47, each busy from the block's
first stream position to 31 ac after its last, and the times of the tile (R55, R56). -/
def engAfter (i : Issue) (o : EngOp) (slot : Nat) : Banks :=
  let p := o.passes.toNat
  let blocks := o.kblk.toNat + 1
  let v := bringBlocks i o 0 (mget {} i.core.engs o.eng.toNat, i.core.banks)
  let start := engStart i o slot v.1
  let v := (List.range blocks).foldl (fun v b =>
    let w := bringBlocks i o b v
    ({ w.1 with banks := (blockBanks i o b).foldl (fun m k =>
        mupd {} m k.1 (fun x => { x with busy := start + 32 * p * (b + 1) + 30 })) w.1.banks }, w.2)) v
  ({ v.1 with stream := start + p * 32 * blocks - 1, last := start + tileTime p blocks (treeLevels o.group.toNat) - 1,
              passes := p, group := o.group.toNat, slot := slot }, v.2)

/-- Whether a token carries the issuing context's tag. -/
def ownToken (i : Issue) (t : Token) : Bool := tokCtx t.hdr == i.n && tokGen t.hdr == i.ctx.gen

/-- The running value at the head of queue q: the RUNA tile and, for a pair, the RUNC tile behind it (R118). -/
def chainIn (i : Issue) (q : Nat) (pair : Bool) : Option (List Nat × List Nat) :=
  let qu := getQueue i.core q
  match qu.hw ++ qu.lane with
  | [] => none
  | a :: rest =>
    if !(ownToken i a && tokKind a.hdr == 1) then none
    else if !pair then some (a.tile.map (·.toNat), [])
    else match rest with
      | [] => none
      | c :: _ =>
        if ownToken i c && tokKind c.hdr == 2 then some (a.tile.map (·.toNat), c.tile.map (·.toNat)) else none

/-- The head token of queue q carries the current tag but not the KIND a CHAIN_IN expects (R118). Where it is a pair's second
token that has the wrong KIND, R118 does not say which of the two is discarded: the model discards the head, the RUNA token
(DESIGN CHOICE, log entry 118). -/
def chainBadHead (i : Issue) (q : Nat) (pair : Bool) : Bool :=
  let qu := getQueue i.core q
  match qu.hw ++ qu.lane with
  | [] => false
  | a :: rest =>
    ownToken i a && (tokKind a.hdr != 1 ||
      (pair && (match rest with | c :: _ => ownToken i c && tokKind c.hdr != 2 | [] => false)))

/-- ENG: an engine tile operation. With the predicate 0 it takes its time and writes no accumulator (R93). -/
def execEng (o : EngOp) (s : State) : Res :=
  atCore s o.core.toNat (fun i =>
    if !engFormOk i o then .refused .rejectedAtLoad
    else
      let c := o.core.toNat
      let e := o.eng.toNat
      let pair := i.ctx.slotKind e o.accSlot.toNat == 2
      let ph := mget 0 i.ctx.accPhys (16 * e + o.accSlot.toNat) - 1
      let pc := mget 0 i.ctx.accPhys (64 + 16 * e + o.accSlot.toNat) - 1
      let act := i.ctx.active o.pinv o.preg.toNat 0
      let chained := o.accInit == 2 && act
      if chained && chainBadHead i o.qin.toNat pair then
        .next (tokenMoved (setCore (coreSeqFault (seqError s c) c) c
          (tickCore (setQueue i.core o.qin.toNat (getQueue i.core o.qin.toNat).pop) 1)) c)
      else if chained && (chainIn i o.qin.toNat pair).isNone then
        .next (setCore s c (stopAt i.core (.chainWait o.qin.toNat)))
      else
        let a := i.ctx.desc o.asrc.toNat
        let w := i.ctx.desc o.wsrc.toNat
        let ta := tileCoord a (i.ctx.posOf o.asrc.toNat) 0
        let tw := tileCoord w (i.ctx.posOf o.wsrc.toNat) 0
        let rows := validRows a i.core.par ta
        let cols := validCols w i.core.par tw
        let run := (chainIn i o.qin.toNat pair).getD ([], [])
        let valid := mget false i.core.accValid (16 * e + ph)
        let cont := o.accInit == 1
        let init (k : Nat) : Accum :=
          if o.accInit = 2 then { a := nth 0 run.1 k, c := nth 0 run.2 k }
          else if cont && valid then
            { a := mget 0 i.core.acc (accKey e ph k), c := if pair then mget 0 i.core.acc (accKey e pc k) else 0 }
          else { a := 0 }
        let res := engResult i o pair init
        -- SAT events of the valid elements only (R161), of a queue operand those inside its token's masks too (R159)
        let sats := ((List.range 1024).map (fun k =>
          if k / 32 < readRows i.core a ta ∧ k % 32 < readCols i.core w tw then (nth { a := 0 } res k).sats else 0)).foldl (· + ·) 0
        let ev : Conv4 := { sat := if act then sats else 0 }
        let eng := engAfter i o ph
        let blocks := o.kblk.toNat + 1
        let x := (i.ctx.useDesc i.core.par o.asrc.toNat blocks).useDesc i.core.par o.wsrc.toNat blocks
        let x := { x with conv := x.conv.add ev }
        let co := { i.core with
          banks := eng.2,
          engs := mset {} i.core.engs e eng.1 }
        let co := if act then
            let acc := msetList 0 co.acc (accKey e ph 0) (res.map (·.a))
            let acc := if pair then msetList 0 acc (accKey e pc 0) (res.map (·.c)) else acc
            let valid := mset false co.accValid (16 * e + ph) true
            { co with acc := acc, accValid := if pair then mset false valid (16 * e + pc) true else valid }
          else co
        let co := if chained then
            let q1 := (getQueue co o.qin.toNat).pop
            setQueue co o.qin.toNat (if pair then q1.pop else q1)
          else co
        let r := o.odst.toNat
        let toks := if o.accOut && act then
            routeToken i c r 1 (rows - 1) (cols - 1) ta.1 tw.2 0 (res.map (·.a)) ::
              (if pair then [routeToken i c r 2 (rows - 1) (cols - 1) ta.1 tw.2 1 (res.map (·.c))] else [])
          else []
        let seq := mset 0 x.sendSeq r ((mget 0 x.sendSeq r + toks.length) % 32)
        let x := if toks.isEmpty then x else { x with sendSeq := seq }
        let s := raiseConv (setCore s c (endBundle co i.n x)) c ev
        .next (emitTokens c r x (if chained then tokenMoved s c else s) toks))

end Sys2Proof.Machine
end

