-- ==== Sys2Proof/Machine/Links.lean ====
section
/-! DEFINITION. Wale links: bring-up, blocks, resend, retrain, loss and the torus registers (R302 to R318). -/

namespace Sys2Proof.Machine

/-- Refused where a port number is not 0 to 5. -/
def atLink (s : State) (port : PortNo) (k : Nat → LinkSt → Res) : Res :=
  if port.toNat < 6 then k port.toNat (getLink s port.toNat) else .refused .noSuchUnit

/-- Groups in service of a half: those without a retired lane (R312). -/
def groupsOf (retired : Nat) : Nat :=
  sumNat ((List.range 4).map (fun g => if retired / 2 ^ (8 * g) % 256 = 0 then 2 ^ g else 0))

/-- A write of LINK_CTL by a function: it takes effect only from a PF with an OPERATOR, TEST or SERVICE session (R432). -/
def linkWrite (f : FnAddr) (s : State) (port : PortNo) (k : Nat → LinkSt → Res) : Res :=
  fnWrite f s (fun n => atLink s port (fun p x => if operatorSession s n then k p x else .next s))

/-- Bits of PERT_FLAGS (Table 18.14). -/
def pfCfgErr : Nat := 0
def pfBistFail : Nat := 1

def raisePert (s : State) (b : Nat) : State := { s with pert := { s.pert with flags := raise s.fc s.pert.flags b } }

/-- EN = 1 on a port that is disabled (R302 to R304). A port in loopback refuses it (R424); a port of a fenced port die is
lost at once. -/
def enableLink (s : State) (p : Nat) (x : LinkSt) : State :=
  if s.pert.lpEn && s.pert.lpPort == p then raisePert s pfCfgErr
  else if axisLen s (portAxis p) = 1 then setLink s p { x with en := true }
  else if isFenced s (linkDie p) then raiseLink (setLink s p { x with en := true, state := .lost }) p lfPortLost
  else if !coordOk s s.torus.coord then raiseLink (setLink s p { x with en := true, state := .mismatch }) p lfCableErr
  else setLink s p { x with en := true, state := .training, accepted := false, measured := false, echo := none, chdly := 0 }

/-- LINK_ENABLE (R302 to R304): LINK_CTL is written with EN = 1 and RETRAIN = 0. -/
def execLinkEnable (f : FnAddr) (port : PortNo) (s : State) : Res :=
  linkWrite f s port (fun p x => .next (if x.en then s else enableLink s p x))

/-- EN = 0 (R304): an UP or retraining port loses its link, with BREAK on the link itself and round the ring; a port in
any other state goes DOWN without a flag. -/
def disableLink (s : State) (p : Nat) (x : LinkSt) : State :=
  if x.state = .up ∨ x.state = .retrain then
    let ring := axisMode s (portAxis p) == .ring
    let s := sendBreak s p (breakCoord s p)
    let s := announceBreak (raiseLink (dropUnacked s p) p lfPortLost) p
    let s := updLink s p (fun x => { x with en := false, state := .down, accepted := false })
    linkFault (drainAll s) p ring
  else updLink (dropUnacked s p) p (fun x => { x with en := false, state := .down, accepted := false })

/-- LINK_DISABLE (R304): LINK_CTL is written with EN = 0. -/
def execLinkDisable (f : FnAddr) (port : PortNo) (s : State) : Res :=
  linkWrite f s port (fun p x => .next (disableLink s p x))

/-- The link of a port is lost: its routing goes on round the ring, and the fault manager recovers (R314, R316). -/
def linkLoss (s : State) (p : Nat) : State :=
  let ring := axisMode s (portAxis p) == .ring
  linkFault (drainAll (loseLink s p)) p ring

/-- Record the lanes that fail a lane test of the two halves and take their groups out of service. -/
def retireLanes (x : LinkSt) (txBad rxBad : Nat) : LinkSt :=
  let tx := x.txRetired ||| txBad
  let rx := x.rxRetired ||| rxBad
  { x with txRetired := tx, rxRetired := rx, txGroups := groupsOf tx, rxGroups := groupsOf rx, txBytes := 0 }

/-- TRAINING_DONE (R304): the groups that pass form each half's width; a port with no group in service is lost. -/
def execTrainingDone (port : PortNo) (txBad rxBad : Word) (s : State) : Res :=
  atLink s port (fun p x =>
    if x.state ≠ .training then .next s
    else
      let x := retireLanes x txBad.toNat rxBad.toNat
      if x.txGroups = 0 ∨ x.rxGroups = 0 then .next (raiseLink (setLink s p { x with state := .lost }) p lfPortLost)
      else .next (sendHello (setLink s p { x with state := .hello, txNext := 0, rxNext := 0, waiting := false, nakDue := false }) p))

/-- Whether a HELLO comes from the neighbour R302 requires, from the opposite port, with equal lengths (R304). -/
def partnerOk (s : State) (p : Nat) (m : LinkMsg) : Bool :=
  m.coord.toNat % 2 ^ 15 == neighbour s p && m.port.toNat == portAxis p + 4 * boolNat (!portNeg p)
    && m.lens.toNat == s.torus.len && coordOk s s.torus.coord

/-- LINK_PARTNER (Table 13.10) from a message. -/
def partnerWord (m : LinkMsg) : Nat :=
  m.port.toNat % 4 * 2 ^ 17 + m.port.toNat / 4 * 2 ^ 16 + m.coord.toNat % 2 ^ 15

/-- A port goes UP: both halves start at sequence number 0. -/
def goUp (x : LinkSt) : LinkSt :=
  { x with state := .up, txNext := 0, rxNext := 0, unacked := [], waiting := false, nakDue := false, attempts := 0, nakSeq := none, paused := false, badLanes := 0 }

/-- The partner check of a HELLO or HELLO_ECHO: a port whose check fails raises CABLE_ERR as it enters MISMATCH (R304). -/
def checkPartner (s : State) (p : Nat) (m : LinkMsg) : State :=
  let x := getLink s p
  let y := { x with partner := partnerWord m, accepted := partnerOk s p m }
  if y.accepted then setLink s p y
  else
    let s := setLink s p { y with state := .mismatch }
    if x.state = .mismatch ∧ x.accepted = false then s else raiseLink s p lfCableErr

/-- After the partner's check: the port goes UP where it accepts its partner, the partner reports MATCH = 1 and the exchange has
given the channel excess; where the partner reports MATCH = 0 it is in MISMATCH (R304). -/
def settlePartner (m : LinkMsg) (x : LinkSt) : LinkSt :=
  if !x.accepted then x
  else if !m.mtch then { x with state := .mismatch }
  else if x.measured then goUp x else x

/-- After an exchange: where the link has come up, every expected PSEQ is 0 (R326). -/
def freshPseq (s : State) (p : Nat) : State :=
  if (getLink s p).state = .up then
    (s.slots.map (·.1)).foldl (fun s n => updSlot s n (fun x => { x with coll := { x.coll with pseqIn := [] } })) s
  else s

/-- HELLO and MISMATCH: the states of the exchange. -/
def greeting (x : LinkSt) : Bool := x.state == .hello || x.state == .mismatch

/-- A HELLO arrives: the partner is checked, and answered with HELLO_ECHO; a port that is UP answers too, since its partner
may have missed an answer. -/
def helloIn (s : State) (p : Nat) (m : LinkMsg) : State :=
  let x := getLink s p
  if greeting x then
    freshPseq (updLink (sendEcho (checkPartner (setLink s p { x with echo := some m.fc }) p m) p) p (settlePartner m)) p
  else if x.state == .up || x.state == .retrain then sendEcho (setLink s p { x with echo := some m.fc }) p
  else s

/-- HELLO (R304). -/
def execHello (port : PortNo) (m : LinkMsg) (s : State) : Res := atLink s port (fun p _ => .next (helloIn s p m))

/-- HELLO_ECHO (R304): the channel excess and the partner's MATCH; an excess above 114 fc loses the port. -/
def execHelloEcho (port : PortNo) (m : LinkMsg) (excess : Nat) (s : State) : Res :=
  atLink s port (fun p x =>
    if !greeting x then .next s
    else if 114 < excess then .next (raiseLink (setLink s p { x with state := .lost, chdly := min excess 255 }) p lfPortLost)
    else .next (freshPseq (updLink (checkPartner (setLink s p { x with chdly := excess, measured := true }) p m) p (settlePartner m)) p))

/-- HELLO_TIMER (R304): HELLO is sent again, and HELLO_ECHO to a partner that has sent a HELLO. -/
def execHelloTimer (port : PortNo) (s : State) : Res :=
  atLink s port (fun p x => .next (
    if greeting x then (if x.echo.isSome then sendEcho (sendHello s p) p else sendHello s p) else s))

/-- An ACK or NAK for this port's transmit half (R308, R310, R311). One whose ASEQ lies outside the unacknowledged window, and a
NAK for a number not yet assigned, are ignored. -/
def takeAck (s : State) (p : Nat) (ack : Word) : State :=
  let x := getLink s p
  let kind := bits ack.toNat 31 30
  let aseq := bits ack.toNat 28 0
  let s := setLink s p { x with paused := bit ack.toNat 29 }
  let base := match x.unacked with | b :: _ => b.1 | [] => x.txNext
  let k := (aseq + 2 ^ 29 - base % 2 ^ 29) % 2 ^ 29
  if (kind ≠ 1 ∧ kind ≠ 2) ∨ x.unacked.length < k ∨ (kind = 2 ∧ x.unacked.length = k) then s
  else
    let done := x.unacked.take k
    let rest := x.unacked.drop k
    let covered := match x.nakSeq with | some q => done.any (fun b => b.1 == q) | none => false
    let s := updLink s p (fun x => { x with unacked := rest })
    let s := if covered then
        faultTransient (raiseLink (updLink s p (fun x => { x with nakSeq := none, transient := satAdd32 x.transient 1 })) p lfTransient)
      else s
    if kind = 2 then
      match rest with
      | [] => s
      | b :: _ => resendFrom (updLink s p (fun x => { x with nakSeq := some b.1 })) p rest
    else s

/-- A retrain starts at this end (R312). -/
def startRetrain (s : State) (p : Nat) (lasting send : Bool) : State :=
  let s := if send then sendLink s p subRetrain (linkMsg s p subRetrain lasting 0 0) else s
  updLink s p (fun x => { x with state := .retrain, retrain := satAdd32 x.retrain 1 })

/-- A failed block at a receiving half (R309, R311): it is counted and a NAK asks for the expected block; while the half waits for
that block every other failed block is discarded uncounted, and a failure of its second attempt is lasting and starts a retrain. -/
def failedBlock (s : State) (p : Nat) (second : Bool) (badLanes : Word) : State :=
  let x := getLink s p
  if !x.waiting then setLink s p { x with crcFail := satAdd32 x.crcFail 1, attempts := 1, waiting := true, nakDue := true }
  else if second then startRetrain (setLink s p { x with attempts := 2, badLanes := badLanes.toNat }) p true true
  else s

/-- Whether a block is of a sequenced TYPE: DATA or CTRL (R306). -/
def sequenced (h : DWord) : Bool := bType h == 1 || bType h == 2

/-- BREAK (R304, R316, R317): on the link itself it is the loss of this link; otherwise the axis's mode changes and
BREAK goes on round the ring. -/
def breakIn (s : State) (p : Nat) (m : LinkMsg) : State :=
  let a := m.port.toNat % 4
  let own := a == portAxis p && m.brk.toNat % 2 ^ 15 == breakCoord s p
  let x := getLink s p
  if own && (x.state == .up || x.state == .retrain) then linkLoss s p
  else
    let q := portOf (portAxis p) (!portNeg p)
    let s := ringBreak s a m.brk.toNat
    drainAll (sendBreak s q m.brk.toNat)

/-- RETRAIN arrives (R311, R312): an UP port retrains, a port already in RETRAIN goes on with the retrain it counted; with LASTING = 1 the
sender counts the lasting failure in either state. -/
def retrainIn (s : State) (p : Nat) (m : LinkMsg) : State :=
  let x := getLink s p
  if x.state = .up ∨ x.state = .retrain then
    let s := if x.state = .up then startRetrain s p m.lasting false else s
    let s := updLink s p (fun x => { x with nakSeq := none })
    if m.lasting then raiseLink (updLink s p (fun x => { x with lasting := satAdd32 x.lasting 1 })) p lfLasting else s
  else s

/-- A LINK block is consumed: its SUB says what it does (Table 13.6). -/
def linkIn (s : State) (p : Nat) (b : Block) : State :=
  let m := linkParse b.payload
  let sub := linkSub b.payload
  if sub = subHello then helloIn s p m
  else if sub = subRetrain then retrainIn s p m
  else if sub = subBreak then breakIn s p m
  else s

/-- A block that an UP half accepts (R309): its acknowledgement is taken, a sequenced block is held to be handed on, and any other
is consumed. -/
def acceptBlock (s : State) (p : Nat) (b : Block) : State :=
  let s := takeAck s p b.ack
  if sequenced b.hdr then
    let s := updLink s p (fun x => { x with rxNext := (x.rxNext + 1) % 2 ^ 32, waiting := false, nakDue := false, attempts := 0 })
    drainAll (recordAck { s with torus := { s.torus with transit := s.torus.transit ++ [(p, b)] } } p)
  else drainAll (if bType b.hdr = tyLink then linkIn s p b else s)

/-- BLOCK_RECEIVE (R309 to R311, R314): a block that checks is accepted, any other fails. -/
def execBlockReceive (port : PortNo) (a : Arrival) (fecCorr fecUncorr : Nat) (badLanes : Word) (s : State) : Res :=
  atLink s port (fun p x =>
    if x.state ≠ .up then .next s
    else
      let t := setLink s p { x with fecCorr := satAdd64 x.fecCorr fecCorr, fecUncorr := satAdd32 x.fecUncorr fecUncorr }
      let b := a.block
      let good := fecUncorr == 0 && decide (bType b.hdr ≤ 4) && blockCrc x.rxNext s.torus.coord p b == b.crc.toNat
      .next (fillGaps s (if good then acceptBlock t p b else recordAck (failedBlock t p a.second badLanes) p)))

/-- RESEND_TIMEOUT (R310): the sender resends from its oldest unacknowledged block. -/
def execResendTimeout (port : PortNo) (s : State) : Res :=
  atLink s port (fun p x => .next (if x.state = .up then resendFrom s p x.unacked else s))

/-- RETRAIN_RECEIVED (R312). -/
def execRetrainReceived (port : PortNo) (m : LinkMsg) (s : State) : Res :=
  atLink s port (fun p _ => .next (retrainIn s p m))

/-- RETRAIN (R312): LINK_CTL is written with EN as it stands and RETRAIN = 1; no effect on a port that is not UP. -/
def execRetrain (f : FnAddr) (port : PortNo) (s : State) : Res :=
  linkWrite f s port (fun p x => .next (if x.state = .up then startRetrain s p false true else s))

/-- LANE_TEST_END (R312): lanes are retired, which is a fault of class LANE; the halves resume with their sequence numbers, or the link is lost: no
group in service, or the third retrain within 1 s that retires no lane. -/
def execLaneTestEnd (port : PortNo) (txBad rxBad : Word) (s : State) : Res :=
  atLink s port (fun p x =>
    if x.state ≠ .retrain then .next s
    else
      let y := retireLanes x txBad.toNat (rxBad.toNat ||| x.badLanes)
      let none_ := decide (y.txRetired = x.txRetired) && decide (y.rxRetired = x.rxRetired)
      let idle := if none_ then (x.idle ++ [s.fc]).filter (fun t => decide (s.fc < t + 1200000000)) else x.idle
      let y := { y with idle := idle, badLanes := 0, attempts := 0, waiting := false, nakDue := false }
      if y.txGroups = 0 ∨ y.rxGroups = 0 ∨ (none_ = true ∧ 3 ≤ idle.length) then .next (linkLoss (setLink s p y) p)
      else
        let s := recordAck (setLink s p { y with state := .up }) p
        let s := if none_ then s else recordFault s fcLane dtWale sFaultCovered (linkDie p)
        let s := sendHello s p
        .next (drainAll (if y.unacked.isEmpty then s else resendFrom s p y.unacked)))

/-- BREAK (R316). -/
def execBreakBlock (port : PortNo) (m : LinkMsg) (s : State) : Res :=
  atLink s port (fun p _ => .next (breakIn s p m))

/-- A write of LINK_CTL: both fields of the word (Table 13.8). -/
def writeLinkCtl (s : State) (k p v : Nat) : State :=
  if !operatorSession s k then s
  else
    let x := getLink s p
    let s := if !bit v 31 then disableLink s p x else if x.en then s else enableLink s p x
    if bit v 30 && (getLink s p).state == .up then startRetrain s p false true else s

/-- A write of TORUS_COORD or TORUS_LEN takes effect (R303). -/
def writeTorus (s : State) (k : Nat) (g : TorusSt → TorusSt) : State :=
  if !fnIsPf k then s
  else if (List.range 6).all (fun p => !(getLink s p).en && (getLink s p).state == .down) && operatorSession s k then
    { s with torus := g s.torus }
  else raiseTorus s xfCfgErr

/-- TORUS_COORD and TORUS_LEN as written. -/
def writeCoord (s : State) (k v : Nat) : State := writeTorus s k (fun t => { t with coord := v % 2 ^ 15 })
def writeLen (s : State) (k v : Nat) : State := writeTorus s k (fun t => { t with len := v % 2 ^ 15 })

/-- TORUS_COORD (R303). -/
def execTorusCoord (f : FnAddr) (value : Word) (s : State) : Res :=
  fnWrite f s (fun k => .next (writeCoord s k value.toNat))

/-- TORUS_LEN (R303). -/
def execTorusLen (f : FnAddr) (value : Word) (s : State) : Res :=
  fnWrite f s (fun k => .next (writeLen s k value.toNat))

end Sys2Proof.Machine
end

