-- ==== Sys2Proof/Machine/Mgmt.lean ====
section
/-! DEFINITION. Management over the BMC interface and the HANDLE mailbox (R404 to R408, R413). -/

namespace Sys2Proof.Machine

/-- The management target answers: boot stage 2 has ended and a die is active (R405). -/
def mgmtUp (s : State) : Bool := decide (3 ≤ s.handle.stage) && handleUp s

/-- Answer a management command. -/
def mgmtReply (s : State) (result : Nat) (data : List Byte) : State := { s with out := s.out ++ [.mgmt result data] }

/-- Answer an SPDM or PLDM request. -/
def bmcReply (s : State) (ok : Bool) : State := { s with out := s.out ++ [.bmc ok] }

/-- A secured session is open. -/
def secured (s : State) : Bool := s.handle.spdm.any (·.secured)

/-- A management session is open (R405). -/
def mgmtOpen (s : State) : Bool := s.handle.spdm.any (fun p => p.secured && p.auth)

/-- Change the secured session. -/
def updSpdm (s : State) (f : SpdmSt → SpdmSt) : State := updHandle s (fun h => { h with spdm := h.spdm.map f })

/-- A command served in a secured session, before or after MG_AUTH. -/
def inSecured (s : State) (k : State → State) : Res :=
  if !mgmtUp s then .next s
  else if !secured s then .next (mgmtReply s sNoSession [])
  else .next (k s)

/-- A command served in a management session alone. -/
def inMgmt (s : State) (k : State → State) : Res :=
  if !mgmtUp s then .next s
  else if !mgmtOpen s then .next (mgmtReply s sNoSession [])
  else .next (k s)

/-! ### Secured sessions (R405) -/

/-- KEY_EXCHANGE (R405): a new secured session begins; it fails with Busy while a management session is open. -/
def execKeyExchange (reqId : BitVec 16) (s : State) : Res :=
  if !mgmtUp s then .next s
  else if mgmtOpen s then .next (bmcReply s false)
  else
    let d := drawBytes s 2
    let sid := reqId.toNat + 2 ^ 16 * ofBytesLE d.1
    .next (bmcReply (updHandle d.2 (fun h => { h with spdm := some { sid := sid } })) true)

/-- FINISH (R405): the session is secured where the requester's verification holds. -/
def execFinish (valid : Bool) (s : State) : Res :=
  if !mgmtUp s then .next s
  else if valid && s.handle.spdm.any (fun p => !p.secured) then .next (bmcReply (updSpdm s (fun p => { p with secured := true })) true)
  else .next (bmcReply s false)

/-- END_SESSION (R405): the secured session ends, and the management session with it. -/
def execEndSession (s : State) : Res :=
  if !mgmtUp s then .next s
  else .next (bmcReply (updHandle s (fun h => { h with spdm := none })) s.handle.spdm.isSome)

/-- SET_ENDPOINT_ID (R394): the MCTP bus owner assigns the endpoint ID. -/
def execSetEndpointId (eid : Byte) (s : State) : Res :=
  if !mgmtUp s then .next s else .next (bmcReply (updHandle s (fun h => { h with eid := eid.toNat })) true)

/-- SET_CERTIFICATE (R408): the owner installs a chain in slot 1 inside a management session. -/
def execSetCertificate (chain : List Byte) (s : State) : Res :=
  if !mgmtUp s then .next s
  else if mgmtOpen s then .next (bmcReply (updHandle s (fun h => { h with cert := chain })) true)
  else .next (bmcReply s false)

/-- MG_CHALLENGE (R405): a fresh nonce takes the place of the one held. -/
def execMgChallenge (s : State) : Res :=
  inSecured s (fun s =>
    let d := drawBytes s 32
    mgmtReply (updSpdm d.2 (fun p => { p with nonce := some d.1 })) sSuccess d.1)

/-- MG_AUTH (R405): HMAC keyed by MKEY over 0x03, the session ID and the nonce. The nonce is consumed whatever the
outcome; while MKEY is locked out nothing is evaluated; a wrong HMAC ends the secured session and counts towards the lock-out. -/
def mgAuth (s : State) (p : SpdmSt) (mac : List Byte) : State :=
  let l := getLock s lockMkey
  if s.handle.mkey.isSome && l.locked then mgmtReply (updSpdm s (fun p => { p with nonce := none })) sAuthLocked []
  else match p.nonce with
  | none => mgmtReply s sAuthExpired []
  | some n =>
    let s := updSpdm s (fun p => { p with nonce := none })
    match s.handle.mkey with
    | none => mgmtReply (logEvent s lgAuth sAuthFail 0xFF 0 []) sAuthFail []
    | some k =>
      if hmac k ([0x03] ++ bytesLE 4 p.sid ++ n) = mac then
        mgmtReply (updSpdm (setLock s lockMkey (passLock l)) (fun p => { p with auth := true })) sSuccess []
      else
        let s := logEvent (setLock s lockMkey (failLock l)) lgAuth sAuthFail 0xFF 1 []
        mgmtReply (updHandle s (fun h => { h with spdm := none })) sAuthFail []

/-- MG_AUTH (R405). -/
def execMgAuth (mac : BitVec 256) (s : State) : Res :=
  inSecured s (fun s => match s.handle.spdm with
    | none => s
    | some p => mgAuth s p (bytesLE 32 mac.toNat))

/-- A change of the key store (R407) makes an event-log entry of SRC provisioning (Table 17.5; log entry 82). -/
def logKeyStore (s : State) (args : List Byte) : State := logEvent s lgProvision 0 0xFF 0 args

/-- MG_OWN (R406): sets MKEY where MGMT_OWN_N was low at the last cold reset; on an owned device it erases the key
entries, the verifier and the owner certificate, and closes every host session. -/
def execMgOwn (mkey : BitVec 256) (s : State) : Res :=
  inSecured s (fun s =>
    if s.handle.ownN then mgmtReply s sRoleDenied []
    else
      let owned := s.handle.mkey.isSome
      let s := if owned then
          closeWhere (updHandle s (fun h => { h with keys := [], verifier := none, cert := [] })) (fun _ => true) (fun c => c.op == mbProve || c.op == mbPassword)
        else s
      mgmtReply (logKeyStore (updHandle s (fun h => { h with mkey := some (bytesLE 32 mkey.toNat) })) []) sSuccess [])

/-! ### Attestation (R409) -/

/-- The one SPDM version that the responder supports, 1.2, as the protocol codes it. -/
def spdmVersion : Nat := 0x12

/-- Algorithms and capabilities of SPDM by name. -/
inductive SpdmAlg where
  | sha256 | rsaPss3072 | secp384r1 | aes256Gcm
  deriving DecidableEq, Repr

inductive SpdmCap where
  | cert | chal | measSigned | keyEx | encrypt | mac
  deriving DecidableEq, Repr

/-- Base hash, signature algorithm, DHE group and AEAD; the capabilities offered. -/
def spdmAlgs : List SpdmAlg := [.sha256, .rsaPss3072, .secp384r1, .aes256Gcm]
def spdmCaps : List SpdmCap := [.cert, .chal, .measSigned, .keyEx, .encrypt, .mac]

/-- The numbers that identify an image. -/
def imageNums (i : ImageSt) : List Nat := [i.version, i.svn, i.stateMin, i.stateVer]

/-- The numbers of a board record. -/
def boardNums : Option BoardRec → List Nat
  | none => []
  | some r => r.limit :: r.currents.length :: (r.currents ++ r.stages.flatMap (fun t => [t.1, t.2]))

/-- A measurement (Table 17.8) as a SHA-256 digest, 32 bytes; none for an index that the table does not list. The fields of key
entries and the words of registers are hashed little-endian in rising order (DESIGN CHOICE, log entry 138). -/
def measurement (s : State) (i : Nat) : Option (List Byte) :=
  let h := s.handle
  let free (c : List Nat) : Option (List Byte) := some (bytesLE 32 (Config.measured i c).toNat)
  match i with
  | 1 => free []
  | 2 => free (match activeDie s with | some d => imageNums (runningImage s d) | none => [])
  | 3 => match h.measStandby with
    | none => some (List.replicate 32 0)
    | some m => some (bytesLE 32 (Config.measured 2 (imageNums m)).toNat)
  | 4 => free [(h.latch.map (fun d => (getDie s d).minSvn)).getD 0]
  | 5 => some (sha256 (bytesLE 4 0x00983800 ++ bytesLE 4 0x00D74B50))
  | 6 => free (boardNums h.board)
  | 7 => some (sha256 (h.keys.flatMap (fun p => bytesLE 2 p.1 ++ bytesLE 1 p.2.role ++ bytesLE 1 p.2.domain)))
  | 8 => some (sha256 (h.measSites.flatMap (bytesLE 4)))
  | _ => none

/-! ### Provisioning (R266, R403, R406, R407) -/

/-- Sessions of a key entry close, once a PROVE in progress on it has ended (R407). -/
def closeKey (s : State) (id : Nat) : State :=
  closeWhere s (fun f => f.role != 4 && f.keyId == id) (fun c => c.op == mbProve && keyNo c.key == id)

/-- KEY_SET (R406, R407): writes a key entry; sessions of an entry it replaces close. -/
def execKeySet (keyId : BitVec 16) (role domain : Byte) (key : BitVec 256) (s : State) : Res :=
  inMgmt s (fun s =>
    let id := keyId.toNat
    if 1023 < id then mgmtReply s sBadField []
    else if role.toNat = 0 ∨ 3 < role.toNat then mgmtReply s sBadRole []
    else
      let s := if mhas s.handle.keys id then closeKey s id else s
      let e : KeyEntry := { role := role.toNat, domain := domain.toNat, key := bytesLE 32 key.toNat }
      mgmtReply (logKeyStore (updHandle s (fun h => { h with keys := mset {} h.keys id e })) (bytesLE 2 id)) sSuccess [])

/-- KEY_CLEAR (R406, R407). -/
def execKeyClear (keyId : BitVec 16) (s : State) : Res :=
  inMgmt s (fun s =>
    let id := keyId.toNat
    if 1023 < id then mgmtReply s sBadField []
    else if !mhas s.handle.keys id then mgmtReply s sSuccess []
    else mgmtReply (logKeyStore (closeKey (updHandle s (fun h => { h with keys := merase h.keys id })) id) (bytesLE 2 id)) sSuccess [])

/-- PW_SET (R406, R407): a verifier over a fresh 32-byte salt; an open SERVICE session closes. -/
def execPwSet (password : List Byte) (s : State) : Res :=
  inMgmt s (fun s =>
    if password.length < 8 ∨ 64 < password.length then mgmtReply s sBadField []
    else
      let d := drawBytes s 32
      let s := updHandle d.2 (fun h => { h with verifier := some (d.1, verify d.1 password) })
      mgmtReply (logKeyStore (closeWhere s (fun f => f.role == 4) (fun c => c.op == mbPassword)) []) sSuccess [])

/-- LOCK_RESET (R406): clears the lock-out and failure count of a key entry, or with 0xFFFF of the SERVICE role. -/
def execLockReset (keyId : BitVec 16) (s : State) : Res :=
  inMgmt s (fun s =>
    let id := keyId.toNat
    if id = 0xFFFF then mgmtReply (setLock s lockService {}) sSuccess []
    else if 1023 < id then mgmtReply s sBadField []
    else mgmtReply (setLock s id {}) sSuccess [])

/-- BOARD_SET (R403). -/
def execBoardSet (r : BoardRec) (s : State) : Res :=
  inMgmt s (fun s => mgmtReply (updHandle s (fun h => { h with board := some r })) sSuccess [])

/-- BOARD_GET (R403): returns the board record. -/
def execBoardGet (s : State) : Res :=
  inMgmt s (fun s => let s := mgmtReply s sSuccess []
    { s with out := s.out ++ [.board s.handle.board] })

/-- TIME_MARK (R404): logs the host's time value and format code. -/
def execTimeMark (time : DWord) (format : Byte) (s : State) : Res :=
  inMgmt s (fun s => mgmtReply (logEvent s lgTime 0 0xFF 0 (bytesLE 8 time.toNat ++ [format])) sSuccess [])

/-! ### The event log as read (R404, R406, R413) -/

/-- The 64 bytes of an entry (Table 17.5). -/
def logBytes (e : LogEntry) : List Byte :=
  let b := bytesLE 8 e.seq ++ bytesLE 8 e.mc ++ bytesLE 4 e.boot ++ bytesLE 1 e.src ++ bytesLE 1 e.code ++ bytesLE 1 e.die
    ++ bytesLE 1 e.sev ++ (List.range 32).map (nth 0 e.args) ++ bytesLE 4 0
  b ++ bytesLE 4 (crc32c b)

/-- The entry with a SEQ, or the oldest retained one where that SEQ has been overwritten; none where no entry has it yet. -/
def logEntryOf (s : State) (seq : Nat) : Option LogEntry :=
  match s.handle.log.find? (fun e => e.seq == seq) with
  | some e => some e
  | none => if seq < s.handle.nextSeq then s.handle.log.head? else none

/-- What a log read answers: result and 64 bytes. For a SEQ that no entry has yet the spec states neither (log
entry 8). -/
def logAnswer (s : State) (seq : Nat) : Nat × List Byte × State :=
  match logEntryOf s seq with
  | some e => (sSuccess, logBytes e, s)
  | none => ((Config.undefinedByte s.draws 64).toNat, (List.range 64).map (Config.undefinedByte s.draws), { s with draws := s.draws + 1 })

/-- LOG_READ (R406). -/
def execLogRead (seq : DWord) (s : State) : Res :=
  inMgmt s (fun s => let a := logAnswer s seq.toNat
    mgmtReply a.2.2 a.1 a.2.1)

/-! ### The HANDLE mailbox (R413) -/

/-- A write of HM_CMD: VFs do not see the register; one while BUSY is discarded; a PF without a session of a role that
permits it has the command refused. -/
def writeHmCmd (s : State) (k seq op : Nat) : State :=
  let x := getFn s k
  if !fnIsPf k || s.handle.hmBusy.isSome then s
  else
    let code := if x.session = 0 then sNoSession else if x.role < 2 then sRoleDenied else sSuccess
    updHandle s (fun h => { h with hmCmd := seq * 2 ^ 24 + op, hmBusy := some { op := op, seq := seq, arg := h.hmArg, refused := code } })

/-- HM_CMD written by a function. -/
def hmWrite (f : FnAddr) (seq op : Nat) (s : State) : Res := fnWrite f s (fun k => .next (writeHmCmd s k seq op))

/-- LOG_READ of the HANDLE mailbox (Table 17.12). -/
def execHmLogRead (f : FnAddr) (seq : Byte) (s : State) : Res := hmWrite f seq.toNat 1 s

/-- SENSOR_READ (Table 17.12). -/
def execSensorRead (f : FnAddr) (seq : Byte) (s : State) : Res := hmWrite f seq.toNat 2 s

/-- LOG_HEAD (Table 17.12). -/
def execLogHead (f : FnAddr) (seq : Byte) (s : State) : Res := hmWrite f seq.toNat 3 s

/-- HM_CMD (R413): any value of OP. -/
def execHmCmd (f : FnAddr) (value : Word) (s : State) : Res := hmWrite f (bits value.toNat 31 24) (bits value.toNat 7 0) s

/-- Words of bytes, little-endian. -/
def wordsOf (n : Nat) (bs : List Byte) : List Nat := (List.range n).map (fun i => fieldLE bs (4 * i) 4)

/-- A command of the HANDLE mailbox ends with a result; data words where it gives any. -/
def hmEnd (s : State) (c : HmOp) (code : Nat) (data : List Nat) : State :=
  updHandle s (fun h => { h with hmBusy := none, hmSeq := c.seq, hmResult := code, hmData := if data.isEmpty then h.hmData else setPrefix data h.hmData })
where
  setPrefix (data old : List Nat) : List Nat := data ++ old.drop data.length

/-- HM_COMMAND_END (R413): the command in progress completes, once a die is active. -/
def execHmCommandEnd (s : State) : Res :=
  match s.handle.hmBusy with
  | none => .next s
  | some c =>
    if !handleUp s then .next s
    else if c.refused ≠ 0 then .next (hmEnd s c c.refused [])
    else if c.op = 1 then
      let a := logAnswer s c.arg
      .next (hmEnd a.2.2 c a.1 (wordsOf 16 a.2.1))
    else if c.op = 2 then
      let i := c.arg % 2 ^ 32
      if 293 < i then .next (hmEnd s c sBadField [])
      else .next (hmEnd s c sSuccess [(mget 0 s.handle.sensors i % 2 ^ 32).toNat])
    else if c.op = 3 then
      let n := s.handle.nextSeq - 1
      .next (hmEnd s c sSuccess [n % 2 ^ 32, n / 2 ^ 32])
    else .next (hmEnd s c sBadOpcode [])

end Sys2Proof.Machine
end

