-- ==== Sys2Proof/Machine/Registers.lean ====
section
/-! DEFINITION. Writes of the set-up registers: selects and their snapshots, flag clears, 64-bit pairs, check sets, clock,
arbiter and watchdog registers (R37, R147, R204, R232, R255, R256, R348, R352 to R364, R367, R429 to R439). -/

namespace Sys2Proof.Machine

/-! ### Select registers and snapshots (R436) -/

/-- Offsets of the select registers of BAR0. -/
def oQuotaSel : Nat := 0x20000
def oTierSlotSel : Nat := 0x30000
def oTierChSel : Nat := 0x30004
def oLayoutSel : Nat := 0x50020
def oArbSel : Nat := 0x60000
def oConvSel : Nat := 0x90008
def oStepSel : Nat := 0x90020
def oDevSel : Nat := 0x90040
def oPtSel : Nat := 0xA0020

/-- Value of a function's select register. -/
def selOf (s : State) (k off : Nat) : Nat := mget 0 (getFn s k).sels off

/-- A select register takes a value and its snapshot. -/
def putSel (s : State) (k off v : Nat) (snap : List Nat) : State :=
  updFn s k (fun f => { f with sels := mset 0 f.sels off v, snaps := mset [] f.snaps off snap })

/-- LO and HI of a 64-bit value. -/
def loHi (v : Nat) : List Nat := [v % 2 ^ 32, v / 2 ^ 32 % 2 ^ 32]

/-- A slot that a function's select registers of PERF may select: any slot from a PF, a slot of its open session's domain
from a VF (Table 11.3). -/
def selectable (s : State) (k n : Nat) : Bool :=
  let x := getSlot s n
  x.present && (fnIsPf k || ((getFn s k).session != 0 && (getFn s k).domain == x.dom))

/-- A select register of PERF, snapshotting `g` of the slot. -/
def selectSlot (s : State) (k off v : Nat) (g : SlotSt → List Nat) : State :=
  let n := v % 2 ^ 12
  putSel s k off n (if selectable s k n then g (getSlot s n) else [])

/-- A select register of a block that VFs do not see (Table 11.3). -/
def selectHidden (s : State) (k off v : Nat) (snap : List Nat) : State :=
  if fnIsPf k then putSel s k off v snap else s

/-- CONV_SAT_CNT to CONV_IOVF_CNT of a slot. -/
def convSnap (x : SlotSt) : List Nat := [x.conv.sat, x.conv.ufl, x.conv.nar, x.conv.iovf]

/-- STEP_STATUS.PHASE (Table 08.12): a step is replaying from the abort that asks for its replay to the decision of the
replayed attempt; one that drains to be reported is idle (DESIGN CHOICE, log entry 125). -/
def stepPhase (x : SlotSt) : Nat :=
  match x.run with
  | none => 0
  | some r =>
    let again := x.replays ≠ 0
    match r.stage with
    | .step => if again then 5 else if x.hostWait || r.sweeping then 2 else 1
    | .round => if x.round.issued then 4 else if again then 5 else 3
    | .replay => if x.round.abort.any (·.1) then 0 else 5
    | .paced => if again then 5 else 0
    | _ => 0

/-- STEP_STATUS (Table 08.12). -/
def stepStatus (x : SlotSt) : Nat :=
  boolNat x.wcStale * 2 ^ 31 + boolNat x.hostPlaced * 2 ^ 30 + x.bank * 2 ^ 29 + stepPhase x * 2 ^ 26
    + x.last % 256 * 2 ^ 16 + min x.replays 15 * 2 ^ 12

/-- STEP_EVENTS (Table 08.13). -/
def stepEvents (x : SlotSt) : Nat :=
  min x.replayCnt 0xFFFF * 2 ^ 16 + min x.repairCnt 0xFF * 2 ^ 8 + min x.efclrCnt 0xFF

/-- STEP_STATUS, STEP_CN and STEP_EVENTS of a slot. -/
def stepSnap (x : SlotSt) : List Nat := [stepStatus x] ++ loHi x.cn ++ [stepEvents x]

/-- The DEV_ counters of a slot. -/
def devSnap (x : SlotSt) : List Nat := (List.range 7).map (nth 0 x.dev)

/-- Limits and usage of a domain in granules (Table 09.9); the pattern store holds 32 pages to a granule. -/
def quotaSnap (s : State) (d : Nat) : List Nat :=
  if 256 ≤ d then []
  else
    let x := getDom s d
    [x.limSc, x.limPs, x.limHbm, x.limLp, x.useSc, ceilDiv x.usePages 32, x.useHbm, x.useLp]

/-- TIER_LATE, TIER_RETRY and TIER_FAIL of a slot. -/
def tierSlotSnap (x : SlotSt) : List Nat := loHi x.tierLate ++ [x.tierRetry, x.tierFail]

/-- TIER_CH_LATE, TIER_CH_CORR, TIER_CH_RETRY and TIER_CH_FAIL of a channel (R231). -/
def tierChSnap (s : State) (c : Nat) : List Nat :=
  if 576 ≤ c then []
  else
    let x := mget {} s.tiers.chans c
    loHi x.late ++ [x.corr, x.retry, x.fail]

/-- LAYOUT_STATUS (Table 14.7). -/
def layoutStatus (x : SlotSt) : Nat :=
  match x.reshard with
  | none => 0
  | some r =>
    let phase : Nat := match r.stage with
      | .fenceWait => 1
      | .fenceRound => 2
      | .moving => 3
      | .switchRound => 4
    phase * 2 ^ 29 + min r.allRetries 0xFF * 2 ^ 16 + min r.awaiting.length 0xFFFF

/-- LAYOUT_NUM and LAYOUT_STATUS of a slot. -/
def layoutSnap (x : SlotSt) : List Nat := [x.layout, layoutStatus x]

/-- ARB_STATUS and the counters of an arbiter; zeros where the key names none (R364). -/
def arbSnap (s : State) (key : Nat) : List Nat :=
  if !arbValid key then []
  else
    let a := getArb s key
    [arbStatus s key] ++ loHi a.grants ++ [a.parked, a.refused, a.dead]

def writeConvSel (s : State) (k v : Nat) : State := selectSlot s k oConvSel v convSnap
def writeStepSel (s : State) (k v : Nat) : State := selectSlot s k oStepSel v stepSnap
def writeDevSel (s : State) (k v : Nat) : State := selectSlot s k oDevSel v devSnap
def writeQuotaSel (s : State) (k v : Nat) : State :=
  selectHidden s k oQuotaSel (v % 2 ^ 12) (quotaSnap s (v % 2 ^ 12))
def writeTierSlotSel (s : State) (k v : Nat) : State :=
  selectHidden s k oTierSlotSel (v % 2 ^ 12) (tierSlotSnap (getSlot s (v % 2 ^ 12)))
def writeTierChSel (s : State) (k v : Nat) : State :=
  selectHidden s k oTierChSel (v % 2 ^ 12) (tierChSnap s (v % 2 ^ 12))
def writeLayoutSel (s : State) (k v : Nat) : State :=
  selectHidden s k oLayoutSel (v % 2 ^ 12) (layoutSnap (getSlot s (v % 2 ^ 12)))
def writeArbSel (s : State) (k v : Nat) : State := selectHidden s k oArbSel (v % 2 ^ 16) (arbSnap s (v % 2 ^ 16))

/-- CONV_CLR (R37): the live counters of the slot in the function's CONV_SEL are cleared. -/
def writeConvClr (s : State) (k v : Nat) : State :=
  let n := selOf s k oConvSel
  if bit v 0 && selectable s k n then updSlot s n (fun x => { x with conv := {} }) else s

/-- CONV_SEL (R37). -/
def execConvSel (f : FnAddr) (value : Word) (s : State) : Res := fnWrite f s (fun k => .next (writeConvSel s k value.toNat))

/-- CONV_CLR (R37, R432). -/
def execConvClr (f : FnAddr) (value : Word) (s : State) : Res := fnWrite f s (fun k => .next (writeConvClr s k value.toNat))

/-- STEP_SEL (R204). -/
def execStepSel (f : FnAddr) (value : Word) (s : State) : Res := fnWrite f s (fun k => .next (writeStepSel s k value.toNat))

/-- DEV_SEL (R256). -/
def execDevSel (f : FnAddr) (value : Word) (s : State) : Res := fnWrite f s (fun k => .next (writeDevSel s k value.toNat))

/-- QUOTA_SEL (R232). -/
def execQuotaSel (f : FnAddr) (value : Word) (s : State) : Res := fnWrite f s (fun k => .next (writeQuotaSel s k value.toNat))

/-- TIER_SLOT_SEL (R232). -/
def execTierSlotSel (f : FnAddr) (value : Word) (s : State) : Res := fnWrite f s (fun k => .next (writeTierSlotSel s k value.toNat))

/-- TIER_CH_SEL (R232). -/
def execTierChSel (f : FnAddr) (value : Word) (s : State) : Res := fnWrite f s (fun k => .next (writeTierChSel s k value.toNat))

/-- LAYOUT_SEL (R348). -/
def execLayoutSel (f : FnAddr) (value : Word) (s : State) : Res := fnWrite f s (fun k => .next (writeLayoutSel s k value.toNat))

/-- ARB_SEL (R364). -/
def execArbSel (f : FnAddr) (value : Word) (s : State) : Res := fnWrite f s (fun k => .next (writeArbSel s k value.toNat))

/-! ### Arbiter freeze, cycle capture, watchdog report -/

/-- ARB_CTL (R361, R362): only from a PF with a TEST or SERVICE session, on the arbiter of its own ARB_SEL. -/
def writeArbCtl (s : State) (k v : Nat) : State :=
  let f := getFn s k
  let key := selOf s k oArbSel
  if fnIsPf k && f.session != 0 && (f.role == 3 || f.role == 4) && arbValid key then
    notePerturb (setArb s key { getArb s key with swFreeze := bit v 0 })
  else s

/-- ARB_CTL (R362). -/
def execArbCtl (f : FnAddr) (value : Word) (s : State) : Res := fnWrite f s (fun k => .next (writeArbCtl s k value.toNat))

/-- CYC_SNAP (R255): a write by any PF captures the cycle counters in the fc after it. -/
def writeCycSnap (s : State) (k v : Nat) : State :=
  if fnIsPf k && bit v 0 then { s with clock := { s.clock with snap := if s.rootLock then s.fc + 1 else s.fc } } else s

/-- CYC_SNAP (R255, R432). -/
def execCycSnap (f : FnAddr) (value : Word) (s : State) : Res := fnWrite f s (fun k => .next (writeCycSnap s k value.toNat))

/-- WDOG_STATUS (R147): 1 in HELD releases the report. -/
def writeWdogStatus (s : State) (k v : Nat) : State :=
  if fnIsPf k && bit v 31 then { s with wdog := { s.wdog with held := false, missed := 0, nent := 0, entries := [] } } else s

/-- WDOG_STATUS (R147, R432). -/
def execWdogStatus (f : FnAddr) (value : Word) (s : State) : Res := fnWrite f s (fun k => .next (writeWdogStatus s k value.toNat))

/-! ### 64-bit pairs (R434) -/

/-- Offset of the LO half. -/
def pairLo : PairReg → Nat
  | .ringSq => 0x2020
  | .ringCq => 0x2028
  | .dbBase => 0x2040
  | .bufBase => 0x2050
  | .chkFold u => 0x70008 + 0x100 * u.toNat
  | .chkRun u => 0x70010 + 0x100 * u.toNat
  | .hmArg => 0xB0028

/-- The committed value. -/
def pairGet (s : State) (k : Nat) : PairReg → Nat
  | .ringSq => if ownsRing s k (getFn s k).ringSel then (getRing s (getFn s k).ringSel).sq else 0
  | .ringCq => if ownsRing s k (getFn s k).ringSel then (getRing s (getFn s k).ringSel).cq else 0
  | .dbBase => (getFn s k).dbBase
  | .bufBase => (getFn s k).bufBase
  | .chkFold u => (getChk s k u.toNat).foldV
  | .chkRun u => (getChk s k u.toNat).run
  | .hmArg => s.handle.hmArg

/-- A value as a check set holds it: with ALG = 0 the upper half is 0. -/
def chkHalf (c : ChkSet) (v : Nat) : Nat := if c.alg64 then v else v % 2 ^ 32

/-- Commit a value. A commit of CHK_RUN clears FRESH (R353, Table 15.3). -/
def pairSet (s : State) (k v : Nat) : PairReg → State
  | .ringSq => updRing s (getFn s k).ringSel (fun x => { x with sq := v })
  | .ringCq => updRing s (getFn s k).ringSel (fun x => { x with cq := v })
  | .dbBase => updFn s k (fun f => { f with dbBase := v })
  | .bufBase => updFn s k (fun f => { f with bufBase := v })
  | .chkFold u => let c := getChk s k u.toNat
    setChk s k u.toNat { c with foldV := chkHalf c v }
  | .chkRun u => let c := getChk s k u.toNat
    setChk s k u.toNat { c with run := chkHalf c v, fresh := false }
  | .hmArg => updHandle s (fun h => { h with hmArg := v })

/-- The state after a discarded write of a half, where a rule discards it (R277, R299, R355, R413). -/
def pairDiscard (s : State) (k : Nat) : PairReg → Option State
  | .ringSq | .ringCq =>
    let r := (getFn s k).ringSel
    if !ownsRing s k r then some s else if ringLive (getRing s r) then some (raiseRing s k rfCfgErr) else none
  | .chkFold u | .chkRun u => if (getChk s k u.toNat).busy then some (raiseChk s k cfCfgErr) else none
  | .hmArg => if fnIsPf k then none else some s
  | _ => none

/-- Reserved low bits of the LO half (Table 12.15). -/
def pairUnit : PairReg → Nat
  | .ringSq | .ringCq | .dbBase => 2 ^ 12
  | .bufBase => 2 ^ 4
  | _ => 1

/-- The LO half that a commit takes: the holding register, which holds the committed LO unless LO was written since. -/
def heldLo (s : State) (k : Nat) (p : PairReg) : Nat :=
  match mget 0 (getFn s k).hold (pairLo p) with
  | 0 => pairGet s k p % 2 ^ 32
  | v + 1 => v

/-- The holding register is reloaded with the committed LO. -/
def dropHeld (s : State) (k : Nat) (p : PairReg) : State := updFn s k (fun f => { f with hold := mset 0 f.hold (pairLo p) 0 })

/-- A write of LO goes into the holding register. -/
def writePairLo (s : State) (k : Nat) (p : PairReg) (v : Nat) : State :=
  match pairDiscard s k p with
  | some s => s
  | none => updFn s k (fun f => { f with hold := mset 0 f.hold (pairLo p) (v / pairUnit p * pairUnit p + 1) })

/-- A write of HI commits both halves. -/
def writePairHi (s : State) (k : Nat) (p : PairReg) (v : Nat) : State :=
  match pairDiscard s k p with
  | some s => s
  | none => dropHeld (pairSet s k (v * 2 ^ 32 + heldLo s k p) p) k p

/-- PAIR_COMMIT (R434): a write of the HI half. -/
def execPairCommit (f : FnAddr) (pair : PairReg) (hi : Word) (s : State) : Res :=
  fnWrite f s (fun k => .next (writePairHi s k pair hi.toNat))

/-- CHK_RUN (R353, Table 15.3): the commit of a running value. -/
def execChkRun (f : FnAddr) (unit : BitVec 5) (hi : Word) (s : State) : Res :=
  fnWrite f s (fun k => .next (writePairHi s k (.chkRun unit) hi.toNat))

/-- RING_SEL (R299, R434): the holding registers of the ring's pairs are reloaded. -/
def writeRingSel (s : State) (k v : Nat) : State :=
  dropHeld (dropHeld (updFn s k (fun f => { f with ringSel := v % 2 ^ 14 })) k .ringSq) k .ringCq

/-- RING_SEL (R434). -/
def execRingSel (f : FnAddr) (value : Word) (s : State) : Res := fnWrite f s (fun k => .next (writeRingSel s k value.toNat))

/-! ### Check sets (R352, R355) -/

/-- CHK_CTL (Table 15.2): EN = 1 sets FRESH; a write to a busy set, and one that binds a buffer of another enabled set,
is discarded. -/
def writeChkCtl (s : State) (k u v : Nat) : State :=
  let c := getChk s k u
  let en := bit v 31
  let buf := v % 2 ^ 16
  let taken := (List.range 32).any (fun j => j != u && (getChk s k j).en && (getChk s k j).buf == buf)
  if c.busy || (en && taken) then raiseChk s k cfCfgErr
  else
    setChk s k u { c with en := en, alg64 := bit v 30, dir := bits v 29 28, fold := bits v 27 26, final := bit v 25, fresh := en || c.fresh, buf := buf }

/-- CHK_CTL (R355). -/
def execChkCtl (f : FnAddr) (unit : BitVec 5) (value : Word) (s : State) : Res :=
  fnWrite f s (fun k => .next (writeChkCtl s k unit.toNat value.toNat))

/-! ### Perturbation ownership (R414, R415) -/

/-- A write to the PERTURB block by a PF whose session has the TEST role, while no other session owns the block; any
other write is discarded, with CFG_ERR where it comes from a PF. -/
def pertWrite (s : State) (k : Nat) (g : State → State) : State :=
  let f := getFn s k
  if !fnIsPf k then s
  else if f.session == 0 || f.role != 3 || (s.pert.en && s.pert.owner != f.session) then raisePert s pfCfgErr
  else g s

/-! ### Event flags (R367, R432) -/

/-- The flag register of a block in a function's view. -/
def flagsOf (s : State) (k : Nat) : FlagBlock → FlagReg
  | .cyc => s.train.cycFlags
  | .ring => (getFn s k).ringFlags
  | .host => (getFn s k).hostFlags
  | .quota => s.tiers.quotaFlags
  | .tier => s.tiers.tierFlags
  | .link p => (getLink s p.toNat).flags
  | .torus => s.torus.flags
  | .coll => s.train.collFlags
  | .chk => (getFn s k).chkFlags
  | .fault => s.fault.flags
  | .pipe => s.pipeFlags
  | .train => s.train.flags
  | .conv => s.convFlags
  | .pert => s.pert.flags
  | .handle => s.handle.flags

/-- Write the flag register of a block. -/
def setFlags (s : State) (k : Nat) (x : FlagReg) : FlagBlock → State
  | .cyc => { s with train := { s.train with cycFlags := x } }
  | .ring => updFn s k (fun f => { f with ringFlags := x })
  | .host => updFn s k (fun f => { f with hostFlags := x })
  | .quota => { s with tiers := { s.tiers with quotaFlags := x } }
  | .tier => { s with tiers := { s.tiers with tierFlags := x } }
  | .link p => if p.toNat < 6 then updLink s p.toNat (fun l => { l with flags := x }) else s
  | .torus => { s with torus := { s.torus with flags := x } }
  | .coll => { s with train := { s.train with collFlags := x } }
  | .chk => updFn s k (fun f => { f with chkFlags := x })
  | .fault => { s with fault := { s.fault with flags := x } }
  | .pipe => { s with pipeFlags := x }
  | .train => { s with train := { s.train with flags := x } }
  | .conv => { s with convFlags := x }
  | .pert => { s with pert := { s.pert with flags := x } }
  | .handle => updHandle s (fun h => { h with flags := x })

/-- The sticky flags of every converter unit that a write to CONV_FLAGS leaves (R35, R367). -/
def clearUnits (m : SMap Nat) (v : Nat) : SMap Nat :=
  (m.map (fun p => (p.1, p.2 - (p.2 &&& v)))).filter (fun p => p.2 != 0)

/-- A write of a flag register: any PF clears flags of a device-scope block, a VF those of its own HOST and CHECK views
(R432); those of PERTURB are cleared as R414 and R415 allow. -/
def writeFlags (s : State) (k : Nat) (b : FlagBlock) (v : Nat) : State :=
  let clear (s : State) : State := setFlags s k (flagClear s.fc (flagsOf s k b) v) b
  match b with
  | .ring | .host | .chk => clear s
  | .pert => pertWrite s k clear
  | .conv => if fnIsPf k then { clear s with convUnits := clearUnits s.convUnits v } else s
  | _ => if fnIsPf k then clear s else s

/-- FLAG_CLEAR (R367). -/
def execFlagClear (f : FnAddr) (block : FlagBlock) (value : Word) (s : State) : Res :=
  fnWrite f s (fun k => .next (writeFlags s k block value.toNat))

end Sys2Proof.Machine
end

