-- ==== Sys2Proof/Machine/Perturb.lean ====
section
/-! DEFINITION. The PERTURB block, loopbacks, memory self-test and the TAP (R414 to R428). -/

namespace Sys2Proof.Machine

/-- Change the PERTURB block. -/
def updPert (s : State) (g : PertSt → PertSt) : State := { s with pert := g s.pert }

/-! ### PERT_CTL and the points -/

/-- PERT_CTL (R415): the first EN = 1 records the owner; EN = 0 ends the ownership. -/
def writePertCtl (s : State) (k v : Nat) : State :=
  pertWrite s k (fun s =>
    if !bit v 31 then updPert s (fun p => { p with en := false, owner := 0, ownerFn := 0 })
    else if s.pert.en then s
    else notePerturb (updPert s (fun p => { p with en := true, owner := (getFn s k).session, ownerFn := k })))

/-- PERT_CTL (R415). -/
def execPertCtl (f : FnAddr) (value : Word) (s : State) : Res := fnWrite f s (fun k => .next (writePertCtl s k value.toNat))

/-- PT_SEL (R428). -/
def writePtSel (s : State) (k v : Nat) : State :=
  pertWrite s k (fun s => updFn s k (fun f => { f with sels := mset 0 f.sels oPtSel (v % 16) }))

/-- PT_SEL (R428). -/
def execPtSel (f : FnAddr) (value : Word) (s : State) : Res := fnWrite f s (fun k => .next (writePtSel s k value.toNat))

/-- A write to a register of the selected point; while ARM = 1 one that does not pass `keeps` is discarded (R415). -/
def pointWrite (s : State) (k : Nat) (keeps : PointSt → Bool) (g : PointSt → PointSt) : State :=
  pertWrite s k (fun s =>
    let i := selOf s k oPtSel
    let p := getPoint s i
    if p.arm && !keeps p then raisePert s pfCfgErr else setPoint s i (g p))

/-- PT_CTL (R415, R417, R422): while ARM = 1 a write that changes KIND or MODE is discarded. A point that is armed has
made no injection yet. -/
def writePtCtl (s : State) (k v : Nat) : State :=
  let kind := bits v 30 28
  let mode := bits v 27 24
  pointWrite s k (fun p => p.kind == kind && p.mode == mode)
    (fun p => { p with arm := bit v 31, kind := kind, mode := mode, made := if p.arm then p.made else 0 })

/-- PT_TARGET, PT_PARAM and PT_SEED; PT_SEED loads the generator, 0 as 1 (R418). -/
def writePtTarget (s : State) (k v : Nat) : State :=
  pointWrite s k (fun _ => false) (fun p => { p with target := v % 2 ^ 16 })
def writePtParam (s : State) (k v : Nat) : State :=
  pointWrite s k (fun _ => false) (fun p => { p with value := bits v 27 16, duty := bits v 5 0 })
def writePtSeed (s : State) (k v : Nat) : State :=
  pointWrite s k (fun _ => false) (fun p => { p with seed := v, gen := if v = 0 then 1 else v })

/-- PT_CTL (R417). -/
def execPtCtl (f : FnAddr) (value : Word) (s : State) : Res := fnWrite f s (fun k => .next (writePtCtl s k value.toNat))

/-- PT_SEED (R418). -/
def execPtSeed (f : FnAddr) (value : Word) (s : State) : Res := fnWrite f s (fun k => .next (writePtSeed s k value.toNat))

/-! ### Loopback (R424) -/

/-- What a running loopback has found: lanes with errors and their count. -/
def noteLoopback (s : State) (lanes errors : Nat) : State :=
  if s.pert.lpEn then
    let s := updPert s (fun p => { p with lpLanes := p.lpLanes ||| lanes, lpErrs := satAdd32 p.lpErrs errors })
    if errors = 0 then s else raisePert s pfBistFail
  else s

/-- LPBK_CTL: a loopback starts on a port that is disabled and DOWN; the counts restart as EN is set. -/
def writeLpbkCtl (s : State) (k v : Nat) : State :=
  pertWrite s k (fun s =>
    let port := v % 8
    let en := bit v 31
    let x := getLink s port
    if en && (decide (6 ≤ port) || x.en || x.state != .down) then raisePert s pfCfgErr
    else
      let fresh := en && !s.pert.lpEn
      notePerturb <| updPert s (fun p =>
        { p with
          lpEn := en,
          lpMode := bit v 30,
          lpPort := port,
          lpLanes := if fresh then 0 else p.lpLanes,
          lpErrs := if fresh then 0 else p.lpErrs }))

/-- LPBK_CTL (R424); `lanes` and `errors` are what the loopback that ran until this write found since it was last noted. -/
def execLpbkCtl (f : FnAddr) (value lanes errors : Word) (s : State) : Res :=
  fnWrite f s (fun k => .next (writeLpbkCtl (noteLoopback s lanes.toNat errors.toNat) k value.toNat))

/-! ### Memory loopback and self-test (R425, R426) -/

/-- The granules of a DRAM target are all unmapped, or the cluster belongs to no partition (R425). A target that does
not exist cannot be tested. -/
def bistFree (s : State) (tkind target : Nat) : Bool :=
  if tkind = 0 then decide (target < 16) && s.tiers.hbmGran.all (fun g => g.1 % 16 != target || g.2 != .mapped)
  else if tkind = 1 then decide (target < 8) && s.tiers.lpGran.all (fun g => g.2 != .mapped)
  else if tkind = 2 then decide (target < 288) && (partOfCluster s (clusterOfBit target)).isNone
  else false

/-- A write of BIST_CTL: a non-zero OP starts a test, or ends at once with REGION_BUSY. While a test runs it is
discarded. -/
def writeBistCtl (s : State) (k v : Nat) : State :=
  pertWrite s k (fun s =>
    if s.pert.bistRun then raisePert s pfCfgErr
    else
      let op := bits v 31 30
      let tkind := bits v 29 28
      let target := bits v 8 0
      let s := updPert s (fun p => { p with bistOp := op, bistKind := tkind, bistTarget := target })
      if op = 0 ∨ op = 3 then s
      else if bistFree s tkind target then
        let s := updPert s (fun p => { p with bistRun := true, bistFail := false, bistResult := sSuccess, bistRetired := 0 })
        notePerturb { s with tiers := { s.tiers with testing := if tkind < 2 then some (tkind, target) else none } }
      else updPert s (fun p => { p with bistResult := sRegionBusy }))

/-- The word of BIST_CTL. -/
def bistWord (op : Nat) (tkind : BitVec 2) (target : BitVec 9) : Nat := op * 2 ^ 30 + tkind.toNat * 2 ^ 28 + target.toNat

/-- PHYLOOP (R425): BIST_CTL with OP = 1. -/
def execPhyloop (f : FnAddr) (tkind : BitVec 2) (target : BitVec 9) (s : State) : Res :=
  fnWrite f s (fun k => .next (writeBistCtl s k (bistWord 1 tkind target)))

/-- MARCH (R426): BIST_CTL with OP = 2. -/
def execMarch (f : FnAddr) (tkind : BitVec 2) (target : BitVec 9) (s : State) : Res :=
  fnWrite f s (fun k => .next (writeBistCtl s k (bistWord 2 tkind target)))

/-- A granule of a target that the test has written over and zeroed: free unless retired. -/
def freeTested (m : SMap Granule) (on : Nat → Bool) : SMap Granule := m.filter (fun g => !on g.1 || mget .free m g.1 == .retired)

/-- March C− over a DRAM target ends: failing granules are retired (R220), the others zeroed. -/
def endMarchDram (s : State) (tkind target : Nat) (fails : List Nat) : State :=
  let on (p : Nat) : Bool := if tkind = 0 then decide (p < hbmGranules) && p % 16 == target else decide (p < lpGranules)
  let t := s.tiers
  let old := if tkind = 0 then t.hbmGran else t.lpGran
  let bad := (fails.filter (fun p => on p && mget .free old p != .retired)).eraseDups
  let gran := bad.foldl (fun m p => mset .free m p .retired) (freeTested old on)
  let t := if tkind = 0 then { t with hbmGran := gran, hbm := t.hbm.filter (fun c => !on (c.1 / granBytes)), undef := t.undef.filter (fun g => !on g.1) }
    else { t with lpGran := gran, lp := t.lp.filter (fun c => !on (c.1 / granBytes)) }
  let s := updPert { s with tiers := t } (fun p => { p with bistFail := !bad.isEmpty, bistRetired := min bad.length 0xFFFF })
  if bad.isEmpty then s else raisePert s pfBistFail

/-- March C− over a cluster's core stores ends: they hold 0, and a failing word is a DIE fault with DETECT 2. -/
def endMarchCores (s : State) (k : Nat) (failed : Bool) : State :=
  let s := (List.range 8).foldl (fun s i => setCore s (8 * k + i) { getCore s (8 * k + i) with store := [] }) s
  if failed then dieFault (raisePert (updPert s (fun p => { p with bistFail := true })) pfBistFail) (posDie s (k / 128) (k / 8 % 16)) dtSram
  else s

/-- BIST_END (R425, R426): the running test ends. `fails` are the granules of failing DRAM words; `failed` says that the
loopback's compare or a core-store word failed. -/
def execBistEnd (fails : List (BitVec 19)) (failed : Bool) (s : State) : Res :=
  if !s.pert.bistRun then .next s
  else
    let s := updPert s (fun p => { p with bistRun := false })
    let s := { s with tiers := { s.tiers with testing := none } }
    if s.pert.bistOp = 1 then
      .next (if failed then raisePert (updPert s (fun p => { p with bistFail := true })) pfBistFail else s)
    else if s.pert.bistKind < 2 then .next (endMarchDram s s.pert.bistKind s.pert.bistTarget (fails.map (·.toNat)))
    else .next (endMarchCores s (clusterOfBit s.pert.bistTarget) failed)

/-! ### The TAP (R427) -/

/-- The IDCODE. -/
def idcode : Nat := 0x1 * 2 ^ 28 + 0x7064 * 2 ^ 12 + Config.jtagManufacturer.toNat * 2 + 1

/-- The instruction in effect: EXTEST acts as BYPASS unless TEST_MODE_N was low at the last release of COLD_RST_N. -/
def tapInstr (s : State) : TapInstr :=
  match s.tap.instr with
  | .extest => if s.handle.testN then .bypass else .extest
  | i => i

/-- A data scan through a register: bits out on TDO, contents left. -/
def scanBits (cap tdi : List Bool) : List Bool × List Bool := ((cap ++ tdi).take tdi.length, (cap ++ tdi).drop tdi.length)

/-- The lands are driven from the boundary register while EXTEST is in effect. -/
def driveLands (s : State) : State :=
  { s with tap := { s.tap with driven := match tapInstr s with | .extest => s.tap.boundary | _ => [] } }

/-- TAP (R427). After a reset the instruction is IDCODE. -/
def execTap (o : TapOp) (s : State) : Res :=
  if !s.power.on then .next s
  else match o with
    | .reset => .next (driveLands { s with tap := { s.tap with instr := .idcode } })
    | .load i => .next (driveLands { s with tap := { s.tap with instr := i } })
    | .scan tdi lands =>
      let tdo (s : State) (b : List Bool) : State := { s with out := s.out ++ [.tdo b] }
      match tapInstr s with
      | .bypass => .next (tdo s (scanBits [false] tdi).1)
      | .idcode => .next (tdo s (scanBits ((List.range 32).map (bit idcode)) tdi).1)
      | _ =>
        let r := scanBits lands tdi
        .next (tdo (driveLands { s with tap := { s.tap with boundary := r.2 } }) r.1)

end Sys2Proof.Machine
end

