-- ==== Sys2Proof/Machine/RegMap.lean ====
section
/-! DEFINITION. The register map: where a write of BAR0 or BAR2 goes, and what a read returns (R259, R268, R429 to R439). Reads
are no commands; their values are the state as software sees it. -/

namespace Sys2Proof.Machine

/-! ### Writes -/

/-- Registers that take effect only from a PF with an OPERATOR, TEST or SERVICE session (R432). -/
def writeGated (s : State) (k : Nat) (g : State → State) : State := if operatorSession s k then g s else s

/-- A word of the MSI-X table (R438): a write of 0 to a vector's mask bit sends a pending message. -/
def writeMsix (s : State) (k w v : Nat) : State :=
  if 4 * vectorCount k ≤ w then s
  else if w % 4 = 3 then
    let s := updFn s k (fun f => { f with msix := mset 0 f.msix w ((v + 1) % 2) })
    let f := getFn s k
    if !bit v 0 && mget false f.msixPend (w / 4) then
      sendMsix (setFn s k { f with msixPend := mset false f.msixPend (w / 4) false }) k (w / 4)
    else s
  else updFn s k (fun f => { f with msix := mset 0 f.msix w (if w % 4 = 0 then v / 4 * 4 else v) })

/-- HOST block (Table 19.9). -/
def writeHostBlock (s : State) (k o v : Nat) : State :=
  if 0x4000 ≤ o then (if o < 0xC000 then writeMsix s k ((o - 0x4000) / 4) v else s)
  else match o with
    | 0x2000 => if fnIsPf k then updFn s k (fun f => { f with fnSel := v % 2 ^ 7 }) else s
    | 0x2004 => writeFnRings s k v
    | 0x2010 => writeRingSel s k v
    | 0x2014 => writeRingCtl s k (bit v 31) (v % 2 ^ 31)
    | 0x2020 => writePairLo s k .ringSq v
    | 0x2024 => writePairHi s k .ringSq v
    | 0x2028 => writePairLo s k .ringCq v
    | 0x202C => writePairHi s k .ringCq v
    | 0x2040 => writePairLo s k .dbBase v
    | 0x2044 => writePairHi s k .dbBase v
    | 0x2048 => updFn s k (fun f => { f with pollEn := bit v 31, pollPer := v % 2 ^ 8 })
    | 0x2050 => writePairLo s k .bufBase v
    | 0x2054 => writePairHi s k .bufBase v
    | 0x2058 => updFn s k (fun f => { f with bufCount := v % 2 ^ 16 })
    | 0x2060 => writeFlags s k .ring v
    | 0x2070 => writeFlags s k .host v
    | _ => s

/-- LINK block: port and offset within it. -/
def writeLinkBlock (s : State) (k p o v : Nat) : State :=
  if 6 ≤ p then s
  else if o = 0 then writeLinkCtl s k p v
  else if o = 0x40 then writeFlags s k (.link (BitVec.ofNat 3 p)) v
  else s

/-- CHECK block: set and offset within it. -/
def writeCheckBlock (s : State) (k o v : Nat) : State :=
  if o = 0x2000 then writeFlags s k .chk v
  else if 0x2000 ≤ o then s
  else
    let u := o / 0x100
    let b := BitVec.ofNat 5 u
    match o % 0x100 with
    | 0x00 => writeChkCtl s k u v
    | 0x08 => writePairLo s k (.chkFold b) v
    | 0x0C => writePairHi s k (.chkFold b) v
    | 0x10 => writePairLo s k (.chkRun b) v
    | 0x14 => writePairHi s k (.chkRun b) v
    | _ => s

/-- The remaining blocks, by offset in BAR0. -/
def writeDeviceBlocks (s : State) (k o v : Nat) : State :=
  match o with
  | 0x01010 => writeCycSnap s k v
  | 0x01040 => writeGated s k (fun s => { s with clock := { s.clock with paceCap := v % 2 ^ 16 } })
  | 0x01050 => writeFlags s k .cyc v
  | 0x20000 => writeQuotaSel s k v
  | 0x20030 => writeFlags s k .quota v
  | 0x30000 => writeTierSlotSel s k v
  | 0x30004 => writeTierChSel s k v
  | 0x30060 => writeFlags s k .tier v
  | 0x50000 => writeCoord s k v
  | 0x50004 => writeLen s k v
  | 0x50010 => writeFlags s k .torus v
  | 0x50020 => writeLayoutSel s k v
  | 0x50030 => writeFlags s k .coll v
  | 0x60000 => writeArbSel s k v
  | 0x60004 => writeArbCtl s k v
  | 0x80010 => writeFlags s k .fault v
  | 0x80020 => writeFlags s k .pipe v
  | 0x80030 => writeGated s k (fun s => { s with wdog := { s.wdog with limit := v } })
  | 0x80034 => writeWdogStatus s k v
  | 0x80060 => writeGated s k (fun s => { s with train := { s.train with updCtl := BitVec.ofNat 32 v &&& 0xFFFFFF0F#32 } })
  | 0x80064 => writeGated s k (fun s => { s with train := { s.train with commitLimit := BitVec.ofNat 32 v } })
  | 0x80070 => writeFlags s k .train v
  | 0x90000 => writeFlags s k .conv v
  | 0x90008 => writeConvSel s k v
  | 0x9000C => writeConvClr s k v
  | 0x90020 => writeStepSel s k v
  | 0x90040 => writeDevSel s k v
  | 0xA0000 => writePertCtl s k v
  | 0xA0004 => writeFlags s k .pert v
  | 0xA0020 => writePtSel s k v
  | 0xA0024 => writePtCtl s k v
  | 0xA0028 => writePtTarget s k v
  | 0xA002C => writePtParam s k v
  | 0xA0030 => writePtSeed s k v
  | 0xA0040 => writeLpbkCtl s k v
  | 0xA0050 => writeBistCtl s k v
  | 0xB0010 => writeFlags s k .handle v
  | 0xB0020 => writeHmCmd s k (bits v 31 24) (bits v 7 0)
  | 0xB0028 => writePairLo s k .hmArg v
  | 0xB002C => writePairHi s k .hmArg v
  | _ => s

/-- A write of one word of BAR0 (R429 to R432). An offset that is not word-aligned is not accessed (R431), and one that no
table assigns discards the write. -/
def bar0Write (s : State) (k o v : Nat) : State :=
  if o % 4 ≠ 0 then s
  else if 0x2000 ≤ o ∧ o < 0x10000 then writeHostBlock s k o v
  else if 0x40000 ≤ o ∧ o < 0x50000 then writeLinkBlock s k ((o - 0x40000) / 0x1000) (o % 0x1000) v
  else if 0x70000 ≤ o ∧ o < 0x80000 then writeCheckBlock s k (o - 0x70000) v
  else writeDeviceBlocks s k o v

/-- Bytes of an array with word i replaced. -/
def setWord (n : Nat) (bs : List Byte) (i v : Nat) : List Byte :=
  (List.range n).map (fun j => if j / 4 = i then BitVec.ofNat 8 (v / 2 ^ (8 * (j % 4))) else nth 0 bs j)

/-- A write of one word of BAR2 (Table 11.5). -/
def bar2Write (s : State) (k o v : Nat) : State :=
  if o % 4 ≠ 0 then s
  else if o = 0x000 then writeMbCmd s k (bits v 31 24) (bits v 7 0)
  else if o = 0x008 then updFn s k (fun f => { f with mbKey := bits v 31 28 * 2 ^ 28 + bits v 9 0 })
  else if 0x020 ≤ o ∧ o < 0x040 then updFn s k (fun f => { f with hostNonce := setWord 32 f.hostNonce ((o - 0x020) / 4) v })
  else if 0x060 ≤ o ∧ o < 0x080 then updFn s k (fun f => { f with hostMac := setWord 32 f.hostMac ((o - 0x060) / 4) v })
  else if 0x100 ≤ o ∧ o < 0x140 then updFn s k (fun f => { f with password := setWord 64 f.password ((o - 0x100) / 4) v })
  else if o = 0x140 then updFn s k (fun f => { f with pwLen := v % 2 ^ 7 })
  else s

/-! ### The configuration space (R257, R258) -/

/-- Messages that wait in a function whose MSI-X is enabled and unmasked, on vectors that are not masked, are sent. -/
def sendPending (s : State) (k : Nat) : State :=
  ((getFn s k).msixPend.map (·.1)).foldl (fun s v =>
    let f := getFn s k
    if mget false f.msixPend v && !msixMasked f v then sendMsix (setFn s k { f with msixPend := mset false f.msixPend v false }) k v else s) s

/-- A base address with its low or high word replaced; a BAR of 2^n bytes has its n low bits 0. -/
def barWrite (n base : Nat) (hi : Bool) (v : Nat) : Nat :=
  if hi then v * 2 ^ 32 + base % 2 ^ 32 else base / 2 ^ 32 * 2 ^ 32 + v / 2 ^ n * 2 ^ n

/-- A write of SR-IOV Control (Table 11.1): clearing VF Enable resets the VFs of the port. -/
def writeSriov (s : State) (p v : Nat) : State :=
  let was := (getPort s p).vfEnable
  let s := setPort s p { getPort s p with vfEnable := bit v 0, vfMem := bit v 3 }
  if was && !bit v 0 then (List.range 64).foldl (fun s i => resetFn s (fnKey p (i + 1)) true) s else s

/-- A write of a register of the configuration space of function k. Registers of the SR-IOV capability are the PF's, NumVFs
is writable while VF Enable is 0, and a VF has neither Memory Space Enable nor BARs of its own (PRESUMED, log entry 131). -/
def cfgWrite (s : State) (k : Nat) (r : CfgReg) (v : Nat) : State :=
  let pf := fnIsPf k
  let p := fnPort k
  let upd (g : CfgSt → CfgSt) : State := updFn s k (fun f => { f with cfg := g f.cfg })
  match r with
  | .command => upd (fun c => { c with mem := pf && bit v 1, master := bit v 2 })
  | .deviceControl => if pf then upd (fun c => { c with relaxed := bit v 4, mps := min (bits v 7 5) 2, mrrs := min (bits v 14 12) 5 }) else s
  | .msixControl => sendPending (upd (fun c => { c with msixEn := bit v 15, msixMask := bit v 14 })) k
  | .aerControl => if pf then upd (fun c => { c with ecrcGen := bit v 6, ecrcChk := bit v 8 }) else s
  | .bar n =>
    if !pf then s
    else if n.toNat < 2 then upd (fun c => { c with bar0 := barWrite 24 c.bar0 (n.toNat == 1) v })
    else if n.toNat < 4 then upd (fun c => { c with bar2 := barWrite 12 c.bar2 (n.toNat == 3) v })
    else s
  | .sriovControl => if pf then writeSriov s p v else s
  | .numVfs => if pf && !(getPort s p).vfEnable then setPort s p { getPort s p with numVfs := min (v % 2 ^ 16) 64 } else s
  | .vfBar n =>
    let x := getPort s p
    if !pf then s
    else if n.toNat < 2 then setPort s p { x with vfBar0 := barWrite 24 x.vfBar0 (n.toNat == 1) v }
    else if n.toNat < 4 then setPort s p { x with vfBar2 := barWrite 12 x.vfBar2 (n.toNat == 3) v }
    else s

/-- A configuration request reaches a function that answers, once boot stage 3 has ended (R446), in D3hot too. -/
def cfgReach (s : State) (k : Nat) : Bool := fnLive s k && decide (3 < s.handle.stage)

/-- REGISTER_WRITE (R429 to R432, R257): a write of any word of BAR0 or BAR2, or of a register of the configuration space. -/
def execRegisterWrite (f : FnAddr) (place : RegPlace) (offset : BitVec 24) (value : Word) (s : State) : Res :=
  match place with
  | .bar0 => fnWrite f s (fun k => .next (bar0Write s k offset.toNat value.toNat))
  | .bar2 => fnWrite f s (fun k => .next (bar2Write s k offset.toNat value.toNat))
  | .config r =>
    if !fnAddrOk f then .refused .noSuchUnit
    else if !cfgReach s (fnKeyOf f) then .next s
    else .next (cfgWrite s (fnKeyOf f) r value.toNat)

/-! ### Reads -/

/-- Word i of a list of words read as 0 beyond its end. -/
def wordAt (l : List Nat) (i : Nat) : Nat := nth 0 l i % 2 ^ 32

/-- Word i of the 64-bit value v: 0 LO, 1 HI. -/
def half (v i : Nat) : Nat := v / 2 ^ (32 * i) % 2 ^ 32

/-- A snapshot that a select register governs. -/
def snapOf (s : State) (k off : Nat) : List Nat := mget [] (getFn s k).snaps off

/-- CLK_STATUS (Table 10.8). -/
def clkStatus (s : State) : Nat :=
  boolNat s.rootLock + 2 * boolNat s.clock.memLock + 4 * boolNat s.clock.serdesLock
    + 8 * boolNat (s.clock.pcieLock.contains 0) + 16 * boolNat (s.clock.pcieLock.contains 1)

/-- GLOBAL and CLOCK (Tables 19.2, 19.8). -/
def readGlobal (s : State) (o : Nat) : Nat :=
  match o with
  | 0x0000 => 0x70640100
  | 0x0004 => 0x00000011
  | 0x0008 => 0x20080806
  | 0x000C => 0x10004000
  | 0x0010 => 0x01004040
  | 0x0018 => half Config.serial.toNat 0
  | 0x001C => half Config.serial.toNat 1
  | 0x0020 => siteMap s.fault 0
  | 0x0024 => siteMap s.fault 1
  | 0x0028 => siteMap s.fault 2
  | 0x002C => siteMap s.fault 3
  | 0x0030 => 0x00983800
  | 0x0034 => 0x00D74B50
  | 0x1000 => clkStatus s
  | 0x1020 => half (s.clock.snap / 2) 0
  | 0x1024 => half (s.clock.snap / 2) 1
  | 0x1028 => half s.clock.snap 0
  | 0x102C => half s.clock.snap 1
  | 0x1030 => half (s.clock.snap / 4) 0
  | 0x1034 => half (s.clock.snap / 4) 1
  | 0x1038 => half (s.clock.snap / 6) 0
  | 0x103C => half (s.clock.snap / 6) 1
  | 0x1040 => s.clock.paceCap
  | 0x1044 => paceStatus s
  | 0x1050 => flagWord s.train.cycFlags
  | 0x1054 => occWord s.train.cycFlags 0
  | _ => 0

/-- FN_RINGS as read through FN_SEL (Table 12.12). -/
def fnRingsWord (s : State) (k : Nat) : Nat :=
  let sel := (getFn s k).fnSel
  if !fnIsPf k || decide (64 < sel) then 0
  else
    let t := getFn s (fnKey (fnPort k) sel)
    t.ringCount * 2 ^ 18 + t.ringFirst

/-- RING_CTL (Table 12.14). -/
def ringCtlWord (x : RingSt) : Nat :=
  boolNat x.enable * 2 ^ 31 + boolNat x.active * 2 ^ 30 + x.size * 2 ^ 26 + x.modCnt * 2 ^ 19 + x.modTime * 2 ^ 11 + x.vector

/-- RING_STATUS (Table 12.16). -/
def ringStatusWord (x : RingSt) : Nat := min (x.ready.length + x.open_.length) 0xFFFF * 2 ^ 16 + x.fetch

/-- HOST block (Table 19.9). -/
def readHost (s : State) (k o : Nat) : Nat :=
  let f := getFn s k
  let x : RingSt := if ownsRing s k f.ringSel then getRing s f.ringSel else {}
  if 0xC000 ≤ o then
    let w := (o - 0xC000) / 4
    if vectorCount k ≤ 32 * w then 0 else sumNat ((List.range 32).map (fun i => boolNat (mget false f.msixPend (32 * w + i)) * 2 ^ i))
  else if 0x4000 ≤ o then
    let w := (o - 0x4000) / 4
    if 4 * vectorCount k ≤ w then 0 else if w % 4 = 3 then boolNat (msixMasked f (w / 4)) else mget 0 f.msix w
  else match o with
    | 0x2000 => if fnIsPf k then f.fnSel else 0
    | 0x2004 => fnRingsWord s k
    | 0x2010 => f.ringSel
    | 0x2014 => ringCtlWord x
    | 0x2018 => ringStatusWord x
    | 0x2020 => half x.sq 0
    | 0x2024 => half x.sq 1
    | 0x2028 => half x.cq 0
    | 0x202C => half x.cq 1
    | 0x2040 => half f.dbBase 0
    | 0x2044 => half f.dbBase 1
    | 0x2048 => boolNat f.pollEn * 2 ^ 31 + f.pollPer
    | 0x2050 => half f.bufBase 0
    | 0x2054 => half f.bufBase 1
    | 0x2058 => f.bufCount
    | 0x2060 => flagWord f.ringFlags
    | 0x2064 => occWord f.ringFlags 0
    | 0x2070 => flagWord f.hostFlags
    | 0x2074 => occWord f.hostFlags 0
    | 0x2078 => if fnIsPf k then (getPort s (fnPort k)).cplDrop else 0
    | 0x207C => f.authFails
    | _ => 0

/-- MB_STATUS.STATE as read: BUSY until the device is ready (R400). -/
def mbStateCode (s : State) (f : FnSt) : Nat := if deviceReady s then f.mbState.code else 1

/-- SESSION block (Tables 19.10 to 19.13): a VF sees its own entry and SESS_MODE. -/
def readSession (s : State) (k o : Nat) : Nat :=
  if o = 0x10000 then boolNat s.service
  else
    let n := (o - 0x10100) / 8
    if o < 0x10100 ∨ 64 < n ∨ (fnIsPf k = false ∧ n ≠ k % 65) then 0
    else
      let f := getFn s (fnKey (fnPort k) n)
      if o % 8 = 0 then f.role * 2 ^ 28 + mbStateCode s f * 2 ^ 24 + f.domain * 2 ^ 16 + f.session else f.keyId

/-- Free zeroed granules of a DRAM tier, less a target under test (Table 09.10, R425); while boot zeroes the package, those
zeroed so far. -/
def tierFree (s : State) (tier : Nat) : Nat :=
  if !s.tiers.zeroed then (s.tiers.fresh.filter (fun g => decide (g.1 < hbmGranules) == decide (tier = 1))).length
  else if tier = 1 then
    let tested (p : Nat) : Bool := hbmTested s.tiers p
    let used := (s.tiers.hbmGran.filter (fun g => g.2 != .free && !tested g.1)).length
    (if s.tiers.testing.any (·.1 == 0) then 276480 else hbmGranules) - used
  else if lpTested s.tiers then 0
  else lpGranules - (s.tiers.lpGran.filter (fun g => g.2 != .free)).length

/-- QUOTA and TIER blocks (Tables 19.14, 19.15). -/
def readTiers (s : State) (k o : Nat) : Nat :=
  let q := snapOf s k oQuotaSel
  let t := snapOf s k oTierSlotSel
  let c := snapOf s k oTierChSel
  match o with
  | 0x20000 => selOf s k oQuotaSel
  | 0x20010 => wordAt q 0
  | 0x20014 => wordAt q 1
  | 0x20018 => wordAt q 2
  | 0x2001C => wordAt q 3
  | 0x20020 => wordAt q 4
  | 0x20024 => wordAt q 5
  | 0x20028 => wordAt q 6
  | 0x2002C => wordAt q 7
  | 0x20030 => flagWord s.tiers.quotaFlags
  | 0x20034 => occWord s.tiers.quotaFlags 0
  | 0x30000 => selOf s k oTierSlotSel
  | 0x30004 => selOf s k oTierChSel
  | 0x30010 => tierFree s 1
  | 0x30014 => tierFree s 2
  | 0x30018 => if s.tiers.zeroed then slathFreeCount (getSlath s 0) else 0
  | 0x3001C => if s.tiers.zeroed then slathFreeCount (getSlath s 1) else 0
  | 0x30020 => if s.tiers.zeroed then slathFreeCount (getSlath s 2) else 0
  | 0x30024 => if s.tiers.zeroed then slathFreeCount (getSlath s 3) else 0
  | 0x30030 => wordAt t 0
  | 0x30034 => wordAt t 1
  | 0x30038 => wordAt t 2
  | 0x3003C => wordAt t 3
  | 0x30040 => wordAt c 0
  | 0x30044 => wordAt c 1
  | 0x30048 => wordAt c 2
  | 0x3004C => wordAt c 3
  | 0x30050 => wordAt c 4
  | 0x30060 => flagWord s.tiers.tierFlags
  | 0x30064 => occWord s.tiers.tierFlags 0
  | _ => 0

/-- LINK_STATUS.STATE codes (Table 13.9). -/
def LinkState.code : LinkState → Nat
  | .down => 0 | .training => 1 | .hello => 2 | .up => 3 | .retrain => 4 | .lost => 5 | .mismatch => 6

/-- LINK block of a port (Table 19.16). -/
def readLink (s : State) (p o : Nat) : Nat :=
  let x := getLink s p
  if 6 ≤ p then 0
  else match o with
    | 0x00 => boolNat x.en * 2 ^ 31
    | 0x04 => x.state.code * 2 ^ 29 + x.txGroups * 2 ^ 25 + x.rxGroups * 2 ^ 21 + min x.chdly 255 * 2 ^ 13
    | 0x08 => x.partner
    | 0x10 => x.txRetired
    | 0x14 => x.rxRetired
    | 0x20 => half x.fecCorr 0
    | 0x24 => half x.fecCorr 1
    | 0x28 => x.fecUncorr
    | 0x2C => x.crcFail
    | 0x30 => x.resend
    | 0x34 => x.transient
    | 0x38 => x.lasting
    | 0x3C => x.retrain
    | 0x40 => flagWord x.flags
    | 0x44 => occWord x.flags 0
    | _ => 0

/-- MODE of an axis (Table 13.16). -/
def RingMode.code : RingMode → Nat
  | .ring => 0 | .line => 1 | .split => 2

/-- TORUS_RING (Table 13.16). -/
def torusRing (t : TorusSt) : Nat :=
  sumNat ((List.range 3).map (fun a => ((nth RingMode.ring t.mode a).code * 2 ^ 5 + nth 0 t.brk a % 2 ^ 5) * 2 ^ (7 * a)))

/-- TORUS block (Table 19.17). -/
def readTorus (s : State) (k o : Nat) : Nat :=
  match o with
  | 0x50000 => s.torus.coord
  | 0x50004 => s.torus.len
  | 0x50008 => torusRing s.torus
  | 0x50010 => flagWord s.torus.flags
  | 0x50014 => occWord s.torus.flags 0
  | 0x50020 => selOf s k oLayoutSel
  | 0x50024 => wordAt (snapOf s k oLayoutSel) 0
  | 0x50028 => wordAt (snapOf s k oLayoutSel) 1
  | 0x50030 => flagWord s.train.collFlags
  | 0x50034 => occWord s.train.collFlags 0
  | _ => 0

/-- ARB block (Table 19.18): SW_FREEZE reads live. -/
def readArb (s : State) (k o : Nat) : Nat :=
  let key := selOf s k oArbSel
  let q := snapOf s k oArbSel
  match o with
  | 0x60000 => key
  | 0x60004 => if arbValid key then boolNat (getArb s key).swFreeze else 0
  | 0x60008 => wordAt q 0
  | 0x60010 => wordAt q 1
  | 0x60014 => wordAt q 2
  | 0x60018 => wordAt q 3
  | 0x6001C => wordAt q 4
  | 0x60020 => wordAt q 5
  | _ => 0

/-- CHK_CTL (Table 15.2). -/
def chkCtlWord (c : ChkSet) : Nat :=
  boolNat c.en * 2 ^ 31 + boolNat c.alg64 * 2 ^ 30 + c.dir * 2 ^ 28 + c.fold * 2 ^ 26 + boolNat c.final * 2 ^ 25
    + boolNat c.fresh * 2 ^ 24 + boolNat c.busy * 2 ^ 23 + c.buf

/-- The HI half of a check register: 0 with ALG = 0 (Table 15.3). -/
def chkHi (c : ChkSet) (v : Nat) : Nat := if c.alg64 then half v 1 else 0

/-- CHECK block (Table 19.19). -/
def readCheck (s : State) (k o : Nat) : Nat :=
  let f := getFn s k
  if o = 0x2000 then flagWord f.chkFlags
  else if o = 0x2004 then occWord f.chkFlags 0
  else if 0x2000 ≤ o then 0
  else
    let c := getChk s k (o / 0x100)
    match o % 0x100 with
    | 0x00 => chkCtlWord c
    | 0x08 => half c.foldV 0
    | 0x0C => chkHi c c.foldV
    | 0x10 => half c.run 0
    | 0x14 => chkHi c c.run
    | 0x18 => half c.result 0
    | 0x1C => chkHi c c.result
    | _ => 0

/-- FAULT block (Table 19.20). -/
def readFault (s : State) (o : Nat) : Nat :=
  match o with
  | 0x80000 => s.fault.recFc
  | 0x80004 => faultRecHi s.fault
  | 0x80008 => s.fault.transCnt
  | 0x8000C => s.fault.lastCnt
  | 0x80010 => flagWord s.fault.flags
  | 0x80014 => occWord s.fault.flags 0
  | 0x80020 => flagWord s.pipeFlags
  | 0x80024 => occWord s.pipeFlags 0
  | 0x80030 => s.wdog.limit
  | 0x80034 => wdogStatus s.wdog
  | 0x80060 => s.train.updCtl.toNat
  | 0x80064 => s.train.commitLimit.toNat
  | 0x80070 => flagWord s.train.flags
  | 0x80074 => occWord s.train.flags 0
  | _ => if 0x80040 ≤ o ∧ o < 0x80060 then mget 0 s.wdog.entries ((o - 0x80040) / 4) else 0

/-- PERF block (Table 19.21). -/
def readPerf (s : State) (k o : Nat) : Nat :=
  match o with
  | 0x90000 => flagWord s.convFlags
  | 0x90004 => occWord s.convFlags 0
  | 0x90008 => selOf s k oConvSel
  | 0x90020 => selOf s k oStepSel
  | 0x90024 => wordAt (snapOf s k oStepSel) 0
  | 0x90028 => wordAt (snapOf s k oStepSel) 1
  | 0x9002C => wordAt (snapOf s k oStepSel) 2
  | 0x90030 => wordAt (snapOf s k oStepSel) 3
  | 0x90040 => selOf s k oDevSel
  | _ =>
    if 0x90010 ≤ o ∧ o < 0x90020 then wordAt (snapOf s k oConvSel) ((o - 0x90010) / 4)
    else if 0x90044 ≤ o ∧ o < 0x90060 then wordAt (snapOf s k oDevSel) ((o - 0x90044) / 4)
    else 0

/-- PERTURB block (Table 19.22). -/
def readPert (s : State) (k o : Nat) : Nat :=
  let p := s.pert
  let q := getPoint s (selOf s k oPtSel)
  match o with
  | 0xA0000 => boolNat p.en * 2 ^ 31 + boolNat (pertActive s) * 2 ^ 30 + p.owner
  | 0xA0004 => flagWord p.flags
  | 0xA0008 => occWord p.flags 0
  | 0xA0010 => half p.fc 0
  | 0xA0014 => half p.fc 1
  | 0xA0020 => selOf s k oPtSel
  | 0xA0024 => boolNat q.arm * 2 ^ 31 + q.kind * 2 ^ 28 + q.mode * 2 ^ 24
  | 0xA0028 => q.target
  | 0xA002C => q.value * 2 ^ 16 + q.duty
  | 0xA0030 => q.seed
  | 0xA0034 => q.count
  | 0xA0040 => boolNat p.lpEn * 2 ^ 31 + boolNat p.lpMode * 2 ^ 30 + p.lpPort
  | 0xA0044 => p.lpLanes
  | 0xA0048 => p.lpErrs
  | 0xA0050 => p.bistOp * 2 ^ 30 + p.bistKind * 2 ^ 28 + p.bistTarget
  | 0xA0054 => boolNat p.bistRun * 2 ^ 31 + boolNat p.bistFail * 2 ^ 30 + p.bistResult * 2 ^ 16 + p.bistRetired
  | _ => 0

/-- HANDLE_STATUS (Table 17.10): OWNED is known once the protected state is decrypted, in stage 2, and BOOTS once firmware
boots; both read 0 before, as after cold reset (R9). -/
def handleStatus (s : State) : Nat :=
  let h := s.handle
  boolNat (deviceReady s) * 2 ^ 31 + boolNat (h.latch == some 1) * 2 ^ 30 + boolNat (standbyOk s) * 2 ^ 29
    + boolNat h.update.isSome * 2 ^ 28 + boolNat (h.mkey.isSome && decide (3 ≤ h.stage)) * 2 ^ 27 + h.stage * 2 ^ 24 + h.takeovers * 2 ^ 16
    + (if h.stage = 0 then 0 else h.boots % 2 ^ 16)

/-- VERSION of the active image, and of the standby image or 0 (Table 17.11). -/
def fwActive (s : State) : Nat := match activeDie s with | some d => (runningImage s d).version | none => 0
def fwStandby (s : State) : Nat :=
  match activeDie s with
  | some d => if (getDie s (otherDie d)).role = .standby then (runningImage s (otherDie d)).version else 0
  | none => 0

/-- HANDLE block (Table 19.23). -/
def readHandle (s : State) (o : Nat) : Nat :=
  let h := s.handle
  match o with
  | 0xB0000 => handleStatus s
  | 0xB0004 => fwActive s
  | 0xB0008 => fwStandby s
  | 0xB0010 => flagWord h.flags
  | 0xB0014 => occWord h.flags 0
  | 0xB0020 => h.hmCmd
  | 0xB0024 => h.hmSeq * 2 ^ 24 + h.hmResult * 2 ^ 16 + boolNat h.hmBusy.isSome
  | 0xB0028 => half h.hmArg 0
  | 0xB002C => half h.hmArg 1
  | _ => if 0xB0040 ≤ o ∧ o < 0xB0080 then wordAt h.hmData ((o - 0xB0040) / 4) else 0

/-- The value of a word of BAR0 in a function's view (Table 11.3). -/
def bar0Value (s : State) (k o : Nat) : Nat :=
  if o % 4 ≠ 0 then 0
  else if o < 0x2000 then readGlobal s o
  else if o < 0x10000 then readHost s k o
  else if o < 0x20000 then readSession s k o
  else if 0x70000 ≤ o ∧ o < 0x80000 then readCheck s k (o - 0x70000)
  else if 0x90000 ≤ o ∧ o < 0xA0000 then readPerf s k o
  else if !fnIsPf k then 0
  else if o < 0x40000 then readTiers s k o
  else if o < 0x50000 then readLink s ((o - 0x40000) / 0x1000) (o % 0x1000)
  else if o < 0x60000 then readTorus s k o
  else if o < 0x70000 then readArb s k o
  else if o < 0x90000 then readFault s o
  else if o < 0xB0000 then readPert s k o
  else readHandle s o

/-- Whether an offset is the LO half of a pair whose value hardware changes while software reads it (R435). -/
def shadowedLo (o : Nat) : Bool :=
  (decide (0x40000 ≤ o) && decide (o < 0x46000) && o % 0x1000 == 0x20) || o == 0xA0010
    || (decide (0x70000 ≤ o) && decide (o < 0x72000) && (o % 0x100 == 0x10 || o % 0x100 == 0x18))

/-- A read of a word of BAR0 by a function: value and state after it. A read of LO captures the upper half, which the next
read returns if it is that of HI (R435). -/
def bar0Read (s : State) (k o : Nat) : Nat × State :=
  let f := getFn s k
  let v := match f.shadow with
    | some (lo, hi) => if o = lo + 4 then hi else bar0Value s k o
    | none => bar0Value s k o
  (v, setFn s k { f with shadow := if shadowedLo o then some (o, bar0Value s k (o + 4)) else none })

/-- The value of a register of the configuration space of function k. -/
def cfgValue (s : State) (k : Nat) (r : CfgReg) : Nat :=
  let c := (getFn s k).cfg
  let x := getPort s (fnPort k)
  let pf := fnIsPf k
  let bar (b0 b2 n : Nat) : Nat := if n < 2 then half (b0 + 4) n else if n < 4 then half (b2 + 4) (n - 2) else 0
  match r with
  | .command => 2 * boolNat c.mem + 4 * boolNat c.master
  | .deviceControl => if pf then 16 * boolNat c.relaxed + 2 ^ 5 * c.mps + 2 ^ 12 * c.mrrs else 0
  | .msixControl => vectorCount k - 1 + 2 ^ 14 * boolNat c.msixMask + 2 ^ 15 * boolNat c.msixEn
  | .aerControl => if pf then 2 ^ 5 + 2 ^ 6 * boolNat c.ecrcGen + 2 ^ 7 + 2 ^ 8 * boolNat c.ecrcChk else 0
  | .bar n => if pf then bar c.bar0 c.bar2 n.toNat else 0
  | .sriovControl => if pf then boolNat x.vfEnable + 8 * boolNat x.vfMem else 0
  | .numVfs => if pf then x.numVfs else 0
  | .vfBar n => if pf then bar x.vfBar0 x.vfBar2 n.toNat else 0

/-- Device ID, class code and TotalVFs of a function (Table 11.1). -/
def cfgDevice (k : Nat) : Nat := if fnIsPf k then 0x7064 else 0x7065
def cfgClass : Nat := 0x120000
def cfgTotalVfs : Nat := 64

/-- The value of a word of BAR2 (Table 11.5). -/
def bar2Value (s : State) (k o : Nat) : Nat :=
  let f := getFn s k
  let arr (bs : List Byte) (i : Nat) : Nat := fieldLE bs (4 * i) 4
  if o % 4 ≠ 0 then 0
  else if o = 0x000 then f.mbCmd
  else if o = 0x004 then f.mbSeq * 2 ^ 24 + f.mbResult * 2 ^ 16 + mbStateCode s f
  else if o = 0x008 then f.mbKey
  else if o = 0x00C then f.session
  else if o = 0x010 then (if f.session = 0 then 0 else f.domain)
  else if 0x020 ≤ o ∧ o < 0x040 then arr f.hostNonce ((o - 0x020) / 4)
  else if 0x040 ≤ o ∧ o < 0x060 then arr f.devNonce ((o - 0x040) / 4)
  else if 0x060 ≤ o ∧ o < 0x080 then arr f.hostMac ((o - 0x060) / 4)
  else if 0x080 ≤ o ∧ o < 0x0A0 then arr f.devMac ((o - 0x080) / 4)
  else if o = 0x140 then f.pwLen
  else 0

end Sys2Proof.Machine
end

