-- ==== Sys2Proof/Machine/TokenUnit.lean ====
section
/-! DEFINITION. TOK instructions, the arrival of tokens, FILL and the end of a QDELAY hold (R118, R124 to R127, R137, R163,
R419). -/

namespace Sys2Proof.Machine

/-- TOKEN_ARRIVAL (R137): a token reaches its core. -/
def execTokenArrival (t : Token) (s : State) : Res :=
  if !coreValid (tokDst t.hdr) then .refused .noSuchUnit else .next (arrive s t)

/-- QDELAY_RELEASE (R419): the hold time of a queue's token has passed; the token is checked and enters its queue. A
token that the queue cannot take stays in the hold. -/
def execQdelayRelease (core : BitVec 12) (q : BitVec 4) (s : State) : Res :=
  let key := holdKey core.toNat q.toNat
  match mget none s.pert.holds key with
  | none => .next s
  | some h =>
    if s.fc < h.2 then .next s
    else
      let s' := { s with pert := { s.pert with holds := merase s.pert.holds key } }
      let r := arriveNow s' h.1
      .next (if r = s' then s else r)

/-- FILL (R124, R125): the lane's oldest token moves into a free hardware entry, 3 ac of core access. -/
def execFill (core : BitVec 12) (q : BitVec 4) (s : State) : Res :=
  let c := core.toNat
  if !coreValid c then .refused .noSuchUnit
  else
    let co := getCore s c
    let qu := getQueue co q.toNat
    match qu.lane with
    | [] => .next s
    | t :: l =>
      if qu.hw.length < 8 then
        coreRead s c (.next (tokenMoved (setCore s c { setQueue co q.toNat { qu with hw := qu.hw ++ [t], lane := l } with
          accessAc := co.accessAc + 3 }) c))
      else .next s

/-- RECV (R127): the head becomes held if it carries the current tag, else the sequencer stops; a head of
another KIND is discarded as a sequence error (R118). -/
def execRecv (o : TokOp) (s : State) : Res :=
  atCore s o.core.toNat (fun i =>
    let c := o.core.toNat
    let q := o.q.toNat
    let qu := getQueue i.core q
    let p := getPart s ((partOfCluster s (coreCluster c)).getD 0)
    if qu.held || !foldAllows p i.core q then .refused .rejectedAtLoad
    else match qu.head with
      | none => .next (setCore s c (stopAt i.core (.recvEmpty q)))
      | some t =>
        if tokCtx t.hdr = i.n ∧ tokGen t.hdr = i.ctx.gen then
          if tokKind t.hdr = 0 then
            .next (tokenMoved (setCore s c (endBundle (setQueue i.core q { qu with held := true }) i.n i.ctx)) c)
          else .next (tokenMoved (setCore (coreSeqFault (seqError s c) c) c (tickCore (setQueue i.core q qu.pop) 1)) c)
        else .next (setCore s c (stopAt i.core (.recvEmpty q))))

/-- REL (R127): frees the held head. -/
def execRel (o : TokOp) (s : State) : Res :=
  atCore s o.core.toNat (fun i =>
    let c := o.core.toNat
    let qu := getQueue i.core o.q.toNat
    if !qu.held then .refused .rejectedAtLoad
    else .next (tokenMoved (setCore s c (endBundle (setQueue i.core o.q.toNat qu.pop) i.n i.ctx)) c))

/-- SEND (R127, R163): reads the tile and sends it with the coordinates and masks of the descriptor's position;
stops while the destination has no room (R91). -/
def execSend (o : TokOp) (s : State) : Res :=
  atCore s o.core.toNat (fun i =>
    let c := o.core.toNat
    let r := o.route.toNat
    let e := i.ctx.route r
    let d := i.ctx.desc o.opd.toNat
    if !reEn e || dFormat d != tokFmt (reFmt e) then .refused .rejectedAtLoad
    else
      let tc := tileCoord d (i.ctx.posOf o.opd.toNat) 0
      let t := routeToken i c r 0 (validRows d i.core.par tc - 1) (validCols d i.core.par tc - 1) tc.1 tc.2 0
        (readTile i.core d tc)
      if (routeRelay s i.ctx c r).isNone && queueFull s t.hdr then .next (setCore s c (stopAt i.core (.sendFull (reDst e) (reDq e))))
      else
        let x := i.ctx.useDesc i.core.par o.opd.toNat 1
        let x := { x with sendSeq := mset 0 x.sendSeq r ((mget 0 x.sendSeq r + 1) % 32) }
        let co := { i.core with accessAc := i.core.accessAc + (tokFmt (reFmt e)).width }
        coreRead s c (.next (emitToken c r x (setCore s c (endBundle co i.n x)) t)))

end Sys2Proof.Machine
end

