-- ==== Sys2Proof/Machine/Dispatch.lean ====
section
/-! DEFINITION. Dispatch: one arm per command, each one call of its meaning. -/

namespace Sys2Proof.Machine

/-- The effect of a command on everything but the queue. -/
def exec (i : Instr) (s : State) : Host.Outcome State Fault Refusal :=
  match i with
  | .coreNop core bHalf => Sys2Proof.Machine.execCoreNop core bHalf s
  | .eng o => Sys2Proof.Machine.execEng o s
  | .fadd o => Sys2Proof.Machine.execFadd o s
  | .fsub o => Sys2Proof.Machine.execFsub o s
  | .fmul o => Sys2Proof.Machine.execFmul o s
  | .fma o => Sys2Proof.Machine.execFma o s
  | .fmin o => Sys2Proof.Machine.execFmin o s
  | .fmax o => Sys2Proof.Machine.execFmax o s
  | .fcmplt o => Sys2Proof.Machine.execFcmplt o s
  | .fcmpeq o => Sys2Proof.Machine.execFcmpeq o s
  | .fsel o => Sys2Proof.Machine.execFsel o s
  | .frsum o => Sys2Proof.Machine.execFrsum o s
  | .frmax o => Sys2Proof.Machine.execFrmax o s
  | .iadd o => Sys2Proof.Machine.execIadd o s
  | .isub o => Sys2Proof.Machine.execIsub o s
  | .ineg o => Sys2Proof.Machine.execIneg o s
  | .iabs o => Sys2Proof.Machine.execIabs o s
  | .iand o => Sys2Proof.Machine.execIand o s
  | .ior o => Sys2Proof.Machine.execIor o s
  | .ixor o => Sys2Proof.Machine.execIxor o s
  | .ishl o => Sys2Proof.Machine.execIshl o s
  | .ishr o => Sys2Proof.Machine.execIshr o s
  | .imul o => Sys2Proof.Machine.execImul o s
  | .imad o => Sys2Proof.Machine.execImad o s
  | .icmplt o => Sys2Proof.Machine.execIcmplt o s
  | .icmpeq o => Sys2Proof.Machine.execIcmpeq o s
  | .cvt o => Sys2Proof.Machine.execCvt o s
  | .lmul o => Sys2Proof.Machine.execLmul o s
  | .ldiv o => Sys2Proof.Machine.execLdiv o s
  | .lsqrt o => Sys2Proof.Machine.execLsqrt o s
  | .lrsqrt o => Sys2Proof.Machine.execLrsqrt o s
  | .lexp o => Sys2Proof.Machine.execLexp o s
  | .llog o => Sys2Proof.Machine.execLlog o s
  | .ladd o => Sys2Proof.Machine.execLadd o s
  | .lsub o => Sys2Proof.Machine.execLsub o s
  | .lmax o => Sys2Proof.Machine.execLmax o s
  | .lmin o => Sys2Proof.Machine.execLmin o s
  | .lcmplt o => Sys2Proof.Machine.execLcmplt o s
  | .sigmoid o => Sys2Proof.Machine.execSigmoid o s
  | .silu o => Sys2Proof.Machine.execSilu o s
  | .geluT o => Sys2Proof.Machine.execGeluT o s
  | .softmax o => Sys2Proof.Machine.execSoftmax o s
  | .layernorm o => Sys2Proof.Machine.execLayernorm o s
  | .rmsnorm o => Sys2Proof.Machine.execRmsnorm o s
  | .gather o => Sys2Proof.Machine.execGather o s
  | .gatherDelivery core => Sys2Proof.Machine.execGatherDelivery core s
  | .scatterAdd o => Sys2Proof.Machine.execScatterAdd o s
  | .gwait o => Sys2Proof.Machine.execGwait o s
  | .imod o => Sys2Proof.Machine.execImod o s
  | .ioff o => Sys2Proof.Machine.execIoff o s
  | .iuniq o => Sys2Proof.Machine.execIuniq o s
  | .recv o => Sys2Proof.Machine.execRecv o s
  | .rel o => Sys2Proof.Machine.execRel o s
  | .send o => Sys2Proof.Machine.execSend o s
  | .tokenArrival t => Sys2Proof.Machine.execTokenArrival t s
  | .fill core q => Sys2Proof.Machine.execFill core q s
  | .loop core body count => Sys2Proof.Machine.execLoop core body count s
  | .yield core pinv preg => Sys2Proof.Machine.execYield core pinv preg s
  | .fold core pinv preg => Sys2Proof.Machine.execFold core pinv preg s
  | .pmark core pinv preg bundle => Sys2Proof.Machine.execPmark core pinv preg bundle s
  | .pany o => Sys2Proof.Machine.execPany o s
  | .pall o => Sys2Proof.Machine.execPall o s
  | .loadRegister o => Sys2Proof.Machine.execLoadRegister o s
  | .storeRegister o => Sys2Proof.Machine.execStoreRegister o s
  | .contextSwitch core => Sys2Proof.Machine.execContextSwitch core s
  | .contextLoadEnd part ctx first second => Sys2Proof.Machine.execContextLoadEnd part ctx first second s
  | .loadProceed part => Sys2Proof.Machine.execLoadProceed part s
  | .loadBlocked part ctx => Sys2Proof.Machine.execLoadBlocked part ctx s
  | .stallWatchdog part => Sys2Proof.Machine.execStallWatchdog part s
  | .drainEnd part => Sys2Proof.Machine.execDrainEnd part s
  | .wdogStatus f value => Sys2Proof.Machine.execWdogStatus f value s
  | .stepStart slot => Sys2Proof.Machine.execStepStart slot s
  | .quantiseTile slot tile => Sys2Proof.Machine.execQuantiseTile slot tile s
  | .updateSweep slot => Sys2Proof.Machine.execUpdateSweep slot s
  | .interlude slot => Sys2Proof.Machine.execInterlude slot s
  | .borderNop o => Sys2Proof.Machine.execBorderNop o s
  | .ldg o => Sys2Proof.Machine.execLdg o s
  | .ldw o => Sys2Proof.Machine.execLdw o s
  | .lds o => Sys2Proof.Machine.execLds o s
  | .stw o => Sys2Proof.Machine.execStw o s
  | .sts o => Sys2Proof.Machine.execSts o s
  | .borderFadd o => Sys2Proof.Machine.execBorderFadd o s
  | .borderFsub o => Sys2Proof.Machine.execBorderFsub o s
  | .borderFmul o => Sys2Proof.Machine.execBorderFmul o s
  | .borderFma o => Sys2Proof.Machine.execBorderFma o s
  | .fdiv o => Sys2Proof.Machine.execFdiv o s
  | .fsqrt o => Sys2Proof.Machine.execFsqrt o s
  | .frsqrt o => Sys2Proof.Machine.execFrsqrt o s
  | .borderFmax o => Sys2Proof.Machine.execBorderFmax o s
  | .borderFmin o => Sys2Proof.Machine.execBorderFmin o s
  | .fabs o => Sys2Proof.Machine.execFabs o s
  | .fsign o => Sys2Proof.Machine.execFsign o s
  | .fmulk o => Sys2Proof.Machine.execFmulk o s
  | .faddk o => Sys2Proof.Machine.execFaddk o s
  | .fmak o => Sys2Proof.Machine.execFmak o s
  | .ldr o => Sys2Proof.Machine.execLdr o s
  | .ldc o => Sys2Proof.Machine.execLdc o s
  | .sumsq o => Sys2Proof.Machine.execSumsq o s
  | .arsum o => Sys2Proof.Machine.execArsum o s
  | .acsum o => Sys2Proof.Machine.execAcsum o s
  | .kadd o => Sys2Proof.Machine.execKadd o s
  | .ksub o => Sys2Proof.Machine.execKsub o s
  | .kmul o => Sys2Proof.Machine.execKmul o s
  | .kdiv o => Sys2Proof.Machine.execKdiv o s
  | .ksqrt o => Sys2Proof.Machine.execKsqrt o s
  | .kmov o => Sys2Proof.Machine.execKmov o s
  | .kpowt o => Sys2Proof.Machine.execKpowt o s
  | .kacc o => Sys2Proof.Machine.execKacc o s
  | .gradReady slot => Sys2Proof.Machine.execGradReady slot s
  | .wcReadyPoll slot word data => Sys2Proof.Machine.execWcReadyPoll slot word data s
  | .hostTimeout slot => Sys2Proof.Machine.execHostTimeout slot s
  | .stepReady slot => Sys2Proof.Machine.execStepReady slot s
  | .prepare p => Sys2Proof.Machine.execPrepare p s
  | .repair slot m => Sys2Proof.Machine.execRepair slot m s
  | .commit p => Sys2Proof.Machine.execCommit p s
  | .abort p => Sys2Proof.Machine.execAbort p s
  | .peerLost slot => Sys2Proof.Machine.execPeerLost slot s
  | .go p => Sys2Proof.Machine.execGo p s
  | .reduce p => Sys2Proof.Machine.execReduce p s
  | .gatherPacket p => Sys2Proof.Machine.execGatherPacket p s
  | .grad p => Sys2Proof.Machine.execGrad p s
  | .shardReq p => Sys2Proof.Machine.execShardReq p s
  | .shard p => Sys2Proof.Machine.execShard p s
  | .relay p => Sys2Proof.Machine.execRelay p s
  | .move p => Sys2Proof.Machine.execMove p s
  | .fenceRound slot => Sys2Proof.Machine.execFenceRound slot s
  | .fencePass p => Sys2Proof.Machine.execFencePass p s
  | .switchPass p => Sys2Proof.Machine.execSwitchPass p s
  | .linkEnable f port => Sys2Proof.Machine.execLinkEnable f port s
  | .linkDisable f port => Sys2Proof.Machine.execLinkDisable f port s
  | .trainingDone port txBad rxBad => Sys2Proof.Machine.execTrainingDone port txBad rxBad s
  | .hello port m => Sys2Proof.Machine.execHello port m s
  | .helloEcho port m excess => Sys2Proof.Machine.execHelloEcho port m excess s
  | .helloTimer port => Sys2Proof.Machine.execHelloTimer port s
  | .blockReceive port a fecCorr fecUncorr badLanes => Sys2Proof.Machine.execBlockReceive port a fecCorr fecUncorr badLanes s
  | .resendTimeout port => Sys2Proof.Machine.execResendTimeout port s
  | .retrainReceived port m => Sys2Proof.Machine.execRetrainReceived port m s
  | .retrain f port => Sys2Proof.Machine.execRetrain f port s
  | .laneTestEnd port txBad rxBad => Sys2Proof.Machine.execLaneTestEnd port txBad rxBad s
  | .breakBlock port m => Sys2Proof.Machine.execBreakBlock port m s
  | .torusCoord f value => Sys2Proof.Machine.execTorusCoord f value s
  | .torusLen f value => Sys2Proof.Machine.execTorusLen f value s
  | .portReset port kind => Sys2Proof.Machine.execPortReset port kind s
  | .functionLevelReset f => Sys2Proof.Machine.execFunctionLevelReset f s
  | .d3hot f enter => Sys2Proof.Machine.execD3hot f enter s
  | .openMb f seq => Sys2Proof.Machine.execOpenMb f seq s
  | .proveMb f seq => Sys2Proof.Machine.execProveMb f seq s
  | .closeMb f seq => Sys2Proof.Machine.execCloseMb f seq s
  | .passwordMb f seq => Sys2Proof.Machine.execPasswordMb f seq s
  | .mbCommandEnd f => Sys2Proof.Machine.execMbCommandEnd f s
  | .authExpired f => Sys2Proof.Machine.execAuthExpired f s
  | .lockExpiry key => Sys2Proof.Machine.execLockExpiry key s
  | .ringEnable f value => Sys2Proof.Machine.execRingEnable f value s
  | .ringDisable f value => Sys2Proof.Machine.execRingDisable f value s
  | .fnRings f value => Sys2Proof.Machine.execFnRings f value s
  | .doorbellPoll f r => Sys2Proof.Machine.execDoorbellPoll f r s
  | .descriptorFetch ring r => Sys2Proof.Machine.execDescriptorFetch ring r s
  | .nop o => Sys2Proof.Machine.execNop o s
  | .loadPattern o => Sys2Proof.Machine.execLoadPattern o s
  | .evict o => Sys2Proof.Machine.execEvict o s
  | .switch o => Sys2Proof.Machine.execSwitch o s
  | .run o => Sys2Proof.Machine.execRun o s
  | .copyIn o => Sys2Proof.Machine.execCopyIn o s
  | .copyOut o => Sys2Proof.Machine.execCopyOut o s
  | .checkpoint o => Sys2Proof.Machine.execCheckpoint o s
  | .restore o => Sys2Proof.Machine.execRestore o s
  | .reshard o table => Sys2Proof.Machine.execReshard o table s
  | .fence o => Sys2Proof.Machine.execFence o s
  | .commitPolicy o => Sys2Proof.Machine.execCommitPolicy o s
  | .problem o => Sys2Proof.Machine.execProblem o s
  | .domainCreate o => Sys2Proof.Machine.execDomainCreate o s
  | .domainRemove o => Sys2Proof.Machine.execDomainRemove o s
  | .quotaSet o => Sys2Proof.Machine.execQuotaSet o s
  | .slotCreate o pat => Sys2Proof.Machine.execSlotCreate o pat s
  | .slotRemove o => Sys2Proof.Machine.execSlotRemove o s
  | .regionAlloc o => Sys2Proof.Machine.execRegionAlloc o s
  | .regionRelease o => Sys2Proof.Machine.execRegionRelease o s
  | .partCreate o => Sys2Proof.Machine.execPartCreate o s
  | .partResize o => Sys2Proof.Machine.execPartResize o s
  | .partRemove o => Sys2Proof.Machine.execPartRemove o s
  | .partMode o => Sys2Proof.Machine.execPartMode o s
  | .psSize o => Sys2Proof.Machine.execPsSize o s
  | .serviceEnter o => Sys2Proof.Machine.execServiceEnter o s
  | .serviceLeave o => Sys2Proof.Machine.execServiceLeave o s
  | .descriptorComplete ring => Sys2Proof.Machine.execDescriptorComplete ring s
  | .moderationTimer ring => Sys2Proof.Machine.execModerationTimer ring s
  | .tierRead o => Sys2Proof.Machine.execTierRead o s
  | .granuleZeroing tier gran => Sys2Proof.Machine.execGranuleZeroing tier gran s
  | .arbitration o => Sys2Proof.Machine.execArbitration o s
  | .withdraw cls index input => Sys2Proof.Machine.execWithdraw cls index input s
  | .hopCrc place first again => Sys2Proof.Machine.execHopCrc place first again s
  | .sramUncorrectable e => Sys2Proof.Machine.execSramUncorrectable e s
  | .heartbeat die received => Sys2Proof.Machine.execHeartbeat die received s
  | .selfTest core engine pass => Sys2Proof.Machine.execSelfTest core engine pass s
  | .dieFault die detect => Sys2Proof.Machine.execDieFault die detect s
  | .spareSubstitution die => Sys2Proof.Machine.execSpareSubstitution die s
  | .sparePowered o => Sys2Proof.Machine.execSparePowered o s
  | .rimFault rim detect => Sys2Proof.Machine.execRimFault rim detect s
  | .takeover => Sys2Proof.Machine.execTakeover s
  | .ackTimeout => Sys2Proof.Machine.execAckTimeout s
  | .standbySync die => Sys2Proof.Machine.execStandbySync die s
  | .requestUpdate image => Sys2Proof.Machine.execRequestUpdate image s
  | .rebootTimeout die => Sys2Proof.Machine.execRebootTimeout die s
  | .coldReset => Sys2Proof.Machine.execColdReset s
  | .coldResetRelease busSel ownN testN => Sys2Proof.Machine.execColdResetRelease busSel ownN testN s
  | .rootLock => Sys2Proof.Machine.execRootLock s
  | .latchDecision h0 => Sys2Proof.Machine.execLatchDecision h0 s
  | .bootStageEnd => Sys2Proof.Machine.execBootStageEnd s
  | .ready => Sys2Proof.Machine.execReady s
  | .sensorSample index value => Sys2Proof.Machine.execSensorSample index value s
  | .smbalert stage fault => Sys2Proof.Machine.execSmbalert stage fault s
  | .voutCommand rail mv => Sys2Proof.Machine.execVoutCommand rail mv s
  | .derate => Sys2Proof.Machine.execDerate s
  | .powerCorrection measured => Sys2Proof.Machine.execPowerCorrection measured s
  | .mgChallenge => Sys2Proof.Machine.execMgChallenge s
  | .mgAuth mac => Sys2Proof.Machine.execMgAuth mac s
  | .mgOwn mkey => Sys2Proof.Machine.execMgOwn mkey s
  | .keySet keyId role domain key => Sys2Proof.Machine.execKeySet keyId role domain key s
  | .keyClear keyId => Sys2Proof.Machine.execKeyClear keyId s
  | .pwSet password => Sys2Proof.Machine.execPwSet password s
  | .lockReset keyId => Sys2Proof.Machine.execLockReset keyId s
  | .boardSet r => Sys2Proof.Machine.execBoardSet r s
  | .boardGet => Sys2Proof.Machine.execBoardGet s
  | .timeMark time format => Sys2Proof.Machine.execTimeMark time format s
  | .logRead seq => Sys2Proof.Machine.execLogRead seq s
  | .keyExchange reqId => Sys2Proof.Machine.execKeyExchange reqId s
  | .finish valid => Sys2Proof.Machine.execFinish valid s
  | .setCertificate chain => Sys2Proof.Machine.execSetCertificate chain s
  | .hmLogRead f seq => Sys2Proof.Machine.execHmLogRead f seq s
  | .sensorRead f seq => Sys2Proof.Machine.execSensorRead f seq s
  | .logHead f seq => Sys2Proof.Machine.execLogHead f seq s
  | .hmCommandEnd => Sys2Proof.Machine.execHmCommandEnd s
  | .convSel f value => Sys2Proof.Machine.execConvSel f value s
  | .convClr f value => Sys2Proof.Machine.execConvClr f value s
  | .stepSel f value => Sys2Proof.Machine.execStepSel f value s
  | .devSel f value => Sys2Proof.Machine.execDevSel f value s
  | .quotaSel f value => Sys2Proof.Machine.execQuotaSel f value s
  | .tierSlotSel f value => Sys2Proof.Machine.execTierSlotSel f value s
  | .tierChSel f value => Sys2Proof.Machine.execTierChSel f value s
  | .layoutSel f value => Sys2Proof.Machine.execLayoutSel f value s
  | .arbSel f value => Sys2Proof.Machine.execArbSel f value s
  | .arbCtl f value => Sys2Proof.Machine.execArbCtl f value s
  | .ringSel f value => Sys2Proof.Machine.execRingSel f value s
  | .pairCommit f pair hi => Sys2Proof.Machine.execPairCommit f pair hi s
  | .cycSnap f value => Sys2Proof.Machine.execCycSnap f value s
  | .flagClear f block value => Sys2Proof.Machine.execFlagClear f block value s
  | .chkCtl f unit value => Sys2Proof.Machine.execChkCtl f unit value s
  | .chkRun f unit hi => Sys2Proof.Machine.execChkRun f unit hi s
  | .pertCtl f value => Sys2Proof.Machine.execPertCtl f value s
  | .ptSel f value => Sys2Proof.Machine.execPtSel f value s
  | .ptCtl f value => Sys2Proof.Machine.execPtCtl f value s
  | .ptSeed f value => Sys2Proof.Machine.execPtSeed f value s
  | .qdelayRelease core q => Sys2Proof.Machine.execQdelayRelease core q s
  | .lpbkCtl f value lanes errors => Sys2Proof.Machine.execLpbkCtl f value lanes errors s
  | .phyloop f tkind target => Sys2Proof.Machine.execPhyloop f tkind target s
  | .march f tkind target => Sys2Proof.Machine.execMarch f tkind target s
  | .bistEnd fails failed => Sys2Proof.Machine.execBistEnd fails failed s
  | .registerWrite f place offset value => Sys2Proof.Machine.execRegisterWrite f place offset value s
  | .thermTrip sensor => Sys2Proof.Machine.execThermTrip sensor s
  | .pllLoss => Sys2Proof.Machine.execPllLoss s
  | .sysrefLoss => Sys2Proof.Machine.execSysrefLoss s
  | .coreUv sensor => Sys2Proof.Machine.execCoreUv sensor s
  | .coreOv sensor => Sys2Proof.Machine.execCoreOv sensor s
  | .powerLoss => Sys2Proof.Machine.execPowerLoss s
  | .descriptorFill o => Sys2Proof.Machine.execDescriptorFill o s
  | .perstRelease port => Sys2Proof.Machine.execPerstRelease port s
  | .mbCmd f value => Sys2Proof.Machine.execMbCmd f value s
  | .hmCmd f value => Sys2Proof.Machine.execHmCmd f value s
  | .endSession => Sys2Proof.Machine.execEndSession s
  | .setEndpointId eid => Sys2Proof.Machine.execSetEndpointId eid s
  | .imageWritten die verified => Sys2Proof.Machine.execImageWritten die verified s
  | .tap o => Sys2Proof.Machine.execTap o s

end Sys2Proof.Machine
end

