-- ==== Sys2Proof/Machine/Step.lean ====
section
/-! DEFINITION. One step: the command at the front of the queue, or one idle fc. -/

namespace Sys2Proof.Machine

/-- Take the command at the front of the queue and answer its effect on the state with the rest of the queue;
with an empty queue one fc passes in which no command takes effect (log entry 15). -/
def step (s : State) : Host.Outcome State Fault Refusal :=
  match s.pending with
  | [] => .next (idleFc s)
  | c :: cs => exec c { s with pending := cs }

/-- The state with the command a word spells put at the front of its queue. -/
def State.withFetchWord (s : State) (nbits w : Nat) : State :=
  match decodeTableWord nbits w with
  | none => s
  | some c => { s with pending := c :: s.pending }

end Sys2Proof.Machine
end

