-- ==== Sys2Proof/Safety.lean ====
section
/-! DEFINITION. What counts as a safe state and a safe run, in the terms the statements use. -/

namespace Sys2Proof.Safety

open Sys2Proof Sys2Proof.Machine

/-- The byte store of both DRAM tiers is in the one canonical form: addresses strictly rising, no listed byte equal to the
0 that an unlisted address reads as. -/
def MemCanonical (s : State) : Prop := mwf 0 s.tiers.hbm = true ∧ mwf 0 s.tiers.lp = true

/-- At most one Handle die is active, and it is the one that holds the ownership latch (R391, R394). -/
def OneActive (s : State) : Prop := ∀ d, (getDie s d).role = .active → s.handle.latch = some d

/-- What every step keeps. -/
structure Inv (s : State) : Prop where
  mem    : MemCanonical s
  active : OneActive s

/-- A command answers a next state. -/
def Completes (c : Instr) (s : State) : Prop := ∃ t, exec c s = .next t

/-- A run that neither faults nor is refused: every one of its first `k` steps answers a next state. -/
def RunsFor (k : Nat) (s : State) : Prop := ∃ t, Host.Core.run Sys2Proof.core k s = .next t

end Sys2Proof.Safety
end

