-- ==== Sys2Proof/WellFormed.lean ====
section
/-! DEFINITION. Well-formed commands: each unit that a command names is one the package has. -/

namespace Sys2Proof

/-- A core address that names a core (R16): POS 0 to 9, clusters 0 to 3 on the even dies. -/
def coreOk (c : BitVec 12) : Bool :=
  let pos := c.toNat / 64 % 16
  decide (c.toNat < 4096) && decide (pos ≤ 9) && (!decide (8 ≤ pos) || decide (c.toNat / 8 % 8 ≤ 3))

/-- A sender of tokens (R117, Table 06.4): a core, a stream of a rim die (POS 0xA), a collective stream of one of the two port
dies (0xB), or the partition controller (0xC, every other bit 0). -/
def srcOk (c : BitVec 12) : Bool :=
  let pos := c.toNat / 64 % 16
  coreOk c || pos == 0xA || (pos == 0xB && decide (c.toNat / 1024 = 0) && decide (c.toNat / 8 % 8 < 2)) || decide (c.toNat = 0xC * 64)

/-- An engine of a core: cores of even dies have two (R84). -/
def engineOk (c : BitVec 12) (e : BitVec 2) : Bool :=
  coreOk c && !(decide (8 ≤ c.toNat / 64 % 16) && decide (2 ≤ e.toNat))

/-- The PF or one of the 64 VFs of a port (R257). -/
def FnAddr.ok (f : FnAddr) : Bool := decide (f.fn.toNat ≤ 64)

/-- A Wale port: 0 to 5 (R320). -/
def portOk (p : PortNo) : Bool := decide (p.toNat < 6)

/-- A compute die, coded as FAULT_REC_HI.DIE (Table 16.6). -/
def dieOk (d : BitVec 6) : Bool := decide (d.toNat < 48)

/-- An arbiter of Table 15.6. -/
def arbOk (cls : BitVec 4) (index : BitVec 12) : Bool := decide (index.toNat < [512, 64, 384, 48].getD cls.toNat 0)

/-- A granule of the HBM3E tier (1) or the LPDDR5X tier (2) (R214, R216). -/
def granOk (tier : BitVec 2) (g : BitVec 19) : Bool :=
  (tier.toNat == 1 && decide (g.toNat < 294912)) || (tier.toNat == 2 && decide (g.toNat < 524288))

/-- A hop of the package. -/
def HopPlace.ok : HopPlace → Bool
  | .bond d => dieOk d
  | .slath _ => true
  | .bridge _ => true

/-- A word of an SRAM of a core or a Slath. -/
def SramWord.ok : SramWord → Bool
  | .store c _ => coreOk c
  | .acc c e _ => engineOk c e
  | .context c _ _ => coreOk c
  | .cache _ g _ => decide (g.toNat < 768)

/-- A flag register of the package. -/
def FlagBlock.ok : FlagBlock → Bool
  | .link p => portOk p
  | .cyc | .ring | .host | .quota | .tier | .torus | .coll | .chk | .fault | .pipe | .train | .conv | .pert | .handle => true

/-- Whether every unit a command names exists. -/
def Instr.wf : Instr → Bool
  | .coreNop core _ | .gatherDelivery core | .fill core _ | .loop core _ _ | .yield core _ _ | .fold core _ _ |
    .pmark core _ _ _ | .contextSwitch core | .qdelayRelease core _ => coreOk core
  | .eng o => engineOk o.core o.eng
  | .fadd o | .fsub o | .fmul o | .fma o | .fmin o | .fmax o | .fcmplt o | .fcmpeq o | .fsel o | .frsum o |
    .frmax o | .iadd o | .isub o | .ineg o | .iabs o | .iand o | .ior o | .ixor o | .ishl o | .ishr o | .imul o |
    .imad o | .icmplt o | .icmpeq o | .cvt o | .lmul o | .ldiv o | .lsqrt o | .lrsqrt o | .lexp o | .llog o |
    .ladd o | .lsub o | .lmax o | .lmin o | .lcmplt o | .sigmoid o | .silu o | .geluT o | .softmax o | .layernorm o |
    .rmsnorm o | .gather o | .scatterAdd o | .gwait o | .imod o | .ioff o | .iuniq o | .recv o | .rel o | .send o |
    .pany o | .pall o | .loadRegister o | .storeRegister o => coreOk o.core
  | .tokenArrival t => coreOk (t.hdr.extractLsb' 40 12) && srcOk (t.hdr.extractLsb' 52 12)
  | .contextLoadEnd _ _ _ _ | .loadProceed _ | .loadBlocked _ _ | .stallWatchdog _ | .drainEnd _ | .stepStart _ |
    .quantiseTile _ _ | .updateSweep _ | .interlude _ | .borderNop _ | .ldg _ | .ldw _ | .lds _ | .stw _ | .sts _ |
    .borderFadd _ | .borderFsub _ | .borderFmul _ | .borderFma _ | .fdiv _ | .fsqrt _ | .frsqrt _ | .borderFmax _ |
    .borderFmin _ | .fabs _ | .fsign _ | .fmulk _ | .faddk _ | .fmak _ | .ldr _ | .ldc _ | .sumsq _ | .arsum _ |
    .acsum _ | .kadd _ | .ksub _ | .kmul _ | .kdiv _ | .ksqrt _ | .kmov _ | .kpowt _ | .kacc _ | .gradReady _ |
    .wcReadyPoll _ _ _ | .hostTimeout _ | .stepReady _ | .prepare _ | .repair _ _ | .commit _ | .abort _ |
    .peerLost _ | .go _ | .reduce _ | .gatherPacket _ | .grad _ | .shardReq _ | .shard _ | .relay _ | .move _ |
    .fenceRound _ | .fencePass _ | .switchPass _ | .portReset _ _ | .lockExpiry _ | .descriptorFetch _ _ | .nop _ |
    .loadPattern _ | .evict _ | .switch _ | .run _ | .copyIn _ | .copyOut _ | .checkpoint _ | .restore _ |
    .reshard _ _ | .fence _ | .commitPolicy _ | .problem _ | .domainCreate _ | .domainRemove _ | .quotaSet _ |
    .slotCreate _ _ | .slotRemove _ | .regionAlloc _ | .regionRelease _ | .partCreate _ | .partResize _ |
    .partRemove _ | .partMode _ | .psSize _ | .serviceEnter _ | .serviceLeave _ | .descriptorComplete _ |
    .moderationTimer _ | .rimFault _ _ | .takeover | .ackTimeout | .standbySync _ | .requestUpdate _ |
    .rebootTimeout _ | .coldReset | .coldResetRelease _ _ _ | .rootLock | .latchDecision _ | .bootStageEnd | .ready |
    .smbalert _ _ | .voutCommand _ _ | .derate | .powerCorrection _ | .mgChallenge | .mgAuth _ | .mgOwn _ |
    .keySet _ _ _ _ | .keyClear _ | .pwSet _ | .lockReset _ | .boardSet _ | .boardGet | .timeMark _ _ | .logRead _ |
    .keyExchange _ | .finish _ | .setCertificate _ | .hmCommandEnd | .bistEnd _ _ | .thermTrip _ | .pllLoss |
    .sysrefLoss | .coreUv _ | .coreOv _ | .powerLoss | .descriptorFill _ | .perstRelease _ | .endSession |
    .setEndpointId _ | .imageWritten _ _ | .tap _ => true
  | .wdogStatus f _ | .torusCoord f _ | .torusLen f _ | .functionLevelReset f | .d3hot f _ | .openMb f _ |
    .proveMb f _ | .closeMb f _ | .passwordMb f _ | .mbCommandEnd f | .authExpired f | .ringEnable f _ |
    .ringDisable f _ | .fnRings f _ | .doorbellPoll f _ | .hmLogRead f _ | .sensorRead f _ | .logHead f _ |
    .convSel f _ | .convClr f _ | .stepSel f _ | .devSel f _ | .quotaSel f _ | .tierSlotSel f _ | .tierChSel f _ |
    .layoutSel f _ | .arbSel f _ | .arbCtl f _ | .ringSel f _ | .pairCommit f _ _ | .cycSnap f _ | .chkCtl f _ _ |
    .chkRun f _ _ | .pertCtl f _ | .ptSel f _ | .ptCtl f _ | .ptSeed f _ | .lpbkCtl f _ _ _ | .phyloop f _ _ |
    .march f _ _ | .registerWrite f _ _ _ | .mbCmd f _ | .hmCmd f _ => f.ok
  | .linkEnable f port | .linkDisable f port | .retrain f port => f.ok && portOk port
  | .trainingDone port _ _ | .hello port _ | .helloEcho port _ _ | .helloTimer port | .blockReceive port _ _ _ _ |
    .resendTimeout port | .retrainReceived port _ | .laneTestEnd port _ _ | .breakBlock port _ => portOk port
  | .tierRead o => granOk o.tier o.gran
  | .granuleZeroing tier gran => granOk tier gran
  | .arbitration o => arbOk o.cls o.index
  | .withdraw cls index _ => arbOk cls index
  | .hopCrc place _ _ => place.ok
  | .sramUncorrectable e => e.word.ok
  | .heartbeat die _ => decide (die.toNat < 0x40)
  | .selfTest core engine _ => engineOk core engine
  | .dieFault die _ | .spareSubstitution die => dieOk die
  | .sparePowered o => dieOk o.die
  | .sensorSample index _ => decide (index.toNat ≤ 293)
  | .flagClear f block _ => f.ok && block.ok

end Sys2Proof
end

