-- ==== Sys2Proof/Certificates/Slice0/Obligations.lean ====
section
/-! DEFINITION. The statements about the model: what each command does where it completes, what it leaves unchanged, and the
rules of the whole machine. -/

namespace Sys2Proof.Claims

open Sys2Proof Sys2Proof.Machine

/-! ### What the statements share -/

/-- Core `c` exists and its sequencer can issue; `i` is what it issues from (R88, R113, R129, R149). -/
def Issues (s : State) (c : BitVec 12) (i : Issue) : Prop := coreValid c.toNat = true ∧ issue? s c.toNat = some i

/-- `t` differs from `s` in core `c` alone. -/
def CoreOnly (s t : State) (c : Nat) : Prop :=
  t = { s with cores := t.cores } ∧ ∀ d, d ≠ c → getCore t d = getCore s d

/-- Core `c` can issue an instruction of the A half: no other has issued in this bundle (R88). -/
def AIssues (s : State) (c : BitVec 12) (i : Issue) : Prop := Issues s c i ∧ i.core.aDone = false

/-- The events `ev` of converter unit `u` are raised: in its own sticky flags, and in the package's flags and counts (R35). -/
def Raises (s t : State) (u : Nat) (ev : Conv4) : Prop :=
  t.convFlags = (raiseConv s u ev).convFlags ∧ t.convUnits = (raiseConv s u ev).convUnits

/-- `t` differs from `s` in core `c` and the conversion flags alone. -/
def CoreAndFlags (s t : State) (c : Nat) : Prop :=
  t = { s with cores := t.cores, convFlags := t.convFlags, convUnits := t.convUnits } ∧
  ∀ d, d ≠ c → getCore t d = getCore s d

end Sys2Proof.Claims

open Sys2Proof Sys2Proof.Machine Sys2Proof.Claims


/-! ### Lane instructions (R90, R93 to R102) -/

namespace Sys2Proof.Claims

/-- The active lanes of a lane instruction, ascending, each with its result and whether a source lane is masked. -/
def laneResults (srcs : LaneOp → List (BitVec 6)) (f : LaneOp → Nat → Nat → Nat → Bool → LaneRes) (o : LaneOp) (x : Ctx) :
    List (Nat × LaneRes × Bool) :=
  ((List.range (coreLanes o.core.toNat)).filter (fun l => x.active o.pinv o.preg.toNat l)).map (fun l =>
    (l, f o (x.lane o.va.toNat l) (x.lane o.vb.toNat l) (x.lane o.vc.toNat l) (x.pred o.pd.toNat l),
      (srcs o).any (fun r => x.laneMasked r.toNat l)))

/-- What a lane instruction does that a core can issue: its results are in flight for `lat` ac, to VD or PD; the events of
the unmasked lanes are counted in the context and raised in the core's and the package's flags; nothing else changes. In a
bundle whose A half has issued it does nothing. -/
def LaneRow (row : LaneOp → Instr) (k : LaneClass) (lat : Nat) (toPred : Bool) (srcs : LaneOp → List (BitVec 6))
    (f : LaneOp → Nat → Nat → Nat → Bool → LaneRes) : Prop :=
  (∀ (o : LaneOp) (s : State) (i : Issue), AIssues s o.core i → laneFormOk k o = true →
    let rs := laneResults srcs f o i.ctx
    let c := o.core.toNat
    ∃ t, exec (row o) s = .next t ∧ CoreAndFlags s t c ∧ Raises s t c (laneEvents rs) ∧
      (∀ n, n ≠ i.n → getCtx (getCore t c) n = getCtx i.core n) ∧
      getCtx (getCore t c) i.n = { i.ctx with conv := i.ctx.conv.add (laneEvents rs) } ∧
      getCore t c = { i.core with
        ctxs := (getCore t c).ctxs, aDone := true,
        inflight := i.core.inflight ++ (if rs.isEmpty then [] else
          [{ due := i.core.ac + lat, ctx := i.n, pred := toPred, reg := if toPred then o.pd.toNat else o.vd.toNat, vals := rs.map (fun r => (r.1, r.2.1.code, r.2.2)) }]) }) ∧
  (∀ (o : LaneOp) (s : State) (i : Issue), Issues s o.core i → laneFormOk k o = true → i.core.aDone = true → exec (row o) s = .next s)

/-- A lane form that no loaded pattern holds is refused. -/
def LaneRejected (row : LaneOp → Instr) (k : LaneClass) : Prop :=
  ∀ (o : LaneOp) (s : State), coreValid o.core.toNat = true → laneFormOk k o = false →
    exec (row o) s = .refused .rejectedAtLoad

end Sys2Proof.Claims

/-- Class VF (R90, R93, R96): FP32 arithmetic, one rounding each, latency 4 ac; minimum, maximum, comparisons and select, 2 ac. -/
def Sys2Proof.Claims.FloatLanes : Prop :=
  LaneRow .fadd .vf 4 false srcAB (fun o a b _ _ => .ofCvt (fpAdd (operandA o a) (operandB o b))) ∧
  LaneRow .fsub .vf 4 false srcAB (fun o a b _ _ => .ofCvt (fpSub (operandA o a) (operandB o b))) ∧
  LaneRow .fmul .vf 4 false srcAB (fun o a b _ _ => .ofCvt (fpMul (operandA o a) (operandB o b))) ∧
  LaneRow .fma .vf 4 false srcABC (fun o a b c _ => .ofCvt (fpFma (operandA o a) (operandB o b) c)) ∧
  LaneRow .fmin .vf 2 false srcAB (fun o a b _ _ => { code := fpMin (operandA o a) (operandB o b) }) ∧
  LaneRow .fmax .vf 2 false srcAB (fun o a b _ _ => { code := fpMax (operandA o a) (operandB o b) }) ∧
  LaneRow .fcmplt .vf 2 true srcAB (fun o a b _ _ => .ofBool (fpLt (operandA o a) (operandB o b))) ∧
  LaneRow .fcmpeq .vf 2 true srcAB (fun o a b _ _ => .ofBool (fpEq (operandA o a) (operandB o b))) ∧
  LaneRow .fsel .vf 2 false srcAB (fun o a b _ p => { code := if p then operandA o a else operandB o b })

/-- Class VI (R39, R90, R93, R98): the exact integer result put into the lane under IOV; bitwise operations, shifts by
operand B modulo the lane width, and comparisons to a predicate. -/
def Sys2Proof.Claims.IntegerLanes : Prop :=
  LaneRow .iadd .vi 1 false srcAB (fun o a b _ _ => intoLane o (intOperandA o a + intOperandB o b)) ∧
  LaneRow .isub .vi 1 false srcAB (fun o a b _ _ => intoLane o (intOperandA o a - intOperandB o b)) ∧
  LaneRow .ineg .vi 1 false srcA (fun o a _ _ _ => intoLane o (-intOperandA o a)) ∧
  LaneRow .iabs .vi 1 false srcA (fun o a _ _ _ => intoLane o (intOperandA o a).natAbs) ∧
  LaneRow .iand .vi 1 false srcAB (fun o a b _ _ => bitsLane o (· &&& ·) (intOperandA o a) (intOperandB o b)) ∧
  LaneRow .ior .vi 1 false srcAB (fun o a b _ _ => bitsLane o (· ||| ·) (intOperandA o a) (intOperandB o b)) ∧
  LaneRow .ixor .vi 1 false srcAB (fun o a b _ _ => bitsLane o (· ^^^ ·) (intOperandA o a) (intOperandB o b)) ∧
  LaneRow .ishl .vi 1 false srcAB (fun o a b _ _ => wrapLane o (intOperandA o a * 2 ^ shiftCount o b)) ∧
  LaneRow .ishr .vi 1 false srcAB (fun o a b _ _ => wrapLane o (intOperandA o a / 2 ^ shiftCount o b)) ∧
  LaneRow .imul .vi 3 false srcAB (fun o a b _ _ => intoLane o (intOperandA o a * intOperandB o b)) ∧
  LaneRow .imad .vi 3 false srcABC
    (fun o a b c _ => intoLane o (intOperandA o a * intOperandB o b + signedVal (viWidth o) c)) ∧
  LaneRow .icmplt .vi 1 true srcAB (fun o a b _ _ => .ofBool (decide (intOperandA o a < intOperandB o b))) ∧
  LaneRow .icmpeq .vi 1 true srcAB (fun o a b _ _ => .ofBool (decide (intOperandA o a = intOperandB o b)))

/-- Classes VL and VC (R90, R93, R99 to R102): log-format arithmetic of even cores, and format conversion. -/
def Sys2Proof.Claims.LogLanes : Prop :=
  LaneRow .cvt .vc 2 false srcA (fun o a _ _ _ => cvtLane o a) ∧
  LaneRow .lmul .vl 1 false srcAB (fun o a b _ _ => .ofCvt (lMul (logOperandA o a) (logOperandB o b))) ∧
  LaneRow .ldiv .vl 1 false srcAB (fun o a b _ _ => .ofCvt (lDiv (logOperandA o a) (logOperandB o b))) ∧
  LaneRow .lsqrt .vl 1 false srcA (fun o a _ _ _ => .ofCvt (lSqrt (logOperandA o a))) ∧
  LaneRow .lrsqrt .vl 1 false srcA (fun o a _ _ _ => .ofCvt (lRsqrt (logOperandA o a))) ∧
  LaneRow .lexp .vl 1 false srcA (fun o a _ _ _ => .ofCvt (lExp (operandA o a))) ∧
  LaneRow .llog .vl 3 false srcA (fun o a _ _ _ => .ofCvt (lLog (logOperandA o a))) ∧
  LaneRow .ladd .vl 3 false srcAB (fun o a b _ _ => .ofCvt (lAdd (logOperandA o a) (logOperandB o b))) ∧
  LaneRow .lsub .vl 3 false srcAB (fun o a b _ _ => .ofCvt (lSub (logOperandA o a) (logOperandB o b))) ∧
  LaneRow .lmax .vl 1 false srcAB (fun o a b _ _ => .ofCvt (lMax (logOperandA o a) (logOperandB o b))) ∧
  LaneRow .lmin .vl 1 false srcAB (fun o a b _ _ => .ofCvt (lMin (logOperandA o a) (logOperandB o b))) ∧
  LaneRow .lcmplt .vl 1 true srcAB (fun o a b _ _ =>
    { code := boolNat (lCmpLt (logOperandA o a) (logOperandB o b)).1, nar := (lCmpLt (logOperandA o a) (logOperandB o b)).2 })

/-- Forms of lane instructions that a check at load rejects (R39, R84, R94, R98, R99) never issue; the model refuses them by
name. -/
def Sys2Proof.Claims.LaneFormsRejected : Prop :=
  LaneRejected .fadd .vf ∧ LaneRejected .fsub .vf ∧ LaneRejected .fmul .vf ∧ LaneRejected .fma .vf ∧
  LaneRejected .fmin .vf ∧ LaneRejected .fmax .vf ∧ LaneRejected .fcmplt .vf ∧ LaneRejected .fcmpeq .vf ∧
  LaneRejected .fsel .vf ∧ LaneRejected .frsum .vf ∧ LaneRejected .frmax .vf ∧
  LaneRejected .iadd .vi ∧ LaneRejected .isub .vi ∧ LaneRejected .ineg .vi ∧ LaneRejected .iabs .vi ∧
  LaneRejected .iand .vi ∧ LaneRejected .ior .vi ∧ LaneRejected .ixor .vi ∧ LaneRejected .ishl .vi ∧
  LaneRejected .ishr .vi ∧ LaneRejected .imul .vi ∧ LaneRejected .imad .vi ∧ LaneRejected .icmplt .vi ∧
  LaneRejected .icmpeq .vi ∧ LaneRejected .cvt .vc ∧
  LaneRejected .lmul .vl ∧ LaneRejected .ldiv .vl ∧ LaneRejected .lsqrt .vl ∧ LaneRejected .lrsqrt .vl ∧
  LaneRejected .lexp .vl ∧ LaneRejected .llog .vl ∧ LaneRejected .ladd .vl ∧ LaneRejected .lsub .vl ∧
  LaneRejected .lmax .vl ∧ LaneRejected .lmin .vl ∧ LaneRejected .lcmplt .vl

namespace Sys2Proof.Claims

/-- What FRSUM and FRMAX do: the root of the pairwise tree over all lanes goes to every active lane of VD; its SAT events count where a
lane is active. In a bundle whose A half has issued it does nothing. -/
def ReduceRow (row : LaneOp → Instr) (lat : LaneOp → Nat) (f : SumNode → SumNode → SumNode) : Prop :=
  (∀ (o : LaneOp) (s : State) (i : Issue), AIssues s o.core i → laneFormOk .vf o = true →
    let c := o.core.toNat
    let leaves := (List.range (coreLanes c)).map (fun l =>
      ({ code := operandA o (i.ctx.lane o.va.toNat l), masked := i.ctx.laneMasked o.va.toNat l, sats := 0 } : SumNode))
    let root := (treeLevelsOf f (laneLog c) leaves).headD { code := 0, masked := false, sats := 0 }
    let act := (List.range (coreLanes c)).filter (fun l => i.ctx.active o.pinv o.preg.toNat l)
    let ev : Conv4 := { sat := if act.isEmpty then 0 else root.sats }
    ∃ t, exec (row o) s = .next t ∧ CoreAndFlags s t c ∧ Raises s t c ev ∧
      (∀ n, n ≠ i.n → getCtx (getCore t c) n = getCtx i.core n) ∧
      getCtx (getCore t c) i.n = { i.ctx with conv := i.ctx.conv.add ev } ∧
      getCore t c = { i.core with
        ctxs := (getCore t c).ctxs, aDone := true,
        inflight := i.core.inflight ++ (if act.isEmpty then [] else
          [{ due := i.core.ac + lat o, ctx := i.n, pred := false, reg := o.vd.toNat, vals := act.map (fun l => (l, root.code, root.masked)) }]) }) ∧
  (∀ (o : LaneOp) (s : State) (i : Issue), Issues s o.core i → laneFormOk .vf o = true → i.core.aDone = true → exec (row o) s = .next s)

/-- What PANY and PALL do: all ones or all zeros to PD after 2 ac where lane 0's predicate bit is 1; the bundle ends. -/
def PredRow (row : PredOp → Instr) (f : List Bool → Bool) : Prop :=
  ∀ (o : PredOp) (s : State) (i : Issue), Issues s o.core i →
    let c := o.core.toNat
    let ls := List.range (coreLanes c)
    let v := boolNat (f (ls.map (fun l => i.ctx.pred o.ps.toNat l)))
    let res : InFlight := { due := i.core.ac + 2, ctx := i.n, pred := true, reg := o.pd.toNat, vals := ls.map (fun l => (l, v, false)) }
    let co := if i.ctx.active o.pinv o.preg.toNat 0 then { i.core with inflight := i.core.inflight ++ [res] } else i.core
    ∃ t, exec (row o) s = .next t ∧ CoreOnly s t c ∧ getCore t c = endBundle co i.n i.ctx

end Sys2Proof.Claims

/-- Reductions across lanes (R94, R97): a fixed pairwise tree of log2(lanes) levels, and the reductions of a predicate. -/
def Sys2Proof.Claims.LaneReductions : Prop :=
  ReduceRow .frsum (fun o => 4 * laneLog o.core.toNat) sumNode ∧
  ReduceRow .frmax (fun o => 2 * laneLog o.core.toNat)
    (fun a b => { code := fpMax a.code b.code, masked := a.masked && b.masked, sats := 0 }) ∧
  PredRow .pany (fun l => l.any id) ∧ PredRow .pall (fun l => l.all id)

/-- A result is readable once its latency has passed, and not before (R90): the register keeps its old lane until the ac in
which the result is due. Of two results for one register it holds the one that becomes available last, whichever issued first. -/
def Sys2Proof.Claims.ResultLatency : Prop :=
  (∀ (co : CoreSt) (f : InFlight) (k l v : Nat) (m : Bool),
    co.inflight = [f] → f.pred = false → f.vals = [(l, v, m)] → l < 128 →
    (co.ac + k < f.due → ∀ n, getCtx (tickCore co k) n = getCtx co n) ∧
    (f.due ≤ co.ac + k → (tickCore co k).inflight = [] ∧ (getCtx (tickCore co k) f.ctx).lane f.reg l = v ∧
      (∀ j, j < 128 → j ≠ l → (getCtx (tickCore co k) f.ctx).lane f.reg j = (getCtx co f.ctx).lane f.reg j))) ∧
  (∀ (co : CoreSt) (f g : InFlight) (k l v w : Nat) (m m' : Bool),
    co.inflight = [f, g] → f.pred = false → g.pred = false → f.ctx = g.ctx → f.reg = g.reg → f.vals = [(l, v, m)] →
    g.vals = [(l, w, m')] → l < 128 → f.due ≤ co.ac + k → g.due ≤ co.ac + k →
    (getCtx (tickCore co k) f.ctx).lane f.reg l = (if f.due ≤ g.due then w else v))

namespace Sys2Proof.Claims

/-- What a special-function instruction does: the result row replaces the row at VD, in the lanes whose predicate bit is 1;
the operands of the operation move on, and the core issues nothing until the time of Table 05.8 has passed; the bundle's
A half has issued. In a bundle whose A half has issued before it does nothing. -/
def SfuRow (row : LaneOp → Instr) (op : SfuOp) (gamma beta : Bool) : Prop :=
  (∀ (o : LaneOp) (s : State) (i : Issue), AIssues s o.core i → coreEven o.core.toNat = true → o.iov = 0 →
    let n := o.imm.toNat + 1
    let xs := rowElems i.core i.ctx o.va.toNat n
    let gs := if gamma then rowElems i.core i.ctx o.vb.toNat n else []
    let bs := if beta then rowElems i.core i.ctx o.vc.toNat n else []
    let co := writeRow o i.ctx i.core (sfuRow op xs gs bs (i.ctx.lane 63 0))
    let x := (i.ctx.useDesc i.core.par o.va.toNat 1).useDesc i.core.par o.vd.toNat 1
    let x := if gamma then x.useDesc i.core.par o.vb.toNat 1 else x
    let x := if beta then x.useDesc i.core.par o.vc.toNat 1 else x
    ∃ t, exec (row o) s = .next t ∧ CoreOnly s t o.core.toNat ∧
      getCore t o.core.toNat = tickCore { setCtx co i.n x with aDone := true } (sfuTime op n) ∧ co = { i.core with store := co.store }) ∧
  (∀ (o : LaneOp) (s : State) (i : Issue), Issues s o.core i → coreEven o.core.toNat = true → o.iov = 0 → i.core.aDone = true →
    exec (row o) s = .next s)

/-- A special-function instruction of a dense core, or with IOV not 0, is rejected at load (R84, R88). -/
def SfuRejected (row : LaneOp → Instr) : Prop :=
  ∀ (o : LaneOp) (s : State), coreValid o.core.toNat = true → coreEven o.core.toNat = false ∨ o.iov ≠ 0 →
    exec (row o) s = .refused .rejectedAtLoad

end Sys2Proof.Claims

/-- Special functions (R84, R103 to R105): even cores only; they raise no event, and the B half of their bundle issues after their time (log entries 119, 120:
the model's choice). -/
def Sys2Proof.Claims.SpecialFunctions : Prop :=
  SfuRow .sigmoid .sigmoid false false ∧ SfuRow .silu .silu false false ∧ SfuRow .geluT .geluT false false ∧
  SfuRow .softmax .softmax false false ∧ SfuRow .layernorm .layernorm true true ∧ SfuRow .rmsnorm .rmsnorm true false ∧
  SfuRejected .sigmoid ∧ SfuRejected .silu ∧ SfuRejected .geluT ∧ SfuRejected .softmax ∧ SfuRejected .layernorm ∧
  SfuRejected .rmsnorm


/-! ### Engines (R45 to R56, R71 to R74) -/

namespace Sys2Proof.Claims

/-- The element that an engine operation starts from (R72): the running value of a CHAIN_IN, the slot's own content where
it continues a valid slot, else 0. -/
def startElem (i : Issue) (o : EngOp) (pair : Bool) (ph pc k : Nat) : Accum :=
  if o.accInit = 2 then
    let run := (chainIn i o.qin.toNat pair).getD ([], [])
    { a := nth 0 run.1 k, c := nth 0 run.2 k }
  else if o.accInit = 1 ∧ mget false i.core.accValid (16 * o.eng.toNat + ph) = true then
    { a := mget 0 i.core.acc (accKey o.eng.toNat ph k), c := if pair then mget 0 i.core.acc (accKey o.eng.toNat pc k) else 0 }
  else { a := 0 }

/-- SAT events of the valid elements of a tile of results (R36, R159, R161). -/
def engSats (rows cols : Nat) (res : List Accum) : Nat :=
  ((List.range 1024).map (fun k => if k / 32 < rows ∧ k % 32 < cols then (nth { a := 0 } res k).sats else 0)).foldl (· + ·) 0

/-- No route-table entry of a context's pattern hands a core's tokens to the collective engines (R328). -/
def NoRelay (s : State) (x : Ctx) (c r : Nat) : Prop :=
  x.slot.bind (fun n => (getSlot s n).pattern.bind (fun p => relayOf p c r)) = none

/-- `t` is `s` but for its cores, conversion flags and stalled-fc counts, and core `c` alone has changed; where `moved`, the count of
the core's partition starts again (R144). -/
def CoreFlagsAndStall (s t : State) (c : Nat) (moved : Prop) : Prop :=
  t = { s with cores := t.cores, convFlags := t.convFlags, convUnits := t.convUnits, parts := t.parts } ∧
  (∀ d, d ≠ c → getCore t d = getCore s d) ∧ (¬ moved → t.parts = s.parts) ∧
  ∀ p, moved → getPart t p = (if partOfCluster s (coreCluster c) = some p then { getPart s p with stalled := 0 } else getPart s p)

end Sys2Proof.Claims

/-- ENG (R50, R55, R72 to R74, R93, R118): with its predicate 1 and, for a CHAIN_IN, the running value at the head of the queue,
the 1,024 final tallies go to the accumulator slot, which becomes valid; the running value leaves its queue; with ACC_OUT the slot
leaves as a token (a pair as two) on its route, and where that is no relay route it reaches the fabric; the engine's weight banks and times
are those of R47, R55 and R56 (log entry 117: the model's choice of what a bank keeps); the bundle ends; the operand store, the parameter words, the outstanding gathers, the other
slots, contexts' images and cores stay as they are. With its predicate 0 it takes its time, writes no accumulator and sends nothing. -/
def Sys2Proof.Claims.EngineTile : Prop :=
  (∀ (o : EngOp) (s : State) (i : Issue), Issues s o.core i → engFormOk i o = true →
    i.ctx.active o.pinv o.preg.toNat 0 = true →
    let c := o.core.toNat
    let e := o.eng.toNat
    let q := o.qin.toNat
    let r := o.odst.toNat
    let pair := i.ctx.slotKind e o.accSlot.toNat == 2
    let ph := mget 0 i.ctx.accPhys (16 * e + o.accSlot.toNat) - 1
    let pc := mget 0 i.ctx.accPhys (64 + 16 * e + o.accSlot.toNat) - 1
    let res := engResult i o pair (startElem i o pair ph pc)
    let a := i.ctx.desc o.asrc.toNat
    let w := i.ctx.desc o.wsrc.toNat
    let ta := tileCoord a (i.ctx.posOf o.asrc.toNat) 0
    let tw := tileCoord w (i.ctx.posOf o.wsrc.toNat) 0
    let ev : Conv4 := { sat := engSats (readRows i.core a ta) (readCols i.core w tw) res }
    let tok (kind ahead : Nat) (f : Accum → Nat) :=
      routeToken i c r kind (validRows a i.core.par ta - 1) (validCols w i.core.par tw - 1) ta.1 tw.2 ahead (res.map f)
    let toks := if o.accOut = true then tok 1 0 (·.a) :: (if pair = true then [tok 2 1 (·.c)] else []) else []
    let moved := (i.ctx.useDesc i.core.par o.asrc.toNat (o.kblk.toNat + 1)).useDesc i.core.par o.wsrc.toNat (o.kblk.toNat + 1)
    let x := { moved with
      conv := i.ctx.conv.add ev
      sendSeq := if o.accOut = true then mset 0 i.ctx.sendSeq r ((mget 0 i.ctx.sendSeq r + toks.length) % 32) else i.ctx.sendSeq }
    (o.accInit = 2 → chainBadHead i q pair = false ∧ (chainIn i q pair).isSome = true) →
    ∃ t u, exec (.eng o) s = .next t ∧ t = emitTokens c r x u toks ∧
      (o.accOut = true → NoRelay s i.ctx c r → t = { u with out := s.out ++ toks.map .token }) ∧
      CoreFlagsAndStall s u c (o.accInit = 2) ∧ Raises s u c ev ∧
      (∃ co, getCore u c = endBundle co i.n x ∧ co = { i.core with
        acc := co.acc, accValid := co.accValid, queues := co.queues,
        engs := mset {} i.core.engs e (engAfter i o ph).1, banks := (engAfter i o ph).2 } ∧
        (pair = true → ph ≠ pc → ∀ k, k < 1024 → mget 0 co.acc (accKey e ph k) = (nth { a := 0 } res k).a ∧
          mget 0 co.acc (accKey e pc k) = (nth { a := 0 } res k).c) ∧
        (pair = false → ∀ k, k < 1024 → mget 0 co.acc (accKey e ph k) = (nth { a := 0 } res k).a) ∧
        mget false co.accValid (16 * e + ph) = true ∧ (pair = true → mget false co.accValid (16 * e + pc) = true) ∧
        (∀ z k, z ≠ 16 * e + ph → (pair = true → z ≠ 16 * e + pc) → k < 1024 →
          mget 0 co.acc (1024 * z + k) = mget 0 i.core.acc (1024 * z + k) ∧ mget false co.accValid z = mget false i.core.accValid z) ∧
        (o.accInit ≠ 2 → co.queues = i.core.queues) ∧
        (o.accInit = 2 → (∀ p, p ≠ q → getQueue co p = getQueue i.core p) ∧
          getQueue co q = (if pair then (getQueue i.core q).pop.pop else (getQueue i.core q).pop)))) ∧
  (∀ (o : EngOp) (s : State) (i : Issue), Issues s o.core i → engFormOk i o = true →
    i.ctx.active o.pinv o.preg.toNat 0 = false →
    let ph := mget 0 i.ctx.accPhys (16 * o.eng.toNat + o.accSlot.toNat) - 1
    let moved := (i.ctx.useDesc i.core.par o.asrc.toNat (o.kblk.toNat + 1)).useDesc i.core.par o.wsrc.toNat (o.kblk.toNat + 1)
    exec (.eng o) s = .next (setCore s o.core.toNat (endBundle { i.core with
      engs := mset {} i.core.engs o.eng.toNat (engAfter i o ph).1, banks := (engAfter i o ph).2 } i.n
      { moved with conv := i.ctx.conv.add {} })))

/-- CHAIN_IN without its running value (R74, R91): the sequencer stops and the bundle is issued again. A head token of another
KIND is discarded as a sequence error, and nothing else leaves the queue (R118, R120; of a pair whose second token has another KIND the first is discarded, log
entry 118: the model's choice). A form that no loaded pattern holds is refused. -/
def Sys2Proof.Claims.EngineChainWaits : Prop :=
  (∀ (o : EngOp) (s : State) (i : Issue), Issues s o.core i → engFormOk i o = true →
    i.ctx.active o.pinv o.preg.toNat 0 = true → o.accInit = 2 →
    let c := o.core.toNat
    let q := o.qin.toNat
    let pair := i.ctx.slotKind o.eng.toNat o.accSlot.toNat == 2
    (chainBadHead i q pair = false → chainIn i q pair = none →
      exec (.eng o) s = .next (setCore s c (stopAt i.core (.chainWait q)))) ∧
    (chainBadHead i q pair = true →
      exec (.eng o) s = .next (tokenMoved (setCore (coreSeqFault (seqError s c) c) c
        (tickCore (setQueue i.core q (getQueue i.core q).pop) 1)) c))) ∧
  (∀ (o : EngOp) (s : State) (i : Issue), Issues s o.core i → engFormOk i o = false → exec (.eng o) s = .refused .rejectedAtLoad) ∧
  (∀ (o : EngOp) (s : State), coreValid o.core.toNat = true → coreEven o.core.toNat = true → 2 ≤ o.eng.toNat →
    (∃ i, issue? s o.core.toNat = some i) → exec (.eng o) s = .refused .rejectedAtLoad)

/-! ### The gather, scatter and index unit (R84, R106 to R108) -/

namespace Sys2Proof.Claims

/-- An even core can issue (R84). -/
def GsIssues (s : State) (c : BitVec 12) (i : Issue) : Prop := Issues s c i ∧ coreEven c.toNat = true

end Sys2Proof.Claims

/-- GATHER and GWAIT (R106): a request joins at most eight outstanding ones; a ninth, or a GWAIT while one of the context is
outstanding, stops the sequencer; GWAIT passes once none is left. A delivery hands the oldest tile to the operand store: the rows of the
indices, as the destination tile of the descriptor has room for them; every other byte of the store stays; indices out of range are
counted. A failed read of the table reports the attempt (Table 09.4). -/
def Sys2Proof.Claims.GatherUnit : Prop :=
  (∀ (o : GsOp) (s : State) (i : Issue), GsIssues s o.core i →
    let c := o.core.toNat
    let x := i.ctx.useDesc i.core.par o.desc.toNat 1
    let g : GatherReq := { ctx := i.n, table := i.ctx.table o.table.toNat, idx := (indices i.ctx o.va.toNat).map (toTwos 32), seg := o.seg.toNat, desc := o.desc.toNat, pos := i.ctx.posOf o.desc.toNat }
    (i.core.gathers.length < 8 → i.ctx.active o.pinv o.preg.toNat 0 = true →
      exec (.gather o) s = .next (setCore s c (endBundle { i.core with gathers := i.core.gathers ++ [g] } i.n x))) ∧
    (i.core.gathers.length < 8 → i.ctx.active o.pinv o.preg.toNat 0 = false →
      exec (.gather o) s = .next (setCore s c (endBundle i.core i.n x))) ∧
    (8 ≤ i.core.gathers.length → exec (.gather o) s = .next (setCore s c (stopAt i.core .gatherWait)))) ∧
  (∀ (o : GsOp) (s : State) (i : Issue), GsIssues s o.core i →
    ((i.ctx.active o.pinv o.preg.toNat 0 = false ∨ ∀ g ∈ i.core.gathers, g.ctx ≠ i.n) →
      exec (.gwait o) s = .next (setCore s o.core.toNat (endBundle i.core i.n i.ctx))) ∧
    (i.ctx.active o.pinv o.preg.toNat 0 = true → (∃ g ∈ i.core.gathers, g.ctx = i.n) →
      exec (.gwait o) s = .next (setCore s o.core.toNat (stopAt i.core .gatherWait)))) ∧
  (∀ (core : BitVec 12) (s : State), coreValid core.toNat = true →
    let c := core.toNat
    let co := getCore s c
    (co.gathers = [] → exec (.gatherDelivery core) s = .next s) ∧
    (∀ (g : GatherReq) (gs : List GatherReq), co.gathers = g :: gs →
      let x := getCtx co g.ctx
      let dom := ctxDom s x
      let ks := g.idx.map (signedVal 32)
      let d := x.desc g.desc
      let tc := tileCoord d g.pos 0
      let at_ (m j : Nat) : Nat := elemAddr d (32 * tc.1 + m) (32 * tc.2 + j)
      let w := (dFormat d).width
      let lands (m j : Nat) : Bool := decide (m < 32) && decide (j < 32) && dSpace d == 0 && inTensor d co.par tc m j
      (ks.mapM (gatherRow s dom g.table g.seg) = none → exec (.gatherDelivery core) s = .fault .noGranule) ∧
      (∀ rows, ks.mapM (gatherRow s dom g.table g.seg) = some rows →
        (ks.any (rowLost s dom g.table g.seg) = true →
          exec (.gatherDelivery core) s = .next (tableFailed (setCore s c { co with gathers := gs }) x)) ∧
        (ks.any (rowLost s dom g.table g.seg) = false →
          ∃ t, exec (.gatherDelivery core) s = .next t ∧ CoreOnly s t c ∧
            getCore t c = { co with gathers := gs, ctxs := (getCore t c).ctxs, store := (getCore t c).store } ∧
            getCtx (getCore t c) g.ctx = { x with oor := satAdd32 x.oor (ks.filter (fun k => !indexOk g.table k)).length } ∧
            (∀ n, n ≠ g.ctx → getCtx (getCore t c) n = getCtx co n) ∧
            (∀ b, (∀ m j, lands m j = true → m < ks.length → b < at_ m j ∨ at_ m j + w ≤ b) → mget 0 (getCore t c).store b = mget 0 co.store b) ∧
            (∀ m j, lands m j = true → m < ks.length →
              (∀ m' j', (m', j') ≠ (m, j) → lands m' j' = true → m' < ks.length → at_ m' j' + w ≤ at_ m j ∨ at_ m j + w ≤ at_ m' j') →
              mgetList 0 (getCore t c).store (at_ m j) w = bytesLE w (nth 0 (nth [] rows m) j))))))

/-- An index out of the table's range delivers a row of zeros (R107). -/
def Sys2Proof.Claims.OutOfRangeRowIsZero : Prop :=
  ∀ (s : State) (dom tbl seg : Nat) (k : Int), (k < 0 ∨ (tdRows tbl : Int) ≤ k) →
    gatherRow s dom tbl seg k = some (List.replicate 32 0)

/-- SCATTER_ADD, IMOD, IOFF and IUNIQ (R106, R108): an FP32 tile is added into the rows the indices name, each addition
rounded once; an index that names no row adds nothing and is counted (log entry 13); index results go to lanes 0 to 31, available in the next ac
(IUNIQ after 7 further issue ac); IMOD by a table of no rows gives a free value. With the predicate 0 each only takes its time. A dense core has none of
them. -/
def Sys2Proof.Claims.ScatterAndIndex : Prop :=
  (∀ (o : GsOp) (s : State) (i : Issue), GsIssues s o.core i →
    let c := o.core.toNat
    let d := i.ctx.desc o.desc.toNat
    let tb := i.ctx.table o.table.toNat
    let ks := indices i.ctx o.va.toNat
    let dom := ctxDom s i.ctx
    let tc := tileCoord d (i.ctx.posOf o.desc.toNat) 0
    let x := i.ctx.useDesc i.core.par o.desc.toNat 1
    let sum := (List.range 1024).foldl (fun r k =>
      let ix := nth 0 ks (k / 32)
      if indexOk tb ix && elemValid i.core d tc (k / 32) (k % 32) then
        scatterElem dom tb ix.toNat (32 * o.seg.toNat + k % 32) (readElem i.core d tc (k / 32) (k % 32)) r
      else r) (some (s, 0))
    (dFormat d ≠ .fp32 ∨ tdFmt tb ≠ .fp32 → exec (.scatterAdd o) s = .refused .rejectedAtLoad) ∧
    (dFormat d = .fp32 → tdFmt tb = .fp32 →
      (i.ctx.active o.pinv o.preg.toNat 0 = false → exec (.scatterAdd o) s = .next (setCore s c (endBundle i.core i.n x))) ∧
      (i.ctx.active o.pinv o.preg.toNat 0 = true → ks.any (rowLost s dom tb o.seg.toNat) = true →
        exec (.scatterAdd o) s = .next (tableFailed (setCore s c (endBundle i.core i.n x)) i.ctx)) ∧
      (i.ctx.active o.pinv o.preg.toNat 0 = true → ks.any (rowLost s dom tb o.seg.toNat) = false →
        (sum = none → exec (.scatterAdd o) s = .fault .noGranule) ∧
        (∀ s' n, sum = some (s', n) → ∃ t, exec (.scatterAdd o) s = .next t ∧
          t = { s with cores := t.cores, tiers := s'.tiers, convFlags := t.convFlags, convUnits := t.convUnits } ∧
          Raises s t c { sat := n } ∧ (∀ k, k ≠ c → getCore t k = getCore s k) ∧
          getCore t c = endBundle i.core i.n { x with
            conv := i.ctx.conv.add { sat := n }, oor := satAdd32 i.ctx.oor (ks.filter (fun k => !indexOk tb k)).length }) ∧
        ((∀ k ∈ ks, indexOk tb k = false) → sum = some (s, 0))))) ∧
  (∀ (o : GsOp) (s : State) (i : Issue), GsIssues s o.core i → i.ctx.active o.pinv o.preg.toNat 0 = true →
    let tb := i.ctx.table o.table.toNat
    let ks := indices i.ctx o.va.toNat
    let u := ks.foldl (fun l k => insertDistinct k l) []
    let res (r : Nat) (due : Nat) (vs : List Int) : InFlight :=
      { due := i.core.ac + due, ctx := i.n, pred := false, reg := r, vals := vs.zipIdx.map (fun v => (v.2, toTwos 32 v.1, false)) }
    exec (.imod o) s = .next (setCore s o.core.toNat (tickCore (endBundle { i.core with
      inflight := i.core.inflight ++ [res o.vd.toNat 1 (ks.map (fun k =>
        if tdRows tb = 0 then (Config.imodZero (toTwos 32 k)).toNat else k % (tdRows tb : Int)))] } i.n i.ctx) 0)) ∧
    exec (.ioff o) s = .next (setCore s o.core.toNat (tickCore (endBundle { i.core with
      inflight := i.core.inflight ++ [res o.vd.toNat 1 (ks.map (· + tdOffset tb))] } i.n i.ctx) 0)) ∧
    exec (.iuniq o) s = .next (setCore s o.core.toNat (tickCore (endBundle { i.core with
      inflight := i.core.inflight ++ [res o.vd.toNat 8 ((List.range 32).map (fun l => nth (-1) u l)),
        res o.vc.toNat 8 (ks.map (fun k => (u.idxOf k : Int)))] } i.n i.ctx) 7)) ∧
    (∀ k ∈ ks, k ∈ u) ∧ (∀ k ∈ u, k ∈ ks) ∧ u.Pairwise (· < ·)) ∧
  (∀ (o : GsOp) (s : State) (i : Issue), GsIssues s o.core i → i.ctx.active o.pinv o.preg.toNat 0 = false →
    exec (.imod o) s = .next (setCore s o.core.toNat (tickCore (endBundle i.core i.n i.ctx) 0)) ∧
    exec (.ioff o) s = .next (setCore s o.core.toNat (tickCore (endBundle i.core i.n i.ctx) 0)) ∧
    exec (.iuniq o) s = .next (setCore s o.core.toNat (tickCore (endBundle i.core i.n i.ctx) 7))) ∧
  (∀ (o : GsOp) (s : State), coreValid o.core.toNat = true → coreEven o.core.toNat = false →
    exec (.gather o) s = .refused .rejectedAtLoad ∧ exec (.scatterAdd o) s = .refused .rejectedAtLoad ∧
    exec (.gwait o) s = .refused .rejectedAtLoad ∧ exec (.imod o) s = .refused .rejectedAtLoad ∧
    exec (.ioff o) s = .refused .rejectedAtLoad ∧ exec (.iuniq o) s = .refused .rejectedAtLoad)


/-! ### Tokens (R118 to R127, R137, R151, R163, R419) -/

namespace Sys2Proof.Claims

/-- No queue of a core is blocked by a perturbation point, held by a QDELAY, and no such point is armed for it (R419, R420). -/
def QueueClear (s : State) (c q : Nat) : Prop :=
  queueBlocked s c q = false ∧ mget none s.pert.holds (holdKey c q) = none ∧
  findPoint s 1 (fun p => p.target == holdKey c q && decide (p.mode ≤ 1)) = none

/-- A token is the one its queue expects (R120, R137): the context is resident with the token's GEN, the sequence number is the next
one, and the kind is not the undefined 3. -/
def Expected (s : State) (tk : Token) : Prop :=
  let x := getCtx (getCore s (tokDst tk.hdr)) (tokCtx tk.hdr)
  x.resident = true ∧ x.gen = tokGen tk.hdr ∧ tokSeq tk.hdr = mget 0 x.recvSeq (tokQ tk.hdr) ∧ tokKind tk.hdr ≠ 3

/-- `t` is `s` with one core changed, and its partition's stalled-fc count started again (R144). -/
def CoreAndStall (s t : State) (c : Nat) : Prop :=
  t = { s with cores := t.cores, parts := t.parts } ∧ (∀ d, d ≠ c → getCore t d = getCore s d) ∧
  ∀ p, getPart t p = (if partOfCluster s (coreCluster c) = some p then { getPart s p with stalled := 0 } else getPart s p)

end Sys2Proof.Claims

/-- RECV (R118, R127): a head of KIND 0 with the current tag becomes held and the bundle ends; on an empty queue or a head of
another tag the sequencer stops; a head of another KIND is discarded as a sequence error and the bundle is issued again. -/
def Sys2Proof.Claims.Receive : Prop :=
  ∀ (o : TokOp) (s : State) (i : Issue), Issues s o.core i →
    let c := o.core.toNat
    let q := o.q.toNat
    let qu := getQueue i.core q
    let p := getPart s ((partOfCluster s (coreCluster c)).getD 0)
    (qu.held = true ∨ foldAllows p i.core q = false → exec (.recv o) s = .refused .rejectedAtLoad) ∧
    (qu.held = false → foldAllows p i.core q = true →
      (qu.head = none → exec (.recv o) s = .next (setCore s c (stopAt i.core (.recvEmpty q)))) ∧
      (∀ tk, qu.head = some tk → tokCtx tk.hdr ≠ i.n ∨ tokGen tk.hdr ≠ i.ctx.gen →
        exec (.recv o) s = .next (setCore s c (stopAt i.core (.recvEmpty q)))) ∧
      (∀ tk, qu.head = some tk → tokCtx tk.hdr = i.n → tokGen tk.hdr = i.ctx.gen → tokKind tk.hdr = 0 →
        ∃ t, exec (.recv o) s = .next t ∧ CoreAndStall s t c ∧
          getCore t c = endBundle (setQueue i.core q { qu with held := true }) i.n i.ctx ∧
          (getQueue (getCore t c) q).held = true ∧ (getQueue (getCore t c) q).hw = qu.hw ∧
          (getQueue (getCore t c) q).lane = qu.lane ∧ ∀ r, r ≠ q → getQueue (getCore t c) r = getQueue i.core r) ∧
      (∀ tk, qu.head = some tk → tokCtx tk.hdr = i.n → tokGen tk.hdr = i.ctx.gen → tokKind tk.hdr ≠ 0 →
        exec (.recv o) s = .next (tokenMoved (setCore (coreSeqFault (seqError s c) c) c (tickCore (setQueue i.core q qu.pop) 1)) c)))

/-- REL (R127): the held head leaves the queue, and nothing else does; without a held head the form is rejected at load. -/
def Sys2Proof.Claims.Release : Prop :=
  ∀ (o : TokOp) (s : State) (i : Issue), Issues s o.core i →
    let c := o.core.toNat
    let q := o.q.toNat
    let qu := getQueue i.core q
    (qu.held = false → exec (.rel o) s = .refused .rejectedAtLoad) ∧
    (qu.held = true → ∃ t, exec (.rel o) s = .next t ∧ CoreAndStall s t c ∧
      getCore t c = endBundle (setQueue i.core q qu.pop) i.n i.ctx ∧
      (getQueue (getCore t c) q).held = false ∧
      (getQueue (getCore t c) q).hw ++ (getQueue (getCore t c) q).lane = (qu.hw ++ qu.lane).tail ∧
      ∀ r, r ≠ q → getQueue (getCore t c) r = getQueue i.core r)

/-- SEND (R91, R127, R163, R328): the tile the descriptor stands on leaves with the route's destination, the context's tag, the next
sequence number of that route and the valid rows and columns of the tile; while the destination has no room the sequencer stops; on a relay
route the token goes to the collective engines, whatever its destination. An error that a PERTURB point injects into the read of the store ends the
command with none of this. -/
def Obligations.SendAToken : Prop :=
  ∀ (o : TokOp) (s : State) (i : Issue), Issues s o.core i →
    let c := o.core.toNat
    let r := o.route.toNat
    let e := i.ctx.route r
    let d := i.ctx.desc o.opd.toNat
    let tc := tileCoord d (i.ctx.posOf o.opd.toNat) 0
    let tk := routeToken i c r 0 (validRows d i.core.par tc - 1) (validCols d i.core.par tc - 1) tc.1 tc.2 0 (readTile i.core d tc)
    let x := { i.ctx.useDesc i.core.par o.opd.toNat 1 with sendSeq := mset 0 i.ctx.sendSeq r ((mget 0 i.ctx.sendSeq r + 1) % 32) }
    let s1 := setCore s c (endBundle { i.core with accessAc := i.core.accessAc + (tokFmt (reFmt e)).width } i.n x)
    (reEn e = false ∨ dFormat d ≠ tokFmt (reFmt e) → exec (.send o) s = .refused .rejectedAtLoad) ∧
    (reEn e = true → dFormat d = tokFmt (reFmt e) →
      (NoRelay s i.ctx c r → queueFull s tk.hdr = true →
        exec (.send o) s = .next (setCore s c (stopAt i.core (.sendFull (reDst e) (reDq e))))) ∧
      (NoRelay s i.ctx c r → queueFull s tk.hdr = false → takeInject s 1 c = none →
        exec (.send o) s = .next { s1 with out := s.out ++ [.token tk] }) ∧
      (¬ NoRelay s i.ctx c r → takeInject s 1 c = none → exec (.send o) s = .next (emitToken c r x s1 tk)) ∧
      (∀ s' n, ¬ NoRelay s i.ctx c r ∨ queueFull s tk.hdr = false → (partOfCluster s (coreCluster c)).bind (fun p => (getPart s p).run) = some n →
        abortable (getSlot s n) = true → takeInject s 1 c = some s' →
        exec (.send o) s = .next (sramError s' (coreDie s' c) (2 ^ 43 + s.fc) n)))

/-- TOKEN_ARRIVAL (R120, R121, R124, R137, R151): an expected token joins its queue, in a hardware entry or in the overflow lane; one
whose queue has no room waits and changes nothing; a token of a context that is not resident, or of another GEN, is discarded and
TAG_MISMATCH raised; one out of sequence, or of KIND 3, is discarded as a sequence error. -/
def Sys2Proof.Claims.TokenArrival : Prop :=
  ∀ (tk : Token) (s : State), coreValid (tokDst tk.hdr) = true → QueueClear s (tokDst tk.hdr) (tokQ tk.hdr) →
    let c := tokDst tk.hdr
    let q := tokQ tk.hdr
    let qu := getQueue (getCore s c) q
    let x := getCtx (getCore s c) (tokCtx tk.hdr)
    (Expected s tk → place (getCore s c) q tk.hdr = .full → exec (.tokenArrival tk) s = .next s) ∧
    (Expected s tk → place (getCore s c) q tk.hdr ≠ .full → ∃ t, exec (.tokenArrival tk) s = .next t ∧ CoreAndStall s t c ∧
      (getQueue (getCore t c) q).hw ++ (getQueue (getCore t c) q).lane = qu.hw ++ qu.lane ++ [tk] ∧
      (getQueue (getCore t c) q).held = qu.held ∧ (∀ r, r ≠ q → getQueue (getCore t c) r = getQueue (getCore s c) r) ∧
      mget 0 (getCtx (getCore t c) (tokCtx tk.hdr)).recvSeq q = (tokSeq tk.hdr + 1) % 32 ∧
      (∀ r, r ≠ q → mget 0 (getCtx (getCore t c) (tokCtx tk.hdr)).recvSeq r = mget 0 x.recvSeq r)) ∧
    (x.resident = false ∨ x.gen ≠ tokGen tk.hdr → ∃ t, exec (.tokenArrival tk) s = .next t ∧
      t = { s with parts := t.parts, pipeFlags := raise s.fc s.pipeFlags pipeTagMismatch } ∧
      ∀ p, partOfCluster s (coreCluster c) = some p → (getPart t p).tagMiss = satAdd32 (getPart s p).tagMiss 1) ∧
    (x.resident = true → x.gen = tokGen tk.hdr → tokSeq tk.hdr ≠ mget 0 x.recvSeq q ∨ tokKind tk.hdr = 3 →
      exec (.tokenArrival tk) s = .next (coreSeqFault (tokenMoved (seqError s c) c) c))

/-- FILL (R124, R125): the lane's oldest token takes a free hardware entry, behind those that are there; the order of the queue
does not change. -/
def Sys2Proof.Claims.Fill : Prop :=
  ∀ (core : BitVec 12) (q : BitVec 4) (s : State) (tk : Token) (l : List Token), coreValid core.toNat = true →
    let qu := getQueue (getCore s core.toNat) q.toNat
    qu.lane = tk :: l → qu.hw.length < 8 → takeInject s 1 core.toNat = none →
    ∃ t, exec (.fill core q) s = .next t ∧ CoreAndStall s t core.toNat ∧
      (getQueue (getCore t core.toNat) q.toNat).hw = qu.hw ++ [tk] ∧ (getQueue (getCore t core.toNat) q.toNat).lane = l ∧
      (getQueue (getCore t core.toNat) q.toNat).held = qu.held ∧
      (∀ r, r ≠ q.toNat → getQueue (getCore t core.toNat) r = getQueue (getCore s core.toNat) r) ∧
      (getCore t core.toNat).accessAc = (getCore s core.toNat).accessAc + 3

/-- A QDELAY point holds the first arriving token for its delay (R419); QDELAY_RELEASE lets it into its queue no earlier, and a
token that is expected then enters it. -/
def Sys2Proof.Claims.QueueDelay : Prop :=
  (∀ (tk : Token) (s : State) (k : Nat) (p : PointSt), coreValid (tokDst tk.hdr) = true →
    findPoint s 1 (fun p => p.target == holdKey (tokDst tk.hdr) (tokQ tk.hdr) && decide (p.mode ≤ 1)) = some (k, p) →
    mget none s.pert.holds (holdKey (tokDst tk.hdr) (tokQ tk.hdr)) = none → p.mode = 0 →
    ∃ t, exec (.tokenArrival tk) s = .next t ∧ t = { s with pert := t.pert } ∧
      mget none t.pert.holds (holdKey (tokDst tk.hdr) (tokQ tk.hdr)) = some (tk, s.fc + p.value) ∧
      (getPoint t k).count = satAdd32 p.count 1) ∧
  (∀ (core : BitVec 12) (q : BitVec 4) (s : State) (tk : Token) (due : Nat),
    mget none s.pert.holds (holdKey core.toNat q.toNat) = some (tk, due) →
    (s.fc < due → exec (.qdelayRelease core q) s = .next s) ∧
    (due ≤ s.fc → queueBlocked s (tokDst tk.hdr) (tokQ tk.hdr) = false → Expected s tk →
      place (getCore s (tokDst tk.hdr)) (tokQ tk.hdr) tk.hdr ≠ .full →
      ∃ t, exec (.qdelayRelease core q) s = .next t ∧
        t = { s with cores := t.cores, parts := t.parts, pert := { s.pert with holds := merase s.pert.holds (holdKey core.toNat q.toNat) } } ∧
        (getQueue (getCore t (tokDst tk.hdr)) (tokQ tk.hdr)).hw ++ (getQueue (getCore t (tokDst tk.hdr)) (tokQ tk.hdr)).lane =
          (getQueue (getCore s (tokDst tk.hdr)) (tokQ tk.hdr)).hw ++ (getQueue (getCore s (tokDst tk.hdr)) (tokQ tk.hdr)).lane ++ [tk]))

/-! ### Sequencer, registers and context switches (R88, R92 to R94, R128, R129, R141, R168) -/

/-- NOP, LOOP, YIELD, PMARK and FOLD: what each does to its core, and to nothing else, and that a YIELD, PMARK or FOLD whose predicate is 0
only passes (R88, R92, R93, R128, R141, R168). -/
def Obligations.SequencerControl : Prop :=
  (∀ (core : BitVec 12) (s : State) (i : Issue), Issues s core i →
    (i.core.aDone = false → exec (.coreNop core false) s = .next (setCore s core.toNat { i.core with aDone := true })) ∧
    (i.core.aDone = true → exec (.coreNop core false) s = .next s) ∧
    exec (.coreNop core true) s = .next (setCore s core.toNat (endBundle i.core i.n i.ctx))) ∧
  (∀ (core : BitVec 12) (body : BitVec 9) (n : BitVec 16) (s : State) (i : Issue), Issues s core i →
    0 < body.toNat → body.toNat ≤ 256 → i.ctx.loops.length < 4 → (∀ l ls, i.ctx.loops = l :: ls → i.ctx.pc + body.toNat ≤ l.last) →
    ∃ t, exec (.loop core body (.imm n)) s = .next t ∧ CoreOnly s t core.toNat ∧
      getCore t core.toNat = tickCore { setCtx i.core i.n (if n = 0 then i.ctx.advance (i.ctx.pc + body.toNat) else
        { i.ctx with pc := i.ctx.pc + 1,
                     loops := { first := i.ctx.pc + 1, last := i.ctx.pc + body.toNat, left := n.toNat - 1 } :: i.ctx.loops })
        with boundary := false, stop := none } 1) ∧
  (∀ (core : BitVec 12) (body : BitVec 9) (k : BitVec 2) (s : State) (i : Issue), Issues s core i →
    0 < body.toNat → body.toNat ≤ 256 → i.ctx.loops.length < 4 → (∀ l ls, i.ctx.loops = l :: ls → i.ctx.pc + body.toNat ≤ l.last) →
    nth 0 i.core.par k.toNat = 0 →
    exec (.loop core body (.par k)) s = .next (setCore s core.toNat
      (tickCore { setCtx i.core i.n (i.ctx.advance (i.ctx.pc + body.toNat)) with boundary := false, stop := none } 1))) ∧
  (∀ (core : BitVec 12) (body : BitVec 9) (n : LoopCount) (s : State) (i : Issue), Issues s core i →
    body.toNat = 0 ∨ 256 < body.toNat ∨ 4 ≤ i.ctx.loops.length →
    exec (.loop core body n) s = .refused .rejectedAtLoad) ∧
  (∀ (core : BitVec 12) (pinv : Bool) (preg : BitVec 3) (bundle : BitVec 12) (s : State) (i : Issue), Issues s core i → holdsToken i.core = false →
    i.ctx.active pinv preg.toNat 0 = true →
    let p := getPart s ((partOfCluster s (coreCluster core.toNat)).getD 0)
    let x := { i.ctx with pc := bundle.toNat, loops := [] }
    exec (.yield core pinv preg) s = .next (setCore s core.toNat { endBundle i.core i.n i.ctx with boundary := true }) ∧
    (i.core.entry + 1 < p.problems.length → ∃ t, exec (.pmark core pinv preg bundle) s = .next t ∧ CoreOnly s t core.toNat ∧
      (getCore t core.toNat).entry = i.core.entry + 1 ∧ (getCore t core.toNat).par = i.core.parNext ∧
      (getCore t core.toNat).boundary = true ∧
      getCore t core.toNat = tickCore { setCtx i.core i.n { x with pos := [] } with
        entry := i.core.entry + 1, par := i.core.parNext, parNext := entryPar p (i.core.entry + 2), boundary := true, stop := none } 1) ∧
    (p.problems.length ≤ i.core.entry + 1 → ∃ t, exec (.pmark core pinv preg bundle) s = .next t ∧ CoreOnly s t core.toNat ∧
      (getCore t core.toNat).finished = true ∧ issue? t core.toNat = none) ∧
    (i.core.fold ≠ [] → ∃ t, exec (.fold core pinv preg) s = .next t ∧ CoreOnly s t core.toNat ∧
      (getCore t core.toNat).foldPos = foldNext i.core.fold i.core.foldPos ∧
      (getCore t core.toNat).cur = some (foldCtx (nth 0 i.core.fold (foldNext i.core.fold i.core.foldPos))) ∧
      (getCore t core.toNat).ac = i.core.ac + 2 ∧ (getCore t core.toNat).boundary = true) ∧
    (i.core.fold = [] → exec (.fold core pinv preg) s = .next (setCore s core.toNat { endBundle i.core i.n i.ctx with boundary := true }))) ∧
  (∀ (core : BitVec 12) (pinv : Bool) (preg : BitVec 3) (bundle : BitVec 12) (s : State) (i : Issue), Issues s core i → holdsToken i.core = false →
    i.ctx.active pinv preg.toNat 0 = false →
    exec (.yield core pinv preg) s = .next (setCore s core.toNat (endBundle i.core i.n i.ctx)) ∧
    exec (.pmark core pinv preg bundle) s = .next (setCore s core.toNat (endBundle i.core i.n i.ctx)) ∧
    (i.core.fold = [] → exec (.fold core pinv preg) s = .next (setCore s core.toNat (endBundle i.core i.n i.ctx))) ∧
    (i.core.fold ≠ [] → ∃ t, exec (.fold core pinv preg) s = .next t ∧ CoreOnly s t core.toNat ∧
      (getCore t core.toNat).foldPos = i.core.foldPos ∧ (getCore t core.toNat).cur = i.core.cur ∧
      (getCore t core.toNat).ac = i.core.ac + 2 ∧ (getCore t core.toNat).boundary = false)) ∧
  (∀ (core : BitVec 12) (pinv : Bool) (preg : BitVec 3) (bundle : BitVec 12) (s : State) (i : Issue), Issues s core i → holdsToken i.core = true →
    exec (.yield core pinv preg) s = .refused .rejectedAtLoad ∧ exec (.pmark core pinv preg bundle) s = .refused .rejectedAtLoad ∧
    exec (.fold core pinv preg) s = .refused .rejectedAtLoad)

/-- LDST load (R93, R159): lane l of VR takes element l of the rows from ROW on of the tile, or the identity where it is
masked, readable after 3 ac; with lane 0's predicate bit 0 it writes nothing. The operand store does not change. -/
def Sys2Proof.Claims.LoadRegister : Prop :=
  ∀ (o : LdstOp) (s : State) (i : Issue), Issues s o.core i → takeInject s 1 o.core.toNat = none →
    let c := o.core.toNat
    let d := i.ctx.desc o.desc.toNat
    let tc := tileCoord d (i.ctx.posOf o.desc.toNat) 0
    let vals := (List.range (coreLanes c)).map (fun l =>
      (l, readElem i.core d tc (o.row.toNat + l / 32) (l % 32), !elemValid i.core d tc (o.row.toNat + l / 32) (l % 32)))
    let res : InFlight := { due := i.core.ac + 3, ctx := i.n, pred := false, reg := o.vr.toNat, vals := vals }
    ∃ t, exec (.loadRegister o) s = .next t ∧ CoreOnly s t c ∧ (getCore t c).store = i.core.store ∧
      getCore t c = endBundle { i.core with
        accessAc := i.core.accessAc + 1,
        inflight := if i.ctx.active o.pinv o.preg.toNat 0 = true then i.core.inflight ++ [res] else i.core.inflight } i.n
        (i.ctx.useDesc i.core.par o.desc.toNat 1)

/-- LDST store (R93, R162): exactly the elements inside the tensor of the lanes whose predicate bit is 1 are written; every
byte of the operand store outside those elements is unchanged. -/
def Sys2Proof.Claims.StoreRegister : Prop :=
  ∀ (o : LdstOp) (s : State) (i : Issue), Issues s o.core i →
    let c := o.core.toNat
    let d := i.ctx.desc o.desc.toNat
    let tc := tileCoord d (i.ctx.posOf o.desc.toNat) 0
    let at_ (l : Nat) : Nat := elemAddr d (32 * tc.1 + (o.row.toNat + l / 32)) (32 * tc.2 + l % 32)
    let writes (l : Nat) : Bool := i.ctx.active o.pinv o.preg.toNat l && dSpace d == 0 &&
      inTensor d i.core.par tc (o.row.toNat + l / 32) (l % 32)
    ∃ t, exec (.storeRegister o) s = .next t ∧ CoreOnly s t c ∧
      (∀ a, (∀ l, l < coreLanes c → writes l = true → a < at_ l ∨ at_ l + (dFormat d).width ≤ a) →
        mget 0 (getCore t c).store a = mget 0 i.core.store a) ∧
      (∀ l, l < coreLanes c → writes l = true →
        (∀ m, m < coreLanes c → m ≠ l → writes m = true → at_ m + (dFormat d).width ≤ at_ l ∨ at_ l + (dFormat d).width ≤ at_ m) →
        mgetList 0 (getCore t c).store (at_ l) (dFormat d).width = bytesLE (dFormat d).width (i.ctx.lane o.vr.toNat l)) ∧
      (getCore t c).inflight = (endBundle i.core i.n i.ctx).inflight ∧ (getCore t c).acc = i.core.acc ∧
      (getCore t c).queues = i.core.queues

/-- CONTEXT_SWITCH (R129): a core at a token boundary takes the pending request and spends the switch ac; once every core of the
partition stands in the requested context, that context is the partition's and the request has ended. -/
def Obligations.ContextSwitch : Prop :=
  ∀ (core : BitVec 12) (s : State) (p : Nat) (r : SwReq), coreValid core.toNat = true →
    partOfCluster s (coreCluster core.toNat) = some p → (getPart s p).swReq = some r → (getPart s p).drain = .idle →
    let co := getCore s core.toNat
    (co.cur = some r.ctx → exec (.contextSwitch core) s = .next s) ∧
    (co.cur ≠ some r.ctx → co.boundary = false → co.cur ≠ none → exec (.contextSwitch core) s = .next s) ∧
    (co.cur ≠ some r.ctx → co.boundary = true ∨ co.cur = none → (getCtx co r.ctx).resident = true →
      ∃ t, exec (.contextSwitch core) s = .next t ∧ (∀ d, d ≠ core.toNat → getCore t d = getCore s d) ∧
        getCore t core.toNat = tickCore { co with cur := some r.ctx, boundary := true, stop := none } 1 ∧
        (getCore t core.toNat).cur = some r.ctx ∧ t = { s with cores := t.cores, parts := t.parts, rings := t.rings } ∧
        ((∃ k, k ∈ partCores (getPart s p) ∧ k ≠ core.toNat ∧ (getCore s k).cur ≠ some r.ctx) → (getPart t p).swReq = some r) ∧
        ((∀ k, k ∈ partCores (getPart s p) → k ≠ core.toNat → (getCore s k).cur = some r.ctx) →
          (getPart t p).cur = some r.ctx ∧ ((getPart s p).swWait = [] → (getPart t p).swReq = none)))


/-! ### Partitions: loads, watchdog, drains (R131 to R150) -/

/-- CONTEXT_LOAD_END (R89, R133, R134, R140): where every image and fold table passes its check and the images break no rule of a load, each core of
the partition has the context resident with the image, its GEN as the load set it, and the state a load establishes; the other contexts keep everything but
where their accumulator slots lie, and the cores outside are unchanged. A first check that fails raises LOAD_RETRY, and where the second passes it is a
transient (R371). Where a core's image fails both, or breaks a rule, the context stays non-resident and no core changes. Here the load is the only one of its
partition. -/
def Sys2Proof.Claims.ContextLoadEnds : Prop :=
  ∀ (part : BitVec 6) (ctx : BitVec 2) (first second : List (BitVec 12)) (s : State) (l : LoadSt) (pat : Pattern),
    let p := part.toNat
    let c := ctx.toNat
    let ks := partCores (getPart s p)
    let ims := loadImages s l
    let sound := (∀ k ∈ ks, ∀ im, imageFor ims k = some im → imageCheck im k = im.trailer % 2 ^ 32) ∧
      (l.fold = true → ∀ f ∈ pat.folds, f.1 ∈ ks → foldCheck f.2.1 f.1 = f.2.2)
    (getPart s p).loads = [l] → l.ctx = c → l.waiting = false → (getSlot s l.slot).pattern = some pat →
    (sound → lateRefusal pat l.fold c ims = none →
      ((∀ k ∈ ks, ∀ q ∈ first, q.toNat ≠ k) →
        ∃ t, exec (.contextLoadEnd part ctx first second) s = .next t ∧ t = { s with cores := t.cores, parts := t.parts, rings := t.rings } ∧
          (∀ k ∈ ks, (getCtx (getCore t k) c).resident = true ∧ (getCtx (getCore t k) c).gen = (getCtx (getCore s k) c).gen ∧
            (getCtx (getCore t k) c).slot = some l.slot ∧ (getCtx (getCore t k) c).image = some ((imageFor ims k).getD (idleImage k)) ∧
            (getCtx (getCore t k) c).regs = [] ∧ (getCtx (getCore t k) c).preds = [] ∧ (getCtx (getCore t k) c).pc = 0 ∧
            (getCtx (getCore t k) c).loops = [] ∧ (getCtx (getCore t k) c).pos = []) ∧
          (∀ k n, n ≠ c → getCtx (getCore t k) n = { getCtx (getCore s k) n with accPhys := (getCtx (getCore t k) n).accPhys }) ∧
          (∀ k, k ∉ ks → getCore t k = getCore s k) ∧ (getPart t p).loads = [] ∧
          (l.fold = true → ∀ k ∈ ks, (getCore t k).fold = ((pat.folds.find? (fun f => f.1 == k)).map (·.2.1)).getD [] ∧ (getCore t k).foldPos = 0)) ∧
      ((∃ k ∈ ks, ∃ q ∈ first, q.toNat = k) → (∀ k ∈ ks, ∀ q ∈ second, q.toNat ≠ k) →
        ∃ t, exec (.contextLoadEnd part ctx first second) s = .next t ∧ t.pipeFlags = raise s.fc s.pipeFlags pipeLoadRetry ∧
          flagSet t.fault.flags ffTransient = true ∧ (∀ k ∈ ks, (getCtx (getCore t k) c).resident = true))) ∧
    (∀ k, sound → lateRefusal pat l.fold c ims = some k → (∀ k ∈ ks, ∀ q ∈ first, q.toNat ≠ k) →
      ∃ t, exec (.contextLoadEnd part ctx first second) s = .next t ∧ t = { s with parts := t.parts, rings := t.rings } ∧ (getPart t p).loads = []) ∧
    ((∃ k ∈ ks, (∃ q ∈ first, q.toNat = k) ∧ (∃ q ∈ second, q.toNat = k)) →
      ∃ t, exec (.contextLoadEnd part ctx first second) s = .next t ∧
        t = { s with parts := t.parts, rings := t.rings, pipeFlags := raise s.fc s.pipeFlags pipeLoadRetry, fault := t.fault } ∧ (getPart t p).loads = [])

/-- LOAD_PROCEED and LOAD_BLOCKED (R133, R135, R140): a waiting load that nothing holds back begins, and its context is no longer resident
on any core of the partition, its GEN inverted; one that replaces the fold table discards the old one and leaves the partition without a current context; a
load that has waited WDOG_LIMIT fc ends and has changed no core, and none ends sooner. Here the load is the only one of its partition. -/
def Sys2Proof.Claims.WaitingLoads : Prop :=
  ∀ (part : BitVec 6) (s : State) (l : LoadSt),
    let p := part.toNat
    let ks := partCores (getPart s p)
    (getPart s p).loads = [l] → l.waiting = true →
    (loadHeld s p [] l = false → ∃ t, exec (.loadProceed part) s = .next t ∧ t = { s with cores := t.cores, parts := t.parts } ∧
      (getPart t p).loads = [{ l with waiting := false }] ∧
      (∀ k ∈ ks, (getCtx (getCore t k) l.ctx).resident = false) ∧
      ((getPart s p).clusters.Nodup → ∀ k ∈ ks, (getCtx (getCore t k) l.ctx).gen = !(getCtx (getCore s k) l.ctx).gen) ∧
      (∀ k n, n ≠ l.ctx → getCtx (getCore t k) n = getCtx (getCore s k) n) ∧ (∀ k, k ∉ ks → getCore t k = getCore s k) ∧
      (l.fold = true → (getPart t p).hasFold = false ∧ (getPart t p).cur = none ∧ ∀ k ∈ ks, (getCore t k).fold = [] ∧ (getCore t k).cur = none)) ∧
    (loadHeld s p [] l = true → ∃ t, exec (.loadProceed part) s = .next t ∧ t = { s with parts := t.parts } ∧
      (getPart t p).loads = [l]) ∧
    (∀ ctx : BitVec 2, ctx.toNat = l.ctx →
      (s.fc < l.since + wdogLimit s → exec (.loadBlocked part ctx) s = .next s) ∧
      (l.since + wdogLimit s ≤ s.fc → ∃ t, exec (.loadBlocked part ctx) s = .next t ∧
        t = { s with parts := t.parts, rings := t.rings } ∧ (getPart t p).loads = []))

/-- STALL_WATCHDOG (R144 to R147, R150): a partition whose stalled-fc count has reached WDOG_LIMIT, with a full queue, no cause of a deviation and no
discard drain, is reported: the flag is raised, the report captured or, while one is held, counted as missed; a RUN that can be aborted or is between two
steps is drained by discard and ends at the drain's end, and a partition without a RUN is drained too (log entry 123). Else nothing happens. -/
def Sys2Proof.Claims.StallWatchdog : Prop :=
  ∀ (part : BitVec 6) (s : State),
    let p := part.toNat
    let pt := getPart s p
    let due := wdogLimit s ≤ pt.stalled ∧ hasFullQueue s pt = true ∧ partCauses s p = false ∧ pt.drain ≠ .discard
    (¬ due → exec (.stallWatchdog part) s = .next s) ∧
    (due → ∃ t, exec (.stallWatchdog part) s = .next t ∧ t.pipeFlags = raise s.fc s.pipeFlags pipeStallWdog ∧
      (s.wdog.held = false → t.wdog = { s.wdog with
        held := true, part := p, missed := 0, nent := (stallEntries s p).length,
        entries := msetList 0 [] 0 (stallEntries s p) }) ∧
      (s.wdog.held = true → t.wdog = { s.wdog with missed := min (s.wdog.missed + 1) 0xFF }) ∧
      (pt.run = none → t.cores = s.cores ∧ t.slots = s.slots ∧ (getPart t p).drain = .discard ∧ (getPart t p).swReq = none ∧ (getPart t p).swWait = []) ∧
      (∀ n, pt.run = some n → abortable (getSlot s n) = true ∨ (getSlot s n).run.map (·.stage) = some .between →
        t.cores = s.cores ∧ (getPart t (getSlot s n).part).drain = .discard ∧ ((getSlot t n).run.map (·.stage)) = some .replay ∧
        (getSlot t n).round.abort = some (joinAbort (getSlot s n).round.abort true sStallWatchdog)))

/-- DRAIN_END (R148, R149): a run drain ends only when every queue and lane is empty and every core is at a token boundary; a discard drain ends only when
every gather that was issued is delivered. With no RUN and nothing waiting on the partition, a run drain changes nothing else, and a discard drain leaves its
cores with no token and no result in flight, each result in its register. -/
def Sys2Proof.Claims.DrainEnds : Prop :=
  ∀ (part : BitVec 6) (s : State),
    let p := part.toNat
    let pt := getPart s p
    let quiet := pt.run = none ∧ pt.loads = [] ∧ pt.runQueue = [] ∧ pt.swReq = none ∧ pt.swWait = []
    (pt.drain = .idle → exec (.drainEnd part) s = .next s) ∧
    (pt.drain = .run → partEmpty s p = false → exec (.drainEnd part) s = .next s) ∧
    (pt.drain = .discard → gathersOut s p = true → exec (.drainEnd part) s = .next s) ∧
    (pt.drain = .discard → gathersOut s p = false → exec (.drainEnd part) s = .next (endDiscard s p)) ∧
    (quiet → pt.drain = .run → partEmpty s p = true →
      ∃ t, exec (.drainEnd part) s = .next t ∧ t = { s with parts := t.parts } ∧ getPart t p = { pt with drain := .idle } ∧
        ∀ q, q ≠ p → getPart t q = getPart s q) ∧
    (quiet → pt.drain = .discard → gathersOut s p = false →
      ∃ t, exec (.drainEnd part) s = .next t ∧ t = { s with parts := t.parts, cores := t.cores } ∧ getPart t p = { pt with drain := .idle } ∧
        (∀ q, q ≠ p → getPart t q = getPart s q) ∧ (∀ k, k ∉ partCores pt → getCore t k = getCore s k) ∧
        ∀ k ∈ partCores pt, (getCore t k).inflight = [] ∧ (getCore t k).gathers = [] ∧ (getCore t k).store = (getCore s k).store ∧
          (getCore t k).acc = (getCore s k).acc ∧ ∀ q, (getQueue (getCore t k) q).hw = [] ∧ (getQueue (getCore t k) q).lane = [])

/-! ### A training step (R173 to R194, R244 to R252) -/

/-- STEP_START (R252): a start that is asked for is granted at once where no start is held and the power budget allows it; else it is
held in order and PACED is raised. A held start is granted only as the oldest. A RUN whose context is no longer there ends with
NOT_RESIDENT. -/
def Sys2Proof.Claims.StepStart : Prop :=
  (∀ (slot : BitVec 12) (s : State) (r : RunSt),
    let n := slot.toNat
    (getSlot s n).run = some r → r.stage = .between → runPlaced s n = true → reshardHolds (getSlot s n) = false →
    runResident s n = true ∨ (getPart s (getSlot s n).part).loads ≠ [] →
    let s1 := updRun s n (fun r => { r with stepCharges := [], perturbed := false })
    (s.clock.held = [] → mayStart s1 n = true → exec (.stepStart slot) s = .next (startAttempt s1 n)) ∧
    (s.clock.held ≠ [] ∨ mayStart s1 n = false → ∃ t, exec (.stepStart slot) s = .next t ∧
      t = { s with slots := t.slots, clock := { s.clock with held := s.clock.held ++ [n] }, train := { s.train with cycFlags := raise s.fc s.train.cycFlags 1 } } ∧
      (getSlot t n).run = some { r with stage := .paced, asked := s.fc, stepCharges := [], perturbed := false } ∧
      ∀ m, m ≠ n → getSlot t m = getSlot s m)) ∧
  (∀ (slot : BitVec 12) (s : State) (r : RunSt), (getSlot s slot.toNat).run = some r → r.stage = .between →
    runResident s slot.toNat = false → (getPart s (getSlot s slot.toNat).part).loads = [] →
    exec (.stepStart slot) s = .next (endRun s slot.toNat sNotResident (runDetail s slot.toNat sNotResident))) ∧
  (∀ (slot : BitVec 12) (s : State) (r : RunSt), (getSlot s slot.toNat).run = some r → r.stage = .between →
    (runResident s slot.toNat = true ∨ (getPart s (getSlot s slot.toNat).part).loads ≠ []) →
    (runPlaced s slot.toNat = false ∨ reshardHolds (getSlot s slot.toNat) = true) → exec (.stepStart slot) s = .next s) ∧
  (∀ (slot : BitVec 12) (s : State), (∀ r, (getSlot s slot.toNat).run = some r → r.stage ≠ .between ∧ r.stage ≠ .paced) →
    exec (.stepStart slot) s = .next s) ∧
  (∀ (slot : BitVec 12) (s : State) (r : RunSt), (getSlot s slot.toNat).run = some r → r.stage = .paced →
    (s.clock.held.head? ≠ some slot.toNat ∨ mayStart s slot.toNat = false → exec (.stepStart slot) s = .next s) ∧
    (s.clock.held.head? = some slot.toNat → mayStart s slot.toNat = true →
      let s1 := { s with clock := { s.clock with held := s.clock.held.filter (· != slot.toNat) } }
      let w := addAt [] cPace (if r.stepCharges = [] then s.fc - r.asked else 0)
      exec (.stepStart slot) s = .next (startAttempt (updSlot s1 slot.toNat (fun x =>
        { x with
          dev := addCounters satAdd32 x.dev w,
          run := x.run.map (fun r => { r with charges := addCounters satAdd64 r.charges w }) })) slot.toNat)))

/-- An attempt begins in the state that R382 names: every core of the partition with no result in flight of the slot's contexts, entry 0's
parameter words, and at a token boundary; no step of the RUN finished; the attempt's first fc is the present one. The contents of the slot's step areas are
undefined (R174): each of their granules holds free values of a draw of its own, the staged bytes are gone, and every other byte of the tiers is as before. A
working copy that is stale is formed again first (R182), and else nothing of the tiers is written. -/
def Sys2Proof.Claims.AttemptBegins : Prop :=
  ∀ (s : State) (n : Nat) (r : RunSt), (getSlot s n).run = some r →
    let t := beginAttempt s n
    let u := regenWc s n
    ((getSlot s n).wcStale = false ∨ (getSlot s n).hostPlaced = true → u = s) ∧
      u = { s with tiers := u.tiers, slots := u.slots, convFlags := u.convFlags, convUnits := u.convUnits } ∧
      (∀ k ∈ partCores (getPart s (getSlot s n).part),
        (getCore t k).par = entryPar (getPart s (getSlot s n).part) 0 ∧ (getCore t k).entry = 0 ∧ (getCore t k).finished = false ∧
        (getCore t k).boundary = true ∧ (getCore t k).store = (getCore s k).store ∧
        ∀ f ∈ (getCore t k).inflight, f.ctx ∉ ownCtxs s n) ∧
      (getSlot t n).run.map (·.stage) = some .step ∧ (getSlot t n).run.map (·.start) = some s.fc ∧
      (getSlot t n).cn = (getSlot s n).cn ∧ ((getSlot s n).hostPlaced = false → (getSlot t n).wcStale = false) ∧ t.out = s.out ∧ t.doms = s.doms ∧
      t.tiers = { u.tiers with hbm := t.tiers.hbm, undef := t.tiers.undef } ∧
      (∀ p o, p ∉ areaGranules s n → o < granBytes → physByte t.tiers 1 p o = physByte u.tiers 1 p o) ∧
      (∀ p ∈ areaGranules s n, ∃ d, s.draws ≤ d ∧ d < t.draws ∧ ∀ o, o < granBytes → physByte t.tiers 1 p o = Config.undefinedByte d o) ∧
      (∀ p ∈ areaGranules s n, ∀ q ∈ areaGranules s n, p ≠ q → mget 0 t.tiers.undef p ≠ mget 0 t.tiers.undef q) ∧
      ∀ q, q < 4 → ∀ g ∈ (getSlath s q).use, g.2 = .staging n →
        mget 0 (getSlath t q).undef g.1 ≠ 0 ∧ ∀ b ∈ (getSlath t q).bytes, b.1 / granBytes ≠ g.1

/-- QUANTISE_TILE (R178, R180): a reduced tile that waits for the quantiser, in an attempt that may quantise, is taken: the L8 code of each g + E goes
to the gradient stream and what it leaves to the error stream, the tile's record names the step, and the events are counted; a NaN marks the step. A tile
that an earlier attempt of the step has quantised is not quantised again. With no such tile, or in no such attempt, nothing happens. -/
def Sys2Proof.Claims.QuantiseTile : Prop :=
  (∀ (slot : BitVec 12) (tile : Word) (s : State) (r : RunSt),
    let n := slot.toNat
    let t := tile.toNat
    let x := getSlot s n
    let s1 := updSlot s n (fun x => { x with coll := { x.coll with reduced := merase x.coll.reduced t } })
    let g := mget [] x.coll.reduced t
    let k := tileElems x t
    let es := readCodes s1 n .e 2 (2048 * t) k
    let qs := (List.range k).map (fun j => quantise (nth 0 g j) (nth 0 es j))
    x.run = some r → r.stage = .step ∨ (r.stage = .replay ∧ x.round.kind ≠ .restart) → mhas x.coll.reduced t = true →
    (getRecord s n t = rcode (x.cn + 1) → exec (.quantiseTile slot tile) s = .next s1) ∧
    (getRecord s n t ≠ rcode (x.cn + 1) → ∃ u, exec (.quantiseTile slot tile) s = .next u ∧
      u.tiers = (setRecord (writeCodes (writeCodes s1 n .g8 1 (1024 * t) (qs.map (·.1))) n .e 2 (2048 * t) (qs.map (·.2.1))) n t (rcode (x.cn + 1))).tiers ∧
      getSlot u n = { x with
        coll := { x.coll with reduced := merase x.coll.reduced t }
        run := some { r with nan := r.nan || qs.any (·.2.2.2), conv := r.conv.add (qs.foldl (fun a q => a.add q.2.2.1) {}) } } ∧
      (∀ m, m ≠ n → getSlot u m = getSlot s m) ∧ u.cores = s.cores ∧ u.borders = s.borders) ∧
    mhas (getSlot s1 n).coll.reduced t = false ∧ (∀ u, u ≠ t → mget [] (getSlot s1 n).coll.reduced u = mget [] x.coll.reduced u)) ∧
  (∀ (slot : BitVec 12) (tile : Word) (s : State), quantising (getSlot s slot.toNat) = false ∨ mhas (getSlot s slot.toNat).coll.reduced tile.toNat = false →
    exec (.quantiseTile slot tile) s = .next s) ∧
  (∀ g e : Nat,
    let v := (fpAdd g (convert .l16 .fp32 e).code).code
    let q := (convert .fp32 .l8 v).code
    (isNaN32 v = true → (quantise g e).1 = 0x80 ∧ (quantise g e).2.1 = 0 ∧ (quantise g e).2.2.1 = { nar := 1 } ∧ (quantise g e).2.2.2 = true) ∧
    (isNaN32 v = false → (quantise g e).1 = q ∧ (quantise g e).2.1 = (convert .fp32 .l16 (fpSub v (l8ToF32 q)).code).code ∧ (quantise g e).2.2.2 = false))

/-- UPDATE_SWEEP (R192): with every tile quantised, each Border engine of a rim die in service starts at the first entry of the slot's
table; the rim dies out of service do not. Before that, or while a copy of the slot's bank holds it (R186), the sweep does not start. -/
def Sys2Proof.Claims.UpdateSweep : Prop :=
  ∀ (slot : BitVec 12) (s : State),
    let n := slot.toNat
    let x := getSlot s n
    (allQuantised s n = false ∨ bankHeld x = true ∨ x.hostPlaced = true ∨ (∀ r, x.run = some r → r.stage ≠ .step ∨ r.sweeping = true) →
      exec (.updateSweep slot) s = .next s) ∧
    (x.hostPlaced = false → (∃ r, x.run = some r ∧ r.stage = .step ∧ r.sweeping = false) → allQuantised s n = true → bankHeld x = false →
      ∃ t, exec (.updateSweep slot) s = .next t ∧ t = { s with borders := t.borders, slots := t.slots } ∧
        (getSlot t n).run.map (·.sweeping) = some true ∧ (∀ m, m ≠ n → getSlot t m = getSlot s m) ∧
        (∀ m, m < 8 → s.tiers.fenced.contains m = false →
          getBorder t m = settleBorder s x m (borderFuel x) (startEntry x { slot := n } 0)) ∧
        (∀ m, 8 ≤ m ∨ s.tiers.fenced.contains m = true → getBorder t m = getBorder s m))

/-- INTERLUDE (R191, R192): it runs once every Border engine in service waits for it at one entry, and not before; then each goes on from its
interlude with the accumulators combined over all of them, or in a one-phase program to the next entry (log entry 76). -/
def Sys2Proof.Claims.Interlude : Prop :=
  ∀ (slot : BitVec 12) (s : State) (e : Nat),
    let n := slot.toNat
    let ms := (List.range 8).filter (fun m => !s.tiers.fenced.contains m)
    let acc := totals ((ms.map (getBorder s)).map (·.acc))
    ms ≠ [] →
    ((∃ m ∈ ms, (getBorder s m).slot ≠ n ∨ (getBorder s m).stage ≠ .waitInterlude ∨ (getBorder s m).entry ≠ (getBorder s (ms.headD 0)).entry) →
      exec (.interlude slot) s = .next s) ∧
    ((∀ m ∈ ms, (getBorder s m).slot = n ∧ (getBorder s m).stage = .waitInterlude ∧ (getBorder s m).entry = e) →
      borderLive s (getBorder s (ms.headD 0)) = true →
      ∃ t s1 : State, exec (.interlude slot) s = .next t ∧
        (∀ m ∈ ms, getBorder t m = settleBorder s (getSlot s n) m (borderFuel (getSlot s n))
          (afterCombine (getSlot s n) (getBorder s m) acc.1)) ∧
        (∀ b : BorderSt, (entryProg (getSlot s n) b.entry).twoPhase = true →
          afterCombine (getSlot s n) b acc.1 = { b with stage := .interlude, pc := 0, total := acc.1 }) ∧
        t = { s1 with borders := t.borders } ∧
        s1 = { s with slots := s1.slots, convFlags := s1.convFlags, convUnits := s1.convUnits, tiers := s1.tiers } ∧
        (∀ m, m ∉ ms → getBorder t m = getBorder s m))


/-! ### Border engines (R184, R188 to R191) -/

namespace Sys2Proof.Claims

/-- A Border engine in the update of a step in progress stands at a word of the loaded program, and that word is the command's (R188, R189). -/
def BorderIssues (s : State) (op : Nat) (o : BorderOp) : Prop :=
  let b := getBorder s o.rim.toNat
  borderLive s b = true ∧ borderAt (getSlot s b.slot) b = some (borderWord op o)

/-- A command whose word the engine does not stand at changes nothing (log entry 16). -/
def BorderElse (row : BorderOp → Instr) (op : Nat) : Prop :=
  ∀ (o : BorderOp) (s : State), ¬ BorderIssues s op o → exec (row o) s = .next s

/-- What is left at the Border after one instruction: the engine with the new registers moves on by one instruction. -/
def borderNext (s : State) (o : BorderOp) (s1 : State) (b1 : BorderSt) : State :=
  let b := getBorder s o.rim.toNat
  setBorder s1 o.rim.toNat (settleBorder s (getSlot s b.slot) o.rim.toNat (borderFuel (getSlot s b.slot)) { b1 with pc := b.pc + 1 })

/-- A vector instruction: element by element of the tile inside its entry, the rest of the register 0; its events counted. -/
def VectorRow (row : BorderOp → Instr) (op : Nat) (f : Nat → Nat → Nat → Nat → Cvt) : Prop :=
  BorderElse row op ∧ ∀ (o : BorderOp) (s : State), BorderIssues s op o →
    let b := getBorder s o.rim.toNat
    let rs := (List.range (liveElems (getSlot s b.slot) b)).map (fun i =>
      f (vElem b o.a.toNat i) (vElem b o.b.toNat i) (vElem b o.c.toNat i) (kReg b o.c.toNat))
    let s1 := countConv s o.rim.toNat b.slot (rs.foldl (fun a r => a.add (evOf r)) {})
    exec (row o) s = .next (borderNext s o s1 (setVec b o.d.toNat (rs.map (·.code)))) ∧
    s1 = { s with slots := s1.slots, convFlags := s1.convFlags, convUnits := s1.convUnits } ∧
    (∀ i, i < liveElems (getSlot s b.slot) b → vElem (setVec b o.d.toNat (rs.map (·.code))) o.d.toNat i =
      (f (vElem b o.a.toNat i) (vElem b o.b.toNat i) (vElem b o.c.toNat i) (kReg b o.c.toNat)).code) ∧
    (∀ r i, r ≠ o.d.toNat → i < 1024 → vElem (setVec b o.d.toNat (rs.map (·.code))) r i = vElem b r i)

/-- A scalar instruction: one register, its events counted. -/
def ScalarRow (row : BorderOp → Instr) (op : Nat) (f : SlotSt → Nat → Nat → Cvt) : Prop :=
  BorderElse row op ∧ ∀ (o : BorderOp) (s : State), BorderIssues s op o →
    let b := getBorder s o.rim.toNat
    let r := f (getSlot s b.slot) (kReg b o.a.toNat) (kReg b o.b.toNat)
    let s1 := countConv s o.rim.toNat b.slot (evOf r)
    exec (row o) s = .next (borderNext s o s1 { b with k := mset 0 b.k o.d.toNat r.code }) ∧
    s1 = { s with slots := s1.slots, convFlags := s1.convFlags, convUnits := s1.convUnits } ∧
    kReg { b with k := mset 0 b.k o.d.toNat r.code } o.d.toNat = r.code ∧
    (∀ q, q ≠ o.d.toNat → kReg { b with k := mset 0 b.k o.d.toNat r.code } q = kReg b q)

end Sys2Proof.Claims

/-- Vector arithmetic of the Border engines (R189, R190): each element rounded once. -/
def Sys2Proof.Claims.BorderVectors : Prop :=
  VectorRow .borderFadd 0x06 (fun a b _ _ => fpAdd a b) ∧ VectorRow .borderFsub 0x07 (fun a b _ _ => fpSub a b) ∧
  VectorRow .borderFmul 0x08 (fun a b _ _ => fpMul a b) ∧ VectorRow .borderFma 0x09 (fun a b c _ => fpFma a b c) ∧
  VectorRow .fdiv 0x0A (fun a b _ _ => fpDiv a b) ∧ VectorRow .fsqrt 0x0B (fun a _ _ _ => fpSqrt a) ∧
  VectorRow .frsqrt 0x0C (fun a _ _ _ => fpRsqrt a) ∧ VectorRow .borderFmax 0x0D (fun a b _ _ => { code := fpMax a b }) ∧
  VectorRow .borderFmin 0x0E (fun a b _ _ => { code := fpMin a b }) ∧ VectorRow .fabs 0x0F (fun a _ _ _ => { code := fpMag a }) ∧
  VectorRow .fsign 0x10 (fun a _ _ _ => { code := fpSign a }) ∧ VectorRow .fmulk 0x11 (fun a _ _ k => fpMul a k) ∧
  VectorRow .faddk 0x12 (fun a _ _ k => fpAdd a k) ∧ VectorRow .fmak 0x13 (fun a b _ k => fpFma a k b)

/-- Scalar instructions of the Border engines (R189, R190), KPOWT with CN + 1 as its exponent; KACC reads a combined accumulator in
the interlude alone (R191). -/
def Sys2Proof.Claims.BorderScalars : Prop :=
  ScalarRow .kadd 0x20 (fun _ a b => fpAdd a b) ∧ ScalarRow .ksub 0x21 (fun _ a b => fpSub a b) ∧ ScalarRow .kmul 0x22 (fun _ a b => fpMul a b) ∧
  ScalarRow .kdiv 0x23 (fun _ a b => fpDiv a b) ∧ ScalarRow .ksqrt 0x24 (fun _ a _ => fpSqrt a) ∧ ScalarRow .kmov 0x25 (fun _ a _ => { code := a }) ∧
  ScalarRow .kpowt 0x26 (fun x a _ => fpPow a (x.cn + 1)) ∧
  BorderElse .kacc 0x27 ∧
  (∀ (o : BorderOp) (s : State), BorderIssues s 0x27 o →
    let b := getBorder s o.rim.toNat
    let p := mget {} b.total o.a.toNat
    exec (.kacc o) s = .next (borderNext s o (countConv s o.rim.toNat b.slot { sat := boolNat (pairValue p.a p.c).2 })
      { b with k := mset 0 b.k o.d.toNat (pairValue p.a p.c).1 }))

/-- Loads of the Border engines (R189, R190): G8 codes, the master and a state stream of the visible bank, and row and column statistics,
of the alternate bank in phase 2; NOP. Nothing but the engine changes. -/
def Sys2Proof.Claims.BorderLoads : Prop :=
  (∀ (o : BorderOp) (s : State),
    let b := getBorder s o.rim.toNat
    let x := getSlot s b.slot
    let k := liveElems x b
    let bank := if b.stage = .phase2 then (x.cn + 1) % 2 else x.bank
    (BorderIssues s 0x00 o → exec (.borderNop o) s = .next (borderNext s o s b)) ∧
    (BorderIssues s 0x01 o →
      exec (.ldg o) s = .next (borderNext s o s (setVec b o.d.toNat ((readCodes s b.slot .g8 1 (1024 * b.tile) k).map l8ToF32)))) ∧
    (BorderIssues s 0x02 o →
      exec (.ldw o) s = .next (borderNext s o s (setVec b o.d.toNat (readCodes s b.slot (.w x.bank) 4 (4096 * b.tile) k)))) ∧
    (BorderIssues s 0x03 o → exec (.lds o) s = .next (borderNext s o s (setVec b o.d.toNat
      ((List.range k).map (fun i => readState s x b o.s.toNat x.bank (tileBase x b + i)))))) ∧
    (BorderIssues s 0x14 o → exec (.ldr o) s = .next (borderNext s o s (setVec b o.d.toNat
      ((List.range k).map (fun i => readState s x b o.s.toNat bank (elemRow x b i)))))) ∧
    (BorderIssues s 0x15 o → exec (.ldc o) s = .next (borderNext s o s (setVec b o.d.toNat
      ((List.range k).map (fun i => readState s x b o.s.toNat bank (elemCol x b i))))))) ∧
  BorderElse .borderNop 0x00 ∧ BorderElse .ldg 0x01 ∧ BorderElse .ldw 0x02 ∧ BorderElse .lds 0x03 ∧ BorderElse .ldr 0x14 ∧ BorderElse .ldc 0x15

/-- Stores and accumulations of the Border engines (R184, R189, R191): STW writes the master of the alternate bank and its L16 conversion as
the working copy, STS a state stream of the alternate bank; SUMSQ, ARSUM and ACSUM change an accumulator and no memory. -/
def Sys2Proof.Claims.BorderStores : Prop :=
  (∀ (o : BorderOp) (s : State),
    let m := o.rim.toNat
    let b := getBorder s m
    let x := getSlot s b.slot
    let alt := (x.cn + 1) % 2
    let vs := (List.range (liveElems x b)).map (vElem b o.a.toNat)
    let cs := vs.map (convert .fp32 .l16)
    let s1 := writeCodes (writeCodes s b.slot (.w alt) 4 (4096 * b.tile) vs) b.slot (.wc alt) 2 (2048 * b.tile) (cs.map (·.code))
    (BorderIssues s 0x04 o →
      exec (.stw o) s = .next (borderNext s o (countConv s1 m b.slot (cs.foldl (fun a c => a.add (evOf c)) {})) b)) ∧
    (BorderIssues s 0x05 o → exec (.sts o) s = .next (borderNext s o (writeState s m x b o.s.toNat alt (tileBase x b) vs) b))) ∧
  (∀ (o : BorderOp) (s : State),
    let m := o.rim.toNat
    let b := getBorder s m
    let x := getSlot s b.slot
    let row := addStat x b o.a.toNat elemRow b.row
    let col := addStat x b o.a.toNat elemCol b.col
    (BorderIssues s 0x17 o → exec (.arsum o) s = .next (borderNext s o (countConv s m b.slot { sat := row.2 }) { b with row := row.1 })) ∧
    (BorderIssues s 0x18 o → exec (.acsum o) s = .next (borderNext s o (countConv s m b.slot { sat := col.2 }) { b with col := col.1 })) ∧
    let sq : List Cvt := (List.range 1024).map (fun i =>
      if i < liveElems x b then let v := vElem b o.a.toNat i; fpMul v v else { code := 0 })
    let lanes := (List.range 128).map (fun l =>
      let r := seqSum ((sq.drop (8 * l)).take 8 |>.map (·.code))
      ({ code := r.1, masked := false, sats := r.2 } : SumNode))
    let root := (treeLevelsOf sumNode 7 lanes).headD { code := 0, masked := false, sats := 0 }
    let p := (mget {} b.acc o.d.toNat).enter root.code
    (BorderIssues s 0x16 o →
      exec (.sumsq o) s = .next (borderNext s o (countConv s m b.slot { sat := (sq.filter (·.sat)).length + root.sats + p.2 })
        { b with acc := mset {} b.acc o.d.toNat p.1 }))) ∧
  BorderElse .stw 0x04 ∧ BorderElse .sts 0x05 ∧ BorderElse .sumsq 0x16 ∧ BorderElse .arsum 0x17 ∧ BorderElse .acsum 0x18

/-! ### Host-placed updates (R193 to R195) -/

/-- GRAD_READY, WC_READY_POLL and HOST_TIMEOUT (R193, R194, R261, R262): the gradient and its trailer, then CN + 1, go to host memory where the RUN's
function is still there and may master the port; a working copy whose trailer is right is installed in the alternate bank; one that is wrong is read
once more, and a second failure or the timeout aborts, as the gradient of a function that was reset does at once. -/
def Sys2Proof.Claims.HostPlacedUpdate : Prop :=
  ∀ (slot : BitVec 12) (s : State) (r : RunSt),
    let n := slot.toNat
    let x := getSlot s n
    let g := readStream s n .g8 0 (1024 * tableTiles x.table)
    let k := 2048 * tableTiles x.table
    let master := (getFn s r.fn).cfg.master
    x.run = some r → r.stage = .step →
    (x.hostPlaced = true → r.sweeping = false → allQuantised s n = true →
      (runOrphan s r = true → exec (.gradReady slot) s = .next (abortAttempt s n true sHostTimeout)) ∧
      (runOrphan s r = false → master = false → exec (.gradReady slot) s = .next s) ∧
      (runOrphan s r = false → master = true →
        ∃ t, exec (.gradReady slot) s = .next t ∧ t = { s with slots := t.slots, out := t.out } ∧
          t.out = s.out ++ [.hostWrite (fnPort r.fn) x.gradBuf (g ++ (bytesLE 8 (x.cn + 1) ++ bytesLE 4 (crc32c g) ++ List.replicate 52 0)),
            .hostWrite (fnPort r.fn) x.readyBuf (bytesLE 8 (x.cn + 1))] ∧
          getSlot t n = { x with hostWait := true, run := some { r with sweeping := true } } ∧ ∀ m, m ≠ n → getSlot t m = getSlot s m)) ∧
    (allQuantised s n = false ∨ x.hostPlaced = false ∨ r.sweeping = true → exec (.gradReady slot) s = .next s) ∧
    (x.hostWait = false → exec (.hostTimeout slot) s = .next s ∧ ∀ word data, exec (.wcReadyPoll slot word data) s = .next s) ∧
    (x.hostWait = true → exec (.hostTimeout slot) s = .next (abortAttempt s n true sHostTimeout)) ∧
    (∀ (word : DWord) (data : List Byte), x.hostWait = true →
      let good := data.length = k + 64 ∧ (data.drop k).take 12 = bytesLE 8 (x.cn + 1) ++ bytesLE 4 (crc32c (data.take k))
      (word.toNat ≠ (x.cn + 1) % 2 ^ 64 ∨ master = false → exec (.wcReadyPoll slot word data) s = .next s) ∧
      (word.toNat = (x.cn + 1) % 2 ^ 64 → master = true →
        (good → ∃ t, exec (.wcReadyPoll slot word data) s = .next t ∧ t = { s with slots := t.slots, tiers := t.tiers } ∧
          t.tiers = (writeStream s n (.wc ((x.cn + 1) % 2)) 0 (data.take k)).tiers ∧ (getSlot t n).hostWait = false ∧
          (getSlot t n).run = some { r with installed := true } ∧ (getSlot t n).cn = x.cn) ∧
        (¬ good → x.hostRetry = false → exec (.wcReadyPoll slot word data) s = .next (updSlot s n (fun x => { x with hostRetry := true }))) ∧
        (¬ good → x.hostRetry = true → exec (.wcReadyPoll slot word data) s = .next (abortAttempt s n true sHostCrc))))

/-! ### Rounds of a job's members (R196 to R203, R340 to R347, R384) -/

/-- An abort (R149, R150, R198): an attempt that can be aborted stops, its partition is drained by discard, its switch requests are
cancelled, the kind and cause are kept (REPORT prevails; after REPLAY_LIMIT replays a REPLAY becomes REPORT with REPLAY_EXHAUSTED), and a held
start is withdrawn; no core, memory tier or commit number changes. Else nothing happens. -/
def Sys2Proof.Claims.AbortStopsAttempt : Prop :=
  ∀ (s : State) (n code : Nat) (report : Bool),
    let x := getSlot s n
    let spent := !report && decide (bits s.train.updCtl.toNat 3 0 ≤ x.replays)
    let t := abortAttempt s n report code
    (abortable x = false → t = s) ∧
    (abortable x = true → t.cores = s.cores ∧ t.tiers = s.tiers ∧ t.handle = s.handle ∧ t.fns = s.fns ∧
      (getSlot t n).cn = x.cn ∧ (getSlot t n).run.map (·.stage) = some .replay ∧
      (getSlot t n).round.abort = some (joinAbort x.round.abort (report || spent) (if spent = true then sReplayExhausted else code)) ∧
      (getPart t x.part).drain = .discard ∧ (getPart t x.part).swReq = none ∧ (getPart t x.part).swWait = [] ∧
      (∀ p, p ≠ x.part → getPart t p = getPart s p) ∧ n ∉ t.clock.held ∧ (∀ m, m ≠ n → getSlot t m = getSlot s m))

/-- COMMIT at a member (R183, R196): CN rises by 1, so that the other bank is visible, WC-stale is cleared and a step of the RUN is counted; no
other slot's CN changes. Here no packet is held for the slot. -/
def Sys2Proof.Claims.CommitRaisesCn : Prop :=
  ∀ (s : State) (n : Nat) (r : RunSt), (getSlot s n).run = some r → (getSlot s n).coll.held = [] →
    let t := commitStep s n
    (getSlot t n).cn = (getSlot s n).cn + 1 ∧ (getSlot t n).wcStale = false ∧ (getSlot t n).replays = 0 ∧
    (getSlot t n).run.map (·.done) = some (r.done + 1) ∧ (getSlot t n).run.map (·.stage) = some .round ∧
    (∀ m, m ≠ n → getSlot t m = getSlot s m) ∧ t.cores = s.cores ∧ t.tiers = s.tiers

namespace Sys2Proof.Claims

/-- What brings a packet of one kind to a member: its lateness noted (R247), the checks of R326, R327, R197 and R341, and `land` once they have
passed. -/
def PacketRow (row : Packet → Instr) (k : Nat) (land : State → Nat → Packet → State) : Prop :=
  ∀ (p : Packet) (s : State),
    let u := arrivalLate s p
    (pkReserved p.pkind.toNat = true → exec (row p) s = .next (unlanded u)) ∧
    (p.pkind.toNat ≠ k → pkReserved p.pkind.toNat = false → exec (row p) s = .next s) ∧
    (p.pkind.toNat = k →
      (packetSlot u p = none → exec (row p) s = .next (unlanded u)) ∧
      (∀ n, checkPacket u p = .hold n → exec (row p) s = .next (holdPacket u n p)) ∧
      (∀ n, checkPacket u p = .drop n → exec (row p) s = .next (takePseq u n p)) ∧
      (∀ n, checkPacket u p = .seqErr n →
        exec (row p) s = .next (seqFault { u with pipeFlags := raise u.fc u.pipeFlags pipeSeqErr } n)) ∧
      (∀ n, checkPacket u p = .old n → exec (row p) s = .next (layoutOld (takePseq u n p) n p)) ∧
      (∀ n, checkPacket u p = .ok n → exec (row p) s = .next (land (takePseq u n p) n p)))

end Sys2Proof.Claims

/-- The passes of a round, ABORT and the passes with a decision (R196, R198, R326, R327, R340, R344, R346, R384). -/
def Sys2Proof.Claims.RoundPackets : Prop :=
  PacketRow .prepare pkPrepare landPass ∧ PacketRow .fencePass pkFence landPass ∧ PacketRow .commit pkCommit landFinal ∧
  PacketRow .go pkGo landFinal ∧ PacketRow .switchPass pkSwitch landFinal ∧ PacketRow .abort pkAbort landAbort

/-- The data packets of an attempt and of a re-shard (R203, R326, R327, R330, R337, R341, R345). -/
def Sys2Proof.Claims.DataPackets : Prop :=
  PacketRow .reduce pkReduce landReduce ∧ PacketRow .gatherPacket pkGather landGather ∧ PacketRow .grad pkGrad landGrad ∧
  PacketRow .shard pkShard landShard ∧
  PacketRow .shardReq pkShardReq (fun s n p =>
    if (getSlot s n).reshard.any (fun r => r.stage == .moving) then answerMove s n p else landShardReq s n p) ∧
  PacketRow .move pkMove (fun s n p =>
    let r := landMove s n p
    if r.1 = true then failReshard r.2 n sReplayExhausted
    else if (getSlot r.2 n).reshard.any (fun q => q.stage == .moving && q.awaiting.isEmpty) then
      pushRound (updRound (updReshard r.2 n (fun q => { q with stage := .switchRound })) n (fun q => { q with kind := .switch, ready := true })) n
    else r.2)

/-- An arrival past its window (R247, R305): in a step in progress the fc from the window's end on are charged to LINK; an arrival with no window, within
it, or outside a step changes nothing. -/
def Sys2Proof.Claims.LateArrival : Prop :=
  ∀ (p : Packet) (s : State),
    let u := arrivalLate s p
    (p.window = none ∨ packetSlot s p = none → u = s) ∧
    (∀ w n, p.window = some w → packetSlot s p = some n →
      ((getSlot s n).run = none → u = s) ∧
      (∀ r, (getSlot s n).run = some r →
        (inStep (getSlot s n) = false ∨ s.fc ≤ r.start + w → u = s) ∧
        (inStep (getSlot s n) = true → r.start + w < s.fc →
          u = { s with slots := u.slots, parts := u.parts } ∧
          (getSlot u n).run = some { r with causes := r.causes ++ [(cLink, r.start + w + 1, s.fc + 1)] } ∧ ∀ m, m ≠ n → getSlot u m = getSlot s m)))

/-- RELAY (R329, R338), where no packet of its kind is held: delivered as tokens; a packet whose queue has no room changes nothing but its noted
lateness and is sent again; one that matches no landing entry is discarded, UNLANDED raised. -/
def Sys2Proof.Claims.RelayPacket : Prop :=
  ∀ (p : Packet) (s : State) (n : Nat),
    let u := arrivalLate s p
    p.pkind.toNat = pkRelay → checkPacket u p = .ok n → (∀ q ∈ (getSlot s n).coll.held, q.pkind ≠ p.pkind) →
    let s1 := takePseq u n p
    (∀ t, landRelay s1 n p = some t → exec (.relay p) s = .next t) ∧ (landRelay s1 n p = none → exec (.relay p) s = .next u) ∧
    (landingOf s1 (getSlot s1 n) p = none → ∃ t, exec (.relay p) s = .next t ∧ t.cores = s.cores ∧
      t.train.collFlags = raise s.fc s.train.collFlags kfUnlanded ∧ t.fault = s.fault ∧
      (getPart t (getSlot s n).part).tagMiss = satAdd32 (getPart s (getSlot s n).part).tagMiss p.tiles.length)

/-- A GRAD packet at the shard's owner (R337): its tile waits for the quantiser. -/
def Sys2Proof.Claims.GradientReachesOwner : Prop :=
  ∀ (p : Packet) (s : State) (n i : Nat) (tile : List Word), p.pkind.toNat = pkGrad → checkPacket (arrivalLate s p) p = .ok n → p.tiles = [tile] →
    let x := getSlot s n
    shardOwner s x p.tensor.toNat = some (cutRank s (slotJob x) cutLayer) → paramTile x p.tensor.toNat p.tile.toNat = some i →
    ∃ t, exec (.grad p) s = .next t ∧ t = { s with slots := t.slots, parts := t.parts } ∧ (∀ m, m ≠ n → getSlot t m = getSlot s m) ∧
      mget [] (getSlot t n).coll.reduced i = tile.map (·.toNat) ∧
      (∀ j, j ≠ i → mget [] (getSlot t n).coll.reduced j = mget [] x.coll.reduced j) ∧
      mget 0 (getSlot t n).coll.pseqIn (pseqKey p) = (p.pseq.toNat + 1) % 2 ^ 16

/-- STEP_READY, REPAIR, PEER_LOST and FENCE_ROUND (R195, R196, R199 to R201, R249, R344): when a member joins a round, when it does not, and
what a lost peer does. -/
def Obligations.MemberEvents : Prop :=
  (∀ (slot : BitVec 12) (s s1 : State) (r : RunSt),
    let n := slot.toNat
    let x := getSlot s n
    x.run = some r → r.stage = .step → (if x.hostPlaced then r.installed else sweepDone s n) = true →
    (r.nan = true → x.narCommit = false → exec (.stepReady slot) s = .next (abortAttempt s n true sNarGrad)) ∧
    (r.nan = false ∨ x.narCommit = true → retireFailed s n = none →
      exec (.stepReady slot) s = .next (abortAttempt (forgetFailed s n) n true sTierFull)) ∧
    (r.nan = false ∨ x.narCommit = true → retireFailed s n = some s1 →
      let u := if r.perturbed || pertActive s1 then 0 else unexplained r s1.fc
      let s2 := if u = 0 then s1 else { s1 with train := { s1.train with cycFlags := raise s1.fc s1.train.cycFlags 0 } }
      let s3 := updSlot s2 n (fun x =>
        { x with
          dev := addCounters satAdd32 x.dev (addAt [] cUnattr u),
          run := x.run.map (fun r => { r with charges := addCounters satAdd64 r.charges (addAt [] cUnattr u), readyFc := s2.fc, stage := .round }) })
      exec (.stepReady slot) s =
        .next (pushRound (updRound s3 n (fun q => { kind := .commit, ready := true, digest := replicaDigest s3 n, held := q.held })) n))) ∧
  (∀ (slot : BitVec 12) (s : State), (getSlot s slot.toNat).round.kind = .commit → (getSlot s slot.toNat).round.ready = true →
    (getSlot s slot.toNat).round.issued = false →
    let n := slot.toNat
    let x := getSlot s n
    let crcOf (i : Nat) : Nat := crc64 (entryData s n i)
    let len := x.table.length
    (∀ ranks : List (BitVec 5), exec (.repair slot (.supply ranks)) s = .next { s with
      out := s.out ++ ranks.map (fun r => .repair n r.toNat (.list (BitVec.ofNat 5 (dataRank s n)) ((List.range len).map (fun i => BitVec.ofNat 64 (crcOf i))))) }) ∧
    (∀ (rank : BitVec 5) (crcs : List DWord),
      let bad := (List.range len).filter (fun i => crcOf i != nth 0 (crcs.map (·.toNat)) i)
      let s2 := updRound s n (fun q => { q with supplier := rank.toNat, entries := bad })
      (bad ≠ [] → exec (.repair slot (.list rank crcs)) s =
        .next { s2 with out := s.out ++ [.repair n rank.toNat (.want (BitVec.ofNat 5 (dataRank s n)) (bad.map (BitVec.ofNat 12)))] }) ∧
      (bad = [] → dataRank s n ≠ 0 → exec (.repair slot (.list rank crcs)) s =
        .next { s2 with out := s.out ++ [.repair n 0 (.done (BitVec.ofNat 5 (dataRank s n)))] }) ∧
      (bad = [] → dataRank s n = 0 → exec (.repair slot (.list rank crcs)) s =
        .next (pushRound (updRound s2 n (fun q => { q with repairs := q.repairs.filter (· != 0) })) n))) ∧
    (∀ (rank : BitVec 5) (is : List (BitVec 12)), exec (.repair slot (.want rank is)) s = .next { s with
      out := s.out ++ is.map (fun i => .repair n rank.toNat (.entry i (BitVec.ofNat 64 (crcOf i.toNat)) (entryData s n i.toNat))) }) ∧
    (∀ (i : BitVec 12) (crc : DWord) (bs : List Byte),
      let s1 := (((entryParts x.hostPlaced x.table i.toNat ((x.cn + 1) % 2)).filter (fun p => p.1 != .e)).foldl (fun (a : State × List Byte) p =>
          (writeStream a.1 n p.1 p.2.2.1 (a.2.take p.2.2.2), a.2.drop p.2.2.2)) (s, bs)).1
      (i.toNat ∉ x.round.entries → exec (.repair slot (.entry i crc bs)) s = .next s) ∧
      (i.toNat ∈ x.round.entries → s1 = { s with tiers := s1.tiers } ∧
        (crc64 (entryData s1 n i.toNat) ≠ crc.toNat → exec (.repair slot (.entry i crc bs)) s =
          .next { s1 with out := s.out ++ [.repair n x.round.supplier (.want (BitVec.ofNat 5 (dataRank s n)) [i])] }) ∧
        (crc64 (entryData s1 n i.toNat) = crc.toNat →
          let left := x.round.entries.filter (· != i.toNat)
          let s2 := updRound s1 n (fun q => { q with entries := left })
          (left ≠ [] → exec (.repair slot (.entry i crc bs)) s = .next s2) ∧
          (left = [] → dataRank s n ≠ 0 → exec (.repair slot (.entry i crc bs)) s =
            .next { s2 with out := s.out ++ [.repair n 0 (.done (BitVec.ofNat 5 (dataRank s n)))] }) ∧
          (left = [] → dataRank s n = 0 → exec (.repair slot (.entry i crc bs)) s =
            .next (pushRound (updRound s2 n (fun q => { q with repairs := q.repairs.filter (· != 0) })) n))))) ∧
    (∀ rank : BitVec 5, exec (.repair slot (.done rank)) s =
      .next (pushRound (updRound s n (fun q => { q with repairs := q.repairs.filter (· != rank.toNat) })) n)) ∧
    exec (.peerLost slot) s = .next (abortAttempt s n true sPeerLost)) ∧
  (∀ (slot : BitVec 12) (s : State) (m : RepairMsg), (getSlot s slot.toNat).round.kind ≠ .commit ∨ (getSlot s slot.toNat).round.ready = false ∨
    (getSlot s slot.toNat).round.issued = true → exec (.repair slot m) s = .next s) ∧
  (∀ (slot : BitVec 12) (s : State),
    let x := getSlot s slot.toNat
    (x.round.ready = false ∨ x.round.kind = .none → exec (.peerLost slot) s = .next s) ∧
    (x.round.ready = true → x.round.kind = .commit ∨ x.round.kind = .restart → x.round.issued = true →
      exec (.peerLost slot) s = .next (endRun (noteRound s slot.toNat) slot.toNat sPeerLost (runDetail s slot.toNat sPeerLost))) ∧
    (x.round.ready = true → x.round.kind = .fence ∨ x.round.kind = .switch ∧ x.round.issued = false →
      exec (.peerLost slot) s = .next (failReshard s slot.toNat sPeerLost)) ∧
    (∀ rs, x.round.ready = true → x.round.kind = .switch → x.round.issued = true → x.reshard = some rs →
      ∃ t, exec (.peerLost slot) s = .next t ∧ t = { s with slots := t.slots, rings := t.rings } ∧ (getSlot t slot.toNat).reshard = none ∧
        (getSlot t slot.toNat).round.kind = .none ∧ (getSlot t slot.toNat).layout = x.layout)) ∧
  (∀ (slot : BitVec 12) (s : State) (rs : ReshardSt),
    let n := slot.toNat
    let x := getSlot s n
    x.reshard = some rs → rs.stage = .fenceWait → (∀ r, x.run = some r → r.stage ≠ .step ∧ r.stage ≠ .round ∧ r.stage ≠ .replay) →
    x.coll.contrib = [] → x.coll.running = [] →
    exec (.fenceRound slot) s = .next (pushRound (updRound (updReshard (reserveMoves s n rs).1 n
      (fun _ => { (reserveMoves s n rs).2 with stage := .fenceRound })) n (fun q => { kind := .fence, ready := true, held := q.held })) n))


/-! ### Wale links and the torus (R302 to R318) -/

namespace Sys2Proof.Claims

/-- A function exists and its registers answer: its port's link is up and it is not in D3hot (R264). -/
def Answers (f : FnAddr) (s : State) : Prop := fnAddrOk f = true ∧ fnReach s (fnKeyOf f) = true

/-- `t` is `s` with one Wale port changed. -/
def LinkOnly (s t : State) (p : Nat) : Prop :=
  t = { s with links := t.links } ∧ ∀ q, q ≠ p → getLink t q = getLink s q

/-- `t` is `s` with one Wale port changed and blocks sent from it; an ACKDLY point may have counted them (R421). -/
def LinkSends (s t : State) (p : Nat) : Prop :=
  t = { s with links := t.links, out := t.out, pert := t.pert } ∧ s.out <+: t.out ∧ ∀ q, q ≠ p → getLink t q = getLink s q

/-- The last block that left is one of port p of a TYPE that takes no sequence number: its header carries the package's own coordinate, its CRC stands
under the next number the half will assign and the partner's coordinate and port (R306, R307). -/
def LastBlock (s t : State) (p ty : Nat) (payload : List Byte) : Prop :=
  ∃ b lane, t.out.getLast? = some (.block p b lane) ∧ b.hdr = mkBlockHdr ty s.torus.coord 0 0 false 0 0 s.torus.coord ∧ b.payload = payload ∧
    b.crc = BitVec.ofNat 32 (blockCrc (getLink s p).txNext (neighbour s p) (portOf (portAxis p) (!portNeg p)) b)

/-- Every slot's expected PSEQ values are 0 again where a link has come up (R326), and all else in the slots is as before. -/
def PseqAt (s t : State) (p : Nat) : Prop :=
  ((getLink t p).state ≠ .up → t.slots = s.slots) ∧
  ((getLink t p).state = .up → ∀ n, getSlot t n = { getSlot s n with coll := { (getSlot s n).coll with pseqIn := [] } })

/-- What the fields of a transmit half that every block sent moves on leave of a port: all the others are those of `y`. -/
def TxOnly (x y : LinkSt) : Prop := x = { y with nakDue := x.nakDue, txBytes := x.txBytes, sinceSkip := x.sinceSkip }

end Sys2Proof.Claims

/-- Writes of LINK_CTL (R302 to R304, R312, R432): from a PF with an operator session, EN = 1 starts training where the axis is longer than 1, the
coordinate lies in the torus, the port die is in service and the port is not in loopback; a fenced port die loses the port, a coordinate outside the torus
makes a MISMATCH; EN = 0 takes a port that is not UP down without a flag, and an UP or retraining one with PORT_LOST; RETRAIN = 1 retrains an UP port, with
RETRAIN sent, and no other. Without such a session nothing happens. -/
def Sys2Proof.Claims.LinkControl : Prop :=
  ∀ (f : FnAddr) (port : PortNo) (s : State), Answers f s → port.toNat < 6 →
    let k := fnKeyOf f
    let p := port.toNat
    let x := getLink s p
    (operatorSession s k = false → exec (.linkEnable f port) s = .next s ∧ exec (.linkDisable f port) s = .next s ∧
      exec (.retrain f port) s = .next s) ∧
    (operatorSession s k = true →
      (x.en = true → exec (.linkEnable f port) s = .next s) ∧
      (x.en = false → (s.pert.lpEn = false ∨ s.pert.lpPort ≠ p) → axisLen s (portAxis p) ≠ 1 → isFenced s (linkDie p) = false →
        coordOk s s.torus.coord = true →
        ∃ t, exec (.linkEnable f port) s = .next t ∧ LinkOnly s t p ∧
          getLink t p = { x with en := true, state := .training, accepted := false, measured := false, echo := none, chdly := 0 }) ∧
      (x.en = false → (s.pert.lpEn = false ∨ s.pert.lpPort ≠ p) → axisLen s (portAxis p) ≠ 1 → isFenced s (linkDie p) = true →
        ∃ t, exec (.linkEnable f port) s = .next t ∧ LinkOnly s t p ∧
          getLink t p = { x with en := true, state := .lost, flags := raise s.fc x.flags lfPortLost }) ∧
      (x.en = false → (s.pert.lpEn = false ∨ s.pert.lpPort ≠ p) → axisLen s (portAxis p) ≠ 1 → isFenced s (linkDie p) = false →
        coordOk s s.torus.coord = false →
        ∃ t, exec (.linkEnable f port) s = .next t ∧ LinkOnly s t p ∧
          getLink t p = { x with en := true, state := .mismatch, flags := raise s.fc x.flags lfCableErr }) ∧
      (x.en = false → (s.pert.lpEn = false ∨ s.pert.lpPort ≠ p) → axisLen s (portAxis p) = 1 →
        ∃ t, exec (.linkEnable f port) s = .next t ∧ LinkOnly s t p ∧ getLink t p = { x with en := true }) ∧
      (x.en = false → s.pert.lpEn = true → s.pert.lpPort = p → exec (.linkEnable f port) s = .next (raisePert s pfCfgErr)) ∧
      (x.state ≠ .up → x.state ≠ .retrain → ∃ t, exec (.linkDisable f port) s = .next t ∧
        t = { s with links := t.links, out := t.out } ∧ (∀ q, q ≠ p → getLink t q = getLink s q) ∧
        getLink t p = { x with unacked := [], nakSeq := none, en := false, state := .down, accepted := false } ∧
        (getLink t p).flags = x.flags) ∧
      (x.state = .up ∨ x.state = .retrain → ∃ t, exec (.linkDisable f port) s = .next t ∧ (getLink t p).state = .down ∧ (getLink t p).en = false ∧
        (getLink t p).unacked = [] ∧ (getLink t p).flags = raise s.fc x.flags lfPortLost) ∧
      (x.state ≠ .up → exec (.retrain f port) s = .next s) ∧
      (x.state = .up → ∃ t, exec (.retrain f port) s = .next t ∧ LinkSends s t p ∧
        LastBlock s t p tyLink (linkPayload subRetrain (linkMsg s p subRetrain false 0 0)) ∧
        TxOnly (getLink t p) { x with state := .retrain, retrain := satAdd32 x.retrain 1 }))

/-- Bring-up (R304): training leaves each half the groups with no failed lane and sends HELLO, or loses the port; a HELLO is answered with
HELLO_ECHO, which returns its fc count, by a port that is UP too; a port that accepts its partner, has its channel excess and is told MATCH goes UP at sequence
number 0, one told no MATCH is in MISMATCH; a wrong partner makes a MISMATCH and raises CABLE_ERR on the way into it; an excess above 114 fc loses the port;
HELLO and the last HELLO_ECHO are sent again by the timer. -/
def Sys2Proof.Claims.LinkBringUp : Prop :=
  ∀ (port : PortNo) (s : State), port.toNat < 6 →
    let p := port.toNat
    let x := getLink s p
    let told (m : LinkMsg) (st : LinkState) : LinkState := if m.mtch = true then st else .mismatch
    (∀ txBad rxBad : Word, x.state = .training →
      let y := retireLanes x txBad.toNat rxBad.toNat
      ∃ t, exec (.trainingDone port txBad rxBad) s = .next t ∧ LinkSends s t p ∧
        (getLink t p).txGroups = groupsOf (x.txRetired ||| txBad.toNat) ∧ (getLink t p).rxGroups = groupsOf (x.rxRetired ||| rxBad.toNat) ∧
        (y.txGroups = 0 ∨ y.rxGroups = 0 → (getLink t p).state = .lost ∧ (getLink t p).flags = raise s.fc x.flags lfPortLost) ∧
        (y.txGroups ≠ 0 → y.rxGroups ≠ 0 → (getLink t p).state = .hello ∧
          ∃ b lane, t.out.getLast? = some (.block p b lane) ∧ b.payload = linkPayload subHello { linkMsg s p subHello false 0 0 with
            groups := BitVec.ofNat 8 (y.txGroups + 16 * y.rxGroups) })) ∧
    (∀ txBad rxBad : Word, x.state ≠ .training → exec (.trainingDone port txBad rxBad) s = .next s) ∧
    (greeting x = true →
      (∃ t, exec (.helloTimer port) s = .next t ∧ LinkSends s t p ∧ TxOnly (getLink t p) x ∧
        (x.echo = none → LastBlock s t p tyLink (linkPayload subHello (linkMsg s p subHello false 0 0))) ∧
        (∀ e, x.echo = some e → LastBlock s t p tyLink (linkPayload subEcho (linkMsg s p subEcho false 0 e)))) ∧
      (∀ m : LinkMsg, ∃ t, exec (.hello port m) s = .next t ∧ LinkSends s { t with slots := s.slots } p ∧ PseqAt s t p ∧ (getLink t p).partner = partnerWord m ∧
        (getLink t p).echo = some m.fc ∧ (getLink t p).accepted = partnerOk s p m ∧
        LastBlock s t p tyLink (linkPayload subEcho { linkMsg s p subEcho false 0 m.fc with mtch := partnerOk s p m }) ∧
        (partnerOk s p m = true → m.mtch = true → x.measured = true → (getLink t p).state = .up ∧ (getLink t p).txNext = 0 ∧ (getLink t p).rxNext = 0) ∧
        (partnerOk s p m = true → m.mtch = false ∨ x.measured = false → (getLink t p).state = told m x.state) ∧
        (partnerOk s p m = true → (getLink t p).flags = x.flags) ∧
        (partnerOk s p m = false → (getLink t p).state = .mismatch ∧
          (getLink t p).flags = (if x.state = .mismatch ∧ x.accepted = false then x.flags else raise s.fc x.flags lfCableErr))) ∧
      (∀ (m : LinkMsg) (excess : Nat), 114 < excess → ∃ t, exec (.helloEcho port m excess) s = .next t ∧ LinkOnly s t p ∧
        (getLink t p).state = .lost ∧ (getLink t p).flags = raise s.fc x.flags lfPortLost) ∧
      (∀ (m : LinkMsg) (excess : Nat), excess ≤ 114 → ∃ t, exec (.helloEcho port m excess) s = .next t ∧ LinkOnly s { t with slots := s.slots } p ∧ PseqAt s t p ∧
        (getLink t p).chdly = excess ∧ (getLink t p).measured = true ∧
        (partnerOk s p m = true → (getLink t p).state = told m .up ∧ (getLink t p).flags = x.flags) ∧
        (partnerOk s p m = false → (getLink t p).state = .mismatch ∧
          (getLink t p).flags = (if x.state = .mismatch ∧ x.accepted = false then x.flags else raise s.fc x.flags lfCableErr)))) ∧
    (x.state = .up ∨ x.state = .retrain → ∀ m : LinkMsg, ∃ t, exec (.hello port m) s = .next t ∧ LinkSends s t p ∧
      TxOnly (getLink t p) { x with echo := some m.fc } ∧ LastBlock s t p tyLink (linkPayload subEcho (linkMsg s p subEcho false 0 m.fc))) ∧
    (greeting x = false → exec (.helloTimer port) s = .next s ∧ (∀ m excess, exec (.helloEcho port m excess) s = .next s) ∧
      (x.state ≠ .up → x.state ≠ .retrain → ∀ m, exec (.hello port m) s = .next s))

/-- Blocks at a receiving half (R306, R309 to R312): a port that is not UP takes none; the first failure of the expected block is counted, and
a NAK for it leaves at once, in an IDLE block where the half sends nothing else; the failure of its second attempt starts a retrain; while the half waits, other
bad blocks are discarded uncounted and no second NAK is sent (log entry 136: which block is the second attempt is the command's). RETRAIN of the partner starts the lane test of an UP port, is not counted again by one in RETRAIN, and with LASTING = 1 counts the lasting failure; a resend timeout sends every
unacknowledged block again. -/
def Sys2Proof.Claims.LinkBlocks : Prop :=
  ∀ (port : PortNo) (s : State), port.toNat < 6 →
    let p := port.toNat
    let x := getLink s p
    (∀ (a : Arrival) (fecCorr fecUncorr : Nat) (badLanes : Word),
      let recv : Instr := .blockReceive port a fecCorr fecUncorr badLanes
      let y := { x with fecCorr := satAdd64 x.fecCorr fecCorr, fecUncorr := satAdd32 x.fecUncorr fecUncorr }
      let good := fecUncorr = 0 ∧ bType a.block.hdr ≤ 4 ∧ blockCrc x.rxNext s.torus.coord p a.block = a.block.crc.toNat
      (x.state ≠ .up → exec recv s = .next s) ∧
      (x.state = .up → ¬ good → x.waiting = false → x.nakDue = false → ackPoint s p = none →
        ∃ t, exec recv s = .next t ∧ LinkSends s t p ∧ (getLink t p).nakDue = false ∧
          TxOnly (getLink t p) { y with crcFail := satAdd32 x.crcFail 1, attempts := 1, waiting := true } ∧
          LastBlock s t p tyIdle (List.replicate 256 0) ∧
          ∃ b lane, .block p b lane ∈ t.out.drop s.out.length ∧ b.ack = ackWord { x with nakDue := true } ∧ bits b.ack.toNat 31 30 = 2) ∧
      (x.state = .up → ¬ good → x.waiting = true → a.second = true → ∃ t, exec recv s = .next t ∧ LinkSends s t p ∧
        (getLink t p).state = .retrain ∧ (getLink t p).badLanes = badLanes.toNat ∧ (getLink t p).retrain = satAdd32 x.retrain 1 ∧
        (getLink t p).rxNext = x.rxNext ∧ (getLink t p).crcFail = x.crcFail ∧
        LastBlock s t p tyLink (linkPayload subRetrain (linkMsg s p subRetrain true 0 0))) ∧
      (x.state = .up → ¬ good → x.waiting = true → a.second = false → ∃ t, exec recv s = .next t ∧
        t = { s with links := t.links, pert := t.pert } ∧ getLink t p = y ∧ ∀ q, q ≠ p → getLink t q = getLink s q)) ∧
    (∀ m : LinkMsg, (x.state ≠ .up → x.state ≠ .retrain → exec (.retrainReceived port m) s = .next s) ∧
      (x.state = .up ∨ x.state = .retrain → ∃ t, exec (.retrainReceived port m) s = .next t ∧ LinkOnly s t p ∧ (getLink t p).state = .retrain ∧
        (getLink t p).retrain = (if x.state = .up then satAdd32 x.retrain 1 else x.retrain) ∧ (getLink t p).nakSeq = none ∧
        (m.lasting = true → (getLink t p).lasting = satAdd32 x.lasting 1 ∧ (getLink t p).flags = raise s.fc x.flags lfLasting) ∧
        (m.lasting = false → (getLink t p).lasting = x.lasting ∧ (getLink t p).flags = x.flags))) ∧
    (x.state = .up → exec (.resendTimeout port) s = .next (resendFrom s p x.unacked)) ∧
    (x.state ≠ .up → exec (.resendTimeout port) s = .next s)

/-- An accepted block (R309): of one with a sequence number the half expects the next number, forgets its failures and no longer waits; an IDLE or SKIP block
changes none of this. -/
def Sys2Proof.Claims.BlockAccepted : Prop :=
  ∀ (port : PortNo) (s : State) (a : Arrival) (fecCorr : Nat) (badLanes : Word), port.toNat < 6 →
    let p := port.toNat
    let x := getLink s p
    let b := a.block
    let recv : Instr := .blockReceive port a fecCorr 0 badLanes
    x.state = .up → blockCrc x.rxNext s.torus.coord p b = b.crc.toNat →
    (sequenced b.hdr = true → ∃ t, exec recv s = .next t ∧ (getLink t p).rxNext = (x.rxNext + 1) % 2 ^ 32 ∧
      (getLink t p).waiting = false ∧ (getLink t p).attempts = 0 ∧ (getLink t p).crcFail = x.crcFail ∧ (getLink t p).state = .up ∧
      t.cores = s.cores ∧ t.slots = s.slots ∧ t.fns = s.fns) ∧
    (bType b.hdr = tyIdle ∨ bType b.hdr = tySkip → ∃ t, exec recv s = .next t ∧ (getLink t p).rxNext = x.rxNext ∧
      (getLink t p).waiting = x.waiting ∧ (getLink t p).attempts = x.attempts ∧ (getLink t p).crcFail = x.crcFail ∧ (getLink t p).state = .up ∧
      t.cores = s.cores ∧ t.slots = s.slots ∧ t.fns = s.fns)

/-- The end of a lane test (R312, R313): failed lanes are retired with their groups, which is a fault of class LANE; with a group left in each half and no
third retrain within 1 s that retires none the port is UP again with its sequence numbers; else the link is lost. BREAK of another link changes the mode of its axis
(R316); on the link itself it loses that link. -/
def Sys2Proof.Claims.LaneTestAndBreak : Prop :=
  ∀ (port : PortNo) (s : State), port.toNat < 6 →
    let p := port.toNat
    let x := getLink s p
    (∀ txBad rxBad : Word, x.state ≠ .retrain → exec (.laneTestEnd port txBad rxBad) s = .next s) ∧
    (∀ txBad rxBad : Word, x.state = .retrain →
      let tx := x.txRetired ||| txBad.toNat
      let rx := x.rxRetired ||| (rxBad.toNat ||| x.badLanes)
      let idles := (x.idle ++ [s.fc]).filter (fun t => decide (s.fc < t + 1200000000))
      (groupsOf tx ≠ 0 → groupsOf rx ≠ 0 → tx ≠ x.txRetired ∨ rx ≠ x.rxRetired → ∃ t, exec (.laneTestEnd port txBad rxBad) s = .next t ∧
        (getLink t p).state = .up ∧ (getLink t p).txRetired = tx ∧ (getLink t p).rxRetired = rx ∧ (getLink t p).txGroups = groupsOf tx ∧
        (getLink t p).rxGroups = groupsOf rx ∧ (getLink t p).rxNext = x.rxNext ∧ t.fault.cls = fcLane) ∧
      (groupsOf tx ≠ 0 → groupsOf rx ≠ 0 → tx = x.txRetired → rx = x.rxRetired → idles.length < 3 → ∃ t, exec (.laneTestEnd port txBad rxBad) s = .next t ∧
        (getLink t p).state = .up ∧ (getLink t p).idle = idles ∧ (getLink t p).rxNext = x.rxNext ∧ t.fault.recNo = s.fault.recNo) ∧
      (tx = x.txRetired → rx = x.rxRetired → 3 ≤ idles.length → ∃ t, exec (.laneTestEnd port txBad rxBad) s = .next t ∧ (getLink t p).state = .lost) ∧
      (groupsOf tx = 0 ∨ groupsOf rx = 0 → ∃ t, exec (.laneTestEnd port txBad rxBad) s = .next t ∧ (getLink t p).state = .lost)) ∧
    (∀ m : LinkMsg,
      let a := m.port.toNat % 4
      let own := a = portAxis p ∧ m.brk.toNat % 2 ^ 15 = breakCoord s p
      (¬ own ∨ (x.state ≠ .up ∧ x.state ≠ .retrain) →
        ∃ t, exec (.breakBlock port m) s = .next t ∧ t.torus.mode = (ringBreak s a m.brk.toNat).torus.mode ∧
          t.torus.brk = (ringBreak s a m.brk.toNat).torus.brk ∧ t.cores = s.cores) ∧
      (own → x.state = .up ∨ x.state = .retrain → ∃ t, exec (.breakBlock port m) s = .next t ∧ (getLink t p).state = .lost))

/-- TORUS_COORD and TORUS_LEN (R303, R432): a PF with an operator session sets them while every port is DOWN; any other write of a PF raises
CFG_ERR, and one of a VF is discarded. -/
def Sys2Proof.Claims.TorusRegisters : Prop :=
  ∀ (f : FnAddr) (value : Word) (s : State), Answers f s →
    let k := fnKeyOf f
    let down := (List.range 6).all (fun p => !(getLink s p).en && (getLink s p).state == .down)
    (fnIsPf k = false → exec (.torusCoord f value) s = .next s ∧ exec (.torusLen f value) s = .next s) ∧
    (fnIsPf k = true → down = true → operatorSession s k = true →
      exec (.torusCoord f value) s = .next { s with torus := { s.torus with coord := value.toNat % 2 ^ 15 } } ∧
      exec (.torusLen f value) s = .next { s with torus := { s.torus with len := value.toNat % 2 ^ 15 } }) ∧
    (fnIsPf k = true → down = false ∨ operatorSession s k = false →
      exec (.torusCoord f value) s = .next { s with torus := { s.torus with flags := raise s.fc s.torus.flags xfCfgErr } } ∧
      exec (.torusLen f value) s = .next { s with torus := { s.torus with flags := raise s.fc s.torus.flags xfCfgErr } })


/-! ### Host ports, functions and sessions (R257 to R275, R400, R416, R446) -/

/-- Function reset (R261, R416, R436): a VF reset returns that function to its reset values, except AUTH_FAILS, the check sets and its ring range; a PF
reset does so for the PF and every VF of the port, ring ranges included, and takes the VFs away (Table 11.1). No other function changes, and memory
only where a RUN that was collecting its entries on a reset ring ends and the next RUN of its partition starts (log entry 132). -/
def Sys2Proof.Claims.FunctionReset : Prop :=
  ∀ (f : FnAddr) (s : State), fnAddrOk f = true →
    (f.fn ≠ 0 → ∃ t, exec (.functionLevelReset f) s = .next t ∧ getFn t (fnKeyOf f) = resetFnSt (fnKeyOf f) true (getFn s (fnKeyOf f)) ∧
      (∀ k, k ≠ fnKeyOf f → getFn t k = getFn s k) ∧ t.torus.coord = s.torus.coord ∧
      ((∀ r ∈ fnRingList s (fnKeyOf f), collecting s r = none) → t.tiers.hbm = s.tiers.hbm)) ∧
    (f.fn = 0 → ∃ t, exec (.functionLevelReset f) s = .next t ∧
      (∀ n, n ≤ 64 → getFn t (fnKey f.port.toNat n) = resetFnSt (fnKey f.port.toNat n) false (getFn s (fnKey f.port.toNat n))) ∧
      (∀ n, n ≤ 64 → getFn t (fnKey (1 - f.port.toNat) n) = getFn s (fnKey (1 - f.port.toNat) n)) ∧
      (getPort t f.port.toNat).up = (getPort s f.port.toNat).up ∧ (getPort t f.port.toNat).vfEnable = false ∧
      (getPort t f.port.toNat).numVfs = 0 ∧ ∀ n, 1 ≤ n → n ≤ 64 → fnReach t (fnKey f.port.toNat n) = false)

/-- Port resets and the release of PERST# (R261, R263, R446): every function of the port is reset and its VFs are disabled; PERST# and a Surprise Down take the link
down, a Hot Reset does not; a Surprise Down is a fault of class HOST while the other port is up, else it is uncovered. After PERST# the port trains
once boot stage 2 has ended. -/
def Sys2Proof.Claims.PortResets : Prop :=
  ∀ (port : BitVec 1) (s : State),
    let p := port.toNat
    (∀ kind, ∃ t, exec (.portReset port kind) s = .next t ∧
      (∀ n, n ≤ 64 → getFn t (fnKey p n) = resetFnSt (fnKey p n) false (getFn s (fnKey p n))) ∧
      (getPort t p).vfEnable = false ∧ (getPort t p).numVfs = 0 ∧
      (kind = .perst → (getPort t p).perst = true ∧ (getPort t p).up = false) ∧
      (kind = .hotReset → (getPort t p).up = (getPort s p).up ∧ (getPort t p).perst = (getPort s p).perst) ∧
      (kind = .surpriseDown → (getPort t p).up = false ∧ t.fault.cls = (if (getPort s (1 - p)).up = true then fcHost else fcUncovered) ∧
        t.fault.die = 0x38 + p ∧ t.fault.recNo = (s.fault.recNo + 1) % 256)) ∧
    ∃ t, exec (.perstRelease port) s = .next t ∧ t = { s with ports := t.ports, clock := t.clock } ∧ (getPort t p).perst = false ∧
      ((getPort t p).up = true ↔ s.power.coldReset = false ∧ s.power.on = true ∧ 2 < s.handle.stage ∧ isFenced s (0x38 + p) = false) ∧
      (∀ q, q ≠ p → getPort t q = getPort s q)

/-- D3hot (R264): a function that enters it answers no more; a challenge is dropped, a command in progress goes on and closes what it opens, an
open session starts to close. On leaving it the function answers again: with no session, where one was closing (the role and domain under which its
fetched descriptors are decided stay until it has closed: log entry 134), and else as it was. -/
def Sys2Proof.Claims.PowerStateD3 : Prop :=
  ∀ (f : FnAddr) (s : State), fnAddrOk f = true →
    let k := fnKeyOf f
    let x := getFn s k
    (∃ t, exec (.d3hot f true) s = .next t ∧ fnReach t k = false ∧ (∀ j, j ≠ k → getFn t j = getFn s j) ∧
      (x.mbState = .opened → (getFn t k).mbState = .closing ∧ (getFn t k).session = x.session) ∧
      (x.mbState = .closing → getFn t k = { x with d3hot := true }) ∧
      (x.mbState = .busy → getFn t k = { x with d3hot := true, cmd := x.cmd.map (fun c => { c with thenClose := true }) }) ∧
      (x.mbState = .challenged ∨ x.mbState = .idle → getFn t k = { x with d3hot := true, mbState := .idle, devNonce := [], role := 0 })) ∧
    ∃ t, exec (.d3hot f false) s = .next t ∧ (∀ j, j ≠ k → getFn t j = getFn s j) ∧
      (x.mbState ≠ .closing → t = { s with fns := t.fns } ∧ getFn t k = { x with d3hot := false }) ∧
      (x.mbState = .closing → (getFn t k).session = 0 ∧ (getFn t k).d3hot = false ∧ (getFn t k).mbState = .closing ∧ (getFn t k).role = x.role ∧
        (getFn t k).domain = x.domain ∧ (getFn t k).cmd = x.cmd ∧ t.rings = s.rings ∧
        (s.pert.en = true → s.pert.ownerFn = k → x.session ≠ 0 → t.pert.en = false ∧ t.pert.owner = 0))

namespace Sys2Proof.Claims

/-- The mailbox of a function takes commands (R268, R400). -/
def MailboxFree (s : State) (k : Nat) : Prop :=
  deviceReady s = true ∧ (getFn s k).cmd = none ∧ (getFn s k).mbState ≠ .busy ∧ (getFn s k).mbState ≠ .closing

/-- A command ends at once with a result: SEQ and RESULT are written, STATE is as given, and vector 0 is signalled or pending. -/
def EndsAtOnce (s t : State) (k seq result : Nat) (st : MbState) : Prop :=
  t = { s with fns := t.fns, out := t.out } ∧ (∀ j, j ≠ k → getFn t j = getFn s j) ∧
  (getFn t k).mbSeq = seq ∧ (getFn t k).mbResult = result ∧ (getFn t k).mbState = st ∧ (getFn t k).cmd = none ∧
  (getFn t k).session = (getFn s k).session ∧
  (if msixMasked (getFn s k) 0 = true then t.out = s.out ∧ mget false (getFn t k).msixPend 0 = true
   else t.out = s.out ++ [.msix (fnPort k) (k % 65) 0])

/-- A command starts: STATE is BUSY and what it uses is latched; nothing but the function changes. -/
def Starts (s t : State) (k op seq key : Nat) : Prop :=
  t = { s with fns := t.fns } ∧ (∀ j, j ≠ k → getFn t j = getFn s j) ∧ (getFn t k).mbState = .busy ∧
  (getFn t k).session = (getFn s k).session ∧
  ∃ c, (getFn t k).cmd = some c ∧ c.op = op ∧ c.seq = seq ∧ c.key = key ∧ c.nonce = (getFn s k).hostNonce ∧ c.mac = (getFn s k).hostMac ∧
    c.password = (List.range (getFn s k).pwLen).map (nth 0 (getFn s k).password) ∧ c.entry = mget {} s.handle.keys (keyNo key) ∧
    c.verifier = s.handle.verifier ∧ c.thenClose = false ∧
    c.locked = (getLock s (if op = mbPassword then lockService else keyNo key)).locked

end Sys2Proof.Claims

/-- Mailbox commands (R268, R269, R271, R273, R274, R400): which start, which end at once and with what result, and which are discarded. -/
def Obligations.MailboxCommands : Prop :=
  ∀ (f : FnAddr) (seq : Byte) (s : State), Answers f s →
    let k := fnKeyOf f
    let x := getFn s k
    (¬ MailboxFree s k → exec (.openMb f seq) s = .next s ∧ exec (.proveMb f seq) s = .next s ∧ exec (.closeMb f seq) s = .next s ∧
      exec (.passwordMb f seq) s = .next s ∧ ∀ value, exec (.mbCmd f value) s = .next s) ∧
    (MailboxFree s k →
      (x.mbState = .idle →
        (∃ t, exec (.openMb f seq) s = .next t ∧ Starts s t k mbOpen seq.toNat x.mbKey) ∧
        (∃ t, exec (.proveMb f seq) s = .next t ∧ EndsAtOnce s t k seq.toNat sNoSession .idle) ∧
        (∃ t, exec (.closeMb f seq) s = .next t ∧ EndsAtOnce s t k seq.toNat sNoSession .idle) ∧
        (keyRole x.mbKey = 4 → fnIsPf k = true → 8 ≤ x.pwLen → x.pwLen ≤ 64 →
          ∃ t, exec (.passwordMb f seq) s = .next t ∧ Starts s t k mbPassword seq.toNat x.mbKey) ∧
        (keyRole x.mbKey ≠ 4 ∨ fnIsPf k = false →
          ∃ t, exec (.passwordMb f seq) s = .next t ∧ EndsAtOnce s t k seq.toNat sBadRole .idle) ∧
        (keyRole x.mbKey = 4 → fnIsPf k = true → x.pwLen < 8 ∨ 64 < x.pwLen →
          ∃ t, exec (.passwordMb f seq) s = .next t ∧ EndsAtOnce s t k seq.toNat sBadCount .idle)) ∧
      (x.mbState = .challenged →
        (∃ t, exec (.openMb f seq) s = .next t ∧ EndsAtOnce s t k seq.toNat sSessionBusy .challenged) ∧
        (∃ t, exec (.proveMb f seq) s = .next t ∧ Starts s t k mbProve seq.toNat x.chKey) ∧
        (∃ t, exec (.closeMb f seq) s = .next t ∧ EndsAtOnce s t k seq.toNat sSuccess .idle) ∧
        (∃ t, exec (.passwordMb f seq) s = .next t ∧ EndsAtOnce s t k seq.toNat sSessionBusy .challenged)) ∧
      (x.mbState = .opened →
        (∃ t, exec (.openMb f seq) s = .next t ∧ EndsAtOnce s t k seq.toNat sSessionBusy .opened) ∧
        (∃ t, exec (.proveMb f seq) s = .next t ∧ EndsAtOnce s t k seq.toNat sSessionBusy .opened) ∧
        (∃ t, exec (.closeMb f seq) s = .next t ∧ (getFn t k).mbState = .closing ∧ (getFn t k).session = x.session ∧
          (∀ j, j ≠ k → getFn t j = getFn s j) ∧ ((∀ r, collecting s r = none) → t = { s with fns := t.fns, rings := t.rings } ∧
            ∀ r, ownsRing s k r = true → (getRing t r).enable = false ∨ r ∉ s.rings.map (·.1)))) ∧
      ∀ value : Word, bits value.toNat 7 0 = 0 ∨ 4 < bits value.toNat 7 0 →
        ∃ t, exec (.mbCmd f value) s = .next t ∧ EndsAtOnce s t k (bits value.toNat 31 24) sBadOpcode x.mbState)

/-- Ends of mailbox commands (R269, R271 to R274): OPEN challenges with 32 random bytes or refuses; a right PROVE or PASSWORD opens the
session, a wrong one is counted, flagged and logged; a session that closes ends only when every ring of the function is inactive. -/
def Sys2Proof.Claims.MailboxEnds : Prop :=
  ∀ (f : FnAddr) (s : State) (c : MbCmd), fnAddrOk f = true →
    (handleUp s = false → exec (.mbCommandEnd f) s = .next s) ∧ (handleUp s = true →
    let k := fnKeyOf f
    let x := getFn s k
    let role := keyRole c.key
    let lock := keyNo c.key
    (x.mbState = .busy → x.cmd = some c →
      (c.op = mbOpen → 1 ≤ role → role ≤ 3 → (fnIsPf k = true ∨ role = 1) → c.entry.role = role → c.locked = false → c.thenClose = false →
        ∃ t, exec (.mbCommandEnd f) s = .next t ∧ (getFn t k).mbState = .challenged ∧ (getFn t k).mbResult = sSuccess ∧ (getFn t k).mbSeq = c.seq ∧
          (getFn t k).devNonce = (List.range 32).map (Config.randomByte s.draws) ∧ (getFn t k).chKey = c.key ∧ (getFn t k).session = x.session) ∧
      (c.op = mbOpen → c.entry.role ≠ role → 1 ≤ role → role ≤ 3 → (fnIsPf k = true ∨ role = 1) →
        ∃ t, exec (.mbCommandEnd f) s = .next t ∧ EndsAtOnce s t k c.seq sAuthFail .idle) ∧
      (c.op = mbOpen → role = 0 ∨ 3 < role ∨ (fnIsPf k = false ∧ role ≠ 1) →
        ∃ t, exec (.mbCommandEnd f) s = .next t ∧ EndsAtOnce s t k c.seq sBadRole .idle) ∧
      (c.op = mbProve → c.locked = false → c.thenClose = false → c.entry.role = role →
        array32 c.mac = hmac c.entry.key (proofMessage 1 k c.key x.devNonce x.chNonce) →
        ∃ t, exec (.mbCommandEnd f) s = .next t ∧ (getFn t k).mbState = .opened ∧ (getFn t k).mbResult = sSuccess ∧ (getFn t k).role = role ∧
          (getFn t k).keyId = lock ∧ (getFn t k).domain = (if role = 1 then c.entry.domain else 0) ∧ (getFn t k).chk = [] ∧
          getLock t lock = { fails := 0, locked := (getLock s lock).locked, secs := 0 } ∧
          (getFn t k).devMac = hmac c.entry.key (proofMessage 2 k c.key x.chNonce x.devNonce)) ∧
      (c.op = mbProve → c.locked = false →
        array32 c.mac ≠ hmac c.entry.key (proofMessage 1 k c.key x.devNonce x.chNonce) →
        ∃ t, exec (.mbCommandEnd f) s = .next t ∧ (getFn t k).mbState = .idle ∧ (getFn t k).mbResult = sAuthFail ∧
          (getFn t k).authFails = satAdd32 x.authFails 1 ∧ (getFn t k).hostFlags = raise s.fc x.hostFlags hfAuthFail ∧
          getLock t lock = failLock (getLock s lock) ∧ t.handle.nextSeq = s.handle.nextSeq + 1 ∧ (getFn t k).session = x.session) ∧
      (c.op = mbPassword → c.locked = false → (∀ v, c.verifier = some v → verify v.1 c.password ≠ v.2) →
        ∃ t, exec (.mbCommandEnd f) s = .next t ∧ (getFn t k).mbState = .idle ∧ (getFn t k).mbResult = sAuthFail ∧
          (getFn t k).password = [] ∧ (getFn t k).pwLen = 0 ∧ getLock t lockService = failLock (getLock s lockService)) ∧
      (∀ v, c.op = mbPassword → c.locked = false → c.thenClose = false → c.verifier = some v → verify v.1 c.password = v.2 → serviceHeld s k = false →
        ∃ t, exec (.mbCommandEnd f) s = .next t ∧ (getFn t k).mbState = .opened ∧ (getFn t k).mbResult = sSuccess ∧ (getFn t k).role = 4)) ∧
    (x.mbState = .closing → x.cmd = some c → fnQuiet s k = true →
      ∃ t, exec (.mbCommandEnd f) s = .next t ∧ (getFn t k).session = 0 ∧ (getFn t k).role = 0 ∧ (getFn t k).mbState = .idle ∧
        (getFn t k).mbResult = sSuccess) ∧
    (x.mbState = .closing → x.cmd = none → fnQuiet s k = true →
      ∃ t, exec (.mbCommandEnd f) s = .next t ∧ (getFn t k).session = 0 ∧ (getFn t k).role = 0 ∧ (getFn t k).mbState = .idle ∧
        (getFn t k).mbResult = x.mbResult ∧ t.out = s.out) ∧
    (x.mbState = .closing → fnQuiet s k = false → exec (.mbCommandEnd f) s = .next s) ∧
    (x.mbState ≠ .closing → x.cmd = none → exec (.mbCommandEnd f) s = .next s))

/-- A session that opens gets an identifier that no session of the package holds (R271). -/
def Sys2Proof.Claims.SessionIdIsFree : Prop :=
  ∀ (s : State), (heldIds s).length < 0xFFFF → 1 ≤ (freshId s).1 ∧ (freshId s).1 ≤ 0xFFFF ∧ (freshId s).1 ∉ heldIds s

/-- Lock-outs and challenges (R271, R272): a success brings the count back to 0, and the next lock to 60 s; the fourth failure in a row locks for 60 s, each later one for twice the time up to 3,840 s; a failure
under a lock changes neither; a lock ends at its time and keeps its count; a challenge expires to NONE with AUTH_EXPIRED. -/
def Sys2Proof.Claims.LockOut : Prop :=
  (∀ l : LockSt, (failLock l).fails = l.fails + 1 ∧ (l.locked = true → failLock l = { l with fails := l.fails + 1 }) ∧
    (l.locked = false → 3 ≤ l.fails → (failLock l).locked = true ∧ (failLock l).secs = (if l.secs = 0 then 60 else min (2 * l.secs) 3840)) ∧
    (l.locked = false → l.fails < 3 → (failLock l).locked = false) ∧
    (failLock (failLock (failLock (failLock (passLock { l with locked := false }))))).secs = 60) ∧
  (∀ (key : BitVec 11) (s : State), ∃ t, exec (.lockExpiry key) s = .next t ∧ t = { s with handle := { s.handle with locks := t.handle.locks } } ∧
    getLock t key.toNat = { getLock s key.toNat with locked := false } ∧ ∀ j, j ≠ key.toNat → getLock t j = getLock s j) ∧
  (∀ (f : FnAddr) (s : State), fnAddrOk f = true →
    let k := fnKeyOf f
    ((getFn s k).mbState ≠ .challenged → exec (.authExpired f) s = .next s) ∧
    ((getFn s k).mbState = .challenged → ∃ t, exec (.authExpired f) s = .next t ∧ t = { s with fns := t.fns, out := t.out } ∧
      (getFn t k).mbState = .idle ∧ (getFn t k).mbResult = sAuthExpired ∧ (getFn t k).devNonce = [] ∧ (getFn t k).role = 0 ∧
      (getFn t k).session = (getFn s k).session ∧ ∀ j, j ≠ k → getFn t j = getFn s j))

/-! ### Descriptor rings (R275 to R284, R294 to R299) -/

/-- RING_CTL (R275, R278, R297): an enable of an inactive ring of the function with an open session starts it from index 0 and phase 1 with a
size of 2^(SIZE+6); with no session NO_SESSION is raised; a wrong size, or a ring that is still active, raises CFG_ERR; ENABLE = 1 on an enabled ring sets
the other fields (log entry 133). ENABLE = 0 stops the fetching after the read that is out; an empty ring is inactive at once, and a RUN that collects
its entries on a ring that brings no more ends (R274). -/
def Sys2Proof.Claims.RingControl : Prop :=
  ∀ (f : FnAddr) (value : BitVec 31) (s : State), Answers f s →
    let k := fnKeyOf f
    let r := (getFn s k).ringSel
    let x := getRing s r
    let size := bits value.toNat 29 26
    let y : RingSt := { x with size := size, modCnt := bits value.toNat 25 19, modTime := bits value.toNat 18 11, vector := bits value.toNat 10 0 }
    (ownsRing s k r = false → exec (.ringEnable f value) s = .next s ∧ exec (.ringDisable f value) s = .next s) ∧
    (ownsRing s k r = true →
      (x.enable = false → x.active = false → size < 11 → (getFn s k).mbState = .opened →
        ∃ t, exec (.ringEnable f value) s = .next t ∧ t = { s with rings := t.rings } ∧ (∀ q, q ≠ r → getRing t q = getRing s q) ∧
          (getRing t r).enable = true ∧ (getRing t r).active = true ∧ ringSize (getRing t r) = 2 ^ (size + 6) ∧ (getRing t r).fetch = 0 ∧
          (getRing t r).cidx = 0 ∧ (getRing t r).phase = true ∧ (getRing t r).modCnt = bits value.toNat 25 19 ∧
          (getRing t r).modTime = bits value.toNat 18 11 ∧ (getRing t r).vector = bits value.toNat 10 0 ∧
          (getRing t r).sq = x.sq ∧ (getRing t r).cq = x.cq) ∧
      (x.enable = false → x.active = false → size < 11 → (getFn s k).mbState ≠ .opened →
        exec (.ringEnable f value) s = .next (raiseHost s k hfNoSession)) ∧
      (x.enable = false → x.active = true ∨ 11 ≤ size → exec (.ringEnable f value) s = .next (raiseRing s k rfCfgErr)) ∧
      (x.enable = true ∨ x.active = true → size ≠ x.size → exec (.ringEnable f value) s = .next (raiseRing s k rfCfgErr) ∧
        exec (.ringDisable f value) s = .next (raiseRing s k rfCfgErr)) ∧
      (x.enable = true → size = x.size → exec (.ringEnable f value) s = .next (setRing s r y)) ∧
      (x.enable = false → x.active = false → collecting s r = none → ∃ t, exec (.ringDisable f value) s = .next t ∧
        t = { s with rings := t.rings } ∧ getRing t r = y ∧ ∀ q, q ≠ r → getRing t q = getRing s q) ∧
      (x.enable = true → size = x.size → collecting s r = none → ∃ t, exec (.ringDisable f value) s = .next t ∧ t = { s with rings := t.rings } ∧
        (∀ q, q ≠ r → getRing t q = getRing s q) ∧ (getRing t r).enable = false ∧
        (getRing t r).target = x.target.map (fun _ => (x.fetch + fetchRoom (readSize s (fnPort k)) x) % ringSize x) ∧
        (getRing t r).ready = x.ready ∧ (getRing t r).open_ = x.open_ ∧ (getRing t r).modCnt = bits value.toNat 25 19 ∧
        (x.ready = [] → x.open_ = [] → x.target = none → (getRing t r).active = false) ∧
        (x.ready ≠ [] ∨ x.open_ ≠ [] ∨ x.target ≠ none → (getRing t r).active = x.active)) ∧
      (∀ n q, x.enable = true → size = x.size → x.target = none → x.ready = [] → collecting s r = some n → (getSlot s n).run = some q →
        ∃ t, exec (.ringDisable f value) s = .next t ∧ (getSlot t n).run = none))

/-- FN_RINGS (R276, R277): a PF gives a function a range within its port's 8,192 rings that meets no other function's and moves no live ring; any
other range raises CFG_ERR, and a VF's write has no effect. -/
def Sys2Proof.Claims.RingRanges : Prop :=
  ∀ (f : FnAddr) (value : Word) (s : State), Answers f s →
    let k := fnKeyOf f
    let sel := (getFn s k).fnSel
    let first := bits value.toNat 12 0
    let count := bits value.toNat 31 18
    (fnIsPf k = false ∨ 64 < sel → exec (.fnRings f value) s = .next s) ∧
    (fnIsPf k = true → sel ≤ 64 → 8192 < first + count → exec (.fnRings f value) s = .next (raiseRing s k rfCfgErr)) ∧
    (fnIsPf k = true → sel ≤ 64 → (∃ n, n ≤ 64 ∧ n ≠ sel ∧ rangesMeet first count (getFn s (fnKey (fnPort k) n)).ringFirst (getFn s (fnKey (fnPort k) n)).ringCount = true) →
      exec (.fnRings f value) s = .next (raiseRing s k rfCfgErr)) ∧
    (fnIsPf k = true → sel ≤ 64 → first + count ≤ 8192 →
      (∀ n, n ≤ 64 → n ≠ sel → rangesMeet first count (getFn s (fnKey (fnPort k) n)).ringFirst (getFn s (fnKey (fnPort k) n)).ringCount = false) →
      (∀ r ∈ s.rings, ringLive r.2 = false) →
      ∃ t, exec (.fnRings f value) s = .next t ∧ t = { s with fns := t.fns } ∧
        getFn t (fnKey (fnPort k) sel) = { getFn s (fnKey (fnPort k) sel) with ringFirst := first, ringCount := count } ∧
        ∀ j, j ≠ fnKey (fnPort k) sel → getFn t j = getFn s j)

/-- Polls and fetches (R278, R279, R283, R284): a poll of the doorbell area at DB_BASE looks only at enabled rings of the function flagged in
both levels, reads the word at 0x1000 + 4 · k for the function's k-th ring, starts a fetch where the TAIL differs from the fetch index and none goes
on, and raises DB_ERR for a TAIL not below the ring size; a read of a fetch lies at RING_SQ + 64 · index, takes at most eight descriptors and no more than
Max Read Request Size allows, and ends the fetch at its TAIL. A function that is no bus master reads nothing (log entry 131). -/
def Sys2Proof.Claims.DoorbellsAndFetch : Prop :=
  (∀ (f : FnAddr) (pr : PollRead) (s : State), Answers f s →
    let k := fnKeyOf f
    let x := getFn s k
    (x.pollEn = false ∨ x.cfg.master = false ∨ pr.base.toNat ≠ x.dbBase → exec (.doorbellPoll f pr) s = .next s) ∧
    (x.pollEn = true → x.cfg.master = true → pr.base.toNat = x.dbBase →
      ∃ t, exec (.doorbellPoll f pr) s = .next t ∧ t = { s with rings := t.rings, fns := t.fns } ∧
      (∀ r, r ∉ polledRings s k pr → getRing t r = getRing s r) ∧
      (∀ r, polledRings s k pr = [r] → doorbellWord pr.words ((x.dbBase + 0x1000 + 4 * (r % 8192 - x.ringFirst)) % 2 ^ 64) = none → t = s) ∧
      (∀ r, polledRings s k pr = [r] → ∀ w, doorbellWord pr.words ((x.dbBase + 0x1000 + 4 * (r % 8192 - x.ringFirst)) % 2 ^ 64) = some w →
        (ringSize (getRing s r) ≤ w.toNat % 2 ^ 16 → getRing t r = getRing s r ∧ (getFn t k).ringFlags = raise s.fc x.ringFlags rfDbErr) ∧
        (w.toNat % 2 ^ 16 < ringSize (getRing s r) → t.fns = s.fns ∧ getRing t r =
          (if w.toNat % 2 ^ 16 ≠ (getRing s r).fetch ∧ (getRing s r).target = none then { getRing s r with target := some (w.toNat % 2 ^ 16) }
           else getRing s r))))) ∧
  (∀ (ring : BitVec 14) (o : FetchRead) (s : State),
    let r := ring.toNat
    let x := getRing s r
    let m := 128 * 2 ^ min (getFn s (fnKey (r / 8192) 0)).cfg.mrrs 5
    let tl := (x.fetch + o.descs.length) % ringSize x
    (o.descs = [] ∨ fetchRoom m x < o.descs.length ∨ o.addr.toNat ≠ (x.sq + 64 * x.fetch) % 2 ^ 64 ∨
        (fnOfRing s r).any (fun k => (getFn s k).cfg.master) = false →
      exec (.descriptorFetch ring o) s = .next s) ∧
    (o.descs ≠ [] → o.descs.length ≤ fetchRoom m x → o.addr.toNat = (x.sq + 64 * x.fetch) % 2 ^ 64 →
        (fnOfRing s r).any (fun k => (getFn s k).cfg.master) = true →
      o.descs.length ≤ 8 ∧ 64 * o.descs.length ≤ m ∧ ∃ t, exec (.descriptorFetch ring o) s = .next t ∧
      t = { s with rings := t.rings } ∧ (∀ q, q ≠ r → getRing t q = getRing s q) ∧ (getRing t r).fetch = tl ∧
      (getRing t r).target = (if x.target = some tl then none else x.target) ∧
      (getRing t r).ready = x.ready ++ o.descs.zipIdx.map (fun d => (x.fetch + d.2, d.1.toNat)) ∧ (getRing t r).open_ = x.open_))

/-- Completions (R186, R262, R294 to R296): the next outcome fixed leaves its ring as a 16-byte completion at the completion index, with the
report of a RUN before it, and a copy that completes holds no bank any longer; the phase turns after the last entry; a completion of a function that was
reset is discarded and counted. The moderation timer signals what is not yet signalled, and nothing where there is nothing. A function that is no bus
master writes nothing (log entry 131). -/
def Sys2Proof.Claims.Completions : Prop :=
  (∀ (ring : BitVec 14) (s : State), (getRing s ring.toNat).finished = [] → exec (.descriptorComplete ring) s = .next s) ∧
  (∀ (ring : BitVec 14) (s : State) (id : Nat) (ids : List Nat) (d : DescSt),
    let r := ring.toNat
    let x := getRing s r
    let master := (fnOfRing s r).all (fun k => (getFn s k).cfg.master)
    x.finished = id :: ids → x.open_.find? (fun d => d.id == id) = some d →
    (d.orphan = true → ∃ t, exec (.descriptorComplete ring) s = .next t ∧ (getPort t (r / 8192)).cplDrop = satAdd32 (getPort s (r / 8192)).cplDrop 1 ∧
      t.out = s.out ∧ (getFn t (fnKey (r / 8192) 0)).hostFlags = raise s.fc (getFn s (fnKey (r / 8192) 0)).hostFlags hfCplDrop) ∧
    (d.orphan = false → master = false → exec (.descriptorComplete ring) s = .next s) ∧
    (d.orphan = false → master = true → ∃ t rest, exec (.descriptorComplete ring) s = .next t ∧
      t.out = s.out ++ (match d.report with | some q => [.hostWrite (r / 8192) q.1 q.2] | none => []) ++
        [.hostWrite (r / 8192) (x.cq + 16 * x.cidx) (completionEntry d x.fetch x.phase)] ++ rest ∧
      (completionEntry d x.fetch x.phase).length = 16 ∧
      (getRing t r).cidx = (if x.cidx + 1 = ringSize x then 0 else x.cidx + 1) ∧
      (getRing t r).phase = (if x.cidx + 1 = ringSize x then !x.phase else x.phase) ∧ (getRing t r).written = x.written + 1 ∧
      (bit d.raw 8 = false → d.status = some 0 → x.unsig + 1 < max x.modCnt 1 → rest = [] ∧ (getRing t r).unsig = x.unsig + 1) ∧
      (∀ q, q ≠ r → getRing t q = getRing s q) ∧ t.cores = s.cores ∧ t.tiers = s.tiers ∧
      ∀ n, getSlot t n = { getSlot s n with copies := (getSlot s n).copies.filter (fun c => !(c.1 == r && c.2.1 == id)) })) ∧
  (∀ (ring : BitVec 14) (s : State),
    let x := getRing s ring.toNat
    let master := (fnOfRing s ring.toNat).all (fun k => (getFn s k).cfg.master)
    (x.modTime = 0 ∨ x.unsig = 0 ∨ master = false → exec (.moderationTimer ring) s = .next s) ∧
    (x.modTime ≠ 0 → x.unsig ≠ 0 → master = true → ∃ t rest, exec (.moderationTimer ring) s = .next t ∧ (getRing t ring.toNat).unsig = 0 ∧
      t.out = s.out ++ [.hostWrite (ring.toNat / 8192) (x.cq + 16 * ringSize x) (bytesLE 8 (x.written % 2 ^ 32))] ++ rest ∧
      t = { s with rings := t.rings, fns := t.fns, out := t.out }))



/-! ### Decision of descriptors (R286, R287, R289, R291) -/

namespace Sys2Proof.Claims

/-- `raw`, of ring index `i`, is the oldest fetched descriptor of the ring of `o`; function `k` owns the ring, no FENCE of the ring is open, no ring
that goes before it has a descriptor ready (R287) and no RUN collects from it, so that the device decides this descriptor. The acceptance numbers of the ring lie below the next one. -/
def AtHead (o : DescOp) (s : State) (k i raw : Nat) (rest : List (Nat × Nat)) : Prop :=
  let x := getRing s o.ring.toNat
  x.ready = (i, raw) :: rest ∧ fnOfRing s o.ring.toNat = some k ∧ fenceOpen x = false ∧ ringFirst s o.ring.toNat = true ∧
  x.collect = none ∧ ∀ d ∈ x.open_, d.id < x.nextId ∧ ∀ n, d.ofRun = some n → n < x.nextId

/-- The head of the ring is accepted: it becomes an open descriptor. -/
def takenHead (o : DescOp) (s : State) (i raw : Nat) (rest : List (Nat × Nat)) : State :=
  let x := getRing s o.ring.toNat
  setRing s o.ring.toNat { x with ready := rest, open_ := x.open_ ++ [{ id := x.nextId, idx := i, raw := raw }], nextId := x.nextId + 1 }

/-- The head of the ring ends with a status and a DETAIL in a state that differs from `u` in this ring alone: it waits for its completion. -/
def endsHead (o : DescOp) (s : State) (i raw : Nat) (rest : List (Nat × Nat)) (u : State) (status detail : Nat) : State :=
  let x := getRing s o.ring.toNat
  let d : DescSt := { id := x.nextId, idx := i, raw := raw, status := some status, detail := detail }
  setRing u o.ring.toNat { x with ready := rest, open_ := x.open_ ++ [d], finished := x.finished ++ [x.nextId], nextId := x.nextId + 1 }

/-- What the execution of the head of a ring of a row with plan `p` sees; its buffer-table entries are those that were read at BUF_BASE + 16 · i (R282). -/
def headEnv (o : DescOp) (s : State) (k raw : Nat) (p : Plan) : DescEnv :=
  { r := o.ring.toNat, k := k, id := (getRing s o.ring.toNat).nextId, raw := raw, o := o, es := readEntries (getFn s k) o p }

/-- A descriptor passes the acceptance checks 2 to 9 (Table 12.2): its reserved fields are 0, the role of the session permits it, service mode is set
where it needs it, what it names exists, its counts and its length are not 0, its buffers exist, permit the direction and are long enough; and where it
uses buffers, the function is a bus master and their entries and data have been read. -/
abbrev Accepted (s : State) (k raw : Nat) (es : List BufEntry) (p : Plan) : Prop :=
  reservedZero raw p.fields = true ∧ p.form = true ∧ rolePermits (getFn s k).role (dCode raw) = true ∧
  ((getFn s k).role = 1 → p.dom = none ∨ p.dom = some (getFn s k).domain) ∧ (p.service = true → s.service = true) ∧ p.names = none ∧
  p.counts = true ∧ p.empty = false ∧ p.ready = true ∧ (p.bufs = [] ∨ (getFn s k).cfg.master = true) ∧ es.length = p.bufs.length ∧
  (∀ u ∈ p.bufs, u.idx < (getFn s k).bufCount) ∧
  ∀ q ∈ p.bufs.zip es, q.1.acc &&& q.2.acc.toNat = q.1.acc ∧ q.1.off + q.1.bytes ≤ q.2.len.toNat

/-- The acceptance checks 2 to 9 on the head of a ring. -/
def verdict (o : DescOp) (s : State) (k raw : Nat) (p : Plan) : Verdict := checkPlan s k raw (readEntries (getFn s k) o p) p

/-- How a command of one row decides the head of a ring: an undefined opcode ends with BAD_OPCODE, a descriptor of another row waits for its own
command, the first check that fails gives the status and changes nothing else, and one that passes every check is accepted and executed. -/
def DecidesRow (row : DescOp → Instr) (code : Nat) (plan : DescOp → Nat → Nat → State → Plan) (go : DescEnv → State → State) : Prop :=
  ∀ (o : DescOp) (s : State) (k i raw : Nat) (rest : List (Nat × Nat)), AtHead o s k i raw rest →
    (codeDefined (dCode raw) = false → exec (row o) s = .next (endsHead o s i raw rest s sBadOpcode 0)) ∧
    (codeDefined (dCode raw) = true → dCode raw ≠ code → exec (row o) s = .next s) ∧
    (dCode raw = code →
      (∀ c, verdict o s k raw (plan o k raw s) = .refuse c → exec (row o) s = .next (endsHead o s i raw rest s c 0)) ∧
      (verdict o s k raw (plan o k raw s) = .wait → exec (row o) s = .next s) ∧
      (verdict o s k raw (plan o k raw s) = .go →
        exec (row o) s = .next (go (headEnv o s k raw (plan o k raw s)) (takenHead o s i raw rest))))

/-- A ring with nothing ready, with an open FENCE, or that another ready ring precedes decides nothing; the head of a ring whose RUN collects entries
is consumed by it, whatever its row (R171, R287, R291). -/
def DecidesNothing (row : DescOp → Instr) : Prop :=
  ∀ (o : DescOp) (s : State),
    let x := getRing s o.ring.toNat
    (x.ready = [] ∨ fnOfRing s o.ring.toNat = none ∨ fenceOpen x = true ∨ ringFirst s o.ring.toNat = false → exec (row o) s = .next s) ∧
    (∀ id n, x.ready ≠ [] → (fnOfRing s o.ring.toNat).isSome = true → fenceOpen x = false → ringFirst s o.ring.toNat = true →
      x.collect = some (id, n) → exec (row o) s = .next (collectHead s o.ring.toNat (id, n)))

/-- The head of a ring is of a row and passes the acceptance checks 2 to 9. -/
def Passed (o : DescOp) (s : State) (k i raw : Nat) (rest : List (Nat × Nat)) (code : Nat) (plan : Nat → Nat → State → Plan) : Prop :=
  AtHead o s k i raw rest ∧ dCode raw = code ∧ Accepted s k raw (readEntries (getFn s k) o (plan k raw s)) (plan k raw s)

end Sys2Proof.Claims

/-- The acceptance checks (R286, R287): what every descriptor row does with the head of a ring, and what a descriptor that passes the checks 2 to 9
holds: reserved fields 0, a role that permits it, service mode where it needs it, names that exist, counts and lengths that are not 0, buffers
that exist, permit the direction and are long enough; and when a ring decides nothing. -/
def Obligations.DescriptorDecision : Prop :=
  (∀ (s : State) (k raw : Nat) (es : List BufEntry) (p : Plan), checkPlan s k raw es p = .go ↔ Accepted s k raw es p) ∧
  (∀ row ∈ [Instr.nop, .loadPattern, .evict, .switch, .run, .copyIn, .copyOut, .descriptorFill, .checkpoint, .restore, .fence, .commitPolicy, .problem,
    .domainCreate, .domainRemove, .quotaSet, .slotRemove, .regionAlloc, .regionRelease, .partCreate, .partResize, .partRemove, .partMode, .psSize,
    .serviceEnter, .serviceLeave], DecidesNothing row) ∧
  (∀ table, DecidesNothing (.reshard · table)) ∧ (∀ pat, DecidesNothing (.slotCreate · pat)) ∧
  (∀ (s : State) (r id n : Nat) (i raw : Nat) (rest : List (Nat × Nat)), (getRing s r).ready = (i, raw) :: rest → 1 < n →
    (getRing s r).enable = true → ∃ t, collectHead s r (id, n) = t ∧ t = { s with rings := t.rings } ∧ (getRing t r).collect = some (id, n - 1) ∧
      (getRing t r).ready = rest ∧ (∃ d, (getRing t r).open_ = (getRing s r).open_ ++ [d] ∧ d.raw = raw ∧ d.ofRun = some id ∧ d.status = none)) ∧
  DecidesRow .nop 0x00 (fun _ => barePlan) (fun e s => e.done s sSuccess 0) ∧ DecidesRow .loadPattern 0x01 (fun _ => loadPlan) startLoad ∧
  DecidesRow .evict 0x02 (fun _ => evictPlan) startEvict ∧ DecidesRow .switch 0x03 (fun _ => switchPlan) startSwitch ∧
  DecidesRow .run 0x04 (fun _ => runPlan) acceptRun ∧ DecidesRow .copyIn 0x05 copyInPlan copyIn ∧
  DecidesRow .copyOut 0x06 (fun _ => copyOutPlan) copyOut ∧ DecidesRow .descriptorFill 0x07 (fun _ => fillPlan) fill ∧
  DecidesRow .checkpoint 0x08 (fun _ => imagePlan true true) checkpoint ∧ DecidesRow .restore 0x09 restorePlan restore ∧
  (∀ table, DecidesRow (.reshard · table) 0x0A (fun _ => reshardPlan) (acceptReshard table)) ∧
  DecidesRow .fence 0x0B (fun _ => barePlan) (fun e s => settleFence s e.r) ∧ DecidesRow .commitPolicy 0x0C (fun _ => policyPlan) setPolicy ∧
  DecidesRow .problem 0x11 (fun _ => problemPlan) (fun e s => e.done s sBadProblem 0xFFFFFFFF) ∧
  DecidesRow .domainCreate 0x101 (fun _ => domainPlan) createDomain ∧ DecidesRow .domainRemove 0x102 (fun _ => domainPlan) removeDomain ∧
  DecidesRow .quotaSet 0x103 (fun _ => quotaPlan) setQuota ∧
  (∀ pat, DecidesRow (.slotCreate · pat) 0x104 (fun _ => createPlan) (createSlot pat)) ∧
  DecidesRow .slotRemove 0x105 (fun _ => removeSlotPlan) removeSlot ∧ DecidesRow .regionAlloc 0x106 (fun _ => allocPlan) allocBuffer ∧
  DecidesRow .regionRelease 0x107 (fun _ => releasePlan) releaseBuffer ∧ DecidesRow .partCreate 0x108 (fun _ => partPlan) createPart ∧
  DecidesRow .partResize 0x109 (fun _ => resizePlan) resizePart ∧ DecidesRow .partRemove 0x10A (fun _ => removePlan) removePart ∧
  DecidesRow .partMode 0x10B (fun _ => modePlan) setMode ∧ DecidesRow .psSize 0x10C (fun _ => storePlan) sizeStore ∧
  DecidesRow .serviceEnter 0x10D (fun _ => servicePlan) (fun e s => e.done { s with service := true } sSuccess 0) ∧
  DecidesRow .serviceLeave 0x10E (fun _ => servicePlan) (fun e s => e.done { s with service := false } sSuccess 0)

/-- Descriptors of slots and partitions (R129, R136, R140, R148, R171, R195, R287 to R289, R291, R342): the state checks of Table 12.3, and what
each does once they have passed. -/
def Obligations.SlotDescriptors : Prop :=
  (∀ (o : DescOp) (s : State) (k i raw : Nat) (rest : List (Nat × Nat)),
    (Passed o s k i raw rest 0x00 barePlan → exec (.nop o) s = .next (endsHead o s i raw rest s sSuccess 0)) ∧
    (Passed o s k i raw rest 0x11 problemPlan → exec (.problem o) s = .next (endsHead o s i raw rest s sBadProblem 0xFFFFFFFF)) ∧
    (Passed o s k i raw rest 0x0B barePlan →
      ((∀ d ∈ (getRing s o.ring.toNat).open_, d.orphan = true) → exec (.fence o) s = .next (endsHead o s i raw rest s sSuccess 0)) ∧
      ((∃ d ∈ (getRing s o.ring.toNat).open_, d.orphan = false) → exec (.fence o) s = .next (takenHead o s i raw rest)))) ∧
  (∀ (o : DescOp) (s : State) (k i raw : Nat) (rest : List (Nat × Nat)), Passed o s k i raw rest 0x01 loadPlan →
    (getSlot s (dTarget raw)).pattern = none → exec (.loadPattern o) s = .next (endsHead o s i raw rest s sBadPattern 0xFFFFFFFF)) ∧
  (∀ (o : DescOp) (s : State) (k i raw : Nat) (rest : List (Nat × Nat)) (pat : Pattern), Passed o s k i raw rest 0x01 loadPlan →
    let n := dTarget raw
    let p := (getSlot s n).part
    let cs := maskCtxs (dfld raw 0x08 1)
    let u := takenHead o s i raw rest
    (getSlot s n).pattern = some pat →
    (slotCurrent s n = true → exec (.loadPattern o) s = .next (endsHead o s i raw rest s sPartBusy 0)) ∧
    (slotCurrent s n = false →
      (cs.length ≠ pat.ctxs.length → exec (.loadPattern o) s = .next (endsHead o s i raw rest s sBadField 0)) ∧
      (cs.length = pat.ctxs.length →
        (dFlag raw 2 = true → (getPart s p).mode ≠ .folded → exec (.loadPattern o) s = .next (endsHead o s i raw rest s sPartMode 0)) ∧
        (dFlag raw 2 = false ∨ (getPart s p).mode = .folded →
          (∀ c, loadRefusal s n cs (dFlag raw 2) pat = some c → exec (.loadPattern o) s = .next (endsHead o s i raw rest s c.1 c.2)) ∧
          (loadRefusal s n cs (dFlag raw 2) pat = none → exec (.loadPattern o) s = .next (tryLoads (setPart u p { getPart s p with
            loads := (getPart s p).loads ++ newLoads (headEnv o s k raw (loadPlan k raw s)) u n cs (dFlag raw 2) pat }) p)))))) ∧
  (∀ (o : DescOp) (s : State) (k i raw : Nat) (rest : List (Nat × Nat)), Passed o s k i raw rest 0x02 evictPlan →
    let n := dTarget raw
    let p := (getSlot s n).part
    let v := dropContexts (takenHead o s i raw rest) n
    (slotCurrent s n = true → (getPart s p).mode ≠ .pinned ∨ partRunning s p = true →
      exec (.evict o) s = .next (endsHead o s i raw rest s sPartBusy 0)) ∧
    (slotCurrent s n = false ∨ ((getPart s p).mode = .pinned ∧ partRunning s p = false) →
      exec (.evict o) s = .next (tryLoads ((headEnv o s k raw (evictPlan k raw s)).done v.2 sSuccess v.1) p) ∧
      v.1 = sumNat ((partCores (getPart s p)).map (fun c => countTokens (slotCtxs s p n) (getCore s c))))) ∧
  (∀ (o : DescOp) (s : State) (k i raw : Nat) (rest : List (Nat × Nat)), Passed o s k i raw rest 0x03 switchPlan →
    let p := dTarget raw
    let c := bits raw 65 64
    let pt := getPart s p
    let held := ctxResident s p c = true ∨ ∃ l ∈ pt.loads, l.ctx = c ∧ l.waiting = false
    (pt.mode ≠ .switching → exec (.switch o) s = .next (endsHead o s i raw rest s sPartMode 0)) ∧
    (pt.mode = .switching → ¬ held → exec (.switch o) s = .next (endsHead o s i raw rest s sNotResident 0)) ∧
    (pt.mode = .switching → held → partRunning s p = true → exec (.switch o) s = .next (endsHead o s i raw rest s sPartBusy 0)) ∧
    (pt.mode = .switching → held → partRunning s p = false →
      let u := takenHead o s i raw rest
      exec (.switch o) s = .next (askSwitch (if dFlag raw 1 = true ∧ pt.drain = .idle then setPart u p { pt with drain := .run } else u) p
        { ctx := c, desc := some (o.ring.toNat, (getRing s o.ring.toNat).nextId), drain := dFlag raw 1 && pt.drain != .idle }))) ∧
  (∀ (o : DescOp) (s : State) (k i raw : Nat) (rest : List (Nat × Nat)), Passed o s k i raw rest 0x04 runPlan →
    let n := dTarget raw
    let x := getSlot s n
    let e := headEnv o s k raw (runPlan k raw s)
    let r := o.ring.toNat
    let u := setPart (updSlot (takenHead o s i raw rest) n (fun x => { x with run := some (newRun e) })) x.part
      { getPart s x.part with runQueue := (getPart s x.part).runQueue ++ [n] }
    (plistOk s x.dom raw = false → exec (.run o) s = .next (endsHead o s i raw rest s sBadAddr 0)) ∧
    (plistOk s x.dom raw = true →
      (x.run.isSome = true → exec (.run o) s = .next (endsHead o s i raw rest s sSlotBusy 0)) ∧
      (x.run = none → runResident s n = false → exec (.run o) s = .next (endsHead o s i raw rest s sNotResident 0)) ∧
      (x.run = none → runResident s n = true → (getPart s x.part).mode = .pinned →
        (∃ c, (getPart s x.part).cur = some c ∧ c ∉ slotCtxs s x.part n) → exec (.run o) s = .next (endsHead o s i raw rest s sPartMode 0)) ∧
      (x.run = none → runResident s n = true → (getPart s x.part).mode ≠ .pinned → x.hostPlaced = false → x.noMaster = true →
        exec (.run o) s = .next (endsHead o s i raw rest s sNoMaster 0)) ∧
      (runRefusal s n = none → dFlag raw 3 = true → (getRing s r).enable = true ∨ (getRing s r).target ≠ none ∨ rest ≠ [] →
        exec (.run o) s = .next (updRing u r (fun y => { y with collect := some (e.id, dPcount raw) }))) ∧
      (runRefusal s n = none → dFlag raw 3 = true → (getRing s r).enable = false → (getRing s r).target = none → rest = [] → collecting s r = none →
        ∃ t, exec (.run o) s = .next t ∧ (getSlot t n).run = none) ∧
      (runRefusal s n = none → dFlag raw 3 = false → ∀ c v, copyReads u x.dom (dPlist raw) (32 * dPcount raw) (o.fails.map (·.toNat)) = (c, v) →
        (c = none → exec (.run o) s = .next (admitRun v n (parseEntries (tierBytes v x.dom (dPlist raw) (32 * dPcount raw)) (dPcount raw)))) ∧
        (∀ st, c = some st → exec (.run o) s = .next (endRun v n st 0))))) ∧
  (∀ (o : DescOp) (s : State) (k i raw : Nat) (rest : List (Nat × Nat)), Passed o s k i raw rest 0x0C policyPlan →
    let n := dTarget raw
    let x := getSlot s n
    let e := headEnv o s k raw (policyPlan k raw s)
    let u := takenHead o s i raw rest
    let set (x : SlotSt) : SlotSt :=
      { x with hostPlaced := bit raw 64, narCommit := bit raw 65, repairOff := bit raw 66, gradBuf := e.addr 0, wcBuf := e.addr 1, readyBuf := e.addr 2 }
    (x.run.isSome = true ∨ x.reshard.isSome = true → exec (.commitPolicy o) s = .next (endsHead o s i raw rest s sSlotBusy 0)) ∧
    (x.run = none → x.reshard = none → x.hostPlaced = bit raw 64 →
      exec (.commitPolicy o) s = .next (endsHead o s i raw rest (setSlot s n (set x)) sSuccess 0)) ∧
    (x.run = none → x.reshard = none → x.hostPlaced = false → bit raw 64 = true → exec (.commitPolicy o) s =
      .next (e.done (updSlot (updSlot (releaseWhere u x.dom (fun r => r.slot == some n && masterKind r.kind)) n (fun x => { x with noMaster := false })) n set) sSuccess 0)) ∧
    (x.run = none → x.reshard = none → x.hostPlaced = true → bit raw 64 = false →
      (∀ c, allocRegions u x.dom (masterRegions n x) = .err c → exec (.commitPolicy o) s = .next (e.done (quotaEvents u c) c 0)) ∧
      (∀ v, allocRegions u x.dom (masterRegions n x) = .ok v →
        exec (.commitPolicy o) s = .next (e.done (updSlot (updSlot v n (fun x => { x with noMaster := true })) n set) sSuccess 0)))) ∧
  (∀ (o : DescOp) (table : List UpdEntry) (s : State) (k i raw : Nat) (rest : List (Nat × Nat)), Passed o s k i raw rest 0x0A reshardPlan →
    let n := dTarget raw
    let x := getSlot s n
    let layout := dfld raw 0x0C 4
    let good := layoutOk s n (dLength raw) layout o.data table
    (layout ≤ x.layout → exec (.reshard o table) s = .next (endsHead o s i raw rest s sBadLayout 0)) ∧
    (x.layout < layout → x.reshard.isSome = true → exec (.reshard o table) s = .next (endsHead o s i raw rest s sSlotBusy 0)) ∧
    (x.layout < layout → x.reshard = none → good = false → exec (.reshard o table) s = .next (endsHead o s i raw rest s sBadLayout 0)) ∧
    (x.layout < layout → x.reshard = none → good = true → ∃ t q, exec (.reshard o table) s = .next t ∧
      t = setSlot (takenHead o s i raw rest) n { x with reshard := some q } ∧ q.layout = layout ∧ q.table = table ∧ q.stage = .fenceWait ∧
      q.mapCrc = fieldLE o.data 0x18 8 ∧ q.map = parseMap (o.data.drop 64) (fieldLE o.data 0x08 4) ∧ q.accepted = s.fc))


/-! ### Data movement (R186, R220, R290, R292, R352 to R354, R462, R464) -/

/-- COPY_IN, COPY_OUT and FILL (R35, R36, R185, R186, R290, R352 to R354, R464): an address that is not valid and a state check that fails end the descriptor
with no byte moved; else the bytes, converted where the formats differ, reach the tier or the host, with their events counted and, in a buffer
with a check set, their check value; a copy that reads a bank holds it until its completion. A COPY_IN whose check value fails is read once more, and
leaves undefined bytes and CHK_FLAGS.MISMATCH where that fails too. -/
def Sys2Proof.Claims.CopyDescriptors : Prop :=
  (∀ (o : DescOp) (s : State) (k i raw : Nat) (rest : List (Nat × Nat)), Passed o s k i raw rest 0x05 (copyInPlan o) →
    let side := copySide s raw
    let t := tierLength raw false
    let bs := o.data.take (dLength raw)
    let e := headEnv o s k raw (copyInPlan o k raw s)
    let w := copyWrite (takenHead o s i raw rest) raw bs
    let again := o.data2.take (dLength raw)
    let v := copyWrite w.1 raw again
    (sideOk s t.2 t.1 side = false → exec (.copyIn o) s = .next (endsHead o s i raw rest s sBadAddr 0)) ∧
    (sideOk s t.2 t.1 side = true →
      (∀ c, writeRefusal s t.1 side = some c → exec (.copyIn o) s = .next (endsHead o s i raw rest s c 0)) ∧
      (writeRefusal s t.1 side = none → chkMatch s k raw o.data = true →
        exec (.copyIn o) s = .next (e.done
          (markStale (countCopy (runChk w.1 k (dBuf raw) (dAddr raw) bs).2 k raw w.2) (masterSlots s t.1 side) true) sSuccess 0)) ∧
      (writeRefusal s t.1 side = none → chkMatch s k raw o.data = false → chkMatch s k raw o.data2 = true →
        exec (.copyIn o) s = .next (e.done
          (markStale (countCopy (runChk v.1 k (dBuf raw) (dAddr raw) again).2 k raw (w.2.add v.2)) (masterSlots s t.1 side) true) sSuccess 0)) ∧
      (writeRefusal s t.1 side = none → chkMatch s k raw o.data = false → chkMatch s k raw o.data2 = false →
        ∃ u, exec (.copyIn o) s = .next (e.done u sHostCrc 0) ∧ u.cores = s.cores ∧ u.handle = s.handle ∧ u.draws = s.draws + 1 ∧
        (getFn u k).chkFlags = raise s.fc (getFn s k).chkFlags cfMismatch))) ∧
  (∀ (o : DescOp) (s : State) (k i raw : Nat) (rest : List (Nat × Nat)), Passed o s k i raw rest 0x06 copyOutPlan →
    let side := copySide s raw
    let t := tierLength raw true
    let e := headEnv o s k raw (copyOutPlan k raw s)
    let b := sideBlocks s t.1 side
    (sideOk s t.2 t.1 side = false → exec (.copyOut o) s = .next (endsHead o s i raw rest s sBadAddr 0)) ∧
    (sideOk s t.2 t.1 side = true → ∀ c v, copyReadsAt (takenHead o s i raw rest) b.1 b.2 (o.fails.map (·.toNat)) = (c, v) →
      (∀ st, c = some st → exec (.copyOut o) s = .next (e.done v st 0)) ∧
      (c = none →
        let h := holdBanks v o.ring.toNat e.id (banksRead v t.1 side)
        let r := convertBytes (fmtOf (dFrom raw)) (fmtOf (dTo raw)) (sideRead h t.1 side)
        let chk := runChk h k (dBuf raw) (dAddr raw) r.1
        let sum := if chkBytes v k (dBuf raw) dirAppend = 0 then [] else chk.1
        ∃ u, exec (.copyOut o) s = .next (e.done u sSuccess 0) ∧
          u = { countCopy chk.2 k raw r.2 with out := v.out ++ [.hostWrite (fnPort k) (e.addr 0 + dBufOff raw) (r.1 ++ sum)] } ∧
          u.tiers = v.tiers))) ∧
  (∀ (o : DescOp) (s : State) (k i raw : Nat) (rest : List (Nat × Nat)), Passed o s k i raw rest 0x07 fillPlan →
    let n := dLength raw
    let side := copySide s raw
    let bs := fillBytes (fmtOf (dTo raw)).width (dfld raw 0x18 4) n
    (sideOk s 1 n side = false → exec (.descriptorFill o) s = .next (endsHead o s i raw rest s sBadAddr 0)) ∧
    (sideOk s 1 n side = true →
      (∀ c, writeRefusal s n side = some c → exec (.descriptorFill o) s = .next (endsHead o s i raw rest s c 0)) ∧
      (writeRefusal s n side = none → ∃ t, exec (.descriptorFill o) s = .next t ∧
        t = endsHead o s i raw rest (markStale (sideWrite s bs side) (masterSlots s n side) false) sSuccess 0 ∧
        t = { s with rings := t.rings, tiers := t.tiers, slots := t.slots } ∧ bs.length = n ∧
        ∀ j, j < n → bs[j]? = some (BitVec.ofNat 8 (dfld raw 0x18 4 / 256 ^ (j % (fmtOf (dTo raw)).width))))))

/-- CHECKPOINT and RESTORE (R186, R292): an image is written whole, header and body with its CRC, or the descriptor ends with the image's size as
DETAIL; an image that matches the slot sets CN, its bytes go to the streams of that bank, and the working copy is stale. -/
def Sys2Proof.Claims.ImageDescriptors : Prop :=
  (∀ (o : DescOp) (s : State) (k i raw : Nat) (rest : List (Nat × Nat)), Passed o s k i raw rest 0x08 (imagePlan true true) →
    let n := dTarget raw
    let x := getSlot s n
    let e := headEnv o s k raw (imagePlan true true k raw s)
    let ps := imageParts x x.bank (dTile0 raw) (dNtiles raw)
    let size := imageSize x (dTile0 raw) (dNtiles raw)
    (tilesOk x raw = false → exec (.checkpoint o) s = .next (endsHead o s i raw rest s sBadAddr 0)) ∧
    (tilesOk x raw = true → dLength raw < size → exec (.checkpoint o) s = .next (endsHead o s i raw rest s sShortBuf size)) ∧
    (tilesOk x raw = true → size ≤ dLength raw →
      ∀ c v, copyReadsAt (takenHead o s i raw rest) x.dom (ps.flatMap (fun p => streamBlocks s n p.1 p.2.1 p.2.2)) (o.fails.map (·.toNat)) = (c, v) →
      (∀ st, c = some st → exec (.checkpoint o) s = .next (e.done v st size)) ∧
      (c = none →
        let body := ps.flatMap (fun p => readStream v n p.1 p.2.1 p.2.2)
        let h := holdBanks v o.ring.toNat e.id (if x.hostPlaced then [] else [(n, x.bank)])
        exec (.checkpoint o) s = .next (e.done { h with out := h.out ++
          [.hostWrite (fnPort k) (e.addr 0 + dBufOff raw) (imageHeader x n (dTile0 raw) (dNtiles raw) (crc64 body) ++ body)] } sSuccess size) ∧
        (imageHeader x n (dTile0 raw) (dNtiles raw) (crc64 body)).length = 64 ∧ body.length + 64 = size))) ∧
  (∀ (o : DescOp) (s : State) (k i raw : Nat) (rest : List (Nat × Nat)), Passed o s k i raw rest 0x09 (restorePlan o) →
    let n := dTarget raw
    let x := getSlot s n
    let cn := fieldLE o.data 0x08 8
    (tilesOk x raw = false → exec (.restore o) s = .next (endsHead o s i raw rest s sBadAddr 0)) ∧
    (tilesOk x raw = true → slotRunning s n = true → exec (.restore o) s = .next (endsHead o s i raw rest s sSlotBusy 0)) ∧
    (tilesOk x raw = true → slotRunning s n = false → restoreOk x raw o.data = false →
      exec (.restore o) s = .next (endsHead o s i raw rest s sBadImage 0)) ∧
    (tilesOk x raw = true → slotRunning s n = false → restoreOk x raw o.data = true → ∃ t, exec (.restore o) s = .next t ∧
      t = { s with rings := t.rings, slots := t.slots, tiers := t.tiers } ∧
      t.tiers = ((List.range (dNtiles raw)).foldl (fun u j => setRecord u n (dTile0 raw + j) 0)
        (writeParts n (imageParts x (cn % 2) (dTile0 raw) (dNtiles raw)) (o.data.drop 64)
          (updSlot (takenHead o s i raw rest) n (fun y => { y with cn := cn, wcStale := y.wcStale || !y.hostPlaced, noMaster := false })))).tiers ∧
      getSlot t n = { x with cn := cn, wcStale := x.wcStale || !x.hostPlaced, noMaster := false } ∧ (∀ m, m ≠ n → getSlot t m = getSlot s m) ∧
      getRing t o.ring.toNat = getRing (endsHead o s i raw rest s sSuccess 0) o.ring.toNat))

/-! ### Reads at the tiers (R209, R218 to R220, R229, R230) -/

/-- TIER_READ and GRANULE_ZEROING (R162, R209, R218 to R220, R229, R232): a good read on time changes nothing; corrected errors are counted; an error
that the retry mends is counted and flagged as a transient; a request on a rim die out of service does nothing; a late request of an attempt is charged
to its slot, its channel and TIER; a write of a pattern's stream leaves masked elements (log entry 135: the model's operand). A zeroed granule holds only zeros and is free again; in boot stage 5
it counts towards TIER_FREE, where it is not retired. -/
def Sys2Proof.Claims.TierReads : Prop :=
  (∀ (o : TierReadOp) (s : State), granuleOk o.tier.toNat o.gran.toNat = true →
    let c := channelOf o.tier.toNat o.gran.toNat (4096 * o.block.toNat)
    let inject := ∀ k, (k = 2 ∨ k = 3 ∨ k = 4) → takeInject s k c = none
    let corr := if o.corrected = 0 then (getChan s c).corr else satAdd32 (getChan s c).corr o.corrected.toNat
    (channelRim c ∈ s.tiers.fenced → exec (.tierRead o) s = .next s) ∧
    (channelRim c ∉ s.tiers.fenced → o.slot = none →
      (o.write = true → exec (.tierRead o) s = .next s) ∧
      (o.write = false → inject → o.bad1 = false → o.corrected = 0 → exec (.tierRead o) s = .next s) ∧
      (o.write = false → inject → o.bad1 = false → o.corrected ≠ 0 → ∃ t, exec (.tierRead o) s = .next t ∧
        t = { s with tiers := { s.tiers with chans := t.tiers.chans } } ∧ getChan t c = { getChan s c with corr := corr } ∧
        ∀ d, d ≠ c → getChan t d = getChan s d) ∧
      (o.write = false → inject → o.bad1 = true → o.bad2 = false → ∃ t, exec (.tierRead o) s = .next t ∧
        t = { s with tiers := { s.tiers with chans := t.tiers.chans, tierFlags := raise s.fc s.tiers.tierFlags tfRetry },
                     fault := { s.fault with transCnt := satAdd32 s.fault.transCnt 1, flags := raise s.fc s.fault.flags ffTransient } } ∧
        getChan t c = { getChan s c with corr := corr, retry := satAdd32 (getChan s c).retry 1 }) ∧
      (o.write = false → inject → o.bad1 = true → o.bad2 = true →
        ((mget [] s.fault.rimFails (channelRim c)).filter (fun f => f.1 != c)).length < 3 → ∃ t, exec (.tierRead o) s = .next t ∧
        t = { s with tiers := { s.tiers with chans := t.tiers.chans, tierFlags := raise s.fc (raise s.fc s.tiers.tierFlags tfRetry) tfFail },
                     fault := { s.fault with rimFails := t.fault.rimFails } } ∧
        getChan t c = { getChan s c with corr := corr, retry := satAdd32 (getChan s c).retry 1, fail := satAdd32 (getChan s c).fail 1 } ∧
        (c, s.fc) ∈ mget [] t.fault.rimFails (channelRim c))) ∧
    (∀ (n : BitVec 12) (r : RunSt), channelRim c ∉ s.tiers.fenced → o.slot = some n → o.write = true → o.put = none → (getSlot s n.toNat).run = some r →
      r.stage = .step ∨ (r.stage = .replay ∧ (getSlot s n.toNat).round.abort.isSome = true) →
      (s.fc ≤ r.start + o.due + 1 → exec (.tierRead o) s = .next s) ∧
      (r.start + o.due + 1 < s.fc → ∃ t, exec (.tierRead o) s = .next t ∧ t = { s with slots := t.slots, tiers := t.tiers, parts := t.parts } ∧
        t.tiers = { s.tiers with chans := t.tiers.chans, tierFlags := raise s.fc s.tiers.tierFlags tfLate } ∧
        (r.causes.filter (·.1 == cTier) = [] →
          (getSlot t n.toNat).tierLate = satAdd64 (getSlot s n.toNat).tierLate (s.fc - (r.start + o.due + 1))) ∧
        ((getChan s c).lateFc = [] → (getChan t c).late = satAdd64 (getChan s c).late (s.fc - (r.start + o.due + 1))))) ∧
    (∀ (n : BitVec 12) (r : RunSt) (u : TierPut), channelRim c ∉ s.tiers.fenced → o.slot = some n → o.write = true → o.put = some u →
      (getSlot s n.toNat).run = some r → r.stage = .step → s.fc ≤ r.start + o.due + 1 →
      exec (.tierRead o) s = .next ((List.range 1024).foldl (putElem (getSlot s n.toNat) u) s))) ∧
  (∀ (x : SlotSt) (u : TierPut) (s : State) (i : Nat), i < 1024 →
    let a := u.addr.toNat + i / 32 * u.stride.toNat + i % 32 * (tokFmt u.fmt.toNat).width
    (tokMrows u.tile.hdr < i / 32 ∨ tokMcols u.tile.hdr < i % 32 → putElem x u s i = s) ∧
    (i / 32 ≤ tokMrows u.tile.hdr → i % 32 ≤ tokMcols u.tile.hdr → ∀ q ∈ writeStreams x, q.1 ≤ a → a + (tokFmt u.fmt.toNat).width ≤ q.1 + q.2 →
      putElem x u s i = setTierBytes s x.dom a (bytesLE (tokFmt u.fmt.toNat).width (nth 0 u.tile.tile i).toNat))) ∧
  (∀ (tier : BitVec 2) (gran : BitVec 19) (s : State), granuleOk tier.toNat gran.toNat = true →
    let p := gran.toNat
    let key := if tier = 1 then p else hbmGranules + p
    let state := mget .free (if tier = 1 then s.tiers.hbmGran else s.tiers.lpGran) p
    (s.handle.stage = 5 → state = .retired → exec (.granuleZeroing tier gran) s = .next s) ∧
    (s.handle.stage = 5 → state ≠ .retired → exec (.granuleZeroing tier gran) s =
      .next { s with tiers := { s.tiers with fresh := mset false s.tiers.fresh key true } }) ∧
    (s.handle.stage ≠ 5 →
      (state ≠ .dirty → exec (.granuleZeroing tier gran) s = .next s) ∧
      (tier = 1 → state = .dirty → ∃ t, exec (.granuleZeroing tier gran) s = .next t ∧
        t = { s with tiers := { s.tiers with hbm := t.tiers.hbm, hbmGran := t.tiers.hbmGran, undef := t.tiers.undef } } ∧ mget .free t.tiers.hbmGran p = .free ∧
        (∀ j, j < granBytes → physByte t.tiers 1 p j = 0) ∧
        (∀ q j, q ≠ p → j < granBytes → physByte t.tiers 1 q j = physByte s.tiers 1 q j ∧ mget .free t.tiers.hbmGran q = mget .free s.tiers.hbmGran q)) ∧
      (tier = 2 → state = .dirty → ∃ t, exec (.granuleZeroing tier gran) s = .next t ∧
        t = { s with tiers := { s.tiers with lp := t.tiers.lp, lpGran := t.tiers.lpGran } } ∧ mget .free t.tiers.lpGran p = .free ∧
        (∀ j, j < granBytes → physByte t.tiers 2 p j = 0) ∧
        (∀ q j, q ≠ p → j < granBytes → physByte t.tiers 2 q j = physByte s.tiers 2 q j ∧ mget .free t.tiers.lpGran q = mget .free s.tiers.lpGran q))))

/-- A byte written at a valid tier address is the byte read there, at every other valid address of the domain that no granule shares with it the
byte is as before, and the store stays canonical (R206, R207, R226, R227). Here no rim die is out of service. -/
def Sys2Proof.Claims.TierByteReadBack : Prop :=
  ∀ (s : State) (dom a : Nat) (b : Byte) (p : Nat), s.tiers.fenced = [] → taForm a = true →
    physOf (getDom s dom) (taTier a) (taGidx a) = some p →
    tierByte (setTierByte s dom a b) dom a = some b ∧
    (∀ c q, taForm c = true → physOf (getDom s dom) (taTier c) (taGidx c) = some q →
      (taTier c ≠ taTier a ∨ taOffs c ≠ taOffs a ∨ (q ≠ p ∧ (taTier a = 2 → q ≠ p ^^^ 4))) →
      tierByte (setTierByte s dom a b) dom c = tierByte s dom c) ∧
    (Safety.MemCanonical s → Safety.MemCanonical (setTierByte s dom a b))


/-! ### ADMIN descriptors (R109, R112, R207, R210 to R212, R221 to R224, R266, R386, R463) -/

namespace Sys2Proof.Claims

/-- What an ADMIN sub-op that completes at once does: the state checks pass under `ok`, and the descriptor ends with SUCCESS in `eff s raw`; else it
ends with `code` and nothing changes. -/
def AdminRow (row : DescOp → Instr) (code : Nat) (plan : Nat → Nat → State → Plan) (busy : State → Nat → Bool) (st : Nat)
    (eff : Nat → State → State) : Prop :=
  ∀ (o : DescOp) (s : State) (k i raw : Nat) (rest : List (Nat × Nat)), Passed o s k i raw rest code plan →
    (busy s raw = true → exec (row o) s = .next (endsHead o s i raw rest s st 0)) ∧
    (busy s raw = false → exec (row o) s = .next (endsHead o s i raw rest (eff raw s) sSuccess 0))

/-- A region of a domain that a REGION_RELEASE names: its first granule's address. -/
def regionAt (s : State) (raw : Nat) (r : Region) : Prop :=
  let a := dfld raw 0x18 8
  (getDom s (aDomain raw)).regions.find? (fun r => taForm a && r.tier == taTier a && r.gidx == taGidx a && taOffs a == 0) = some r

end Sys2Proof.Claims

/-- Domains, quotas and service mode (R223, R224, R266, R463): a new domain has all limits 0, an existing one stays; a domain that holds granules or
pages stays; a limit changes alone; service mode is set and left for the package. -/
def Sys2Proof.Claims.DomainsAndQuotas : Prop :=
  AdminRow .domainCreate 0x101 domainPlan (fun _ _ => false) 0
    (fun raw s => if domExists s (aDomain raw) = true then s else setDom s (aDomain raw) { created := true }) ∧
  AdminRow .domainRemove 0x102 domainPlan (fun s raw => domHolds (getDom s (aDomain raw))) sDomainBusy (fun raw s => setDom s (aDomain raw) {}) ∧
  AdminRow .quotaSet 0x103 quotaPlan (fun _ _ => false) 0 (fun raw s =>
    let d := getDom s (aDomain raw)
    let v := aWord raw
    setDom s (aDomain raw) (if aByte11 raw = 0 then { d with limSc := v } else if aByte11 raw = 1 then { d with limPs := v }
      else if aByte11 raw = 2 then { d with limHbm := v } else { d with limLp := v })) ∧
  AdminRow .serviceEnter 0x10D servicePlan (fun _ _ => false) 0 (fun _ s => { s with service := true }) ∧
  AdminRow .serviceLeave 0x10E servicePlan (fun _ _ => false) 0 (fun _ s => { s with service := false })

/-- Partitions and pattern stores (R109, R112, R210): a partition takes clusters that no other partition has, with one granule of problem buffers on each
Slath it spans, and its cores have no fold table and no current context; it changes only while it is idle and empty, its mode only while
no RUN is in progress; a pattern store changes size only while it holds no pattern. -/
def Sys2Proof.Claims.Partitions : Prop :=
  (∀ (o : DescOp) (s : State) (k i raw : Nat) (rest : List (Nat × Nat)), Passed o s k i raw rest 0x108 partPlan →
    let p := dTarget raw
    let ks := clustersOf (dfld raw 0x18 36)
    (partExists s p = true ∨ clustersOk s p ks = false → exec (.partCreate o) s = .next (endsHead o s i raw rest s sBadField 0)) ∧
    (partExists s p = false → clustersOk s p ks = true →
      (takeBuffers s p (quadsOf ks) = none →
        exec (.partCreate o) s = .next (endsHead o s i raw rest (raiseQuota s qfTierFull) sTierFull 0)) ∧
      ((takeBuffers s p (quadsOf ks)).isSome = true → ∃ t, exec (.partCreate o) s = .next t ∧
        t = { s with rings := t.rings, slaths := t.slaths, parts := t.parts, cores := t.cores } ∧
        getPart t p = { clusters := ks, mode := modeOf (aByte11 raw) } ∧ (∀ q, q ≠ p → getPart t q = getPart s q) ∧
        (∀ c, c ∉ partCores (getPart t p) → getCore t c = getCore s c) ∧
        (∀ c ∈ partCores (getPart t p), (getCore t c).cur = none ∧ (getCore t c).fold = [] ∧ (getCore t c).ctxs = (getCore s c).ctxs)))) ∧
  (∀ (o : DescOp) (s : State) (k i raw : Nat) (rest : List (Nat × Nat)), Passed o s k i raw rest 0x109 resizePlan →
    let p := dTarget raw
    let ks := clustersOf (dfld raw 0x18 36)
    (partBusy s p = true → exec (.partResize o) s = .next (endsHead o s i raw rest s sPartBusy 0)) ∧
    (partBusy s p = false → clustersOk s p ks = false → exec (.partResize o) s = .next (endsHead o s i raw rest s sBadField 0)) ∧
    (partBusy s p = false → clustersOk s p ks = true →
      let old := quadsOf (getPart s p).clusters
      let more := (quadsOf ks).filter (fun q => !old.contains q)
      (takeBuffers s p more = none →
        exec (.partResize o) s = .next (endsHead o s i raw rest (raiseQuota s qfTierFull) sTierFull 0)) ∧
      (∀ u, takeBuffers s p more = some u → ∃ t, exec (.partResize o) s = .next t ∧
        t = { s with rings := t.rings, slaths := (dropBuffers u p (old.filter (fun q => !(quadsOf ks).contains q))).slaths, parts := t.parts, cores := t.cores } ∧
        getPart t p = { clusters := ks, mode := (getPart s p).mode } ∧ (∀ q, q ≠ p → getPart t q = getPart s q) ∧
        (∀ c, c ∉ partCores (getPart t p) → getCore t c = getCore s c) ∧
        (∀ c ∈ partCores (getPart t p), (getCore t c).cur = none ∧ (getCore t c).fold = [] ∧ (getCore t c).ctxs = (getCore s c).ctxs)))) ∧
  (∀ (o : DescOp) (s : State) (k i raw : Nat) (rest : List (Nat × Nat)), Passed o s k i raw rest 0x10A removePlan →
    let p := dTarget raw
    let named := ∃ x ∈ s.slots, x.2.present = true ∧ x.2.part = p
    (partBusy s p = true ∨ named → exec (.partRemove o) s = .next (endsHead o s i raw rest s sPartBusy 0)) ∧
    (partBusy s p = false → ¬ named → exec (.partRemove o) s =
      .next (endsHead o s i raw rest (setPart (dropBuffers s p (quadsOf (getPart s p).clusters)) p {}) sSuccess 0))) ∧
  AdminRow .partMode 0x10B modePlan (fun s raw => partRunning s (dTarget raw)) sPartBusy
    (fun raw s => setPart s (dTarget raw) { getPart s (dTarget raw) with mode := modeOf (aByte11 raw) }) ∧
  (∀ (o : DescOp) (s : State) (k i raw : Nat) (rest : List (Nat × Nat)), Passed o s k i raw rest 0x10C storePlan →
    let x := getSlath s (aByte11 raw)
    (x.psPages ≠ 0 → exec (.psSize o) s = .next (endsHead o s i raw rest s sRegionBusy 0)) ∧
    (x.psPages = 0 → storeBanks x (aByte12 raw) = none →
      exec (.psSize o) s = .next (endsHead o s i raw rest (raiseQuota s qfTierFull) sTierFull 0)) ∧
    (∀ bs, x.psPages = 0 → storeBanks x (aByte12 raw) = some bs →
      exec (.psSize o) s = .next (endsHead o s i raw rest (setSlath s (aByte11 raw) { x with psBanks := bs }) sSuccess 0)))

/-- Slots and regions (R207, R211, R212, R221, R222, R224): an allocation is made whole or not at all, QUOTA before TIER_FULL, and a refused one raises
its flag and changes nothing else; a release needs the first granule of a buffer region that no RUN uses; a slot is removed only while nothing runs in it. -/
def Obligations.SlotsAndRegions : Prop :=
  (∀ (o : DescOp) (s : State) (k i raw : Nat) (rest : List (Nat × Nat)), Passed o s k i raw rest 0x106 allocPlan →
    let d := aDomain raw
    let tier := aByte11 raw - 1
    let g := lowestRun (aWord raw) (if tier = 1 then (getDom s d).hbmMap else (getDom s d).lpMap) 0
    let rq : RegionReq := { tier := tier, count := aWord raw, kind := .buffer, slot := none, mirrored := false }
    (∀ c, allocRegions s d [rq] = .err c → exec (.regionAlloc o) s = .next (endsHead o s i raw rest (quotaEvents s c) c 0)) ∧
    (∀ u, allocRegions s d [rq] = .ok u → exec (.regionAlloc o) s = .next (endsHead o s i raw rest u sSuccess g) ∧
      u = { s with tiers := u.tiers, doms := u.doms } ∧ u.tiers.hbm = s.tiers.hbm ∧ u.tiers.lp = s.tiers.lp ∧
      (∀ j, j < aWord raw → (physOf (getDom u d) tier (g + j)).isSome = true) ∧ ∀ e, e ≠ d → getDom u e = getDom s e)) ∧
  (∀ (o : DescOp) (s : State) (k i raw : Nat) (rest : List (Nat × Nat)), Passed o s k i raw rest 0x107 releasePlan →
    ((∀ r, ¬ regionAt s raw r) → exec (.regionRelease o) s = .next (endsHead o s i raw rest s sBadAddr 0)) ∧
    (∀ r, regionAt s raw r →
      (r.kind ≠ .buffer ∨ regionInUse s (aDomain raw) r = true → exec (.regionRelease o) s = .next (endsHead o s i raw rest s sRegionBusy 0)) ∧
      (r.kind = .buffer → regionInUse s (aDomain raw) r = false →
        exec (.regionRelease o) s = .next (endsHead o s i raw rest (releaseRegion s (aDomain raw) r) sSuccess 0) ∧
        r ∉ (getDom (releaseRegion s (aDomain raw) r) (aDomain raw)).regions))) ∧
  (∀ (o : DescOp) (pat : Pattern) (s : State) (k i raw : Nat) (rest : List (Nat × Nat)), Passed o s k i raw rest 0x104 createPlan →
    let n := dTarget raw
    let d := aDomain raw
    let m := aByte11 raw == 1
    let c := slotCache s (aByte12 raw) (aWord raw) pat
    let rs := paramRegions n 0 m false pat.table ++ stepRegions n pat
    ((getSlot s n).present = true → exec (.slotCreate o pat) s = .next (endsHead o s i raw rest s sSlotExists 0)) ∧
    ((getSlot s n).present = false →
      (∀ q, allocSlot s n d c rs = .err q → exec (.slotCreate o pat) s = .next (endsHead o s i raw rest (quotaEvents s q) q 0)) ∧
      (∀ u, allocSlot s n d c rs = .ok u →
        (∀ q, storeRefusal s n pat = some q → exec (.slotCreate o pat) s = .next (endsHead o s i raw rest s sBadPattern q)) ∧
        (storeRefusal s n pat = none →
          exec (.slotCreate o pat) s = .next (endsHead o s i raw rest (setSlot u n (newSlot d (aByte12 raw) m pat c)) sSuccess 0) ∧
          u = { s with tiers := u.tiers, doms := u.doms, slaths := u.slaths })))) ∧
  (∀ (o : DescOp) (s : State) (k i raw : Nat) (rest : List (Nat × Nat)), Passed o s k i raw rest 0x105 removeSlotPlan →
    let n := dTarget raw
    let p := (getSlot s n).part
    let busy := slotRunning s n = true ∨ (getSlot s n).reshard.isSome = true ∨ ∃ l ∈ (getPart s p).loads, l.slot = n
    (busy → exec (.slotRemove o) s = .next (endsHead o s i raw rest s sSlotBusy 0)) ∧
    (¬ busy → slotCurrent s n = true → exec (.slotRemove o) s = .next (endsHead o s i raw rest s sPartBusy 0)) ∧
    (¬ busy → slotCurrent s n = false →
      let v := releaseSlot (dropContexts (takenHead o s i raw rest) n).2 n
      exec (.slotRemove o) s = .next (tryLoads ((headEnv o s k raw (removeSlotPlan k raw s)).done v sSuccess 0) p) ∧ (getSlot v n).present = false))


/-! ### Arbiters (R357 to R363) -/

/-- ARBITRATION and WITHDRAW (R238, R358 to R361, R363): a frozen, blocked or serving arbiter grants nothing; else the head of the pending queue is granted,
or with an empty queue the first unfenced request from the pointer on; the pointer moves behind a grant and nowhere else; what is not granted is
parked in cyclic order while fewer than 8 entries are held. A withdrawn entry leaves the queue; a grant withdrawn in its fc is a dead slot, and pointer and
queue stay. The slot whose step waits for a request is known until its grant (R238, log entry 129). A requester fence takes the entry and the grant of its input, and a fenced input gets no grant. -/
def Obligations.Arbiters : Prop :=
  (∀ (o : ArbOp) (s : State), arbValid (arbKey o.cls.toNat o.index.toNat) = true →
    let key := arbKey o.cls.toNat o.index.toNat
    let n := arbInputs o.cls.toNat
    let a := getArb s key
    let ask := (cyclic n a.ptr).filter (fun i => (o.reqs.map (·.toNat)).contains i && !bit a.fenced i && !a.queue.contains i)
    let stopped := (arbFrozen a || arbBlocked s key || o.serving) = true
    ∃ t, exec (.arbitration o) s = .next t ∧ t = { s with arbs := t.arbs } ∧ (∀ q, q ≠ key → getArb t q = getArb s q) ∧
      let b := getArb t key
      b.swFreeze = a.swFreeze ∧ b.fmFreeze = a.fmFreeze ∧ b.fenced = a.fenced ∧ b.dead = a.dead ∧
      (∀ g, b.lastGrant = some g → mget 0 b.owner g.1 = 0) ∧
      (∀ p, o.slots = [p] → p.1 ∈ o.reqs → p.1.toNat < n → (∀ g, b.lastGrant = some g → g.1 ≠ p.1.toNat) → mget 0 b.owner p.1.toNat = p.2.toNat + 1) ∧
      (stopped → b.lastGrant = none ∧ b.ptr = a.ptr ∧ b.grants = a.grants ∧ b.queue = a.queue ++ ask.take (8 - a.queue.length)) ∧
      (¬ stopped → ∀ h q, a.queue = h :: q → b.lastGrant = some (h, s.fc) ∧ b.ptr = (h + 1) % n ∧ b.grants = satAdd64 a.grants 1 ∧
        b.queue = q ++ ask.take (8 - q.length)) ∧
      (¬ stopped → a.queue = [] → ∀ r rs, ask = r :: rs → b.lastGrant = some (r, s.fc) ∧ b.ptr = (r + 1) % n ∧ b.queue = rs.take 8 ∧
        bit a.fenced r = false) ∧
      (¬ stopped → a.queue = [] → ask = [] → b.lastGrant = none ∧ b.ptr = a.ptr ∧ b.queue = [])) ∧
  (∀ (cls : BitVec 4) (index : BitVec 12) (input : BitVec 4) (s : State), arbValid (arbKey cls.toNat index.toNat) = true →
    let key := arbKey cls.toNat index.toNat
    let a := getArb s key
    let i := input.toNat
    (i ∈ a.queue → exec (.withdraw cls index input) s = .next (setArb s key
      { a with queue := a.queue.filter (· != i), owner := mset 0 a.owner i 0 })) ∧
    (i ∉ a.queue → a.lastGrant = some (i, s.fc) → exec (.withdraw cls index input) s = .next (setArb s key
      { a with lastGrant := none, busy := false, grants := a.grants - 1, dead := satAdd32 a.dead 1 })) ∧
    (i ∉ a.queue → a.lastGrant ≠ some (i, s.fc) → exec (.withdraw cls index input) s = .next s)) ∧
  (∀ (s : State) (key i : Nat),
    let a := getArb s key
    let b := getArb (fenceInput s key i) key
    b.queue = a.queue.filter (· != i) ∧ bit b.fenced i = true ∧ b.ptr = a.ptr ∧ b.swFreeze = a.swFreeze ∧ b.fmFreeze = a.fmFreeze ∧
    b.lastGrant ≠ some (i, s.fc) ∧ (∀ q, q ≠ key → getArb (fenceInput s key i) q = getArb s q) ∧
    fenceInput s key i = { s with arbs := (fenceInput s key i).arbs })

/-! ### Faults (R228, R371 to R388) -/

/-- DIE_FAULT (R15, R378, R386): a powered compute die is fenced, every arbiter input it drives refused, the fault recorded and logged; with a spare left
it is of class DIE and the substitution is due, with none left it is uncovered and the position stays unserved; the partitions on the die are drained by
discard. A die that serves no position has no fault. -/
def Sys2Proof.Claims.DieFaults : Prop :=
  ∀ (die : BitVec 6) (detect : BitVec 4) (s : State), die.toNat < 48 →
    let d := die.toNat
    (diePos s d = none → exec (.dieFault die detect) s = .next s) ∧
    (∀ pos, diePos s d = some pos → spareTaken s d = false → ∃ t, exec (.dieFault die detect) s = .next t ∧
      t = { s with arbs := t.arbs, fault := t.fault, handle := t.handle, slots := t.slots, parts := t.parts, clock := t.clock, rings := t.rings, train := t.train, out := t.out } ∧
      t.fault = { s.fault with
        cls := fcDie, detect := detect.toNat, code := sFaultCovered, die := d, recNo := (s.fault.recNo + 1) % 256, recFc := s.fc % 2 ^ 32,
        lastCnt := satAdd32 s.fault.lastCnt 1, flags := raise s.fc s.fault.flags ffLasting, fenced := s.fault.fenced ++ [d], latched := s.fault.latched ++ [d],
        spareOn := s.fault.spareOn.filter (fun p => spareDie p.1 != d) } ∧
      t.handle.nextSeq = s.handle.nextSeq + 2 ∧ diePos t d = none ∧
      (∀ p ∈ partsWith s (dieClusters s d), (getPart t p).drain = .discard ∧ (getPart t p).swReq = none) ∧
      (∀ b, b < 96 → bit (getArb t (arbKey 2 (96 * dieQuad d + b))).fenced (dieSite d) = true) ∧
      (∀ i, i < 8 → bit (getArb t (arbKey 3 d)).fenced i = true)) ∧
    (∀ pos, diePos s d = some pos → spareTaken s d = true → ∃ t, exec (.dieFault die detect) s = .next t ∧
      t.fault.cls = fcUncovered ∧ t.fault.detect = detect.toNat ∧ t.fault.code = sFaultUncovered ∧ t.fault.die = d ∧
      t.fault.fenced = s.fault.fenced ++ [d] ∧ t.fault.unserved = s.fault.unserved ++ [16 * dieQuad d + pos] ∧
      t.fault.flags = raise s.fc s.fault.flags ffUncovered ∧ t.tiers.fenced = s.tiers.fenced)

/-- The detectors (R71, R85, R372 to R377): a resent flit is a transient, one whose resend fails too a fault of the die it came from; a third missed heartbeat in a
row is a fault; a first failed self-test only aborts the attempts on the die, a second in a row is a fault; a corrected word is counted (log entry 128), an
uncorrectable one aborts the attempt that uses it, and met again in the next attempt it is a fault of the die. -/
def Sys2Proof.Claims.Detectors : Prop :=
  (∀ (die : BitVec 6) (q b : BitVec 2) (again : Bool) (s : State), die.toNat < 48 → (diePos s die.toNat).isSome = true →
    (exec (.hopCrc (.bond die) true true) s = .next (dieFault s die.toNat dtHop)) ∧
    (((mget [] s.fault.bond die.toNat).filter (fun t => decide (s.fc < t + 1200000000))).length < 255 → ∃ t,
      exec (.hopCrc (.bond die) true false) s = .next t ∧ t = { s with fault := { s.fault with
        transCnt := satAdd32 s.fault.transCnt 1, flags := raise s.fc s.fault.flags ffTransient, bond := t.fault.bond } }) ∧
    (takeInject s 0 die.toNat = none → exec (.hopCrc (.bond die) false again) s = .next s) ∧
    exec (.hopCrc (.slath q) false again) s = .next s ∧ exec (.hopCrc (.slath q) true true) s = .next (slathFault s q.toNat dtHop) ∧
    exec (.hopCrc (.slath q) true false) s = .next (faultTransient s) ∧ exec (.hopCrc (.bridge b) false again) s = .next s ∧
    exec (.hopCrc (.bridge b) true true) s = .next (bridgeFault s b.toNat dtHop) ∧
    exec (.hopCrc (.bridge b) true false) s = .next (faultTransient s)) ∧
  (∀ (die : Byte) (received : Bool) (s : State), die.toNat < 0x40 →
    let d := die.toNat
    let m := mget 0 s.fault.missed d
    let s1 (n : Nat) : State := { s with fault := { s.fault with missed := mset 0 s.fault.missed d n } }
    (beats s d = false → exec (.heartbeat die received) s = .next s) ∧
    (beats s d = true → exec (.heartbeat die true) s = .next (s1 0) ∧ (m ≠ 2 → exec (.heartbeat die false) s = .next (s1 (m + 1))) ∧
      (m = 2 → exec (.heartbeat die false) s = .next (heartbeatFault (s1 0) d)))) ∧
  (∀ (core : BitVec 12) (engine : BitVec 2) (s : State), coreValid core.toNat = true → (coreEven core.toNat = true → engine.toNat < 2) →
    let die := coreDie s core.toNat
    let k := 4 * core.toNat + engine.toNat
    let drop : State := { s with fault := { s.fault with failedTest := s.fault.failedTest.filter (· != k) } }
    (diePos s die).isSome = true →
    (k ∉ s.fault.failedTest → exec (.selfTest core engine true) s = .next s ∧
      exec (.selfTest core engine false) s = .next (abortParts { s with fault := { s.fault with failedTest := s.fault.failedTest ++ [k] } }
        (partsWith s (dieClusters s die)) false sFaultCovered)) ∧
    (k ∈ s.fault.failedTest → exec (.selfTest core engine true) s = .next (faultTransient drop) ∧
      exec (.selfTest core engine false) s = .next (dieFault drop die dtSelfTest))) ∧
  (∀ (w : SramWord) (s : State),
    let p := sramPlace s w
    let k := sramCounter w
    (∃ t, exec (.sramUncorrectable ⟨w, true⟩) s = .next t ∧ t = { s with fault := { s.fault with sramCorr := t.fault.sramCorr } } ∧
      mget 0 t.fault.sramCorr k = satAdd32 (mget 0 s.fault.sramCorr k) 1 ∧ ∀ j, j ≠ k → mget 0 t.fault.sramCorr j = mget 0 s.fault.sramCorr j) ∧
    (p.2.2 = none → exec (.sramUncorrectable ⟨w, false⟩) s = .next s) ∧
    (∀ n, p.2.2 = some n →
      (abortable (getSlot s n) = false → exec (.sramUncorrectable ⟨w, false⟩) s = .next s) ∧
      (abortable (getSlot s n) = true → (p.1, p.2.1, n, true) ∉ s.fault.words → exec (.sramUncorrectable ⟨w, false⟩) s =
        .next (abortAttempt { s with fault := { s.fault with words := s.fault.words ++ [(p.1, p.2.1, n, false)] } } n false sFaultCovered)) ∧
      (abortable (getSlot s n) = true → (p.1, p.2.1, n, true) ∈ s.fault.words → p.1 < 48 → exec (.sramUncorrectable ⟨w, false⟩) s =
        .next (dieFault { s with fault := { s.fault with words := s.fault.words.filter (fun x => !(x.1 == p.1 && x.2.1 == p.2.1)) } } p.1 dtSram))))

/-- RIM_FAULT, Slath and bridge faults (R228, R387, R388): a rim die goes out of service once, MIRROR_DEG is raised, and a slot that is not mirrored has
lost data; the first such fault is of class RIM, a second is uncovered. -/
def Sys2Proof.Claims.RimFaults : Prop :=
  (∀ (rim : BitVec 3) (detect : BitVec 4) (s : State),
    (rim.toNat ∈ s.tiers.fenced → exec (.rimFault rim detect) s = .next s) ∧
    (rim.toNat ∉ s.tiers.fenced → ∃ t, exec (.rimFault rim detect) s = .next t ∧
      t.tiers.fenced = s.tiers.fenced ++ [rim.toNat] ∧ t.tiers.tierFlags = raise s.fc s.tiers.tierFlags tfMirrorDeg ∧
      t.fault.detect = detect.toNat ∧ t.fault.die = 0x30 + rim.toNat ∧
      (s.tiers.fenced = [] → t.fault.cls = fcRim ∧ t.fault.code = sFaultCovered) ∧
      (s.tiers.fenced ≠ [] → t.fault.cls = fcUncovered ∧ t.fault.code = sFaultUncovered) ∧
      (∀ n x, s.slots = [(n, x)] → x.present = true → x.mirrored = false → x.run = none → x.reshard = none →
        getSlot t n = { x with lostData := true }))) ∧
  (∀ (s : State) (q det : Nat), isFenced s (0x3C + q) = true → slathFault s q det = s) ∧
  (∀ (s : State) (g det : Nat), g ∈ s.fault.bridges → bridgeFault s g det = s)

/-- Spare substitution (R15, R381, R385, R386): with a Handle die active, the spare for the fenced die whose fault came first is powered, and no other; a
spare that passes takes the position, is on, and SUBST is raised and logged; one that fails is a fault of the spare. -/
def Sys2Proof.Claims.Spares : Prop :=
  (∀ (die : BitVec 6) (s : State),
    (handleUp s = true → s.fault.latched.head? = some die.toNat → exec (.spareSubstitution die) s = .next { s with fault := { s.fault with
      latched := s.fault.latched.drop 1, powering := s.fault.powering ++ [die.toNat] } }) ∧
    (handleUp s = false ∨ s.fault.latched.head? ≠ some die.toNat → exec (.spareSubstitution die) s = .next s)) ∧
  (∀ (o : SpareOp) (s : State),
    let d := o.die.toNat
    let even := siteEven (dieSite d)
    let k := 2 * dieQuad d + boolNat even
    let spare := 12 * dieQuad d + (if even = true then 11 else 8)
    (d ∉ s.fault.powering → exec (.sparePowered o) s = .next s) ∧
    (∀ pos, d ∈ s.fault.powering → d < 48 → dieHome s d = some pos →
      (o.ok = false → exec (.sparePowered o) s = .next (dieFault { s with fault := { s.fault with
        powering := s.fault.powering.filter (· != d), spareFor := mset 0 s.fault.spareFor k (pos + 1) } } spare dtSelfTest)) ∧
      (o.ok = true → partsWith s (posClusters (dieQuad d) pos) = [] → ∃ t, exec (.sparePowered o) s = .next t ∧
        t.fault.powering = s.fault.powering.filter (· != d) ∧ mget 0 t.fault.spareFor k = pos + 1 ∧ mget false t.fault.spareOn k = true ∧
        t.fault.flags = raise s.fc s.fault.flags ffSubst ∧ t.handle.nextSeq = s.handle.nextSeq + 1 ∧
        (isFenced s spare = false → diePos t spare = some pos) ∧ t.cores = s.cores ∧ t.slots = s.slots)))


/-! ### Boot, the Handle pair, sensors and protection (R233 to R236, R251 to R254, R391 to R402, R410 to R412, R444 to R457) -/

namespace Sys2Proof.Claims

/-- What a cold reset leaves: the flashes of Handle stay, in which the fence table has taken up what was fenced (R15); everything else is as after
reset, so that SITE_MAP and HANDLE_STATUS read their reset values until boot re-applies the table (R9). -/
def ColdFrom (s t : State) : Prop :=
  t.cores = [] ∧ t.parts = [] ∧ t.slots = [] ∧ t.doms = [] ∧ t.fns = [] ∧ t.rings = [] ∧ t.links = [] ∧ t.arbs = [] ∧ t.torus = {} ∧ t.train = {} ∧
  t.fc = 0 ∧ t.rootLock = false ∧ t.service = false ∧ t.tiers.hbm = [] ∧ t.tiers.lp = [] ∧ t.tiers.zeroed = false ∧
  t.tiers.fenced = [] ∧ t.tiers.hbmGran = s.tiers.hbmGran.filter (fun g => g.2 == .retired) ∧ t.tiers.lpGran = s.tiers.lpGran.filter (fun g => g.2 == .retired) ∧
  t.fault = {} ∧ t.handle.fences = fenceTable s ∧ t.handle.applied = false ∧ (∀ q, q < 4 → siteMap t.fault q = 0xFF0) ∧ handleStatus t = 0 ∧
  t.handle.keys = s.handle.keys ∧ t.handle.verifier = s.handle.verifier ∧ t.handle.mkey = s.handle.mkey ∧ t.handle.board = s.handle.board ∧
  t.handle.log = s.handle.log ∧ t.handle.nextSeq = s.handle.nextSeq ∧ t.handle.boots = s.handle.boots ∧ t.handle.latch = none ∧ t.handle.stage = 0 ∧
  t.handle.locks = [] ∧ t.handle.spdm = none ∧ t.pending = s.pending ∧ t.out = s.out

/-- A Handle die boots: an accepted image in the slot that BOOTSEL names, else in the other one, which is flagged; without either it stays off. -/
def Boots (s : State) (d : Nat) (x : HandleDie) : Prop :=
  let k := bootSlot (getDie s d)
  (romAccepts (getDie s d) (imageAt s d k) = true → x = { getDie s d with role := .starting, slot := k }) ∧
  (romAccepts (getDie s d) (imageAt s d k) = false → romAccepts (getDie s d) (imageAt s d (1 - k)) = true →
    x = { getDie s d with role := .starting, slot := 1 - k }) ∧
  (romAccepts (getDie s d) (imageAt s d k) = false → romAccepts (getDie s d) (imageAt s d (1 - k)) = false → x = { getDie s d with role := .off })

end Sys2Proof.Claims

/-- Cold reset, power and boot (R15, R254, R392, R397, R399, R400, R444 to R448, R456): from cold reset to READY, and what each event needs. -/
def Obligations.BootSequence : Prop :=
  (∀ s : State, (s.power.on = false ∨ shutDown s = true → exec .coldReset s = .next s) ∧
    (s.power.on = true → shutDown s = false → ∃ t, exec .coldReset s = .next t ∧ ColdFrom s t ∧ t.power = { s.power with coldReset := true }) ∧
    ∃ t, exec .powerLoss s = .next t ∧ ColdFrom s t ∧ t.power = { on := false }) ∧
  (∀ (bus own test : Bool) (s : State),
    (s.power.coldReset = false ∨ shutDown s = true → exec (.coldResetRelease bus own test) s = .next s) ∧
    (s.power.coldReset = true → shutDown s = false → exec (.coldResetRelease bus own test) s = .next { s with
      handle := { s.handle with busSel := bus, ownN := own, testN := test }, power := { s.power with on := true, coldReset := false } })) ∧
  (∀ s : State, (s.rootLock = true ∨ s.power.coldReset = true ∨ s.power.on = false ∨ shutDown s = true → exec .rootLock s = .next s) ∧
    (s.rootLock = false → s.power.coldReset = false → s.power.on = true → shutDown s = false → ∃ t, exec .rootLock s = .next t ∧
      t = { s with rootLock := true, fc := 0, handle := t.handle } ∧ t.handle.stage = 1 ∧ t.handle.boots = s.handle.boots + 1 ∧
      Boots s 0 (getDie t 0) ∧ Boots s 1 (getDie t 1))) ∧
  (∀ (h0 : Bool) (s : State), (s.handle.stage ≠ 2 ∨ s.handle.latch ≠ none → exec (.latchDecision h0) s = .next s) ∧
    (s.handle.stage = 2 → s.handle.latch = none → (getDie s 0).role = .starting → (getDie s 1).role = .starting →
      ∃ t, exec (.latchDecision h0) s = .next t ∧ t = { s with handle := { s.handle with latch := t.handle.latch, dies := t.handle.dies } } ∧
        t.handle.latch = some (if h0 = true then 0 else 1) ∧ activeDie t = t.handle.latch) ∧
    (s.handle.stage = 2 → s.handle.latch = none → (getDie s 0).role ≠ .starting → (getDie s 1).role = .starting →
      ∃ t, exec (.latchDecision h0) s = .next t ∧ activeDie t = some 1 ∧ (getDie t 0).role = .lost ∧
        t.handle.flags = raise s.fc s.handle.flags mfStandbyLost)) ∧
  (∀ s : State,
    (s.handle.stage = 1 → s.handle.testN = true → (getDie s 0).role = .starting → exec .bootStageEnd s = .next { s with handle := { s.handle with stage := 2 } }) ∧
    (s.handle.stage = 1 → s.handle.testN = false → exec .bootStageEnd s = .next s) ∧ (s.handle.stage = 2 → s.handle.latch = none → exec .bootStageEnd s = .next s) ∧
    (s.handle.stage = 2 → s.handle.latch.isSome = true → ∃ t, exec .bootStageEnd s = .next t ∧
      t = { s with handle := { s.handle with stage := 3 }, ports := t.ports, clock := t.clock } ∧
      ∀ p, p < 2 → ((getPort t p).up = true ↔ (getPort s p).up = true ∨ (getPort s p).perst = false ∧ 0x38 + p ∉ (fenceTable s).fenced)) ∧
    (s.handle.stage = 3 → exec .bootStageEnd s = .next { s with
      handle := { s.handle with stage := 4 }, clock := { s.clock with memLock := true, serdesLock := true, idle := Config.idlePower s.handle.boots } }) ∧
    (s.handle.stage = 4 → ∃ t, exec .bootStageEnd s = .next t ∧
      let tab := fenceTable s
      t = { s with
        handle := { s.handle with stage := 5, fences := tab, applied := true, measSites := (List.range 4).map (siteMap t.fault) },
        fault := { s.fault with
          fenced := tab.fenced, spareFor := tab.spareFor, unserved := tab.unserved, latched := tab.latched, powering := [], bridges := tab.bridges, spareOn := t.fault.spareOn },
        tiers := { s.tiers with fenced := tab.rims } } ∧
      t.fault.spareOn = (tab.spareFor.filter (fun p => !tab.fenced.contains (spareDie p.1))).map (fun p => (p.1, true))) ∧
    (s.handle.stage = 0 ∨ 5 ≤ s.handle.stage → exec .bootStageEnd s = .next s) ∧
    (s.handle.stage = 5 → exec .ready s = .next { s with handle := { s.handle with stage := 6 }, tiers := { s.tiers with zeroed := true } }) ∧
    (s.handle.stage ≠ 5 → exec .ready s = .next s))

/-- The Handle pair (R374, R391 to R394, R398, R410 to R412): a die that starts or reboots becomes standby when it has synchronised with formats that
meet; a standby that does not acknowledge, and a rebooting die after 600 ms, is lost; a takeover makes the holder of the latch the active die, counts and flags
it; an update is offered to a pair with a standby and no recovery pending, and reboots the standby into the image it has written. -/
def Obligations.HandlePair : Prop :=
  (∀ (die : BitVec 1) (s : State) (a : Nat), activeDie s = some a →
    let d := die.toNat
    (d = a → exec (.standbySync die) s = .next s) ∧
    (d ≠ a → (getDie s d).role ≠ .starting → (getDie s d).role ≠ .rebooting → exec (.standbySync die) s = .next s) ∧
    (d ≠ a → (getDie s d).role = .starting →
      (formatsMeet (runningImage s d) (runningImage s a) = true → ∃ t, exec (.standbySync die) s = .next t ∧
        t = { s with handle := { s.handle with dies := t.handle.dies, handover := false, measStandby := some (runningImage s d) } } ∧
        getDie t d = { getDie s d with role := .standby } ∧
        activeDie t = some a) ∧
      (formatsMeet (runningImage s d) (runningImage s a) = false → ∃ t, exec (.standbySync die) s = .next t ∧ (getDie t d).role = .lost ∧
        t.handle.flags = raise s.fc s.handle.flags mfStandbyLost ∧ activeDie t = some a ∧ t.handle.measStandby = none)) ∧
    ((getDie s (otherDie a)).role = .standby → ∃ t, exec .ackTimeout s = .next t ∧ (getDie t (otherDie a)).role = .lost ∧
      t.handle.flags = raise s.fc s.handle.flags mfStandbyLost ∧ t.handle.update = none ∧ t.cores = s.cores) ∧
    ((getDie s (otherDie a)).role ≠ .standby → exec .ackTimeout s = .next s) ∧
    (d ≠ a → (getDie s d).role = .rebooting → ∃ t, exec (.rebootTimeout die) s = .next t ∧ (getDie t d).role = .lost ∧
      t.handle.flags = raise s.fc s.handle.flags mfStandbyLost) ∧
    ((getDie s d).role ≠ .rebooting → exec (.rebootTimeout die) s = .next s)) ∧
  (∀ (s : State), (s.handle.latch = none → exec .takeover s = .next s) ∧
    (∀ d, d < 2 → s.handle.latch = some d → (getDie s d).role = .standby → s.handle.update = none → ∃ t, exec .takeover s = .next t ∧
      t = { s with handle := t.handle } ∧ activeDie t = some d ∧ t.handle.takeovers = min (s.handle.takeovers + 1) 0xFF ∧
      t.handle.flags = raise s.fc s.handle.flags mfTakeover ∧ t.handle.nextSeq = s.handle.nextSeq + 1 ∧
      (getDie t (otherDie d)) = getDie s (otherDie d) ∧ t.handle.keys = s.handle.keys ∧ t.handle.locks = s.handle.locks ∧
      t.handle.measStandby = none ∧ t.handle.measSites = (List.range 4).map (siteMap s.fault)) ∧
    (∀ d u, d < 2 → s.handle.latch = some d → (getDie s d).role = .standby ∨ (getDie s d).role = .rebooting → s.handle.update = some u →
      ∃ t, exec .takeover s = .next t ∧ activeDie t = some d ∧ t.handle.update = none ∧ t.handle.nextSeq = s.handle.nextSeq + 2 ∧
        t.handle.takeovers = min (s.handle.takeovers + 1) 0xFF) ∧
    (∀ d, d < 2 → s.handle.latch = some d → (getDie s d).role = .rebooting → s.handle.update = none →
      ∃ t, exec .takeover s = .next t ∧ activeDie t = some d ∧ t.handle.update = none ∧ t.handle.nextSeq = s.handle.nextSeq + 1) ∧
    (∀ d, s.handle.latch = some d → (getDie s d).role ≠ .standby → (getDie s d).role ≠ .rebooting → (getDie s d).role ≠ .active →
      exec .takeover s = .next s) ∧
    (∀ d, d < 2 → s.handle.latch = some d → (getDie s d).role = .active → s.handle.update = none → exec .takeover s = .next s) ∧
    (∀ d u, d < 2 → s.handle.latch = some d → (getDie s d).role = .active → s.handle.update = some u → otherDie d ∈ u.done → d ∉ u.done →
      (getDie s (otherDie d)).role = .standby → mbCommandOpen s = false → ∃ t, exec .takeover s = .next t ∧ activeDie t = some (otherDie d) ∧
        (getDie t d).role = .starting ∧ t.handle.update = some u ∧ t.handle.takeovers = min (s.handle.takeovers + 1) 0xFF)) ∧
  (∀ (image : ImageSt) (die : BitVec 1) (s : State), activeDie s = none →
    exec (.requestUpdate image) s = .next s ∧ exec (.standbySync die) s = .next s ∧ exec .ackTimeout s = .next s) ∧
  (∀ (image : ImageSt) (s : State) (a : Nat), activeDie s = some a →
    (standbyOk s = false ∨ s.handle.update.isSome = true ∨ s.fault.latched ≠ [] ∨ s.fault.powering ≠ [] →
      exec (.requestUpdate image) s = .next { s with out := s.out ++ [.bmc false] }) ∧
    (standbyOk s = true → s.handle.update = none → s.fault.latched = [] → s.fault.powering = [] →
      (romAccepts (getDie s (otherDie a)) image = true → formatsMeet image (runningImage s a) = true →
        exec (.requestUpdate image) s = .next { s with
          out := s.out ++ [.bmc true], handle := { s.handle with update := some { image := image, done := [] } } }) ∧
      (romAccepts (getDie s (otherDie a)) image = false ∨ formatsMeet image (runningImage s a) = false →
        ∃ t, exec (.requestUpdate image) s = .next t ∧ t = { s with out := s.out ++ [.bmc true], handle := t.handle } ∧
          t.handle.update = none ∧ t.handle.nextSeq = s.handle.nextSeq + 1 ∧ t.handle.dies = s.handle.dies))) ∧
  (∀ (die : BitVec 1) (verified : Bool) (s : State),
    let d := die.toNat
    let x := getDie s d
    (s.handle.update = none ∨ x.role ≠ .standby ∨ (∃ u, s.handle.update = some u ∧ d ∈ u.done) → exec (.imageWritten die verified) s = .next s) ∧
    (∀ u, s.handle.update = some u → x.role = .standby → d ∉ u.done →
      let i := { u.image with ok := u.image.ok && verified }
      (romAccepts x i = false → ∃ t, exec (.imageWritten die verified) s = .next t ∧ t.handle.update = none ∧ (getDie t d).role = .standby ∧
        (getDie t d).bootsel = x.bootsel ∧ imageAt t d (1 - x.slot) = i) ∧
      (romAccepts x i = true → x.slot < 2 → ∃ t, exec (.imageWritten die verified) s = .next t ∧ t.handle.update = some u ∧ t.handle.handover = true ∧
        (getDie t d).role = .rebooting ∧ (getDie t d).slot = 1 - x.slot ∧ bootSlot (getDie t d) = 1 - x.slot ∧ imageAt t d (1 - x.slot) = i)))

/-- Sensors, voltages and pacing corrections (R251, R253, R394, R401, R402): a sample changes its sensor alone; the thermal limit moves one step of 5 %
down at 100 °C, which raises CYC_FLAGS.DERATE (Table 10.15), and up below 98 °C at every junction; VCORE moves by at most 5 mV within its bounds, no more often than every 20,000 mc. -/
def Sys2Proof.Claims.SensorsAndPower : Prop :=
  (∀ (index : BitVec 9) (value : Int) (s : State), index.toNat ≤ 293 →
    (handleUp s = false → exec (.sensorSample index value) s = .next s) ∧
    (handleUp s = true → ∃ t, exec (.sensorSample index value) s = .next t ∧ t = { s with handle := { s.handle with sensors := t.handle.sensors } } ∧
      mget 0 t.handle.sensors index.toNat = (if sensorGated s index.toNat = true then 0 else value) ∧
      ∀ j, j ≠ index.toNat → mget 0 t.handle.sensors j = mget 0 s.handle.sensors j)) ∧
  (∀ s : State, ∃ t, exec .derate s = .next t ∧
    t = { s with clock := { s.clock with derated := t.clock.derated }, train := { s.train with cycFlags := t.train.cycFlags } } ∧
    ((∃ i, i < 150 ∧ 1600 ≤ mget 0 s.handle.sensors i) → t.clock.derated = min (s.clock.derated + 1) 20 ∧
      t.train.cycFlags = (if s.clock.derated < 20 then raise s.fc s.train.cycFlags 2 else s.train.cycFlags)) ∧
    ((∀ i, i < 150 → mget 0 s.handle.sensors i < 1568) → t.clock.derated = s.clock.derated - 1 ∧ t.train = s.train) ∧
    ((∀ i, i < 150 → mget 0 s.handle.sensors i < 1600) → (∃ i, i < 150 ∧ 1568 ≤ mget 0 s.handle.sensors i) →
      t.clock.derated = s.clock.derated ∧ t.train = s.train)) ∧
  (∀ (measured : BitVec 16) (s : State), exec (.powerCorrection measured) s = .next { s with clock := { s.clock with
    correction := measured.toNat - (s.clock.idle + stepPower s) } }) ∧
  (∀ (rail : BitVec 2) (mv : BitVec 10) (s : State),
    let q := rail.toNat
    let v := mv.toNat
    let listed := ∃ b, s.handle.board = some b ∧ ∃ t ∈ b.stages, t.2 = q
    let due := mget 0 s.handle.vcoreMc q = 0 ∨ mget 0 s.handle.vcoreMc q + 20000 ≤ mcNow s + 1
    let ok := handleUp s = true ∧ listed ∧ due ∧ 600 ≤ v ∧ v ≤ 800 ∧ Config.vcoreMin.val ≤ v ∧ v ≤ vcore s q + 5 ∧ vcore s q ≤ v + 5
    (¬ ok → exec (.voutCommand rail mv) s = .next s) ∧
    (ok → ∃ t, exec (.voutCommand rail mv) s = .next t ∧ t = { s with handle := { s.handle with vcore := t.handle.vcore, vcoreMc := t.handle.vcoreMc } } ∧
      vcore t q = v ∧ (∀ r, r ≠ q → vcore t r = vcore s r) ∧ mget 0 t.handle.vcoreMc q = mcNow s + 1))

namespace Sys2Proof.Claims

/-- A protective shutdown (R454, R455): the cause is kept, the land asserted, every volatile part of the package but Handle lost; once boot stage 2 has ended
it is logged. -/
def ShutsDown (s t : State) (cause : Nat) (thermal : Bool) : Prop :=
  t.power = { s.power with
    causes := s.power.causes ++ [cause], thermTrip := s.power.thermTrip || thermal, pwrFault := s.power.pwrFault || !thermal } ∧
  t.cores = [] ∧ t.parts = [] ∧ t.slots = [] ∧ t.fns = [] ∧ t.links = [] ∧ t.tiers.hbm = [] ∧ t.handle.dies = s.handle.dies ∧ t.handle.latch = s.handle.latch ∧
  t.handle.fences = fenceTable s ∧ t.handle.applied = false ∧ t.handle.nextSeq = s.handle.nextSeq + (if 3 ≤ s.handle.stage then 1 else 0) ∧ t.rootLock = (s.rootLock && cause != 2)

end Sys2Proof.Claims

/-- Protective shutdowns (R236, R402, R450, R454, R455): each cause shuts a powered device down; without power nothing happens. -/
def Sys2Proof.Claims.Shutdowns : Prop :=
  (∀ (sensor : BitVec 9) (s : State), s.power.on = true →
    (∃ t, exec (.thermTrip sensor) s = .next t ∧ ShutsDown s t 1 true) ∧ (∃ t, exec .pllLoss s = .next t ∧ ShutsDown s t 2 false) ∧
    (∃ t, exec .sysrefLoss s = .next t ∧ ShutsDown s t 3 false) ∧ (∃ t, exec (.coreUv sensor) s = .next t ∧ ShutsDown s t 4 false) ∧
    (∃ t, exec (.coreOv sensor) s = .next t ∧ ShutsDown s t 5 false)) ∧
  (∀ (sensor : BitVec 9) (s : State), s.power.on = false → exec (.thermTrip sensor) s = .next s ∧ exec .pllLoss s = .next s ∧
    exec .sysrefLoss s = .next s ∧ exec (.coreUv sensor) s = .next s ∧ exec (.coreOv sensor) s = .next s) ∧
  (∀ (stage : BitVec 7) (s : State),
    exec (.smbalert stage false) s = .next s ∧ (handleUp s = false → exec (.smbalert stage true) s = .next s) ∧
    (∀ b, handleUp s = true → s.power.on = true → s.handle.board = some b → (∃ r, (stage.toNat, r) ∈ b.stages.take 16) →
      ∃ t, exec (.smbalert stage true) s = .next t ∧ ShutsDown s t 6 false))


/-! ### Management and the HANDLE mailbox (R266, R394, R403 to R408, R413) -/

namespace Sys2Proof.Claims

/-- `u`, with the answer to a management command. -/
def replies (u : State) (result : Nat) (data : List Byte) : State := { u with out := u.out ++ [.mgmt result data] }

/-- `u`, with the answer to an SPDM or PLDM request. -/
def answers (u : State) (ok : Bool) : State := { u with out := u.out ++ [.bmc ok] }

/-- Every session whose state a predicate picks starts to close, and nothing else of a function changes but what a closing session loses. -/
def Closes (s t : State) (pick : FnSt → Bool) : Prop :=
  ∀ k, mhas s.fns k = true → (getFn s k).mbState = .opened → pick (getFn s k) = true → (getFn t k).mbState = .closing

end Sys2Proof.Claims

/-- Secured and management sessions (R394, R405, R408): each request of the BMC with its answer; nothing is served before boot stage 2 has ended or
without an active die; a management session needs FINISH and a right MG_AUTH over the nonce of the challenge; a wrong one ends the secured session and counts
towards MKEY's lock-out. -/
def Sys2Proof.Claims.ManagementSessions : Prop :=
  (∀ (s : State) (id : BitVec 16) (v : Bool) (chain : List Byte) (eid : Byte) (mac key : BitVec 256), mgmtUp s = false →
    exec (.keyExchange id) s = .next s ∧ exec (.finish v) s = .next s ∧ exec .endSession s = .next s ∧ exec (.setEndpointId eid) s = .next s ∧
    exec (.setCertificate chain) s = .next s ∧ exec .mgChallenge s = .next s ∧ exec (.mgAuth mac) s = .next s ∧ exec (.mgOwn key) s = .next s) ∧
  (∀ (s : State) (id : BitVec 16) (v : Bool) (chain : List Byte) (eid : Byte), mgmtUp s = true →
    (mgmtOpen s = true → exec (.keyExchange id) s = .next (answers s false) ∧
      exec (.setCertificate chain) s = .next (answers { s with handle := { s.handle with cert := chain } } true)) ∧
    (mgmtOpen s = false → exec (.setCertificate chain) s = .next (answers s false) ∧ ∃ t p, exec (.keyExchange id) s = .next t ∧
      t = answers { s with handle := { s.handle with spdm := some p }, draws := s.draws + 1 } true ∧ p.sid % 2 ^ 16 = id.toNat ∧
      p.secured = false ∧ p.auth = false ∧ p.nonce = none) ∧
    (∀ p, s.handle.spdm = some p → p.secured = false →
      exec (.finish true) s = .next (answers { s with handle := { s.handle with spdm := some { p with secured := true } } } true) ∧
      exec (.finish false) s = .next (answers s false)) ∧
    (s.handle.spdm = none ∨ secured s = true → exec (.finish v) s = .next (answers s false)) ∧
    exec .endSession s = .next (answers { s with handle := { s.handle with spdm := none } } s.handle.spdm.isSome) ∧
    exec (.setEndpointId eid) s = .next (answers { s with handle := { s.handle with eid := eid.toNat } } true)) ∧
  (∀ (s : State) (mac : BitVec 256), mgmtUp s = true →
    (secured s = false → exec .mgChallenge s = .next (replies s sNoSession []) ∧ exec (.mgAuth mac) s = .next (replies s sNoSession [])) ∧
    (∀ p, s.handle.spdm = some p → p.secured = true →
      let nonce := (List.range 32).map (Config.randomByte s.draws)
      let l := getLock s lockMkey
      exec .mgChallenge s = .next (replies { s with
        handle := { s.handle with spdm := some { p with nonce := some nonce } }, draws := s.draws + 1 } sSuccess nonce) ∧
      (p.nonce = none → s.handle.mkey = none ∨ l.locked = false → exec (.mgAuth mac) s = .next (replies s sAuthExpired [])) ∧
      (s.handle.mkey.isSome = true → l.locked = true →
        exec (.mgAuth mac) s = .next (replies { s with handle := { s.handle with spdm := some { p with nonce := none } } } sAuthLocked [])) ∧
      (∀ n k, p.nonce = some n → s.handle.mkey = some k →
        (l.locked = false → hmac k ([0x03] ++ bytesLE 4 p.sid ++ n) = bytesLE 32 mac.toNat → ∃ t, exec (.mgAuth mac) s = .next t ∧
          t = replies { s with handle := { s.handle with spdm := some { p with nonce := none, auth := true }, locks := t.handle.locks } } sSuccess [] ∧
          getLock t lockMkey = passLock l) ∧
        (l.locked = false → hmac k ([0x03] ++ bytesLE 4 p.sid ++ n) ≠ bytesLE 32 mac.toNat → ∃ t, exec (.mgAuth mac) s = .next t ∧
          t.handle.spdm = none ∧ getLock t lockMkey = failLock l ∧ t.handle.nextSeq = s.handle.nextSeq + 1 ∧
          t.out = s.out ++ [.mgmt sAuthFail []])))) ∧
  (∀ (s : State) (key : BitVec 256), mgmtUp s = true → secured s = true →
    (s.handle.ownN = true → exec (.mgOwn key) s = .next (replies s sRoleDenied [])) ∧
    (s.handle.ownN = false → s.handle.mkey = none → ∃ t, exec (.mgOwn key) s = .next t ∧
      t = replies { s with handle := { s.handle with mkey := some (bytesLE 32 key.toNat), log := t.handle.log, nextSeq := s.handle.nextSeq + 1 } } sSuccess []) ∧
    (s.handle.ownN = false → s.handle.mkey.isSome = true → ∃ t, exec (.mgOwn key) s = .next t ∧ t.handle.mkey = some (bytesLE 32 key.toNat) ∧
      t.handle.keys = [] ∧ t.handle.verifier = none ∧ t.handle.cert = [] ∧ Closes s t (fun _ => true)))

/-- Provisioning and the event log (R403, R404, R406, R407): each command is refused outside a management session; inside one it changes its own record; a
changed key entry or password closes the sessions that were opened with it and makes an event-log entry (log entry 82). -/
def Sys2Proof.Claims.Provisioning : Prop :=
  (∀ (s : State) (id : BitVec 16) (role dom : Byte) (key : BitVec 256) (pw : List Byte) (r : BoardRec) (time seq : DWord) (fmt : Byte),
    let all (t : State) : Prop := exec (.keySet id role dom key) s = .next t ∧ exec (.keyClear id) s = .next t ∧ exec (.pwSet pw) s = .next t ∧
      exec (.lockReset id) s = .next t ∧ exec (.boardSet r) s = .next t ∧ exec .boardGet s = .next t ∧ exec (.timeMark time fmt) s = .next t ∧
      exec (.logRead seq) s = .next t
    (mgmtUp s = false → all s) ∧ (mgmtUp s = true → mgmtOpen s = false → all (replies s sNoSession []))) ∧
  (∀ (s : State) (id : BitVec 16) (role dom : Byte) (key : BitVec 256), mgmtUp s = true → mgmtOpen s = true →
    let n := id.toNat
    (1023 < n → exec (.keySet id role dom key) s = .next (replies s sBadField []) ∧ exec (.keyClear id) s = .next (replies s sBadField [])) ∧
    (n ≤ 1023 → role.toNat = 0 ∨ 3 < role.toNat → exec (.keySet id role dom key) s = .next (replies s sBadRole [])) ∧
    (n ≤ 1023 → 1 ≤ role.toNat → role.toNat ≤ 3 → ∃ t, exec (.keySet id role dom key) s = .next t ∧
      t.handle = { s.handle with keys := t.handle.keys, log := t.handle.log, nextSeq := s.handle.nextSeq + 1 } ∧ t.out = s.out ++ [.mgmt sSuccess []] ∧
      (mhas s.handle.keys n = false ∨ (∀ r, collecting s r = none) →
        t = { s with handle := t.handle, fns := t.fns, rings := t.rings, out := t.out }) ∧
      mget {} t.handle.keys n = { role := role.toNat, domain := dom.toNat, key := bytesLE 32 key.toNat } ∧
      (∀ m, m ≠ n → mget {} t.handle.keys m = mget {} s.handle.keys m) ∧
      (mhas s.handle.keys n = false → t.fns = s.fns) ∧
      (mhas s.handle.keys n = true → Closes s t (fun f => f.role != 4 && f.keyId == n))) ∧
    (n ≤ 1023 → mhas s.handle.keys n = false → exec (.keyClear id) s = .next (replies s sSuccess [])) ∧
    (n ≤ 1023 → mhas s.handle.keys n = true → ∃ t, exec (.keyClear id) s = .next t ∧ mhas t.handle.keys n = false ∧
      (∀ m, m ≠ n → mget {} t.handle.keys m = mget {} s.handle.keys m) ∧ Closes s t (fun f => f.role != 4 && f.keyId == n)) ∧
    (n = 0xFFFF → ∃ t, exec (.lockReset id) s = .next t ∧ t = { s with handle := { s.handle with locks := t.handle.locks }, out := s.out ++ [.mgmt sSuccess []] } ∧
      getLock t lockService = {} ∧ ∀ j, j ≠ lockService → getLock t j = getLock s j) ∧
    (1023 < n → n ≠ 0xFFFF → exec (.lockReset id) s = .next (replies s sBadField [])) ∧
    (n ≤ 1023 → ∃ t, exec (.lockReset id) s = .next t ∧ t = { s with handle := { s.handle with locks := t.handle.locks }, out := s.out ++ [.mgmt sSuccess []] } ∧
      getLock t n = {} ∧ ∀ j, j ≠ n → getLock t j = getLock s j)) ∧
  (∀ (s : State) (pw : List Byte) (r : BoardRec) (time seq : DWord) (fmt : Byte), mgmtUp s = true → mgmtOpen s = true →
    (pw.length < 8 ∨ 64 < pw.length → exec (.pwSet pw) s = .next (replies s sBadField [])) ∧
    (8 ≤ pw.length → pw.length ≤ 64 → ∃ t salt, exec (.pwSet pw) s = .next t ∧ salt = (List.range 32).map (Config.randomByte s.draws) ∧
      t.handle.verifier = some (salt, verify salt pw) ∧ t.handle.keys = s.handle.keys ∧ t.out = s.out ++ [.mgmt sSuccess []] ∧
      Closes s t (fun f => f.role == 4)) ∧
    exec (.boardSet r) s = .next (replies { s with handle := { s.handle with board := some r } } sSuccess []) ∧
    exec .boardGet s = .next { s with out := s.out ++ [.mgmt sSuccess [], .board s.handle.board] } ∧
    (∃ t e, exec (.timeMark time fmt) s = .next t ∧ t = replies { s with handle := { s.handle with log := t.handle.log, nextSeq := s.handle.nextSeq + 1 } } sSuccess [] ∧
      t.handle.log = keepLast 32768 (s.handle.log ++ [e]) ∧ e.seq = s.handle.nextSeq ∧ e.src = lgTime ∧
      e.args.take 9 = bytesLE 8 time.toNat ++ [fmt]) ∧
    (∀ e, s.handle.log.find? (fun e => e.seq == seq.toNat) = some e → exec (.logRead seq) s = .next (replies s sSuccess (logBytes e)) ∧
      (logBytes e).length = 64) ∧
    (∀ e l, s.handle.log = e :: l → seq.toNat < s.handle.nextSeq → (∀ e ∈ s.handle.log, e.seq ≠ seq.toNat) →
      exec (.logRead seq) s = .next (replies s sSuccess (logBytes e))))

/-- The HANDLE mailbox (R413): a write of HM_CMD by a PF starts a command, refused where its session does not permit it; a write while one is in progress
and one of a VF are discarded; a command ends once a die is active, with its result and the data words it gives. -/
def Obligations.HandleMailbox : Prop :=
  (∀ (f : FnAddr) (seq : Byte) (value : Word) (s : State), Answers f s →
    let k := fnKeyOf f
    let x := getFn s k
    let code := if x.session = 0 then sNoSession else if x.role < 2 then sRoleDenied else sSuccess
    let begun (n op : Nat) : State := { s with handle := { s.handle with
      hmCmd := n * 2 ^ 24 + op, hmBusy := some { op := op, seq := n, arg := s.handle.hmArg, refused := code } } }
    (fnIsPf k = false ∨ s.handle.hmBusy.isSome = true → exec (.hmLogRead f seq) s = .next s ∧ exec (.sensorRead f seq) s = .next s ∧
      exec (.logHead f seq) s = .next s ∧ exec (.hmCmd f value) s = .next s) ∧
    (fnIsPf k = true → s.handle.hmBusy = none → exec (.hmLogRead f seq) s = .next (begun seq.toNat 1) ∧ exec (.sensorRead f seq) s = .next (begun seq.toNat 2) ∧
      exec (.logHead f seq) s = .next (begun seq.toNat 3) ∧ exec (.hmCmd f value) s = .next (begun (bits value.toNat 31 24) (bits value.toNat 7 0)))) ∧
  (∀ (s : State) (c : HmOp), s.handle.hmBusy = some c →
    let ended (u : State) (code : Nat) (words : List Nat) : State := { u with handle := { u.handle with
      hmBusy := none, hmSeq := c.seq, hmResult := code, hmData := if words = [] then u.handle.hmData else words ++ u.handle.hmData.drop words.length } }
    (handleUp s = false → exec .hmCommandEnd s = .next s) ∧
    (handleUp s = true → c.refused ≠ 0 → exec .hmCommandEnd s = .next (ended s c.refused [])) ∧
    (handleUp s = true → c.refused = 0 →
      (∀ e, c.op = 1 → s.handle.log.find? (fun e => e.seq == c.arg) = some e → exec .hmCommandEnd s = .next (ended s sSuccess (wordsOf 16 (logBytes e)))) ∧
      (c.op = 2 → c.arg % 2 ^ 32 ≤ 293 →
        exec .hmCommandEnd s = .next (ended s sSuccess [(mget 0 s.handle.sensors (c.arg % 2 ^ 32) % 2 ^ 32).toNat])) ∧
      (c.op = 2 → 293 < c.arg % 2 ^ 32 → exec .hmCommandEnd s = .next (ended s sBadField [])) ∧
      (c.op = 3 → exec .hmCommandEnd s =
        .next (ended s sSuccess [(s.handle.nextSeq - 1) % 2 ^ 32, (s.handle.nextSeq - 1) / 2 ^ 32])) ∧
      (c.op = 0 ∨ 3 < c.op → exec .hmCommandEnd s = .next (ended s sBadOpcode [])))) ∧
  (∀ s : State, s.handle.hmBusy = none → exec .hmCommandEnd s = .next s)


/-! ### Set-up registers (R37, R147, R255, R352 to R368, R429 to R439) -/

namespace Sys2Proof.Claims

/-- `t` is `s` with function `k` alone changed. -/
def FnOnly (s t : State) (k : Nat) : Prop := t = { s with fns := t.fns } ∧ ∀ j, j ≠ k → getFn t j = getFn s j

/-- A write of the select register at `off` by function `k`: it takes value `n` and the snapshot `snap`, and nothing else changes but the two (R436). -/
def SelectRow (c : Instr) (s : State) (k off n : Nat) (snap : List Nat) : Prop :=
  ∃ t, exec c s = .next t ∧ FnOnly s t k ∧ selOf t k off = n ∧ snapOf t k off = snap ∧
    (∀ o, o ≠ off → selOf t k o = selOf s k o ∧ snapOf t k o = snapOf s k o) ∧
    getFn t k = { getFn s k with sels := (getFn t k).sels, snaps := (getFn t k).snaps }

/-- Function `k` holds an open session of role TEST or SERVICE and is a PF. -/
def TestOrService (s : State) (k : Nat) : Prop :=
  fnIsPf k = true ∧ (getFn s k).session ≠ 0 ∧ ((getFn s k).role = 3 ∨ (getFn s k).role = 4)

/-- Function `k` may write the PERTURB block: a PF with an open TEST session, while no other session owns the block (R414, R415). -/
def MayPerturb (s : State) (k : Nat) : Prop :=
  fnIsPf k = true ∧ (getFn s k).session ≠ 0 ∧ (getFn s k).role = 3 ∧ (s.pert.en = false ∨ s.pert.owner = (getFn s k).session)

/-- The outcome of a write to the PERTURB block that is not permitted: hidden from a VF, CFG_ERR for a PF. -/
def PertDenied (s : State) (k : Nat) : Host.Outcome State Fault Refusal :=
  if fnIsPf k = true then .next { s with pert := { s.pert with flags := raise s.fc s.pert.flags pfCfgErr } } else .next s

end Sys2Proof.Claims

/-- Select registers and snapshots (R37, R204, R232, R256, R348, R364, R436): any function selects a slot in PERF, a VF only one of its session's domain,
and any other number takes a snapshot of nothing, which reads 0; the select registers of the other blocks are hidden from VFs, whose writes change nothing.
CONV_CLR clears the live counters of the selected slot alone. -/
def Obligations.SelectsAndSnapshots : Prop :=
  ∀ (f : FnAddr) (v : Word) (s : State), Answers f s →
    let k := fnKeyOf f
    let n := v.toNat % 2 ^ 12
    let x := getSlot s n
    let mine : Prop := x.present = true ∧ (fnIsPf k = true ∨ (getFn s k).session ≠ 0 ∧ (getFn s k).domain = x.dom)
    (mine → SelectRow (.convSel f v) s k oConvSel n [x.conv.sat, x.conv.ufl, x.conv.nar, x.conv.iovf] ∧
      SelectRow (.stepSel f v) s k oStepSel n (stepSnap x) ∧ SelectRow (.devSel f v) s k oDevSel n (devSnap x)) ∧
    (¬ mine → SelectRow (.convSel f v) s k oConvSel n [] ∧ SelectRow (.stepSel f v) s k oStepSel n [] ∧ SelectRow (.devSel f v) s k oDevSel n []) ∧
    (fnIsPf k = true →
      (256 ≤ n → SelectRow (.quotaSel f v) s k oQuotaSel n []) ∧
      (n < 256 → let d := getDom s n
        SelectRow (.quotaSel f v) s k oQuotaSel n [d.limSc, d.limPs, d.limHbm, d.limLp, d.useSc, (d.usePages + 31) / 32, d.useHbm, d.useLp]) ∧
      SelectRow (.tierSlotSel f v) s k oTierSlotSel n [x.tierLate % 2 ^ 32, x.tierLate / 2 ^ 32 % 2 ^ 32, x.tierRetry, x.tierFail] ∧
      (576 ≤ n → SelectRow (.tierChSel f v) s k oTierChSel n []) ∧
      (n < 576 → let c := mget {} s.tiers.chans n
        SelectRow (.tierChSel f v) s k oTierChSel n [c.late % 2 ^ 32, c.late / 2 ^ 32 % 2 ^ 32, c.corr, c.retry, c.fail]) ∧
      SelectRow (.layoutSel f v) s k oLayoutSel n [x.layout, layoutStatus x] ∧
      (let key := v.toNat % 2 ^ 16
       let a := getArb s key
       (arbValid key = false → SelectRow (.arbSel f v) s k oArbSel key []) ∧
       (arbValid key = true → SelectRow (.arbSel f v) s k oArbSel key
          [arbStatus s key, a.grants % 2 ^ 32, a.grants / 2 ^ 32 % 2 ^ 32, a.parked, a.refused, a.dead]))) ∧
    (fnIsPf k = false → exec (.quotaSel f v) s = .next s ∧ exec (.tierSlotSel f v) s = .next s ∧ exec (.tierChSel f v) s = .next s ∧
      exec (.layoutSel f v) s = .next s ∧ exec (.arbSel f v) s = .next s) ∧
    (let m := selOf s k oConvSel
     let y := getSlot s m
     let may : Prop := y.present = true ∧ (fnIsPf k = true ∨ (getFn s k).session ≠ 0 ∧ (getFn s k).domain = y.dom)
     (bit v.toNat 0 = true → may → ∃ t, exec (.convClr f v) s = .next t ∧ t = { s with slots := t.slots } ∧
        getSlot t m = { y with conv := {} } ∧ ∀ j, j ≠ m → getSlot t j = getSlot s j) ∧
     (bit v.toNat 0 = false ∨ ¬ may → exec (.convClr f v) s = .next s))

/-- 64-bit pairs and check registers (R355, R434, Table 15.3): a write of HI commits the written HI with the held LO in one step, or with the committed LO where
none is held, and drops what was held; ring pairs go to the selected ring, which must be the function's own and dead, check pairs to a set that is not busy; RING_SEL drops
what is held for the ring pairs. A set with ALG = 0 keeps the low half alone, and a commit of CHK_RUN clears FRESH. -/
def Obligations.PairCommits : Prop :=
  (∀ (f : FnAddr) (hi : Word) (s : State), Answers f s →
    let k := fnKeyOf f
    let r := (getFn s k).ringSel
    let v (p : PairReg) : Nat := hi.toNat * 2 ^ 32 + (if mget 0 (getFn s k).hold (pairLo p) = 0 then pairGet s k p % 2 ^ 32 else mget 0 (getFn s k).hold (pairLo p) - 1)
    let drops (t : State) (p : PairReg) : Prop := mget 0 (getFn t k).hold (pairLo p) = 0 ∧
      ∀ o, o ≠ pairLo p → mget 0 (getFn t k).hold o = mget 0 (getFn s k).hold o
    (∀ p, p = .dbBase ∨ p = .bufBase → ∃ t, exec (.pairCommit f p hi) s = .next t ∧ FnOnly s t k ∧ pairGet t k p = v p ∧ drops t p) ∧
    (∀ p, p = .ringSq ∨ p = .ringCq →
      (ownsRing s k r = false → exec (.pairCommit f p hi) s = .next s) ∧
      (ownsRing s k r = true → (getRing s r).enable = true ∨ (getRing s r).active = true →
        exec (.pairCommit f p hi) s = .next (raiseRing s k rfCfgErr)) ∧
      (ownsRing s k r = true → (getRing s r).enable = false → (getRing s r).active = false → ∃ t, exec (.pairCommit f p hi) s = .next t ∧
        t = { s with fns := t.fns, rings := t.rings } ∧ drops t p ∧ (∀ j, j ≠ k → getFn t j = getFn s j) ∧ (∀ q, q ≠ r → getRing t q = getRing s q) ∧
        getRing t r = (if p = .ringSq then { getRing s r with sq := v p } else { getRing s r with cq := v p }))) ∧
    (fnIsPf k = false → exec (.pairCommit f .hmArg hi) s = .next s) ∧
    (fnIsPf k = true → ∃ t, exec (.pairCommit f .hmArg hi) s = .next t ∧
      t = { s with fns := t.fns, handle := { s.handle with hmArg := v .hmArg } } ∧ drops t .hmArg)) ∧
  (∀ (f : FnAddr) (u : BitVec 5) (hi : Word) (s : State), Answers f s →
    let k := fnKeyOf f
    let c := getChk s k u.toNat
    let held (p : PairReg) (old : Nat) : Nat := if mget 0 (getFn s k).hold (pairLo p) = 0 then old % 2 ^ 32 else mget 0 (getFn s k).hold (pairLo p) - 1
    let v (p : PairReg) (old : Nat) : Nat := let w := hi.toNat * 2 ^ 32 + held p old
      if c.alg64 = true then w else w % 2 ^ 32
    exec (.chkRun f u hi) s = exec (.pairCommit f (.chkRun u) hi) s ∧
    (c.busy = true → exec (.chkRun f u hi) s = .next (raiseChk s k cfCfgErr) ∧ exec (.pairCommit f (.chkFold u) hi) s = .next (raiseChk s k cfCfgErr)) ∧
    (c.busy = false →
      (∃ t, exec (.chkRun f u hi) s = .next t ∧ FnOnly s t k ∧ getChk t k u.toNat = { c with run := v (.chkRun u) c.run, fresh := false } ∧
        (∀ w, w ≠ u.toNat → getChk t k w = getChk s k w) ∧ mget 0 (getFn t k).hold (pairLo (.chkRun u)) = 0) ∧
      ∃ t, exec (.pairCommit f (.chkFold u) hi) s = .next t ∧ FnOnly s t k ∧ getChk t k u.toNat = { c with foldV := v (.chkFold u) c.foldV } ∧
        (∀ w, w ≠ u.toNat → getChk t k w = getChk s k w) ∧ mget 0 (getFn t k).hold (pairLo (.chkFold u)) = 0)) ∧
  (∀ (f : FnAddr) (v : Word) (s : State), Answers f s →
    let k := fnKeyOf f
    ∃ t, exec (.ringSel f v) s = .next t ∧ FnOnly s t k ∧ (getFn t k).ringSel = v.toNat % 2 ^ 14 ∧
      mget 0 (getFn t k).hold (pairLo .ringSq) = 0 ∧ mget 0 (getFn t k).hold (pairLo .ringCq) = 0 ∧
      ∀ o, o ≠ pairLo .ringSq → o ≠ pairLo .ringCq → mget 0 (getFn t k).hold o = mget 0 (getFn s k).hold o)

/-- Control registers (R147, R255, R352, R355, R362): CHK_CTL sets up a check set, fresh where it is enabled, unless the set is busy or another enabled set has its buffer,
which raises CFG_ERR; ARB_CTL freezes or releases the selected arbiter from a PF with a TEST or SERVICE session alone; CYC_SNAP captures the cycle count of the fc after the write and
WDOG_STATUS releases the report, from a PF. -/
def Obligations.ControlRegisters : Prop :=
  (∀ (f : FnAddr) (u : BitVec 5) (v : Word) (s : State), Answers f s →
    let k := fnKeyOf f
    let c := getChk s k u.toNat
    let w := v.toNat
    let taken : Prop := bit w 31 = true ∧ ∃ j, j < 32 ∧ j ≠ u.toNat ∧ (getChk s k j).en = true ∧ (getChk s k j).buf = w % 2 ^ 16
    (c.busy = true ∨ taken → exec (.chkCtl f u v) s = .next (raiseChk s k cfCfgErr)) ∧
    (c.busy = false → ¬ taken → ∃ t, exec (.chkCtl f u v) s = .next t ∧ FnOnly s t k ∧ (∀ j, j ≠ u.toNat → getChk t k j = getChk s k j) ∧
      getChk t k u.toNat = { c with
        en := bit w 31, alg64 := bit w 30, dir := bits w 29 28, fold := bits w 27 26, final := bit w 25, fresh := bit w 31 || c.fresh, buf := w % 2 ^ 16 })) ∧
  (∀ (f : FnAddr) (v : Word) (s : State), Answers f s →
    let k := fnKeyOf f
    let key := selOf s k oArbSel
    (TestOrService s k → arbValid key = true → ∃ t, exec (.arbCtl f v) s = .next t ∧ t = { s with arbs := t.arbs, slots := t.slots } ∧
      getArb t key = { getArb s key with swFreeze := bit v.toNat 0 } ∧ (∀ j, j ≠ key → getArb t j = getArb s j) ∧
      ∀ n, getSlot t n = { getSlot s n with run := (getSlot t n).run }) ∧
    (¬ TestOrService s k ∨ arbValid key = false → exec (.arbCtl f v) s = .next s) ∧
    (fnIsPf k = true → bit v.toNat 0 = true → exec (.cycSnap f v) s =
      .next { s with clock := { s.clock with snap := if s.rootLock = true then s.fc + 1 else s.fc } }) ∧
    (fnIsPf k = false ∨ bit v.toNat 0 = false → exec (.cycSnap f v) s = .next s) ∧
    (fnIsPf k = true → bit v.toNat 31 = true → ∃ t, exec (.wdogStatus f v) s = .next t ∧
      t = { s with wdog := { s.wdog with held := false, missed := 0, nent := 0, entries := [] } } ∧
      ∀ i, i < 8 → bar0Value t 0 (0x80040 + 4 * i) = 0) ∧
    (fnIsPf k = false ∨ bit v.toNat 31 = false → exec (.wdogStatus f v) s = .next s))

/-- A write of a flag register (R366 to R368): a 1 clears the flag and its count, where the event is raised in the same fc the flag stays 1 and its count is 1, a 0
changes nothing; a flag reads 1 exactly when its count is not 0; however often its event is raised in one fc its count rises by 1, and events in n fc make it rise by n, at most
255; the flag registers of one view or block leave every other alone; a VF clears those of its own views alone, and those of PERTURB are cleared as its owner. -/
def Obligations.FlagsAndCounts : Prop :=
  (∀ (fc : Nat) (x : FlagReg) (w b : Nat),
    flagCount (flagClear fc x w) b = (if bit w b = true then (if flagNow fc x b = true then 1 else 0) else flagCount x b) ∧
    (bit w b = true → flagCount (raise fc (flagClear fc x w) b) b = 1) ∧ (flagSet x b = false ↔ flagCount x b = 0)) ∧
  (∀ (fc : Nat) (x : FlagReg) (b : Nat),
    flagCount (raise fc x b) b = (if flagNow fc x b = true then flagCount x b else min (flagCount x b + 1) 255) ∧ flagSet (raise fc x b) b = true ∧
    raise fc (raise fc x b) b = raise fc x b ∧ ∀ d, d ≠ b → flagCount (raise fc x b) d = flagCount x d) ∧
  (∀ (fcs : List Nat) (x : FlagReg) (b : Nat), fcs.Nodup → (∀ fc ∈ fcs, flagNow fc x b = false) → flagCount x b ≤ 255 →
    flagCount (fcs.foldl (fun y fc => raise fc y b) x) b = min (flagCount x b + fcs.length) 255) ∧
  (∀ (f : FnAddr) (b : FlagBlock) (v : Word) (s : State), Answers f s →
    let k := fnKeyOf f
    let own : Prop := b = .ring ∨ b = .host ∨ b = .chk
    let other (t : State) : Prop := ∀ c, c ≠ b → flagsOf t k c = flagsOf s k c
    (b ≠ .pert → own ∨ fnIsPf k = true → (∀ p, b = .link p → p.toNat < 6) → ∃ t, exec (.flagClear f b v) s = .next t ∧
      flagsOf t k b = flagClear s.fc (flagsOf s k b) v.toNat ∧ other t) ∧
    (b ≠ .pert → ¬ own → fnIsPf k = false → exec (.flagClear f b v) s = .next s) ∧
    (own → ∃ t, exec (.flagClear f b v) s = .next t ∧ FnOnly s t k) ∧
    (b = .pert → MayPerturb s k → ∃ t, exec (.flagClear f b v) s = .next t ∧ flagsOf t k b = flagClear s.fc (flagsOf s k b) v.toNat ∧ other t) ∧
    (b = .pert → ¬ MayPerturb s k → exec (.flagClear f b v) s = PertDenied s k))

/-- Writes of the register map (R259, R429 to R432): a misaligned word, one that no table assigns, and a read-only one change nothing; PACE_CAP, WDOG_LIMIT,
UPD_CTL and COMMIT_LIMIT take effect only from a PF with an operator session; MB_KEY and the nonce, MAC and password words of BAR2 change the function's own view. -/
def Sys2Proof.Claims.RegisterWrites : Prop :=
  ∀ (f : FnAddr) (o : BitVec 24) (v : Word) (s : State), Answers f s →
    let k := fnKeyOf f
    let w := v.toNat
    (o.toNat % 4 ≠ 0 → exec (.registerWrite f .bar0 o v) s = .next s ∧ exec (.registerWrite f .bar2 o v) s = .next s) ∧
    (o.toNat < 0x1000 ∨ 0xC0000 ≤ o.toNat ∨ 0x10000 ≤ o.toNat ∧ o.toNat < 0x20000 ∨ 0xC000 ≤ o.toNat ∧ o.toNat < 0x10000 →
      exec (.registerWrite f .bar0 o v) s = .next s) ∧
    (operatorSession s k = false → exec (.registerWrite f .bar0 0x1040 v) s = .next s ∧ exec (.registerWrite f .bar0 0x80030 v) s = .next s ∧
      exec (.registerWrite f .bar0 0x80060 v) s = .next s ∧ exec (.registerWrite f .bar0 0x80064 v) s = .next s) ∧
    (operatorSession s k = true →
      exec (.registerWrite f .bar0 0x1040 v) s = .next { s with clock := { s.clock with paceCap := w % 2 ^ 16 } } ∧
      exec (.registerWrite f .bar0 0x80030 v) s = .next { s with wdog := { s.wdog with limit := w } } ∧
      exec (.registerWrite f .bar0 0x80060 v) s = .next { s with train := { s.train with updCtl := v &&& 0xFFFFFF0F#32 } } ∧
      exec (.registerWrite f .bar0 0x80064 v) s = .next { s with train := { s.train with commitLimit := v } }) ∧
    (∃ t, exec (.registerWrite f .bar2 0x8 v) s = .next t ∧ FnOnly s t k ∧ bar2Value t k 0x8 = bits w 31 28 * 2 ^ 28 + bits w 9 0) ∧
    (∀ i, i < 8 → ∃ t, exec (.registerWrite f .bar2 (BitVec.ofNat 24 (0x20 + 4 * i)) v) s = .next t ∧ FnOnly s t k ∧ bar2Value t k (0x20 + 4 * i) = w ∧
      ∀ j, j < 8 → j ≠ i → bar2Value t k (0x20 + 4 * j) = bar2Value s k (0x20 + 4 * j)) ∧
    (∃ t, exec (.registerWrite f .bar0 0x2048 v) s = .next t ∧ FnOnly s t k ∧ bar0Value t k 0x2048 = boolNat (bit w 31) * 2 ^ 31 + w % 2 ^ 8)

/-- Writes of the configuration space (R257, R258, R446): no function answers before boot stage 3 has ended; Memory Space Enable, the base addresses of
BAR0 and BAR2, Device Control and the SR-IOV registers are the PF's, with a payload size of at most 512 bytes, a read request of at most 4,096 and 64 VFs; clearing VF
Enable resets the port's VFs. The layout of these registers is that of the PCI Express Base Specification (log entry 131, PRESUMED). -/
def Sys2Proof.Claims.ConfigurationWrites : Prop :=
  ∀ (f : FnAddr) (o : BitVec 24) (v : Word) (s : State),
    let k := fnKeyOf f
    let p := f.port.toNat
    let w := v.toNat
    let cfg (r : CfgReg) : Instr := .registerWrite f (.config r) o v
    (fnAddrOk f = false → ∀ r, exec (cfg r) s = .refused .noSuchUnit) ∧
    (fnAddrOk f = true → fnLive s k = false ∨ s.handle.stage ≤ 3 → ∀ r, exec (cfg r) s = .next s) ∧
    (fnAddrOk f = true → fnLive s k = true → 3 < s.handle.stage →
      let x := (getFn s k).cfg
      let y := getPort s p
      (∃ t, exec (cfg .command) s = .next t ∧ FnOnly s t k ∧ getFn t k = { getFn s k with cfg := { x with mem := fnIsPf k && bit w 1, master := bit w 2 } }) ∧
      (∃ t, exec (cfg .msixControl) s = .next t ∧ t = { s with fns := t.fns, out := t.out } ∧ (∀ j, j ≠ k → getFn t j = getFn s j) ∧
        (getFn t k).cfg = { x with msixEn := bit w 15, msixMask := bit w 14 } ∧ (bit w 15 = false ∨ bit w 14 = true → t.out = s.out)) ∧
      (fnIsPf k = false → ∀ r, r ≠ .command → r ≠ .msixControl → exec (cfg r) s = .next s) ∧
      (fnIsPf k = true →
        (∃ t, exec (cfg .deviceControl) s = .next t ∧ FnOnly s t k ∧
          getFn t k = { getFn s k with cfg := { x with relaxed := bit w 4, mps := min (bits w 7 5) 2, mrrs := min (bits w 14 12) 5 } }) ∧
        (∃ t, exec (cfg .aerControl) s = .next t ∧ FnOnly s t k ∧ getFn t k = { getFn s k with cfg := { x with ecrcGen := bit w 6, ecrcChk := bit w 8 } }) ∧
        (∃ t, exec (cfg (.bar 0)) s = .next t ∧ FnOnly s t k ∧ (getFn t k).cfg.bar0 = x.bar0 / 2 ^ 32 * 2 ^ 32 + w / 2 ^ 24 * 2 ^ 24) ∧
        (∃ t, exec (cfg (.bar 1)) s = .next t ∧ FnOnly s t k ∧ (getFn t k).cfg.bar0 = w * 2 ^ 32 + x.bar0 % 2 ^ 32) ∧
        (∃ t, exec (cfg (.bar 2)) s = .next t ∧ FnOnly s t k ∧ (getFn t k).cfg.bar2 = x.bar2 / 2 ^ 32 * 2 ^ 32 + w / 2 ^ 12 * 2 ^ 12) ∧
        (∃ t, exec (cfg (.bar 3)) s = .next t ∧ FnOnly s t k ∧ (getFn t k).cfg.bar2 = w * 2 ^ 32 + x.bar2 % 2 ^ 32) ∧
        (∀ n : BitVec 3, 4 ≤ n.toNat → exec (cfg (.bar n)) s = .next s ∧ exec (cfg (.vfBar n)) s = .next s) ∧
        (y.vfEnable = true → exec (cfg .numVfs) s = .next s) ∧
        (y.vfEnable = false → exec (cfg .numVfs) s = .next (setPort s p { y with numVfs := min (w % 2 ^ 16) 64 })) ∧
        (y.vfEnable = false ∨ bit w 0 = true → exec (cfg .sriovControl) s = .next (setPort s p { y with vfEnable := bit w 0, vfMem := bit w 3 })) ∧
        (y.vfEnable = true → bit w 0 = false → ∃ t, exec (cfg .sriovControl) s = .next t ∧ getPort t p = { y with vfEnable := false, vfMem := bit w 3 } ∧
          getFn t k = getFn s k ∧
          ∀ n, 1 ≤ n → n ≤ 64 → getFn t (fnKey p n) = resetFnSt (fnKey p n) true (getFn s (fnKey p n)) ∧ fnReach t (fnKey p n) = false)))

/-- A VF reaches its own view and nothing of the device but its slots' conversion counters (R259, R432): whatever word of BAR0 or BAR2 or of its configuration space it
writes, every other function's view, every tier, link, core, arbiter and record of the device is as before, every ring it does not own too, and no slot changes but in those
counters. (A RUN of its own that was still collecting entries on a ring that it disables ends besides: log entry 132.) -/
def Obligations.VfConfined : Prop :=
  ∀ (f : FnAddr) (b : RegPlace) (o : BitVec 24) (v : Word) (s : State), fnAddrOk f = true → fnIsPf (fnKeyOf f) = false →
    (∀ r, ownsRing s (fnKeyOf f) r = true → collecting s r = none) →
    ∃ t, exec (.registerWrite f b o v) s = .next t ∧ t = { s with fns := t.fns, rings := t.rings, slots := t.slots, out := t.out } ∧
      (∀ j, j ≠ fnKeyOf f → getFn t j = getFn s j) ∧ (∀ r, ownsRing s (fnKeyOf f) r = false → getRing t r = getRing s r) ∧
      ∀ n, getSlot t n = { getSlot s n with conv := (getSlot t n).conv }


/-! ### Test and perturbation (R414 to R428) -/

namespace Sys2Proof.Claims

/-- The outcome of a discarded write of a PF: CFG_ERR alone. -/
def PertCfgErr (s : State) : Host.Outcome State Fault Refusal := .next { s with pert := { s.pert with flags := raise s.fc s.pert.flags pfCfgErr } }

/-- `s` with point `i` replaced. -/
def withPoint (s : State) (i : Nat) (p : PointSt) : State := { s with pert := { s.pert with points := mset {} s.pert.points i p } }

/-- What a loopback that ran has found is noted: lanes joined, errors added, BIST_FAIL raised where there are any (R424). -/
def noted (s : State) (lanes errors : Nat) : State :=
  if s.pert.lpEn = false then s
  else { s with pert := { s.pert with
    lpLanes := s.pert.lpLanes ||| lanes, lpErrs := satAdd32 s.pert.lpErrs errors,
    flags := if errors = 0 then s.pert.flags else raise s.fc s.pert.flags pfBistFail } }

end Sys2Proof.Claims

/-- The PERTURB block (R249, R414 to R418, R428): what enables perturbation marks the steps in progress as perturbed; the first EN = 1 records the owner and EN = 0 ends the ownership; PT_SEL selects one of 16 points of the function; PT_CTL sets up a point, and while
it is armed a write that changes KIND or MODE is discarded with CFG_ERR; PT_SEED loads the generator, 0 as 1, which from a non-zero value never reaches 0.
Writes that are not permitted change nothing, with CFG_ERR where a PF makes them. -/
def Obligations.PerturbationPoints : Prop :=
  (∀ (f : FnAddr) (v : Word) (s : State), Answers f s →
    let k := fnKeyOf f
    let w := v.toNat
    let i := selOf s k oPtSel
    let p := mget {} s.pert.points i
    (¬ MayPerturb s k → exec (.pertCtl f v) s = PertDenied s k ∧ exec (.ptSel f v) s = PertDenied s k ∧ exec (.ptCtl f v) s = PertDenied s k ∧
      exec (.ptSeed f v) s = PertDenied s k) ∧
    (MayPerturb s k →
      (bit w 31 = false → exec (.pertCtl f v) s = .next { s with pert := { s.pert with en := false, owner := 0, ownerFn := 0 } }) ∧
      (bit w 31 = true → s.pert.en = true → exec (.pertCtl f v) s = .next s) ∧
      (bit w 31 = true → s.pert.en = false →
        exec (.pertCtl f v) s = .next (notePerturb { s with pert := { s.pert with en := true, owner := (getFn s k).session, ownerFn := k } })) ∧
      (∃ t, exec (.ptSel f v) s = .next t ∧ FnOnly s t k ∧ selOf t k oPtSel = w % 16 ∧ ∀ o, o ≠ oPtSel → selOf t k o = selOf s k o) ∧
      (p.arm = true → p.kind ≠ bits w 30 28 ∨ p.mode ≠ bits w 27 24 → exec (.ptCtl f v) s = PertCfgErr s) ∧
      (p.arm = true → p.kind = bits w 30 28 → p.mode = bits w 27 24 → exec (.ptCtl f v) s = .next (withPoint s i { p with arm := bit w 31 })) ∧
      (p.arm = false → exec (.ptCtl f v) s = .next (withPoint s i { p with arm := bit w 31, kind := bits w 30 28, mode := bits w 27 24, made := 0 })) ∧
      (p.arm = true → exec (.ptSeed f v) s = PertCfgErr s) ∧
      (p.arm = false → exec (.ptSeed f v) s = .next (withPoint s i { p with seed := w, gen := if w = 0 then 1 else w })))) ∧
  (∀ (s : State) (n : Nat),
    getSlot (notePerturb s) n = { getSlot s n with run := (getSlot (notePerturb s) n).run } ∧ (pertActive s = false → notePerturb s = s) ∧
    (pertActive s = true → inStep (getSlot s n) = true → ∀ r, (getSlot (notePerturb s) n).run = some r → r.perturbed = true) ∧
    notePerturb s = { s with slots := (notePerturb s).slots }) ∧
  ∀ g, 0 < g → g < 2 ^ 32 → 0 < lfsr g ∧ lfsr g < 2 ^ 32 ∧ (g % 2 = 0 → lfsr g = g / 2) ∧ (g % 2 = 1 → lfsr g = (g / 2) ^^^ 0x80200003)

/-- Loopbacks and self-tests (R424 to R426): a link loopback starts only on a port that is disabled and DOWN, with its results cleared; a memory test starts only on an unmapped DRAM target or on a
cluster of no partition, else it answers REGION_BUSY; while one runs a further write raises CFG_ERR. A march over DRAM retires the failing granules and leaves every other byte of the target 0 and the
rest of memory as it was; one over a cluster leaves its stores 0, and a failing word there is a fault of the die. -/
def Sys2Proof.Claims.LoopbackAndSelfTest : Prop :=
  (∀ (f : FnAddr) (v lanes errors : Word) (s : State), Answers f s →
    let k := fnKeyOf f
    let w := v.toNat
    let u := noted s lanes.toNat errors.toNat
    let x := getLink s (w % 8)
    let bad : Prop := bit w 31 = true ∧ (6 ≤ w % 8 ∨ x.en = true ∨ x.state ≠ .down)
    let fresh : Prop := bit w 31 = true ∧ s.pert.lpEn = false
    (¬ MayPerturb s k → exec (.lpbkCtl f v lanes errors) s = PertDenied u k) ∧
    (MayPerturb s k → bad → exec (.lpbkCtl f v lanes errors) s = PertCfgErr u) ∧
    (MayPerturb s k → ¬ bad → fresh → exec (.lpbkCtl f v lanes errors) s = .next (notePerturb { u with pert := { u.pert with
      lpEn := true, lpMode := bit w 30, lpPort := w % 8, lpLanes := 0, lpErrs := 0 } })) ∧
    (MayPerturb s k → ¬ bad → ¬ fresh → exec (.lpbkCtl f v lanes errors) s = .next (notePerturb { u with pert := { u.pert with
      lpEn := bit w 31, lpMode := bit w 30, lpPort := w % 8 } }))) ∧
  (∀ (f : FnAddr) (tkind : BitVec 2) (target : BitVec 9) (s : State), Answers f s →
    let k := fnKeyOf f
    let start (op : Nat) : Prop :=
      let c : Instr := if op = 1 then .phyloop f tkind target else .march f tkind target
      let named (p : PertSt) : PertSt := { p with bistOp := op, bistKind := tkind.toNat, bistTarget := target.toNat }
      (¬ MayPerturb s k → exec c s = PertDenied s k) ∧
      (MayPerturb s k → s.pert.bistRun = true → exec c s = PertCfgErr s) ∧
      (MayPerturb s k → s.pert.bistRun = false → bistFree s tkind.toNat target.toNat = false →
        exec c s = .next { s with pert := { named s.pert with bistResult := sRegionBusy } }) ∧
      (MayPerturb s k → s.pert.bistRun = false → bistFree s tkind.toNat target.toNat = true →
        exec c s = .next (notePerturb { s with
          pert := { named s.pert with bistRun := true, bistFail := false, bistResult := sSuccess, bistRetired := 0 },
          tiers := { s.tiers with testing := if tkind.toNat < 2 then some (tkind.toNat, target.toNat) else none } }))
    start 1 ∧ start 2 ∧
    (bistFree s 0 target.toNat = true ↔ target.toNat < 16 ∧ ∀ g ∈ s.tiers.hbmGran, g.1 % 16 = target.toNat → g.2 ≠ .mapped) ∧
    (bistFree s 1 target.toNat = true ↔ target.toNat < 8 ∧ ∀ g ∈ s.tiers.lpGran, g.2 ≠ .mapped) ∧
    (bistFree s 2 target.toNat = true ↔ target.toNat < 288 ∧ partOfCluster s (clusterOfBit target.toNat) = none) ∧
    bistFree s 3 target.toNat = false) ∧
  (∀ (fails : List (BitVec 19)) (failed : Bool) (s : State),
    (s.pert.bistRun = false → exec (.bistEnd fails failed) s = .next s) ∧
    (s.pert.bistRun = true → s.pert.bistOp = 1 → ∃ t, exec (.bistEnd fails failed) s = .next t ∧ t.pert.bistRun = false ∧
      t = { s with pert := t.pert, tiers := { s.tiers with testing := none } } ∧ t.pert.bistFail = (failed || s.pert.bistFail) ∧
      flagSet t.pert.flags pfBistFail = (failed || flagSet s.pert.flags pfBistFail)) ∧
    (s.pert.bistRun = true → s.pert.bistOp = 2 → s.pert.bistKind = 0 → ∃ t, exec (.bistEnd fails failed) s = .next t ∧
      t = { s with pert := t.pert, tiers := t.tiers } ∧ t.pert.bistRun = false ∧ t.tiers.testing = none ∧
      t.tiers = { s.tiers with testing := none, hbm := t.tiers.hbm, hbmGran := t.tiers.hbmGran, undef := t.tiers.undef } ∧
      (∀ p j, p < hbmGranules → p % 16 = s.pert.bistTarget → j < granBytes → physByte t.tiers 1 p j = 0) ∧
      (∀ p j, hbmGranules ≤ p ∨ p % 16 ≠ s.pert.bistTarget → j < granBytes → physByte t.tiers 1 p j = physByte s.tiers 1 p j) ∧
      (∀ g, g < hbmGranules → g % 16 = s.pert.bistTarget →
        (mget .free t.tiers.hbmGran g = .retired ↔ mget .free s.tiers.hbmGran g = .retired ∨ ∃ x ∈ fails, x.toNat = g)) ∧
      (∀ g, hbmGranules ≤ g ∨ g % 16 ≠ s.pert.bistTarget → mget .free t.tiers.hbmGran g = mget .free s.tiers.hbmGran g)) ∧
    (s.pert.bistRun = true → s.pert.bistOp = 2 → s.pert.bistKind = 1 → ∃ t, exec (.bistEnd fails failed) s = .next t ∧
      t = { s with pert := t.pert, tiers := t.tiers } ∧ t.pert.bistRun = false ∧ t.tiers.testing = none ∧
      t.tiers = { s.tiers with testing := none, lp := t.tiers.lp, lpGran := t.tiers.lpGran } ∧
      (∀ a, a / granBytes < lpGranules → mget 0 t.tiers.lp a = 0) ∧ (∀ a, lpGranules ≤ a / granBytes → mget 0 t.tiers.lp a = mget 0 s.tiers.lp a) ∧
      ∀ g, g < lpGranules → (mget .free t.tiers.lpGran g = .retired ↔ mget .free s.tiers.lpGran g = .retired ∨ ∃ x ∈ fails, x.toNat = g)) ∧
    (s.pert.bistRun = true → s.pert.bistOp = 2 → s.pert.bistKind = 2 →
      let c := clusterOfBit s.pert.bistTarget
      ∃ t, exec (.bistEnd fails false) s = .next t ∧
        t = { s with pert := { s.pert with bistRun := false }, tiers := { s.tiers with testing := none }, cores := t.cores } ∧
        (∀ i, i < 8 → getCore t (8 * c + i) = { getCore s (8 * c + i) with store := [] }) ∧ (∀ d, d / 8 ≠ c → getCore t d = getCore s d) ∧
        exec (.bistEnd fails true) s = .next (dieFault { t with
          pert := { t.pert with bistFail := true, flags := raise s.fc s.pert.flags pfBistFail } } (posDie s (c / 128) (c / 8 % 16)) dtSram)))

/-- The TAP (R427): a reset and a load select the instruction; a scan shifts its register out before the bits shifted in: one 0 for BYPASS, the 32 bits of the identity code
for IDCODE, the lands for SAMPLE and EXTEST, whose shifted bits stay in the boundary register; the lands are driven from it while EXTEST is in effect, which it is only where
TEST_MODE_N was low, else it acts as BYPASS. Without power nothing happens. -/
def Sys2Proof.Claims.TestAccessPort : Prop :=
  ∀ (s : State),
    (s.power.on = false → ∀ o, exec (.tap o) s = .next s) ∧
    (s.power.on = true →
      (∃ t, exec (.tap .reset) s = .next t ∧ t = { s with tap := t.tap } ∧ t.tap.instr = .idcode ∧ t.tap.boundary = s.tap.boundary ∧ t.tap.driven = []) ∧
      (∀ i, ∃ t, exec (.tap (.load i)) s = .next t ∧ t = { s with tap := t.tap } ∧ t.tap.instr = i ∧ t.tap.boundary = s.tap.boundary ∧
        t.tap.driven = (if i = .extest ∧ s.handle.testN = false then s.tap.boundary else [])) ∧
      (∀ (tdi lands : List Bool),
        let out (u : State) (b : List Bool) : State := { u with out := s.out ++ [.tdo b] }
        (s.tap.instr = .bypass ∨ s.tap.instr = .extest ∧ s.handle.testN = true →
          exec (.tap (.scan tdi lands)) s = .next (out s ((false :: tdi).take tdi.length))) ∧
        (s.tap.instr = .idcode → exec (.tap (.scan tdi lands)) s = .next (out s (((List.range 32).map (bit idcode) ++ tdi).take tdi.length))) ∧
        (s.tap.instr = .sample ∨ s.tap.instr = .extest ∧ s.handle.testN = false → ∃ t, exec (.tap (.scan tdi lands)) s = .next t ∧
          t = out { s with tap := t.tap } ((lands ++ tdi).take tdi.length) ∧ t.tap.instr = s.tap.instr ∧
          t.tap.boundary = (lands ++ tdi).drop tdi.length ∧ t.tap.boundary.length = lands.length ∧
          t.tap.driven = (if s.tap.instr = .extest then t.tap.boundary else []))) ∧
      bits idcode 31 28 = 1 ∧ bits idcode 27 12 = 0x7064 ∧ bit idcode 0 = true ∧ bits idcode 11 1 = Config.jtagManufacturer.toNat)


/-! ### Number formats (R21, R26, R27, R32) -/

namespace Sys2Proof.Claims

/-- The boundary formats that have an infinity (Table 02.3). -/
def HasInf (f : Fmt) : Prop := f = .fp32 ∨ f = .bf16 ∨ f = .fp16 ∨ f = .e5m2

/-- The floating-point boundary formats. -/
def IsFloat (f : Fmt) : Prop := HasInf f ∨ f = .e4m3

/-- The log formats. -/
def IsLog (f : Fmt) : Prop := f = .l8 ∨ f = .l16

end Sys2Proof.Claims

/-- Widening from L8 to L16 is exact and sets no flag (R21): zero and NaR go to theirs, any other code keeps its sign and takes the field 64 · (e8 − 64) + 16,384, whose
logarithm is the same; the fields reached are 12,352 to 20,416 in steps of 64. -/
def Obligations.WideningIsExact : Prop :=
  ∀ c, c < 256 →
    let r := convert .l8 .l16 c
    let e8 := c % 128
    r.sat = false ∧ r.ufl = false ∧ r.nar = false ∧ (c = 0 → r.code = 0x0000) ∧ (c = 0x80 → r.code = 0x8000) ∧
    (e8 ≠ 0 → (r.code / 0x8000 = c / 0x80) ∧ (lField r.code : Int) = 64 * ((e8 : Int) - 64) + 16384 ∧
      256 * ((e8 : Int) - 64) = 4 * ((lField r.code : Int) - 16384) ∧
      12352 ≤ lField r.code ∧ lField r.code ≤ 20416 ∧ lField r.code % 64 = 12352 % 64)

/-- Special values of a conversion (R26, R27, R32): an infinity goes to the largest magnitude of the log target with its sign and raises SAT; any NaN, whatever its sign and
payload, goes to NaR and raises NAR; both zeros go to zero without a flag, so that a negative zero comes back as +0; NaR goes to the quiet NaN of the target and raises NAR. -/
def Obligations.SpecialValues : Prop :=
  (∀ (src dst : Fmt) (neg : Bool), HasInf src → IsLog dst →
    convert src dst ((if neg = true then src.signBit else 0) + (2 ^ src.ebits - 1) * 2 ^ src.mbits) =
      { code := (if neg = true then 2 ^ (8 * dst.width - 1) else 0) + (if dst = .l8 then 0x7F else 0x7FFF), sat := true }) ∧
  (∀ (src dst : Fmt) (c : Nat), HasInf src → IsLog dst → c < 2 ^ (8 * src.width) → (2 ^ src.ebits - 1) * 2 ^ src.mbits < c % src.signBit →
    convert src dst c = { code := if dst = .l8 then 0x80 else 0x8000, nar := true }) ∧
  (∀ (dst : Fmt) (c : Nat), IsLog dst → c = 0x7F ∨ c = 0xFF → convert .e4m3 dst c = { code := if dst = .l8 then 0x80 else 0x8000, nar := true }) ∧
  (∀ (src dst : Fmt), IsFloat src → IsLog dst → convert src dst 0 = { code := 0 } ∧ convert src dst src.signBit = { code := 0 } ∧
    (convert dst src (convert src dst src.signBit).code).code = 0) ∧
  (∀ (src dst : Fmt), IsLog src → IsFloat dst → convert src dst (if src = .l8 then 0x80 else 0x8000) =
    { code := match dst with | .fp32 => 0x7FC00000 | .bf16 => 0x7FC0 | .fp16 => 0x7E00 | .e4m3 => 0x7F | _ => 0x7E, nar := true })

/-- Two Handle dies synchronise only if the standby's image accepts the active image's format, STATE_MIN ≤ the active's STATE_VER ≤ the standby's STATE_VER; otherwise the standby
is lost (R398). -/
def Obligations.SynchronisedFormats : Prop :=
  ∀ (die : BitVec 1) (s : State) (a : Nat), activeDie s = some a → die.toNat ≠ a →
    (getDie s die.toNat).role = .starting ∨ (getDie s die.toNat).role = .rebooting →
    let i := runningImage s die.toNat
    let j := runningImage s a
    ∃ t, exec (.standbySync die) s = .next t ∧
      (i.stateMin ≤ j.stateVer ∧ j.stateVer ≤ i.stateVer → (getDie t die.toNat).role = .standby) ∧
      (¬ (i.stateMin ≤ j.stateVer ∧ j.stateVer ≤ i.stateVer) → (getDie t die.toNat).role = .lost)

/-! ### The whole machine -/

/-- The front of the queue runs: a step at a state whose queue starts with a command is that command's effect on the state with the rest of the queue; on an empty queue one fc
passes once the root clock runs, in which the step causes, the stall counts and the perturbation points are noted, and nothing else changes (log entry 15: the model's choice). -/
def Obligations.StepRunsFront : Prop :=
  (∀ (c : Instr) (cs : List Instr) (s : State), step { s with pending := c :: cs } = exec c { s with pending := cs }) ∧
  (∀ (s : State), s.pending = [] → ∃ t, step s = .next t ∧ (s.rootLock = false → t = s) ∧
    (s.rootLock = true → t = { s with fc := s.fc + 1, slots := t.slots, parts := t.parts, pert := t.pert }))

/-- No command changes the queue: what waits behind it is as it was (the model's own field). -/
def Obligations.QueueUnchanged : Prop := ∀ (c : Instr) (s t : State), exec c s = .next t → t.pending = s.pending

/-- Every step keeps the invariant of `Safety.Inv`: the byte stores of both DRAM tiers keep their one canonical form, and at most one Handle die is active, the one that holds the
ownership latch (R391, R394). -/
def Obligations.StepKeepsInv : Prop := ∀ (s t : State), Sys2Proof.Safety.Inv s → step s = .next t → Sys2Proof.Safety.Inv t

/-- The invariant holds after reset. -/
def Obligations.ResetInv : Prop := Sys2Proof.Safety.Inv State.reset

/-- Register values after cold reset (R9, Tables 19.2 to 19.23, 11.5): a PF reads the value of the Reset column at every offset; every offset of BAR0 outside this list, the
serial number and the mask words of the MSI-X table reads 0; MB_STATUS reads BUSY and every other word of BAR2 reads 0. -/
def Obligations.ResetValues : Prop :=
  let s := State.reset
  let named : List (Nat × Nat) := [(0x0, 0x70640100), (0x4, 0x11), (0x8, 0x20080806), (0xC, 0x10004000), (0x10, 0x01004040), (0x20, 0xFF0), (0x24, 0xFF0), (0x28, 0xFF0),
    (0x2C, 0xFF0), (0x30, 0x00983800), (0x34, 0x00D74B50), (0x1040, 0xBB8), (0x1044, 0x0BB80000), (0x2004, 0x80000000), (0x2048, 3), (0x80004, 0xFF), (0x80030, 0x100000),
    (0x80060, 0x00100003), (0x80064, 0x01000000), (0xA0030, 1)]
  (∀ p ∈ named, ∀ k, k = 0 ∨ k = 65 → bar0Value s k p.1 = p.2) ∧
  (∀ n k, n ≤ 64 → k = 0 ∨ k = 65 → bar0Value s k (0x10100 + 8 * n) = 0x01000000) ∧
  (∀ u k, u < 32 → k < 130 → bar0Value s k (0x70000 + 0x100 * u) = 0x03000000) ∧
  (∀ v k, v < 2048 → k = 0 ∨ k = 65 → bar0Value s k (0x4000 + 16 * v + 12) = 1) ∧
  (∀ k o, k = 0 ∨ k = 65 → o < 2 ^ 24 → (∀ p ∈ named, o ≠ p.1) → o ≠ 0x18 → o ≠ 0x1C → (∀ v, v < 2048 → o ≠ 0x4000 + 16 * v + 12) →
    (∀ n, n ≤ 64 → o ≠ 0x10100 + 8 * n) → (∀ u, u < 32 → o ≠ 0x70000 + 0x100 * u) → bar0Value s k o = 0) ∧
  (∀ k o, k < 130 → bar2Value s k o = if o = 4 then 1 else 0)

/-- An access of a function that the device does not have is refused by name; one whose port's link is down, that is in D3hot or does not decode its BARs, and one of a VF that is not enabled,
changes nothing (R257, R264): every command that writes a
register of a function. -/
def Sys2Proof.Claims.AccessReaches : Prop :=
  ∀ (f : FnAddr) (v w x : Word) (seq : Byte) (port : PortNo) (u : BitVec 5) (p : PairReg) (b : FlagBlock) (o : BitVec 24) (tk : BitVec 2) (tg : BitVec 9)
    (rv : BitVec 31) (s : State),
    let rows : List Instr := [.convSel f v, .convClr f v, .stepSel f v, .devSel f v, .quotaSel f v, .tierSlotSel f v, .tierChSel f v, .layoutSel f v, .arbSel f v, .arbCtl f v,
      .ringSel f v, .pairCommit f p v, .cycSnap f v, .flagClear f b v, .chkCtl f u v, .chkRun f u v, .pertCtl f v, .ptSel f v, .ptCtl f v, .ptSeed f v, .lpbkCtl f v w x,
      .phyloop f tk tg, .march f tk tg, .registerWrite f .bar0 o v, .registerWrite f .bar2 o v, .wdogStatus f v, .linkEnable f port, .linkDisable f port, .retrain f port, .torusCoord f v, .torusLen f v,
      .ringEnable f rv, .ringDisable f rv, .fnRings f v, .openMb f seq, .proveMb f seq, .closeMb f seq, .passwordMb f seq, .mbCmd f v, .hmLogRead f seq, .sensorRead f seq,
      .logHead f seq, .hmCmd f v]
    ∀ c ∈ rows, (fnAddrOk f = false → exec c s = .refused .noSuchUnit) ∧ (fnAddrOk f = true → fnReach s (fnKeyOf f) = false → exec c s = .next s)

/-! ### Statements of several families together -/

/-- What the lane arithmetic rows write, keep and raise: `FloatLanes`, `IntegerLanes`, `LogLanes`. -/
def Obligations.LaneArithmetic : Prop := Claims.FloatLanes ∧ Claims.IntegerLanes ∧ Claims.LogLanes

/-- Rejected lane forms and the cycles a result needs: `LaneFormsRejected`, `ResultLatency`. -/
def Obligations.LaneFormsAndLatency : Prop := Claims.LaneFormsRejected ∧ Claims.ResultLatency

/-- Reductions across lanes and of predicates, and the special functions: `LaneReductions`, `SpecialFunctions`. -/
def Obligations.ReductionsAndSpecials : Prop := Claims.LaneReductions ∧ Claims.SpecialFunctions

/-- An engine tile operation and its wait for a chained total: `EngineTile`, `EngineChainWaits`. -/
def Obligations.EngineOperation : Prop := Claims.EngineTile ∧ Claims.EngineChainWaits

/-- Gathers, scatters and index rows: `GatherUnit`, `OutOfRangeRowIsZero`, `ScatterAndIndex`. -/
def Obligations.GathersAndScatters : Prop := Claims.GatherUnit ∧ Claims.OutOfRangeRowIsZero ∧ Claims.ScatterAndIndex

/-- RECV and REL on the token queues: `Receive`, `Release`. -/
def Obligations.ReceiveAndRelease : Prop := Claims.Receive ∧ Claims.Release

/-- Arriving tokens, fills and delayed queues: `TokenArrival`, `Fill`, `QueueDelay`. -/
def Obligations.TokenArrivals : Prop := Claims.TokenArrival ∧ Claims.Fill ∧ Claims.QueueDelay

/-- LDST loads and stores between a core's store and its registers: `LoadRegister`, `StoreRegister`. -/
def Obligations.LoadsAndStores : Prop := Claims.LoadRegister ∧ Claims.StoreRegister

/-- Context loads, ending and waiting: `ContextLoadEnds`, `WaitingLoads`. -/
def Obligations.ContextLoads : Prop := Claims.ContextLoadEnds ∧ Claims.WaitingLoads

/-- The stall watchdog and the ends of drains: `StallWatchdog`, `DrainEnds`. -/
def Obligations.WatchdogAndDrain : Prop := Claims.StallWatchdog ∧ Claims.DrainEnds

/-- Starting a step and beginning an attempt: `StepStart`, `AttemptBegins`. -/
def Obligations.StepAndAttempt : Prop := Claims.StepStart ∧ Claims.AttemptBegins

/-- Quantised gradient tiles and host-placed updates: `QuantiseTile`, `HostPlacedUpdate`. -/
def Obligations.QuantiseAndHostPlaced : Prop := Claims.QuantiseTile ∧ Claims.HostPlacedUpdate

/-- The update sweep of a slot and the interlude: `UpdateSweep`, `Interlude`. -/
def Obligations.UpdateAndInterlude : Prop := Claims.UpdateSweep ∧ Claims.Interlude

/-- Border vector and scalar rows: `BorderVectors`, `BorderScalars`. -/
def Obligations.BorderArithmetic : Prop := Claims.BorderVectors ∧ Claims.BorderScalars

/-- Border loads and stores: `BorderLoads`, `BorderStores`. -/
def Obligations.BorderMemory : Prop := Claims.BorderLoads ∧ Claims.BorderStores

/-- An abort stops the attempt; a commit raises CN by one: `AbortStopsAttempt`, `CommitRaisesCn`. -/
def Obligations.AbortAndCommit : Prop := Claims.AbortStopsAttempt ∧ Claims.CommitRaisesCn

/-- Packets of commit rounds and of data streams, and those that arrive late: `RoundPackets`, `DataPackets`, `LateArrival`. -/
def Obligations.RoundAndDataPackets : Prop := Claims.RoundPackets ∧ Claims.DataPackets ∧ Claims.LateArrival

/-- Relayed packets and gradients that reach their owner: `RelayPacket`, `GradientReachesOwner`. -/
def Obligations.RelaysAndGradients : Prop := Claims.RelayPacket ∧ Claims.GradientReachesOwner

/-- LINK_CTL, TORUS_COORD and TORUS_LEN: `LinkControl`, `TorusRegisters`. -/
def Obligations.LinkAndTorusRegisters : Prop := Claims.LinkControl ∧ Claims.TorusRegisters

/-- Bring-up, lane test, mismatch and ring breaks: `LinkBringUp`, `LaneTestAndBreak`. -/
def Obligations.LinkTrainingAndBreaks : Prop := Claims.LinkBringUp ∧ Claims.LaneTestAndBreak

/-- Blocks at a receiving half, resends and retrains: `LinkBlocks`, `BlockAccepted`. -/
def Obligations.Blocks : Prop := Claims.LinkBlocks ∧ Claims.BlockAccepted

/-- Function resets, port resets and D3hot: `FunctionReset`, `PortResets`, `PowerStateD3`. -/
def Obligations.ResetsAndPowerStates : Prop := Claims.FunctionReset ∧ Claims.PortResets ∧ Claims.PowerStateD3

/-- Ends of mailbox commands, session identifiers and lock-outs: `MailboxEnds`, `SessionIdIsFree`, `LockOut`. -/
def Obligations.MailboxEndsAndLockOut : Prop := Claims.MailboxEnds ∧ Claims.SessionIdIsFree ∧ Claims.LockOut

/-- RING_CTL and FN_RINGS: `RingControl`, `RingRanges`. -/
def Obligations.RingSetUp : Prop := Claims.RingControl ∧ Claims.RingRanges

/-- Doorbell polls, fetches and completions of descriptor rings: `DoorbellsAndFetch`, `Completions`. -/
def Obligations.RingTraffic : Prop := Claims.DoorbellsAndFetch ∧ Claims.Completions

/-- Copies, fills and images: `CopyDescriptors`, `ImageDescriptors`. -/
def Obligations.CopiesAndImages : Prop := Claims.CopyDescriptors ∧ Claims.ImageDescriptors

/-- Corrected, retried and failed tier reads; a byte written reads back and no other changes: `TierReads`, `TierByteReadBack`. -/
def Obligations.TierReads : Prop := Claims.TierReads ∧ Claims.TierByteReadBack

/-- Domains, quotas and partitions: `DomainsAndQuotas`, `Partitions`. -/
def Obligations.DomainsAndPartitions : Prop := Claims.DomainsAndQuotas ∧ Claims.Partitions

/-- Faults of compute dies and their substitution by a spare: `DieFaults`, `Spares`. -/
def Obligations.DieFaultsAndSpares : Prop := Claims.DieFaults ∧ Claims.Spares

/-- What the fault detectors record and the loss of a rim die: `Detectors`, `RimFaults`. -/
def Obligations.DetectorsAndRimFaults : Prop := Claims.Detectors ∧ Claims.RimFaults

/-- Sensors, derating, voltage commands and protective shutdowns: `SensorsAndPower`, `Shutdowns`. -/
def Obligations.SensorsAndShutdowns : Prop := Claims.SensorsAndPower ∧ Claims.Shutdowns

/-- Secured and management sessions, keys, passwords and the event log: `ManagementSessions`, `Provisioning`. -/
def Obligations.ManagementAndProvisioning : Prop := Claims.ManagementSessions ∧ Claims.Provisioning

/-- Which writes of the register map and of the configuration space take effect, and for whom: `RegisterWrites`, `ConfigurationWrites`, `AccessReaches`. -/
def Obligations.RegisterAccesses : Prop := Claims.RegisterWrites ∧ Claims.ConfigurationWrites ∧ Claims.AccessReaches

/-- Link loopback, memory self-test and the test access port: `LoopbackAndSelfTest`, `TestAccessPort`. -/
def Obligations.TestModes : Prop := Claims.LoopbackAndSelfTest ∧ Claims.TestAccessPort
end

