-- ==== Sys2Proof/Laws/Frames.lean ====
section
/-! SUPPORT. What the shared operations leave alone: the queue of commands that wait and the roles of the Handle pair, one lemma per operation. -/

namespace Sys2Proof.Machine

/-- What most operations leave alone: the queue of commands that wait, and which Handle die is active. -/
def kept (s : State) : List Instr × Option Nat × SMap HandleDie := (s.pending, s.handle.latch, s.handle.dies)

/-- The three in a state written out. -/
@[simp] theorem kept_mk x0 x1 x2 x3 x4 x5 x6 x7 x8 x9 x10 x11 x12 x13 x14 x15 x16 x17 x18 x19 x20 x21 x22 x23 x24 x25 x26 x27 x28 x29 :
    kept (State.mk x0 x1 x2 x3 x4 x5 x6 x7 x8 x9 x10 x11 x12 x13 x14 x15 x16 x17 x18 x19 x20 x21 x22 x23 x24 x25 x26 x27 x28 x29) = (x0, x23.latch, x23.dies) := rfl

/-- The three, folded again. -/
@[simp] theorem kept_fold (s : State) : (s.pending, s.handle.latch, s.handle.dies) = kept s := rfl

/-- A fold of operations that keep the queue keeps it. -/
theorem foldl_kept {β : Type} (f : State → β → State) (h : ∀ s x, kept (f s x) = kept s) (l : List β) (s : State) :
    kept (l.foldl f s) = kept s := by
  induction l generalizing s with
  | nil => rfl
  | cons a l ih => simp [List.foldl_cons, ih, h]

/-- The queue of a choice. -/
@[simp] theorem ite_kept (c : Prop) [Decidable c] (a b : State) : kept (if c then a else b) = if c then kept a else kept b := by
  split <;> rfl

/-- A fold of operations that may fail, each of which keeps the queue where it answers, keeps it. -/
theorem foldl_bind_kept {β : Type} (f : State → β → Option State) (h : ∀ s x t, f s x = some t → kept t = kept s) (l : List β)
    (a : Option State) (t : State) (ht : l.foldl (fun a x => a.bind (fun s => f s x)) a = some t) : ∃ s, a = some s ∧ kept t = kept s := by
  induction l generalizing a with
  | nil => exact ⟨t, ht, rfl⟩
  | cons x l ih =>
    obtain ⟨u, hu, e⟩ := ih _ ht
    cases a with
    | none => simp at hu
    | some s => exact ⟨s, rfl, e.trans (h s x u hu)⟩

/-- An answer that may fail keeps the queue of the state it leaves. -/
theorem map_kept (a : Option State) (g : State → State) (q : List Instr × Option Nat × SMap HandleDie) (ha : ∀ s, a = some s → kept s = q) (hg : ∀ s, kept (g s) = kept s)
    (t : State) (h : a.map g = some t) : kept t = q := by
  cases a with
  | none => simp at h
  | some s => simp at h; subst h; rw [hg]; exact ha s rfl

@[simp] theorem setCore_kept (s : State) (c : Nat) (co : CoreSt) : kept (setCore s c co) = kept s := by
  unfold setCore
  simp

@[simp] theorem setPart_kept (s : State) (p : Nat) (x : PartSt) : kept (setPart s p x) = kept s := by
  unfold setPart
  simp

@[simp] theorem setDom_kept (s : State) (d : Nat) (x : DomSt) : kept (setDom s d x) = kept s := by
  unfold setDom
  simp

@[simp] theorem setTierByte_kept (s : State) (dom a : Nat) (b : Byte) : kept (setTierByte s dom a b) = kept s := by
  unfold setTierByte
  dsimp only
  (repeat' split) <;> simp

theorem mapGranule_kept (s : State) (dom tier g : Nat) (m : Bool) (t : State) (h : mapGranule s dom tier g m = some t) : kept t = kept s := by
  unfold mapGranule at h
  dsimp only at h
  split at h <;> (obtain ⟨p, _, rfl⟩ := Option.map_eq_some_iff.mp h) <;> rfl

theorem mapRun_kept (dom tier : Nat) (m : Bool) (n g : Nat) (s t : State) (h : mapRun dom tier m n g s = some t) : kept t = kept s := by
  induction n generalizing g s with
  | zero => cases h; rfl
  | succ n ih =>
    obtain ⟨u, hu, hv⟩ := Option.bind_eq_some_iff.mp h
    exact (ih _ _ hv).trans (mapGranule_kept _ _ _ _ _ _ hu)

theorem allocRegion_kept (s : State) (dom : Nat) (r : RegionReq) (t : State) (h : allocRegion s dom r = some t) : kept t = kept s := by
  unfold allocRegion at h
  dsimp only at h
  generalize lowestRun _ _ _ = g at h
  split at h
  · cases h; rfl
  · split at h
    · cases h
    · obtain ⟨u, hu, rfl⟩ := Option.map_eq_some_iff.mp h
      exact (setDom_kept _ _ _).trans (mapRun_kept _ _ _ _ _ _ _ hu)

theorem allocAll_kept (dom : Nat) (rs : List RegionReq) (s t : State) (h : allocAll dom rs s = some t) : kept t = kept s := by
  induction rs generalizing s with
  | nil => cases h; rfl
  | cons r rs ih =>
    obtain ⟨u, hu, hv⟩ := Option.bind_eq_some_iff.mp h
    exact (ih _ hv).trans (allocRegion_kept _ _ _ _ hu)

@[simp] theorem raiseQuota_kept (s : State) (b : Nat) : kept (raiseQuota s b) = kept s := by
  unfold raiseQuota
  simp

@[simp] theorem raiseTier_kept (s : State) (b : Nat) : kept (raiseTier s b) = kept s := by
  unfold raiseTier
  simp

@[simp] theorem quotaEvents_kept (s : State) (code : Nat) : kept (quotaEvents s code) = kept s := by
  unfold quotaEvents
  simp

@[simp] theorem unmapGranule_kept (dom tier : Nat) (s : State) (g : Nat) : kept (unmapGranule dom tier s g) = kept s := by
  unfold unmapGranule
  dsimp only
  (repeat' split) <;> simp

theorem allocRegions_kept (s : State) (dom : Nat) (rs : List RegionReq) (t : State) (h : allocRegions s dom rs = .ok t) : kept t = kept s := by
  unfold allocRegions at h
  dsimp only at h
  split at h
  · cases h
  · split at h
    · cases h
    · split at h
      · cases h
      · rename_i u hu; cases h; exact allocAll_kept _ _ _ _ hu

@[simp] theorem releaseRegion_kept (s : State) (dom : Nat) (r : Region) : kept (releaseRegion s dom r) = kept s := by
  unfold releaseRegion
  (repeat' split) <;> simp [foldl_kept]

@[simp] theorem trimRegion_kept (s : State) (dom : Nat) (r : Region) (keep : Nat → Bool) : kept (trimRegion s dom r keep) = kept s := by
  unfold trimRegion
  (repeat' split) <;> simp [foldl_kept]

@[simp] theorem releaseWhere_kept (s : State) (dom : Nat) (f : Region → Bool) : kept (releaseWhere s dom f) = kept s := by
  unfold releaseWhere
  (repeat' split) <;> simp [foldl_kept]

@[simp] theorem setSlath_kept (s : State) (q : Nat) (x : SlathSt) : kept (setSlath s q x) = kept s := by
  unfold setSlath
  simp

@[simp] theorem setSlot_kept (s : State) (n : Nat) (x : SlotSt) : kept (setSlot s n x) = kept s := by
  unfold setSlot
  simp

@[simp] theorem updSlot_kept (s : State) (n : Nat) (f : SlotSt → SlotSt) : kept (updSlot s n f) = kept s := by
  unfold updSlot
  simp

@[simp] theorem writeStream_kept (s : State) (slot : Nat) (st : Stream) (off : Nat) (bs : List Byte) :
    kept (writeStream s slot st off bs) = kept s := by
  induction bs generalizing s off with
  | nil => rfl
  | cons b bs ih => rw [writeStream, ih]; split <;> simp

@[simp] theorem writeCodes_kept (s : State) (slot : Nat) (st : Stream) (w off : Nat) (cs : List Nat) :
    kept (writeCodes s slot st w off cs) = kept s := writeStream_kept _ _ _ _ _

@[simp] theorem setRecord_kept (s : State) (slot t v : Nat) : kept (setRecord s slot t v) = kept s := writeStream_kept _ _ _ _ _

theorem retireGranule_kept (s : State) (tier p : Nat) (bad : List Nat) (t : State) (h : retireGranule s tier p bad = some t) : kept t = kept s := by
  unfold retireGranule at h
  dsimp only at h
  split at h
  · cases h; rfl
  · split at h
    · obtain ⟨r, _, rfl⟩ := Option.map_eq_some_iff.mp h; rfl
    · obtain ⟨r, _, rfl⟩ := Option.map_eq_some_iff.mp h; rfl

theorem retireAll_kept (s : State) (fs : List (Nat × Nat × Nat)) (t : State) (h : retireAll s fs = some t) : kept t = kept s := by
  obtain ⟨u, hu, e⟩ := foldl_bind_kept _ (fun s f t h => retireGranule_kept s _ _ _ t h) _ _ _ h
  cases hu; exact e

theorem retireFailed_kept (s : State) (slot : Nat) (t : State) (h : retireFailed s slot = some t) : kept t = kept s := by
  unfold retireFailed at h
  exact (retireAll_kept _ _ _ h).trans rfl

@[simp] theorem forgetFailed_kept (s : State) (slot : Nat) : kept (forgetFailed s slot) = kept s := by
  unfold forgetFailed
  simp

@[simp] theorem setFn_kept (s : State) (k : Nat) (f : FnSt) : kept (setFn s k f) = kept s := by
  unfold setFn
  simp

@[simp] theorem updFn_kept (s : State) (k : Nat) (g : FnSt → FnSt) : kept (updFn s k g) = kept s := by
  unfold updFn
  simp

@[simp] theorem setPort_kept (s : State) (p : Nat) (x : HostPort) : kept (setPort s p x) = kept s := by
  unfold setPort
  simp

@[simp] theorem raiseHost_kept (s : State) (k b : Nat) : kept (raiseHost s k b) = kept s := by
  unfold raiseHost
  simp

@[simp] theorem raiseRing_kept (s : State) (k b : Nat) : kept (raiseRing s k b) = kept s := by
  unfold raiseRing
  simp

@[simp] theorem raiseChk_kept (s : State) (k b : Nat) : kept (raiseChk s k b) = kept s := by
  unfold raiseChk
  simp

@[simp] theorem sendMsix_kept (s : State) (k v : Nat) : kept (sendMsix s k v) = kept s := by
  unfold sendMsix
  simp

@[simp] theorem setRing_kept (s : State) (r : Nat) (x : RingSt) : kept (setRing s r x) = kept s := by
  unfold setRing
  simp

@[simp] theorem updRing_kept (s : State) (r : Nat) (g : RingSt → RingSt) : kept (updRing s r g) = kept s := by
  unfold updRing
  simp

@[simp] theorem disableRings_kept (s : State) (k : Nat) : kept (disableRings s k) = kept s := by
  unfold disableRings
  (repeat' split) <;> simp [foldl_kept]

@[simp] theorem finishDesc_kept (s : State) (r id status detail : Nat) : kept (finishDesc s r id status detail) = kept s := by
  unfold finishDesc
  simp

@[simp] theorem attachReport_kept (s : State) (r id addr : Nat) (bs : List Byte) : kept (attachReport s r id addr bs) = kept s := by
  unfold attachReport
  simp

@[simp] theorem setPoint_kept (s : State) (i : Nat) (p : PointSt) : kept (setPoint s i p) = kept s := by
  unfold setPoint
  simp

@[simp] theorem countPoint_kept (s : State) (i : Nat) : kept (countPoint s i) = kept s := by
  unfold countPoint
  simp

@[simp] theorem tickPoints_kept (s : State) : kept (tickPoints s) = kept s := by
  unfold tickPoints
  (repeat' split) <;> simp [foldl_kept]

@[simp] theorem setLink_kept (s : State) (p : Nat) (x : LinkSt) : kept (setLink s p x) = kept s := by
  unfold setLink
  simp

@[simp] theorem updLink_kept (s : State) (p : Nat) (g : LinkSt → LinkSt) : kept (updLink s p g) = kept s := by
  unfold updLink
  simp

@[simp] theorem raiseLink_kept (s : State) (p b : Nat) : kept (raiseLink s p b) = kept s := by
  unfold raiseLink
  simp

@[simp] theorem raiseTorus_kept (s : State) (b : Nat) : kept (raiseTorus s b) = kept s := by
  unfold raiseTorus
  simp

@[simp] theorem recordAck_kept (s : State) (p : Nat) : kept (recordAck s p) = kept s := by
  unfold recordAck
  (repeat' split) <;> simp

@[simp] theorem noteAck_kept (s : State) (p : Nat) : kept (noteAck s p) = kept s := by
  unfold noteAck
  dsimp only
  (repeat' split) <;> simp

theorem takeInject_kept (s : State) (mode target : Nat) (t : State) (h : takeInject s mode target = some t) : kept t = kept s := by
  unfold takeInject at h
  cases hf : findPoint s 5 (fun p => p.mode == mode && p.target == target) with
  | none => simp [hf] at h
  | some p => simp [hf] at h; subst h; rfl

@[simp] theorem injectWale_kept (s : State) (p seq : Nat) : kept (injectWale s p seq).1 = kept s := by
  unfold injectWale
  split
  · rename_i h; exact takeInject_kept _ _ _ _ h
  · split
    · rename_i h; exact Eq.trans (by rfl) (takeInject_kept _ _ _ _ h)
    · rfl

@[simp] theorem emitBlock_kept (s : State) (p seq : Nat) (b : Block) (spoil : Bool) (k : Nat) : kept (emitBlock s p seq b spoil k) = kept s := by
  unfold emitBlock
  simp

@[simp] theorem putBlock_kept (s : State) (p seq : Nat) (b : Block) (spoil : Bool) : kept (putBlock s p seq b spoil) = kept s := by
  unfold putBlock
  dsimp only
  split <;> simp

@[simp] theorem putPlain_kept (s : State) (p : Nat) (b : Block) : kept (putPlain s p b) = kept s := by
  unfold putPlain
  simp

@[simp] theorem sendIdle_kept (s : State) (p : Nat) : kept (sendIdle s p) = kept s := by
  unfold sendIdle
  simp

@[simp] theorem sendBlock_kept (s : State) (p : Nat) (b : Block) : kept (sendBlock s p b) = kept s := by
  unfold sendBlock
  simp

@[simp] theorem resendFrom_kept (s : State) (p : Nat) (bs : List (Nat × Block)) : kept (resendFrom s p bs) = kept s := by
  unfold resendFrom
  simp [foldl_kept]

@[simp] theorem sendLink_kept (s : State) (p sub : Nat) (m : LinkMsg) : kept (sendLink s p sub m) = kept s := by
  unfold sendLink
  simp

@[simp] theorem sendHello_kept (s : State) (p : Nat) : kept (sendHello s p) = kept s := by
  unfold sendHello
  simp

@[simp] theorem sendEcho_kept (s : State) (p : Nat) : kept (sendEcho s p) = kept s := by
  unfold sendEcho
  simp

@[simp] theorem sendBreak_kept (s : State) (p brk : Nat) : kept (sendBreak s p brk) = kept s := by
  unfold sendBreak
  dsimp only
  split <;> simp

@[simp] theorem ringBreak_kept (s : State) (a brk : Nat) : kept (ringBreak s a brk) = kept s := by
  unfold ringBreak
  (repeat' split) <;> simp

@[simp] theorem dropUnacked_kept (s : State) (p : Nat) : kept (dropUnacked s p) = kept s := by
  unfold dropUnacked
  simp

@[simp] theorem announceBreak_kept (s : State) (p : Nat) : kept (announceBreak s p) = kept s := by
  unfold announceBreak
  simp

@[simp] theorem loseLink_kept (s : State) (p : Nat) : kept (loseLink s p) = kept s := by
  unfold loseLink
  simp

@[simp] theorem discardBlock_kept (s : State) (b : Block) (flag : Nat) : kept (discardBlock s b flag) = kept s := by
  unfold discardBlock
  simp

theorem handOn_kept (s : State) (b : Block) (transit : Bool) (t : State) (h : handOn s b transit = some t) : kept t = kept s := by
  unfold handOn at h
  split at h <;> simp at h <;> subst h <;> simp

@[simp] theorem drainTransit_kept (s : State) (stuck : List Nat) (l k : List (Nat × Block)) : kept (drainTransit s stuck l k) = kept s := by
  induction l generalizing s stuck k with
  | nil => rfl
  | cons b l ih =>
    rw [drainTransit]
    split
    · rename_i h
      rw [ih]
      split at h
      · cases h
      · exact handOn_kept _ _ _ _ h
    · rw [ih]

@[simp] theorem drainLocal_kept (s : State) (l k : List Block) : kept (drainLocal s l k) = kept s := by
  induction l generalizing s k with
  | nil => rfl
  | cons b l ih =>
    rw [drainLocal]
    split
    · rw [ih]; exact handOn_kept _ _ _ _ ‹_›
    · rw [ih]

@[simp] theorem fillGaps_kept (s0 s : State) : kept (fillGaps s0 s) = kept s :=
  foldl_kept _ (fun s p => by dsimp only; split <;> simp) _ _

@[simp] theorem drainAll_kept (s : State) : kept (drainAll s) = kept s := by
  unfold drainAll
  dsimp only
  rw [fillGaps_kept, drainLocal_kept]
  exact (foldl_kept _ (fun s p => by simp) _ _).trans (by simp)

@[simp] theorem injectBlock_kept (s : State) (b : Block) : kept (injectBlock s b) = kept s := by
  unfold injectBlock
  simp

@[simp] theorem faultTransient_kept (s : State) : kept (faultTransient s) = kept s := by
  unfold faultTransient
  simp

@[simp] theorem faultRecord_kept (s : State) (cls detect code die : Nat) : kept (faultRecord s cls detect code die) = kept s := by
  unfold faultRecord
  simp

@[simp] theorem settleSwitch_kept (s : State) (p : Nat) : kept (settleSwitch s p) = kept s := by
  unfold settleSwitch
  dsimp only
  (repeat' split) <;> simp

@[simp] theorem askSwitch_kept (s : State) (p : Nat) (r : SwReq) : kept (askSwitch s p r) = kept s := by
  unfold askSwitch
  simp

@[simp] theorem raiseConv_kept (s : State) (u : Nat) (e : Conv4) : kept (raiseConv s u e) = kept s := by
  unfold raiseConv
  split
  · rfl
  · rfl

@[simp] theorem seqError_kept (s : State) (c : Nat) : kept (seqError s c) = kept s := by
  unfold seqError
  dsimp only
  (repeat' split) <;> simp

@[simp] theorem tagMismatch_kept (s : State) (c : Nat) : kept (tagMismatch s c) = kept s := by
  unfold tagMismatch
  dsimp only
  (repeat' split) <;> simp

@[simp] theorem tokenMoved_kept (s : State) (c : Nat) : kept (tokenMoved s c) = kept s := by
  unfold tokenMoved
  (repeat' split) <;> simp

@[simp] theorem deliver_kept (s : State) (t : Token) : kept (deliver s t) = kept s := by
  unfold deliver
  dsimp only
  (repeat' split) <;> simp

@[simp] theorem sendPacket_kept (s : State) (slot dest kind stream : Nat) (a : PacketArgs) : kept (sendPacket s slot dest kind stream a) = kept s := by
  unfold sendPacket
  (repeat' split) <;> simp [foldl_kept]

@[simp] theorem raiseColl_kept (s : State) (b : Nat) : kept (raiseColl s b) = kept s := by
  unfold raiseColl
  simp

@[simp] theorem raiseTrain_kept (s : State) (b : Nat) : kept (raiseTrain s b) = kept s := by
  unfold raiseTrain
  simp

@[simp] theorem sendRound_kept (s : State) (slot cut rank kind : Nat) (body : List Byte) : kept (sendRound s slot cut rank kind body) = kept s := by
  unfold sendRound
  simp

@[simp] theorem unlanded_kept (s : State) : kept (unlanded s) = kept s := by
  unfold unlanded
  simp

@[simp] theorem takePseq_kept (s : State) (n : Nat) (p : Packet) : kept (takePseq s n p) = kept s := by
  unfold takePseq
  simp

@[simp] theorem holdPacket_kept (s : State) (n : Nat) (p : Packet) : kept (holdPacket s n p) = kept s := by
  unfold holdPacket
  simp

@[simp] theorem mapCores_kept (s : State) (p : Nat) (f : Nat → CoreSt → CoreSt) : kept (mapCores s p f) = kept s := by
  unfold mapCores
  (repeat' split) <;> simp [foldl_kept]

@[simp] theorem beginLoad_kept (s : State) (p c : Nat) : kept (beginLoad s p c) = kept s := by
  unfold beginLoad
  simp

@[simp] theorem dropFold_kept (s : State) (p : Nat) : kept (dropFold s p) = kept s := by
  unfold dropFold
  simp

@[simp] theorem proceedLoads_kept (p : Nat) (l k : List LoadSt) (s : State) : kept (proceedLoads p l k s) = kept s := by
  induction l generalizing s k with
  | nil => rfl
  | cons x l ih =>
    rw [proceedLoads]
    split
    · rw [ih]; simp
    · rw [ih]

@[simp] theorem tryLoads_kept (s : State) (p : Nat) : kept (tryLoads s p) = kept s := by
  unfold tryLoads
  simp

@[simp] theorem refuseSwitches_kept (s : State) (p c : Nat) : kept (refuseSwitches s p c) = kept s :=
  (foldl_kept _ (fun s r => by split <;> simp) _ _).trans rfl

@[simp] theorem endLoad_kept (s : State) (p : Nat) (l : LoadSt) (status detail : Nat) : kept (endLoad s p l status detail) = kept s := by
  unfold endLoad
  simp

@[simp] theorem evictSlot_kept (s : State) (slot : Nat) : kept (evictSlot s slot).2 = kept s := by
  unfold evictSlot
  simp

@[simp] theorem updHandle_kept (s : State) (f : HandleSt → HandleSt) :
    kept (updHandle s f) = (s.pending, (f s.handle).latch, (f s.handle).dies) := rfl

@[simp] theorem logEvent_kept (s : State) (src code die sev : Nat) (args : List Byte) : kept (logEvent s src code die sev args) = kept s := by
  unfold logEvent
  rw [updHandle_kept]
  rfl

@[simp] theorem recordFault_kept (s : State) (cls detect code die : Nat) : kept (recordFault s cls detect code die) = kept s := by
  unfold recordFault
  simp

@[simp] theorem noteCauses_kept (s : State) : kept (noteCauses s) = kept s := by
  unfold noteCauses
  simp

@[simp] theorem countStalled_kept (s : State) : kept (countStalled s) = kept s := by
  unfold countStalled
  simp

@[simp] theorem idleFc_kept (s : State) : kept (idleFc s) = kept s := by
  unfold idleFc
  simp

@[simp] theorem updRun_kept (s : State) (n : Nat) (f : RunSt → RunSt) : kept (updRun s n f) = kept s := by
  unfold updRun
  simp

@[simp] theorem setStage_kept (s : State) (n : Nat) (g : RunStage) : kept (setStage s n g) = kept s := by
  unfold setStage
  simp

@[simp] theorem regenTile_kept (s : State) (n t : Nat) : kept (regenTile s n t) = kept s := by
  unfold regenTile
  simp

@[simp] theorem regenWc_kept (s : State) (n : Nat) : kept (regenWc s n) = kept s := by
  unfold regenWc
  dsimp only
  split
  · exact foldl_kept _ (fun s t => regenTile_kept s n t) _ _
  · rfl

@[simp] theorem closeRun_kept (s : State) (n status detail : Nat) : kept (closeRun s n status detail) = kept s := by
  unfold closeRun
  (repeat' split) <;> simp

@[simp] theorem beginRun_kept (s : State) (p n : Nat) : kept (beginRun s p n) = kept s := by
  unfold beginRun
  dsimp only
  (repeat' split) <;> simp

@[simp] theorem startFrom_kept (p : Nat) (l : List Nat) (s : State) : kept (startFrom p l s) = kept s := by
  induction l generalizing s with
  | nil => rfl
  | cons n l ih =>
    rw [startFrom]
    split
    · rfl
    · split
      · simp
      · rw [ih]; simp

@[simp] theorem startRuns_kept (s : State) (p : Nat) : kept (startRuns s p) = kept s := by
  unfold startRuns
  simp

@[simp] theorem ageWords_kept (s : State) (n : Nat) : kept (ageWords s n) = kept s := by
  unfold ageWords
  simp

@[simp] theorem settleWords_kept (s : State) (n : Nat) : kept (settleWords s n) = kept s := by
  unfold settleWords
  (repeat' split) <;> simp [foldl_kept]

@[simp] theorem spoilGranule_kept (s : State) (p : Nat) : kept (spoilGranule s p) = kept s := rfl

@[simp] theorem spoilStaging_kept (n : Nat) (s : State) (q : Nat) : kept (spoilStaging n s q) = kept s := by
  unfold spoilStaging
  dsimp only
  split <;> simp

@[simp] theorem beginAttempt_kept (s : State) (n : Nat) : kept (beginAttempt s n) = kept s := by
  unfold beginAttempt
  simp [foldl_kept spoilGranule spoilGranule_kept, foldl_kept (spoilStaging n) (spoilStaging_kept n)]

@[simp] theorem sendAborts_kept (s : State) (n : Nat) (report : Bool) (code : Nat) : kept (sendAborts s n report code) = kept s := by
  unfold sendAborts
  (repeat' split) <;> simp [foldl_kept]

@[simp] theorem cancelSwitches_kept (s : State) (p : Nat) : kept (cancelSwitches s p) = kept s :=
  (foldl_kept _ (fun s r => by split <;> simp) _ _).trans rfl

@[simp] theorem noteRound_kept (s : State) (n : Nat) : kept (noteRound s n) = kept s := by
  unfold noteRound
  simp

@[simp] theorem noteBroken_kept (s : State) (n : Nat) : kept (noteBroken s n) = kept s := by
  unfold noteBroken
  simp

@[simp] theorem chargeHeld_kept (s : State) (n : Nat) : kept (chargeHeld s n) = kept s := by
  unfold chargeHeld
  simp

@[simp] theorem stopAttempt_kept (s : State) (n : Nat) (report : Bool) (code : Nat) : kept (stopAttempt s n report code) = kept s := by
  unfold stopAttempt
  simp

@[simp] theorem abortAttempt_kept (s : State) (n : Nat) (report : Bool) (code : Nat) : kept (abortAttempt s n report code) = kept s := by
  unfold abortAttempt
  simp

@[simp] theorem abortParts_kept (s : State) (ps : List Nat) (report : Bool) (code : Nat) : kept (abortParts s ps report code) = kept s :=
  foldl_kept _ (fun s p => by split <;> simp) _ _

@[simp] theorem addConv_kept (s : State) (n : Nat) : kept (addConv s n) = kept s := by
  unfold addConv
  simp

@[simp] theorem endRun_kept (s : State) (n status detail : Nat) : kept (endRun s n status detail) = kept s := by
  unfold endRun
  (repeat' split) <;> simp

@[simp] theorem clearErrors_kept (s : State) (n : Nat) (all : Bool) : kept (clearErrors s n all).2 = kept s := by
  unfold clearErrors
  suffices h : ∀ (l : List Nat) (a : Bool × State), kept (l.foldl (fun (a : Bool × State) t =>
      if getRecord a.2 n t == rcode ((getSlot s n).cn + 1) then
        (true, setRecord (writeCodes a.2 n .e 2 (2048 * t) (List.replicate 1024 0)) n t 0)
      else if all then (true, writeCodes a.2 n .e 2 (2048 * t) (List.replicate 1024 0))
      else a) a).2 = kept a.2 from h _ _
  intro l
  induction l with
  | nil => intro a; rfl
  | cons t l ih =>
    intro a
    rw [List.foldl_cons, ih]
    split
    · rw [setRecord_kept, writeCodes_kept]
    · split
      · rw [writeCodes_kept]
      · rfl

@[simp] theorem chargeAborted_kept (s : State) (n : Nat) : kept (chargeAborted s n) = kept s := by
  unfold chargeAborted
  simp

@[simp] theorem reportAbort_kept (s : State) (n code : Nat) : kept (reportAbort s n code) = kept s := by
  unfold reportAbort
  simp

@[simp] theorem discardTokens_kept (s : State) (p : Nat) (cs : List Nat) : kept (discardTokens s p cs) = kept s := by
  unfold discardTokens
  simp

@[simp] theorem askAgain_kept (s : State) (p : Nat) : kept (askAgain s p) = kept s := by
  unfold askAgain
  dsimp only
  (repeat' split) <;> simp [foldl_kept]

@[simp] theorem afterDrain_kept (s : State) (p : Nat) : kept (afterDrain s p) = kept s := by
  unfold afterDrain
  simp

@[simp] theorem captureStall_kept (s : State) (p : Nat) : kept (captureStall s p) = kept s := by
  unfold captureStall
  simp

@[simp] theorem drawBytes_kept (s : State) (n : Nat) : kept (drawBytes s n).2 = kept s := by
  unfold drawBytes
  simp

@[simp] theorem setLock_kept (s : State) (k : Nat) (l : LockSt) : kept (setLock s k l) = kept s := by
  unfold setLock
  simp

@[simp] theorem clearPerturb_kept (s : State) : kept (clearPerturb s) = kept s := by
  unfold clearPerturb
  simp

@[simp] theorem endSession_kept (s : State) (k : Nat) : kept (endSession s k) = kept s := by
  unfold endSession
  simp

@[simp] theorem endCollecting_kept (s : State) (r : Nat) : kept (endCollecting s r) = kept s := by
  unfold endCollecting
  dsimp only
  split <;> simp

@[simp] theorem settleCollect_kept (s : State) (r : Nat) : kept (settleCollect s r) = kept s := by
  unfold settleCollect
  dsimp only
  split <;> simp

@[simp] theorem closeSession_kept (s : State) (k : Nat) : kept (closeSession s k) = kept s := by
  unfold closeSession
  dsimp only
  (repeat' split) <;> simp [foldl_kept settleCollect settleCollect_kept]

@[simp] theorem closeWhere_kept (s : State) (pick : FnSt → Bool) (pickCmd : MbCmd → Bool) : kept (closeWhere s pick pickCmd) = kept s := by
  unfold closeWhere
  (repeat' split) <;> simp [foldl_kept]

@[simp] theorem endMb_kept (s : State) (k seq result : Nat) (st : MbState) : kept (endMb s k seq result st) = kept s := by
  unfold endMb
  simp

@[simp] theorem beginMb_kept (s : State) (k op seq key : Nat) (st : MbState) : kept (beginMb s k op seq key st) = kept s := by
  unfold beginMb
  simp

@[simp] theorem takeMb_kept (s : State) (k seq op : Nat) : kept (takeMb s k seq op) = kept s := by
  unfold takeMb
  dsimp only
  (repeat' split) <;> simp

@[simp] theorem writeMbCmd_kept (s : State) (k seq op : Nat) : kept (writeMbCmd s k seq op) = kept s := by
  unfold writeMbCmd
  simp

@[simp] theorem freshId_kept (s : State) : kept (freshId s).2 = kept s := by
  unfold freshId
  simp

@[simp] theorem authFailure_kept (s : State) (k lock keyId : Nat) : kept (authFailure s k lock keyId) = kept s := by
  unfold authFailure
  simp

@[simp] theorem openSession_kept (s : State) (k seq role keyId domain : Nat) (mac : List Byte) (thenClose : Bool) : kept (openSession s k seq role keyId domain mac thenClose) = kept s := by
  unfold openSession
  simp

@[simp] theorem endOpen_kept (s : State) (k : Nat) (c : MbCmd) : kept (endOpen s k c) = kept s := by
  unfold endOpen
  simp

@[simp] theorem endProve_kept (s : State) (k : Nat) (c : MbCmd) : kept (endProve s k c) = kept s := by
  unfold endProve
  simp

@[simp] theorem endPassword_kept (s : State) (k : Nat) (c : MbCmd) : kept (endPassword s k c) = kept s := by
  unfold endPassword
  simp

@[simp] theorem resetRing_kept (s : State) (r : Nat) : kept (resetRing s r) = kept s := by
  unfold resetRing
  (repeat' split) <;> simp

@[simp] theorem resetFn_kept (s : State) (k : Nat) (keepRings : Bool) : kept (resetFn s k keepRings) = kept s := by
  unfold resetFn
  (repeat' split) <;> simp [foldl_kept]

@[simp] theorem resetPort_kept (s : State) (p : Nat) : kept (resetPort s p) = kept s := by
  unfold resetPort
  (repeat' split) <;> simp [foldl_kept]

@[simp] theorem writeRingCtl_kept (s : State) (k : Nat) (enable : Bool) (v : Nat) : kept (writeRingCtl s k enable v) = kept s := by
  unfold writeRingCtl
  simp

@[simp] theorem writeFnRings_kept (s : State) (k v : Nat) : kept (writeFnRings s k v) = kept s := by
  unfold writeFnRings
  simp

@[simp] theorem signalRing_kept (s : State) (r : Nat) : kept (signalRing s r) = kept s := by
  unfold signalRing
  dsimp only
  (repeat' split) <;> simp

@[simp] theorem settleFence_kept (s : State) (r : Nat) : kept (settleFence s r) = kept s := by
  unfold settleFence
  (repeat' split) <;> simp

@[simp] theorem writeCompletion_kept (s : State) (r : Nat) (d : DescSt) : kept (writeCompletion s r d) = kept s := by
  unfold writeCompletion
  simp

@[simp] theorem dropCompletion_kept (s : State) (r : Nat) : kept (dropCompletion s r) = kept s := by
  unfold dropCompletion
  simp

@[simp] theorem setArb_kept (s : State) (key : Nat) (a : ArbSt) : kept (setArb s key a) = kept s := by
  unfold setArb
  simp

@[simp] theorem fenceInput_kept (s : State) (key i : Nat) : kept (fenceInput s key i) = kept s := by
  unfold fenceInput
  simp

@[simp] theorem raiseHandle_kept (s : State) (b : Nat) : kept (raiseHandle s b) = kept s := by
  unfold raiseHandle
  simp

@[simp] theorem trainPort_kept (s : State) (p : Nat) : kept (trainPort s p) = kept s := by
  unfold trainPort
  simp

@[simp] theorem seqFault_kept (s : State) (n : Nat) : kept (seqFault s n) = kept s := by
  unfold seqFault
  simp

@[simp] theorem coreSeqFault_kept (s : State) (c : Nat) : kept (coreSeqFault s c) = kept s := by
  unfold coreSeqFault
  (repeat' split) <;> simp

@[simp] theorem arriveNow_kept (s : State) (t : Token) : kept (arriveNow s t) = kept s := by
  unfold arriveNow
  simp

@[simp] theorem arrive_kept (s : State) (t : Token) : kept (arrive s t) = kept s := by
  unfold arrive
  dsimp only
  (repeat' split) <;> simp

@[simp] theorem landTile_kept (s : State) (n sh t : Nat) (v : List Nat) : kept (landTile s n sh t v) = kept s := by
  unfold landTile
  dsimp only
  (repeat' split) <;> simp

@[simp] theorem countSat_kept (s : State) (p n k : Nat) : kept (countSat s p n k) = kept s := by
  unfold countSat
  simp

@[simp] theorem sendTiles_kept (s : State) (n cut rank kind sh t : Nat) (pair : Bool) (tiles : List (List Nat)) : kept (sendTiles s n cut rank kind sh t pair tiles) = kept s := by
  unfold sendTiles
  simp

@[simp] theorem sendGather_kept (s : State) (n cut sh : Nat) (ts : List Nat) (vs : List (List Nat)) : kept (sendGather s n cut sh ts vs) = kept s := by
  unfold sendGather
  dsimp only
  (repeat' split) <;> simp

@[simp] theorem keepFinal_kept (s : State) (n sh : Nat) (ts : List Nat) (vs : List (List Nat)) : kept (keepFinal s n sh ts vs) = kept s := by
  unfold keepFinal
  (repeat' split) <;> simp [foldl_kept]

@[simp] theorem runChain_kept (s : State) (n cut sh t : Nat) : kept (runChain s n cut sh t).1 = kept s := by
  unfold runChain
  dsimp only
  split
  · rfl
  · split
    · rw [sendTiles_kept, updSlot_kept, countSat_kept]
    · rw [countSat_kept, updSlot_kept, countSat_kept]

@[simp] theorem putContrib_kept (s : State) (n cut sh t : Nat) (v : List Nat) : kept (putContrib s n cut sh t v) = kept s := by
  unfold putContrib
  simp

@[simp] theorem passSeq_kept (s : State) (n sh : Nat) (fs : List (Nat × List Nat)) : kept (passSeq s n sh fs) = kept s := by
  unfold passSeq
  split
  · rfl
  · exact (foldl_kept _ (fun s f => by dsimp only; split <;> simp) _ _).trans (by simp)

@[simp] theorem finishData_kept (s : State) (n sh : Nat) (fs : List (Nat × List Nat)) : kept (finishData s n sh fs) = kept s := by
  unfold finishData
  simp

@[simp] theorem feedData_kept (s : State) (n sh : Nat) (fs : List (Nat × List Nat)) : kept (feedData s n sh fs) = kept s := by
  unfold feedData
  split
  · simp
  · exact foldl_kept _ (fun s f => by dsimp only; split <;> simp) _ _

@[simp] theorem feedTile_kept (s : State) (n sh t : Nat) (v : List Nat) : kept (feedTile s n sh t v) = kept s := by
  unfold feedTile
  split
  · dsimp only; split <;> simp
  · simp

@[simp] theorem emitToken_kept (c r : Nat) (x : Ctx) (s : State) (t : Token) : kept (emitToken c r x s t) = kept s := by
  unfold emitToken
  (repeat' split) <;> simp

@[simp] theorem emitTokens_kept (c r : Nat) (x : Ctx) (s : State) (ts : List Token) : kept (emitTokens c r x s ts) = kept s := by
  unfold emitTokens
  (repeat' split) <;> simp [foldl_kept]

@[simp] theorem landReduce_kept (s : State) (n : Nat) (p : Packet) : kept (landReduce s n p) = kept s := by
  unfold landReduce
  dsimp only
  split
  · rfl
  · split
    · rfl
    · simp only [ite_kept, runChain_kept, finishData_kept, feedData_kept, updSlot_kept, ite_self]

@[simp] theorem landGather_kept (s : State) (n : Nat) (p : Packet) : kept (landGather s n p) = kept s := by
  unfold landGather
  dsimp only
  split
  · rfl
  · split <;> simp

@[simp] theorem layoutOld_kept (s : State) (n : Nat) (p : Packet) : kept (layoutOld s n p) = kept s := by
  unfold layoutOld
  simp

@[simp] theorem landGrad_kept (s : State) (n : Nat) (p : Packet) : kept (landGrad s n p) = kept s := by
  unfold landGrad
  (repeat' split) <;> simp [foldl_kept]

@[simp] theorem landShardReq_kept (s : State) (n : Nat) (p : Packet) : kept (landShardReq s n p) = kept s := by
  unfold landShardReq
  dsimp only
  (repeat' split) <;> simp [foldl_kept]

@[simp] theorem stageBytes_kept (s : State) (n o : Nat) (bs : List Byte) : kept (stageBytes s n o bs) = kept s :=
  foldl_kept _ (fun s b => by split <;> simp) _ _

@[simp] theorem noteRecord_kept (s : State) (n : Nat) (r : ShardRec) : kept (noteRecord s n r) = kept s := by
  unfold noteRecord
  dsimp only
  (repeat' split) <;> simp

@[simp] theorem landShard_kept (s : State) (n : Nat) (p : Packet) : kept (landShard s n p) = kept s := by
  unfold landShard
  simp

theorem deliverRelay_kept (n : Nat) (p : Packet) (e : LandEntry) (s : State) (i : Nat) (t : State) (h : deliverRelay n p e s i = some t) : kept t = kept s := by
  unfold deliverRelay at h
  dsimp only at h
  split at h
  · cases h
  · cases h; simp

theorem landRelay_kept (s : State) (n : Nat) (p : Packet) (t : State) (h : landRelay s n p = some t) : kept t = kept s := by
  unfold landRelay at h
  dsimp only at h
  split at h
  · cases h; simp
  · refine map_kept _ _ _ (fun u hu => ?_) (fun u => ?_) _ h
    · obtain ⟨v, hv, e⟩ := foldl_bind_kept _ (fun s i t h => deliverRelay_kept _ _ _ s i t h) _ _ _ hu
      cases hv; exact e
    · split
      · rfl
      · split <;> simp

theorem gate_kept (s : State) (p : Packet) (wait : Nat → State) (f : State → Nat → Option State) (hw : ∀ n, kept (wait n) = kept s)
    (hf : ∀ u n t, f u n = some t → kept t = kept u) : kept (gate s p wait f) = kept s := by
  unfold gate
  split
  · simp
  · simp
  · simp
  · rw [seqFault_kept]; rfl
  · simp
  · rename_i n _
    cases h : f (takePseq s n p) n with
    | none => exact hw n
    | some t => exact (hf _ _ _ h).trans (by simp)

theorem landData_kept (s : State) (n : Nat) (p : Packet) (t : State) (h : landData s n p = some t) : kept t = kept s := by
  unfold landData at h
  dsimp only at h
  repeat' split at h
  all_goals first | exact landRelay_kept _ _ _ _ h | (cases h; simp)

@[simp] theorem releaseData_kept (s : State) (n : Nat) : kept (releaseData s n) = kept s :=
  (foldl_kept _ (fun s p => gate_kept _ _ _ _ (fun n => holdPacket_kept _ _ _) (fun u n t h => landData_kept _ _ _ _ h)) _ _).trans rfl

@[simp] theorem startAttempt_kept (s : State) (n : Nat) : kept (startAttempt s n) = kept s := by
  unfold startAttempt
  simp

@[simp] theorem requestStart_kept (s : State) (n : Nat) : kept (requestStart s n) = kept s := by
  unfold requestStart
  simp

@[simp] theorem grantHeld_kept (s : State) (n : Nat) : kept (grantHeld s n) = kept s := by
  unfold grantHeld
  simp

@[simp] theorem reserveMoves_kept (s : State) (n : Nat) (rs : ReshardSt) : kept (reserveMoves s n rs).1 = kept s := by
  unfold reserveMoves
  dsimp only
  split
  · simp
  · rename_i u h; exact Eq.trans (updSlot_kept _ _ _) (allocRegions_kept _ _ _ _ h)

@[simp] theorem sendMove_kept (s : State) (n i rank : Nat) : kept (sendMove s n i rank) = kept s := by
  unfold sendMove
  dsimp only
  split
  · rfl
  · refine (?_ : ∀ (l : List _) (a : State × Nat), kept (l.foldl _ a).1 = kept a.1) _ _
    intro l
    induction l with
    | nil => intro a; rfl
    | cons x l ih => intro a; rw [List.foldl_cons, ih]; simp

@[simp] theorem sendLost_kept (s : State) (n : Nat) (rs : ReshardSt) : kept (sendLost s n rs) = kept s :=
  foldl_kept _ (fun s e => by
    split
    · split <;> simp
    · rfl) _ _

theorem writePartsOf_kept (n : Nat) (l : List (Stream × Nat × Nat × Nat)) (a : State × List Byte) : kept (l.foldl (fun (a : State × List Byte) p =>
      (writeStream a.1 n p.1 p.2.2.1 (a.2.take p.2.2.2), a.2.drop p.2.2.2)) a).1 = kept a.1 := by
  induction l generalizing a with
  | nil => rfl
  | cons x l ih => rw [List.foldl_cons, ih]; simp

@[simp] theorem storeShard_kept (s : State) (n : Nat) (rs : ReshardSt) (sh : Nat) (bs : List Byte) : kept (storeShard s n rs sh bs) = kept s := by
  unfold storeShard
  dsimp only
  split
  · rfl
  · exact (setSlot_kept _ _ _).trans ((foldl_kept _ (fun s t => setRecord_kept _ _ _ _) _ _).trans ((writePartsOf_kept _ _ _).trans (setSlot_kept _ _ _)))

@[simp] theorem updReshard_kept (s : State) (n : Nat) (f : ReshardSt → ReshardSt) : kept (updReshard s n f) = kept s := by
  unfold updReshard
  simp

/-- The state after a retirement, or after its failure is forgotten. -/
@[simp] theorem retired_kept (s : State) (n : Nat) : kept ((retireFailed s n).getD (forgetFailed s n)) = kept s := by
  cases h : retireFailed s n with
  | none => simp
  | some t => exact retireFailed_kept _ _ _ h

@[simp] theorem dropReshard_kept (s : State) (n code : Nat) : kept (dropReshard s n code) = kept s := by
  unfold dropReshard
  dsimp only
  (repeat' split) <;> simp

@[simp] theorem releaseGiven_kept (s : State) (n : Nat) : kept (releaseGiven s n) = kept s := by
  unfold releaseGiven
  (repeat' split) <;> simp [foldl_kept]

@[simp] theorem installLayout_kept (s : State) (n : Nat) : kept (installLayout s n) = kept s := by
  unfold installLayout
  dsimp only
  (repeat' split) <;> simp

@[simp] theorem answerMove_kept (s : State) (n : Nat) (p : Packet) : kept (answerMove s n p) = kept s := by
  unfold answerMove
  dsimp only
  (repeat' split) <;> simp

@[simp] theorem retryMove_kept (s : State) (n sh : Nat) : kept (retryMove s n sh).2 = kept s := by
  unfold retryMove
  dsimp only
  (repeat' split) <;> simp

@[simp] theorem landMove_kept (s : State) (n : Nat) (p : Packet) : kept (landMove s n p).2 = kept s := by
  unfold landMove
  dsimp only
  (repeat' split) <;> simp

@[simp] theorem updRound_kept (s : State) (n : Nat) (f : RoundSt → RoundSt) : kept (updRound s n f) = kept s := by
  unfold updRound
  simp

@[simp] theorem pushCut_kept (s : State) (n c : Nat) : kept (pushCut s n c) = kept s := by
  unfold pushCut
  dsimp only
  (repeat' split) <;> simp

@[simp] theorem keepPass_kept (s : State) (n : Nat) (p : Packet) : kept (keepPass s n p) = kept s := by
  unfold keepPass
  simp

@[simp] theorem releaseRound_kept (s : State) (n : Nat) : kept (releaseRound s n) = kept s := by
  refine (foldl_kept _ (fun s p => ?_) _ _).trans rfl
  split
  · simp
  · refine gate_kept _ _ _ _ (fun n => rfl) (fun u n t h => ?_)
    split at h <;> cases h <;> simp

@[simp] theorem finishCommit_kept (s : State) (n : Nat) : kept (finishCommit s n) = kept s := by
  unfold finishCommit
  dsimp only
  (repeat' split) <;> simp

@[simp] theorem commitStep_kept (s : State) (n : Nat) : kept (commitStep s n) = kept s := by
  unfold commitStep
  simp

@[simp] theorem sendLists_kept (s : State) (n : Nat) (ranks : List Nat) : kept (sendLists s n ranks) = kept s := rfl

@[simp] theorem resolve_kept (s : State) (n : Nat) (ds : List Nat) : kept (resolve s n ds) = kept s := by
  unfold resolve
  (repeat' split) <;> simp

@[simp] theorem sendFinals_kept (s : State) (n pk : Nat) (body : List Byte) (below : Nat) : kept (sendFinals s n pk body below) = kept s := by
  unfold sendFinals
  dsimp only
  rw [updRound_kept]
  exact foldl_kept _ (fun s c => sendRound_kept _ _ _ _ _ _) _ _

@[simp] theorem beginMoves_kept (s : State) (n : Nat) : kept (beginMoves s n) = kept s := by
  unfold beginMoves
  dsimp only
  (repeat' split) <;> simp

@[simp] theorem finishSwitch_kept (s : State) (n : Nat) : kept (finishSwitch s n) = kept s := by
  unfold finishSwitch
  (repeat' split) <;> simp

@[simp] theorem settleRound_kept (s : State) (n : Nat) : kept (settleRound s n) = kept s := by
  unfold settleRound
  dsimp only
  (repeat' split) <;> simp

@[simp] theorem act_kept (s : State) (n : Nat) : kept (act s n) = kept s := by
  unfold act
  (repeat' split) <;> simp

@[simp] theorem failReshard_kept (s : State) (n code : Nat) : kept (failReshard s n code) = kept s := by
  unfold failReshard
  simp

@[simp] theorem decide__kept (s : State) (n : Nat) : kept (decide_ s n) = kept s := by
  unfold decide_
  simp

@[simp] theorem pushOnce_kept (s : State) (n : Nat) : kept (pushOnce s n) = kept s := by
  unfold pushOnce
  (repeat' split) <;> simp [foldl_kept]

@[simp] theorem pushRound_kept (s : State) (n : Nat) : kept (pushRound s n) = kept s := by
  unfold pushRound
  simp

@[simp] theorem landPass_kept (s : State) (n : Nat) (p : Packet) : kept (landPass s n p) = kept s := by
  unfold landPass
  dsimp only
  (repeat' split) <;> simp

@[simp] theorem landFinal_kept (s : State) (n : Nat) (p : Packet) : kept (landFinal s n p) = kept s := by
  unfold landFinal
  dsimp only
  (repeat' split) <;> simp

@[simp] theorem takeCommit_kept (s : State) (n : Nat) (p : Packet) : kept (takeCommit s n p) = kept s := by
  unfold takeCommit
  simp

@[simp] theorem restartMoves_kept (s : State) (n code : Nat) : kept (restartMoves s n code) = kept s := by
  unfold restartMoves
  simp

@[simp] theorem landAbort_kept (s : State) (n : Nat) (p : Packet) : kept (landAbort s n p) = kept s := by
  unfold landAbort
  simp

@[simp] theorem joinRestart_kept (s : State) (n : Nat) : kept (joinRestart s n) = kept s := by
  unfold joinRestart
  dsimp only
  (repeat' split) <;> simp

@[simp] theorem beginReplay_kept (s : State) (n : Nat) : kept (beginReplay s n) = kept s := by
  unfold beginReplay
  simp

/-- Border programs are none of the three. -/
theorem kept_borders (s : State) (b : SMap BorderSt) : kept { s with borders := b } = kept s := rfl

@[simp] theorem endDiscard_kept (s : State) (p : Nat) : kept (endDiscard s p) = kept s := by
  unfold endDiscard
  dsimp only
  split
  · simp
  · split
    · simp
    · split
      · rw [afterDrain_kept]
        split <;> simp
      · simp
    · rw [afterDrain_kept]
      refine Eq.trans (kept_borders _ _) ?_
      split
      · rename_i u h; rw [reportAbort_kept, retireFailed_kept _ _ _ h]; simp
      · simp
    · split
      · rename_i u h; rw [afterDrain_kept, beginReplay_kept, retireFailed_kept _ _ _ h]; simp
      · simp

@[simp] theorem failRun_kept (s : State) (n code : Nat) : kept (failRun s n code) = kept s := by
  unfold failRun
  (repeat' split) <;> simp

@[simp] theorem failParts_kept (s : State) (ps : List Nat) (code : Nat) : kept (failParts s ps code) = kept s :=
  foldl_kept _ (fun s p => by dsimp only; split <;> simp [foldl_kept]) _ _

@[simp] theorem replaySlot_kept (s : State) (n : Nat) : kept (replaySlot s n) = kept s := by
  unfold replaySlot
  simp

@[simp] theorem failSlot_kept (s : State) (n code : Nat) : kept (failSlot s n code) = kept s := by
  unfold failSlot
  simp

@[simp] theorem fenceArbiters_kept (s : State) (die : Nat) : kept (fenceArbiters s die) = kept s := by
  unfold fenceArbiters
  (repeat' split) <;> simp [foldl_kept]

@[simp] theorem discardParts_kept (s : State) (ps : List Nat) : kept (discardParts s ps) = kept s := by
  unfold discardParts
  (repeat' split) <;> simp [foldl_kept]

@[simp] theorem fenceDie_kept (s : State) (die code : Nat) : kept (fenceDie s die code) = kept s := by
  unfold fenceDie
  simp

@[simp] theorem dieFault_kept (s : State) (die det : Nat) : kept (dieFault s die det) = kept s := by
  unfold dieFault
  (repeat' split) <;> simp

@[simp] theorem slathFault_kept (s : State) (q det : Nat) : kept (slathFault s q det) = kept s := by
  unfold slathFault
  simp

@[simp] theorem bridgeFault_kept (s : State) (g det : Nat) : kept (bridgeFault s g det) = kept s := by
  unfold bridgeFault
  simp

@[simp] theorem portDieFault_kept (s : State) (d det : Nat) : kept (portDieFault s d det) = kept s := by
  unfold portDieFault
  (repeat' split) <;> simp [foldl_kept]

theorem replaceHbm_kept (dom : Nat) (s : State) (g : Nat) (t : State) (h : replaceHbm dom s g = some t) : kept t = kept s := by
  unfold replaceHbm at h
  dsimp only at h
  split at h
  · cases h; rfl
  · split at h
    · cases h; rfl
    · obtain ⟨r, _, rfl⟩ := Option.map_eq_some_iff.mp h
      rfl

theorem replaceLost_kept (s : State) (n : Nat) (t : State) (h : replaceLost s n = some t) : kept t = kept s := by
  unfold replaceLost at h
  refine map_kept _ _ _ (fun u hu => ?_) (fun u => ?_) _ h
  · obtain ⟨v, hv, e⟩ := foldl_bind_kept _ (fun s k t h => replaceHbm_kept _ s _ t h) _ _ _ hu
    cases hv; exact e
  · split <;> simp

@[simp] theorem noteRimLoss_kept (s : State) (n : Nat) : kept (noteRimLoss s n) = kept s := by
  unfold noteRimLoss
  split <;> simp

@[simp] theorem rimLossSlot_kept (covered : Bool) (s : State) (n : Nat) : kept (rimLossSlot covered s n) = kept s := by
  unfold rimLossSlot
  split
  · simp
  · dsimp only
    split
    · rename_i t h; rw [replaceLost_kept _ _ _ h]; split <;> simp
    · rw [failSlot_kept]; split <;> simp

@[simp] theorem loseMirrored_kept (s : State) : kept (loseMirrored s) = kept s := by
  unfold loseMirrored
  (repeat' split) <;> simp [foldl_kept]

/-- The fenced rim dies are none of the three. -/
theorem kept_tiers (s : State) (x : TierSt) : kept { s with tiers := x } = kept s := rfl

@[simp] theorem rimFault_kept (s : State) (d det : Nat) : kept (rimFault s d det) = kept s := by
  unfold rimFault
  split
  · rfl
  · refine (foldl_kept _ (fun s n => rimLossSlot_kept _ _ _) _ _).trans ?_
    dsimp only
    rw [loseMirrored_kept, raiseTier_kept, kept_tiers, logEvent_kept]
    split <;> simp

@[simp] theorem rimFailure_kept (s : State) (c : Nat) : kept (rimFailure s c) = kept s := by
  unfold rimFailure
  simp

@[simp] theorem linkFault_kept (s : State) (p : Nat) (ring : Bool) : kept (linkFault s p ring) = kept s := by
  unfold linkFault
  (repeat' split) <;> simp [foldl_kept]

@[simp] theorem bondTransient_kept (s : State) (die : Nat) : kept (bondTransient s die) = kept s := by
  unfold bondTransient
  simp

@[simp] theorem sramError_kept (s : State) (die word n : Nat) : kept (sramError s die word n) = kept s := by
  unfold sramError
  simp

@[simp] theorem loadSpare_kept (s : State) (ks : List Nat) (o : SpareOp) : kept (loadSpare s ks o) = kept s := by
  refine (foldl_kept _ (fun s p => ?_) _ _).trans rfl
  have e : ∀ u : State, ∀ l : List Nat, kept (l.foldl (fun u c => if ks.contains (coreCluster c) then setCore u c (spareCore (getPart s p) (getCore u c)) else u) u) = kept u :=
    fun u l => foldl_kept _ (fun u c => by split <;> simp) _ _
  dsimp only
  split
  · split
    · exact e _ _
    · rw [mapCores_kept]; exact e _ _
  · rw [joinRestart_kept]
    split
    · exact e _ _
    · rw [mapCores_kept]; exact e _ _

@[simp] theorem updChan_kept (s : State) (c : Nat) (f : ChanCnt → ChanCnt) : kept (updChan s c f) = kept s := by
  unfold updChan
  (repeat' split) <;> simp

@[simp] theorem updSlot?_kept (s : State) (n : Option Nat) (f : SlotSt → SlotSt) : kept (updSlot? s n f) = kept s := by
  unfold updSlot?
  (repeat' split) <;> simp

@[simp] theorem dropStalled_kept (s : State) (n a b : Nat) : kept (dropStalled s n a b) = kept s := by
  unfold dropStalled
  split <;> simp

@[simp] theorem noteLate_kept (s : State) (n c a b : Nat) : kept (noteLate s n c a b) = kept s := by
  unfold noteLate
  simp

@[simp] theorem requestLate_kept (s : State) (n c due : Nat) (write : Bool) : kept (requestLate s n c due write) = kept s := by
  unfold requestLate
  (repeat' split) <;> simp

@[simp] theorem injectRead_kept (s : State) (c : Nat) (f : ReadFate) : kept (injectRead s c f).1 = kept s := by
  unfold injectRead
  split
  · rename_i h; exact takeInject_kept _ _ _ _ h
  · split
    · rename_i h; exact takeInject_kept _ _ _ _ h
    · split
      · rename_i h; exact takeInject_kept _ _ _ _ h
      · rfl

@[simp] theorem countRead_kept (s : State) (n : Option Nat) (c : Nat) (f : ReadFate) : kept (countRead s n c f) = kept s := by
  unfold countRead
  simp

@[simp] theorem readAborts_kept (s : State) (n : Nat) (report : Bool) (code : Nat) : kept (readAborts s n report code) = kept s := by
  unfold readAborts
  split <;> simp

@[simp] theorem failedRead_kept (s : State) (n tier p o : Nat) : kept (failedRead s n tier p o) = kept s := by
  unfold failedRead
  dsimp only
  (repeat' split) <;> simp

theorem copyFailed_kept (a : CopyRead) (r : Option Region) (tier p o : Nat) : kept (copyFailed a r tier p o).s = kept a.s := by
  unfold copyFailed; (repeat' split) <;> simp

theorem copyBlock_kept (dom : Nat) (bad : Bool) (a : CopyRead) (addr : Nat) : kept (copyBlock dom bad a addr).s = kept a.s := by
  unfold copyBlock
  dsimp only
  split
  · rfl
  · split
    · rfl
    · split
      · rw [copyFailed_kept]; simp
      · simp

@[simp] theorem copyReadsAt_kept (s : State) (dom : Nat) (addrs fails : List Nat) : kept (copyReadsAt s dom addrs fails).2 = kept s := by
  have hf : ∀ (l : List Nat) (a : CopyRead), kept (l.foldl (fun a x => copyBlock dom (fails.any (fun f => f / 4096 == x / 4096)) a x) a).s = kept a.s := by
    intro l
    induction l with
    | nil => intro a; rfl
    | cons x l ih => intro a; rw [List.foldl_cons, ih, copyBlock_kept]
  unfold copyReadsAt
  dsimp only
  split
  · rw [raiseQuota_kept, hf]
  · rename_i h; exact (retireAll_kept _ _ _ h).trans (hf _ _)

@[simp] theorem copyReads_kept (s : State) (dom a n : Nat) (fails : List Nat) : kept (copyReads s dom a n fails).2 = kept s := by
  unfold copyReads
  simp

@[simp] theorem finishEntries_kept (s : State) (r id : Nat) : kept (finishEntries s r id) = kept s := by
  unfold finishEntries
  simp

@[simp] theorem setTierBytes_kept (s : State) (dom a : Nat) (bs : List Byte) : kept (setTierBytes s dom a bs) = kept s := by
  induction bs generalizing s a with
  | nil => rfl
  | cons b bs ih => rw [setTierBytes, ih]; simp

@[simp] theorem putElem_kept (x : SlotSt) (u : TierPut) (s : State) (i : Nat) : kept (putElem x u s i) = kept s := by
  unfold putElem
  dsimp only
  (repeat' split) <;> simp

@[simp] theorem putTile_kept (s : State) (n : Option Nat) (u : Option TierPut) : kept (putTile s n u) = kept s := by
  unfold putTile
  split
  · split
    · exact foldl_kept _ (putElem_kept _ _) _ _
    · rfl
  · rfl

@[simp] theorem takeHead_kept (s : State) (r : Nat) (ofRun : Option Nat) : kept (takeHead s r ofRun).2 = kept s := by
  unfold takeHead
  dsimp only
  (repeat' split) <;> simp

@[simp] theorem finishHead_kept (s : State) (r status detail : Nat) : kept (finishHead s r status detail) = kept s := by
  unfold finishHead
  simp

@[simp] theorem admitRun_kept (s : State) (n : Nat) (es : List ProbEntry) : kept (admitRun s n es) = kept s := by
  unfold admitRun
  dsimp only
  (repeat' split) <;> simp

@[simp] theorem admitCollected_kept (s : State) (r id : Nat) : kept (admitCollected s r id) = kept s := by
  unfold admitCollected
  dsimp only
  (repeat' split) <;> simp

@[simp] theorem collectHead_kept (s : State) (r : Nat) (c : Nat × Nat) : kept (collectHead s r c) = kept s := by
  unfold collectHead
  simp

@[simp] theorem DescEnv.done_kept (e : DescEnv) (s : State) (status detail : Nat) : kept (DescEnv.done e s status detail) = kept s := by
  unfold DescEnv.done
  simp

@[simp] theorem startLoad_kept (e : DescEnv) (s : State) : kept (startLoad e s) = kept s := by
  unfold startLoad
  dsimp only
  (repeat' split) <;> simp

@[simp] theorem refuseGone_kept (s : State) (p : Nat) (cs : List Nat) : kept (refuseGone s p cs) = kept s := by
  unfold refuseGone
  rw [settleSwitch_kept]
  exact (foldl_kept _ (fun s r => by split <;> simp) _ _).trans rfl

@[simp] theorem dropContexts_kept (s : State) (n : Nat) : kept (dropContexts s n).2 = kept s := by
  unfold dropContexts
  generalize hv : evictSlot s n = v
  have hs : kept v.2 = kept s := by rw [← hv, evictSlot_kept]
  dsimp only
  rw [tryLoads_kept]
  split
  · rw [endRun_kept]
    have h := refuseGone_kept v.2 (getSlot s n).part (slotCtxs s (getSlot s n).part n)
    generalize refuseGone v.2 (getSlot s n).part (slotCtxs s (getSlot s n).part n) = u at h
    exact Eq.trans rfl (h.trans hs)
  · rw [refuseGone_kept, hs]

@[simp] theorem startEvict_kept (e : DescEnv) (s : State) : kept (startEvict e s) = kept s := by
  unfold startEvict
  simp

@[simp] theorem startSwitch_kept (e : DescEnv) (s : State) : kept (startSwitch e s) = kept s := by
  unfold startSwitch
  simp

@[simp] theorem acceptRun_kept (e : DescEnv) (s : State) : kept (acceptRun e s) = kept s := by
  unfold acceptRun
  dsimp only
  (repeat' split) <;> simp

theorem changePlacement_kept (s : State) (n : Nat) (host : Bool) (t : State) (h : changePlacement s n host = .ok t) : kept t = kept s := by
  unfold changePlacement at h
  dsimp only at h
  split at h
  · cases h; rfl
  · split at h
    · cases h; simp
    · split at h
      · cases h
      · rename_i u hu; cases h; exact Eq.trans (updSlot_kept _ _ _) (allocRegions_kept _ _ _ _ hu)

@[simp] theorem setPolicy_kept (e : DescEnv) (s : State) : kept (setPolicy e s) = kept s := by
  unfold setPolicy
  dsimp only
  split
  · simp
  · split
    · simp
    · rename_i u h; rw [DescEnv.done_kept, updSlot_kept]; exact changePlacement_kept _ _ _ _ h

@[simp] theorem acceptReshard_kept (table : List UpdEntry) (e : DescEnv) (s : State) : kept (acceptReshard table e s) = kept s := by
  unfold acceptReshard
  simp

@[simp] theorem commitLanes_kept (s : State) (o : LaneOp) (i : Issue) (lat : Nat) (toPred : Bool) (rs : List (Nat × LaneRes × Bool)) : kept (commitLanes s o i lat toPred rs) = kept s := by
  unfold commitLanes
  simp

@[simp] theorem countConv_kept (s : State) (m n : Nat) (e : Conv4) : kept (countConv s m n e) = kept s := by
  unfold countConv
  simp

@[simp] theorem quantiseNow_kept (s : State) (n t : Nat) (g : List Nat) : kept (quantiseNow s n t g) = kept s := by
  unfold quantiseNow
  simp

@[simp] theorem setBorder_kept (s : State) (m : Nat) (b : BorderSt) : kept (setBorder s m b) = kept s := by
  unfold setBorder
  simp

@[simp] theorem writeState_kept (s : State) (m : Nat) (x : SlotSt) (b : BorderSt) (k bank q : Nat) (vs : List Nat) : kept (writeState s m x b k bank q vs) = kept s := by
  unfold writeState
  simp

@[simp] theorem writeTotals_kept (s : State) (m : Nat) (x : SlotSt) (b : BorderSt) (k len : Nat) (t : SMap PairAcc) : kept (writeTotals s m x b k len t) = kept s := by
  unfold writeTotals
  simp

@[simp] theorem markStale_kept (s : State) (ns : List Nat) (load : Bool) : kept (markStale s ns load) = kept s := by
  unfold markStale
  (repeat' split) <;> simp [foldl_kept]

@[simp] theorem countCopy_kept (s : State) (k raw : Nat) (ev : Conv4) : kept (countCopy s k raw ev) = kept s := by
  unfold countCopy
  simp

@[simp] theorem setChk_kept (s : State) (k i : Nat) (c : ChkSet) : kept (setChk s k i c) = kept s := by
  unfold setChk
  simp

@[simp] theorem runChk_kept (s : State) (k buf addr : Nat) (bs : List Byte) : kept (runChk s k buf addr bs).2 = kept s := by
  unfold runChk
  (repeat' split) <;> simp

@[simp] theorem sideWrite_kept (s : State) (bs : List Byte) (x : CopySide) : kept (sideWrite s bs x) = kept s := by
  cases x <;> simp [sideWrite]

@[simp] theorem copyWrite_kept (s : State) (raw : Nat) (bs : List Byte) : kept (copyWrite s raw bs).1 = kept s := by
  simp [copyWrite]

@[simp] theorem undefinedBytes_kept (s : State) (n : Nat) : kept (undefinedBytes s n).2 = kept s := by
  unfold undefinedBytes
  simp

@[simp] theorem copyIn_kept (e : DescEnv) (s : State) : kept (copyIn e s) = kept s := by
  unfold copyIn
  dsimp only
  (repeat' split) <;> simp

@[simp] theorem holdBanks_kept (s : State) (r id : Nat) (bs : List (Nat × Nat)) : kept (holdBanks s r id bs) = kept s :=
  foldl_kept _ (fun s b => by simp) _ _

@[simp] theorem copyOut_kept (e : DescEnv) (s : State) : kept (copyOut e s) = kept s := by
  unfold copyOut
  dsimp only
  (repeat' split) <;> simp

@[simp] theorem fill_kept (e : DescEnv) (s : State) : kept (fill e s) = kept s := by
  unfold fill
  dsimp only
  split
  · simp
  · split <;> simp

@[simp] theorem checkpoint_kept (e : DescEnv) (s : State) : kept (checkpoint e s) = kept s := by
  unfold checkpoint
  dsimp only
  (repeat' split) <;> simp

@[simp] theorem writeParts_kept (n : Nat) (ps : List (Stream × Nat × Nat)) (bs : List Byte) (s : State) : kept (writeParts n ps bs s) = kept s := by
  induction ps generalizing bs s with
  | nil => rfl
  | cons p ps ih => rw [writeParts, ih]; simp

@[simp] theorem restore_kept (e : DescEnv) (s : State) : kept (restore e s) = kept s := by
  unfold restore
  dsimp only
  split
  · simp
  · split
    · simp
    · split
      · simp
      · rw [DescEnv.done_kept]
        refine (foldl_kept _ (fun s i => setRecord_kept _ _ _ _) _ _).trans ?_
        rw [writeParts_kept]; rfl

@[simp] theorem createDomain_kept (e : DescEnv) (s : State) : kept (createDomain e s) = kept s := by
  unfold createDomain
  simp

@[simp] theorem removeDomain_kept (e : DescEnv) (s : State) : kept (removeDomain e s) = kept s := by
  unfold removeDomain
  simp

@[simp] theorem setQuota_kept (e : DescEnv) (s : State) : kept (setQuota e s) = kept s := by
  unfold setQuota
  simp

@[simp] theorem allocBuffer_kept (e : DescEnv) (s : State) : kept (allocBuffer e s) = kept s := by
  unfold allocBuffer
  dsimp only
  split
  · simp
  · rename_i u h; rw [DescEnv.done_kept]; exact allocRegions_kept _ _ _ _ h

@[simp] theorem releaseBuffer_kept (e : DescEnv) (s : State) : kept (releaseBuffer e s) = kept s := by
  unfold releaseBuffer
  dsimp only
  (repeat' split) <;> simp

@[simp] theorem dropBuffers_kept (s : State) (p : Nat) (qs : List Nat) : kept (dropBuffers s p qs) = kept s := by
  unfold dropBuffers
  (repeat' split) <;> simp [foldl_kept]

@[simp] theorem placePart_kept (s : State) (p : Nat) (x : PartSt) : kept (placePart s p x) = kept s := by
  unfold placePart
  simp

theorem takeBuffers_kept (s : State) (p : Nat) (qs : List Nat) (t : State) (h : takeBuffers s p qs = some t) : kept t = kept s := by
  obtain ⟨u, hu, e⟩ := foldl_bind_kept _ (fun s q t h => by obtain ⟨x, _, rfl⟩ := Option.map_eq_some_iff.mp h; rfl) _ _ _ h
  cases hu; exact e

@[simp] theorem createPart_kept (e : DescEnv) (s : State) : kept (createPart e s) = kept s := by
  unfold createPart
  dsimp only
  split
  · simp
  · split
    · simp
    · rename_i u h; rw [DescEnv.done_kept, placePart_kept]; exact takeBuffers_kept _ _ _ _ h

@[simp] theorem resizePart_kept (e : DescEnv) (s : State) : kept (resizePart e s) = kept s := by
  unfold resizePart
  dsimp only
  split
  · simp
  · split
    · simp
    · split
      · simp
      · rename_i u h; rw [DescEnv.done_kept, placePart_kept, dropBuffers_kept]; exact takeBuffers_kept _ _ _ _ h

@[simp] theorem removePart_kept (e : DescEnv) (s : State) : kept (removePart e s) = kept s := by
  unfold removePart
  simp

@[simp] theorem setMode_kept (e : DescEnv) (s : State) : kept (setMode e s) = kept s := by
  unfold setMode
  simp

@[simp] theorem sizeStore_kept (e : DescEnv) (s : State) : kept (sizeStore e s) = kept s := by
  unfold sizeStore
  dsimp only
  (repeat' split) <;> simp

theorem takeCache_kept (s : State) (slot dom : Nat) (c : SlotCache) (t : State) (h : takeCache s slot dom c = some t) : kept t = kept s := by
  unfold takeCache at h
  refine map_kept _ _ _ (fun u hu => ?_) (fun u => ?_) _ h
  · obtain ⟨v, hv, e⟩ := foldl_bind_kept _ (fun s q t h => by obtain ⟨x, _, rfl⟩ := Option.map_eq_some_iff.mp h; rfl) _ _ _ hu
    cases hv; exact e
  · exact (setDom_kept _ _ _).trans (foldl_kept _ (fun s q => setSlath_kept _ _ _) _ _)

theorem allocSlot_kept (s : State) (slot dom : Nat) (c : SlotCache) (rs : List RegionReq) (t : State) (h : allocSlot s slot dom c rs = .ok t) : kept t = kept s := by
  unfold allocSlot at h
  split at h
  · cases h
  · split at h
    · cases h
    · rename_i u hu
      split at h
      · cases h
      · rename_i v hv; cases h; exact (takeCache_kept _ _ _ _ _ hv).trans (allocRegions_kept _ _ _ _ hu)

@[simp] theorem createSlot_kept (pat : Pattern) (e : DescEnv) (s : State) : kept (createSlot pat e s) = kept s := by
  unfold createSlot
  dsimp only
  split
  · simp
  · split
    · simp
    · rename_i u h
      split
      · simp
      · rw [DescEnv.done_kept, setSlot_kept]; exact allocSlot_kept _ _ _ _ _ _ h

@[simp] theorem releaseSlot_kept (s : State) (n : Nat) : kept (releaseSlot s n) = kept s := by
  unfold releaseSlot
  (repeat' split) <;> simp [foldl_kept]

@[simp] theorem removeSlot_kept (e : DescEnv) (s : State) : kept (removeSlot e s) = kept s := by
  unfold removeSlot
  simp

@[simp] theorem raisePert_kept (s : State) (b : Nat) : kept (raisePert s b) = kept s := by
  unfold raisePert
  simp

@[simp] theorem enableLink_kept (s : State) (p : Nat) (x : LinkSt) : kept (enableLink s p x) = kept s := by
  unfold enableLink
  simp

@[simp] theorem disableLink_kept (s : State) (p : Nat) (x : LinkSt) : kept (disableLink s p x) = kept s := by
  unfold disableLink
  simp

@[simp] theorem linkLoss_kept (s : State) (p : Nat) : kept (linkLoss s p) = kept s := by
  unfold linkLoss
  simp

@[simp] theorem checkPartner_kept (s : State) (p : Nat) (m : LinkMsg) : kept (checkPartner s p m) = kept s := by
  unfold checkPartner
  simp

@[simp] theorem takeAck_kept (s : State) (p : Nat) (ack : Word) : kept (takeAck s p ack) = kept s := by
  unfold takeAck
  dsimp only
  (repeat' split) <;> simp

@[simp] theorem startRetrain_kept (s : State) (p : Nat) (lasting send : Bool) : kept (startRetrain s p lasting send) = kept s := by
  unfold startRetrain
  simp

@[simp] theorem failedBlock_kept (s : State) (p : Nat) (b : Bool) (w : Word) : kept (failedBlock s p b w) = kept s := by
  unfold failedBlock
  simp

@[simp] theorem freshPseq_kept (s : State) (p : Nat) : kept (freshPseq s p) = kept s := by
  unfold freshPseq
  split
  · exact foldl_kept _ (fun s n => updSlot_kept _ _ _) _ _
  · rfl

@[simp] theorem helloIn_kept (s : State) (p : Nat) (m : LinkMsg) : kept (helloIn s p m) = kept s := by
  unfold helloIn
  dsimp only
  (repeat' split) <;> simp

@[simp] theorem breakIn_kept (s : State) (p : Nat) (m : LinkMsg) : kept (breakIn s p m) = kept s := by
  unfold breakIn
  simp

@[simp] theorem retrainIn_kept (s : State) (p : Nat) (m : LinkMsg) : kept (retrainIn s p m) = kept s := by
  unfold retrainIn
  simp

@[simp] theorem linkIn_kept (s : State) (p : Nat) (b : Block) : kept (linkIn s p b) = kept s := by
  unfold linkIn
  simp

@[simp] theorem acceptBlock_kept (s : State) (p : Nat) (b : Block) : kept (acceptBlock s p b) = kept s := by
  unfold acceptBlock
  dsimp only
  (repeat' split) <;> simp

@[simp] theorem writeLinkCtl_kept (s : State) (k p v : Nat) : kept (writeLinkCtl s k p v) = kept s := by
  unfold writeLinkCtl
  simp

@[simp] theorem writeTorus_kept (s : State) (k : Nat) (g : TorusSt → TorusSt) : kept (writeTorus s k g) = kept s := by
  unfold writeTorus
  simp

@[simp] theorem writeCoord_kept (s : State) (k v : Nat) : kept (writeCoord s k v) = kept s := by
  unfold writeCoord
  simp

@[simp] theorem writeLen_kept (s : State) (k v : Nat) : kept (writeLen s k v) = kept s := by
  unfold writeLen
  simp

@[simp] theorem mgmtReply_kept (s : State) (result : Nat) (data : List Byte) : kept (mgmtReply s result data) = kept s := by
  unfold mgmtReply
  simp

@[simp] theorem bmcReply_kept (s : State) (ok : Bool) : kept (bmcReply s ok) = kept s := by
  unfold bmcReply
  simp

@[simp] theorem updSpdm_kept (s : State) (f : SpdmSt → SpdmSt) : kept (updSpdm s f) = kept s := by
  unfold updSpdm
  simp

@[simp] theorem closeKey_kept (s : State) (id : Nat) : kept (closeKey s id) = kept s := by
  unfold closeKey
  simp

@[simp] theorem writeHmCmd_kept (s : State) (k seq op : Nat) : kept (writeHmCmd s k seq op) = kept s := by
  unfold writeHmCmd
  simp

@[simp] theorem hmEnd_kept (s : State) (c : HmOp) (code : Nat) (data : List Nat) : kept (hmEnd s c code data) = kept s := by
  unfold hmEnd
  simp

@[simp] theorem putSel_kept (s : State) (k off v : Nat) (snap : List Nat) : kept (putSel s k off v snap) = kept s := by
  unfold putSel
  simp

@[simp] theorem selectSlot_kept (s : State) (k off v : Nat) (g : SlotSt → List Nat) : kept (selectSlot s k off v g) = kept s := by
  unfold selectSlot
  simp

@[simp] theorem selectHidden_kept (s : State) (k off v : Nat) (snap : List Nat) : kept (selectHidden s k off v snap) = kept s := by
  unfold selectHidden
  simp

@[simp] theorem writeConvSel_kept (s : State) (k v : Nat) : kept (writeConvSel s k v) = kept s := by
  unfold writeConvSel
  simp

@[simp] theorem writeStepSel_kept (s : State) (k v : Nat) : kept (writeStepSel s k v) = kept s := by
  unfold writeStepSel
  simp

@[simp] theorem writeDevSel_kept (s : State) (k v : Nat) : kept (writeDevSel s k v) = kept s := by
  unfold writeDevSel
  simp

@[simp] theorem writeQuotaSel_kept (s : State) (k v : Nat) : kept (writeQuotaSel s k v) = kept s := by
  unfold writeQuotaSel
  simp

@[simp] theorem writeTierSlotSel_kept (s : State) (k v : Nat) : kept (writeTierSlotSel s k v) = kept s := by
  unfold writeTierSlotSel
  simp

@[simp] theorem writeTierChSel_kept (s : State) (k v : Nat) : kept (writeTierChSel s k v) = kept s := by
  unfold writeTierChSel
  simp

@[simp] theorem writeLayoutSel_kept (s : State) (k v : Nat) : kept (writeLayoutSel s k v) = kept s := by
  unfold writeLayoutSel
  simp

@[simp] theorem writeArbSel_kept (s : State) (k v : Nat) : kept (writeArbSel s k v) = kept s := by
  unfold writeArbSel
  simp

@[simp] theorem writeConvClr_kept (s : State) (k v : Nat) : kept (writeConvClr s k v) = kept s := by
  unfold writeConvClr
  simp

@[simp] theorem notePerturb_kept (s : State) : kept (notePerturb s) = kept s := by
  unfold notePerturb
  split <;> simp

@[simp] theorem writeArbCtl_kept (s : State) (k v : Nat) : kept (writeArbCtl s k v) = kept s := by
  unfold writeArbCtl
  simp

@[simp] theorem writeCycSnap_kept (s : State) (k v : Nat) : kept (writeCycSnap s k v) = kept s := by
  unfold writeCycSnap
  simp

@[simp] theorem writeWdogStatus_kept (s : State) (k v : Nat) : kept (writeWdogStatus s k v) = kept s := by
  unfold writeWdogStatus
  simp

@[simp] theorem dropHeld_kept (s : State) (k : Nat) (p : PairReg) : kept (dropHeld s k p) = kept s := by
  unfold dropHeld
  simp

@[simp] theorem pairSet_kept (s : State) (k v : Nat) (p : PairReg) : kept (pairSet s k v p) = kept s := by
  cases p <;> simp [pairSet]

theorem pairDiscard_kept (s : State) (k : Nat) (p : PairReg) (t : State) (h : pairDiscard s k p = some t) : kept t = kept s := by
  cases p <;> simp only [pairDiscard] at h <;> (repeat' split at h) <;> cases h <;> simp

@[simp] theorem writePairLo_kept (s : State) (k : Nat) (p : PairReg) (v : Nat) : kept (writePairLo s k p v) = kept s := by
  unfold writePairLo
  split
  · rename_i h; exact pairDiscard_kept _ _ _ _ h
  · simp

@[simp] theorem writePairHi_kept (s : State) (k : Nat) (p : PairReg) (v : Nat) : kept (writePairHi s k p v) = kept s := by
  unfold writePairHi
  split
  · rename_i h; exact pairDiscard_kept _ _ _ _ h
  · simp

@[simp] theorem writeRingSel_kept (s : State) (k v : Nat) : kept (writeRingSel s k v) = kept s := by
  unfold writeRingSel
  simp

@[simp] theorem writeChkCtl_kept (s : State) (k u v : Nat) : kept (writeChkCtl s k u v) = kept s := by
  unfold writeChkCtl
  simp

theorem pertWrite_kept (s : State) (k : Nat) (g : State → State) (h : ∀ u, kept (g u) = kept u) : kept (pertWrite s k g) = kept s := by
  unfold pertWrite
  dsimp only
  split
  · rfl
  · split
    · rfl
    · exact h s

@[simp] theorem setFlags_kept (s : State) (k : Nat) (x : FlagReg) (b : FlagBlock) : kept (setFlags s k x b) = kept s := by
  cases b <;> simp [setFlags]

@[simp] theorem writeFlags_kept (s : State) (k : Nat) (b : FlagBlock) (v : Nat) : kept (writeFlags s k b v) = kept s := by
  unfold writeFlags
  dsimp only
  split
  · simp
  · simp
  · simp
  · exact pertWrite_kept _ _ _ (fun u => by simp)
  · split
    · exact setFlags_kept _ _ _ _
    · rfl
  · split <;> simp

@[simp] theorem updPert_kept (s : State) (g : PertSt → PertSt) : kept (updPert s g) = kept s := by
  unfold updPert
  simp

@[simp] theorem writePertCtl_kept (s : State) (k v : Nat) : kept (writePertCtl s k v) = kept s :=
  pertWrite_kept _ _ _ (fun u => by (repeat' split) <;> first | rfl | simp)

@[simp] theorem writePtSel_kept (s : State) (k v : Nat) : kept (writePtSel s k v) = kept s := pertWrite_kept _ _ _ (fun _ => rfl)

@[simp] theorem pointWrite_kept (s : State) (k : Nat) (keeps : PointSt → Bool) (g : PointSt → PointSt) : kept (pointWrite s k keeps g) = kept s :=
  pertWrite_kept _ _ _ (fun u => by dsimp only; split <;> rfl)

@[simp] theorem writePtCtl_kept (s : State) (k v : Nat) : kept (writePtCtl s k v) = kept s := by
  unfold writePtCtl
  simp

@[simp] theorem writePtTarget_kept (s : State) (k v : Nat) : kept (writePtTarget s k v) = kept s := by
  unfold writePtTarget
  simp

@[simp] theorem writePtParam_kept (s : State) (k v : Nat) : kept (writePtParam s k v) = kept s := by
  unfold writePtParam
  simp

@[simp] theorem writePtSeed_kept (s : State) (k v : Nat) : kept (writePtSeed s k v) = kept s := by
  unfold writePtSeed
  simp

@[simp] theorem noteLoopback_kept (s : State) (lanes errors : Nat) : kept (noteLoopback s lanes errors) = kept s := by
  unfold noteLoopback
  simp

@[simp] theorem writeLpbkCtl_kept (s : State) (k v : Nat) : kept (writeLpbkCtl s k v) = kept s :=
  pertWrite_kept _ _ _ (fun u => by dsimp only; split <;> first | rfl | simp)

@[simp] theorem writeBistCtl_kept (s : State) (k v : Nat) : kept (writeBistCtl s k v) = kept s :=
  pertWrite_kept _ _ _ (fun u => by dsimp only; (repeat' split) <;> first | rfl | simp)

@[simp] theorem endMarchDram_kept (s : State) (tkind target : Nat) (fails : List Nat) : kept (endMarchDram s tkind target fails) = kept s := by
  unfold endMarchDram
  simp

@[simp] theorem endMarchCores_kept (s : State) (k : Nat) (failed : Bool) : kept (endMarchCores s k failed) = kept s := by
  unfold endMarchCores
  (repeat' split) <;> simp [foldl_kept]

@[simp] theorem driveLands_kept (s : State) : kept (driveLands s) = kept s := by
  unfold driveLands
  simp

@[simp] theorem writeMsix_kept (s : State) (k w v : Nat) : kept (writeMsix s k w v) = kept s := by
  unfold writeMsix
  simp

@[simp] theorem writeHostBlock_kept (s : State) (k o v : Nat) : kept (writeHostBlock s k o v) = kept s := by
  unfold writeHostBlock
  (repeat' split) <;> simp

@[simp] theorem writeLinkBlock_kept (s : State) (k p o v : Nat) : kept (writeLinkBlock s k p o v) = kept s := by
  unfold writeLinkBlock
  simp

@[simp] theorem writeCheckBlock_kept (s : State) (k o v : Nat) : kept (writeCheckBlock s k o v) = kept s := by
  unfold writeCheckBlock
  (repeat' split) <;> simp

theorem writeGated_kept (s : State) (k : Nat) (g : State → State) (h : ∀ u, kept (g u) = kept u) : kept (writeGated s k g) = kept s := by
  unfold writeGated
  split
  · exact h s
  · rfl

@[simp] theorem writeDeviceBlocks_kept (s : State) (k o v : Nat) : kept (writeDeviceBlocks s k o v) = kept s := by
  unfold writeDeviceBlocks
  split <;> first | rfl | (simp; done) | exact writeGated_kept _ _ _ (fun _ => rfl)

@[simp] theorem bar0Write_kept (s : State) (k o v : Nat) : kept (bar0Write s k o v) = kept s := by
  unfold bar0Write
  simp

@[simp] theorem sendPending_kept (s : State) (k : Nat) : kept (sendPending s k) = kept s := by
  unfold sendPending
  exact foldl_kept _ (fun s v => by dsimp only; split <;> simp) _ _

@[simp] theorem writeSriov_kept (s : State) (p v : Nat) : kept (writeSriov s p v) = kept s := by
  unfold writeSriov
  dsimp only
  split
  · exact (foldl_kept _ (fun s i => resetFn_kept _ _ _) _ _).trans (by simp)
  · simp

@[simp] theorem cfgWrite_kept (s : State) (k : Nat) (r : CfgReg) (v : Nat) : kept (cfgWrite s k r v) = kept s := by
  unfold cfgWrite
  dsimp only
  split <;> (repeat' split) <;> simp

@[simp] theorem bar2Write_kept (s : State) (k o v : Nat) : kept (bar2Write s k o v) = kept s := by
  unfold bar2Write
  simp

@[simp] theorem bar0Read_kept (s : State) (k o : Nat) : kept (bar0Read s k o).2 = kept s := by
  unfold bar0Read
  simp

end Sys2Proof.Machine
end

