-- ==== Sys2Proof/Laws/Maps.lean ====
section
/-! SUPPORT. Laws of sparse tables: a read after a write, and the canonical form. -/

namespace Sys2Proof.Machine

variable {α : Type}

theorem mget_merase_same (d : α) (m : SMap α) (i : Nat) : mget d (merase m i) i = d := by
  induction m with
  | nil => rfl
  | cons p m ih => obtain ⟨k, v⟩ := p; by_cases h : k = i <;> simp [merase, mget, h, ih]

theorem mget_of_not_mhas (d : α) (m : SMap α) (i : Nat) (h : mhas m i = false) : mget d m i = d := by
  induction m with
  | nil => rfl
  | cons p m ih =>
    obtain ⟨k, v⟩ := p
    have e : mhas ((k, v) :: m) i = (decide (k = i) || mhas m i) := rfl
    by_cases hk : k = i <;> simp_all [mget]

theorem mget_merase_other (d : α) (m : SMap α) (i j : Nat) (h : j ≠ i) : mget d (merase m i) j = mget d m j := by
  induction m with
  | nil => rfl
  | cons p m ih =>
    obtain ⟨k, v⟩ := p
    by_cases hk : k = i
    · subst hk; simp [merase, mget, ih, Ne.symm h]
    · rw [merase, if_neg hk]; simp only [mget, ih]

theorem mget_minsert_same (d : α) (m : SMap α) (i : Nat) (v : α) : mget d (minsert m i v) i = v := by
  induction m with
  | nil => simp [minsert, mget]
  | cons p m ih =>
    obtain ⟨k, w⟩ := p
    by_cases h1 : i < k
    · simp [minsert, mget, h1]
    · by_cases h2 : i = k
      · simp [minsert, mget, h2]
      · simp [minsert, mget, h1, h2, Ne.symm h2, ih]

theorem mget_minsert_other (d : α) (m : SMap α) (i j : Nat) (v : α) (h : j ≠ i) :
    mget d (minsert m i v) j = mget d m j := by
  induction m with
  | nil => simp [minsert, mget, Ne.symm h]
  | cons p m ih =>
    obtain ⟨k, w⟩ := p
    by_cases h1 : i < k
    · simp [minsert, mget, h1, Ne.symm h]
    · by_cases h2 : i = k
      · subst h2; simp [minsert, mget, Ne.symm h]
      · rw [minsert, if_neg h1, if_neg h2]; simp only [mget, ih]

/-- A second insertion at a key replaces the first. -/
theorem minsert_minsert (m : SMap α) (i : Nat) (v w : α) : minsert (minsert m i v) i w = minsert m i w := by
  induction m with
  | nil => simp [minsert]
  | cons p m ih =>
    obtain ⟨k, u⟩ := p
    by_cases h : i < k
    · simp [minsert, h]
    · by_cases h2 : i = k <;> simp [minsert, h, h2, ih]

variable [DecidableEq α]

/-- A read after a write of the same key gives the value written. -/
@[simp] theorem mget_mset_same (d : α) (m : SMap α) (i : Nat) (v : α) : mget d (mset d m i v) i = v := by
  unfold mset
  split
  · simp [mget_merase_same, *]
  · simp [mget_minsert_same]

/-- A write leaves every other key alone. -/
theorem mget_mset_other (d : α) (m : SMap α) (i j : Nat) (v : α) (h : j ≠ i) :
    mget d (mset d m i v) j = mget d m j := by
  unfold mset
  split
  · exact mget_merase_other d m i j h
  · exact mget_minsert_other d m i j v h

/-- Reading another key, whatever the default of the read. -/
theorem mget_mset_apart (d e : α) (m : SMap α) (i j : Nat) (v : α) (h : j ≠ i) : mget e (mset d m i v) j = mget e m j := by
  unfold mset
  split
  · exact mget_merase_other e m i j h
  · exact mget_minsert_other e m i j v h

@[simp] theorem mget_mupd_same (d : α) (m : SMap α) (i : Nat) (f : α → α) :
    mget d (mupd d m i f) i = f (mget d m i) := by simp [mupd]

theorem mget_mupd_other (d : α) (m : SMap α) (i j : Nat) (f : α → α) (h : j ≠ i) :
    mget d (mupd d m i f) j = mget d m j := by simp [mupd, mget_mset_other, h]

theorem mget_msetList_outside (d : α) (vs : List α) (m : SMap α) (i j : Nat) (h : j < i ∨ i + vs.length ≤ j) :
    mget d (msetList d m i vs) j = mget d m j := by
  induction vs generalizing m i with
  | nil => rfl
  | cons v vs ih =>
    simp only [List.length_cons] at h
    rw [msetList, ih _ _ (by omega), mget_mset_other _ _ _ _ _ (by omega)]

theorem mget_msetList_inside (d : α) (vs : List α) (m : SMap α) (i j : Nat) (h : j < vs.length) :
    mget d (msetList d m i vs) (i + j) = vs[j] := by
  induction vs generalizing m i j with
  | nil => simp at h
  | cons v vs ih =>
    cases j with
    | zero =>
      rw [msetList, mget_msetList_outside _ _ _ _ _ (by omega)]
      simp
    | succ j =>
      have := ih (mset d m i v) (i + 1) j (by simpa using h)
      rw [msetList, show i + (j + 1) = i + 1 + j by omega, this]
      simp

omit [DecidableEq α] in
@[simp] theorem mgetList_length (d : α) (m : SMap α) (i n : Nat) : (mgetList d m i n).length = n := by
  induction n generalizing i with
  | zero => rfl
  | succ n ih => simp [mgetList, ih]

/-- Consecutive keys read back what was written to them. -/
theorem mgetList_msetList (d : α) (vs : List α) (m : SMap α) (i : Nat) :
    mgetList d (msetList d m i vs) i vs.length = vs := by
  induction vs generalizing m i with
  | nil => rfl
  | cons v vs ih =>
    have h := mget_msetList_inside d (v :: vs) m i 0 (by simp)
    simp only [Nat.add_zero, List.getElem_cons_zero] at h
    simp only [List.length_cons, mgetList, h]
    rw [msetList, ih]

/-! ### The canonical form -/

omit [DecidableEq α] in
theorem mabove_minsert (m : SMap α) (i j : Nat) (v : α) (h : mabove j m = true) (hj : j < i) :
    mabove j (minsert m i v) = true := by
  cases m with
  | nil => simp [minsert, mabove, hj]
  | cons p m =>
    obtain ⟨k, w⟩ := p
    simp only [mabove, decide_eq_true_eq] at h
    simp only [minsert]
    split <;> [skip; split] <;> simp [mabove, hj, h]

omit [DecidableEq α] in
theorem mabove_of_mabove (m : SMap α) (i j : Nat) (h : mabove j m = true) (hij : i ≤ j) : mabove i m = true := by
  cases m with
  | nil => rfl
  | cons p m => obtain ⟨k, w⟩ := p; simp only [mabove, decide_eq_true_eq] at *; omega

theorem mwf_tail (d : α) (p : Nat × α) (m : SMap α) (h : mwf d (p :: m) = true) : mwf d m = true := by
  obtain ⟨k, v⟩ := p; simp only [mwf, Bool.and_eq_true] at h; exact h.2

theorem merase_above (d : α) (m : SMap α) (i : Nat) (h : mabove i m = true) (hw : mwf d m = true) : merase m i = m := by
  induction m with
  | nil => rfl
  | cons p m ih =>
    obtain ⟨k, v⟩ := p
    simp only [mabove, decide_eq_true_eq] at h
    simp only [mwf, Bool.and_eq_true] at hw
    rw [merase, if_neg (by omega), ih (mabove_of_mabove m i k hw.1.2 (by omega)) hw.2]

theorem mabove_merase (d : α) (m : SMap α) (i j : Nat) (h : mabove j m = true) (hw : mwf d m = true) :
    mabove j (merase m i) = true := by
  induction m with
  | nil => rfl
  | cons p m ih =>
    obtain ⟨k, v⟩ := p
    have hk := h
    simp only [mabove, decide_eq_true_eq] at hk
    simp only [mwf, Bool.and_eq_true] at hw
    rw [merase]
    split
    · exact ih (mabove_of_mabove m j k hw.1.2 (by omega)) hw.2
    · simpa [mabove] using hk

theorem mwf_merase (d : α) (m : SMap α) (i : Nat) (h : mwf d m = true) : mwf d (merase m i) = true := by
  induction m with
  | nil => rfl
  | cons p m ih =>
    obtain ⟨k, v⟩ := p
    have hw := h
    simp only [mwf, Bool.and_eq_true] at hw
    rw [merase]
    split
    · exact ih hw.2
    · simp only [mwf, Bool.and_eq_true]
      exact ⟨⟨hw.1.1, mabove_merase d m i k hw.1.2 hw.2⟩, ih hw.2⟩

theorem mwf_minsert (d : α) (m : SMap α) (i : Nat) (v : α) (h : mwf d m = true) (hv : v ≠ d) :
    mwf d (minsert m i v) = true := by
  induction m with
  | nil => simp [minsert, mwf, mabove, hv]
  | cons p m ih =>
    obtain ⟨k, w⟩ := p
    have hw := h
    simp only [mwf, Bool.and_eq_true] at hw
    simp only [minsert]
    split
    · rename_i hi; simp only [mwf, Bool.and_eq_true]; exact ⟨⟨by simp [hv], by simp [mabove, hi]⟩, hw⟩
    · split
      · rename_i hi; subst hi; simp [mwf, hv, hw.1.2, hw.2]
      · simp only [mwf, Bool.and_eq_true]
        exact ⟨⟨hw.1.1, mabove_minsert m i k v hw.1.2 (by omega)⟩, ih hw.2⟩

/-- A write keeps the canonical form. -/
theorem mwf_mset (d : α) (m : SMap α) (i : Nat) (v : α) (h : mwf d m = true) : mwf d (mset d m i v) = true := by
  unfold mset
  split
  · exact mwf_merase d m i h
  · exact mwf_minsert d m i v h (by assumption)

theorem mwf_mupd (d : α) (m : SMap α) (i : Nat) (f : α → α) (h : mwf d m = true) : mwf d (mupd d m i f) = true :=
  mwf_mset d m i _ h

theorem mwf_msetList (d : α) (vs : List α) (m : SMap α) (i : Nat) (h : mwf d m = true) :
    mwf d (msetList d m i vs) = true := by
  induction vs generalizing m i with
  | nil => exact h
  | cons v vs ih => exact ih _ _ (mwf_mset d m i v h)

theorem mabove_filter (d : α) (m : SMap α) (i : Nat) (f : Nat × α → Bool) (h : mabove i m = true) (hw : mwf d m = true) :
    mabove i (m.filter f) = true := by
  induction m with
  | nil => rfl
  | cons p m ih =>
    obtain ⟨k, v⟩ := p
    have hk := h
    simp only [mabove, decide_eq_true_eq] at hk
    simp only [mwf, Bool.and_eq_true] at hw
    rw [List.filter_cons]
    split
    · simpa [mabove] using hk
    · exact ih (mabove_of_mabove m i k hw.1.2 (by omega)) hw.2

/-- Removing entries keeps the canonical form. -/
theorem mwf_filter (d : α) (m : SMap α) (f : Nat × α → Bool) (h : mwf d m = true) : mwf d (m.filter f) = true := by
  induction m with
  | nil => rfl
  | cons p m ih =>
    obtain ⟨k, v⟩ := p
    have hw := h
    simp only [mwf, Bool.and_eq_true] at hw
    rw [List.filter_cons]
    split
    · simp only [mwf, Bool.and_eq_true]
      exact ⟨⟨hw.1.1, mabove_filter d m k f hw.1.2 hw.2⟩, ih hw.2⟩
    · exact ih hw.2

/-- In the canonical form a key that is listed has a value other than the default. -/
theorem mget_of_mem (d : α) (m : SMap α) (k : Nat) (v : α) (h : mwf d m = true) (hm : (k, v) ∈ m) : mget d m k = v := by
  induction m with
  | nil => simp at hm
  | cons p m ih =>
    obtain ⟨j, w⟩ := p
    rcases List.mem_cons.mp hm with he | he
    · cases he; simp [mget]
    · simp only [mwf, Bool.and_eq_true] at h
      have hj : j ≠ k := by
        rintro rfl
        have ha := h.1.2
        clear hm ih
        induction m with
        | nil => simp at he
        | cons q m ih2 =>
          obtain ⟨l, u⟩ := q
          simp only [mabove, decide_eq_true_eq] at ha
          rcases List.mem_cons.mp he with h1 | h1
          · cases h1; omega
          · simp only [mwf, Bool.and_eq_true] at h
            exact ih2 ⟨⟨h.1.1, mabove_of_mabove m j l h.2.1.2 (by omega)⟩, h.2.2⟩ h1 (mabove_of_mabove m j l h.2.1.2 (by omega))
      rw [mget, if_neg hj]
      exact ih h.2 he

/-- A second write of a key replaces the first, where neither erases. -/
theorem mset_mset (d : α) (m : SMap α) (i : Nat) (v w : α) (hv : v ≠ d) (hw : w ≠ d) :
    mset d (mset d m i v) i w = mset d m i w := by
  simp [mset, hv, hw, minsert_minsert]

end Sys2Proof.Machine
end

