-- ==== Sys2Proof/Laws/Memory.lean ====
section
/-! SUPPORT. Every operation on the byte stores of the DRAM tiers keeps their one canonical form, and what a physical byte reads
after a write. -/

namespace Sys2Proof.Machine

open Sys2Proof.Safety

/-- Both byte stores of a tier state are in canonical form. -/
def TiersOk (t : TierSt) : Prop := mwf 0 t.hbm = true ∧ mwf 0 t.lp = true

/-- The invariant's clause over a state is that over its tiers. -/
theorem memCanonical_iff (s : State) : MemCanonical s ↔ TiersOk s.tiers := Iff.rfl

/-- The stores of the state after reset list nothing. -/
theorem reset_memCanonical : MemCanonical State.reset := ⟨rfl, rfl⟩

/-- A write of one physical byte. -/
theorem setPhysByte_ok (t : TierSt) (tier p o : Nat) (b : Byte) (h : TiersOk t) : TiersOk (setPhysByte t tier p o b) := by
  unfold setPhysByte
  split
  · exact ⟨mwf_mset _ _ _ _ h.1, h.2⟩
  · exact ⟨h.1, mwf_mset _ _ _ _ h.2⟩

/-- A write of one byte at a tier address. -/
theorem setTierByte_ok (s : State) (dom a : Nat) (b : Byte) (h : MemCanonical s) : MemCanonical (setTierByte s dom a b) := by
  unfold setTierByte
  dsimp only
  split
  · exact h
  · split
    · rw [memCanonical_iff]
      dsimp only
      split <;> split <;> first | exact setPhysByte_ok _ _ _ _ _ (setPhysByte_ok _ _ _ _ _ h) | exact setPhysByte_ok _ _ _ _ _ h | exact h
    · exact setPhysByte_ok _ _ _ _ _ h

/-- A write of bytes from a tier address on. -/
theorem setTierBytes_ok (s : State) (dom a : Nat) (bs : List Byte) (h : MemCanonical s) : MemCanonical (setTierBytes s dom a bs) := by
  induction bs generalizing s a with
  | nil => exact h
  | cons b bs ih => exact ih _ _ (setTierByte_ok _ _ _ _ h)

/-- A write of bytes of a stream. -/
theorem writeStream_ok (s : State) (slot : Nat) (st : Stream) (off : Nat) (bs : List Byte) (h : MemCanonical s) :
    MemCanonical (writeStream s slot st off bs) := by
  induction bs generalizing s off with
  | nil => exact h
  | cons b bs ih =>
    refine ih _ _ ?_
    split
    · exact h
    · exact setTierByte_ok _ _ _ _ h

/-- A write of codes of a stream. -/
theorem writeCodes_ok (s : State) (slot : Nat) (st : Stream) (w off : Nat) (cs : List Nat) (h : MemCanonical s) :
    MemCanonical (writeCodes s slot st w off cs) := writeStream_ok _ _ _ _ _ h

/-- A write of a quantise record. -/
theorem setRecord_ok (s : State) (slot t v : Nat) (h : MemCanonical s) : MemCanonical (setRecord s slot t v) := writeStream_ok _ _ _ _ _ h

/-- A write of bytes of a copy. -/
theorem sideWrite_ok (s : State) (bs : List Byte) (x : CopySide) (h : MemCanonical s) : MemCanonical (sideWrite s bs x) := by
  cases x with
  | tier d a => exact setTierBytes_ok _ _ _ _ h
  | stream k st off => exact writeStream_ok _ _ _ _ _ h

/-- The bytes of a granule dropped. -/
theorem dropGranule_ok (cells : List Host.Cell) (p : Nat) (h : mwf 0 cells = true) : mwf 0 (dropGranule cells p) = true := mwf_filter _ _ _ h

/-- Blocks of a granule copied onto another. -/
theorem copyBlocks_ok (pick : Nat → Bool) (src dst : Nat) (cells : List Host.Cell) (h : mwf 0 cells = true) :
    mwf 0 (copyBlocks pick src dst cells) = true := by
  unfold copyBlocks
  suffices g : ∀ (l : List Host.Cell) (m : List Host.Cell), mwf 0 m = true →
      mwf 0 (l.foldl (fun m c => mset 0 m (dst * granBytes + c.1 % granBytes) c.2) m) = true from g _ _ h
  intro l
  induction l with
  | nil => exact fun m hm => hm
  | cons c l ih => exact fun m hm => ih _ (mwf_mset _ _ _ _ hm)

/-- A retired granule. -/
theorem retireGranule_ok (s : State) (tier p : Nat) (bad : List Nat) (t : State) (h : retireGranule s tier p bad = some t) (hs : MemCanonical s) :
    MemCanonical t := by
  unfold retireGranule at h
  dsimp only at h
  split at h
  · cases h
    rw [memCanonical_iff]
    dsimp only
    split <;> exact hs
  · split at h
    · obtain ⟨r, _, rfl⟩ := Option.map_eq_some_iff.mp h
      exact ⟨dropGranule_ok _ _ (copyBlocks_ok _ _ _ _ (dropGranule_ok _ _ hs.1)), hs.2⟩
    · obtain ⟨r, _, rfl⟩ := Option.map_eq_some_iff.mp h
      refine ⟨hs.1, dropGranule_ok _ _ ?_⟩
      split
      · exact copyBlocks_ok _ _ _ _ (copyBlocks_ok _ _ _ _ (dropGranule_ok _ _ (copyBlocks_ok _ _ _ _ (copyBlocks_ok _ _ _ _ (dropGranule_ok _ _ hs.2)))))
      · exact copyBlocks_ok _ _ _ _ (dropGranule_ok _ _ hs.2)

/-- Retired granules, one after another. -/
theorem retireAll_ok (s : State) (fs : List (Nat × Nat × Nat)) (t : State) (h : retireAll s fs = some t) (hs : MemCanonical s) : MemCanonical t := by
  unfold retireAll at h
  suffices g : ∀ (l : List (Nat × Nat)) (a : Option State), (∀ u, a = some u → MemCanonical u) → ∀ t,
      l.foldl (fun (a : Option State) f => a.bind (fun s => retireGranule s f.1 f.2 ((fs.filter (fun h => h.1 == f.1 && h.2.1 == f.2)).map (·.2.2)))) a = some t →
      MemCanonical t from g _ _ (fun u hu => by cases hu; exact hs) t h
  intro l
  induction l with
  | nil => exact fun a ha t ht => ha t ht
  | cons f l ih =>
    intro a ha t ht
    refine ih _ (fun u hu => ?_) t ht
    obtain ⟨v, hv, hw⟩ := Option.bind_eq_some_iff.mp hu
    exact retireGranule_ok _ _ _ _ _ hw (ha v hv)

/-- A granule of a step area becomes undefined. -/
theorem spoilGranule_ok (s : State) (p : Nat) (hs : MemCanonical s) : MemCanonical (spoilGranule s p) := ⟨dropGranule_ok _ _ hs.1, hs.2⟩

/-- An HBM3E granule of a lost rim die replaced. -/
theorem replaceHbm_ok (dom : Nat) (s : State) (g : Nat) (t : State) (h : replaceHbm dom s g = some t) (hs : MemCanonical s) : MemCanonical t := by
  unfold replaceHbm at h
  dsimp only at h
  split at h
  · cases h; exact hs
  · split at h
    · cases h; exact hs
    · obtain ⟨r, _, rfl⟩ := Option.map_eq_some_iff.mp h
      exact ⟨dropGranule_ok _ _ hs.1, hs.2⟩

/-- The end of a self-test of a DRAM target. -/
theorem endMarchDram_ok (s : State) (tkind target : Nat) (fails : List Nat) (hs : MemCanonical s) : MemCanonical (endMarchDram s tkind target fails) := by
  unfold endMarchDram
  rw [memCanonical_iff]
  dsimp only
  split <;> split <;> first | exact ⟨mwf_filter _ _ _ hs.1, hs.2⟩ | exact ⟨hs.1, mwf_filter _ _ _ hs.2⟩

/-- A write leaves the open contents of every granule alone. -/
@[simp] theorem openByte_setPhysByte (t : TierSt) (tier p o tier' q x : Nat) (b : Byte) :
    openByte (setPhysByte t tier p o b) tier' q x = openByte t tier' q x := by
  unfold setPhysByte
  split <;> rfl

/-- Taking the same byte out twice. -/
theorem xor_twice (a b : Byte) : a ^^^ b ^^^ b = a := by
  rw [BitVec.xor_assoc, BitVec.xor_self, BitVec.xor_zero]

/-- A physical byte reads what was last written to it. -/
@[simp] theorem physByte_setPhysByte_same (t : TierSt) (tier p o : Nat) (b : Byte) : physByte (setPhysByte t tier p o b) tier p o = b := by
  unfold physByte
  rw [openByte_setPhysByte]
  unfold setPhysByte
  split <;> simp [xor_twice]

/-- Another byte of a granule, or a byte of another granule, reads as before. -/
theorem physByte_setPhysByte_other (t : TierSt) (tier p o q x : Nat) (b : Byte) (ho : o < granBytes) (hx : x < granBytes) (h : q ≠ p ∨ x ≠ o) :
    physByte (setPhysByte t tier p o b) tier q x = physByte t tier q x := by
  have hk : q * granBytes + x ≠ p * granBytes + o := by
    intro e
    have e1 : (q * granBytes + x) / granBytes = (p * granBytes + o) / granBytes := by rw [e]
    have e2 : (q * granBytes + x) % granBytes = (p * granBytes + o) % granBytes := by rw [e]
    unfold granBytes at *
    omega
  unfold physByte
  rw [openByte_setPhysByte]
  unfold setPhysByte
  split <;> simp [mget_mset_other _ _ _ _ _ hk]

/-- An offset within a granule. -/
theorem taOffs_lt (a : Nat) : taOffs a < granBytes := by
  unfold taOffs bits granBytes
  omega

end Sys2Proof.Machine
end

