-- ==== Sys2Proof/Laws/State.lean ====
section
/-! SUPPORT. What each named update of State leaves alone, field by field, and what reading a table after writing it gives. -/

namespace Sys2Proof.Machine

/-! ### setCore -/

@[simp] theorem setCore_pending (s : State) (c : Nat) (x : CoreSt) : (setCore s c x).pending = s.pending := rfl
@[simp] theorem setCore_parts (s : State) (c : Nat) (x : CoreSt) : (setCore s c x).parts = s.parts := rfl
@[simp] theorem setCore_convFlags (s : State) (c : Nat) (x : CoreSt) : (setCore s c x).convFlags = s.convFlags := rfl
@[simp] theorem setCore_convUnits (s : State) (c : Nat) (x : CoreSt) : (setCore s c x).convUnits = s.convUnits := rfl
@[simp] theorem setCore_pipeFlags (s : State) (c : Nat) (x : CoreSt) : (setCore s c x).pipeFlags = s.pipeFlags := rfl
@[simp] theorem setCore_wdog (s : State) (c : Nat) (x : CoreSt) : (setCore s c x).wdog = s.wdog := rfl
@[simp] theorem setCore_tiers (s : State) (c : Nat) (x : CoreSt) : (setCore s c x).tiers = s.tiers := rfl
@[simp] theorem setCore_doms (s : State) (c : Nat) (x : CoreSt) : (setCore s c x).doms = s.doms := rfl
@[simp] theorem setCore_slaths (s : State) (c : Nat) (x : CoreSt) : (setCore s c x).slaths = s.slaths := rfl
@[simp] theorem setCore_slots (s : State) (c : Nat) (x : CoreSt) : (setCore s c x).slots = s.slots := rfl
@[simp] theorem setCore_borders (s : State) (c : Nat) (x : CoreSt) : (setCore s c x).borders = s.borders := rfl
@[simp] theorem setCore_train (s : State) (c : Nat) (x : CoreSt) : (setCore s c x).train = s.train := rfl
@[simp] theorem setCore_ports (s : State) (c : Nat) (x : CoreSt) : (setCore s c x).ports = s.ports := rfl
@[simp] theorem setCore_fns (s : State) (c : Nat) (x : CoreSt) : (setCore s c x).fns = s.fns := rfl
@[simp] theorem setCore_rings (s : State) (c : Nat) (x : CoreSt) : (setCore s c x).rings = s.rings := rfl
@[simp] theorem setCore_arbs (s : State) (c : Nat) (x : CoreSt) : (setCore s c x).arbs = s.arbs := rfl
@[simp] theorem setCore_links (s : State) (c : Nat) (x : CoreSt) : (setCore s c x).links = s.links := rfl
@[simp] theorem setCore_torus (s : State) (c : Nat) (x : CoreSt) : (setCore s c x).torus = s.torus := rfl
@[simp] theorem setCore_fault (s : State) (c : Nat) (x : CoreSt) : (setCore s c x).fault = s.fault := rfl
@[simp] theorem setCore_fc (s : State) (c : Nat) (x : CoreSt) : (setCore s c x).fc = s.fc := rfl
@[simp] theorem setCore_rootLock (s : State) (c : Nat) (x : CoreSt) : (setCore s c x).rootLock = s.rootLock := rfl
@[simp] theorem setCore_clock (s : State) (c : Nat) (x : CoreSt) : (setCore s c x).clock = s.clock := rfl
@[simp] theorem setCore_handle (s : State) (c : Nat) (x : CoreSt) : (setCore s c x).handle = s.handle := rfl
@[simp] theorem setCore_pert (s : State) (c : Nat) (x : CoreSt) : (setCore s c x).pert = s.pert := rfl
@[simp] theorem setCore_tap (s : State) (c : Nat) (x : CoreSt) : (setCore s c x).tap = s.tap := rfl
@[simp] theorem setCore_power (s : State) (c : Nat) (x : CoreSt) : (setCore s c x).power = s.power := rfl
@[simp] theorem setCore_service (s : State) (c : Nat) (x : CoreSt) : (setCore s c x).service = s.service := rfl
@[simp] theorem setCore_draws (s : State) (c : Nat) (x : CoreSt) : (setCore s c x).draws = s.draws := rfl
@[simp] theorem setCore_out (s : State) (c : Nat) (x : CoreSt) : (setCore s c x).out = s.out := rfl

@[simp] theorem getCore_setCore_same (s : State) (c : Nat) (x : CoreSt) : getCore (setCore s c x) c = x := by
  simp [getCore, setCore]

theorem getCore_setCore_other (s : State) (c : Nat) (x : CoreSt) (j : Nat) (h : j ≠ c) : getCore (setCore s c x) j = getCore s j := by
  exact mget_mset_apart _ _ _ _ _ _ h

/-! ### setPart -/

@[simp] theorem setPart_pending (s : State) (p : Nat) (x : PartSt) : (setPart s p x).pending = s.pending := rfl
@[simp] theorem setPart_cores (s : State) (p : Nat) (x : PartSt) : (setPart s p x).cores = s.cores := rfl
@[simp] theorem setPart_convFlags (s : State) (p : Nat) (x : PartSt) : (setPart s p x).convFlags = s.convFlags := rfl
@[simp] theorem setPart_convUnits (s : State) (p : Nat) (x : PartSt) : (setPart s p x).convUnits = s.convUnits := rfl
@[simp] theorem setPart_pipeFlags (s : State) (p : Nat) (x : PartSt) : (setPart s p x).pipeFlags = s.pipeFlags := rfl
@[simp] theorem setPart_wdog (s : State) (p : Nat) (x : PartSt) : (setPart s p x).wdog = s.wdog := rfl
@[simp] theorem setPart_tiers (s : State) (p : Nat) (x : PartSt) : (setPart s p x).tiers = s.tiers := rfl
@[simp] theorem setPart_doms (s : State) (p : Nat) (x : PartSt) : (setPart s p x).doms = s.doms := rfl
@[simp] theorem setPart_slaths (s : State) (p : Nat) (x : PartSt) : (setPart s p x).slaths = s.slaths := rfl
@[simp] theorem setPart_slots (s : State) (p : Nat) (x : PartSt) : (setPart s p x).slots = s.slots := rfl
@[simp] theorem setPart_borders (s : State) (p : Nat) (x : PartSt) : (setPart s p x).borders = s.borders := rfl
@[simp] theorem setPart_train (s : State) (p : Nat) (x : PartSt) : (setPart s p x).train = s.train := rfl
@[simp] theorem setPart_ports (s : State) (p : Nat) (x : PartSt) : (setPart s p x).ports = s.ports := rfl
@[simp] theorem setPart_fns (s : State) (p : Nat) (x : PartSt) : (setPart s p x).fns = s.fns := rfl
@[simp] theorem setPart_rings (s : State) (p : Nat) (x : PartSt) : (setPart s p x).rings = s.rings := rfl
@[simp] theorem setPart_arbs (s : State) (p : Nat) (x : PartSt) : (setPart s p x).arbs = s.arbs := rfl
@[simp] theorem setPart_links (s : State) (p : Nat) (x : PartSt) : (setPart s p x).links = s.links := rfl
@[simp] theorem setPart_torus (s : State) (p : Nat) (x : PartSt) : (setPart s p x).torus = s.torus := rfl
@[simp] theorem setPart_fault (s : State) (p : Nat) (x : PartSt) : (setPart s p x).fault = s.fault := rfl
@[simp] theorem setPart_fc (s : State) (p : Nat) (x : PartSt) : (setPart s p x).fc = s.fc := rfl
@[simp] theorem setPart_rootLock (s : State) (p : Nat) (x : PartSt) : (setPart s p x).rootLock = s.rootLock := rfl
@[simp] theorem setPart_clock (s : State) (p : Nat) (x : PartSt) : (setPart s p x).clock = s.clock := rfl
@[simp] theorem setPart_handle (s : State) (p : Nat) (x : PartSt) : (setPart s p x).handle = s.handle := rfl
@[simp] theorem setPart_pert (s : State) (p : Nat) (x : PartSt) : (setPart s p x).pert = s.pert := rfl
@[simp] theorem setPart_tap (s : State) (p : Nat) (x : PartSt) : (setPart s p x).tap = s.tap := rfl
@[simp] theorem setPart_power (s : State) (p : Nat) (x : PartSt) : (setPart s p x).power = s.power := rfl
@[simp] theorem setPart_service (s : State) (p : Nat) (x : PartSt) : (setPart s p x).service = s.service := rfl
@[simp] theorem setPart_draws (s : State) (p : Nat) (x : PartSt) : (setPart s p x).draws = s.draws := rfl
@[simp] theorem setPart_out (s : State) (p : Nat) (x : PartSt) : (setPart s p x).out = s.out := rfl

@[simp] theorem getPart_setPart_same (s : State) (p : Nat) (x : PartSt) : getPart (setPart s p x) p = x := by
  simp [getPart, setPart]

theorem getPart_setPart_other (s : State) (p : Nat) (x : PartSt) (j : Nat) (h : j ≠ p) : getPart (setPart s p x) j = getPart s j := by
  exact mget_mset_apart _ _ _ _ _ _ h

/-! ### setDom -/

@[simp] theorem setDom_pending (s : State) (d : Nat) (x : DomSt) : (setDom s d x).pending = s.pending := rfl
@[simp] theorem setDom_cores (s : State) (d : Nat) (x : DomSt) : (setDom s d x).cores = s.cores := rfl
@[simp] theorem setDom_parts (s : State) (d : Nat) (x : DomSt) : (setDom s d x).parts = s.parts := rfl
@[simp] theorem setDom_convFlags (s : State) (d : Nat) (x : DomSt) : (setDom s d x).convFlags = s.convFlags := rfl
@[simp] theorem setDom_convUnits (s : State) (d : Nat) (x : DomSt) : (setDom s d x).convUnits = s.convUnits := rfl
@[simp] theorem setDom_pipeFlags (s : State) (d : Nat) (x : DomSt) : (setDom s d x).pipeFlags = s.pipeFlags := rfl
@[simp] theorem setDom_wdog (s : State) (d : Nat) (x : DomSt) : (setDom s d x).wdog = s.wdog := rfl
@[simp] theorem setDom_tiers (s : State) (d : Nat) (x : DomSt) : (setDom s d x).tiers = s.tiers := rfl
@[simp] theorem setDom_slaths (s : State) (d : Nat) (x : DomSt) : (setDom s d x).slaths = s.slaths := rfl
@[simp] theorem setDom_slots (s : State) (d : Nat) (x : DomSt) : (setDom s d x).slots = s.slots := rfl
@[simp] theorem setDom_borders (s : State) (d : Nat) (x : DomSt) : (setDom s d x).borders = s.borders := rfl
@[simp] theorem setDom_train (s : State) (d : Nat) (x : DomSt) : (setDom s d x).train = s.train := rfl
@[simp] theorem setDom_ports (s : State) (d : Nat) (x : DomSt) : (setDom s d x).ports = s.ports := rfl
@[simp] theorem setDom_fns (s : State) (d : Nat) (x : DomSt) : (setDom s d x).fns = s.fns := rfl
@[simp] theorem setDom_rings (s : State) (d : Nat) (x : DomSt) : (setDom s d x).rings = s.rings := rfl
@[simp] theorem setDom_arbs (s : State) (d : Nat) (x : DomSt) : (setDom s d x).arbs = s.arbs := rfl
@[simp] theorem setDom_links (s : State) (d : Nat) (x : DomSt) : (setDom s d x).links = s.links := rfl
@[simp] theorem setDom_torus (s : State) (d : Nat) (x : DomSt) : (setDom s d x).torus = s.torus := rfl
@[simp] theorem setDom_fault (s : State) (d : Nat) (x : DomSt) : (setDom s d x).fault = s.fault := rfl
@[simp] theorem setDom_fc (s : State) (d : Nat) (x : DomSt) : (setDom s d x).fc = s.fc := rfl
@[simp] theorem setDom_rootLock (s : State) (d : Nat) (x : DomSt) : (setDom s d x).rootLock = s.rootLock := rfl
@[simp] theorem setDom_clock (s : State) (d : Nat) (x : DomSt) : (setDom s d x).clock = s.clock := rfl
@[simp] theorem setDom_handle (s : State) (d : Nat) (x : DomSt) : (setDom s d x).handle = s.handle := rfl
@[simp] theorem setDom_pert (s : State) (d : Nat) (x : DomSt) : (setDom s d x).pert = s.pert := rfl
@[simp] theorem setDom_tap (s : State) (d : Nat) (x : DomSt) : (setDom s d x).tap = s.tap := rfl
@[simp] theorem setDom_power (s : State) (d : Nat) (x : DomSt) : (setDom s d x).power = s.power := rfl
@[simp] theorem setDom_service (s : State) (d : Nat) (x : DomSt) : (setDom s d x).service = s.service := rfl
@[simp] theorem setDom_draws (s : State) (d : Nat) (x : DomSt) : (setDom s d x).draws = s.draws := rfl
@[simp] theorem setDom_out (s : State) (d : Nat) (x : DomSt) : (setDom s d x).out = s.out := rfl

@[simp] theorem getDom_setDom_same (s : State) (d : Nat) (x : DomSt) : getDom (setDom s d x) d = x := by
  simp [getDom, setDom]

theorem getDom_setDom_other (s : State) (d : Nat) (x : DomSt) (j : Nat) (h : j ≠ d) : getDom (setDom s d x) j = getDom s j := by
  exact mget_mset_apart _ _ _ _ _ _ h

/-! ### setSlath -/

@[simp] theorem setSlath_pending (s : State) (q : Nat) (x : SlathSt) : (setSlath s q x).pending = s.pending := rfl
@[simp] theorem setSlath_cores (s : State) (q : Nat) (x : SlathSt) : (setSlath s q x).cores = s.cores := rfl
@[simp] theorem setSlath_parts (s : State) (q : Nat) (x : SlathSt) : (setSlath s q x).parts = s.parts := rfl
@[simp] theorem setSlath_convFlags (s : State) (q : Nat) (x : SlathSt) : (setSlath s q x).convFlags = s.convFlags := rfl
@[simp] theorem setSlath_convUnits (s : State) (q : Nat) (x : SlathSt) : (setSlath s q x).convUnits = s.convUnits := rfl
@[simp] theorem setSlath_pipeFlags (s : State) (q : Nat) (x : SlathSt) : (setSlath s q x).pipeFlags = s.pipeFlags := rfl
@[simp] theorem setSlath_wdog (s : State) (q : Nat) (x : SlathSt) : (setSlath s q x).wdog = s.wdog := rfl
@[simp] theorem setSlath_tiers (s : State) (q : Nat) (x : SlathSt) : (setSlath s q x).tiers = s.tiers := rfl
@[simp] theorem setSlath_doms (s : State) (q : Nat) (x : SlathSt) : (setSlath s q x).doms = s.doms := rfl
@[simp] theorem setSlath_slots (s : State) (q : Nat) (x : SlathSt) : (setSlath s q x).slots = s.slots := rfl
@[simp] theorem setSlath_borders (s : State) (q : Nat) (x : SlathSt) : (setSlath s q x).borders = s.borders := rfl
@[simp] theorem setSlath_train (s : State) (q : Nat) (x : SlathSt) : (setSlath s q x).train = s.train := rfl
@[simp] theorem setSlath_ports (s : State) (q : Nat) (x : SlathSt) : (setSlath s q x).ports = s.ports := rfl
@[simp] theorem setSlath_fns (s : State) (q : Nat) (x : SlathSt) : (setSlath s q x).fns = s.fns := rfl
@[simp] theorem setSlath_rings (s : State) (q : Nat) (x : SlathSt) : (setSlath s q x).rings = s.rings := rfl
@[simp] theorem setSlath_arbs (s : State) (q : Nat) (x : SlathSt) : (setSlath s q x).arbs = s.arbs := rfl
@[simp] theorem setSlath_links (s : State) (q : Nat) (x : SlathSt) : (setSlath s q x).links = s.links := rfl
@[simp] theorem setSlath_torus (s : State) (q : Nat) (x : SlathSt) : (setSlath s q x).torus = s.torus := rfl
@[simp] theorem setSlath_fault (s : State) (q : Nat) (x : SlathSt) : (setSlath s q x).fault = s.fault := rfl
@[simp] theorem setSlath_fc (s : State) (q : Nat) (x : SlathSt) : (setSlath s q x).fc = s.fc := rfl
@[simp] theorem setSlath_rootLock (s : State) (q : Nat) (x : SlathSt) : (setSlath s q x).rootLock = s.rootLock := rfl
@[simp] theorem setSlath_clock (s : State) (q : Nat) (x : SlathSt) : (setSlath s q x).clock = s.clock := rfl
@[simp] theorem setSlath_handle (s : State) (q : Nat) (x : SlathSt) : (setSlath s q x).handle = s.handle := rfl
@[simp] theorem setSlath_pert (s : State) (q : Nat) (x : SlathSt) : (setSlath s q x).pert = s.pert := rfl
@[simp] theorem setSlath_tap (s : State) (q : Nat) (x : SlathSt) : (setSlath s q x).tap = s.tap := rfl
@[simp] theorem setSlath_power (s : State) (q : Nat) (x : SlathSt) : (setSlath s q x).power = s.power := rfl
@[simp] theorem setSlath_service (s : State) (q : Nat) (x : SlathSt) : (setSlath s q x).service = s.service := rfl
@[simp] theorem setSlath_draws (s : State) (q : Nat) (x : SlathSt) : (setSlath s q x).draws = s.draws := rfl
@[simp] theorem setSlath_out (s : State) (q : Nat) (x : SlathSt) : (setSlath s q x).out = s.out := rfl

@[simp] theorem getSlath_setSlath_same (s : State) (q : Nat) (x : SlathSt) : getSlath (setSlath s q x) q = x := by
  simp [getSlath, setSlath]

theorem getSlath_setSlath_other (s : State) (q : Nat) (x : SlathSt) (j : Nat) (h : j ≠ q) : getSlath (setSlath s q x) j = getSlath s j := by
  exact mget_mset_apart _ _ _ _ _ _ h

/-! ### setSlot -/

@[simp] theorem setSlot_pending (s : State) (n : Nat) (x : SlotSt) : (setSlot s n x).pending = s.pending := rfl
@[simp] theorem setSlot_cores (s : State) (n : Nat) (x : SlotSt) : (setSlot s n x).cores = s.cores := rfl
@[simp] theorem setSlot_parts (s : State) (n : Nat) (x : SlotSt) : (setSlot s n x).parts = s.parts := rfl
@[simp] theorem setSlot_convFlags (s : State) (n : Nat) (x : SlotSt) : (setSlot s n x).convFlags = s.convFlags := rfl
@[simp] theorem setSlot_convUnits (s : State) (n : Nat) (x : SlotSt) : (setSlot s n x).convUnits = s.convUnits := rfl
@[simp] theorem setSlot_pipeFlags (s : State) (n : Nat) (x : SlotSt) : (setSlot s n x).pipeFlags = s.pipeFlags := rfl
@[simp] theorem setSlot_wdog (s : State) (n : Nat) (x : SlotSt) : (setSlot s n x).wdog = s.wdog := rfl
@[simp] theorem setSlot_tiers (s : State) (n : Nat) (x : SlotSt) : (setSlot s n x).tiers = s.tiers := rfl
@[simp] theorem setSlot_doms (s : State) (n : Nat) (x : SlotSt) : (setSlot s n x).doms = s.doms := rfl
@[simp] theorem setSlot_slaths (s : State) (n : Nat) (x : SlotSt) : (setSlot s n x).slaths = s.slaths := rfl
@[simp] theorem setSlot_borders (s : State) (n : Nat) (x : SlotSt) : (setSlot s n x).borders = s.borders := rfl
@[simp] theorem setSlot_train (s : State) (n : Nat) (x : SlotSt) : (setSlot s n x).train = s.train := rfl
@[simp] theorem setSlot_ports (s : State) (n : Nat) (x : SlotSt) : (setSlot s n x).ports = s.ports := rfl
@[simp] theorem setSlot_fns (s : State) (n : Nat) (x : SlotSt) : (setSlot s n x).fns = s.fns := rfl
@[simp] theorem setSlot_rings (s : State) (n : Nat) (x : SlotSt) : (setSlot s n x).rings = s.rings := rfl
@[simp] theorem setSlot_arbs (s : State) (n : Nat) (x : SlotSt) : (setSlot s n x).arbs = s.arbs := rfl
@[simp] theorem setSlot_links (s : State) (n : Nat) (x : SlotSt) : (setSlot s n x).links = s.links := rfl
@[simp] theorem setSlot_torus (s : State) (n : Nat) (x : SlotSt) : (setSlot s n x).torus = s.torus := rfl
@[simp] theorem setSlot_fault (s : State) (n : Nat) (x : SlotSt) : (setSlot s n x).fault = s.fault := rfl
@[simp] theorem setSlot_fc (s : State) (n : Nat) (x : SlotSt) : (setSlot s n x).fc = s.fc := rfl
@[simp] theorem setSlot_rootLock (s : State) (n : Nat) (x : SlotSt) : (setSlot s n x).rootLock = s.rootLock := rfl
@[simp] theorem setSlot_clock (s : State) (n : Nat) (x : SlotSt) : (setSlot s n x).clock = s.clock := rfl
@[simp] theorem setSlot_handle (s : State) (n : Nat) (x : SlotSt) : (setSlot s n x).handle = s.handle := rfl
@[simp] theorem setSlot_pert (s : State) (n : Nat) (x : SlotSt) : (setSlot s n x).pert = s.pert := rfl
@[simp] theorem setSlot_tap (s : State) (n : Nat) (x : SlotSt) : (setSlot s n x).tap = s.tap := rfl
@[simp] theorem setSlot_power (s : State) (n : Nat) (x : SlotSt) : (setSlot s n x).power = s.power := rfl
@[simp] theorem setSlot_service (s : State) (n : Nat) (x : SlotSt) : (setSlot s n x).service = s.service := rfl
@[simp] theorem setSlot_draws (s : State) (n : Nat) (x : SlotSt) : (setSlot s n x).draws = s.draws := rfl
@[simp] theorem setSlot_out (s : State) (n : Nat) (x : SlotSt) : (setSlot s n x).out = s.out := rfl

@[simp] theorem getSlot_setSlot_same (s : State) (n : Nat) (x : SlotSt) : getSlot (setSlot s n x) n = x := by
  simp [getSlot, setSlot]

theorem getSlot_setSlot_other (s : State) (n : Nat) (x : SlotSt) (j : Nat) (h : j ≠ n) : getSlot (setSlot s n x) j = getSlot s j := by
  exact mget_mset_apart _ _ _ _ _ _ h

/-! ### updSlot -/

@[simp] theorem updSlot_pending (s : State) (n : Nat) (g : SlotSt → SlotSt) : (updSlot s n g).pending = s.pending := rfl
@[simp] theorem updSlot_cores (s : State) (n : Nat) (g : SlotSt → SlotSt) : (updSlot s n g).cores = s.cores := rfl
@[simp] theorem updSlot_parts (s : State) (n : Nat) (g : SlotSt → SlotSt) : (updSlot s n g).parts = s.parts := rfl
@[simp] theorem updSlot_convFlags (s : State) (n : Nat) (g : SlotSt → SlotSt) : (updSlot s n g).convFlags = s.convFlags := rfl
@[simp] theorem updSlot_convUnits (s : State) (n : Nat) (g : SlotSt → SlotSt) : (updSlot s n g).convUnits = s.convUnits := rfl
@[simp] theorem updSlot_pipeFlags (s : State) (n : Nat) (g : SlotSt → SlotSt) : (updSlot s n g).pipeFlags = s.pipeFlags := rfl
@[simp] theorem updSlot_wdog (s : State) (n : Nat) (g : SlotSt → SlotSt) : (updSlot s n g).wdog = s.wdog := rfl
@[simp] theorem updSlot_tiers (s : State) (n : Nat) (g : SlotSt → SlotSt) : (updSlot s n g).tiers = s.tiers := rfl
@[simp] theorem updSlot_doms (s : State) (n : Nat) (g : SlotSt → SlotSt) : (updSlot s n g).doms = s.doms := rfl
@[simp] theorem updSlot_slaths (s : State) (n : Nat) (g : SlotSt → SlotSt) : (updSlot s n g).slaths = s.slaths := rfl
@[simp] theorem updSlot_borders (s : State) (n : Nat) (g : SlotSt → SlotSt) : (updSlot s n g).borders = s.borders := rfl
@[simp] theorem updSlot_train (s : State) (n : Nat) (g : SlotSt → SlotSt) : (updSlot s n g).train = s.train := rfl
@[simp] theorem updSlot_ports (s : State) (n : Nat) (g : SlotSt → SlotSt) : (updSlot s n g).ports = s.ports := rfl
@[simp] theorem updSlot_fns (s : State) (n : Nat) (g : SlotSt → SlotSt) : (updSlot s n g).fns = s.fns := rfl
@[simp] theorem updSlot_rings (s : State) (n : Nat) (g : SlotSt → SlotSt) : (updSlot s n g).rings = s.rings := rfl
@[simp] theorem updSlot_arbs (s : State) (n : Nat) (g : SlotSt → SlotSt) : (updSlot s n g).arbs = s.arbs := rfl
@[simp] theorem updSlot_links (s : State) (n : Nat) (g : SlotSt → SlotSt) : (updSlot s n g).links = s.links := rfl
@[simp] theorem updSlot_torus (s : State) (n : Nat) (g : SlotSt → SlotSt) : (updSlot s n g).torus = s.torus := rfl
@[simp] theorem updSlot_fault (s : State) (n : Nat) (g : SlotSt → SlotSt) : (updSlot s n g).fault = s.fault := rfl
@[simp] theorem updSlot_fc (s : State) (n : Nat) (g : SlotSt → SlotSt) : (updSlot s n g).fc = s.fc := rfl
@[simp] theorem updSlot_rootLock (s : State) (n : Nat) (g : SlotSt → SlotSt) : (updSlot s n g).rootLock = s.rootLock := rfl
@[simp] theorem updSlot_clock (s : State) (n : Nat) (g : SlotSt → SlotSt) : (updSlot s n g).clock = s.clock := rfl
@[simp] theorem updSlot_handle (s : State) (n : Nat) (g : SlotSt → SlotSt) : (updSlot s n g).handle = s.handle := rfl
@[simp] theorem updSlot_pert (s : State) (n : Nat) (g : SlotSt → SlotSt) : (updSlot s n g).pert = s.pert := rfl
@[simp] theorem updSlot_tap (s : State) (n : Nat) (g : SlotSt → SlotSt) : (updSlot s n g).tap = s.tap := rfl
@[simp] theorem updSlot_power (s : State) (n : Nat) (g : SlotSt → SlotSt) : (updSlot s n g).power = s.power := rfl
@[simp] theorem updSlot_service (s : State) (n : Nat) (g : SlotSt → SlotSt) : (updSlot s n g).service = s.service := rfl
@[simp] theorem updSlot_draws (s : State) (n : Nat) (g : SlotSt → SlotSt) : (updSlot s n g).draws = s.draws := rfl
@[simp] theorem updSlot_out (s : State) (n : Nat) (g : SlotSt → SlotSt) : (updSlot s n g).out = s.out := rfl

/-! ### setBorder -/

@[simp] theorem setBorder_pending (s : State) (m : Nat) (x : BorderSt) : (setBorder s m x).pending = s.pending := rfl
@[simp] theorem setBorder_cores (s : State) (m : Nat) (x : BorderSt) : (setBorder s m x).cores = s.cores := rfl
@[simp] theorem setBorder_parts (s : State) (m : Nat) (x : BorderSt) : (setBorder s m x).parts = s.parts := rfl
@[simp] theorem setBorder_convFlags (s : State) (m : Nat) (x : BorderSt) : (setBorder s m x).convFlags = s.convFlags := rfl
@[simp] theorem setBorder_convUnits (s : State) (m : Nat) (x : BorderSt) : (setBorder s m x).convUnits = s.convUnits := rfl
@[simp] theorem setBorder_pipeFlags (s : State) (m : Nat) (x : BorderSt) : (setBorder s m x).pipeFlags = s.pipeFlags := rfl
@[simp] theorem setBorder_wdog (s : State) (m : Nat) (x : BorderSt) : (setBorder s m x).wdog = s.wdog := rfl
@[simp] theorem setBorder_tiers (s : State) (m : Nat) (x : BorderSt) : (setBorder s m x).tiers = s.tiers := rfl
@[simp] theorem setBorder_doms (s : State) (m : Nat) (x : BorderSt) : (setBorder s m x).doms = s.doms := rfl
@[simp] theorem setBorder_slaths (s : State) (m : Nat) (x : BorderSt) : (setBorder s m x).slaths = s.slaths := rfl
@[simp] theorem setBorder_slots (s : State) (m : Nat) (x : BorderSt) : (setBorder s m x).slots = s.slots := rfl
@[simp] theorem setBorder_train (s : State) (m : Nat) (x : BorderSt) : (setBorder s m x).train = s.train := rfl
@[simp] theorem setBorder_ports (s : State) (m : Nat) (x : BorderSt) : (setBorder s m x).ports = s.ports := rfl
@[simp] theorem setBorder_fns (s : State) (m : Nat) (x : BorderSt) : (setBorder s m x).fns = s.fns := rfl
@[simp] theorem setBorder_rings (s : State) (m : Nat) (x : BorderSt) : (setBorder s m x).rings = s.rings := rfl
@[simp] theorem setBorder_arbs (s : State) (m : Nat) (x : BorderSt) : (setBorder s m x).arbs = s.arbs := rfl
@[simp] theorem setBorder_links (s : State) (m : Nat) (x : BorderSt) : (setBorder s m x).links = s.links := rfl
@[simp] theorem setBorder_torus (s : State) (m : Nat) (x : BorderSt) : (setBorder s m x).torus = s.torus := rfl
@[simp] theorem setBorder_fault (s : State) (m : Nat) (x : BorderSt) : (setBorder s m x).fault = s.fault := rfl
@[simp] theorem setBorder_fc (s : State) (m : Nat) (x : BorderSt) : (setBorder s m x).fc = s.fc := rfl
@[simp] theorem setBorder_rootLock (s : State) (m : Nat) (x : BorderSt) : (setBorder s m x).rootLock = s.rootLock := rfl
@[simp] theorem setBorder_clock (s : State) (m : Nat) (x : BorderSt) : (setBorder s m x).clock = s.clock := rfl
@[simp] theorem setBorder_handle (s : State) (m : Nat) (x : BorderSt) : (setBorder s m x).handle = s.handle := rfl
@[simp] theorem setBorder_pert (s : State) (m : Nat) (x : BorderSt) : (setBorder s m x).pert = s.pert := rfl
@[simp] theorem setBorder_tap (s : State) (m : Nat) (x : BorderSt) : (setBorder s m x).tap = s.tap := rfl
@[simp] theorem setBorder_power (s : State) (m : Nat) (x : BorderSt) : (setBorder s m x).power = s.power := rfl
@[simp] theorem setBorder_service (s : State) (m : Nat) (x : BorderSt) : (setBorder s m x).service = s.service := rfl
@[simp] theorem setBorder_draws (s : State) (m : Nat) (x : BorderSt) : (setBorder s m x).draws = s.draws := rfl
@[simp] theorem setBorder_out (s : State) (m : Nat) (x : BorderSt) : (setBorder s m x).out = s.out := rfl

@[simp] theorem getBorder_setBorder_same (s : State) (m : Nat) (x : BorderSt) : getBorder (setBorder s m x) m = x := by
  simp [getBorder, setBorder]

theorem getBorder_setBorder_other (s : State) (m : Nat) (x : BorderSt) (j : Nat) (h : j ≠ m) : getBorder (setBorder s m x) j = getBorder s j := by
  exact mget_mset_apart _ _ _ _ _ _ h

/-! ### setPort -/

@[simp] theorem setPort_pending (s : State) (p : Nat) (x : HostPort) : (setPort s p x).pending = s.pending := rfl
@[simp] theorem setPort_cores (s : State) (p : Nat) (x : HostPort) : (setPort s p x).cores = s.cores := rfl
@[simp] theorem setPort_parts (s : State) (p : Nat) (x : HostPort) : (setPort s p x).parts = s.parts := rfl
@[simp] theorem setPort_convFlags (s : State) (p : Nat) (x : HostPort) : (setPort s p x).convFlags = s.convFlags := rfl
@[simp] theorem setPort_convUnits (s : State) (p : Nat) (x : HostPort) : (setPort s p x).convUnits = s.convUnits := rfl
@[simp] theorem setPort_pipeFlags (s : State) (p : Nat) (x : HostPort) : (setPort s p x).pipeFlags = s.pipeFlags := rfl
@[simp] theorem setPort_wdog (s : State) (p : Nat) (x : HostPort) : (setPort s p x).wdog = s.wdog := rfl
@[simp] theorem setPort_tiers (s : State) (p : Nat) (x : HostPort) : (setPort s p x).tiers = s.tiers := rfl
@[simp] theorem setPort_doms (s : State) (p : Nat) (x : HostPort) : (setPort s p x).doms = s.doms := rfl
@[simp] theorem setPort_slaths (s : State) (p : Nat) (x : HostPort) : (setPort s p x).slaths = s.slaths := rfl
@[simp] theorem setPort_slots (s : State) (p : Nat) (x : HostPort) : (setPort s p x).slots = s.slots := rfl
@[simp] theorem setPort_borders (s : State) (p : Nat) (x : HostPort) : (setPort s p x).borders = s.borders := rfl
@[simp] theorem setPort_train (s : State) (p : Nat) (x : HostPort) : (setPort s p x).train = s.train := rfl
@[simp] theorem setPort_fns (s : State) (p : Nat) (x : HostPort) : (setPort s p x).fns = s.fns := rfl
@[simp] theorem setPort_rings (s : State) (p : Nat) (x : HostPort) : (setPort s p x).rings = s.rings := rfl
@[simp] theorem setPort_arbs (s : State) (p : Nat) (x : HostPort) : (setPort s p x).arbs = s.arbs := rfl
@[simp] theorem setPort_links (s : State) (p : Nat) (x : HostPort) : (setPort s p x).links = s.links := rfl
@[simp] theorem setPort_torus (s : State) (p : Nat) (x : HostPort) : (setPort s p x).torus = s.torus := rfl
@[simp] theorem setPort_fault (s : State) (p : Nat) (x : HostPort) : (setPort s p x).fault = s.fault := rfl
@[simp] theorem setPort_fc (s : State) (p : Nat) (x : HostPort) : (setPort s p x).fc = s.fc := rfl
@[simp] theorem setPort_rootLock (s : State) (p : Nat) (x : HostPort) : (setPort s p x).rootLock = s.rootLock := rfl
@[simp] theorem setPort_clock (s : State) (p : Nat) (x : HostPort) : (setPort s p x).clock = s.clock := rfl
@[simp] theorem setPort_handle (s : State) (p : Nat) (x : HostPort) : (setPort s p x).handle = s.handle := rfl
@[simp] theorem setPort_pert (s : State) (p : Nat) (x : HostPort) : (setPort s p x).pert = s.pert := rfl
@[simp] theorem setPort_tap (s : State) (p : Nat) (x : HostPort) : (setPort s p x).tap = s.tap := rfl
@[simp] theorem setPort_power (s : State) (p : Nat) (x : HostPort) : (setPort s p x).power = s.power := rfl
@[simp] theorem setPort_service (s : State) (p : Nat) (x : HostPort) : (setPort s p x).service = s.service := rfl
@[simp] theorem setPort_draws (s : State) (p : Nat) (x : HostPort) : (setPort s p x).draws = s.draws := rfl
@[simp] theorem setPort_out (s : State) (p : Nat) (x : HostPort) : (setPort s p x).out = s.out := rfl

@[simp] theorem getPort_setPort_same (s : State) (p : Nat) (x : HostPort) : getPort (setPort s p x) p = x := by
  simp [getPort, setPort]

theorem getPort_setPort_other (s : State) (p : Nat) (x : HostPort) (j : Nat) (h : j ≠ p) : getPort (setPort s p x) j = getPort s j := by
  exact mget_mset_apart _ _ _ _ _ _ h

/-! ### setFn -/

@[simp] theorem setFn_pending (s : State) (k : Nat) (x : FnSt) : (setFn s k x).pending = s.pending := rfl
@[simp] theorem setFn_cores (s : State) (k : Nat) (x : FnSt) : (setFn s k x).cores = s.cores := rfl
@[simp] theorem setFn_parts (s : State) (k : Nat) (x : FnSt) : (setFn s k x).parts = s.parts := rfl
@[simp] theorem setFn_convFlags (s : State) (k : Nat) (x : FnSt) : (setFn s k x).convFlags = s.convFlags := rfl
@[simp] theorem setFn_convUnits (s : State) (k : Nat) (x : FnSt) : (setFn s k x).convUnits = s.convUnits := rfl
@[simp] theorem setFn_pipeFlags (s : State) (k : Nat) (x : FnSt) : (setFn s k x).pipeFlags = s.pipeFlags := rfl
@[simp] theorem setFn_wdog (s : State) (k : Nat) (x : FnSt) : (setFn s k x).wdog = s.wdog := rfl
@[simp] theorem setFn_tiers (s : State) (k : Nat) (x : FnSt) : (setFn s k x).tiers = s.tiers := rfl
@[simp] theorem setFn_doms (s : State) (k : Nat) (x : FnSt) : (setFn s k x).doms = s.doms := rfl
@[simp] theorem setFn_slaths (s : State) (k : Nat) (x : FnSt) : (setFn s k x).slaths = s.slaths := rfl
@[simp] theorem setFn_slots (s : State) (k : Nat) (x : FnSt) : (setFn s k x).slots = s.slots := rfl
@[simp] theorem setFn_borders (s : State) (k : Nat) (x : FnSt) : (setFn s k x).borders = s.borders := rfl
@[simp] theorem setFn_train (s : State) (k : Nat) (x : FnSt) : (setFn s k x).train = s.train := rfl
@[simp] theorem setFn_ports (s : State) (k : Nat) (x : FnSt) : (setFn s k x).ports = s.ports := rfl
@[simp] theorem setFn_rings (s : State) (k : Nat) (x : FnSt) : (setFn s k x).rings = s.rings := rfl
@[simp] theorem setFn_arbs (s : State) (k : Nat) (x : FnSt) : (setFn s k x).arbs = s.arbs := rfl
@[simp] theorem setFn_links (s : State) (k : Nat) (x : FnSt) : (setFn s k x).links = s.links := rfl
@[simp] theorem setFn_torus (s : State) (k : Nat) (x : FnSt) : (setFn s k x).torus = s.torus := rfl
@[simp] theorem setFn_fault (s : State) (k : Nat) (x : FnSt) : (setFn s k x).fault = s.fault := rfl
@[simp] theorem setFn_fc (s : State) (k : Nat) (x : FnSt) : (setFn s k x).fc = s.fc := rfl
@[simp] theorem setFn_rootLock (s : State) (k : Nat) (x : FnSt) : (setFn s k x).rootLock = s.rootLock := rfl
@[simp] theorem setFn_clock (s : State) (k : Nat) (x : FnSt) : (setFn s k x).clock = s.clock := rfl
@[simp] theorem setFn_handle (s : State) (k : Nat) (x : FnSt) : (setFn s k x).handle = s.handle := rfl
@[simp] theorem setFn_pert (s : State) (k : Nat) (x : FnSt) : (setFn s k x).pert = s.pert := rfl
@[simp] theorem setFn_tap (s : State) (k : Nat) (x : FnSt) : (setFn s k x).tap = s.tap := rfl
@[simp] theorem setFn_power (s : State) (k : Nat) (x : FnSt) : (setFn s k x).power = s.power := rfl
@[simp] theorem setFn_service (s : State) (k : Nat) (x : FnSt) : (setFn s k x).service = s.service := rfl
@[simp] theorem setFn_draws (s : State) (k : Nat) (x : FnSt) : (setFn s k x).draws = s.draws := rfl
@[simp] theorem setFn_out (s : State) (k : Nat) (x : FnSt) : (setFn s k x).out = s.out := rfl

@[simp] theorem getFn_setFn_same (s : State) (k : Nat) (x : FnSt) : getFn (setFn s k x) k = x := by
  simp [getFn, setFn]

theorem getFn_setFn_other (s : State) (k : Nat) (x : FnSt) (j : Nat) (h : j ≠ k) : getFn (setFn s k x) j = getFn s j := by
  exact mget_mset_apart _ _ _ _ _ _ h

/-! ### updFn -/

@[simp] theorem updFn_pending (s : State) (k : Nat) (g : FnSt → FnSt) : (updFn s k g).pending = s.pending := rfl
@[simp] theorem updFn_cores (s : State) (k : Nat) (g : FnSt → FnSt) : (updFn s k g).cores = s.cores := rfl
@[simp] theorem updFn_parts (s : State) (k : Nat) (g : FnSt → FnSt) : (updFn s k g).parts = s.parts := rfl
@[simp] theorem updFn_convFlags (s : State) (k : Nat) (g : FnSt → FnSt) : (updFn s k g).convFlags = s.convFlags := rfl
@[simp] theorem updFn_convUnits (s : State) (k : Nat) (g : FnSt → FnSt) : (updFn s k g).convUnits = s.convUnits := rfl
@[simp] theorem updFn_pipeFlags (s : State) (k : Nat) (g : FnSt → FnSt) : (updFn s k g).pipeFlags = s.pipeFlags := rfl
@[simp] theorem updFn_wdog (s : State) (k : Nat) (g : FnSt → FnSt) : (updFn s k g).wdog = s.wdog := rfl
@[simp] theorem updFn_tiers (s : State) (k : Nat) (g : FnSt → FnSt) : (updFn s k g).tiers = s.tiers := rfl
@[simp] theorem updFn_doms (s : State) (k : Nat) (g : FnSt → FnSt) : (updFn s k g).doms = s.doms := rfl
@[simp] theorem updFn_slaths (s : State) (k : Nat) (g : FnSt → FnSt) : (updFn s k g).slaths = s.slaths := rfl
@[simp] theorem updFn_slots (s : State) (k : Nat) (g : FnSt → FnSt) : (updFn s k g).slots = s.slots := rfl
@[simp] theorem updFn_borders (s : State) (k : Nat) (g : FnSt → FnSt) : (updFn s k g).borders = s.borders := rfl
@[simp] theorem updFn_train (s : State) (k : Nat) (g : FnSt → FnSt) : (updFn s k g).train = s.train := rfl
@[simp] theorem updFn_ports (s : State) (k : Nat) (g : FnSt → FnSt) : (updFn s k g).ports = s.ports := rfl
@[simp] theorem updFn_rings (s : State) (k : Nat) (g : FnSt → FnSt) : (updFn s k g).rings = s.rings := rfl
@[simp] theorem updFn_arbs (s : State) (k : Nat) (g : FnSt → FnSt) : (updFn s k g).arbs = s.arbs := rfl
@[simp] theorem updFn_links (s : State) (k : Nat) (g : FnSt → FnSt) : (updFn s k g).links = s.links := rfl
@[simp] theorem updFn_torus (s : State) (k : Nat) (g : FnSt → FnSt) : (updFn s k g).torus = s.torus := rfl
@[simp] theorem updFn_fault (s : State) (k : Nat) (g : FnSt → FnSt) : (updFn s k g).fault = s.fault := rfl
@[simp] theorem updFn_fc (s : State) (k : Nat) (g : FnSt → FnSt) : (updFn s k g).fc = s.fc := rfl
@[simp] theorem updFn_rootLock (s : State) (k : Nat) (g : FnSt → FnSt) : (updFn s k g).rootLock = s.rootLock := rfl
@[simp] theorem updFn_clock (s : State) (k : Nat) (g : FnSt → FnSt) : (updFn s k g).clock = s.clock := rfl
@[simp] theorem updFn_handle (s : State) (k : Nat) (g : FnSt → FnSt) : (updFn s k g).handle = s.handle := rfl
@[simp] theorem updFn_pert (s : State) (k : Nat) (g : FnSt → FnSt) : (updFn s k g).pert = s.pert := rfl
@[simp] theorem updFn_tap (s : State) (k : Nat) (g : FnSt → FnSt) : (updFn s k g).tap = s.tap := rfl
@[simp] theorem updFn_power (s : State) (k : Nat) (g : FnSt → FnSt) : (updFn s k g).power = s.power := rfl
@[simp] theorem updFn_service (s : State) (k : Nat) (g : FnSt → FnSt) : (updFn s k g).service = s.service := rfl
@[simp] theorem updFn_draws (s : State) (k : Nat) (g : FnSt → FnSt) : (updFn s k g).draws = s.draws := rfl
@[simp] theorem updFn_out (s : State) (k : Nat) (g : FnSt → FnSt) : (updFn s k g).out = s.out := rfl

/-! ### setRing -/

@[simp] theorem setRing_pending (s : State) (r : Nat) (x : RingSt) : (setRing s r x).pending = s.pending := rfl
@[simp] theorem setRing_cores (s : State) (r : Nat) (x : RingSt) : (setRing s r x).cores = s.cores := rfl
@[simp] theorem setRing_parts (s : State) (r : Nat) (x : RingSt) : (setRing s r x).parts = s.parts := rfl
@[simp] theorem setRing_convFlags (s : State) (r : Nat) (x : RingSt) : (setRing s r x).convFlags = s.convFlags := rfl
@[simp] theorem setRing_convUnits (s : State) (r : Nat) (x : RingSt) : (setRing s r x).convUnits = s.convUnits := rfl
@[simp] theorem setRing_pipeFlags (s : State) (r : Nat) (x : RingSt) : (setRing s r x).pipeFlags = s.pipeFlags := rfl
@[simp] theorem setRing_wdog (s : State) (r : Nat) (x : RingSt) : (setRing s r x).wdog = s.wdog := rfl
@[simp] theorem setRing_tiers (s : State) (r : Nat) (x : RingSt) : (setRing s r x).tiers = s.tiers := rfl
@[simp] theorem setRing_doms (s : State) (r : Nat) (x : RingSt) : (setRing s r x).doms = s.doms := rfl
@[simp] theorem setRing_slaths (s : State) (r : Nat) (x : RingSt) : (setRing s r x).slaths = s.slaths := rfl
@[simp] theorem setRing_slots (s : State) (r : Nat) (x : RingSt) : (setRing s r x).slots = s.slots := rfl
@[simp] theorem setRing_borders (s : State) (r : Nat) (x : RingSt) : (setRing s r x).borders = s.borders := rfl
@[simp] theorem setRing_train (s : State) (r : Nat) (x : RingSt) : (setRing s r x).train = s.train := rfl
@[simp] theorem setRing_ports (s : State) (r : Nat) (x : RingSt) : (setRing s r x).ports = s.ports := rfl
@[simp] theorem setRing_fns (s : State) (r : Nat) (x : RingSt) : (setRing s r x).fns = s.fns := rfl
@[simp] theorem setRing_arbs (s : State) (r : Nat) (x : RingSt) : (setRing s r x).arbs = s.arbs := rfl
@[simp] theorem setRing_links (s : State) (r : Nat) (x : RingSt) : (setRing s r x).links = s.links := rfl
@[simp] theorem setRing_torus (s : State) (r : Nat) (x : RingSt) : (setRing s r x).torus = s.torus := rfl
@[simp] theorem setRing_fault (s : State) (r : Nat) (x : RingSt) : (setRing s r x).fault = s.fault := rfl
@[simp] theorem setRing_fc (s : State) (r : Nat) (x : RingSt) : (setRing s r x).fc = s.fc := rfl
@[simp] theorem setRing_rootLock (s : State) (r : Nat) (x : RingSt) : (setRing s r x).rootLock = s.rootLock := rfl
@[simp] theorem setRing_clock (s : State) (r : Nat) (x : RingSt) : (setRing s r x).clock = s.clock := rfl
@[simp] theorem setRing_handle (s : State) (r : Nat) (x : RingSt) : (setRing s r x).handle = s.handle := rfl
@[simp] theorem setRing_pert (s : State) (r : Nat) (x : RingSt) : (setRing s r x).pert = s.pert := rfl
@[simp] theorem setRing_tap (s : State) (r : Nat) (x : RingSt) : (setRing s r x).tap = s.tap := rfl
@[simp] theorem setRing_power (s : State) (r : Nat) (x : RingSt) : (setRing s r x).power = s.power := rfl
@[simp] theorem setRing_service (s : State) (r : Nat) (x : RingSt) : (setRing s r x).service = s.service := rfl
@[simp] theorem setRing_draws (s : State) (r : Nat) (x : RingSt) : (setRing s r x).draws = s.draws := rfl
@[simp] theorem setRing_out (s : State) (r : Nat) (x : RingSt) : (setRing s r x).out = s.out := rfl

@[simp] theorem getRing_setRing_same (s : State) (r : Nat) (x : RingSt) : getRing (setRing s r x) r = x := by
  simp [getRing, setRing]

theorem getRing_setRing_other (s : State) (r : Nat) (x : RingSt) (j : Nat) (h : j ≠ r) : getRing (setRing s r x) j = getRing s j := by
  exact mget_mset_apart _ _ _ _ _ _ h

/-! ### updRing -/

@[simp] theorem updRing_pending (s : State) (r : Nat) (g : RingSt → RingSt) : (updRing s r g).pending = s.pending := rfl
@[simp] theorem updRing_cores (s : State) (r : Nat) (g : RingSt → RingSt) : (updRing s r g).cores = s.cores := rfl
@[simp] theorem updRing_parts (s : State) (r : Nat) (g : RingSt → RingSt) : (updRing s r g).parts = s.parts := rfl
@[simp] theorem updRing_convFlags (s : State) (r : Nat) (g : RingSt → RingSt) : (updRing s r g).convFlags = s.convFlags := rfl
@[simp] theorem updRing_convUnits (s : State) (r : Nat) (g : RingSt → RingSt) : (updRing s r g).convUnits = s.convUnits := rfl
@[simp] theorem updRing_pipeFlags (s : State) (r : Nat) (g : RingSt → RingSt) : (updRing s r g).pipeFlags = s.pipeFlags := rfl
@[simp] theorem updRing_wdog (s : State) (r : Nat) (g : RingSt → RingSt) : (updRing s r g).wdog = s.wdog := rfl
@[simp] theorem updRing_tiers (s : State) (r : Nat) (g : RingSt → RingSt) : (updRing s r g).tiers = s.tiers := rfl
@[simp] theorem updRing_doms (s : State) (r : Nat) (g : RingSt → RingSt) : (updRing s r g).doms = s.doms := rfl
@[simp] theorem updRing_slaths (s : State) (r : Nat) (g : RingSt → RingSt) : (updRing s r g).slaths = s.slaths := rfl
@[simp] theorem updRing_slots (s : State) (r : Nat) (g : RingSt → RingSt) : (updRing s r g).slots = s.slots := rfl
@[simp] theorem updRing_borders (s : State) (r : Nat) (g : RingSt → RingSt) : (updRing s r g).borders = s.borders := rfl
@[simp] theorem updRing_train (s : State) (r : Nat) (g : RingSt → RingSt) : (updRing s r g).train = s.train := rfl
@[simp] theorem updRing_ports (s : State) (r : Nat) (g : RingSt → RingSt) : (updRing s r g).ports = s.ports := rfl
@[simp] theorem updRing_fns (s : State) (r : Nat) (g : RingSt → RingSt) : (updRing s r g).fns = s.fns := rfl
@[simp] theorem updRing_arbs (s : State) (r : Nat) (g : RingSt → RingSt) : (updRing s r g).arbs = s.arbs := rfl
@[simp] theorem updRing_links (s : State) (r : Nat) (g : RingSt → RingSt) : (updRing s r g).links = s.links := rfl
@[simp] theorem updRing_torus (s : State) (r : Nat) (g : RingSt → RingSt) : (updRing s r g).torus = s.torus := rfl
@[simp] theorem updRing_fault (s : State) (r : Nat) (g : RingSt → RingSt) : (updRing s r g).fault = s.fault := rfl
@[simp] theorem updRing_fc (s : State) (r : Nat) (g : RingSt → RingSt) : (updRing s r g).fc = s.fc := rfl
@[simp] theorem updRing_rootLock (s : State) (r : Nat) (g : RingSt → RingSt) : (updRing s r g).rootLock = s.rootLock := rfl
@[simp] theorem updRing_clock (s : State) (r : Nat) (g : RingSt → RingSt) : (updRing s r g).clock = s.clock := rfl
@[simp] theorem updRing_handle (s : State) (r : Nat) (g : RingSt → RingSt) : (updRing s r g).handle = s.handle := rfl
@[simp] theorem updRing_pert (s : State) (r : Nat) (g : RingSt → RingSt) : (updRing s r g).pert = s.pert := rfl
@[simp] theorem updRing_tap (s : State) (r : Nat) (g : RingSt → RingSt) : (updRing s r g).tap = s.tap := rfl
@[simp] theorem updRing_power (s : State) (r : Nat) (g : RingSt → RingSt) : (updRing s r g).power = s.power := rfl
@[simp] theorem updRing_service (s : State) (r : Nat) (g : RingSt → RingSt) : (updRing s r g).service = s.service := rfl
@[simp] theorem updRing_draws (s : State) (r : Nat) (g : RingSt → RingSt) : (updRing s r g).draws = s.draws := rfl
@[simp] theorem updRing_out (s : State) (r : Nat) (g : RingSt → RingSt) : (updRing s r g).out = s.out := rfl

/-! ### setArb -/

@[simp] theorem setArb_pending (s : State) (k : Nat) (x : ArbSt) : (setArb s k x).pending = s.pending := rfl
@[simp] theorem setArb_cores (s : State) (k : Nat) (x : ArbSt) : (setArb s k x).cores = s.cores := rfl
@[simp] theorem setArb_parts (s : State) (k : Nat) (x : ArbSt) : (setArb s k x).parts = s.parts := rfl
@[simp] theorem setArb_convFlags (s : State) (k : Nat) (x : ArbSt) : (setArb s k x).convFlags = s.convFlags := rfl
@[simp] theorem setArb_convUnits (s : State) (k : Nat) (x : ArbSt) : (setArb s k x).convUnits = s.convUnits := rfl
@[simp] theorem setArb_pipeFlags (s : State) (k : Nat) (x : ArbSt) : (setArb s k x).pipeFlags = s.pipeFlags := rfl
@[simp] theorem setArb_wdog (s : State) (k : Nat) (x : ArbSt) : (setArb s k x).wdog = s.wdog := rfl
@[simp] theorem setArb_tiers (s : State) (k : Nat) (x : ArbSt) : (setArb s k x).tiers = s.tiers := rfl
@[simp] theorem setArb_doms (s : State) (k : Nat) (x : ArbSt) : (setArb s k x).doms = s.doms := rfl
@[simp] theorem setArb_slaths (s : State) (k : Nat) (x : ArbSt) : (setArb s k x).slaths = s.slaths := rfl
@[simp] theorem setArb_slots (s : State) (k : Nat) (x : ArbSt) : (setArb s k x).slots = s.slots := rfl
@[simp] theorem setArb_borders (s : State) (k : Nat) (x : ArbSt) : (setArb s k x).borders = s.borders := rfl
@[simp] theorem setArb_train (s : State) (k : Nat) (x : ArbSt) : (setArb s k x).train = s.train := rfl
@[simp] theorem setArb_ports (s : State) (k : Nat) (x : ArbSt) : (setArb s k x).ports = s.ports := rfl
@[simp] theorem setArb_fns (s : State) (k : Nat) (x : ArbSt) : (setArb s k x).fns = s.fns := rfl
@[simp] theorem setArb_rings (s : State) (k : Nat) (x : ArbSt) : (setArb s k x).rings = s.rings := rfl
@[simp] theorem setArb_links (s : State) (k : Nat) (x : ArbSt) : (setArb s k x).links = s.links := rfl
@[simp] theorem setArb_torus (s : State) (k : Nat) (x : ArbSt) : (setArb s k x).torus = s.torus := rfl
@[simp] theorem setArb_fault (s : State) (k : Nat) (x : ArbSt) : (setArb s k x).fault = s.fault := rfl
@[simp] theorem setArb_fc (s : State) (k : Nat) (x : ArbSt) : (setArb s k x).fc = s.fc := rfl
@[simp] theorem setArb_rootLock (s : State) (k : Nat) (x : ArbSt) : (setArb s k x).rootLock = s.rootLock := rfl
@[simp] theorem setArb_clock (s : State) (k : Nat) (x : ArbSt) : (setArb s k x).clock = s.clock := rfl
@[simp] theorem setArb_handle (s : State) (k : Nat) (x : ArbSt) : (setArb s k x).handle = s.handle := rfl
@[simp] theorem setArb_pert (s : State) (k : Nat) (x : ArbSt) : (setArb s k x).pert = s.pert := rfl
@[simp] theorem setArb_tap (s : State) (k : Nat) (x : ArbSt) : (setArb s k x).tap = s.tap := rfl
@[simp] theorem setArb_power (s : State) (k : Nat) (x : ArbSt) : (setArb s k x).power = s.power := rfl
@[simp] theorem setArb_service (s : State) (k : Nat) (x : ArbSt) : (setArb s k x).service = s.service := rfl
@[simp] theorem setArb_draws (s : State) (k : Nat) (x : ArbSt) : (setArb s k x).draws = s.draws := rfl
@[simp] theorem setArb_out (s : State) (k : Nat) (x : ArbSt) : (setArb s k x).out = s.out := rfl

@[simp] theorem getArb_setArb_same (s : State) (k : Nat) (x : ArbSt) : getArb (setArb s k x) k = x := by
  simp [getArb, setArb]

theorem getArb_setArb_other (s : State) (k : Nat) (x : ArbSt) (j : Nat) (h : j ≠ k) : getArb (setArb s k x) j = getArb s j := by
  exact mget_mset_apart _ _ _ _ _ _ h

/-! ### setLink -/

@[simp] theorem setLink_pending (s : State) (p : Nat) (x : LinkSt) : (setLink s p x).pending = s.pending := rfl
@[simp] theorem setLink_cores (s : State) (p : Nat) (x : LinkSt) : (setLink s p x).cores = s.cores := rfl
@[simp] theorem setLink_parts (s : State) (p : Nat) (x : LinkSt) : (setLink s p x).parts = s.parts := rfl
@[simp] theorem setLink_convFlags (s : State) (p : Nat) (x : LinkSt) : (setLink s p x).convFlags = s.convFlags := rfl
@[simp] theorem setLink_convUnits (s : State) (p : Nat) (x : LinkSt) : (setLink s p x).convUnits = s.convUnits := rfl
@[simp] theorem setLink_pipeFlags (s : State) (p : Nat) (x : LinkSt) : (setLink s p x).pipeFlags = s.pipeFlags := rfl
@[simp] theorem setLink_wdog (s : State) (p : Nat) (x : LinkSt) : (setLink s p x).wdog = s.wdog := rfl
@[simp] theorem setLink_tiers (s : State) (p : Nat) (x : LinkSt) : (setLink s p x).tiers = s.tiers := rfl
@[simp] theorem setLink_doms (s : State) (p : Nat) (x : LinkSt) : (setLink s p x).doms = s.doms := rfl
@[simp] theorem setLink_slaths (s : State) (p : Nat) (x : LinkSt) : (setLink s p x).slaths = s.slaths := rfl
@[simp] theorem setLink_slots (s : State) (p : Nat) (x : LinkSt) : (setLink s p x).slots = s.slots := rfl
@[simp] theorem setLink_borders (s : State) (p : Nat) (x : LinkSt) : (setLink s p x).borders = s.borders := rfl
@[simp] theorem setLink_train (s : State) (p : Nat) (x : LinkSt) : (setLink s p x).train = s.train := rfl
@[simp] theorem setLink_ports (s : State) (p : Nat) (x : LinkSt) : (setLink s p x).ports = s.ports := rfl
@[simp] theorem setLink_fns (s : State) (p : Nat) (x : LinkSt) : (setLink s p x).fns = s.fns := rfl
@[simp] theorem setLink_rings (s : State) (p : Nat) (x : LinkSt) : (setLink s p x).rings = s.rings := rfl
@[simp] theorem setLink_arbs (s : State) (p : Nat) (x : LinkSt) : (setLink s p x).arbs = s.arbs := rfl
@[simp] theorem setLink_torus (s : State) (p : Nat) (x : LinkSt) : (setLink s p x).torus = s.torus := rfl
@[simp] theorem setLink_fault (s : State) (p : Nat) (x : LinkSt) : (setLink s p x).fault = s.fault := rfl
@[simp] theorem setLink_fc (s : State) (p : Nat) (x : LinkSt) : (setLink s p x).fc = s.fc := rfl
@[simp] theorem setLink_rootLock (s : State) (p : Nat) (x : LinkSt) : (setLink s p x).rootLock = s.rootLock := rfl
@[simp] theorem setLink_clock (s : State) (p : Nat) (x : LinkSt) : (setLink s p x).clock = s.clock := rfl
@[simp] theorem setLink_handle (s : State) (p : Nat) (x : LinkSt) : (setLink s p x).handle = s.handle := rfl
@[simp] theorem setLink_pert (s : State) (p : Nat) (x : LinkSt) : (setLink s p x).pert = s.pert := rfl
@[simp] theorem setLink_tap (s : State) (p : Nat) (x : LinkSt) : (setLink s p x).tap = s.tap := rfl
@[simp] theorem setLink_power (s : State) (p : Nat) (x : LinkSt) : (setLink s p x).power = s.power := rfl
@[simp] theorem setLink_service (s : State) (p : Nat) (x : LinkSt) : (setLink s p x).service = s.service := rfl
@[simp] theorem setLink_draws (s : State) (p : Nat) (x : LinkSt) : (setLink s p x).draws = s.draws := rfl
@[simp] theorem setLink_out (s : State) (p : Nat) (x : LinkSt) : (setLink s p x).out = s.out := rfl

@[simp] theorem getLink_setLink_same (s : State) (p : Nat) (x : LinkSt) : getLink (setLink s p x) p = x := by
  simp [getLink, setLink]

theorem getLink_setLink_other (s : State) (p : Nat) (x : LinkSt) (j : Nat) (h : j ≠ p) : getLink (setLink s p x) j = getLink s j := by
  exact mget_mset_apart _ _ _ _ _ _ h

/-! ### updLink -/

@[simp] theorem updLink_pending (s : State) (p : Nat) (g : LinkSt → LinkSt) : (updLink s p g).pending = s.pending := rfl
@[simp] theorem updLink_cores (s : State) (p : Nat) (g : LinkSt → LinkSt) : (updLink s p g).cores = s.cores := rfl
@[simp] theorem updLink_parts (s : State) (p : Nat) (g : LinkSt → LinkSt) : (updLink s p g).parts = s.parts := rfl
@[simp] theorem updLink_convFlags (s : State) (p : Nat) (g : LinkSt → LinkSt) : (updLink s p g).convFlags = s.convFlags := rfl
@[simp] theorem updLink_convUnits (s : State) (p : Nat) (g : LinkSt → LinkSt) : (updLink s p g).convUnits = s.convUnits := rfl
@[simp] theorem updLink_pipeFlags (s : State) (p : Nat) (g : LinkSt → LinkSt) : (updLink s p g).pipeFlags = s.pipeFlags := rfl
@[simp] theorem updLink_wdog (s : State) (p : Nat) (g : LinkSt → LinkSt) : (updLink s p g).wdog = s.wdog := rfl
@[simp] theorem updLink_tiers (s : State) (p : Nat) (g : LinkSt → LinkSt) : (updLink s p g).tiers = s.tiers := rfl
@[simp] theorem updLink_doms (s : State) (p : Nat) (g : LinkSt → LinkSt) : (updLink s p g).doms = s.doms := rfl
@[simp] theorem updLink_slaths (s : State) (p : Nat) (g : LinkSt → LinkSt) : (updLink s p g).slaths = s.slaths := rfl
@[simp] theorem updLink_slots (s : State) (p : Nat) (g : LinkSt → LinkSt) : (updLink s p g).slots = s.slots := rfl
@[simp] theorem updLink_borders (s : State) (p : Nat) (g : LinkSt → LinkSt) : (updLink s p g).borders = s.borders := rfl
@[simp] theorem updLink_train (s : State) (p : Nat) (g : LinkSt → LinkSt) : (updLink s p g).train = s.train := rfl
@[simp] theorem updLink_ports (s : State) (p : Nat) (g : LinkSt → LinkSt) : (updLink s p g).ports = s.ports := rfl
@[simp] theorem updLink_fns (s : State) (p : Nat) (g : LinkSt → LinkSt) : (updLink s p g).fns = s.fns := rfl
@[simp] theorem updLink_rings (s : State) (p : Nat) (g : LinkSt → LinkSt) : (updLink s p g).rings = s.rings := rfl
@[simp] theorem updLink_arbs (s : State) (p : Nat) (g : LinkSt → LinkSt) : (updLink s p g).arbs = s.arbs := rfl
@[simp] theorem updLink_torus (s : State) (p : Nat) (g : LinkSt → LinkSt) : (updLink s p g).torus = s.torus := rfl
@[simp] theorem updLink_fault (s : State) (p : Nat) (g : LinkSt → LinkSt) : (updLink s p g).fault = s.fault := rfl
@[simp] theorem updLink_fc (s : State) (p : Nat) (g : LinkSt → LinkSt) : (updLink s p g).fc = s.fc := rfl
@[simp] theorem updLink_rootLock (s : State) (p : Nat) (g : LinkSt → LinkSt) : (updLink s p g).rootLock = s.rootLock := rfl
@[simp] theorem updLink_clock (s : State) (p : Nat) (g : LinkSt → LinkSt) : (updLink s p g).clock = s.clock := rfl
@[simp] theorem updLink_handle (s : State) (p : Nat) (g : LinkSt → LinkSt) : (updLink s p g).handle = s.handle := rfl
@[simp] theorem updLink_pert (s : State) (p : Nat) (g : LinkSt → LinkSt) : (updLink s p g).pert = s.pert := rfl
@[simp] theorem updLink_tap (s : State) (p : Nat) (g : LinkSt → LinkSt) : (updLink s p g).tap = s.tap := rfl
@[simp] theorem updLink_power (s : State) (p : Nat) (g : LinkSt → LinkSt) : (updLink s p g).power = s.power := rfl
@[simp] theorem updLink_service (s : State) (p : Nat) (g : LinkSt → LinkSt) : (updLink s p g).service = s.service := rfl
@[simp] theorem updLink_draws (s : State) (p : Nat) (g : LinkSt → LinkSt) : (updLink s p g).draws = s.draws := rfl
@[simp] theorem updLink_out (s : State) (p : Nat) (g : LinkSt → LinkSt) : (updLink s p g).out = s.out := rfl

/-! ### updHandle -/

@[simp] theorem updHandle_pending (s : State) (g : HandleSt → HandleSt) : (updHandle s g).pending = s.pending := rfl
@[simp] theorem updHandle_cores (s : State) (g : HandleSt → HandleSt) : (updHandle s g).cores = s.cores := rfl
@[simp] theorem updHandle_parts (s : State) (g : HandleSt → HandleSt) : (updHandle s g).parts = s.parts := rfl
@[simp] theorem updHandle_convFlags (s : State) (g : HandleSt → HandleSt) : (updHandle s g).convFlags = s.convFlags := rfl
@[simp] theorem updHandle_convUnits (s : State) (g : HandleSt → HandleSt) : (updHandle s g).convUnits = s.convUnits := rfl
@[simp] theorem updHandle_pipeFlags (s : State) (g : HandleSt → HandleSt) : (updHandle s g).pipeFlags = s.pipeFlags := rfl
@[simp] theorem updHandle_wdog (s : State) (g : HandleSt → HandleSt) : (updHandle s g).wdog = s.wdog := rfl
@[simp] theorem updHandle_tiers (s : State) (g : HandleSt → HandleSt) : (updHandle s g).tiers = s.tiers := rfl
@[simp] theorem updHandle_doms (s : State) (g : HandleSt → HandleSt) : (updHandle s g).doms = s.doms := rfl
@[simp] theorem updHandle_slaths (s : State) (g : HandleSt → HandleSt) : (updHandle s g).slaths = s.slaths := rfl
@[simp] theorem updHandle_slots (s : State) (g : HandleSt → HandleSt) : (updHandle s g).slots = s.slots := rfl
@[simp] theorem updHandle_borders (s : State) (g : HandleSt → HandleSt) : (updHandle s g).borders = s.borders := rfl
@[simp] theorem updHandle_train (s : State) (g : HandleSt → HandleSt) : (updHandle s g).train = s.train := rfl
@[simp] theorem updHandle_ports (s : State) (g : HandleSt → HandleSt) : (updHandle s g).ports = s.ports := rfl
@[simp] theorem updHandle_fns (s : State) (g : HandleSt → HandleSt) : (updHandle s g).fns = s.fns := rfl
@[simp] theorem updHandle_rings (s : State) (g : HandleSt → HandleSt) : (updHandle s g).rings = s.rings := rfl
@[simp] theorem updHandle_arbs (s : State) (g : HandleSt → HandleSt) : (updHandle s g).arbs = s.arbs := rfl
@[simp] theorem updHandle_links (s : State) (g : HandleSt → HandleSt) : (updHandle s g).links = s.links := rfl
@[simp] theorem updHandle_torus (s : State) (g : HandleSt → HandleSt) : (updHandle s g).torus = s.torus := rfl
@[simp] theorem updHandle_fault (s : State) (g : HandleSt → HandleSt) : (updHandle s g).fault = s.fault := rfl
@[simp] theorem updHandle_fc (s : State) (g : HandleSt → HandleSt) : (updHandle s g).fc = s.fc := rfl
@[simp] theorem updHandle_rootLock (s : State) (g : HandleSt → HandleSt) : (updHandle s g).rootLock = s.rootLock := rfl
@[simp] theorem updHandle_clock (s : State) (g : HandleSt → HandleSt) : (updHandle s g).clock = s.clock := rfl
@[simp] theorem updHandle_pert (s : State) (g : HandleSt → HandleSt) : (updHandle s g).pert = s.pert := rfl
@[simp] theorem updHandle_tap (s : State) (g : HandleSt → HandleSt) : (updHandle s g).tap = s.tap := rfl
@[simp] theorem updHandle_power (s : State) (g : HandleSt → HandleSt) : (updHandle s g).power = s.power := rfl
@[simp] theorem updHandle_service (s : State) (g : HandleSt → HandleSt) : (updHandle s g).service = s.service := rfl
@[simp] theorem updHandle_draws (s : State) (g : HandleSt → HandleSt) : (updHandle s g).draws = s.draws := rfl
@[simp] theorem updHandle_out (s : State) (g : HandleSt → HandleSt) : (updHandle s g).out = s.out := rfl

/-! ### setPoint -/

@[simp] theorem setPoint_pending (s : State) (i : Nat) (x : PointSt) : (setPoint s i x).pending = s.pending := rfl
@[simp] theorem setPoint_cores (s : State) (i : Nat) (x : PointSt) : (setPoint s i x).cores = s.cores := rfl
@[simp] theorem setPoint_parts (s : State) (i : Nat) (x : PointSt) : (setPoint s i x).parts = s.parts := rfl
@[simp] theorem setPoint_convFlags (s : State) (i : Nat) (x : PointSt) : (setPoint s i x).convFlags = s.convFlags := rfl
@[simp] theorem setPoint_convUnits (s : State) (i : Nat) (x : PointSt) : (setPoint s i x).convUnits = s.convUnits := rfl
@[simp] theorem setPoint_pipeFlags (s : State) (i : Nat) (x : PointSt) : (setPoint s i x).pipeFlags = s.pipeFlags := rfl
@[simp] theorem setPoint_wdog (s : State) (i : Nat) (x : PointSt) : (setPoint s i x).wdog = s.wdog := rfl
@[simp] theorem setPoint_tiers (s : State) (i : Nat) (x : PointSt) : (setPoint s i x).tiers = s.tiers := rfl
@[simp] theorem setPoint_doms (s : State) (i : Nat) (x : PointSt) : (setPoint s i x).doms = s.doms := rfl
@[simp] theorem setPoint_slaths (s : State) (i : Nat) (x : PointSt) : (setPoint s i x).slaths = s.slaths := rfl
@[simp] theorem setPoint_slots (s : State) (i : Nat) (x : PointSt) : (setPoint s i x).slots = s.slots := rfl
@[simp] theorem setPoint_borders (s : State) (i : Nat) (x : PointSt) : (setPoint s i x).borders = s.borders := rfl
@[simp] theorem setPoint_train (s : State) (i : Nat) (x : PointSt) : (setPoint s i x).train = s.train := rfl
@[simp] theorem setPoint_ports (s : State) (i : Nat) (x : PointSt) : (setPoint s i x).ports = s.ports := rfl
@[simp] theorem setPoint_fns (s : State) (i : Nat) (x : PointSt) : (setPoint s i x).fns = s.fns := rfl
@[simp] theorem setPoint_rings (s : State) (i : Nat) (x : PointSt) : (setPoint s i x).rings = s.rings := rfl
@[simp] theorem setPoint_arbs (s : State) (i : Nat) (x : PointSt) : (setPoint s i x).arbs = s.arbs := rfl
@[simp] theorem setPoint_links (s : State) (i : Nat) (x : PointSt) : (setPoint s i x).links = s.links := rfl
@[simp] theorem setPoint_torus (s : State) (i : Nat) (x : PointSt) : (setPoint s i x).torus = s.torus := rfl
@[simp] theorem setPoint_fault (s : State) (i : Nat) (x : PointSt) : (setPoint s i x).fault = s.fault := rfl
@[simp] theorem setPoint_fc (s : State) (i : Nat) (x : PointSt) : (setPoint s i x).fc = s.fc := rfl
@[simp] theorem setPoint_rootLock (s : State) (i : Nat) (x : PointSt) : (setPoint s i x).rootLock = s.rootLock := rfl
@[simp] theorem setPoint_clock (s : State) (i : Nat) (x : PointSt) : (setPoint s i x).clock = s.clock := rfl
@[simp] theorem setPoint_handle (s : State) (i : Nat) (x : PointSt) : (setPoint s i x).handle = s.handle := rfl
@[simp] theorem setPoint_tap (s : State) (i : Nat) (x : PointSt) : (setPoint s i x).tap = s.tap := rfl
@[simp] theorem setPoint_power (s : State) (i : Nat) (x : PointSt) : (setPoint s i x).power = s.power := rfl
@[simp] theorem setPoint_service (s : State) (i : Nat) (x : PointSt) : (setPoint s i x).service = s.service := rfl
@[simp] theorem setPoint_draws (s : State) (i : Nat) (x : PointSt) : (setPoint s i x).draws = s.draws := rfl
@[simp] theorem setPoint_out (s : State) (i : Nat) (x : PointSt) : (setPoint s i x).out = s.out := rfl

@[simp] theorem getPoint_setPoint_same (s : State) (i : Nat) (x : PointSt) : getPoint (setPoint s i x) i = x := by
  simp [getPoint, setPoint]

theorem getPoint_setPoint_other (s : State) (i : Nat) (x : PointSt) (j : Nat) (h : j ≠ i) : getPoint (setPoint s i x) j = getPoint s j := by
  exact mget_mset_apart _ _ _ _ _ _ h

/-! ### updPert -/

@[simp] theorem updPert_pending (s : State) (g : PertSt → PertSt) : (updPert s g).pending = s.pending := rfl
@[simp] theorem updPert_cores (s : State) (g : PertSt → PertSt) : (updPert s g).cores = s.cores := rfl
@[simp] theorem updPert_parts (s : State) (g : PertSt → PertSt) : (updPert s g).parts = s.parts := rfl
@[simp] theorem updPert_convFlags (s : State) (g : PertSt → PertSt) : (updPert s g).convFlags = s.convFlags := rfl
@[simp] theorem updPert_convUnits (s : State) (g : PertSt → PertSt) : (updPert s g).convUnits = s.convUnits := rfl
@[simp] theorem updPert_pipeFlags (s : State) (g : PertSt → PertSt) : (updPert s g).pipeFlags = s.pipeFlags := rfl
@[simp] theorem updPert_wdog (s : State) (g : PertSt → PertSt) : (updPert s g).wdog = s.wdog := rfl
@[simp] theorem updPert_tiers (s : State) (g : PertSt → PertSt) : (updPert s g).tiers = s.tiers := rfl
@[simp] theorem updPert_doms (s : State) (g : PertSt → PertSt) : (updPert s g).doms = s.doms := rfl
@[simp] theorem updPert_slaths (s : State) (g : PertSt → PertSt) : (updPert s g).slaths = s.slaths := rfl
@[simp] theorem updPert_slots (s : State) (g : PertSt → PertSt) : (updPert s g).slots = s.slots := rfl
@[simp] theorem updPert_borders (s : State) (g : PertSt → PertSt) : (updPert s g).borders = s.borders := rfl
@[simp] theorem updPert_train (s : State) (g : PertSt → PertSt) : (updPert s g).train = s.train := rfl
@[simp] theorem updPert_ports (s : State) (g : PertSt → PertSt) : (updPert s g).ports = s.ports := rfl
@[simp] theorem updPert_fns (s : State) (g : PertSt → PertSt) : (updPert s g).fns = s.fns := rfl
@[simp] theorem updPert_rings (s : State) (g : PertSt → PertSt) : (updPert s g).rings = s.rings := rfl
@[simp] theorem updPert_arbs (s : State) (g : PertSt → PertSt) : (updPert s g).arbs = s.arbs := rfl
@[simp] theorem updPert_links (s : State) (g : PertSt → PertSt) : (updPert s g).links = s.links := rfl
@[simp] theorem updPert_torus (s : State) (g : PertSt → PertSt) : (updPert s g).torus = s.torus := rfl
@[simp] theorem updPert_fault (s : State) (g : PertSt → PertSt) : (updPert s g).fault = s.fault := rfl
@[simp] theorem updPert_fc (s : State) (g : PertSt → PertSt) : (updPert s g).fc = s.fc := rfl
@[simp] theorem updPert_rootLock (s : State) (g : PertSt → PertSt) : (updPert s g).rootLock = s.rootLock := rfl
@[simp] theorem updPert_clock (s : State) (g : PertSt → PertSt) : (updPert s g).clock = s.clock := rfl
@[simp] theorem updPert_handle (s : State) (g : PertSt → PertSt) : (updPert s g).handle = s.handle := rfl
@[simp] theorem updPert_tap (s : State) (g : PertSt → PertSt) : (updPert s g).tap = s.tap := rfl
@[simp] theorem updPert_power (s : State) (g : PertSt → PertSt) : (updPert s g).power = s.power := rfl
@[simp] theorem updPert_service (s : State) (g : PertSt → PertSt) : (updPert s g).service = s.service := rfl
@[simp] theorem updPert_draws (s : State) (g : PertSt → PertSt) : (updPert s g).draws = s.draws := rfl
@[simp] theorem updPert_out (s : State) (g : PertSt → PertSt) : (updPert s g).out = s.out := rfl

/-! ### Reading after a change -/

@[simp] theorem getSlot_updSlot_same (s : State) (n : Nat) (f : SlotSt → SlotSt) : getSlot (updSlot s n f) n = f (getSlot s n) := by
  simp [updSlot]

theorem getSlot_updSlot_other (s : State) (n : Nat) (f : SlotSt → SlotSt) (j : Nat) (h : j ≠ n) : getSlot (updSlot s n f) j = getSlot s j := by
  simp [updSlot, getSlot_setSlot_other _ _ _ _ h]

@[simp] theorem getFn_updFn_same (s : State) (k : Nat) (f : FnSt → FnSt) : getFn (updFn s k f) k = f (getFn s k) := by
  simp [updFn]

theorem getFn_updFn_other (s : State) (k : Nat) (f : FnSt → FnSt) (j : Nat) (h : j ≠ k) : getFn (updFn s k f) j = getFn s j := by
  simp [updFn, getFn_setFn_other _ _ _ _ h]

@[simp] theorem getRing_updRing_same (s : State) (r : Nat) (f : RingSt → RingSt) : getRing (updRing s r f) r = f (getRing s r) := by
  simp [updRing]

theorem getRing_updRing_other (s : State) (r : Nat) (f : RingSt → RingSt) (j : Nat) (h : j ≠ r) : getRing (updRing s r f) j = getRing s j := by
  simp [updRing, getRing_setRing_other _ _ _ _ h]

@[simp] theorem getLink_updLink_same (s : State) (p : Nat) (f : LinkSt → LinkSt) : getLink (updLink s p f) p = f (getLink s p) := by
  simp [updLink]

theorem getLink_updLink_other (s : State) (p : Nat) (f : LinkSt → LinkSt) (j : Nat) (h : j ≠ p) : getLink (updLink s p f) j = getLink s j := by
  simp [updLink, getLink_setLink_other _ _ _ _ h]

/-! ### Reading one table after writing another -/

@[simp] theorem getPart_setCore (s : State) (c : Nat) (x : CoreSt) (j : Nat) : getPart (setCore s c x) j = getPart s j := rfl
@[simp] theorem getDom_setCore (s : State) (c : Nat) (x : CoreSt) (j : Nat) : getDom (setCore s c x) j = getDom s j := rfl
@[simp] theorem getSlath_setCore (s : State) (c : Nat) (x : CoreSt) (j : Nat) : getSlath (setCore s c x) j = getSlath s j := rfl
@[simp] theorem getSlot_setCore (s : State) (c : Nat) (x : CoreSt) (j : Nat) : getSlot (setCore s c x) j = getSlot s j := rfl
@[simp] theorem getBorder_setCore (s : State) (c : Nat) (x : CoreSt) (j : Nat) : getBorder (setCore s c x) j = getBorder s j := rfl
@[simp] theorem getPort_setCore (s : State) (c : Nat) (x : CoreSt) (j : Nat) : getPort (setCore s c x) j = getPort s j := rfl
@[simp] theorem getFn_setCore (s : State) (c : Nat) (x : CoreSt) (j : Nat) : getFn (setCore s c x) j = getFn s j := rfl
@[simp] theorem getRing_setCore (s : State) (c : Nat) (x : CoreSt) (j : Nat) : getRing (setCore s c x) j = getRing s j := rfl
@[simp] theorem getArb_setCore (s : State) (c : Nat) (x : CoreSt) (j : Nat) : getArb (setCore s c x) j = getArb s j := rfl
@[simp] theorem getLink_setCore (s : State) (c : Nat) (x : CoreSt) (j : Nat) : getLink (setCore s c x) j = getLink s j := rfl
@[simp] theorem getCore_setPart (s : State) (p : Nat) (x : PartSt) (j : Nat) : getCore (setPart s p x) j = getCore s j := rfl
@[simp] theorem getDom_setPart (s : State) (p : Nat) (x : PartSt) (j : Nat) : getDom (setPart s p x) j = getDom s j := rfl
@[simp] theorem getSlath_setPart (s : State) (p : Nat) (x : PartSt) (j : Nat) : getSlath (setPart s p x) j = getSlath s j := rfl
@[simp] theorem getSlot_setPart (s : State) (p : Nat) (x : PartSt) (j : Nat) : getSlot (setPart s p x) j = getSlot s j := rfl
@[simp] theorem getBorder_setPart (s : State) (p : Nat) (x : PartSt) (j : Nat) : getBorder (setPart s p x) j = getBorder s j := rfl
@[simp] theorem getPort_setPart (s : State) (p : Nat) (x : PartSt) (j : Nat) : getPort (setPart s p x) j = getPort s j := rfl
@[simp] theorem getFn_setPart (s : State) (p : Nat) (x : PartSt) (j : Nat) : getFn (setPart s p x) j = getFn s j := rfl
@[simp] theorem getRing_setPart (s : State) (p : Nat) (x : PartSt) (j : Nat) : getRing (setPart s p x) j = getRing s j := rfl
@[simp] theorem getArb_setPart (s : State) (p : Nat) (x : PartSt) (j : Nat) : getArb (setPart s p x) j = getArb s j := rfl
@[simp] theorem getLink_setPart (s : State) (p : Nat) (x : PartSt) (j : Nat) : getLink (setPart s p x) j = getLink s j := rfl
@[simp] theorem getCore_setDom (s : State) (d : Nat) (x : DomSt) (j : Nat) : getCore (setDom s d x) j = getCore s j := rfl
@[simp] theorem getPart_setDom (s : State) (d : Nat) (x : DomSt) (j : Nat) : getPart (setDom s d x) j = getPart s j := rfl
@[simp] theorem getSlath_setDom (s : State) (d : Nat) (x : DomSt) (j : Nat) : getSlath (setDom s d x) j = getSlath s j := rfl
@[simp] theorem getSlot_setDom (s : State) (d : Nat) (x : DomSt) (j : Nat) : getSlot (setDom s d x) j = getSlot s j := rfl
@[simp] theorem getBorder_setDom (s : State) (d : Nat) (x : DomSt) (j : Nat) : getBorder (setDom s d x) j = getBorder s j := rfl
@[simp] theorem getPort_setDom (s : State) (d : Nat) (x : DomSt) (j : Nat) : getPort (setDom s d x) j = getPort s j := rfl
@[simp] theorem getFn_setDom (s : State) (d : Nat) (x : DomSt) (j : Nat) : getFn (setDom s d x) j = getFn s j := rfl
@[simp] theorem getRing_setDom (s : State) (d : Nat) (x : DomSt) (j : Nat) : getRing (setDom s d x) j = getRing s j := rfl
@[simp] theorem getArb_setDom (s : State) (d : Nat) (x : DomSt) (j : Nat) : getArb (setDom s d x) j = getArb s j := rfl
@[simp] theorem getLink_setDom (s : State) (d : Nat) (x : DomSt) (j : Nat) : getLink (setDom s d x) j = getLink s j := rfl
@[simp] theorem getCore_setSlath (s : State) (q : Nat) (x : SlathSt) (j : Nat) : getCore (setSlath s q x) j = getCore s j := rfl
@[simp] theorem getPart_setSlath (s : State) (q : Nat) (x : SlathSt) (j : Nat) : getPart (setSlath s q x) j = getPart s j := rfl
@[simp] theorem getDom_setSlath (s : State) (q : Nat) (x : SlathSt) (j : Nat) : getDom (setSlath s q x) j = getDom s j := rfl
@[simp] theorem getSlot_setSlath (s : State) (q : Nat) (x : SlathSt) (j : Nat) : getSlot (setSlath s q x) j = getSlot s j := rfl
@[simp] theorem getBorder_setSlath (s : State) (q : Nat) (x : SlathSt) (j : Nat) : getBorder (setSlath s q x) j = getBorder s j := rfl
@[simp] theorem getPort_setSlath (s : State) (q : Nat) (x : SlathSt) (j : Nat) : getPort (setSlath s q x) j = getPort s j := rfl
@[simp] theorem getFn_setSlath (s : State) (q : Nat) (x : SlathSt) (j : Nat) : getFn (setSlath s q x) j = getFn s j := rfl
@[simp] theorem getRing_setSlath (s : State) (q : Nat) (x : SlathSt) (j : Nat) : getRing (setSlath s q x) j = getRing s j := rfl
@[simp] theorem getArb_setSlath (s : State) (q : Nat) (x : SlathSt) (j : Nat) : getArb (setSlath s q x) j = getArb s j := rfl
@[simp] theorem getLink_setSlath (s : State) (q : Nat) (x : SlathSt) (j : Nat) : getLink (setSlath s q x) j = getLink s j := rfl
@[simp] theorem getCore_setSlot (s : State) (n : Nat) (x : SlotSt) (j : Nat) : getCore (setSlot s n x) j = getCore s j := rfl
@[simp] theorem getPart_setSlot (s : State) (n : Nat) (x : SlotSt) (j : Nat) : getPart (setSlot s n x) j = getPart s j := rfl
@[simp] theorem getDom_setSlot (s : State) (n : Nat) (x : SlotSt) (j : Nat) : getDom (setSlot s n x) j = getDom s j := rfl
@[simp] theorem getSlath_setSlot (s : State) (n : Nat) (x : SlotSt) (j : Nat) : getSlath (setSlot s n x) j = getSlath s j := rfl
@[simp] theorem getBorder_setSlot (s : State) (n : Nat) (x : SlotSt) (j : Nat) : getBorder (setSlot s n x) j = getBorder s j := rfl
@[simp] theorem getPort_setSlot (s : State) (n : Nat) (x : SlotSt) (j : Nat) : getPort (setSlot s n x) j = getPort s j := rfl
@[simp] theorem getFn_setSlot (s : State) (n : Nat) (x : SlotSt) (j : Nat) : getFn (setSlot s n x) j = getFn s j := rfl
@[simp] theorem getRing_setSlot (s : State) (n : Nat) (x : SlotSt) (j : Nat) : getRing (setSlot s n x) j = getRing s j := rfl
@[simp] theorem getArb_setSlot (s : State) (n : Nat) (x : SlotSt) (j : Nat) : getArb (setSlot s n x) j = getArb s j := rfl
@[simp] theorem getLink_setSlot (s : State) (n : Nat) (x : SlotSt) (j : Nat) : getLink (setSlot s n x) j = getLink s j := rfl
@[simp] theorem getCore_updSlot (s : State) (n : Nat) (g : SlotSt → SlotSt) (j : Nat) : getCore (updSlot s n g) j = getCore s j := rfl
@[simp] theorem getPart_updSlot (s : State) (n : Nat) (g : SlotSt → SlotSt) (j : Nat) : getPart (updSlot s n g) j = getPart s j := rfl
@[simp] theorem getDom_updSlot (s : State) (n : Nat) (g : SlotSt → SlotSt) (j : Nat) : getDom (updSlot s n g) j = getDom s j := rfl
@[simp] theorem getSlath_updSlot (s : State) (n : Nat) (g : SlotSt → SlotSt) (j : Nat) : getSlath (updSlot s n g) j = getSlath s j := rfl
@[simp] theorem getBorder_updSlot (s : State) (n : Nat) (g : SlotSt → SlotSt) (j : Nat) : getBorder (updSlot s n g) j = getBorder s j := rfl
@[simp] theorem getPort_updSlot (s : State) (n : Nat) (g : SlotSt → SlotSt) (j : Nat) : getPort (updSlot s n g) j = getPort s j := rfl
@[simp] theorem getFn_updSlot (s : State) (n : Nat) (g : SlotSt → SlotSt) (j : Nat) : getFn (updSlot s n g) j = getFn s j := rfl
@[simp] theorem getRing_updSlot (s : State) (n : Nat) (g : SlotSt → SlotSt) (j : Nat) : getRing (updSlot s n g) j = getRing s j := rfl
@[simp] theorem getArb_updSlot (s : State) (n : Nat) (g : SlotSt → SlotSt) (j : Nat) : getArb (updSlot s n g) j = getArb s j := rfl
@[simp] theorem getLink_updSlot (s : State) (n : Nat) (g : SlotSt → SlotSt) (j : Nat) : getLink (updSlot s n g) j = getLink s j := rfl
@[simp] theorem getCore_setBorder (s : State) (m : Nat) (x : BorderSt) (j : Nat) : getCore (setBorder s m x) j = getCore s j := rfl
@[simp] theorem getPart_setBorder (s : State) (m : Nat) (x : BorderSt) (j : Nat) : getPart (setBorder s m x) j = getPart s j := rfl
@[simp] theorem getDom_setBorder (s : State) (m : Nat) (x : BorderSt) (j : Nat) : getDom (setBorder s m x) j = getDom s j := rfl
@[simp] theorem getSlath_setBorder (s : State) (m : Nat) (x : BorderSt) (j : Nat) : getSlath (setBorder s m x) j = getSlath s j := rfl
@[simp] theorem getSlot_setBorder (s : State) (m : Nat) (x : BorderSt) (j : Nat) : getSlot (setBorder s m x) j = getSlot s j := rfl
@[simp] theorem getPort_setBorder (s : State) (m : Nat) (x : BorderSt) (j : Nat) : getPort (setBorder s m x) j = getPort s j := rfl
@[simp] theorem getFn_setBorder (s : State) (m : Nat) (x : BorderSt) (j : Nat) : getFn (setBorder s m x) j = getFn s j := rfl
@[simp] theorem getRing_setBorder (s : State) (m : Nat) (x : BorderSt) (j : Nat) : getRing (setBorder s m x) j = getRing s j := rfl
@[simp] theorem getArb_setBorder (s : State) (m : Nat) (x : BorderSt) (j : Nat) : getArb (setBorder s m x) j = getArb s j := rfl
@[simp] theorem getLink_setBorder (s : State) (m : Nat) (x : BorderSt) (j : Nat) : getLink (setBorder s m x) j = getLink s j := rfl
@[simp] theorem getCore_setPort (s : State) (p : Nat) (x : HostPort) (j : Nat) : getCore (setPort s p x) j = getCore s j := rfl
@[simp] theorem getPart_setPort (s : State) (p : Nat) (x : HostPort) (j : Nat) : getPart (setPort s p x) j = getPart s j := rfl
@[simp] theorem getDom_setPort (s : State) (p : Nat) (x : HostPort) (j : Nat) : getDom (setPort s p x) j = getDom s j := rfl
@[simp] theorem getSlath_setPort (s : State) (p : Nat) (x : HostPort) (j : Nat) : getSlath (setPort s p x) j = getSlath s j := rfl
@[simp] theorem getSlot_setPort (s : State) (p : Nat) (x : HostPort) (j : Nat) : getSlot (setPort s p x) j = getSlot s j := rfl
@[simp] theorem getBorder_setPort (s : State) (p : Nat) (x : HostPort) (j : Nat) : getBorder (setPort s p x) j = getBorder s j := rfl
@[simp] theorem getFn_setPort (s : State) (p : Nat) (x : HostPort) (j : Nat) : getFn (setPort s p x) j = getFn s j := rfl
@[simp] theorem getRing_setPort (s : State) (p : Nat) (x : HostPort) (j : Nat) : getRing (setPort s p x) j = getRing s j := rfl
@[simp] theorem getArb_setPort (s : State) (p : Nat) (x : HostPort) (j : Nat) : getArb (setPort s p x) j = getArb s j := rfl
@[simp] theorem getLink_setPort (s : State) (p : Nat) (x : HostPort) (j : Nat) : getLink (setPort s p x) j = getLink s j := rfl
@[simp] theorem getCore_setFn (s : State) (k : Nat) (x : FnSt) (j : Nat) : getCore (setFn s k x) j = getCore s j := rfl
@[simp] theorem getPart_setFn (s : State) (k : Nat) (x : FnSt) (j : Nat) : getPart (setFn s k x) j = getPart s j := rfl
@[simp] theorem getDom_setFn (s : State) (k : Nat) (x : FnSt) (j : Nat) : getDom (setFn s k x) j = getDom s j := rfl
@[simp] theorem getSlath_setFn (s : State) (k : Nat) (x : FnSt) (j : Nat) : getSlath (setFn s k x) j = getSlath s j := rfl
@[simp] theorem getSlot_setFn (s : State) (k : Nat) (x : FnSt) (j : Nat) : getSlot (setFn s k x) j = getSlot s j := rfl
@[simp] theorem getBorder_setFn (s : State) (k : Nat) (x : FnSt) (j : Nat) : getBorder (setFn s k x) j = getBorder s j := rfl
@[simp] theorem getPort_setFn (s : State) (k : Nat) (x : FnSt) (j : Nat) : getPort (setFn s k x) j = getPort s j := rfl
@[simp] theorem getRing_setFn (s : State) (k : Nat) (x : FnSt) (j : Nat) : getRing (setFn s k x) j = getRing s j := rfl
@[simp] theorem getArb_setFn (s : State) (k : Nat) (x : FnSt) (j : Nat) : getArb (setFn s k x) j = getArb s j := rfl
@[simp] theorem getLink_setFn (s : State) (k : Nat) (x : FnSt) (j : Nat) : getLink (setFn s k x) j = getLink s j := rfl
@[simp] theorem getCore_updFn (s : State) (k : Nat) (g : FnSt → FnSt) (j : Nat) : getCore (updFn s k g) j = getCore s j := rfl
@[simp] theorem getPart_updFn (s : State) (k : Nat) (g : FnSt → FnSt) (j : Nat) : getPart (updFn s k g) j = getPart s j := rfl
@[simp] theorem getDom_updFn (s : State) (k : Nat) (g : FnSt → FnSt) (j : Nat) : getDom (updFn s k g) j = getDom s j := rfl
@[simp] theorem getSlath_updFn (s : State) (k : Nat) (g : FnSt → FnSt) (j : Nat) : getSlath (updFn s k g) j = getSlath s j := rfl
@[simp] theorem getSlot_updFn (s : State) (k : Nat) (g : FnSt → FnSt) (j : Nat) : getSlot (updFn s k g) j = getSlot s j := rfl
@[simp] theorem getBorder_updFn (s : State) (k : Nat) (g : FnSt → FnSt) (j : Nat) : getBorder (updFn s k g) j = getBorder s j := rfl
@[simp] theorem getPort_updFn (s : State) (k : Nat) (g : FnSt → FnSt) (j : Nat) : getPort (updFn s k g) j = getPort s j := rfl
@[simp] theorem getRing_updFn (s : State) (k : Nat) (g : FnSt → FnSt) (j : Nat) : getRing (updFn s k g) j = getRing s j := rfl
@[simp] theorem getArb_updFn (s : State) (k : Nat) (g : FnSt → FnSt) (j : Nat) : getArb (updFn s k g) j = getArb s j := rfl
@[simp] theorem getLink_updFn (s : State) (k : Nat) (g : FnSt → FnSt) (j : Nat) : getLink (updFn s k g) j = getLink s j := rfl
@[simp] theorem getCore_setRing (s : State) (r : Nat) (x : RingSt) (j : Nat) : getCore (setRing s r x) j = getCore s j := rfl
@[simp] theorem getPart_setRing (s : State) (r : Nat) (x : RingSt) (j : Nat) : getPart (setRing s r x) j = getPart s j := rfl
@[simp] theorem getDom_setRing (s : State) (r : Nat) (x : RingSt) (j : Nat) : getDom (setRing s r x) j = getDom s j := rfl
@[simp] theorem getSlath_setRing (s : State) (r : Nat) (x : RingSt) (j : Nat) : getSlath (setRing s r x) j = getSlath s j := rfl
@[simp] theorem getSlot_setRing (s : State) (r : Nat) (x : RingSt) (j : Nat) : getSlot (setRing s r x) j = getSlot s j := rfl
@[simp] theorem getBorder_setRing (s : State) (r : Nat) (x : RingSt) (j : Nat) : getBorder (setRing s r x) j = getBorder s j := rfl
@[simp] theorem getPort_setRing (s : State) (r : Nat) (x : RingSt) (j : Nat) : getPort (setRing s r x) j = getPort s j := rfl
@[simp] theorem getFn_setRing (s : State) (r : Nat) (x : RingSt) (j : Nat) : getFn (setRing s r x) j = getFn s j := rfl
@[simp] theorem getArb_setRing (s : State) (r : Nat) (x : RingSt) (j : Nat) : getArb (setRing s r x) j = getArb s j := rfl
@[simp] theorem getLink_setRing (s : State) (r : Nat) (x : RingSt) (j : Nat) : getLink (setRing s r x) j = getLink s j := rfl
@[simp] theorem getCore_updRing (s : State) (r : Nat) (g : RingSt → RingSt) (j : Nat) : getCore (updRing s r g) j = getCore s j := rfl
@[simp] theorem getPart_updRing (s : State) (r : Nat) (g : RingSt → RingSt) (j : Nat) : getPart (updRing s r g) j = getPart s j := rfl
@[simp] theorem getDom_updRing (s : State) (r : Nat) (g : RingSt → RingSt) (j : Nat) : getDom (updRing s r g) j = getDom s j := rfl
@[simp] theorem getSlath_updRing (s : State) (r : Nat) (g : RingSt → RingSt) (j : Nat) : getSlath (updRing s r g) j = getSlath s j := rfl
@[simp] theorem getSlot_updRing (s : State) (r : Nat) (g : RingSt → RingSt) (j : Nat) : getSlot (updRing s r g) j = getSlot s j := rfl
@[simp] theorem getBorder_updRing (s : State) (r : Nat) (g : RingSt → RingSt) (j : Nat) : getBorder (updRing s r g) j = getBorder s j := rfl
@[simp] theorem getPort_updRing (s : State) (r : Nat) (g : RingSt → RingSt) (j : Nat) : getPort (updRing s r g) j = getPort s j := rfl
@[simp] theorem getFn_updRing (s : State) (r : Nat) (g : RingSt → RingSt) (j : Nat) : getFn (updRing s r g) j = getFn s j := rfl
@[simp] theorem getArb_updRing (s : State) (r : Nat) (g : RingSt → RingSt) (j : Nat) : getArb (updRing s r g) j = getArb s j := rfl
@[simp] theorem getLink_updRing (s : State) (r : Nat) (g : RingSt → RingSt) (j : Nat) : getLink (updRing s r g) j = getLink s j := rfl
@[simp] theorem getCore_setArb (s : State) (k : Nat) (x : ArbSt) (j : Nat) : getCore (setArb s k x) j = getCore s j := rfl
@[simp] theorem getPart_setArb (s : State) (k : Nat) (x : ArbSt) (j : Nat) : getPart (setArb s k x) j = getPart s j := rfl
@[simp] theorem getDom_setArb (s : State) (k : Nat) (x : ArbSt) (j : Nat) : getDom (setArb s k x) j = getDom s j := rfl
@[simp] theorem getSlath_setArb (s : State) (k : Nat) (x : ArbSt) (j : Nat) : getSlath (setArb s k x) j = getSlath s j := rfl
@[simp] theorem getSlot_setArb (s : State) (k : Nat) (x : ArbSt) (j : Nat) : getSlot (setArb s k x) j = getSlot s j := rfl
@[simp] theorem getBorder_setArb (s : State) (k : Nat) (x : ArbSt) (j : Nat) : getBorder (setArb s k x) j = getBorder s j := rfl
@[simp] theorem getPort_setArb (s : State) (k : Nat) (x : ArbSt) (j : Nat) : getPort (setArb s k x) j = getPort s j := rfl
@[simp] theorem getFn_setArb (s : State) (k : Nat) (x : ArbSt) (j : Nat) : getFn (setArb s k x) j = getFn s j := rfl
@[simp] theorem getRing_setArb (s : State) (k : Nat) (x : ArbSt) (j : Nat) : getRing (setArb s k x) j = getRing s j := rfl
@[simp] theorem getLink_setArb (s : State) (k : Nat) (x : ArbSt) (j : Nat) : getLink (setArb s k x) j = getLink s j := rfl
@[simp] theorem getCore_setLink (s : State) (p : Nat) (x : LinkSt) (j : Nat) : getCore (setLink s p x) j = getCore s j := rfl
@[simp] theorem getPart_setLink (s : State) (p : Nat) (x : LinkSt) (j : Nat) : getPart (setLink s p x) j = getPart s j := rfl
@[simp] theorem getDom_setLink (s : State) (p : Nat) (x : LinkSt) (j : Nat) : getDom (setLink s p x) j = getDom s j := rfl
@[simp] theorem getSlath_setLink (s : State) (p : Nat) (x : LinkSt) (j : Nat) : getSlath (setLink s p x) j = getSlath s j := rfl
@[simp] theorem getSlot_setLink (s : State) (p : Nat) (x : LinkSt) (j : Nat) : getSlot (setLink s p x) j = getSlot s j := rfl
@[simp] theorem getBorder_setLink (s : State) (p : Nat) (x : LinkSt) (j : Nat) : getBorder (setLink s p x) j = getBorder s j := rfl
@[simp] theorem getPort_setLink (s : State) (p : Nat) (x : LinkSt) (j : Nat) : getPort (setLink s p x) j = getPort s j := rfl
@[simp] theorem getFn_setLink (s : State) (p : Nat) (x : LinkSt) (j : Nat) : getFn (setLink s p x) j = getFn s j := rfl
@[simp] theorem getRing_setLink (s : State) (p : Nat) (x : LinkSt) (j : Nat) : getRing (setLink s p x) j = getRing s j := rfl
@[simp] theorem getArb_setLink (s : State) (p : Nat) (x : LinkSt) (j : Nat) : getArb (setLink s p x) j = getArb s j := rfl
@[simp] theorem getCore_updLink (s : State) (p : Nat) (g : LinkSt → LinkSt) (j : Nat) : getCore (updLink s p g) j = getCore s j := rfl
@[simp] theorem getPart_updLink (s : State) (p : Nat) (g : LinkSt → LinkSt) (j : Nat) : getPart (updLink s p g) j = getPart s j := rfl
@[simp] theorem getDom_updLink (s : State) (p : Nat) (g : LinkSt → LinkSt) (j : Nat) : getDom (updLink s p g) j = getDom s j := rfl
@[simp] theorem getSlath_updLink (s : State) (p : Nat) (g : LinkSt → LinkSt) (j : Nat) : getSlath (updLink s p g) j = getSlath s j := rfl
@[simp] theorem getSlot_updLink (s : State) (p : Nat) (g : LinkSt → LinkSt) (j : Nat) : getSlot (updLink s p g) j = getSlot s j := rfl
@[simp] theorem getBorder_updLink (s : State) (p : Nat) (g : LinkSt → LinkSt) (j : Nat) : getBorder (updLink s p g) j = getBorder s j := rfl
@[simp] theorem getPort_updLink (s : State) (p : Nat) (g : LinkSt → LinkSt) (j : Nat) : getPort (updLink s p g) j = getPort s j := rfl
@[simp] theorem getFn_updLink (s : State) (p : Nat) (g : LinkSt → LinkSt) (j : Nat) : getFn (updLink s p g) j = getFn s j := rfl
@[simp] theorem getRing_updLink (s : State) (p : Nat) (g : LinkSt → LinkSt) (j : Nat) : getRing (updLink s p g) j = getRing s j := rfl
@[simp] theorem getArb_updLink (s : State) (p : Nat) (g : LinkSt → LinkSt) (j : Nat) : getArb (updLink s p g) j = getArb s j := rfl
@[simp] theorem getCore_updHandle (s : State) (g : HandleSt → HandleSt) (j : Nat) : getCore (updHandle s g) j = getCore s j := rfl
@[simp] theorem getPart_updHandle (s : State) (g : HandleSt → HandleSt) (j : Nat) : getPart (updHandle s g) j = getPart s j := rfl
@[simp] theorem getDom_updHandle (s : State) (g : HandleSt → HandleSt) (j : Nat) : getDom (updHandle s g) j = getDom s j := rfl
@[simp] theorem getSlath_updHandle (s : State) (g : HandleSt → HandleSt) (j : Nat) : getSlath (updHandle s g) j = getSlath s j := rfl
@[simp] theorem getSlot_updHandle (s : State) (g : HandleSt → HandleSt) (j : Nat) : getSlot (updHandle s g) j = getSlot s j := rfl
@[simp] theorem getBorder_updHandle (s : State) (g : HandleSt → HandleSt) (j : Nat) : getBorder (updHandle s g) j = getBorder s j := rfl
@[simp] theorem getPort_updHandle (s : State) (g : HandleSt → HandleSt) (j : Nat) : getPort (updHandle s g) j = getPort s j := rfl
@[simp] theorem getFn_updHandle (s : State) (g : HandleSt → HandleSt) (j : Nat) : getFn (updHandle s g) j = getFn s j := rfl
@[simp] theorem getRing_updHandle (s : State) (g : HandleSt → HandleSt) (j : Nat) : getRing (updHandle s g) j = getRing s j := rfl
@[simp] theorem getArb_updHandle (s : State) (g : HandleSt → HandleSt) (j : Nat) : getArb (updHandle s g) j = getArb s j := rfl
@[simp] theorem getLink_updHandle (s : State) (g : HandleSt → HandleSt) (j : Nat) : getLink (updHandle s g) j = getLink s j := rfl
@[simp] theorem getCore_setPoint (s : State) (i : Nat) (x : PointSt) (j : Nat) : getCore (setPoint s i x) j = getCore s j := rfl
@[simp] theorem getPart_setPoint (s : State) (i : Nat) (x : PointSt) (j : Nat) : getPart (setPoint s i x) j = getPart s j := rfl
@[simp] theorem getDom_setPoint (s : State) (i : Nat) (x : PointSt) (j : Nat) : getDom (setPoint s i x) j = getDom s j := rfl
@[simp] theorem getSlath_setPoint (s : State) (i : Nat) (x : PointSt) (j : Nat) : getSlath (setPoint s i x) j = getSlath s j := rfl
@[simp] theorem getSlot_setPoint (s : State) (i : Nat) (x : PointSt) (j : Nat) : getSlot (setPoint s i x) j = getSlot s j := rfl
@[simp] theorem getBorder_setPoint (s : State) (i : Nat) (x : PointSt) (j : Nat) : getBorder (setPoint s i x) j = getBorder s j := rfl
@[simp] theorem getPort_setPoint (s : State) (i : Nat) (x : PointSt) (j : Nat) : getPort (setPoint s i x) j = getPort s j := rfl
@[simp] theorem getFn_setPoint (s : State) (i : Nat) (x : PointSt) (j : Nat) : getFn (setPoint s i x) j = getFn s j := rfl
@[simp] theorem getRing_setPoint (s : State) (i : Nat) (x : PointSt) (j : Nat) : getRing (setPoint s i x) j = getRing s j := rfl
@[simp] theorem getArb_setPoint (s : State) (i : Nat) (x : PointSt) (j : Nat) : getArb (setPoint s i x) j = getArb s j := rfl
@[simp] theorem getLink_setPoint (s : State) (i : Nat) (x : PointSt) (j : Nat) : getLink (setPoint s i x) j = getLink s j := rfl
@[simp] theorem getCore_updPert (s : State) (g : PertSt → PertSt) (j : Nat) : getCore (updPert s g) j = getCore s j := rfl
@[simp] theorem getPart_updPert (s : State) (g : PertSt → PertSt) (j : Nat) : getPart (updPert s g) j = getPart s j := rfl
@[simp] theorem getDom_updPert (s : State) (g : PertSt → PertSt) (j : Nat) : getDom (updPert s g) j = getDom s j := rfl
@[simp] theorem getSlath_updPert (s : State) (g : PertSt → PertSt) (j : Nat) : getSlath (updPert s g) j = getSlath s j := rfl
@[simp] theorem getSlot_updPert (s : State) (g : PertSt → PertSt) (j : Nat) : getSlot (updPert s g) j = getSlot s j := rfl
@[simp] theorem getBorder_updPert (s : State) (g : PertSt → PertSt) (j : Nat) : getBorder (updPert s g) j = getBorder s j := rfl
@[simp] theorem getPort_updPert (s : State) (g : PertSt → PertSt) (j : Nat) : getPort (updPert s g) j = getPort s j := rfl
@[simp] theorem getFn_updPert (s : State) (g : PertSt → PertSt) (j : Nat) : getFn (updPert s g) j = getFn s j := rfl
@[simp] theorem getRing_updPert (s : State) (g : PertSt → PertSt) (j : Nat) : getRing (updPert s g) j = getRing s j := rfl
@[simp] theorem getArb_updPert (s : State) (g : PertSt → PertSt) (j : Nat) : getArb (updPert s g) j = getArb s j := rfl
@[simp] theorem getLink_updPert (s : State) (g : PertSt → PertSt) (j : Nat) : getLink (updPert s g) j = getLink s j := rfl

end Sys2Proof.Machine
end

