-- ==== Sys2Proof/Laws/Ops.lean ====
section
/-! SUPPORT. What the shared operations do, said once: issue of a core instruction, host accesses, rings, flags, MSI-X. -/

namespace Sys2Proof.Machine

/-! ### Cores -/

/-- An instruction of a core that issues runs. -/
theorem atCore_issued (s : State) (c : Nat) (k : Issue → Res) (i : Issue) (hv : coreValid c = true) (h : issue? s c = some i) : atCore s c k = k i := by
  simp [atCore, hv, h]

/-- An instruction of a core that does not issue changes nothing. -/
theorem atCore_held (s : State) (c : Nat) (k : Issue → Res) (hv : coreValid c = true) (h : issue? s c = none) : atCore s c k = .next s := by
  simp [atCore, hv, h]

/-- A core that does not exist is refused. -/
theorem atCore_absent (s : State) (c : Nat) (k : Issue → Res) (hv : coreValid c = false) : atCore s c k = .refused .noSuchUnit := by
  simp [atCore, hv]

/-- What issues is the core as it stands, in its current context. -/
theorem issue_core (s : State) (c : Nat) (i : Issue) (h : issue? s c = some i) : i.core = getCore s c ∧ i.ctx = getCtx i.core i.n := by
  unfold issue? at h
  split at h
  · cases h
  · simp only at h
    split at h
    · cases h
    · split at h
      · simp at h; subst h; exact ⟨rfl, rfl⟩
      · cases h

@[simp] theorem getCtx_setCtx_same (co : CoreSt) (n : Nat) (x : Ctx) : getCtx (setCtx co n x) n = x := by simp [getCtx, setCtx]

theorem getCtx_setCtx_other (co : CoreSt) (n m : Nat) (x : Ctx) (h : m ≠ n) : getCtx (setCtx co n x) m = getCtx co m := by
  simp [getCtx, setCtx, mget_mset_other _ _ _ _ _ h]

/-- Results that become due leave the stores, the accumulators, the queues and the gathers of a core alone. -/
theorem settle_stores (co : CoreSt) : (settle co).store = co.store ∧ (settle co).acc = co.acc ∧ (settle co).accValid = co.accValid ∧
    (settle co).queues = co.queues ∧ (settle co).gathers = co.gathers := by
  have h : ∀ (l : List InFlight) (c : CoreSt), let d := l.foldl (fun co f => setCtx co f.ctx ((getCtx co f.ctx).writeResult f)) c
      d.store = c.store ∧ d.acc = c.acc ∧ d.accValid = c.accValid ∧ d.queues = c.queues ∧ d.gathers = c.gathers := by
    intro l
    induction l with
    | nil => intro c; simp
    | cons a l ih => intro c; simpa [setCtx] using ih (setCtx c a.ctx _)
  unfold settle
  simpa using h _ _

/-- The end of a bundle leaves them alone too. -/
theorem endBundle_stores (co : CoreSt) (n : Nat) (x : Ctx) : (endBundle co n x).store = co.store ∧ (endBundle co n x).acc = co.acc ∧
    (endBundle co n x).accValid = co.accValid ∧ (endBundle co n x).queues = co.queues ∧ (endBundle co n x).gathers = co.gathers := by
  simpa [endBundle, tickCore, setCtx] using settle_stores _

/-! ### Host accesses -/

/-- An access that reaches its function. -/
theorem fnWrite_reached (f : FnAddr) (s : State) (k : Nat → Res) (ha : fnAddrOk f = true) (hr : fnReach s (fnKeyOf f) = true) :
    fnWrite f s k = k (fnKeyOf f) := by simp [fnWrite, ha, hr]

/-- An access to a function that does not answer. -/
theorem fnWrite_away (f : FnAddr) (s : State) (k : Nat → Res) (ha : fnAddrOk f = true) (hr : fnReach s (fnKeyOf f) = false) : fnWrite f s k = .next s := by
  simp [fnWrite, ha, hr]

/-- An access to a function that does not exist. -/
theorem fnWrite_absent (f : FnAddr) (s : State) (k : Nat → Res) (ha : fnAddrOk f = false) : fnWrite f s k = .refused .noSuchUnit := by simp [fnWrite, ha]

/-- A message of a vector that is masked is pending. -/
theorem sendMsix_masked (s : State) (k v : Nat) (hv : v < vectorCount k) (hm : msixMasked (getFn s k) v = true) :
    sendMsix s k v = setFn s k { getFn s k with msixPend := mset false (getFn s k).msixPend v true } := by
  simp [sendMsix, hv, hm]

/-- A message of a vector that is not masked is sent. -/
theorem sendMsix_open (s : State) (k v : Nat) (hv : v < vectorCount k) (hm : msixMasked (getFn s k) v = false) :
    sendMsix s k v = { s with out := s.out ++ [.msix (fnPort k) (k % 65) v] } := by
  simp [sendMsix, hv, hm]

/-! ### Flags -/

/-- The count of a raised flag: it rises by one, at most to 255, where its event had not been raised in this fc (R366). -/
@[simp] theorem flagCount_raise_same (fc : Nat) (f : FlagReg) (b : Nat) :
    flagCount (raise fc f b) b = if flagNow fc f b = true then flagCount f b else min (flagCount f b + 1) 255 := by
  unfold raise
  split <;> simp [flagCount]

/-- Another flag's count stays. -/
theorem flagCount_raise_other (fc : Nat) (f : FlagReg) (b d : Nat) (h : d ≠ b) : flagCount (raise fc f b) d = flagCount f d := by
  unfold raise
  split <;> simp [flagCount, mget_mset_other _ _ _ _ _ h]

/-- The event of a raised flag has been raised in this fc. -/
@[simp] theorem flagNow_raise_same (fc : Nat) (f : FlagReg) (b : Nat) : flagNow fc (raise fc f b) b = true := by
  unfold raise
  split
  · assumption
  · simp [flagNow, flagCount]

/-- A second event of the same fc changes nothing (R366). -/
@[simp] theorem raise_raise (fc : Nat) (f : FlagReg) (b : Nat) : raise fc (raise fc f b) b = raise fc f b := by
  exact if_pos (flagNow_raise_same fc f b)

/-- The count of a flag after a write of its register (R367). -/
theorem flagCount_flagClear (fc : Nat) (f : FlagReg) (w b : Nat) :
    flagCount (flagClear fc f w) b = if bit w b = true then (if flagNow fc f b = true then 1 else 0) else flagCount f b := by
  suffices h : ∀ (g : FlagReg), flagCount ((g.filter (fun p => !bit w p.1 || flagNow fc f p.1)).map
      (fun p => if bit w p.1 then (p.1, { p.2 with count := 1 }) else p)) b
      = if bit w b = true then (if flagNow fc f b = true then (if mhas g b = true then 1 else 0) else 0) else flagCount g b by
    unfold flagClear
    rw [h]
    by_cases hw : bit w b = true <;> by_cases hn : flagNow fc f b = true <;> simp [hw, hn]
    cases hm : mhas f b
    · simp [flagNow, flagCount, mget_of_not_mhas _ _ _ hm] at hn
    · rfl
  intro g
  induction g with
  | nil => simp [mget, flagCount, mhas]
  | cons p g ih =>
    obtain ⟨k, v⟩ := p
    have hm : mhas ((k, v) :: g) b = (decide (k = b) || mhas g b) := rfl
    by_cases hk : bit w k = true <;> by_cases hb : k = b <;> by_cases hn : flagNow fc f k = true <;>
      simp_all [mget, flagCount, List.filter_cons]

/-! ### Rings -/

/-- The end of a descriptor changes its ring alone. -/
theorem finishDesc_ring (s : State) (r id status detail q : Nat) (h : q ≠ r) : getRing (finishDesc s r id status detail) q = getRing s q := by
  unfold finishDesc
  exact getRing_updRing_other _ _ _ _ h

/-- The end of a descriptor changes nothing but rings. -/
theorem finishDesc_frame (s : State) (r id status detail : Nat) :
    finishDesc s r id status detail = { s with rings := (finishDesc s r id status detail).rings } := rfl

/-- The head of a ring that has one is taken: it opens under the ring's next number. -/
theorem takeHead_cons (s : State) (r : Nat) (ofRun : Option Nat) (d : Nat × Nat) (ds : List (Nat × Nat)) (h : (getRing s r).ready = d :: ds) :
    takeHead s r ofRun = ((getRing s r).nextId, setRing s r { getRing s r with
      ready := ds, open_ := (getRing s r).open_ ++ [{ id := (getRing s r).nextId, idx := d.1, raw := d.2, ofRun := ofRun }], nextId := (getRing s r).nextId + 1 }) := by
  simp [takeHead, h]

/-- A head that completes at once changes nothing but rings. -/
theorem finishHead_frame (s : State) (r status detail : Nat) : finishHead s r status detail = { s with rings := (finishHead s r status detail).rings } := by
  unfold finishHead takeHead
  dsimp only
  split <;> rfl

end Sys2Proof.Machine
end

