-- ==== Sys2Proof/Tests/Slice0.lean ====
section
/-! SUPPORT. Tests of the model: ill-formed commands for each check, the spec's worked examples, and for each statement
states and operands that meet its hypotheses. -/

namespace Sys2Proof.Tests

open Sys2Proof Sys2Proof.Machine Sys2Proof.Claims

set_option Elab.async false

/-! ### Helpers and small states -/

/-- The next state of an outcome, the state after reset where there is none. -/
def nextOf (o : Host.Outcome State Fault Refusal) : State := match o with | .next t => t | _ => State.reset

/-- A command answers a next state. -/
def goes (c : Instr) (s : State) : Bool := match exec c s with | .next _ => true | _ => false

/-- The state that a command leaves. -/
def after (c : Instr) (s : State) : State := nextOf (exec c s)

/-- A command is refused as a form that no loaded pattern holds. -/
def rejects (c : Instr) (s : State) : Bool := match exec c s with | .refused .rejectedAtLoad => true | _ => false

/-- The PF of port A and VF 12 of port B. -/
def pf : FnAddr := { port := 0, fn := 0 }
def vf : FnAddr := { port := 1, fn := 12 }

/-- The host has enabled memory space, bus mastering and MSI-X of a function. -/
def cfgOn : CfgSt := { mem := true, master := true, msixEn := true }

/-- A device that is ready, both ports up with 64 VFs, Handle die 0 active and die 1 its standby. -/
def ready : State :=
  { State.reset with
    rootLock := true,
    power := { coldReset := false },
    ports := [(0, { up := true, perst := false }), (1, { up := true, perst := false, vfEnable := true, vfMem := true, numVfs := 64 })],
    fns := [(0, { cfg := cfgOn })],
    handle := { latch := some 0, stage := 6, dies := [(0, { role := .active }), (1, { role := .standby })] },
    tiers := { zeroed := true } }

/-- `ready` with the PF of port A in an open session of a role. -/
def withRole (role : Nat) : State :=
  { ready with fns := [(0, { cfg := cfgOn, ringCount := 0x2000, mbState := .opened, session := 7, role := role })] }

/-- An operand descriptor of a 32 × 32 tensor in the operand store (Table 07.1). -/
def descWord (fmt axes base : Nat) : Nat := fmt * 2 ^ 124 + axes * 2 ^ 120 + 31 * 2 ^ 82 + 31 * 2 ^ 62 + 31 * 2 ^ 42 + 4 * 2 ^ 16 + base

/-- A context image: descriptors 0 FP32, 1 L16 activation, 2 L16 weight, 3 L16; route 0 to queue 3 of core 1 in L16; slot 0 of engine 0
plain and slot 1 a pair; table descriptor 0 with no rows. -/
def image0 : CtxImage :=
  { header := 4 * 2 ^ 32, queues := [], routes := [2 ^ 31 + 2 ^ 19 + 3 * 2 ^ 15 + 2 ^ 13],
    descs := [descWord 0 0 0, descWord 8 1 0, descWord 8 2 0, descWord 8 0 0], tables := [0], slotMap := [1, 2], bundles := [], trailer := 0 }

/-- Context 0 of a core, resident, with `image0`. -/
def ctx0 : Ctx := { resident := true, image := some image0, slot := some 1, accPhys := [(0, 1), (1, 2), (65, 3)] }

def core0 : CoreSt := { ctxs := [(0, ctx0)], cur := some 0 }

/-- Core 0 (a dense core) and core 0x200 (an even one) of partition 1 can issue. -/
def coreState : State :=
  { ready with parts := [(1, { clusters := [0, 64], cur := some 0 })], cores := [(0, core0), (512, core0)] }

/-- What they issue from. -/
def issue0 : Issue := { core := core0, n := 0, ctx := ctx0 }

/-- A lane instruction of core 0 with p0. -/
def laneOp : LaneOp :=
  { core := 0, pinv := false, preg := 0, iov := 0, vd := 1, va := 2, vb := 3, vc := 4, pd := 1, nega := false, negb := false, absa := false,
    imm := 0 }

/-! ### Well-formed commands -/

theorem test_wf_core : Instr.wf (.yield 0x25F false 0) = true ∧ Instr.wf (.yield 0x260 false 0) = false ∧ Instr.wf (.yield 0x1FF false 0) = true ∧
    Instr.wf (.yield 0x280 false 0) = false ∧ Instr.wf (.fadd { laneOp with core := 0xFFF }) = false := by decide

theorem test_wf_engine : Instr.wf (.selfTest 0x200 1 true) = true ∧ Instr.wf (.selfTest 0x200 2 true) = false ∧
    Instr.wf (.selfTest 0 3 true) = true := by decide

theorem test_wf_function : Instr.wf (.openMb { port := 1, fn := 64 } 0) = true ∧ Instr.wf (.openMb { port := 1, fn := 65 } 0) = false := by decide

theorem test_wf_port : Instr.wf (.helloTimer 5) = true ∧ Instr.wf (.helloTimer 6) = false ∧ Instr.wf (.linkEnable pf 7) = false ∧
    Instr.wf (.flagClear pf (.link 6) 0) = false := by decide

theorem test_wf_die : Instr.wf (.dieFault 47 0) = true ∧ Instr.wf (.dieFault 48 0) = false ∧ Instr.wf (.heartbeat 0x3F true) = true ∧
    Instr.wf (.heartbeat 0x40 true) = false ∧ Instr.wf (.hopCrc (.bond 48) true true) = false := by decide

theorem test_wf_arbiter : Instr.wf (.withdraw 3 47 0) = true ∧ Instr.wf (.withdraw 3 48 0) = false ∧ Instr.wf (.withdraw 1 64 0) = false ∧
    Instr.wf (.withdraw 4 0 0) = false := by decide

theorem test_wf_granule : Instr.wf (.granuleZeroing 1 294911) = true ∧ Instr.wf (.granuleZeroing 1 294912) = false ∧
    Instr.wf (.granuleZeroing 2 524287) = true ∧ Instr.wf (.granuleZeroing 3 0) = false := by decide

theorem test_wf_sram : Instr.wf (.sramUncorrectable ⟨.cache 0 767 0, false⟩) = true ∧ Instr.wf (.sramUncorrectable ⟨.cache 0 768 0, true⟩) = false ∧
    Instr.wf (.sramUncorrectable ⟨.acc 0x200 2 0, false⟩) = false := by decide

theorem test_wf_sensor : Instr.wf (.sensorSample 293 0) = true ∧ Instr.wf (.sensorSample 294 0) = false := by decide

theorem test_wf_token : Instr.wf (.tokenArrival { hdr := 0x6156187C4FE06011, tile := [] }) = true ∧
    Instr.wf (.tokenArrival { hdr := 0x615A807C4FE06011, tile := [] }) = false := by decide

/-- A command that names a unit the package does not have is refused by name. -/
theorem test_no_such_unit : (match exec (.yield 0x260 false 0) coreState with | .refused .noSuchUnit => true | _ => false) = true ∧
    (match exec (.openMb { port := 1, fn := 65 } 0) ready with | .refused .noSuchUnit => true | _ => false) = true := by decide

/-- No word spells a command. -/
theorem test_no_words : decodeTableWord 32 0x12345678 = none ∧ (State.withFetchWord State.reset 64 5).pending = [] := by decide

/-! ### The spec's worked examples -/

/-- Chapter 3: two cell products. -/
theorem test_cell_products : cellProduct 0x3D 0xCA = .val (-3444) 1 ∧ cellProduct 0x21 0x31 = .val 2896 (-12) := by decide

/-- Chapter 3: the hi and lo codes of two L16 operands. -/
theorem test_operand_split : splitCode (-14) 0x4053 = (0x79, 0x68) ∧ splitCode (-15) 0x3FD3 = (0x7B, 0x6A) ∧
    vecOffset [0x4053] = -14 ∧ vecOffset [0x3FD3] = -15 := by decide +kernel

/-- Chapter 5: the three operations of a sigmoid in log lanes. -/
theorem test_log_lanes : (lAdd 0x4000 0x3E8F).code = 0x4074 ∧ (lDiv 0x4000 0x4074).code = 0x3F8C := by decide +kernel

/-- Chapter 6: a token header, and its fields back. -/
theorem test_token_header : mkHdr 0x615 0x618 7 true 2 0 19 31 3 0 17 = 0x6156187C4FE06011#64 ∧ tokDst 0x6156187C4FE06011 = 0x618 ∧
    tokQ 0x6156187C4FE06011 = 7 ∧ tokTag 0x6156187C4FE06011 = 6 ∧ tokSeq 0x6156187C4FE06011 = 17 := by decide

/-- Chapter 7: Table 07.2, and the visit index 48 of local row 3, column 7. -/
theorem test_identities : identity .l8 1 = 0xFF ∧ identity .fp32 2 = 0x3F800000 ∧ identity .e4m3 1 = 0xFE ∧ hilbert8 48 = (3, 7) := by decide

/-- Chapter 8: the code of one element in the first step. The gradient 3.0e-4 is 0x399D4952. -/
theorem test_error_feedback : (quantise 0x399D4952 0).1 = 0x11 := by decide +kernel

/-- Chapter 9: block 77 of granule 300 and of its partner. -/
theorem test_channels : lpChannel (512 * 300 + 77) = 9 ∧ lpChannel (512 * (300 ^^^ 4) + 77) = 41 := by decide

/-- Chapter 13: the header of a DATA block. -/
theorem test_sequenced : sequenced 0x1180014015040000#64 = true ∧ bits (0x1180014015040000 : Nat) 30 23 = 0x2A := by decide

/-- Chapter 18: four advances of a point's generator. -/
theorem test_generator : lfsr 0xACE12468 = 0x56709234 ∧ lfsr 0x56709234 = 0x2B38491A ∧ lfsr 0x2B38491A = 0x159C248D ∧
    lfsr 0x159C248D = 0x8AEE1245 := by decide

/-- The arbiter of channel 9 after fc 0, 1 and 2 of Table 15.7. -/
def arb9 (a : ArbSt) (fc : Nat) (pert : PertSt := {}) : State := { ready with fc := fc, arbs := [(arbKey 1 9, a)], pert := pert }
def arbOp (reqs : List (BitVec 4)) : ArbOp := { cls := 1, index := 9, reqs := reqs, slots := [], serving := false }
def arbAfter (c : Instr) (s : State) : ArbSt := getArb (after c s) (arbKey 1 9)

theorem test_arbitration_0 : arbAfter (.arbitration (arbOp [2, 5])) (arb9 {} 0) =
    { ptr := 3, queue := [5], lastGrant := some (2, 0), busy := true, grants := 1, parked := 1 } := by decide

theorem test_arbitration_1 : arbAfter (.arbitration (arbOp [1, 7])) (arb9 { ptr := 3, queue := [5], lastGrant := some (2, 0), grants := 1, parked := 1 } 1) =
    { ptr := 6, queue := [7, 1], lastGrant := some (5, 1), busy := true, grants := 2, parked := 3 } := by decide

theorem test_arbitration_2 : arbAfter (.arbitration (arbOp [])) (arb9 { ptr := 6, queue := [7, 1], grants := 2, parked := 3 } 2) =
    { ptr := 0, queue := [1], lastGrant := some (7, 2), busy := true, grants := 3, parked := 3 } ∧
    arbAfter (.withdraw 1 9 7) (arb9 { ptr := 0, queue := [1], lastGrant := some (7, 2), grants := 3, parked := 3 } 2) =
    { ptr := 0, queue := [1], grants := 2, parked := 3, dead := 1 } := by decide

theorem test_arbitration_3 : arbAfter (.arbitration (arbOp [4])) (arb9 { ptr := 0, queue := [1], swFreeze := true } 3) =
    { ptr := 0, queue := [1, 4], swFreeze := true, parked := 1 } ∧
    getArb (fenceInput (arb9 { queue := [1, 4] } 4) (arbKey 1 9) 1) (arbKey 1 9) = { queue := [4], fenced := 2 } := by decide

theorem test_arbitration_6 : arbAfter (.arbitration (arbOp [0, 6])) (arb9 { ptr := 5 } 6) =
    { ptr := 7, queue := [0], lastGrant := some (6, 6), busy := true, grants := 1, parked := 1 } := by decide

/-- Chapter 12: the completion of the RUN of VF 12, its fetch index and its bytes. -/
def runDesc : Nat := ofBytesLE ([0x04, 0x01, 0x25, 0, 0x41, 0x0A, 0, 0, 1, 0, 4, 0, 0, 0, 0, 0] ++ bytesLE 8 0x1000000032000000 ++
  [2, 0, 0, 0, 0, 8, 0, 0])

theorem test_completion_bytes : completionEntry { id := 0, idx := 41, raw := runDesc, status := some 0, detail := 1 } 42 true =
    [0x41, 0x0A, 0, 0, 0x29, 0, 0x2A, 0, 1, 0, 0, 0, 0, 4, 0, 0x80] := by decide

theorem test_run_descriptor : dCode runDesc = 4 ∧ bit runDesc 8 = true ∧ dTarget runDesc = 37 ∧ dSteps runDesc = 1 ∧ dPcount runDesc = 4 ∧
    taTier (dPlist runDesc) = 1 ∧ taGidx (dPlist runDesc) = 400 := by decide

/-- Chapter 19: VF 12 of port B sets up ring 8,579. -/
def tenant : State :=
  { ready with fns := [(fnKeyOf vf, { cfg := cfgOn, ringFirst := 0x180, ringCount := 16, mbState := .opened, session := 9, role := 1, domain := 5 })] }

def vfWrite (o : BitVec 24) (v : Word) (s : State) : State := nextOf (execRegisterWrite vf .bar0 o v s)

def tenantSet : State :=
  vfWrite 0x2058 8 (vfWrite 0x2054 0x40 (vfWrite 0x2050 0x300000 (vfWrite 0x2044 0x40 (vfWrite 0x2040 0x200000
    (vfWrite 0x202C 0x40 (vfWrite 0x2028 0x110000 (vfWrite 0x2024 0x40 (vfWrite 0x2020 0x100000 (vfWrite 0x2010 0x2183 tenant)))))))))

theorem test_ring_set_up : (getRing tenantSet 8579).sq = 0x4000100000 ∧ (getRing tenantSet 8579).cq = 0x4000110000 ∧
    (getFn tenantSet 77).dbBase = 0x4000200000 ∧ (getFn tenantSet 77).bufBase = 0x4000300000 ∧ (getFn tenantSet 77).bufCount = 8 := by decide

/-- RING_CTL then reads ENABLE 1, ACTIVE 1, SIZE 2 and VECTOR 3; a later write of RING_SQ_LO raises CFG_ERR, counted once. -/
theorem test_ring_control : bar0Value (vfWrite 0x2014 0x88000003 tenantSet) 77 0x2014 = 0xC8000003 ∧
    bar0Value (vfWrite 0x2020 0 (vfWrite 0x2014 0x88000003 tenantSet)) 77 0x2060 = 2 ∧
    bar0Value (vfWrite 0x2020 0 (vfWrite 0x2014 0x88000003 tenantSet)) 77 0x2064 = 0x100 := by decide

/-- Chapter 15: a clear that meets an event. -/
theorem test_clear_meets_event : flagCount (flagClear 9 [(0, { count := 2, last := 9 })] 1) 0 = 1 ∧
    flagCount (raise 9 (raise 9 (flagClear 9 [(0, { count := 2, last := 8 })] 1) 0) 0) 0 = 1 ∧
    flagCount (raise 10 (raise 9 (flagClear 9 [(0, { count := 2, last := 8 })] 1) 0) 0) 0 = 2 := by decide

/-- Reset values of chapter 19. -/
theorem test_reset_values : bar0Value State.reset 0 0 = 0x70640100 ∧ bar0Value State.reset 65 0x80030 = 0x100000 ∧
    bar0Value State.reset 0 0x1040 = 0xBB8 ∧ bar2Value State.reset 77 4 = 1 := by decide +kernel

/-! ### Statements about cores: states and operands that meet the hypotheses -/

theorem test_issues : Issues coreState 0 issue0 ∧ Issues coreState 512 issue0 ∧ GsIssues coreState 512 issue0 ∧ coreEven 512 = true := by
  refine ⟨⟨?_, ?_⟩, ⟨?_, ?_⟩, ⟨⟨?_, ?_⟩, ?_⟩, ?_⟩ <;> decide

theorem test_hyp_lane_rows : laneFormOk .vf laneOp = true ∧ laneFormOk .vi { laneOp with iov := 2, imm := 0x8000 } = true ∧
    laneFormOk .vl { laneOp with core := 512 } = true ∧ laneFormOk .vc { laneOp with imm := 0x0800 } = true := by decide

/-- FADD, FCMPLT, IADD, ICMPLT, LADD and CVT complete. -/
theorem test_lane_rows : goes (.fadd laneOp) coreState = true ∧ goes (.iadd laneOp) coreState = true ∧
    goes (.ladd { laneOp with core := 512 }) coreState = true ∧ goes (.cvt { laneOp with imm := 0x0800 }) coreState = true ∧
    goes (.pany { core := 0, pinv := false, preg := 0, pd := 1, ps := 0 }) coreState = true := by decide +kernel

/-- The sum 1.0 + 2.0 is readable after 4 ac (R90). -/
theorem test_fadd_result :
    let x := { ctx0 with regs := [(128 * 2, 0x3F800000), (128 * 3, 0x40000000)] }
    let s := { coreState with cores := [(0, { core0 with ctxs := [(0, x)] })] }
    ((getCore (after (.fadd laneOp) s) 0).inflight.map (fun f => (f.due, f.reg, f.vals.head?))) = [(4, 1, some (0, 0x40400000, false))] := by
  decide +kernel

theorem test_hyp_LaneFormsRejected : coreValid 0 = true ∧ laneFormOk .vf { laneOp with iov := 1 } = false ∧
    laneFormOk .vi { laneOp with iov := 3 } = false ∧ laneFormOk .vl laneOp = false ∧ laneFormOk .vc laneOp = false := by decide

def flight : InFlight := { due := 4, ctx := 0, pred := false, reg := 1, vals := [(127, 5, false)] }

theorem test_hyp_ResultLatency :
    let co := { core0 with inflight := [flight] }
    co.inflight = [flight] ∧ flight.pred = false ∧ flight.vals = [(127, 5, false)] ∧ (127 : Nat) < 128 ∧ co.ac + 3 < flight.due ∧
    flight.due ≤ co.ac + 4 := by decide

theorem test_result_latency :
    (getCtx (tickCore { core0 with inflight := [flight] } 3) 0).lane 1 127 = 0 ∧
    (getCtx (tickCore { core0 with inflight := [flight] } 4) 0).lane 1 127 = 5 := by decide

theorem test_hyp_SpecialFunctions : coreEven 512 = true ∧ coreValid 0 = true ∧ coreEven 0 = false ∧ rejects (.sigmoid laneOp) coreState = true := by
  decide

/-- ENG of core 0: activation 1, weight 2, slot 0 of engine 0, one block. -/
def engOp : EngOp :=
  { core := 0, pinv := false, preg := 0, eng := 0, passes := 1, group := 0, accSlot := 0, accInit := 0, accOut := false, qin := 3, odst := 0,
    asrc := 1, wsrc := 2, kblk := 0 }

/-- A running value of context 0 at the head of queue 3 of core 0. -/
def runa : Token := { hdr := mkHdr 1 0 3 false 0 1 31 31 0 0 0, tile := [] }
def runc : Token := { hdr := mkHdr 1 0 3 false 0 2 31 31 0 0 1, tile := [] }
def issueQ (hw : List Token) : Issue := { issue0 with core := { core0 with queues := [(3, { hw := hw })] } }

theorem test_hyp_EngineTile : engFormOk issue0 engOp = true ∧ issue0.ctx.active engOp.pinv engOp.preg.toNat 0 = true ∧
    issue0.ctx.slotKind 0 0 = 1 ∧ issue0.ctx.slotKind 0 1 = 2 ∧ mget 0 issue0.ctx.accPhys 1 ≠ mget 0 issue0.ctx.accPhys 65 ∧
    issue0.ctx.active true 0 0 = false ∧
    chainBadHead (issueQ [runa]) 3 false = false ∧ (chainIn (issueQ [runa]) 3 false).isSome = true ∧
    chainBadHead (issueQ [runa, runc]) 3 true = false ∧ (chainIn (issueQ [runa, runc]) 3 true).isSome = true := by decide

theorem test_hyp_NoRelay : NoRelay coreState ctx0 0 0 := by unfold NoRelay; decide

/-- The pair form, with a running value and with its slot sent on, has the form too. -/
theorem test_hyp_EngineForms : engFormOk issue0 { engOp with accSlot := 1, accInit := 2, accOut := true } = true ∧
    issue0.ctx.active false 0 0 = true := by decide

theorem test_hyp_EngineChainWaits : engFormOk issue0 { engOp with accInit := 2 } = true ∧ chainBadHead issue0 3 false = false ∧
    chainIn issue0 3 false = none ∧ coreEven 512 = true ∧ (issue? coreState 512).isSome = true ∧
    rejects (.eng { engOp with core := 512, eng := 2 }) coreState = true := by decide

/-- Class GS on the even core 0x200. -/
def gsOp : GsOp := { core := 512, pinv := false, preg := 0, va := 1, vd := 2, vc := 3, desc := 0, table := 0, seg := 0 }
def request : GatherReq := { ctx := 0, table := 0, idx := List.replicate 32 0, seg := 0, desc := 0, pos := {} }
def gathering (n : Nat) : CoreSt := { core0 with gathers := List.replicate n request }

theorem test_hyp_GatherUnit : (gathering 7).gathers.length < 8 ∧ 8 ≤ (gathering 8).gathers.length ∧ ctx0.active false 0 0 = true ∧
    ctx0.active true 0 0 = false ∧ (∀ g ∈ (gathering 0).gathers, g.ctx ≠ 0) ∧ (∃ g ∈ (gathering 1).gathers, g.ctx = 0) ∧
    issue? { coreState with cores := [(512, gathering 8)] } 512 = some { core := gathering 8, n := 0, ctx := ctx0 } ∧
    ((request.idx.map (signedVal 32)).mapM (gatherRow coreState 0 request.table request.seg)).isSome = true := by decide

theorem test_hyp_OutOfRangeRowIsZero : ((-1 : Int) < 0) ∧ ((tdRows 0 : Nat) : Int) ≤ 0 ∧ gatherRow coreState 0 0 0 (-1) = some (List.replicate 32 0) := by
  decide

/-- A tensor of one FP32 element, and a table of one row of 32 FP32 elements at granule 0 of the HBM3E tier, which domain 0 has. -/
def table1 : Nat := 2 ^ 124 + 2 ^ 53 + 2 * 2 ^ 37
def tableCtx : Ctx := { ctx0 with image := some { image0 with tables := [table1], descs := [4 * 2 ^ 16] } }
def tableState : State :=
  { coreState with cores := [(512, { core0 with ctxs := [(0, tableCtx)] })], doms := [(0, { created := true, hbmMap := [(0, 1)] })] }

theorem test_hyp_ScatterAndIndex : dFormat (ctx0.desc 0) = .fp32 ∧ tdFmt (ctx0.table 0) = .fp32 ∧
    (∀ k ∈ indices ctx0 1, indexOk (ctx0.table 0) k = false) ∧ tdFmt table1 = .fp32 ∧ 0 < tdRows table1 ∧
    (∀ k ∈ indices tableCtx 1, indexOk table1 k = true) ∧ issue? tableState 512 = some { core := { core0 with ctxs := [(0, tableCtx)] }, n := 0, ctx := tableCtx } := by
  decide

theorem test_scatter_completes : goes (.scatterAdd gsOp) tableState = true ∧ goes (.imod gsOp) tableState = true ∧
    goes (.scatterAdd gsOp) coreState = true := by decide +kernel

/-! ### Tokens, the sequencer, loads and drains -/

/-- A token of context 0 for queue 3 of core 0, with its sequence number. -/
def tok (seq kind : Nat) : Token := { hdr := mkHdr 1 0 3 false 0 kind 31 31 0 0 seq, tile := [] }
def tokOp : TokOp := { core := 0, q := 3, route := 0, opd := 3 }
def queueState (hw lane : List Token) (held : Bool) : State :=
  { coreState with cores := [(0, { core0 with queues := [(3, { hw := hw, lane := lane, held := held })] })] }

/-- `core0` with something in queue 3. -/
def queueCore (hw lane : List Token) (held : Bool) : CoreSt := { core0 with queues := [(3, { hw := hw, lane := lane, held := held })] }

theorem test_hyp_Receive : issue? (queueState [tok 0 0] [] false) 0 = some { core := queueCore [tok 0 0] [] false, n := 0, ctx := ctx0 } ∧
    (getQueue (queueCore [tok 0 0] [] true) 3).held = true ∧ (getQueue core0 3).held = false ∧
    foldAllows (getPart coreState 1) core0 3 = true ∧ (getQueue core0 3).head = none ∧
    (getQueue (queueCore [tok 0 0] [] false) 3).head = some (tok 0 0) ∧ tokCtx (tok 0 0).hdr = 0 ∧ tokGen (tok 0 0).hdr = false ∧ tokKind (tok 0 0).hdr = 0 ∧
    tokCtx (mkHdr 1 0 3 false 1 0 31 31 0 0 0) ≠ 0 ∧ tokGen (mkHdr 1 0 3 true 0 0 31 31 0 0 0) ≠ false := by decide

theorem test_recv : (getQueue (getCore (after (.recv tokOp) (queueState [tok 0 0] [] false)) 0) 3).held = true ∧
    (getCore (after (.recv tokOp) coreState) 0).stop = some (.recvEmpty 3) ∧
    (getQueue (getCore (after (.rel tokOp) (queueState [tok 0 0, tok 1 0] [] true)) 0) 3) = { hw := [tok 1 0] } := by decide

theorem test_hyp_Send : reEn (ctx0.route 0) = true ∧ dFormat (ctx0.desc 3) = tokFmt (reFmt (ctx0.route 0)) ∧
    reEn (ctx0.route 1) = false ∧ queueFull coreState (mkHdr 0 1 3 false 0 0 31 31 0 0 0) = false ∧ takeInject coreState 1 0 = none ∧
    queueFull { coreState with cores := [(0, core0), (1, queueCore (List.replicate 8 (tok 0 0)) [] false)] } (mkHdr 0 1 3 false 0 0 31 31 0 0 0) = true := by
  decide

theorem test_send : ((after (.send tokOp) coreState).out.map (fun o => match o with | .token t => t.hdr | _ => 0)) = [mkHdr 0 1 3 false 0 0 31 31 0 0 0] := by
  decide +kernel

theorem test_hyp_TokenArrival : coreValid (tokDst (tok 0 0).hdr) = true ∧ QueueClear coreState 0 3 ∧ Expected coreState (tok 0 0) ∧
    place core0 3 (tok 0 0).hdr ≠ .full ∧ place (queueCore (List.replicate 8 (tok 0 0)) [] false) 3 (tok 0 0).hdr = .full ∧
    (getCtx core0 1).resident = false ∧ ctx0.gen ≠ tokGen (mkHdr 1 0 3 true 0 0 31 31 0 0 0) := by
  unfold QueueClear Expected; decide

theorem test_token_arrival : (getQueue (getCore (after (.tokenArrival (tok 0 0)) coreState) 0) 3).hw = [tok 0 0] ∧
    mget 0 (getCtx (getCore (after (.tokenArrival (tok 0 0)) coreState) 0) 0).recvSeq 3 = 1 ∧
    flagSet (after (.tokenArrival (tok 1 0)) coreState).pipeFlags pipeSeqErr = true ∧
    flagSet (after (.tokenArrival { tok 0 0 with hdr := mkHdr 1 0 3 true 0 0 31 31 0 0 0 }) coreState).pipeFlags pipeTagMismatch = true := by decide

theorem test_hyp_Fill : coreValid 0 = true ∧ (getQueue (queueCore [tok 0 0] [tok 1 0] false) 3).lane = [tok 1 0] ∧
    (getQueue (queueCore (List.replicate 7 (tok 0 0)) [tok 1 0] false) 3).hw.length < 8 ∧ takeInject coreState 1 0 = none := by decide

/-- Chapter 18: point 0 delays queue 7 of core q1.e0.c3.k0. -/
def delayPoint : PointSt := { arm := true, kind := 1, mode := 0, target := 3, value := 52 }
def delayState : State := { coreState with pert := { en := true, points := [(0, delayPoint)] } }
def heldState : State := { coreState with fc := 52, pert := { en := true, holds := [(holdKey 0 3, some (tok 0 0, 52))] } }

theorem test_hyp_QueueDelay : findPoint delayState 1 (fun p => p.target == holdKey 0 3 && decide (p.mode ≤ 1)) = some (0, delayPoint) ∧
    mget none delayState.pert.holds (holdKey 0 3) = none ∧ delayPoint.mode = 0 ∧
    mget none heldState.pert.holds (holdKey 0 3) = some (tok 0 0, 52) ∧ (52 : Nat) ≤ heldState.fc ∧ queueBlocked heldState 0 3 = false ∧
    Expected heldState (tok 0 0) ∧ place (getCore heldState 0) 3 (tok 0 0).hdr ≠ .full ∧ ({ heldState with fc := 51 } : State).fc < 52 := by
  unfold Expected; decide

theorem test_queue_delay : mget none (after (.tokenArrival (tok 0 0)) delayState).pert.holds (holdKey 0 3) = some (tok 0 0, 52) ∧
    (getQueue (getCore (after (.qdelayRelease 0 3) heldState) 0) 3).hw = [tok 0 0] := by decide

/-- Partition 1 runs slot 1 with two problem-list entries, and core 0 has a fold table of two entries. -/
def problemState : State :=
  { coreState with
    parts := [(1, { clusters := [0], cur := some 0, run := some 1, problems := [{ off := [], par := [7, 0] }, { off := [], par := [8] }] })],
    cores := [(0, { core0 with par := [7, 0] })] }

theorem test_hyp_SequencerControl : ctx0.loops.length < 4 ∧ (0 : Nat) < (256 : BitVec 9).toNat ∧ (256 : BitVec 9).toNat ≤ 256 ∧ 256 < (257 : BitVec 9).toNat ∧
    nth 0 ({ core0 with par := [7, 0] } : CoreSt).par (1 : BitVec 2).toNat = 0 ∧ holdsToken core0 = false ∧ holdsToken (queueCore [tok 0 0] [] true) = true ∧
    core0.entry + 1 < (getPart problemState 1).problems.length ∧
    (getPart problemState 1).problems.length ≤ ({ core0 with entry := 1 } : CoreSt).entry + 1 ∧
    ({ core0 with fold := [2 ^ 31, 2 ^ 31] } : CoreSt).fold ≠ [] ∧ core0.fold = [] ∧
    ctx0.active false 0 0 = true ∧ ctx0.active true 0 0 = false := by decide

theorem test_sequencer : (getCtx (getCore (after (.loop 0 2 (.imm 3)) coreState) 0) 0).loops = [{ first := 1, last := 2, left := 2 }] ∧
    (getCore (after (.pmark 0 false 0 2) problemState) 0).entry = 1 ∧ (getCtx (getCore (after (.pmark 0 false 0 2) problemState) 0) 0).pc = 2 ∧
    (getCore (after (.yield 0 false 0) coreState) 0).boundary = true ∧ (getCore (after (.yield 0 true 0) coreState) 0).boundary = false ∧
    (getCore (after (.pmark 0 true 0 2) problemState) 0).entry = 0 ∧ rejects (.loop 0 0 (.imm 1)) coreState = true ∧
    (getCtx (getCore (after (.coreNop 0 true) coreState) 0) 0).pc = 1 := by decide

def ldstOp : LdstOp := { core := 0, pinv := false, preg := 0, vr := 1, desc := 0, row := 31 }

theorem test_hyp_LoadsAndStores : takeInject coreState 1 0 = none ∧ ctx0.active false 0 31 = true ∧ dSpace (ctx0.desc 0) = 0 ∧
    inTensor (ctx0.desc 0) core0.par (0, 0) 31 31 = true ∧ inTensor (ctx0.desc 0) core0.par (0, 0) 32 0 = false ∧ dFormat (ctx0.desc 0) = .fp32 := by decide

/-- Lane 31 of row 31 goes to byte 4,092 of the store, and lane 32 nowhere. -/
theorem test_store : mgetList 0 (getCore (after (.storeRegister ldstOp)
    { coreState with cores := [(0, { core0 with ctxs := [(0, { ctx0 with regs := [(159, 0x04030201)] })] })] }) 0).store 4092 5 = [1, 2, 3, 4, 0] := by decide +kernel

def switchState : State :=
  { coreState with
    parts := [(1, { clusters := [0], cur := some 0, mode := .switching, swReq := some { ctx := 1, desc := none } })],
    cores := [(0, { core0 with ctxs := [(0, ctx0), (1, ctx0)] }), (1, { core0 with cur := some 1 })] }

theorem test_hyp_ContextSwitch : coreValid 0 = true ∧ partOfCluster switchState (coreCluster 0) = some 1 ∧
    (getPart switchState 1).swReq = some { ctx := 1, desc := none } ∧ (getPart switchState 1).drain = .idle ∧ (getCore switchState 1).cur = some 1 ∧
    (getCore switchState 0).cur ≠ some 1 ∧ (getCore switchState 0).boundary = true ∧ (getCtx (getCore switchState 0) 1).resident = true ∧
    ({ core0 with boundary := false } : CoreSt).boundary = false ∧ (2 ∈ partCores (getPart switchState 1) ∧ (getCore switchState 2).cur ≠ some 1) := by decide

/-- The last core of the partition to switch ends the request. -/
def lastSwitch : State :=
  { switchState with cores := (List.range 8).map (fun k => (k, { core0 with ctxs := [(0, ctx0), (1, ctx0)], cur := some (if k = 0 then 0 else 1) })) }

theorem test_context_switch : (getCore (after (.contextSwitch 0) switchState) 0).cur = some 1 ∧
    (getPart (after (.contextSwitch 0) switchState) 1).swReq.isSome = true ∧ (getPart (after (.contextSwitch 0) lastSwitch) 1).cur = some 1 ∧
    (getPart (after (.contextSwitch 0) lastSwitch) 1).swReq = none := by decide

/-- An image of core 0 with its check value (R134), in a pattern of one context. -/
def loadImage : CtxImage := { idleImage 0 with trailer := imageCheck (idleImage 0) 0 }
def emptyPattern : Pattern :=
  { ctxs := [[(0, loadImage)]], folds := [], job := 0, relay := [], landing := [], micro := 1, table := [], progs := [], owners := [], stash := 0, gaa := 0, staging := [],
    streams := [], parMin := [], parMax := [], records := 0, timing := {}, marker := false, staticOk := true }
def aLoad : LoadSt := { ctx := 1, slot := 1, part := 0, fold := false, waiting := false, since := 0, ring := 0, desc := 0, regions := [] }
def loadState (waiting : Bool) (cur : Nat) : State :=
  { coreState with
    parts := [(1, { clusters := [0], cur := some 0, loads := [{ aLoad with waiting := waiting }] })],
    cores := [(0, { core0 with cur := some cur })],
    slots := [(1, { present := true, part := 1, pattern := some emptyPattern })] }

theorem test_hyp_ContextLoadEnds : (getPart (loadState false 0) 1).loads = [aLoad] ∧ aLoad.waiting = false ∧
    (getSlot (loadState false 0) 1).pattern = some emptyPattern ∧ loadImages (loadState false 0) aLoad = [(0, loadImage)] ∧
    imageCheck loadImage 0 = loadImage.trailer % 2 ^ 32 ∧ imageFor [(0, loadImage)] 0 = some loadImage ∧ emptyPattern.staticOk = true ∧
    (partCores (getPart (loadState false 0) 1)).all (fun k => k == 0 || imageFor [(0, loadImage)] k == none) = true ∧
    (0 ∈ partCores (getPart (loadState false 0) 1) ∧ 8 ∉ partCores (getPart (loadState false 0) 1)) := by decide +kernel

theorem test_context_load : (getCtx (getCore (after (.contextLoadEnd 1 1 [] []) (loadState false 0)) 0) 1).resident = true ∧
    (getPart (after (.contextLoadEnd 1 1 [] []) (loadState false 0)) 1).loads = [] ∧
    flagSet (after (.contextLoadEnd 1 1 [0] [0]) (loadState false 0)).pipeFlags pipeLoadRetry = true ∧
    flagSet (after (.contextLoadEnd 1 1 [3] []) (loadState false 0)).fault.flags ffTransient = true ∧
    (getCtx (getCore (after (.contextLoadEnd 1 1 [3] []) (loadState false 0)) 3) 1).resident = true ∧
    (getCtx (getCore (after (.contextLoadEnd 1 1 [0] [0]) (loadState false 0)) 0) 1).resident = false := by decide +kernel

theorem test_hyp_WaitingLoads : (getPart (loadState true 0) 1).loads = [{ aLoad with waiting := true }] ∧
    loadHeld (loadState true 0) 1 [] { aLoad with waiting := true } = false ∧ loadHeld (loadState true 1) 1 [] { aLoad with waiting := true } = true ∧
    (1 : BitVec 2).toNat = aLoad.ctx ∧ (getPart (loadState true 0) 1).clusters.Nodup := by decide

/-- Slot 1 runs on partition 1, in a stage; queue 3 of core 0 is full; the budget is a board record's. -/
def aRun (g : RunStage) : RunSt := { ring := 0, desc := 0, fn := 0, steps := 1, stage := g, problems := [] }
def board : BoardRec := { limit := 4000, currents := [], stages := [(0x40, 0)] }
def runState (g : RunStage) : State :=
  { coreState with
    parts := [(1, { clusters := [0], cur := some 0, run := some 1 })],
    cores := [(0, { core0 with queues := [(3, { hw := List.replicate 8 (tok 0 0) })] })],
    slots := [(1, { present := true, part := 1, pattern := some emptyPattern, run := some (aRun g) })],
    handle := { ready.handle with board := some board } }

/-- The stall watchdog's limit is reached. -/
def stallState (run : Option Nat) (held : Bool) (g : RunStage) : State :=
  { runState g with parts := [(1, { clusters := [0], cur := some 0, run := run, stalled := 0x100000 })], wdog := { held := held } }

abbrev StallDue (s : State) : Prop :=
  wdogLimit s ≤ (getPart s 1).stalled ∧ hasFullQueue s (getPart s 1) = true ∧ partCauses s 1 = false ∧ (getPart s 1).drain ≠ .discard

theorem test_hyp_StallWatchdog : StallDue (stallState (some 1) false .step) ∧ StallDue (stallState (some 1) false .between) ∧
    StallDue (stallState none true .step) ∧ (getPart (stallState none true .step) 1).run = none ∧ (stallState none true .step).wdog.held = true ∧
    ¬ StallDue (runState .step) ∧ abortable (getSlot (runState .step) 1) = true ∧
    (getSlot (runState .between) 1).run.map (·.stage) = some .between := by decide

theorem test_stall_watchdog : (after (.stallWatchdog 1) (stallState (some 1) false .step)).wdog.held = true ∧
    (after (.stallWatchdog 1) (stallState (some 1) false .step)).wdog.nent = 1 ∧
    (getPart (after (.stallWatchdog 1) (stallState none false .step)) 1).drain = .discard ∧
    (after (.stallWatchdog 1) (stallState none true .step)).wdog.missed = 1 := by decide

def drainState (d : Drain) (co : CoreSt) : State :=
  { coreState with parts := [(1, { clusters := [0], cur := some 0, drain := d })], cores := [(0, co)] }

theorem test_hyp_DrainEnds : (getPart (drainState .run core0) 1).drain = .run ∧ partEmpty (drainState .run core0) 1 = true ∧
    partEmpty (drainState .run (queueCore [tok 0 0] [] false)) 1 = false ∧ (getPart (drainState .discard core0) 1).run = none ∧
    (getPart (drainState .run core0) 1).loads = [] ∧ (getPart (drainState .run core0) 1).runQueue = [] ∧
    (getPart (drainState .run core0) 1).swReq = none ∧ (getPart (drainState .idle core0) 1).drain = .idle ∧
    (getPart (after (.drainEnd 1) (drainState .run core0)) 1).drain = .idle := by decide

/-! ### Training steps, Border engines, rounds and packets -/

theorem test_hyp_StepStart : (getSlot (runState .between) 1).run = some (aRun .between) ∧
    reshardHolds (getSlot (runState .between) 1) = false ∧ (runState .between).clock.held = [] ∧ (aRun .paced).stage = .paced := by decide

/-- The slot's context is the partition's current one: a start is granted, or held where the power budget is used up. -/
def startState (g : RunStage) (idle : Nat) (held : List Nat) : State :=
  { runState g with
    cores := (List.range 8).map (fun k => (k, { core0 with ctxs := [(0, { ctx0 with slot := some 1 })] })),
    clock := { idle := idle, held := held } }

theorem test_hyp_StepStart_granted : runPlaced (startState .between 0 []) 1 = true ∧ runResident (startState .between 0 []) 1 = true ∧
    runResident (runState .between) 1 = false ∧ (getPart (runState .between) (getSlot (runState .between) 1).part).loads = [] ∧ mayStart (startState .between 0 []) 1 = true ∧
    mayStart (startState .between 4000 []) 1 = false ∧ (startState .between 0 [2]).clock.held ≠ [] ∧
    (startState .paced 0 [1, 2]).clock.held.head? = some 1 ∧ (startState .paced 0 [2, 1]).clock.held.head? ≠ some 1 := by decide

theorem test_step_start : ((getSlot (after (.stepStart 1) (startState .between 0 [])) 1).run.map (·.stage)) = some .step ∧
    ((getSlot (after (.stepStart 1) (startState .between 4000 [])) 1).run.map (·.stage)) = some .paced ∧
    (after (.stepStart 1) (startState .between 4000 [])).clock.held = [1] := by decide

def stashState : State := setDom (runState .between) (getSlot (runState .between) 1).dom
  { getDom (runState .between) (getSlot (runState .between) 1).dom with
    hbmMap := [(0, 6), (1, 8)], regions := [{ tier := 1, gidx := 0, count := 2, base := 0, kind := .stash, slot := some 1, mirrored := false, set := 0 }] }

theorem test_hyp_AttemptBegins : ((getSlot (runState .between) 1).run = some (aRun .between) ∧ (getPart (runState .between) 1).mode ≠ .folded) ∧
    (getSlot stashState 1).run = some (aRun .between) ∧ (getPart stashState (getSlot stashState 1).part).mode ≠ .folded ∧ areaGranules stashState 1 = [5, 7] := by decide

theorem test_step_area_open : (beginAttempt stashState 1).tiers.undef = [(5, 1), (7, 2)] ∧ (beginAttempt stashState 1).draws = 2 ∧
    openByte (beginAttempt stashState 1).tiers 1 7 3 = Config.undefinedByte 1 3 ∧ openByte (beginAttempt stashState 1).tiers 1 6 3 = 0 := by
  refine ⟨by decide, by decide, rfl, rfl⟩

/-- Slot 1 with one parameter tile, reduced and waiting for the quantiser. -/
def anEntry : UpdEntry := { shard := 5, first := 0, count := 1, rows := 1, cols := 1, prog := 0, streams := [], scalars := [0x3F800000] }
def twoPhases : BorderProg := { prologue := [0], phase1 := [0], interlude := [0], phase2 := [0], twoPhase := true }
def stepSlot : SlotSt :=
  { present := true, part := 1, run := some { aRun .step with sweeping := true }, table := [anEntry], homes := [(0, 0)], sets := [(0, [anEntry])],
    pattern := some { emptyPattern with table := [anEntry], progs := [twoPhases] } }
def stepState (x : SlotSt) (b : BorderSt) : State :=
  { runState .step with slots := [(1, x)], borders := (List.range 8).map (fun m => (m, b)) }

theorem test_hyp_QuantiseTile : quantising { stepSlot with coll := { reduced := [(0, [])] } } = true ∧
    mhas ({ stepSlot with coll := { reduced := [(0, [])] } } : SlotSt).coll.reduced 0 = true ∧ getRecord (stepState stepSlot {}) 1 0 ≠ rcode (stepSlot.cn + 1) ∧
    isNaN32 (fpAdd 0x7FC00000 (convert .l16 .fp32 0).code).code = true := by decide +kernel

/-- The gradient store of slot 1 is granule 0 of domain 0 in the LPDDR5X tier: tile 0 is quantised, and not a second time. -/
def gradState (cells : List Host.Cell) : State :=
  { stepState { stepSlot with coll := { reduced := [(0, [0x3F800000])] } } {} with
    doms := [(0, { created := true, lpMap := [(0, 1)], regions := [{ tier := 2, gidx := 0, count := 1, base := 0, kind := .grad, slot := some 1, mirrored := false, set := 0 }] })],
    tiers := { zeroed := true, lp := cells } }

theorem test_quantise_tile : readCodes (after (.quantiseTile 1 0) (gradState [])) 1 .g8 1 0 1 = [0x40] ∧
    getRecord (after (.quantiseTile 1 0) (gradState [])) 1 0 = rcode 1 ∧ allQuantised (after (.quantiseTile 1 0) (gradState [])) 1 = true ∧
    (getSlot (after (.quantiseTile 1 0) (gradState [])) 1).coll.reduced = [] := by decide +kernel

def notSweeping : SlotSt := { stepSlot with run := some (aRun .step) }

theorem test_hyp_UpdateSweep : allQuantised (stepState notSweeping {}) 1 = false ∧ allQuantised (stepState { notSweeping with table := [] } {}) 1 = true ∧
    notSweeping.hostPlaced = false ∧ notSweeping.run = some (aRun .step) ∧ (aRun .step).stage = .step ∧ (aRun .step).sweeping = false := by decide +kernel

def waiting : BorderSt := { slot := 1, stage := .waitInterlude }

theorem test_hyp_Interlude : (List.range 8).filter (fun m => !(stepState stepSlot waiting).tiers.fenced.contains m) ≠ [] ∧
    (∀ m ∈ List.range 8, (getBorder (stepState stepSlot waiting) m).slot = 1 ∧ (getBorder (stepState stepSlot waiting) m).stage = .waitInterlude ∧
      (getBorder (stepState stepSlot waiting) m).entry = 0) ∧
    borderLive (stepState stepSlot waiting) (getBorder (stepState stepSlot waiting) 0) = true ∧
    (∃ m ∈ List.range 8, (getBorder (stepState stepSlot {}) m).slot ≠ 1 ∨ (getBorder (stepState stepSlot {}) m).stage ≠ .waitInterlude) := by decide

theorem test_interlude : (getBorder (after (.interlude 1) (stepState stepSlot waiting)) 0).stage = .interlude := by decide +kernel

def borderOp : BorderOp := { rim := 0, d := 1, a := 2, b := 3, c := 4, s := 0 }
/-- Every stage of the loaded program is the one word of `borderOp` under an operation code. -/
def oneWord (op : Nat) : BorderProg :=
  let w := [borderWord op borderOp]
  { prologue := w, phase1 := w, interlude := w, phase2 := w, twoPhase := true }
def inStage (g : BorderStage) (op : Nat) : State :=
  stepState { stepSlot with pattern := some { emptyPattern with table := [anEntry], progs := [oneWord op] } }
    { slot := 1, stage := g, k := [(2, 0x40000000), (3, 0x3F800000)] }

theorem test_hyp_BorderIssues : (∀ op ∈ [0x01, 0x06, 0x16, 0x17, 0x18], BorderIssues (inStage .phase1 op) op borderOp) ∧
    (∀ op ∈ [0x00, 0x02, 0x03, 0x04, 0x05, 0x13, 0x14, 0x15], BorderIssues (inStage .phase2 op) op borderOp) ∧
    (∀ op ∈ [0x20, 0x26], BorderIssues (inStage .prologue op) op borderOp) ∧ BorderIssues (inStage .interlude 0x27) 0x27 borderOp ∧
    ¬ BorderIssues (inStage .phase1 0x06) 0x07 borderOp ∧ ¬ BorderIssues (stepState stepSlot {}) 0x06 borderOp := by
  unfold BorderIssues; decide +kernel

theorem test_border : goes (.borderFadd borderOp) (inStage .phase1 0x06) = true ∧ goes (.stw borderOp) (inStage .phase2 0x04) = true ∧
    kReg (getBorder (after (.kadd borderOp) (inStage .interlude 0x20)) 0) 1 = 0x40400000 ∧
    after (.ksub borderOp) (inStage .interlude 0x20) = inStage .interlude 0x20 := by decide +kernel

/-- A host-placed slot with an empty table: the gradient is ready, then the working copy is awaited. -/
def hostSlot (wait retry sweeping : Bool) : SlotSt :=
  { stepSlot with table := [], hostPlaced := true, hostWait := wait, hostRetry := retry, run := some { aRun .step with sweeping := sweeping } }
def hostTrailer : List Byte := bytesLE 8 1 ++ bytesLE 4 (crc32c []) ++ List.replicate 52 0

theorem test_hyp_HostPlacedUpdate : allQuantised (stepState (hostSlot false false false) {}) 1 = true ∧ (hostSlot false false false).hostPlaced = true ∧
    (hostSlot true false true).hostWait = true ∧ (1 : DWord).toNat = (0 + 1) % 2 ^ 64 ∧ (2 : DWord).toNat ≠ (0 + 1) % 2 ^ 64 ∧ hostTrailer.length = 64 ∧
    ([] : List Byte).length ≠ 64 ∧ (hostSlot true true true).hostRetry = true := by decide +kernel

theorem test_host_placed : ((getSlot (after (.wcReadyPoll 1 1 hostTrailer) (stepState (hostSlot true false true) {})) 1).run.map (·.installed)) = some true ∧
    (getSlot (after (.wcReadyPoll 1 1 []) (stepState (hostSlot true false true) {})) 1).hostRetry = true ∧
    ((getSlot (after (.wcReadyPoll 1 1 []) (stepState (hostSlot true true true) {})) 1).run.map (·.stage)) = some .replay ∧
    (after (.gradReady 1) (stepState (hostSlot false false false) {})).out.length = 2 := by decide +kernel

theorem test_hyp_AbortStopsAttempt : abortable { stepSlot with run := none } = false ∧ abortable stepSlot = true := by decide

theorem test_abort : ((getSlot (abortAttempt (runState .step) 1 false 0x48) 1).round.abort) = some (false, 0x48) ∧
    ((getSlot (abortAttempt { runState .step with slots := [(1, { stepSlot with replays := 3 })] } 1 false 0x48) 1).round.abort) = some (true, sReplayExhausted) ∧
    (getPart (abortAttempt (runState .step) 1 false 0x48) 1).drain = .discard := by decide

theorem test_hyp_CommitRaisesCn : (getSlot (runState .round) 1).run = some (aRun .round) ∧ (getSlot (runState .round) 1).coll.held = [] ∧
    (getSlot (commitStep (runState .round) 1) 1).cn = 1 := by decide

/-- A packet of job 0, with its check value. -/
def bare (k : Byte) : Packet :=
  { src := 0, stream := 0, cnLo := 0, layout := 0, jobId := 0, pkind := k, form := 0x80, tile := 0, tensor := 5, landing := 0, pseq := 0, pcrc := 0,
    tiles := [[]], body := [], hdrs := [], fwd := 0 }
def sealed (p : Packet) : Packet := { p with pcrc := BitVec.ofNat 32 (packetCrc p) }

theorem test_hyp_Packets : pkReserved 0 = true ∧ pkReserved 0x16 = true ∧ pkReserved 1 = false ∧ packetSlot ready (bare 1) = none ∧
    checkPacket (stepState stepSlot {}) (sealed (bare 3)) = .ok 1 ∧
    checkPacket (stepState stepSlot {}) (sealed { bare 3 with cnLo := 1 }) = .hold 1 ∧
    checkPacket (stepState stepSlot {}) (sealed { bare 3 with pseq := 1 }) = .seqErr 1 ∧
    checkPacket (stepState { stepSlot with layout := 1 } {}) (sealed (bare 3)) = .old 1 ∧
    checkPacket (runState .replay) (sealed (bare 3)) = .drop 1 := by decide +kernel

theorem test_packets_pass : checkPacket (stepState stepSlot {}) (sealed (bare 1)) = .ok 1 ∧ checkPacket (stepState stepSlot {}) (sealed (bare 2)) = .ok 1 ∧
    checkPacket (stepState stepSlot {}) (sealed (bare 5)) = .ok 1 ∧ checkPacket (stepState stepSlot {}) (sealed (bare 6)) = .ok 1 ∧
    checkPacket (stepState stepSlot {}) (sealed (bare 0x10)) = .ok 1 ∧ checkPacket (stepState stepSlot {}) (sealed (bare 0x12)) = .ok 1 := by decide +kernel

/-- A gradient with an older layout number is discarded outside an attempt too (R341). -/
theorem test_layout_old_outside : checkPacket (runState .between) (sealed (bare 3)) = .hold 1 ∧
    checkPacket (updSlot (runState .between) 1 (fun x => { x with layout := 1 })) (sealed (bare 3)) = .old 1 := by decide +kernel

/-- A job with a data cut on X, of length 2, and a sequence cut on Y, of length 3: over the data ring of sequence rank 0 travel the tiles
t = 0 (mod 3) alone (R333, R334). -/
def twoCuts : SlotSt := { stepSlot with pattern := some { emptyPattern with job := 2 ^ 21 + 2 ^ 16 }, owners := [(5, 0, 40)] }

theorem test_packet_tiles : packetGroup { ready with torus := { len := 65 } } twoCuts cutData 5 12 = [0, 12, 24, 36] ∧
    packetGroup { ready with torus := { len := 65 } } twoCuts cutSeq 5 12 = [0, 6, 12, 18, 24, 30, 36] := by decide +kernel

/-- A RELAY packet that a landing entry takes. Job 0 has no cut, so it matches none; job 1's layer cut lies on axis X, of length 2. -/
def relayJob : Pattern :=
  { emptyPattern with job := 2 ^ 18, landing := [{ cut := 2, offset := 1, stream := 3, core := 0, queue := 3, fmt := 1 }] }
def relayState : State :=
  { coreState with
    parts := [(1, { clusters := [0], cur := some 0, run := some 1 })], torus := { len := 1 },
    cores := [(0, core0)], slots := [(1, { present := true, part := 1, pattern := some relayJob, run := some (aRun .step) })] }
def relayPacket : Packet := sealed { bare 7 with src := 1, stream := 3, form := 0x40, landing := 0x3000, hdrs := [mkHdr 1 0 3 false 0 0 31 31 0 0 0], tensor := 0 }

theorem test_hyp_RelayPacket : relayPacket.pkind.toNat = pkRelay ∧ checkPacket relayState relayPacket = .ok 1 ∧ (getSlot relayState 1).coll.held = [] ∧
    (landRelay (takePseq relayState 1 relayPacket) 1 relayPacket).isSome = true ∧ checkPacket (stepState stepSlot {}) (sealed (bare 7)) = .ok 1 ∧
    landingOf (stepState stepSlot {}) stepSlot (sealed (bare 7)) = none ∧
    landRelay { relayState with cores := [(0, queueCore (List.replicate 8 (tok 0 0)) [] false)] } 1 relayPacket = none := by decide +kernel

theorem test_hyp_GradientReachesOwner : checkPacket (stepState stepSlot {}) (sealed (bare 3)) = .ok 1 ∧ (sealed (bare 3)).tiles = [[]] ∧
    shardOwner (stepState stepSlot {}) stepSlot 5 = some (cutRank (stepState stepSlot {}) (slotJob stepSlot) cutLayer) ∧ paramTile stepSlot 5 0 = some 0 := by
  decide +kernel

/-- The sweep of slot 1 is done: the member is ready. -/
def doneState (x : SlotSt) : State := stepState x { slot := 1, stage := .done }

theorem test_hyp_MemberEvents : sweepDone (doneState stepSlot) 1 = true ∧ (retireFailed (doneState stepSlot) 1).isSome = true ∧ stepSlot.narCommit = false ∧
    (aRun .step).nan = false := by decide +kernel

theorem firstFree_none (f : Nat → Bool) (h : ∀ i, f i = true) : ∀ n i, firstFree f i n = none := by
  intro n
  induction n with
  | zero => intro i; rfl
  | succ k ih => intro i; simp [firstFree, h, ih]

/-- Where the tiers are not zeroed, a granule of the LPDDR5X tier that is mapped cannot be retired. -/
theorem retireGranule_none (s : State) (p : Nat) (bad : List Nat) (o : Nat × Nat × Nat) (h : s.tiers.zeroed = false)
    (ho : granuleOwner s 2 p = some o) : retireGranule s 2 p bad = none := by
  unfold retireGranule
  rw [ho]
  have h1 : ∀ m, takeLp s.tiers m = none := fun m => firstFree_none _ (by intro i; simp [lpAvail, h]) _ _
  simp [h1]

/-- A failed read of slot 1 whose granule has no free one to take its place. -/
def fullState : State :=
  { doneState stepSlot with tiers := { failed := [(2, 0, 1, 0)] }, doms := [(0, { created := true, lpMap := [(0, 1)] })] }

/-- Retirement of one granule. -/
theorem retireAll_one (s : State) (f : Nat × Nat × Nat) : retireAll s [f] = retireGranule s f.1 f.2.1 [f.2.2] := by
  have h : [(f.1, f.2.1)].eraseDups = [(f.1, f.2.1)] := rfl
  have g : [f].filter (fun h => h.1 == f.1 && h.2.1 == f.2.1) = [f] := by simp
  unfold retireAll
  simp only [List.map_cons, List.map_nil, h, List.foldl_cons, List.foldl_nil, Option.bind_some, g]

theorem test_hyp_MemberEvents_full : retireFailed fullState 1 = none := by
  have f : ((fullState.tiers.failed.filter (fun f => f.2.2.1 == 1)).map (fun f => (f.1, f.2.1, f.2.2.2))) = [(2, 0, 0)] := by decide
  unfold retireFailed
  rw [f, retireAll_one]
  exact retireGranule_none _ _ _ (0, 0, 0) rfl (by decide)

/-- A member ready in a commit round, and one whose re-shard waits for its fence round. -/
def readyMember (kind : RoundKind) (issued : Bool) : SlotSt := { stepSlot with run := some (aRun .round), round := { kind := kind, ready := true, issued := issued } }
def moveWait : ReshardSt := { ring := 0, desc := 0, layout := 1, mapCrc := 0, map := [], table := [], stage := .fenceWait, accepted := 0 }

theorem test_hyp_MemberRounds : (readyMember .commit false).round.kind = .commit ∧ (readyMember .commit false).round.ready = true ∧
    (readyMember .commit false).round.issued = false ∧ (readyMember .restart true).round.issued = true ∧ stepSlot.round.ready = false ∧
    crc64 (entryData (stepState { readyMember .commit false with table := [] } {}) 1 0) = 0 ∧ (readyMember .fence false).round.kind = .fence ∧
    ({ stepSlot with run := none, reshard := some moveWait } : SlotSt).reshard = some moveWait ∧ stepSlot.coll.contrib = [] ∧ stepSlot.coll.running = [] := by decide +kernel

theorem test_member_events : (getSlot (after (.stepReady 1) (doneState stepSlot)) 1).cn = 1 ∧
    (getSlot (after (.peerLost 1) (stepState (readyMember .commit true) {})) 1).run = none ∧
    ((getSlot (after (.fenceRound 1) (stepState { stepSlot with run := none, reshard := some moveWait } {})) 1).reshard.map (·.stage)) ≠ some .fenceWait := by decide +kernel



/-- An attempt that began at fc 2 and drains for a reported abort, with FAULT in progress from fc 6 to fc 10. -/
def abortedState : State := updRun { runState .replay with fc := 10 } 1 (fun r => { r with start := 2, stepCharges := addAt [] cFault 0, causes := [(1, 6, 10)] })

theorem test_report_abort : (getSlot (reportAbort abortedState 1 sStallWatchdog) 1).last = sStallWatchdog ∧
    (getSlot (reportAbort abortedState 1 sStallWatchdog) 1).dev = [0, 4, 0, 0, 0, 0, 0] := by decide

/-- A one-phase program with a row sum goes on to the next entry when its totals are combined. -/
def rowSum : BorderProg := { phase1 := [0x17 * 2 ^ 26] }
def rowSlot : SlotSt := { stepSlot with pattern := some { emptyPattern with table := [anEntry], progs := [rowSum] } }

theorem test_one_phase_totals : (afterStage (stepState rowSlot {}) rowSlot 0 { slot := 1, stage := .phase1 }).stage = .waitInterlude ∧
    (getBorder (after (.interlude 1) (stepState rowSlot waiting)) 0).stage = .done := by decide +kernel

/-! ### Wale links and the torus -/

/-- A package of an X axis of length 2, with port 0 (+X) in a state, seen by an operator of the PF of port A. -/
def linkState (x : LinkSt) : State := { withRole 2 with torus := { len := 1 }, links := [(0, x)] }
def upLink : LinkSt := { en := true, state := .up, txGroups := 15, rxGroups := 15, accepted := true }
def inState (g : LinkState) : LinkSt := { upLink with state := g }

/-- LINK content of the neighbour at coordinate 1 from its −X port, and of a stranger. -/
def fromNeighbour (m : Bool) : LinkMsg := { mtch := m, lasting := false, coord := 1, port := 4, lens := 1, groups := 0xFF, fc := 7, brk := 0 }
def fromStranger : LinkMsg := { fromNeighbour true with coord := 0 }

theorem test_hyp_LinkControl : Answers pf (linkState {}) ∧ operatorSession (linkState {}) (fnKeyOf pf) = true ∧
    operatorSession (withRole 1) (fnKeyOf pf) = false ∧ (getLink (linkState upLink) 0).en = true ∧ (getLink (linkState {}) 0).en = false ∧
    (linkState {}).pert.lpEn = false ∧ axisLen (linkState {}) (portAxis 0) = 2 ∧ axisLen (linkState {}) (portAxis 5) = 1 ∧
    isFenced (linkState {}) (linkDie 0) = false ∧ coordOk (linkState {}) 0 = true ∧ (getLink (linkState upLink) 0).state = .up ∧
    (getLink (linkState (inState .lost)) 0).state ≠ .up ∧ (getLink (linkState (inState .lost)) 0).state ≠ .retrain := by
  unfold Answers; decide

theorem test_link_control : (getLink (after (.linkEnable pf 0) (linkState {})) 0).state = .training ∧
    (getLink (after (.retrain pf 0) (linkState upLink)) 0).state = .retrain ∧
    (getLink (after (.linkDisable pf 0) (linkState (inState .lost))) 0).state = .down ∧
    (after (.linkEnable pf 0) { linkState {} with pert := { lpEn := true, lpPort := 0 } }).pert.flags = [(0, { count := 1, last := 0 })] := by decide +kernel

theorem test_hyp_LinkBringUp : (getLink (linkState (inState .training)) 0).state = .training ∧ (getLink (linkState (inState .hello)) 0).state = .hello ∧
    (getLink (linkState (inState .mismatch)) 0).state = .mismatch ∧ partnerOk (linkState (inState .hello)) 0 (fromNeighbour true) = true ∧
    (fromNeighbour false).mtch = false ∧ partnerOk (linkState (inState .hello)) 0 fromStranger = false ∧ 114 < 115 := by decide

/-- The port has its channel excess from an earlier HELLO_ECHO. -/
def measured : LinkSt := { inState .hello with measured := true, chdly := 3, accepted := true }

theorem test_hyp_LinkBringUp_hello : greeting (inState .hello) = true ∧ greeting (inState .mismatch) = true ∧ greeting upLink = false ∧
    measured.measured = true ∧ (inState .hello).measured = false ∧ ({ measured with echo := some 7 } : LinkSt).echo = some 7 ∧
    (retireLanes (inState .training) 0x0100 0).txGroups ≠ 0 ∧ (retireLanes (inState .training) 0x01010101 0).txGroups = 0 := by decide

theorem test_link_bring_up : (getLink (after (.trainingDone 0 0 0x0100) (linkState (inState .training))) 0).rxGroups = 13 ∧
    (getLink (after (.trainingDone 0 0 0x01010101) (linkState (inState .training))) 0).state = .lost ∧
    (getLink (after (.hello 0 (fromNeighbour true)) (linkState measured)) 0).state = .up ∧
    (getLink (after (.hello 0 (fromNeighbour true)) (linkState (inState .hello))) 0).state = .hello ∧
    (getLink (after (.hello 0 fromStranger) (linkState (inState .hello))) 0).state = .mismatch ∧
    (getLink (after (.helloEcho 0 (fromNeighbour true) 114) (linkState (inState .hello))) 0).state = .up ∧
    (getLink (after (.helloEcho 0 (fromNeighbour true) 115) (linkState (inState .hello))) 0).state = .lost := by decide +kernel

def testMsg (lasting : Bool) : LinkMsg := { fromNeighbour false with lasting := lasting }

theorem test_hyp_LaneTestAndBreak : (getLink (linkState (inState .retrain)) 0).state = .retrain ∧ (getLink (linkState upLink) 0).state ≠ .retrain ∧
    groupsOf (0 ||| 1) ≠ 0 ∧ (0 ||| 1) ≠ 0 ∧ groupsOf (0 ||| 0x01010101) = 0 ∧ (getLink (linkState (inState .lost)) 0).state ≠ .up ∧
    (getLink (linkState (inState .lost)) 0).state ≠ .retrain := by decide

theorem test_lane_test : (getLink (after (.laneTestEnd 0 1 0) (linkState (inState .retrain))) 0).txGroups = 14 ∧
    (getLink (after (.laneTestEnd 0 0 0x01010101) (linkState (inState .retrain))) 0).state = .lost ∧
    (after (.breakBlock 2 { fromNeighbour false with port := 0, brk := 1 }) (linkState upLink)).torus.mode = [.line, .ring, .ring] := by decide +kernel

/-- A block of stream 0 for this package under a sequence number, with its check as port 0 receives it (a short payload keeps the
test small). -/
def dataBlock (seq : Nat) : Block :=
  let b : Block := { hdr := mkBlockHdr 1 0 0 0 true 0 seq 1, payload := [1, 2, 3, 4], ack := 0, crc := 0 }
  { b with crc := BitVec.ofNat 32 (blockCrc seq 0 0 b) }
def failedOnce : LinkSt := { upLink with waiting := true, attempts := 1 }

theorem test_hyp_LinkBlocks : (getLink (linkState upLink) 0).state = .up ∧ (getLink (linkState upLink) 0).waiting = false ∧
    ackPoint (linkState upLink) 0 = none ∧ (getLink (linkState upLink) 0).attempts = 0 ∧ (getLink (linkState failedOnce) 0).waiting = true ∧
    (getLink (linkState failedOnce) 0).attempts = 1 ∧ sequenced (dataBlock 0).hdr = true ∧
    bits (dataBlock 0).hdr.toNat 30 23 = (getLink (linkState failedOnce) 0).rxNext % 256 ∧ sequenced (mkBlockHdr 3 0 0 0 true 0 0 1) = false ∧
    (getLink (linkState upLink) 0).nakDue = false ∧ bType (mkBlockHdr tyIdle 0 0 0 false 0 0 0) = tyIdle ∧ ¬ (1 = 0 ∧ bType (dataBlock 0).hdr ≤ 4) := by decide

theorem test_hyp_BlockAccepted : sequenced (dataBlock 0).hdr = true ∧
    blockCrc (getLink (linkState upLink) 0).rxNext (linkState upLink).torus.coord 0 (dataBlock 0) = (dataBlock 0).crc.toNat := by decide +kernel

/-- The block arrives with a number of flagged codewords, as the first or the second attempt. -/
def arriving (b : Block) (flagged : Nat) (second : Bool) : Instr := .blockReceive 0 ⟨b, second⟩ 0 flagged 5

theorem test_blocks : (getLink (after (arriving (dataBlock 0) 0 false) (linkState upLink)) 0).rxNext = 1 ∧
    (getLink (after (arriving (dataBlock 0) 1 false) (linkState upLink)) 0).attempts = 1 ∧
    (getLink (after (arriving (dataBlock 0) 1 false) (linkState failedOnce)) 0).crcFail = 0 ∧
    (getLink (after (arriving (dataBlock 0) 1 true) (linkState failedOnce)) 0).state = .retrain ∧
    (getLink (after (.retrainReceived 0 (testMsg true)) (linkState upLink)) 0).lasting = 1 ∧
    (getLink (after (.retrainReceived 0 (testMsg true)) (linkState (inState .retrain))) 0).lasting = 1 ∧
    (getLink (after (.retrainReceived 0 (testMsg true)) (linkState (inState .retrain))) 0).retrain = 0 := by decide +kernel

/-- R315: blocks in transit are handed on in order of acceptance, whichever port received them. R326: a link that comes up sets the expected PSEQ values to 0. -/
theorem test_transit_and_pseq :
    ((drainAll { linkState upLink with torus := { len := 1, transit := [(3, dataBlock 4), (0, dataBlock 2)] } }).out.take 2
      = [.arrived (dataBlock 4), .arrived (dataBlock 2)]) ∧
    (getSlot (after (.helloEcho 0 (fromNeighbour true) 114) { linkState (inState .hello) with slots := [(1, { present := true, coll := { pseqIn := [(8, 3)] } })] }) 1).coll.pseqIn = [] ∧
    (getSlot (after (.hello 0 (fromNeighbour true)) { linkState (inState .hello) with slots := [(1, { present := true, coll := { pseqIn := [(8, 3)] } })] }) 1).coll.pseqIn
      = [(8, 3)] := by decide +kernel

theorem test_hyp_TorusRegisters : Answers pf (linkState {}) ∧
    (List.range 6).all (fun p => !(getLink (linkState {}) p).en && (getLink (linkState {}) p).state == .down) = true ∧
    (List.range 6).all (fun p => !(getLink (linkState upLink) p).en && (getLink (linkState upLink) p).state == .down) = false ∧
    fnIsPf (fnKeyOf vf) = false ∧ Answers vf (linkState {}) := by unfold Answers; decide

theorem test_torus : (after (.torusLen pf 0x8421) (linkState {})).torus.len = 0x421 ∧
    (after (.torusLen pf 0x8421) (linkState upLink)).torus = { len := 1, flags := [(0, { count := 1, last := 0 })] } := by decide +kernel

/-! ### Functions, sessions and rings -/

theorem test_hyp_FunctionReset : fnAddrOk vf = true ∧ vf.fn ≠ 0 ∧ fnAddrOk pf = true ∧ pf.fn = 0 := by decide

theorem test_function_reset : getFn (after (.functionLevelReset pf) (withRole 2)) 0 = { ringCount := 0x2000 } ∧
    getFn (after (.functionLevelReset vf) { ready with fns := [(77, { authFails := 3, session := 9, ringFirst := 4, ringCount := 2 })] }) 77 =
      { authFails := 3, ringFirst := 4, ringCount := 2 } := by decide +kernel

theorem test_port_resets : (getPort (after (.portReset 0 .hotReset) ready) 0).up = true ∧ (getPort (after (.portReset 0 .perst) ready) 0).up = false ∧
    (after (.portReset 1 .surpriseDown) ready).fault.die = 0x39 ∧
    (getPort (after (.perstRelease 0) { ready with ports := [] }) 0).up = true ∧
    (getPort (after (.perstRelease 0) { ready with ports := [], handle := { stage := 2 } }) 0).up = false := by decide +kernel

theorem test_hyp_PowerStateD3 : (getFn (withRole 2) 0).mbState = .opened ∧ (getFn ready 0).mbState = .idle ∧
    (getFn { ready with fns := [(0, { mbState := .busy })] } 0).mbState = .busy := by decide

theorem test_d3hot : (getFn (after (.d3hot pf true) (withRole 2)) 0).mbState = .closing ∧ (getFn (after (.d3hot pf true) (withRole 2)) 0).session = 7 := by
  decide +kernel

/-- The PF of port A in a state of its mailbox with a key entry of role 1 at number 5. -/
def mbState (x : FnSt) : State :=
  { ready with fns := [(0, { x with ringCount := 0x2000, cfg := cfgOn })],
               handle := { ready.handle with keys := [(5, { role := 1, domain := 3, key := [1] })], verifier := some ([2], [3]) } }
def aCmd (op key : Nat) : MbCmd :=
  { op := op, seq := 9, key := key, nonce := [], mac := [], password := [4], entry := { role := 1, domain := 3, key := [1] }, locked := false,
    verifier := some ([2], [3]) }
def busyWith (c : MbCmd) : State := mbState { mbState := .busy, cmd := some c }

theorem test_hyp_MailboxCommands : MailboxFree (mbState {}) 0 ∧ ¬ MailboxFree (busyWith (aCmd 1 5)) 0 ∧ MailboxFree (mbState { mbState := .challenged }) 0 ∧
    MailboxFree (mbState { mbState := .opened }) 0 ∧ keyRole 0x40000000 = 4 ∧ keyRole 0x10000005 ≠ 4 ∧ fnIsPf 0 = true ∧ bits 0x09000005 7 0 = 5 ∧
    bits 0x09000000 7 0 = 0 ∧ Answers pf (mbState {}) ∧ (8 ≤ (getFn (mbState { pwLen := 8 }) 0).pwLen ∧ (getFn (mbState { pwLen := 64 }) 0).pwLen ≤ 64) ∧
    (getFn (mbState { pwLen := 7 }) 0).pwLen < 8 ∧ 64 < (getFn (mbState { pwLen := 65 }) 0).pwLen := by
  unfold MailboxFree Answers; decide

theorem test_mailbox : (getFn (after (.openMb pf 9) (mbState {})) 0).mbState = .busy ∧ (getFn (after (.proveMb pf 9) (mbState {})) 0).mbResult = sNoSession ∧
    (getFn (after (.mbCmd pf 0x09000005) (mbState {})) 0).mbSeq = 9 ∧
    (getFn (after (.closeMb pf 9) (mbState { mbState := .opened, session := 4 })) 0).mbState = .closing := by decide +kernel

/-- The proof that answers a challenge under key entry 5. -/
def rightMac : List Byte := hmac [1] (proofMessage 1 0 0x10000005 [] [])

theorem test_hyp_MailboxEnds_open : handleUp (busyWith (aCmd 1 0x10000005)) = true ∧ (getFn (busyWith (aCmd 1 0x10000005)) 0).cmd = some (aCmd 1 0x10000005) ∧
    keyRole 0x10000005 = 1 ∧ (aCmd 1 0x10000005).entry.role = 1 ∧ keyRole 0x20000005 = 2 ∧ keyRole 0x30000005 = 3 ∧ keyRole 5 = 0 ∧ keyRole 0x40000005 = 4 := by
  decide +kernel

theorem test_hyp_MailboxEnds_prove : array32 rightMac = hmac [1] (proofMessage 1 0 0x10000005 [] []) ∧
    array32 [] ≠ hmac [1] (proofMessage 1 0 0x10000005 [] []) := by decide +kernel

theorem test_hyp_MailboxEnds_password : verify [2] [4] ≠ [3] ∧ serviceHeld (busyWith (aCmd 4 0)) 0 = false ∧
    (aCmd 4 0).verifier = some ([2], [3]) ∧ verify [2] [4] = hmac [2] [4] := by decide +kernel

theorem test_hyp_MailboxEnds_close : (getFn (mbState { mbState := .closing, cmd := some (aCmd 3 0) }) 0).mbState = .closing ∧
    fnQuiet (mbState { mbState := .closing, cmd := some (aCmd 3 0) }) 0 = true ∧
    fnQuiet { mbState { mbState := .closing } with rings := [(0, { active := true })] } 0 = false := by decide

theorem test_mailbox_ends : (getFn (after (.mbCommandEnd pf) (busyWith { aCmd 2 0x10000005 with mac := rightMac })) 0).mbState = .opened ∧
    (getFn (after (.mbCommandEnd pf) (busyWith { aCmd 2 0x10000005 with mac := rightMac })) 0).domain = 3 ∧
    (getFn (after (.mbCommandEnd pf) (busyWith (aCmd 2 0x10000005))) 0).mbResult = sAuthFail ∧
    (getFn (after (.mbCommandEnd pf) (busyWith (aCmd 1 0x10000005))) 0).mbState = .challenged ∧
    (getFn (after (.mbCommandEnd pf) (busyWith (aCmd 1 0x20000005))) 0).mbResult = sAuthFail := by decide +kernel

theorem test_hyp_SessionIdIsFree : (heldIds (withRole 2)).length < 0xFFFF := by decide

theorem test_hyp_LockOut : (getFn (mbState { mbState := .challenged }) 0).mbState = .challenged ∧ (getFn (mbState {}) 0).mbState ≠ .challenged := by decide

theorem test_lock_out : failLock { fails := 3 } = { fails := 4, locked := true, secs := 60 } ∧
    failLock { fails := 9, secs := 3840 } = { fails := 10, locked := true, secs := 3840 } ∧ failLock { fails := 2 } = { fails := 3 } := by decide

/-- Ring 3 of port A in a state. -/
def ringState (f : FnSt) (x : RingSt) : State := { ready with fns := [(0, { f with ringCount := 0x2000, ringSel := 3, cfg := cfgOn })], rings := [(3, x)] }
def liveRing : RingSt := { enable := true, active := true }
def oneDesc : DescSt := { id := 0, idx := 0, raw := 0, status := some 0 }

theorem test_hyp_RingControl : ownsRing (ringState {} {}) 0 3 = true ∧ ownsRing (ringState {} {}) 65 3 = false ∧
    (getRing (ringState {} {}) 3).enable = false ∧ (getRing (ringState {} { active := true }) 3).active = true ∧
    (getFn (ringState { mbState := .opened } {}) 0).mbState = .opened ∧ (getFn (ringState {} {}) 0).mbState ≠ .opened ∧
    bits (10 * 2 ^ 26) 29 26 = 10 ∧ bits (11 * 2 ^ 26) 29 26 = 11 ∧ (getRing (ringState {} liveRing) 3).size = bits 0 29 26 ∧
    (getRing (ringState {} { liveRing with open_ := [oneDesc] }) 3).open_ ≠ [] := by decide

theorem test_ring_ctl : (getRing (after (.ringEnable pf (10 * 2 ^ 26 + 5)) (ringState { mbState := .opened } {})) 3) =
      { enable := true, active := true, size := 10, vector := 5 } ∧
    (getFn (after (.ringEnable pf (11 * 2 ^ 26)) (ringState { mbState := .opened } {})) 0).ringFlags = [(1, { count := 1, last := 0 })] ∧
    (getFn (after (.ringEnable pf 0) (ringState {} {})) 0).hostFlags = [(0, { count := 1, last := 0 })] ∧
    getRing (after (.ringDisable pf 0) (ringState {} liveRing)) 3 = {} := by decide +kernel

/-- The PF of port A gives VF 1 rings while it holds the last two. -/
def rangeState : State := { ready with fns := [(0, { cfg := cfgOn, ringFirst := 8190, ringCount := 2, fnSel := 1 })] }

theorem test_hyp_RingRanges : fnIsPf (fnKeyOf pf) = true ∧ (getFn rangeState 0).fnSel ≤ 64 ∧ 8192 < bits 0x8000000 12 0 + bits 0x80040000 31 18 ∧
    (∃ n, n ≤ 64 ∧ n ≠ (getFn rangeState 0).fnSel ∧
      rangesMeet 8191 1 (getFn rangeState (fnKey (fnPort 0) n)).ringFirst (getFn rangeState (fnKey (fnPort 0) n)).ringCount = true) ∧
    (∀ n, n ≤ 64 → n ≠ 1 → rangesMeet 0 8190 (getFn rangeState (fnKey (fnPort 0) n)).ringFirst (getFn rangeState (fnKey (fnPort 0) n)).ringCount = false) ∧
    rangeState.rings = [] := by
  refine ⟨by decide, by decide, by decide, ⟨0, by decide⟩, ?_, rfl⟩
  have h : ∀ n ∈ List.range 65, n ≠ 1 → rangesMeet 0 8190 (getFn rangeState (fnKey (fnPort 0) n)).ringFirst (getFn rangeState (fnKey (fnPort 0) n)).ringCount = false := by
    decide +kernel
  exact fun n hn hne => h n (List.mem_range.mpr (by omega)) hne

theorem test_ring_ranges : (getFn (after (.fnRings pf (8190 * 2 ^ 18)) rangeState) 1).ringCount = 8190 ∧
    (getFn (after (.fnRings pf (8192 * 2 ^ 18)) rangeState) 0).ringFlags = [(1, { count := 1, last := 0 })] ∧
    (getFn (after (.fnRings pf (1 * 2 ^ 18 + 8191)) rangeState) 0).ringFlags = [(1, { count := 1, last := 0 })] := by decide +kernel

/-- The doorbell words of the function stand at 0x1000 of its area, which lies at address 0. -/
def aPoll (tail : Word) : PollRead := { base := 0, level0 := 1, level1 := [(0, 8)], words := [(0x1000, [9, 9, 9, tail])] }

theorem test_hyp_DoorbellsAndFetch : (getFn (ringState { pollEn := true } liveRing) 0).pollEn = true ∧ (getFn (ringState {} liveRing) 0).pollEn = false ∧
    (getFn (ringState {} liveRing) 0).cfg.master = true ∧ (aPoll 63).base.toNat = (getFn (ringState {} liveRing) 0).dbBase ∧
    polledRings (ringState { pollEn := true } liveRing) 0 (aPoll 63) = [3] ∧ doorbellWord (aPoll 63).words 0x100C = some 63 ∧
    doorbellWord (aPoll 63).words 0x1010 = none ∧ ringSize liveRing = 64 ∧ readSize (ringState {} liveRing) 0 = 512 ∧
    fetchRoom 512 { liveRing with target := some 8 } = 8 ∧ fetchRoom 128 { liveRing with target := some 8 } = 2 ∧
    fetchRoom 512 { liveRing with fetch := 62, target := some 2 } = 2 ∧ fetchRoom 512 liveRing < 1 ∧
    (fnOfRing (ringState {} liveRing) 3).any (fun k => (getFn (ringState {} liveRing) k).cfg.master) = true := by decide

theorem test_doorbell : (getRing (after (.doorbellPoll pf (aPoll 63)) (ringState { pollEn := true } liveRing)) 3).target = some 63 ∧
    (getFn (after (.doorbellPoll pf (aPoll 64)) (ringState { pollEn := true } liveRing)) 0).ringFlags = [(0, { count := 1, last := 0 })] ∧
    getRing (after (.descriptorFetch 3 ⟨(64 * 62), [0, 1]⟩) (ringState {} { liveRing with fetch := 62, target := some 0 })) 3 =
      { liveRing with ready := [(62, 0), (63, 1)] } ∧
    (getRing (after (.descriptorFetch 3 ⟨0, [0, 1]⟩) (ringState {} { liveRing with fetch := 62, target := some 0 })) 3).ready = [] := by decide +kernel

def doneRing (d : DescSt) : RingSt := { liveRing with finished := [0], open_ := [d], cidx := 63, cq := 0x1000, modTime := 1 }

theorem test_hyp_Completions : (getRing (ringState {} (doneRing oneDesc)) 3).finished = [0] ∧
    (getRing (ringState {} (doneRing oneDesc)) 3).open_.find? (fun d => d.id == 0) = some oneDesc ∧
    ({ oneDesc with orphan := true } : DescSt).orphan = true ∧ oneDesc.orphan = false ∧ bit oneDesc.raw 8 = false ∧ oneDesc.status = some 0 ∧
    0 + 1 < max 2 1 ∧ (getRing (ringState {} liveRing) 3).finished = [] ∧ (getRing (ringState {} { liveRing with modTime := 1, unsig := 1 }) 3).unsig ≠ 0 ∧
    (getRing (ringState {} liveRing) 3).modTime = 0 := by decide

theorem test_completion : (after (.descriptorComplete 3) (ringState {} (doneRing oneDesc))).out.head? =
      some (.hostWrite 0 (0x1000 + 16 * 63) [0, 0, 0, 0, 0, 0, 0, 0, 0, 0, 0, 0, 0, 0, 0, 0x80]) ∧
    (getRing (after (.descriptorComplete 3) (ringState {} (doneRing oneDesc))) 3).phase = false ∧
    (getPort (after (.descriptorComplete 3) (ringState {} (doneRing { oneDesc with orphan := true }))) 0).cplDrop = 1 := by decide +kernel

/-! ### Descriptors -/

/-- A descriptor of an opcode with fields, each as first bit and value. -/
def rawDesc (op : Nat) (fs : List (Nat × Nat)) : Nat := fs.foldl (fun r f => r + f.2 * 2 ^ f.1) op

/-- The PF of port A in a session of a role, with four buffers. -/
def sess (role : Nat) : FnSt := { cfg := cfgOn, ringCount := 0x2000, mbState := .opened, session := 7, role := role, bufCount := 4 }

/-- A descriptor stands at the head of ring 3. -/
def headState (s : State) (f : FnSt) (raw : Nat) : State := { s with fns := [(0, f)], rings := [(3, { liveRing with ready := [(0, raw)] })] }
def headOp : DescOp := { ring := 3, bufs := [{ addr := 0, data := 3 * 2 ^ 112 + 0x10000 * 2 ^ 64 + 0x10000 }], data := [], data2 := [], fails := [] }
def bareOp : DescOp := { headOp with bufs := [] }

theorem atHead_of (o : DescOp) (s : State) (role raw : Nat) (h : o.ring = 3) : AtHead o (headState s (sess role) raw) 0 0 raw [] := by
  have e : o.ring.toNat = 3 := by rw [h]; rfl
  unfold AtHead
  rw [e]
  exact ⟨rfl, rfl, rfl, rfl, rfl, by intro d hd; exact absurd hd (List.not_mem_nil)⟩

theorem passed_of (o : DescOp) (s : State) (role raw code : Nat) (plan : Nat → Nat → State → Plan) (h : o.ring = 3) (hc : dCode raw = code)
    (hp : Accepted (headState s (sess role) raw) 0 raw (readEntries (sess role) o (plan 0 raw (headState s (sess role) raw)))
      (plan 0 raw (headState s (sess role) raw))) :
    Passed o (headState s (sess role) raw) 0 0 raw [] code plan := ⟨atHead_of o s role raw h, hc, hp⟩

/-- A pattern of one context with no image of its own: every core idles. -/
def barePattern : Pattern := { emptyPattern with ctxs := [[]], timing := { terms := [0] } }

/-- Slot 1 of domain 0 on partition 1, resident in context 0; HBM3E granule 0 of the domain is mapped; service mode. -/
def slotBase : State :=
  { ready with
    service := true,
    parts := [(1, { clusters := [0], cur := some 0 })],
    cores := (List.range 8).map (fun c => (c, { core0 with ctxs := [(0, { ctx0 with slot := some 1 })] })),
    doms := [(0, { created := true, limHbm := 4, limPs := 1, hbmMap := [(0, 1)], useHbm := 1,
                   regions := [{ tier := 1, gidx := 0, count := 1, base := 0, kind := .buffer, slot := none, mirrored := false, set := 0 }] })],
    slots := [(1, { present := true, part := 1, pattern := some barePattern })] }

def withSlot (x : SlotSt) : State := { slotBase with slots := [(1, x)] }
def withPart (p : PartSt) : State := { slotBase with parts := [(1, p)] }
def slot1 : SlotSt := { present := true, part := 1, pattern := some barePattern }
def part1 : PartSt := { clusters := [0], cur := some 0 }

/-- No context of slot 1 is current on a core, or resident at all. -/
def notCurrent : State := { slotBase with cores := (List.range 8).map (fun c => (c, { core0 with ctxs := [(0, { ctx0 with slot := some 1 })], cur := none })) }
def notResident : State := { slotBase with cores := [] }

theorem test_hyp_DescriptorDecision : AtHead headOp (headState slotBase (sess 2) 0x0D) 0 0 0x0D [] ∧ codeDefined (dCode 0x0D) = false ∧
    codeDefined (dCode 0x02) = true ∧ checkPlan (headState slotBase (sess 2) 0x200) 0 0x200 [] (barePlan 0 0x200 slotBase) = .refuse sBadField ∧
    dCode 0x200 = 0 ∧ checkPlan (headState slotBase (sess 2) 0) 0 0 [] (barePlan 0 0 slotBase) = .go ∧
    checkPlan (headState slotBase (sess 2) (rawDesc 4 [(16, 1), (64, 1), (80, 1), (128, 2 ^ 60)])) 0 (rawDesc 4 [(16, 1), (64, 1), (80, 1), (128, 2 ^ 60)]) []
      (runPlan 0 (rawDesc 4 [(16, 1), (64, 1), (80, 1), (128, 2 ^ 60)]) slotBase) = .wait := by
  refine ⟨atHead_of _ _ _ _ rfl, ?_⟩
  decide +kernel

theorem test_decision : ((getRing (after (.nop headOp) (headState slotBase (sess 2) 0x0D)) 3).open_.map (·.status)) = [some sBadOpcode] ∧
    ((getRing (after (.nop bareOp) (headState slotBase (sess 2) 0x200)) 3).open_.map (·.status)) = [some sBadField] ∧
    ((getRing (after (.problem bareOp) (headState slotBase (sess 2) 0x11)) 3).open_.map (·.status)) = [some sRoleDenied] ∧
    ((getRing (after (.nop bareOp) (headState slotBase (sess 2) 0)) 3).finished) = [0] := by decide +kernel

theorem test_hyp_SlotDescriptors_plain : Passed bareOp (headState slotBase (sess 2) 0) 0 0 0 [] 0x00 barePlan ∧
    Passed bareOp (headState slotBase (sess 4) 0x11) 0 0 0x11 [] 0x11 problemPlan ∧ Passed bareOp (headState slotBase (sess 2) 0x0B) 0 0 0x0B [] 0x0B barePlan ∧
    (∀ d ∈ (getRing (headState slotBase (sess 2) 0x0B) 3).open_, d.orphan = true) := by
  refine ⟨passed_of _ _ _ _ _ _ rfl ?_ ?_, passed_of _ _ _ _ _ _ rfl ?_ ?_, passed_of _ _ _ _ _ _ rfl ?_ ?_, ?_⟩ <;> decide +kernel

/-- A FENCE behind an open descriptor. -/
def fenceState : State :=
  { slotBase with fns := [(0, sess 2)], rings := [(3, { liveRing with ready := [(1, 0x0B)], open_ := [{ oneDesc with status := none }], nextId := 1 })] }

theorem test_hyp_SlotDescriptors_fence : Passed bareOp fenceState 0 1 0x0B [] 0x0B barePlan ∧
    (∃ d ∈ (getRing fenceState 3).open_, d.orphan = false) := by
  refine ⟨⟨⟨rfl, rfl, rfl, rfl, rfl, ?_⟩, by decide, by decide +kernel⟩, { oneDesc with status := none }, by decide⟩
  intro d hd
  have e : d = { oneDesc with status := none } := by simpa [getRing, fenceState, mget, bareOp, headOp] using hd
  subst e
  exact ⟨by decide, by intro n hn; cases hn⟩

def loadRaw (ctxs fold : Nat) : Nat := rawDesc 1 [(16, 1), (10, fold), (64, ctxs)]

theorem test_hyp_SlotDescriptors_load : Passed bareOp (headState notCurrent (sess 2) (loadRaw 2 0)) 0 0 (loadRaw 2 0) [] 0x01 loadPlan ∧
    Passed bareOp (headState slotBase (sess 2) (loadRaw 3 1)) 0 0 (loadRaw 3 1) [] 0x01 loadPlan ∧
    slotCurrent slotBase 1 = true ∧ slotCurrent notCurrent 1 = false ∧ (maskCtxs 3).length ≠ barePattern.ctxs.length ∧
    (maskCtxs (dfld (loadRaw 2 0) 0x08 1)).length = barePattern.ctxs.length ∧ dFlag (loadRaw 2 1) 2 = true ∧ (getPart slotBase 1).mode ≠ .folded ∧
    loadRefusal notCurrent 1 [1] false barePattern = none ∧ loadRefusal notCurrent 1 [1] false emptyPattern = some (sBadPattern, 0xFFFFFFFF) := by
  refine ⟨passed_of _ _ _ _ _ _ rfl ?_ ?_, passed_of _ _ _ _ _ _ rfl ?_ ?_, ?_⟩ <;> decide +kernel

theorem test_load_pattern : ((getPart (after (.loadPattern bareOp) (headState notCurrent (sess 2) (loadRaw 2 0))) 1).loads.map (fun l => (l.ctx, l.slot, l.waiting))) =
      [(1, 1, false)] ∧
    ((getRing (after (.loadPattern bareOp) (headState slotBase (sess 2) (loadRaw 2 0))) 3).open_.map (·.status)) = [some sPartBusy] := by decide +kernel

def targetRaw (op : Nat) : Nat := rawDesc op [(16, 1)]

theorem test_hyp_SlotDescriptors_evict : Passed bareOp (headState slotBase (sess 2) (targetRaw 2)) 0 0 (targetRaw 2) [] 0x02 evictPlan ∧
    (getPart slotBase 1).mode = .pinned ∧ partRunning slotBase 1 = false ∧ partRunning (runState .step) 1 = true ∧
    ({ part1 with mode := .switching } : PartSt).mode ≠ .pinned := by
  refine ⟨passed_of _ _ _ _ _ _ rfl ?_ ?_, ?_⟩ <;> decide +kernel

theorem test_evict : slotResident (after (.evict bareOp) (headState slotBase (sess 2) (targetRaw 2))) 1 = false ∧ slotResident slotBase 1 = true ∧
    ((getRing (after (.evict bareOp) (headState (withPart { part1 with mode := .switching }) (sess 2) (targetRaw 2))) 3).open_.map (·.status)) = [some sPartBusy] := by
  decide +kernel

def switchRaw (drain c : Nat) : Nat := rawDesc 3 [(16, 1), (9, drain), (64, c)]

theorem test_hyp_SlotDescriptors_switch : Passed bareOp (headState slotBase (sess 2) (switchRaw 1 0)) 0 0 (switchRaw 1 0) [] 0x03 switchPlan ∧
    (getPart slotBase 1).mode ≠ .switching ∧ ({ part1 with mode := .switching } : PartSt).mode = .switching ∧
    ctxResident (withPart { part1 with mode := .switching }) 1 0 = true ∧
    ¬ (ctxResident (withPart { part1 with mode := .switching }) 1 2 = true ∨ ∃ l ∈ (getPart (withPart { part1 with mode := .switching }) 1).loads, l.ctx = 2 ∧ l.waiting = false) ∧
    partRunning (withPart { part1 with mode := .switching, runQueue := [1] }) 1 = true := by
  refine ⟨passed_of _ _ _ _ _ _ rfl ?_ ?_, ?_⟩ <;> decide +kernel

theorem test_switch : (getPart (after (.switch bareOp) (headState (withPart { part1 with mode := .switching }) (sess 2) (switchRaw 1 0))) 1).drain = .run ∧
    ((getRing (after (.switch bareOp) (headState slotBase (sess 2) (switchRaw 0 0))) 3).open_.map (·.status)) = [some sPartMode] ∧
    ((getRing (after (.switch bareOp) (headState (withPart { part1 with mode := .switching }) (sess 2) (switchRaw 0 2))) 3).open_.map (·.status)) = [some sNotResident] := by
  decide +kernel

/-- RUN of slot 1: one step, one problem, the list at granule 0 of the HBM3E tier, or PSRC = 1. -/
def runRaw (psrc plist : Nat) : Nat := rawDesc 4 [(16, 1), (11, psrc), (64, 1), (80, 1), (128, plist)]

theorem test_hyp_SlotDescriptors_run : Passed headOp (headState slotBase (sess 2) (runRaw 0 (2 ^ 60))) 0 0 (runRaw 0 (2 ^ 60)) [] 0x04 runPlan ∧
    Passed headOp (headState slotBase (sess 4) (runRaw 1 0)) 0 0 (runRaw 1 0) [] 0x04 runPlan ∧
    plistOk slotBase 0 (runRaw 0 (2 ^ 60)) = true ∧ plistOk slotBase 0 (runRaw 0 (2 ^ 60 + 1)) = false ∧ plistOk slotBase 0 (runRaw 1 0) = true ∧
    (getSlot slotBase 1).run = none ∧ (getSlot (runState .step) 1).run.isSome = true ∧ runResident slotBase 1 = true ∧ runResident notResident 1 = false ∧
    (getPart slotBase 1).mode = .pinned ∧ 3 ∉ slotCtxs slotBase 1 1 ∧ (getPart (withPart { part1 with cur := some 3 }) 1).cur = some 3 ∧
    ({ slot1 with noMaster := true } : SlotSt).noMaster = true ∧ slot1.hostPlaced = false ∧ runRefusal slotBase 1 = none ∧
    (copyReads slotBase 0 (2 ^ 60) 32 []).1 = none := by
  refine ⟨passed_of _ _ _ _ _ _ rfl ?_ ?_, passed_of _ _ _ _ _ _ rfl ?_ ?_, ?_⟩ <;> decide +kernel

theorem test_run : ((getSlot (after (.run headOp) (headState slotBase (sess 2) (runRaw 0 (2 ^ 60)))) 1).run.map (·.stage)) = some .between ∧
    (getRing (after (.run headOp) (headState slotBase (sess 4) (runRaw 1 0))) 3).collect = some (0, 1) ∧
    ((getRing (after (.run headOp) (headState slotBase (sess 2) (runRaw 0 (2 ^ 60 + 1)))) 3).open_.map (·.status)) = [some sBadAddr] ∧
    ((getRing (after (.run headOp) (headState notResident (sess 2) (runRaw 0 (2 ^ 60)))) 3).open_.map (·.status)) = [some sNotResident] := by decide +kernel

def policyRaw : Nat := rawDesc 12 [(16, 1), (64, 6)]

theorem test_hyp_SlotDescriptors_policy : Passed bareOp (headState slotBase (sess 2) policyRaw) 0 0 policyRaw [] 0x0C policyPlan ∧
    (getSlot slotBase 1).hostPlaced = bit policyRaw 64 ∧ (getSlot slotBase 1).reshard = none ∧
    (getSlot (withSlot { slot1 with reshard := some moveWait }) 1).reshard.isSome = true := by
  refine ⟨passed_of _ _ _ _ _ _ rfl ?_ ?_, ?_⟩ <;> decide +kernel

theorem test_policy : ((fun x : SlotSt => (x.narCommit, x.repairOff)) (getSlot (after (.commitPolicy bareOp) (headState slotBase (sess 2) policyRaw)) 1)) = (true, true) := by
  decide +kernel

/-- A layout description of layout 2 with no shard, for a slot whose job has a layer cut. -/
def layoutBytes : List Byte := bytesLE 4 0x5453594C ++ bytesLE 2 1 ++ List.replicate 10 0 ++ bytesLE 4 2 ++ List.replicate 44 0
def reshardOp : DescOp := { headOp with data := layoutBytes }
def reshardRaw (layout : Nat) : Nat := rawDesc 10 [(16, 1), (64, 64), (96, layout)]
def cutSlot : SlotSt := { slot1 with pattern := some { barePattern with job := 2 ^ 18 }, layout := 1 }

theorem test_hyp_SlotDescriptors_reshard : Passed reshardOp (headState (withSlot cutSlot) (sess 2) (reshardRaw 2)) 0 0 (reshardRaw 2) [] 0x0A reshardPlan ∧
    dfld (reshardRaw 1) 0x0C 4 ≤ cutSlot.layout ∧ cutSlot.layout < dfld (reshardRaw 2) 0x0C 4 ∧ cutSlot.reshard = none ∧
    layoutOk (withSlot cutSlot) 1 64 2 layoutBytes [] = true ∧ layoutOk (withSlot cutSlot) 1 64 3 layoutBytes [] = false := by
  refine ⟨passed_of _ _ _ _ _ _ rfl ?_ ?_, ?_⟩ <;> decide +kernel

theorem test_reshard : ((getSlot (nextOf (execReshard reshardOp [] (headState (withSlot cutSlot) (sess 2) (reshardRaw 2)))) 1).reshard.map (·.layout)) = some 2 ∧
    ((getRing (nextOf (execReshard reshardOp [] (headState (withSlot cutSlot) (sess 2) (reshardRaw 1)))) 3).open_.map (·.status)) = [some sBadLayout] := by
  decide +kernel

/-! ### Copies and images -/

def copyOp (n : Nat) : DescOp := { headOp with data := List.replicate n 0x55 }

/-- A copy of four bytes at granule 0 of the HBM3E tier of domain 0, or at granule 1, which is not mapped. -/
def copyRaw (op gran : Nat) : Nat := rawDesc op [(64, 4), (128, 2 ^ 60 + gran * 2 ^ 21)]

/-- The granule is that of a master of slot 1, which runs. -/
def masterRegion (k : RegionKind) : Region := { tier := 1, gidx := 0, count := 1, base := 0, kind := k, slot := some 1, mirrored := false, set := 0 }
def runningMaster : State :=
  { withSlot { slot1 with run := some (aRun .step) } with doms := [(0, { created := true, hbmMap := [(0, 1)], regions := [masterRegion (.w 0)] })] }

/-- Check set 0 covers buffer 0 with DIR = CHECK. -/
def checkedState (raw : Nat) : State :=
  { slotBase with fns := [(0, { sess 2 with chk := [(0, { en := true, dir := 2 })] })], rings := [(3, { liveRing with ready := [(0, raw)] })] }

theorem test_hyp_CopyDescriptors_in : Passed (copyOp 4) (headState slotBase (sess 2) (copyRaw 5 0)) 0 0 (copyRaw 5 0) [] 0x05 (copyInPlan (copyOp 4)) ∧
    sideOk slotBase 1 4 (copySide slotBase (copyRaw 5 0)) = true ∧ sideOk slotBase 1 4 (copySide slotBase (copyRaw 5 1)) = false ∧
    writeRefusal slotBase 4 (copySide slotBase (copyRaw 5 0)) = none ∧ writeRefusal runningMaster 4 (copySide runningMaster (copyRaw 5 0)) = some sSlotBusy ∧
    chkMatch slotBase 0 (copyRaw 5 0) (List.replicate 4 0x55) = true ∧ chkMatch (checkedState (copyRaw 5 0)) 0 (copyRaw 5 0) (List.replicate 8 0x55) = false := by
  refine ⟨passed_of _ _ _ _ _ _ rfl ?_ ?_, ?_⟩ <;> decide +kernel

theorem test_hyp_CopyDescriptors_checked : Passed { copyOp 8 with data2 := List.replicate 8 0 } (checkedState (copyRaw 5 0)) 0 0 (copyRaw 5 0) [] 0x05
    (copyInPlan { copyOp 8 with data2 := List.replicate 8 0 }) := by
  refine ⟨⟨rfl, rfl, rfl, rfl, rfl, by intro d hd; exact absurd hd (List.not_mem_nil)⟩, ?_, ?_⟩ <;> decide +kernel

theorem test_copy_in : tierBytes (after (.copyIn (copyOp 4)) (headState slotBase (sess 2) (copyRaw 5 0))) 0 (2 ^ 60) 5 = [0x55, 0x55, 0x55, 0x55, 0] ∧
    ((getRing (after (.copyIn (copyOp 4)) (headState slotBase (sess 2) (copyRaw 5 1))) 3).open_.map (·.status)) = [some sBadAddr] ∧
    ((getRing (after (.copyIn { copyOp 8 with data2 := List.replicate 8 0 }) (checkedState (copyRaw 5 0))) 3).open_.map (·.status)) = [some sHostCrc] := by
  decide +kernel

theorem test_hyp_CopyDescriptors_out : Passed headOp (headState slotBase (sess 2) (copyRaw 6 0)) 0 0 (copyRaw 6 0) [] 0x06 copyOutPlan ∧
    Passed bareOp (headState slotBase (sess 2) (copyRaw 7 0)) 0 0 (copyRaw 7 0) [] 0x07 fillPlan ∧
    (copyReadsAt slotBase 0 [2 ^ 60] []).1 = none ∧ (copyReadsAt slotBase 0 [2 ^ 60] [2 ^ 60]).1 = some sTierFail ∧
    sideOk slotBase 1 4 (copySide slotBase (copyRaw 7 0)) = true := by
  refine ⟨passed_of _ _ _ _ _ _ rfl ?_ ?_, passed_of _ _ _ _ _ _ rfl ?_ ?_, ?_⟩ <;> decide +kernel

def fillRaw : Nat := copyRaw 7 0 + 0x3F800000 * 2 ^ 192

theorem test_fill_copy_out : tierBytes (after (.descriptorFill bareOp) (headState slotBase (sess 2) fillRaw)) 0 (2 ^ 60) 5 = [0, 0, 0x80, 0x3F, 0] ∧
    (after (.copyOut headOp) (headState (after (.descriptorFill bareOp) (headState slotBase (sess 2) fillRaw)) (sess 2) (copyRaw 6 0))).out =
      [.hostWrite 0 0x10000 [0, 0, 0x80, 0x3F]] := by decide +kernel

/-- A slot of one tile whose update the host does: an image holds its working copy's exponent stream alone. -/
def imageSlot : SlotSt := { slot1 with hostPlaced := true, table := [anEntry], sets := [(0, [anEntry])] }
def imageRaw (op len : Nat) : Nat := rawDesc op [(16, 1), (64, len), (96, 1)]
def imageBytes : List Byte := bytesLE 4 0x4B43594C ++ bytesLE 2 1 ++ List.replicate 2 0 ++ bytesLE 8 3 ++ List.replicate 48 0 ++ List.replicate 2048 0
def restoreOp : DescOp := { headOp with data := imageBytes }

theorem crc64_zeros (n : Nat) : crc64 (List.replicate n 0) = 0 := by
  have h : crc64Byte 0 0 = 0 := by decide
  have k : ∀ n, (List.replicate n (0 : Byte)).foldl crc64Byte 0 = 0 := by
    intro n
    induction n with
    | zero => rfl
    | succ m ih => rw [List.replicate_succ, List.foldl_cons, h, ih]
  simp only [crc64, crcFinal, crcRun, crcInit, if_true]
  exact k n

theorem test_hyp_ImageDescriptors : Passed headOp (headState (withSlot imageSlot) (sess 2) (imageRaw 8 2112)) 0 0 (imageRaw 8 2112) [] 0x08 (imagePlan true true) :=
  passed_of _ _ _ _ _ _ rfl (by decide +kernel) (by decide +kernel)

theorem test_hyp_ImageDescriptors_clauses :
    tilesOk imageSlot (imageRaw 8 2112) = true ∧ tilesOk slot1 (imageRaw 8 2112) = false ∧ imageSize imageSlot 0 1 = 2112 ∧ dLength (imageRaw 8 2111) < 2112 ∧
    slotRunning (withSlot imageSlot) 1 = false ∧ slotRunning (withSlot { imageSlot with run := some (aRun .step) }) 1 = true ∧
    restoreOk imageSlot (imageRaw 9 2112) [] = false := by decide +kernel

theorem test_hyp_ImageDescriptors_restore : Passed restoreOp (headState (withSlot imageSlot) (sess 2) (imageRaw 9 2112)) 0 0 (imageRaw 9 2112) [] 0x09
    (restorePlan restoreOp) ∧ restoreOk imageSlot (imageRaw 9 2112) imageBytes = true := by
  refine ⟨passed_of _ _ _ _ _ _ rfl (by decide +kernel) (by decide +kernel), ?_⟩
  have h : (imageBytes.drop 64).take (imageSize imageSlot (dTile0 (imageRaw 9 2112)) (dNtiles (imageRaw 9 2112)) - 64) = List.replicate 2048 0 := by decide +kernel
  unfold restoreOk
  show (_ && _ == crc64 _) = true
  rw [h, crc64_zeros]
  decide +kernel

theorem test_checkpoint : ((getRing (after (.checkpoint headOp) (headState (withSlot imageSlot) (sess 2) (imageRaw 8 2111))) 3).open_.map (fun d => (d.status, d.detail))) =
    [(some sShortBuf, 2112)] := by decide +kernel

/-! ### Tier reads and bytes -/

def readOp : TierReadOp := { slot := none, tier := 1, gran := 0, block := 0, write := false, put := none, due := 10, corrected := 1, bad1 := false, bad2 := false }

theorem test_hyp_TierReads : granuleOk 1 0 = true ∧ channelRim (channelOf 1 0 0) ∉ slotBase.tiers.fenced ∧
    channelRim (channelOf 1 0 0) ∈ ({ slotBase with tiers := { fenced := [0] } } : State).tiers.fenced ∧
    takeInject slotBase 2 (channelOf 1 0 0) = none ∧ takeInject slotBase 3 (channelOf 1 0 0) = none ∧ takeInject slotBase 4 (channelOf 1 0 0) = none ∧
    ((mget [] slotBase.fault.rimFails (channelRim (channelOf 1 0 0))).filter (fun f => f.1 != channelOf 1 0 0)).length < 3 := by decide +kernel

/-- Slot 1 is in its step, and a write is due 10 fc after its start. -/
def lateState (fc : Nat) : State := { runState .step with fc := fc }

theorem test_hyp_TierReads_late : (getSlot (lateState 11) 1).run = some (aRun .step) ∧ (aRun .step).stage = .step ∧
    (lateState 11).fc ≤ (aRun .step).start + readOp.due + 1 ∧ (aRun .step).start + readOp.due + 1 < (lateState 12).fc ∧
    (aRun .step).causes.filter (·.1 == cTier) = [] ∧ channelRim (channelOf 1 0 0) ∉ (lateState 12).tiers.fenced := by decide +kernel

theorem test_tier_read : getChan (after (.tierRead readOp) slotBase) 0 = { corr := 1 } ∧
    getChan (after (.tierRead { readOp with bad1 := true }) slotBase) 0 = { corr := 1, retry := 1 } ∧
    getChan (after (.tierRead { readOp with bad1 := true, bad2 := true, corrected := 0 }) slotBase) 0 = { retry := 1, fail := 1 } ∧
    (getSlot (after (.tierRead { readOp with slot := some 1, write := true }) (lateState 12)) 1).tierLate = 1 := by decide +kernel

def dirtyState : State := { ready with tiers := { zeroed := true, hbm := [(5, 7)], hbmGran := [(0, .dirty)], lpGran := [(4, .dirty)] } }

theorem test_hyp_TierReads_zeroing : granuleOk 2 4 = true ∧ mget .free dirtyState.tiers.hbmGran 0 = .dirty ∧ mget .free dirtyState.tiers.hbmGran 1 ≠ .dirty ∧
    mget .free dirtyState.tiers.lpGran 4 = .dirty ∧ mget .free dirtyState.tiers.lpGran 0 ≠ .dirty := by decide +kernel

theorem test_granule_zeroing : (after (.granuleZeroing 1 0) dirtyState).tiers.hbm = [] ∧ (after (.granuleZeroing 1 0) dirtyState).tiers.hbmGran = [] := by decide +kernel

/-- Granule 0 of domain 0 in LPDDR5X is a mirrored pair, and granule 1 a single one. -/
def mirrorState : State := { ready with doms := [(0, { created := true, lpMap := [(0, 1), (1, 3)], lpMirror := [(0, true)] })] }

theorem test_hyp_TierByteReadBack : mirrorState.tiers.fenced = [] ∧ taForm (2 * 2 ^ 60) = true ∧ physOf (getDom mirrorState 0) 2 (taGidx (2 * 2 ^ 60)) = some 0 ∧
    physOf (getDom mirrorState 0) 2 (taGidx (2 * 2 ^ 60 + 2 ^ 21)) = some 2 ∧ taTier (2 * 2 ^ 60 + 2 ^ 21) = taTier (2 * 2 ^ 60) ∧
    taOffs (2 * 2 ^ 60 + 2 ^ 21) = taOffs (2 * 2 ^ 60) ∧ taOffs (2 * 2 ^ 60 + 1) ≠ taOffs (2 * 2 ^ 60) ∧ 2 ≠ 0 ∧ 2 ≠ 0 ^^^ 4 ∧
    Safety.MemCanonical mirrorState := by
  unfold Safety.MemCanonical; decide +kernel

/-! ### ADMIN descriptors -/

def adminRaw (sub : Nat) (fs : List (Nat × Nat)) : Nat := rawDesc 16 ((64, sub) :: fs)

theorem test_hyp_DomainsAndQuotas : Passed bareOp (headState slotBase (sess 2) (adminRaw 1 [(128, 1)])) 0 0 (adminRaw 1 [(128, 1)]) [] 0x101 domainPlan ∧
    Passed bareOp (headState slotBase (sess 2) (adminRaw 2 [])) 0 0 (adminRaw 2 []) [] 0x102 domainPlan ∧
    Passed bareOp (headState slotBase (sess 2) (adminRaw 3 [(136, 3), (160, 0xFFFFF)])) 0 0 (adminRaw 3 [(136, 3), (160, 0xFFFFF)]) [] 0x103 quotaPlan ∧
    Passed bareOp (headState slotBase (sess 4) (adminRaw 13 [])) 0 0 (adminRaw 13 []) [] 0x10D servicePlan ∧
    Passed bareOp (headState slotBase (sess 4) (adminRaw 14 [])) 0 0 (adminRaw 14 []) [] 0x10E servicePlan ∧
    domHolds (getDom slotBase 0) = true ∧ domHolds (getDom slotBase 1) = false := by
  refine ⟨passed_of _ _ _ _ _ _ rfl ?_ ?_, passed_of _ _ _ _ _ _ rfl ?_ ?_, passed_of _ _ _ _ _ _ rfl ?_ ?_, passed_of _ _ _ _ _ _ rfl ?_ ?_,
    passed_of _ _ _ _ _ _ rfl ?_ ?_, ?_⟩ <;> decide +kernel

theorem test_domains : (getDom (after (.domainCreate bareOp) (headState slotBase (sess 2) (adminRaw 1 [(128, 1)]))) 1) = { created := true } ∧
    (getDom (after (.quotaSet bareOp) (headState slotBase (sess 2) (adminRaw 3 [(136, 3), (160, 0xFFFFF)]))) 0).limLp = 0xFFFFF ∧
    (after (.serviceLeave bareOp) (headState slotBase (sess 4) (adminRaw 14 []))).service = false := by decide +kernel

/-- Clusters 0 (of partition 1) and 1, and the banks of a Slath that are all in use. -/
def emptyPart : State := { withPart part1 with cores := [] }
def fullSlath : State := { emptyPart with slaths := [(0, { psBanks := List.range 96 })] }
def stagedSlath : State := { emptyPart with slaths := [(0, { psBanks := [], use := (List.range 96).map (fun b => (8 * b, .staging 1)) })] }
def pagedSlath : State := { emptyPart with slaths := [(0, { psPages := 1 })] }

theorem test_hyp_Partitions_create : Passed bareOp (headState emptyPart (sess 2) (adminRaw 8 [(16, 2), (192, 2)])) 0 0 (adminRaw 8 [(16, 2), (192, 2)]) [] 0x108 partPlan ∧
    Passed bareOp (headState emptyPart (sess 2) (adminRaw 9 [(16, 1), (192, 3)])) 0 0 (adminRaw 9 [(16, 1), (192, 3)]) [] 0x109 resizePlan ∧
    clustersOf 2 = [1] ∧ partExists emptyPart 2 = false ∧ partExists emptyPart 1 = true ∧ clustersOk emptyPart 2 [1] = true ∧ clustersOk emptyPart 2 [0] = false ∧
    (takeBuffers emptyPart 2 (quadsOf [1])).isSome = true ∧ takeBuffers fullSlath 2 (quadsOf [1]) = none ∧ partBusy emptyPart 1 = false ∧ partBusy slotBase 1 = true ∧
    clustersOk emptyPart 1 [0, 1] = true ∧ clustersOk emptyPart 1 [] = false ∧ quadsOf [0, 1] = quadsOf (getPart emptyPart 1).clusters := by
  refine ⟨passed_of _ _ _ _ _ _ rfl ?_ ?_, passed_of _ _ _ _ _ _ rfl ?_ ?_, ?_⟩ <;> decide +kernel

theorem test_hyp_Partitions_rest : Passed bareOp (headState emptyPart (sess 2) (adminRaw 10 [(16, 1)])) 0 0 (adminRaw 10 [(16, 1)]) [] 0x10A removePlan ∧
    Passed bareOp (headState emptyPart (sess 2) (adminRaw 11 [(16, 1), (136, 2)])) 0 0 (adminRaw 11 [(16, 1), (136, 2)]) [] 0x10B modePlan ∧
    Passed bareOp (headState emptyPart (sess 2) (adminRaw 12 [(144, 16)])) 0 0 (adminRaw 12 [(144, 16)]) [] 0x10C storePlan ∧
    (∃ x ∈ emptyPart.slots, x.2.present = true ∧ x.2.part = 1) ∧ ({ emptyPart with slots := [] } : State).slots = [] ∧
    partRunning (runState .step) 1 = true ∧ partRunning emptyPart 1 = false ∧ (getSlath pagedSlath 0).psPages ≠ 0 ∧ (getSlath emptyPart 0).psPages = 0 ∧
    storeBanks (getSlath stagedSlath 0) 1 = none ∧ storeBanks (getSlath emptyPart 0) 2 = some [0, 1] := by
  refine ⟨passed_of _ _ _ _ _ _ rfl ?_ ?_, passed_of _ _ _ _ _ _ rfl ?_ ?_, passed_of _ _ _ _ _ _ rfl ?_ ?_, ?_⟩ <;> decide +kernel

theorem test_partitions : (getPart (after (.partCreate bareOp) (headState emptyPart (sess 2) (adminRaw 8 [(16, 2), (136, 1), (192, 2)]))) 2) =
      { clusters := [1], mode := .switching } ∧
    (getPart (after (.partMode bareOp) (headState emptyPart (sess 2) (adminRaw 11 [(16, 1), (136, 2)]))) 1).mode = .folded ∧
    ((getRing (after (.partRemove bareOp) (headState emptyPart (sess 2) (adminRaw 10 [(16, 1)]))) 3).open_.map (·.status)) = [some sPartBusy] ∧
    (getSlath (after (.psSize bareOp) (headState emptyPart (sess 2) (adminRaw 12 [(144, 2)]))) 0).psBanks = [0, 1] := by decide +kernel

/-- REGION_ALLOC and REGION_RELEASE of HBM3E in domain 0, and a RUN that reads from the buffer's granule. -/
def allocRaw (n : Nat) : Nat := adminRaw 6 [(136, 2), (160, n)]
def releaseRaw (gran : Nat) : Nat := adminRaw 7 [(192, 2 ^ 60 + gran * 2 ^ 21)]
def bufferRegion : Region := { tier := 1, gidx := 0, count := 1, base := 0, kind := .buffer, slot := none, mirrored := false, set := 0 }
def streamed : State :=
  withSlot { slot1 with
    run := some { aRun .step with problems := [{ off := [0, 0, 0], par := [0, 0, 0, 0] }] },
    pattern := some { barePattern with streams := [{ base := 2 ^ 60, extent := 64, sel := none, writes := false }] } }
def allocs (a : Ans) : Bool := match a with | .ok _ => true | .err _ => false
def bufferReq (n : Nat) : RegionReq := { tier := 1, count := n, kind := .buffer, slot := none, mirrored := false }

theorem test_hyp_SlotsAndRegions_alloc : Passed bareOp (headState slotBase (sess 2) (allocRaw 3)) 0 0 (allocRaw 3) [] 0x106 allocPlan ∧
    allocs (allocRegions slotBase 0 [bufferReq 3]) = true ∧ (match allocRegions slotBase 0 [bufferReq 4] with | .err c => c | .ok _ => 0) = sQuota := by
  refine ⟨passed_of _ _ _ _ _ _ rfl ?_ ?_, ?_⟩ <;> decide +kernel

theorem test_hyp_SlotsAndRegions_release : Passed bareOp (headState slotBase (sess 2) (releaseRaw 0)) 0 0 (releaseRaw 0) [] 0x107 releasePlan ∧
    regionAt slotBase (releaseRaw 0) bufferRegion ∧ (∀ r, ¬ regionAt slotBase (releaseRaw 1) r) ∧ regionAt runningMaster (releaseRaw 0) (masterRegion (.w 0)) ∧
    (masterRegion (.w 0)).kind ≠ .buffer ∧ regionInUse slotBase 0 bufferRegion = false ∧ regionInUse streamed 0 bufferRegion = true := by
  refine ⟨passed_of _ _ _ _ _ _ rfl (by decide +kernel) (by decide +kernel), by unfold regionAt; decide +kernel, ?_, by unfold regionAt; decide +kernel, by decide +kernel⟩
  intro r hr
  have h : (getDom slotBase (aDomain (releaseRaw 1))).regions.find? (fun r => taForm (dfld (releaseRaw 1) 0x18 8) && r.tier == taTier (dfld (releaseRaw 1) 0x18 8)
      && r.gidx == taGidx (dfld (releaseRaw 1) 0x18 8) && taOffs (dfld (releaseRaw 1) 0x18 8) == 0) = none := by decide +kernel
  exact absurd (h.symm.trans hr) (by simp)

def createRaw (n : Nat) : Nat := adminRaw 4 [(16, n), (144, 1), (160, 1024)]

theorem test_hyp_SlotsAndRegions_create : Passed headOp (headState slotBase (sess 2) (createRaw 2)) 0 0 (createRaw 2) [] 0x104 createPlan ∧
    (getSlot slotBase 1).present = true ∧ (getSlot slotBase 2).present = false ∧
    storeRefusal slotBase 2 { barePattern with job := 1 } = none ∧ storeRefusal slotBase 2 { barePattern with job := 1 + 2 ^ 16 } ≠ none ∧
    allocs (allocSlot slotBase 2 0 (slotCache slotBase 1 1024 barePattern) (paramRegions 2 0 false false [] ++ stepRegions 2 barePattern)) = true ∧
    (match allocSlot slotBase 2 0 (slotCache slotBase 1 (33 * 65536) barePattern) [] with | .err c => c | .ok _ => 0) = sQuota := by
  refine ⟨passed_of _ _ _ _ _ _ rfl ?_ ?_, ?_⟩ <;> decide +kernel

def removeRaw : Nat := adminRaw 5 [(16, 1)]

theorem test_hyp_SlotsAndRegions_remove : Passed bareOp (headState slotBase (sess 2) removeRaw) 0 0 removeRaw [] 0x105 removeSlotPlan ∧
    (slotRunning notCurrent 1 = false ∧ (getSlot notCurrent 1).reshard = none ∧ (getPart notCurrent 1).loads = [] ∧ slotCurrent notCurrent 1 = false) ∧
    (slotRunning slotBase 1 = false ∧ slotCurrent slotBase 1 = true) ∧ slotRunning (runState .step) 1 = true ∧
    (∃ l ∈ (getPart (withPart { part1 with loads := [aLoad] }) 1).loads, l.slot = 1) := by
  refine ⟨passed_of _ _ _ _ _ _ rfl ?_ ?_, ?_⟩ <;> decide +kernel

theorem test_slots_regions : ((getRing (after (.regionAlloc bareOp) (headState slotBase (sess 2) (allocRaw 3))) 3).open_.map (fun d => (d.status, d.detail))) = [(some 0, 1)] ∧
    (getDom (after (.regionRelease bareOp) (headState slotBase (sess 2) (releaseRaw 0))) 0).hbmMap = [] ∧
    (getSlot (nextOf (execSlotCreate headOp { barePattern with job := 1 } (headState slotBase (sess 2) (createRaw 2)))) 2).present = true ∧
    (getSlot (after (.slotRemove bareOp) (headState notCurrent (sess 2) removeRaw)) 1).present = false := by decide +kernel

/-! ### Arbiters -/

/-- Bond-port arbiter 0 in a state, and one fc of it with requests. -/
def arbState (a : ArbSt) : State := { ready with fc := 9, arbs := [(arbKey 3 0, a)] }
def arbFc (reqs : List (BitVec 4)) (serving : Bool) : ArbOp := { cls := 3, index := 0, reqs := reqs, slots := [], serving := serving }

theorem test_hyp_Arbiters : arbValid (arbKey 3 47) = true ∧ arbValid (arbKey 3 48) = false ∧
    (arbFrozen ({ swFreeze := true } : ArbSt) || arbBlocked (arbState {}) (arbKey 3 0) || false) = true ∧
    (arbFrozen ({} : ArbSt) || arbBlocked (arbState {}) (arbKey 3 0) || false) = false ∧ ({ queue := [2, 1] } : ArbSt).queue = 2 :: [1] ∧
    ((cyclic 8 6).filter (fun i => ([1, 7] : List Nat).contains i && !bit 0 i && !([] : List Nat).contains i)) = [7, 1] ∧
    ((cyclic 8 6).filter (fun i => ([] : List Nat).contains i && !bit 0 i && !([] : List Nat).contains i)) = [] ∧
    2 ∈ (getArb (arbState { queue := [2, 1] }) (arbKey 3 0)).queue ∧ 3 ∉ (getArb (arbState { queue := [2, 1] }) (arbKey 3 0)).queue ∧
    (getArb (arbState { lastGrant := some (3, 9) }) (arbKey 3 0)).lastGrant = some (3, (arbState {}).fc) ∧
    (getArb (arbState { lastGrant := some (3, 8) }) (arbKey 3 0)).lastGrant ≠ some (3, (arbState {}).fc) := by decide

theorem test_arbitration : getArb (after (.arbitration (arbFc [1, 7] false)) (arbState { ptr := 6 })) (arbKey 3 0) =
      { ptr := 0, queue := [1], lastGrant := some (7, 9), busy := true, grants := 1, parked := 1 } ∧
    getArb (after (.arbitration (arbFc [1] true)) (arbState {})) (arbKey 3 0) = { queue := [1], busy := true, parked := 1 } ∧
    getArb (after (.withdraw 3 0 3) (arbState { lastGrant := some (3, 9), grants := 1 })) (arbKey 3 0) = { dead := 1 } := by decide +kernel

/-! ### Faults -/

theorem test_hyp_DieFaults : diePos ready 0 = some 0 ∧ diePos ready 8 = none ∧ diePos ready 9 = some 8 ∧ diePos ready 11 = none ∧ diePos ready 46 = some 9 ∧
    spareTaken ready 0 = false ∧ spareTaken ready 46 = false ∧ spareTaken { ready with fault := { latched := [1] } } 0 = true ∧
    (1 ∈ partsWith coreState (dieClusters coreState 0)) := by decide +kernel

theorem test_die_fault : (after (.dieFault 0 3) coreState).fault.latched = [0] ∧ (after (.dieFault 0 3) coreState).fault.cls = fcDie ∧
    (getPart (after (.dieFault 0 3) coreState) 1).drain = .discard ∧
    (after (.dieFault 0 3) { coreState with fault := { latched := [1] } }).fault.unserved = [0] := by decide +kernel

/-- A Slath, a bridge and a rim die already out of service. -/
def brokenState : State := { ready with fault := { fenced := [0x3D], bridges := [2] }, tiers := { zeroed := true, fenced := [3] } }

theorem test_hyp_Detectors : (diePos ready 0).isSome = true ∧ ((mget [] ready.fault.bond 0).filter (fun t => decide (ready.fc < t + 1200000000))).length < 255 ∧
    takeInject ready 0 0 = none ∧ beats ready 0 = true ∧ beats ready 8 = false ∧ beats ready 0x3A = true ∧ beats brokenState 0x33 = false ∧
    mget 0 ready.fault.missed 0 ≠ 2 ∧ mget 0 ({ ready with fault := { missed := [(0, 2)] } } : State).fault.missed 0 = 2 ∧
    coreValid 0 = true ∧ (diePos ready (coreDie ready 0)).isSome = true ∧ 0 ∉ ready.fault.failedTest ∧
    0 ∈ ({ ready with fault := { failedTest := [0] } } : State).fault.failedTest := by decide +kernel

theorem test_hyp_Detectors_sram : (sramPlace (runState .step) (.store 0 5)).2.2 = some 1 ∧ (sramPlace ready (.store 0 5)).2.2 = none ∧
    abortable (getSlot (runState .step) 1) = true ∧ abortable (getSlot slotBase 1) = false ∧ (runState .step).fault.words = [] := by decide +kernel

theorem test_detectors : (after (.hopCrc (.bond 0) true false) ready).fault.transCnt = 1 ∧ (after (.hopCrc (.bond 0) true true) ready).fault.cls = fcDie ∧
    (after (.heartbeat 0 false) { ready with fault := { missed := [(0, 2)] } }).fault.latched = [0] ∧
    (after (.selfTest 0 1 false) ready).fault.failedTest = [1] ∧ (after (.selfTest 0 1 true) { ready with fault := { failedTest := [1] } }).fault.transCnt = 1 ∧
    (getSlot (after (.sramUncorrectable ⟨.store 0 5, false⟩) (runState .step)) 1).round.abort = some (false, sFaultCovered) := by decide +kernel

theorem test_hyp_RimFaults : 3 ∈ brokenState.tiers.fenced ∧ 0 ∉ brokenState.tiers.fenced ∧ ready.tiers.fenced = [] ∧ brokenState.tiers.fenced ≠ [] ∧
    isFenced brokenState (0x3C + 1) = true ∧ 2 ∈ brokenState.fault.bridges ∧ slot1.present = true ∧ slot1.mirrored = false ∧ slot1.run = none ∧
    slot1.reshard = none ∧ slotBase.slots = [(1, slot1)] := by decide +kernel

theorem test_rim_fault : (getSlot (after (.rimFault 2 1) slotBase) 1).lostData = true ∧ (after (.rimFault 2 1) slotBase).fault.cls = fcRim ∧
    (after (.rimFault 2 1) brokenState).fault.cls = fcUncovered := by decide +kernel

/-- Die 0 is fenced, and its spare is due or being powered. -/
def latchedState : State := { ready with fault := { fenced := [0], latched := [0, 13] } }
def poweringState : State := { ready with fault := { fenced := [0], powering := [0] } }
def spareOp (ok : Bool) : SpareOp := { die := 0, ok := ok, first := [], second := [] }

theorem test_hyp_Spares : handleUp latchedState = true ∧ latchedState.fault.latched.head? = some 0 ∧ latchedState.fault.latched.head? ≠ some 13 ∧
    handleUp { latchedState with handle := {} } = false ∧ 0 ∈ poweringState.fault.powering ∧ 0 ∉ latchedState.fault.powering ∧ dieHome poweringState 0 = some 0 ∧
    partsWith poweringState (posClusters (dieQuad 0) 0) = [] ∧ isFenced poweringState 8 = false := by decide +kernel

theorem test_spare : (after (.spareSubstitution 0) latchedState).fault.powering = [0] ∧ (after (.spareSubstitution 13) latchedState) = latchedState ∧
    diePos (after (.sparePowered (spareOp true)) poweringState) 8 = some 0 ∧
    (after (.sparePowered (spareOp false)) poweringState).fault.unserved = [0] := by decide +kernel

/-! ### Boot and the Handle pair -/

def image1 : ImageSt := { version := 1, svn := 1, stateMin := 1, stateVer := 2, ok := true }
def image2 : ImageSt := { version := 2, svn := 2, stateMin := 2, stateVer := 3, ok := true }
def badImage : ImageSt := { image1 with ok := false }

/-- A Handle die in a role with images in both slots. -/
def dieIn (r : DieRole) : HandleDie := { role := r, images := [(0, image1), (1, image1)] }
def pairState (a b : HandleDie) (latch : Option Nat) (stage : Nat) : State :=
  { ready with handle := { latch := latch, stage := stage, dies := [(0, a), (1, b)] } }

/-- Power is on and COLD_RST_N has been released. -/
def released : State := { State.reset with power := { coldReset := false }, handle := { dies := [(0, dieIn .off), (1, dieIn .off)] } }

theorem test_hyp_BootSequence_power : ready.power.on = true ∧ ({ ready with power := { on := false } } : State).power.on = false ∧
    State.reset.power.coldReset = true ∧ shutDown State.reset = false ∧ shutDown { ready with power := { thermTrip := true } } = true ∧
    ready.power.coldReset = false ∧ released.rootLock = false ∧ released.power.coldReset = false ∧ released.power.on = true ∧ shutDown released = false ∧
    ready.rootLock = true := by decide

theorem test_hyp_Boots : romAccepts (getDie released 0) (imageAt released 0 (bootSlot (getDie released 0))) = true ∧
    romAccepts { dieIn .off with images := [(0, badImage), (1, image1)] } badImage = false ∧ romAccepts (dieIn .off) image1 = true := by decide

theorem test_hyp_BootSequence_stages : (pairState (dieIn .starting) (dieIn .starting) none 2).handle.stage = 2 ∧
    (getDie (pairState (dieIn .starting) (dieIn .starting) none 2) 0).role = .starting ∧ (getDie (pairState (dieIn .starting) (dieIn .starting) none 2) 1).role = .starting ∧
    (getDie (pairState (dieIn .off) (dieIn .starting) none 2) 0).role ≠ .starting ∧ (pairState (dieIn .starting) (dieIn .starting) none 1).handle.testN = true ∧
    (pairState (dieIn .active) (dieIn .starting) (some 0) 2).handle.latch.isSome = true ∧ (getPort ready 0).perst = false ∧ isFenced ready 0x38 = false := by decide

/-- Boot has applied the fence table, and quadrant dies have been fenced since. -/
def applied (ds : List Nat) : State := { slotBase with fault := { fenced := ds }, handle := { ready.handle with applied := true } }

theorem test_boot : (getDie (after .rootLock released) 0).role = .starting ∧ (after .rootLock released).handle.stage = 1 ∧
    activeDie (after (.latchDecision false) (pairState (dieIn .starting) (dieIn .starting) none 2)) = some 1 ∧
    (getDie (after (.latchDecision true) (pairState (dieIn .off) (dieIn .starting) none 2)) 0).role = .lost ∧
    (after .bootStageEnd (pairState (dieIn .active) (dieIn .starting) (some 0) 4)).handle.stage = 5 ∧
    (after .ready (pairState (dieIn .active) (dieIn .standby) (some 0) 5)).handle.stage = 6 ∧
    (after .coldReset (applied [0])).fault.fenced = [] ∧ (after .coldReset (applied [0])).handle.fences.fenced = [0] ∧ (after .coldReset slotBase).slots = [] := by decide +kernel

def pair (b : DieRole) : State := pairState (dieIn .active) (dieIn b) (some 0) 6
def farPair : State := pairState (dieIn .active) { dieIn .starting with images := [(0, { image1 with stateMin := 3, stateVer := 4 }), (1, image1)] } (some 0) 6

theorem test_hyp_HandlePair_sync : activeDie (pair .starting) = some 0 ∧ (getDie (pair .starting) 1).role = .starting ∧ (getDie (pair .standby) 1).role = .standby ∧
    (getDie (pair .rebooting) 1).role = .rebooting ∧ (getDie (pair .lost) 1).role ≠ .starting ∧ (getDie (pair .lost) 1).role ≠ .rebooting ∧
    formatsMeet (runningImage (pair .starting) 1) (runningImage (pair .starting) 0) = true ∧
    formatsMeet (runningImage farPair 1) (runningImage farPair 0) = false ∧ (getDie (pair .lost) (otherDie 0)).role ≠ .standby := by decide

theorem test_hyp_SynchronisedFormats : activeDie farPair = some 0 ∧ formatsMeet { image1 with stateMin := 2, stateVer := 2 } image1 = true ∧
    formatsMeet { image1 with stateMin := 3, stateVer := 3 } image1 = false ∧ formatsMeet { image1 with stateMin := 1, stateVer := 1 } image1 = false := by decide

/-- The latch is with die 1 after a fault of die 0; and an update that die 1 already runs. -/
def faultPair : State := pairState (dieIn .lost) (dieIn .standby) (some 1) 6
def anUpdate (done : List Nat) : UpdateSt := { image := image2, done := done }
def updating (b : DieRole) (done : List Nat) : State :=
  { pair b with handle := { (pair b).handle with update := some (anUpdate done) } }

theorem test_hyp_HandlePair_takeover : faultPair.handle.latch = some 1 ∧ (getDie faultPair 1).role = .standby ∧ faultPair.handle.update = none ∧
    (pair .standby).handle.latch = some 0 ∧ (getDie (pair .standby) 0).role = .active ∧ (updating .standby [1]).handle.update = some (anUpdate [1]) ∧
    otherDie 0 ∈ (anUpdate [1]).done ∧ 0 ∉ (anUpdate [1]).done ∧ mbCommandOpen (updating .standby [1]) = false ∧ State.reset.handle.latch = none := by decide

theorem test_hyp_HandlePair_update : standbyOk (pair .standby) = true ∧ standbyOk (pair .lost) = false ∧ (pair .standby).handle.update = none ∧
    (pair .standby).fault.latched = [] ∧ (pair .standby).fault.powering = [] ∧ romAccepts (getDie (pair .standby) 1) image2 = true ∧
    formatsMeet image2 (runningImage (pair .standby) 0) = true ∧ romAccepts (getDie (pair .standby) 1) badImage = false ∧
    (updating .standby []).handle.update = some (anUpdate []) ∧ (getDie (updating .standby []) 1).role = .standby ∧ 1 ∉ (anUpdate []).done ∧
    romAccepts (getDie (updating .standby []) 1) { image2 with ok := false } = false ∧ (getDie (updating .standby []) 1).slot < 2 := by decide

theorem test_handle_pair : (getDie (after (.standbySync 1) (pair .starting)) 1).role = .standby ∧ (getDie (after (.standbySync 1) farPair) 1).role = .lost ∧
    activeDie (after .takeover faultPair) = some 1 ∧ (after .takeover faultPair).handle.takeovers = 1 ∧ activeDie (after .takeover (updating .standby [1])) = some 1 ∧
    (getDie (after (.imageWritten 1 true) (updating .standby [])) 1).role = .rebooting ∧ (getDie (after (.imageWritten 1 true) (updating .standby [])) 1).slot = 1 ∧
    (after (.requestUpdate image2) (pair .standby)).out = [.bmc true] := by decide +kernel

/-! ### Sensors and shutdowns -/

def hot (t : Int) : State := { ready with clock := { derated := 3 }, handle := { ready.handle with sensors := [(149, t)] } }

theorem test_hyp_SensorsAndPower : handleUp ready = true ∧ handleUp State.reset = false ∧ sensorGated ready 0 = false ∧ sensorGated ready 16 = true ∧
    (149 < 150 ∧ 1600 ≤ mget 0 (hot 1600).handle.sensors 149) ∧ (1568 ≤ mget 0 (hot 1599).handle.sensors 149 ∧ mget 0 (hot 1599).handle.sensors 149 < 1600) ∧
    (∀ i ∈ List.range 150, mget 0 (hot 1567).handle.sensors i < 1568) := by decide +kernel

/-- A power stage of rail 0 is listed. -/
def listed : State := { ready with handle := { ready.handle with board := some board } }

theorem test_hyp_SensorsAndPower_vout : handleUp listed = true ∧ (∃ b, listed.handle.board = some b ∧ ∃ t ∈ b.stages, t.2 = 0) ∧
    mget 0 listed.handle.vcoreMc 0 = 0 ∧ 600 ≤ 750 ∧ Config.vcoreMin.val ≤ 750 ∧ 750 ≤ vcore listed 0 + 5 ∧ vcore listed 0 ≤ 750 + 5 := by
  refine ⟨by decide, ⟨board, rfl, (0x40, 0), by decide, rfl⟩, by decide, by decide, ?_, by decide, by decide⟩
  exact Nat.lt_succ_iff.mp Config.vcoreMin.isLt

theorem test_sensors : (after .derate (hot 1600)).clock.derated = 4 ∧ (after .derate (hot 1599)).clock.derated = 3 ∧ (after .derate (hot 1567)).clock.derated = 2 ∧
    mget 0 (after (.sensorSample 293 (-5)) ready).handle.sensors 293 = -5 := by decide +kernel

theorem test_hyp_Shutdowns : listed.power.on = true ∧ handleUp listed = true ∧ listed.handle.board = some board ∧ (∃ r, (0x40, r) ∈ board.stages.take 16) := by
  exact ⟨rfl, by decide, rfl, 0, by decide⟩

theorem test_shutdowns : (after (.thermTrip 5) slotBase).power.thermTrip = true ∧ (after (.thermTrip 5) slotBase).slots = [] ∧
    (after .pllLoss slotBase).rootLock = false ∧ (after (.smbalert 0x40 true) listed).power.causes = [6] ∧ after (.smbalert 0x41 true) listed = listed := by
  decide +kernel

/-! ### Management -/

/-- Handle die 0 is active in stage 6 with a secured session, or none. -/
def mgmtState (p : Option SpdmSt) : State := { ready with handle := { ready.handle with spdm := p, mkey := some [1], keys := [(5, { role := 1, key := [1] })] } }
def spdm (secured auth : Bool) (nonce : Option (List Byte)) : SpdmSt := { sid := 0x50004, secured := secured, auth := auth, nonce := nonce }
def openMgmt : State := mgmtState (some (spdm true true none))
def unowned : State := { mgmtState (some (spdm true false none)) with handle := { (mgmtState (some (spdm true false none))).handle with ownN := false, mkey := none } }

/-- MKEY is locked out. -/
def mkeyLocked : State := setLock (mgmtState (some (spdm true false none))) lockMkey { fails := 4, locked := true }

/-- The HMAC that answers nonce [7] under MKEY [1]. -/
def mgMac : BitVec 256 := BitVec.ofNat 256 (ofBytesLE (hmac [1] ([0x03] ++ bytesLE 4 0x50004 ++ [7])))

theorem test_hyp_ManagementSessions : mgmtUp State.reset = false ∧ mgmtUp (mgmtState none) = true ∧ mgmtOpen (mgmtState none) = false ∧ mgmtOpen openMgmt = true ∧
    (mgmtState (some (spdm false false none))).handle.spdm = some (spdm false false none) ∧ (spdm false false none).secured = false ∧
    secured (mgmtState none) = false ∧ secured openMgmt = true ∧ (spdm true false (some [7])).nonce = some [7] ∧ (mgmtState none).handle.mkey = some [1] ∧
    (getLock (mgmtState none) lockMkey).locked = false ∧ (getLock mkeyLocked lockMkey).locked = true ∧ mkeyLocked.handle.mkey.isSome = true ∧ openMgmt.handle.ownN = true ∧ unowned.handle.ownN = false ∧ unowned.handle.mkey = none ∧
    secured unowned = true := by decide

theorem test_hyp_ManagementSessions_mac : hmac [1] ([0x03] ++ bytesLE 4 (spdm true false (some [7])).sid ++ [7]) = bytesLE 32 mgMac.toNat ∧
    hmac [1] ([0x03] ++ bytesLE 4 (spdm true false (some [7])).sid ++ [7]) ≠ bytesLE 32 (0 : BitVec 256).toNat := by decide +kernel

theorem test_management : mgmtOpen (after (.mgAuth mgMac) (mgmtState (some (spdm true false (some [7]))))) = true ∧
    (after (.mgAuth 0) (mgmtState (some (spdm true false (some [7]))))).handle.spdm = none ∧
    (after (.keyExchange 4) openMgmt).out = [.bmc false] ∧ (after (.mgOwn 9) openMgmt).out = [.mgmt sRoleDenied []] ∧
    (after (.mgAuth 0) mkeyLocked).out = [.mgmt sAuthLocked []] ∧
    (after (.mgOwn 9) unowned).handle.mkey = some (9 :: List.replicate 31 0) := by decide +kernel

def anEntryOf (n : Nat) : LogEntry := { seq := n, mc := 0, boot := 1, src := 1, code := 0x48, die := 0, sev := 1, args := List.replicate 32 0 }
def logged : State := { openMgmt with handle := { openMgmt.handle with log := [anEntryOf 3, anEntryOf 5], nextSeq := 6 } }

theorem test_hyp_Provisioning : mgmtUp openMgmt = true ∧ mgmtOpen openMgmt = true ∧ 1023 < (1024 : BitVec 16).toNat ∧ (1023 : BitVec 16).toNat ≤ 1023 ∧
    mhas openMgmt.handle.keys 5 = true ∧ mhas openMgmt.handle.keys 1023 = false ∧ (0xFFFF : BitVec 16).toNat = 0xFFFF ∧
    (List.replicate 7 (0 : Byte)).length < 8 ∧ (List.replicate 64 (0 : Byte)).length ≤ 64 ∧ 64 < (List.replicate 65 (0 : Byte)).length ∧
    logged.handle.log.find? (fun e => e.seq == (5 : DWord).toNat) = some (anEntryOf 5) ∧ logged.handle.log = anEntryOf 3 :: [anEntryOf 5] ∧
    (4 : DWord).toNat < logged.handle.nextSeq ∧ (∀ e ∈ logged.handle.log, e.seq ≠ (4 : DWord).toNat) := by decide

theorem test_provisioning : mget {} (after (.keySet 1023 3 2 1) openMgmt).handle.keys 1023 = { role := 3, domain := 2, key := 1 :: List.replicate 31 0 } ∧
    (after (.keySet 1023 4 2 1) openMgmt).out = [.mgmt sBadRole []] ∧ (after (.pwSet (List.replicate 7 1)) openMgmt).out = [.mgmt sBadField []] ∧
    ((after (.keySet 1023 3 2 1) openMgmt).handle.log.map (·.src)) = [3] ∧
    (after (.logRead 4) logged).out = [.mgmt 0 (logBytes (anEntryOf 3))] ∧
    (getFn (after (.keyClear 5) { openMgmt with fns := [(0, { sess 1 with keyId := 5 })] }) 0).mbState = .closing := by decide +kernel

def hmOp (op arg refused : Nat) : HmOp := { op := op, seq := 9, arg := arg, refused := refused }
def hmState (c : Option HmOp) : State := { withRole 2 with handle := { logged.handle with hmBusy := c } }

theorem test_hyp_HandleMailbox : Answers pf (hmState none) ∧ fnIsPf (fnKeyOf pf) = true ∧ fnIsPf (fnKeyOf vf) = false ∧ Answers vf (hmState none) ∧
    (hmState none).handle.hmBusy = none ∧ (hmState (some (hmOp 1 5 0))).handle.hmBusy = some (hmOp 1 5 0) ∧ handleUp (hmState none) = true ∧ (hmOp 1 5 3).refused ≠ 0 ∧
    (hmState none).handle.log.find? (fun e => e.seq == (hmOp 1 5 0).arg) = some (anEntryOf 5) ∧ (hmOp 2 293 0).arg % 2 ^ 32 ≤ 293 ∧
    293 < (hmOp 2 294 0).arg % 2 ^ 32 := by unfold Answers; decide

theorem test_handle_mailbox : (after .hmCommandEnd (hmState (some (hmOp 2 294 0)))).handle.hmResult = sBadField ∧
    (after .hmCommandEnd (hmState (some (hmOp 3 0 0)))).handle.hmData = [5, 0] ∧ (after .hmCommandEnd (hmState (some (hmOp 4 0 0)))).handle.hmResult = sBadOpcode ∧
    ((after (.sensorRead pf 9) { hmState none with fns := [(0, sess 1)] }).handle.hmBusy.map (·.refused)) = some sRoleDenied := by decide +kernel

/-! ### Registers -/

/-- VF 12 of port B in a session of domain 4; slots 1 of domain 4 and 2 of domain 0. -/
def selState : State :=
  { withRole 3 with
    fns := [(0, sess 3), (77, { cfg := cfgOn, session := 5, role := 1, domain := 4 })],
    slots := [(1, { slot1 with dom := 4, conv := { sat := 2 } }), (2, slot1)] }

theorem test_hyp_SelectsAndSnapshots : Answers pf selState ∧ Answers vf selState ∧ fnKeyOf vf = 77 ∧ (getSlot selState 1).present = true ∧
    (getFn selState 77).session ≠ 0 ∧ (getFn selState 77).domain = (getSlot selState 1).dom ∧ (getFn selState 77).domain ≠ (getSlot selState 2).dom ∧
    (getSlot selState 4095).present = false ∧ arbValid (arbKey 3 47) = true ∧ arbValid 0xFFFF = false ∧ (575 : Nat) < 576 ∧ bit (1 : Word).toNat 0 = true := by
  unfold Answers; decide

theorem test_selects : snapOf (after (.convSel vf 1) selState) 77 oConvSel = [2, 0, 0, 0] ∧ snapOf (after (.convSel vf 2) selState) 77 oConvSel = [] ∧
    after (.quotaSel vf 0) selState = selState ∧ snapOf (after (.arbSel pf 0xFFFF) selState) 0 oArbSel = [] ∧
    (getSlot (after (.convClr vf 1) (after (.convSel vf 1) selState)) 1).conv = {} ∧
    (getSlot (after (.convClr vf 1) (after (.convSel vf 2) selState)) 2).conv = {} := by decide +kernel

def heldState2 : State := { selState with fns := [(0, { sess 3 with ringSel := 3, hold := [(0x2020, 0x1001), (0x2040, 0x2001)] })], rings := [(4, liveRing)] }

theorem test_hyp_PairCommits : Answers pf heldState2 ∧ ownsRing heldState2 0 3 = true ∧ ownsRing heldState2 77 3 = false ∧
    (getRing heldState2 3).enable = false ∧ (getRing heldState2 3).active = false ∧ (getRing heldState2 4).enable = true ∧
    mget 0 (getFn heldState2 0).hold (pairLo .ringSq) ≠ 0 ∧ mget 0 (getFn heldState2 0).hold (pairLo .ringCq) = 0 ∧ (getChk heldState2 0 31).busy = false ∧
    (getChk { heldState2 with fns := [(0, { sess 3 with chk := [(31, { busy := true })] })] } 0 31).busy = true := by unfold Answers; decide

theorem test_pair_commits : (getRing (after (.pairCommit pf .ringSq 5) heldState2) 3).sq = 0x500001000 ∧
    (getFn (after (.pairCommit pf .dbBase 1) heldState2) 0).dbBase = 0x100002000 ∧
    (getFn (after (.pairCommit pf .ringSq 5) { heldState2 with rings := [(3, liveRing)] }) 0).ringFlags = [(1, { count := 1, last := 0 })] ∧
    (getChk (after (.chkRun pf 31 5) heldState2) 0 31).run = 0 ∧ (getChk (after (.chkRun pf 31 5) heldState2) 0 31).fresh = false ∧
    mget 0 (getFn (after (.ringSel pf 4) heldState2) 0).hold 0x2020 = 0 := by decide +kernel

def boundState : State := { selState with fns := [(0, { sess 3 with chk := [(1, { en := true, buf := 7 })], sels := [(oArbSel, arbKey 3 0)] })] }

theorem test_hyp_ControlRegisters : Answers pf boundState ∧ (getChk boundState 0 0).busy = false ∧
    (bit (0x80000007 : Word).toNat 31 = true ∧ ∃ j, j < 32 ∧ j ≠ 0 ∧ (getChk boundState 0 j).en = true ∧ (getChk boundState 0 j).buf = (0x80000007 : Word).toNat % 2 ^ 16) ∧
    bit (0x00000007 : Word).toNat 31 = false ∧ TestOrService boundState 0 ∧ ¬ TestOrService (withRole 2) 0 ∧ arbValid (selOf boundState 0 oArbSel) = true ∧
    arbValid 0xFFFF = false ∧ bit (0x80000000 : Word).toNat 31 = true := by
  refine ⟨by unfold Answers; decide, by decide, ⟨by decide, 1, by decide⟩, by decide, by unfold TestOrService; decide, by unfold TestOrService; decide, by decide, by decide, by decide⟩

theorem test_control : (getFn (after (.chkCtl pf 0 0x80000007) boundState) 0).chkFlags = [(1, { count := 1, last := 0 })] ∧
    getChk (after (.chkCtl pf 0 0xC2000008) boundState) 0 0 = { en := true, alg64 := true, buf := 8 } ∧
    (getArb (after (.arbCtl pf 1) boundState) (arbKey 3 0)).swFreeze = true ∧ (after (.cycSnap pf 1) { boundState with fc := 33 }).clock.snap = 34 ∧
    (after (.wdogStatus pf 0x80000000) { boundState with wdog := { held := true, missed := 2 } }).wdog = {} := by decide +kernel

theorem test_hyp_FlagsAndCounts : Answers pf selState ∧ Answers vf selState ∧ bit (1 : Word).toNat 0 = true ∧ flagCount [(0, { count := 255, last := 7 })] 0 ≤ 255 ∧
    flagNow 7 [(0, { count := 255, last := 7 })] 0 = true ∧ (∀ fc ∈ [0, 1, 2], flagNow fc [(0, { count := 255, last := 7 })] 0 = false) ∧ [0, 1, 2].Nodup ∧
    MayPerturb selState 0 ∧ ¬ MayPerturb selState 77 ∧ ((5 : PortNo).toNat < 6) := by
  refine ⟨by unfold Answers; decide, by unfold Answers; decide, by decide, by decide, by decide, by decide, by decide, by unfold MayPerturb; decide, by unfold MayPerturb; decide,
    by decide⟩

theorem test_flags : raise 8 [(0, { count := 255, last := 7 })] 0 = [(0, { count := 255, last := 8 })] ∧
    flagClear 8 [(0, { count := 3, last := 7 }), (1, { count := 2, last := 7 })] 1 = [(1, { count := 2, last := 7 })] ∧
    (after (.flagClear vf .pipe 1) { selState with pipeFlags := [(0, { count := 3, last := 7 })] }).pipeFlags = [(0, { count := 3, last := 7 })] ∧
    (after (.flagClear pf .pipe 1) { selState with pipeFlags := [(0, { count := 3, last := 7 })] }).pipeFlags = [] := by decide +kernel

theorem test_hyp_RegisterWrites : Answers pf selState ∧ operatorSession selState 0 = true ∧ operatorSession (withRole 1) 0 = false ∧ (0x1041 : BitVec 24).toNat % 4 ≠ 0 ∧
    (0xFFC : BitVec 24).toNat < 0x1000 ∧ 0xC0000 ≤ (0xC0000 : BitVec 24).toNat := by unfold Answers; decide

theorem test_register_write : (after (.registerWrite pf .bar0 0x1040 0x12345678) selState).clock.paceCap = 0x5678 ∧
    (after (.registerWrite pf .bar0 0x80060 0xFFFFFFFF) selState).train.updCtl = 0xFFFFFF0F ∧
    bar2Value (after (.registerWrite pf .bar2 0x8 0xFFFFFFFF) selState) 0 0x8 = 0xF00003FF := by decide +kernel

theorem test_hyp_AccessReaches : fnAddrOk { port := 0, fn := 65 } = false ∧ fnAddrOk pf = true ∧ fnReach State.reset (fnKeyOf pf) = false ∧
    fnReach { selState with fns := [(0, { sess 3 with d3hot := true })] } 0 = false := by decide

theorem test_hyp_VfConfined : Answers vf selState ∧ fnIsPf (fnKeyOf vf) = false ∧ ownsRing selState 77 (8192 + 5) = false := by unfold Answers; decide

/-! ### Perturbation, self-test and the TAP -/

def pertState (p : PertSt) : State := { selState with pert := p }
def owned : PertSt := { en := true, owner := 7, ownerFn := 0 }

theorem test_hyp_PerturbationPoints : Answers pf (pertState {}) ∧ MayPerturb (pertState {}) 0 ∧ MayPerturb (pertState owned) 0 ∧
    ¬ MayPerturb (pertState { owned with owner := 8 }) 0 ∧ bit (0x80000000 : Word).toNat 31 = true ∧ (pertState owned).pert.en = true ∧
    (mget {} (pertState { owned with points := [(0, { arm := true, kind := 2, mode := 1 })] }).pert.points (selOf (pertState owned) 0 oPtSel)).arm = true ∧
    bits (0x21000000 : Word).toNat 30 28 = 2 ∧ bits (0x21000000 : Word).toNat 27 24 = 1 ∧ 0 < 1 ∧ (2 ^ 32 - 1 : Nat) < 2 ^ 32 := by
  refine ⟨by unfold Answers; decide, by unfold MayPerturb; decide, by unfold MayPerturb; decide, by unfold MayPerturb; decide, ?_⟩
  decide

theorem test_perturbation : (after (.pertCtl pf 0x80000000) (pertState {})).pert = owned ∧ (after (.pertCtl vf 0x80000000) (pertState {})) = pertState {} ∧
    (after (.ptCtl pf 0x32000000) (pertState { owned with points := [(0, { arm := true, kind := 2, mode := 1 })] })).pert.flags = [(0, { count := 1, last := 0 })] ∧
    (mget {} (after (.ptCtl pf 0x21000000) (pertState { owned with points := [(0, { arm := true, kind := 2, mode := 1 })] })).pert.points 0).arm = false := by decide +kernel

theorem test_hyp_LoopbackAndSelfTest : MayPerturb (pertState owned) 0 ∧ 6 ≤ (0x80000006 : Word).toNat % 8 ∧ (0x80000005 : Word).toNat % 8 = 5 ∧
    (getLink (pertState owned) 5).en = false ∧ (getLink (pertState owned) 5).state = .down ∧ (pertState owned).pert.lpEn = false ∧ (pertState owned).pert.bistRun = false ∧
    bistFree selState 0 15 = true ∧ bistFree selState 0 16 = false ∧ bistFree selState 1 7 = true ∧ bistFree selState 2 287 = true ∧ bistFree coreState 2 0 = false ∧
    bistFree { selState with tiers := { hbmGran := [(0, .mapped)] } } 0 0 = false := by
  refine ⟨by unfold MayPerturb; decide, ?_⟩
  decide +kernel

/-- A march runs over HBM3E stack 1, or over cluster 0. -/
def marching (kind target : Nat) : State :=
  { pertState { owned with bistRun := true, bistOp := 2, bistKind := kind, bistTarget := target } with tiers := { hbm := [(5, 9), (granBytes + 1, 7)] }, cores := [(0, { core0 with store := [(0, 1)] })] }

theorem test_hyp_BistEnd : (marching 0 1).pert.bistRun = true ∧ (marching 0 1).pert.bistOp = 2 ∧ (marching 0 1).pert.bistKind = 0 ∧ (marching 1 7).pert.bistKind = 1 ∧
    (marching 2 0).pert.bistKind = 2 ∧ ({ owned with bistRun := true, bistOp := 1 } : PertSt).bistOp = 1 ∧ (granBytes + 1) / granBytes % 16 = 1 ∧
    (granBytes + 1) / granBytes < hbmGranules := by decide +kernel

theorem test_march : (after (.bistEnd [17] true) (marching 0 1)).tiers.hbm = [(5, 9)] ∧ (after (.bistEnd [17] true) (marching 0 1)).tiers.hbmGran = [(17, .retired)] ∧
    (getCore (after (.bistEnd [] false) (marching 2 0)) 0).store = [] ∧ (after (.bistEnd [] true) (marching 2 0)).fault.latched = [0] := by decide +kernel

def tapState (i : TapInstr) (n : Bool) : State := { ready with handle := { ready.handle with testN := n }, tap := { instr := i, boundary := [true, false] } }

theorem test_hyp_TestAccessPort : (tapState .bypass true).power.on = true ∧ ({ ready with power := { on := false } } : State).power.on = false ∧
    (tapState .extest true).handle.testN = true ∧ (tapState .extest false).handle.testN = false := by decide

theorem test_tap : (after (.tap (.scan [true, true] [])) (tapState .bypass true)).out = [.tdo [false, true]] ∧
    (after (.tap (.scan [true, true] [false, true])) (tapState .extest false)).tap.driven = [true, true] ∧
    (after (.tap (.load .extest)) (tapState .bypass false)).tap.driven = [true, false] ∧ (after (.tap .reset) (tapState .extest false)).tap.instr = .idcode := by decide +kernel

/-! ### Clauses of single cases -/

/-- Core 0, whose A half has issued in this bundle. -/
def aDoneCore : CoreSt := { core0 with aDone := true }

theorem test_hyp_AIssues : AIssues coreState 0 issue0 ∧ Issues { coreState with cores := [(0, aDoneCore)] } 0 { issue0 with core := aDoneCore } ∧
    aDoneCore.aDone = true ∧ laneFormOk .vf laneOp = true ∧
    after (.fadd laneOp) { coreState with cores := [(0, aDoneCore)] } = { coreState with cores := [(0, aDoneCore)] } := by
  refine ⟨⟨⟨?_, ?_⟩, ?_⟩, ⟨?_, ?_⟩, ?_⟩ <;> decide +kernel

theorem test_hyp_ResultLatency_two :
    let g : InFlight := { flight with due := 3, vals := [(127, 6, false)] }
    let co := { core0 with inflight := [flight, g] }
    flight.ctx = g.ctx ∧ flight.reg = g.reg ∧ g.pred = false ∧ flight.due ≤ co.ac + 4 ∧ g.due ≤ co.ac + 4 ∧
    (getCtx (tickCore co 4) 0).lane 1 127 = 5 ∧ (getCtx (tickCore { core0 with inflight := [g, flight] } 4) 0).lane 1 127 = 5 := by decide

theorem test_hyp_SfuForms : laneOp.iov = 0 ∧ ({ laneOp with iov := 1 } : LaneOp).iov ≠ 0 ∧
    rejects (.sigmoid { laneOp with core := 512, iov := 1 }) coreState = true := by decide

theorem test_hyp_EngineRefused : chainBadHead (issueQ [tok 0 0]) 3 false = true ∧ chainBadHead (issueQ [runa, runa]) 3 true = true ∧
    engFormOk issue0 { engOp with group := 3 } = false := by decide

/-- The oldest request of core 0x200 names row 0 of `table1` in every lane; its tile goes to descriptor 0. -/
def delivering (co : CoreSt) (d : DomSt) (fenced : List Nat) : State :=
  { coreState with cores := [(512, co)], doms := [(0, d)], tiers := { fenced := fenced } }
def tableDom : DomSt := { created := true, hbmMap := [(0, 1)] }
def tableReq : GatherReq := { request with table := table1 }
def tableCore : CoreSt := { core0 with gathers := [tableReq] }

theorem test_hyp_GatherDelivery :
    let at0 := delivering tableCore tableDom []
    let ks := tableReq.idx.map (signedVal 32)
    coreValid 512 = true ∧ core0.gathers = [] ∧ tableCore.gathers = tableReq :: [] ∧
    ks.mapM (gatherRow (delivering tableCore {} []) 0 table1 0) = none ∧
    (ks.mapM (gatherRow at0 0 table1 0)).isSome = true ∧ ks.any (rowLost at0 0 table1 0) = false ∧
    ks.any (rowLost (delivering tableCore tableDom [0]) 0 table1 0) = true ∧
    (dSpace (ctx0.desc 0) == 0 && inTensor (ctx0.desc 0) tableCore.par (tileCoord (ctx0.desc 0) tableReq.pos 0) 31 31) = true := by decide +kernel

theorem test_gather_delivery : (getCore (after (.gatherDelivery 512) (delivering tableCore tableDom [])) 512).gathers = [] ∧
    (match exec (.gatherDelivery 512) (delivering tableCore {} []) with | .fault .noGranule => true | _ => false) = true ∧
    after (.gatherDelivery 512) (delivering core0 {} []) = delivering core0 {} [] := by decide +kernel

theorem test_hyp_ScatterForms : dFormat (ctx0.desc 3) ≠ .fp32 ∧ (indices tableCtx 1).any (rowLost tableState 0 table1 0) = false ∧
    (indices tableCtx 1).any (rowLost { tableState with tiers := { fenced := [0] } } 0 table1 0) = true ∧
    scatterElem 0 table1 0 0 0 (some ({ tableState with doms := [] }, 0)) = none ∧ (scatterElem 0 table1 0 0 0 (some (tableState, 0))).isSome = true ∧
    coreValid 0 = true ∧ coreEven 0 = false := by decide +kernel

theorem test_hyp_Receive_kind : (getQueue (queueCore [runa] [] false) 3).head = some runa ∧ tokCtx runa.hdr = 0 ∧ tokGen runa.hdr = ctx0.gen ∧ tokKind runa.hdr ≠ 0 := by
  decide

/-- Route 0 of core 0 is a relay route of slot 1's pattern. -/
def relayRoute : State :=
  { coreState with slots := [(1, { present := true, part := 1, pattern := some { emptyPattern with relay := [0] } })] }

/-- PERTURB injects an uncorrectable error into the next read of core 0's store. -/
def injecting (mode target : Nat) : PertSt := { en := true, points := [(0, { arm := true, kind := 5, mode := mode, target := target, value := 1 })] }

theorem test_hyp_Send_relay : ¬ NoRelay relayRoute ctx0 0 0 ∧ (takeInject { coreState with pert := injecting 1 0 } 1 0).isSome = true ∧
    (partOfCluster (runState .step) (coreCluster 0)).bind (fun p => (getPart (runState .step) p).run) = some 1 ∧ abortable (getSlot (runState .step) 1) = true ∧
    takeInject relayRoute 1 0 = none := by
  refine ⟨by unfold NoRelay; decide, ?_⟩
  decide

theorem test_hyp_TokenArrival_kind : ctx0.resident = true ∧ ctx0.gen = tokGen (tok 0 3).hdr ∧ tokKind (tok 0 3).hdr = 3 ∧ tokSeq (tok 1 0).hdr ≠ mget 0 ctx0.recvSeq 3 := by decide

/-- Context 1 of partition 1 loads with the fold table; an image or the table fails its check; or an image holds CVT between equal formats. -/
def foldEntries : List Nat := 2 ^ 31 :: List.replicate 15 0
def foldPattern : Pattern := { emptyPattern with folds := [(0, foldEntries, foldCheck foldEntries 0)] }
def cvtImage : CtxImage := { idleImage 0 with bundles := [0xC000000000000000] }

theorem test_hyp_ContextLoadEnds_checks : (∀ f ∈ foldPattern.folds, foldCheck f.2.1 f.1 = f.2.2) ∧ ({ aLoad with fold := true } : LoadSt).fold = true ∧
    lateRefusal emptyPattern false 1 [(0, loadImage)] = none ∧ (lateRefusal emptyPattern false 1 [(0, cvtImage)]).isSome = true ∧
    lateRefusal foldPattern true 1 [(0, loadImage)] = none := by decide +kernel

theorem test_hyp_WaitingLoads_ends : ({ aLoad with waiting := true, fold := true } : LoadSt).waiting = true ∧
    (loadState true 0).fc < aLoad.since + wdogLimit (loadState true 0) ∧
    aLoad.since + wdogLimit { loadState true 0 with fc := 0x100000 } ≤ ({ loadState true 0 with fc := 0x100000 } : State).fc := by decide

theorem test_hyp_DrainEnds_discard : (getPart (drainState .discard core0) 1).drain = .discard ∧ gathersOut (drainState .discard core0) 1 = false ∧
    gathersOut (drainState .discard (gathering 1)) 1 = true ∧ (getPart (drainState .discard core0) 1).swWait = [] := by decide

/-- The partition's current context is not the slot's, or the slot re-shards. -/
def unplaced : State := { startState .between 0 [] with parts := [(1, { clusters := [0], cur := some 1, run := some 1 })] }

theorem test_hyp_StepStart_waits : runPlaced unplaced 1 = false ∧ runResident unplaced 1 = true ∧ (getSlot unplaced 1).run = some (aRun .between) ∧
    reshardHolds { stepSlot with reshard := some moveWait } = true ∧ (∀ r, (getSlot (runState .step) 1).run = some r → r.stage ≠ .between ∧ r.stage ≠ .paced) := by
  refine ⟨by decide, by decide, by decide, by decide, ?_⟩
  intro r h
  have e : aRun .step = r := Option.some.inj h
  subst e
  decide

/-- Granule 5 of Slath 0's cache stages for slot 1, and its working copy is stale or not. -/
def stagingState : State := { runState .between with slaths := [(0, { use := [(5, .staging 1)], bytes := [(5 * granBytes, 7), (6 * granBytes, 8)] })] }

theorem test_hyp_AttemptBegins_staging : (5, CacheUse.staging 1) ∈ (getSlath stagingState 0).use ∧ (getSlot stagingState 1).wcStale = false ∧
    ({ stepSlot with wcStale := true } : SlotSt).wcStale = true ∧ (getSlath (beginAttempt stagingState 1) 0).bytes = [(6 * granBytes, 8)] := by decide +kernel

theorem test_hyp_QuantiseTile_else : quantising { stepSlot with run := some (aRun .replay) } = true ∧ stepSlot.round.kind ≠ .restart ∧
    quantising { stepSlot with run := some (aRun .replay), round := { kind := .restart } } = false ∧ mhas stepSlot.coll.reduced 0 = false ∧
    getRecord (setRecord (gradState []) 1 0 (rcode 1)) 1 0 = rcode (0 + 1) ∧
    isNaN32 (fpAdd 0x3F800000 (convert .l16 .fp32 0).code).code = false := by decide +kernel

theorem test_hyp_UpdateSweep_held : bankHeld { notSweeping with copies := [(3, 0, 1)] } = true ∧ bankHeld { notSweeping with copies := [(3, 0, 0)] } = false ∧
    allQuantised (stepState (hostSlot false false false) {}) 1 = true ∧ (7 : Nat) < 8 := by decide +kernel

theorem test_hyp_Interlude_apart : (∃ m ∈ List.range 8, (getBorder { stepState stepSlot waiting with borders := [(0, waiting), (1, { waiting with entry := 1 })] } m).entry ≠ 0) ∧
    (entryProg rowSlot 0).twoPhase = false ∧ (entryProg stepSlot 0).twoPhase = true := by decide

theorem test_hyp_HostPlaced_function : runOrphan { ready with rings := [(0, { open_ := [{ oneDesc with status := none, orphan := true }] })] } (aRun .step) = true ∧
    runOrphan ready (aRun .step) = false ∧ (getFn ready (aRun .step).fn).cfg.master = true ∧ (getFn { ready with fns := [] } (aRun .step).fn).cfg.master = false := by decide

/-- The packet's window ends 10 fc after the step began. -/
def windowed (k : Byte) : Packet := { bare k with window := some 10 }

theorem test_hyp_LateArrival : (bare 3).window = none ∧ (windowed 3).window = some 10 ∧ packetSlot ready (windowed 3) = none ∧
    packetSlot (lateState 11) (windowed 3) = some 1 ∧ (getSlot (lateState 11) 1).run = some (aRun .step) ∧ inStep (getSlot (lateState 11) 1) = true ∧
    (lateState 10).fc ≤ (aRun .step).start + 10 ∧ (aRun .step).start + 10 < (lateState 11).fc ∧ inStep (getSlot (runState .replay) 1) = false ∧
    packetSlot (withSlot slot1) (windowed 3) = some 1 ∧ (getSlot (withSlot slot1) 1).run = none := by decide

/-- A member repairs: entry 0's CRC differs, or its list is empty; and a member of a switch round. -/
def repairing (kind : RoundKind) (entries : List Nat) : State :=
  stepState { readyMember kind false with round := { kind := kind, ready := true, entries := entries, supplier := 1, repairs := [0] }, reshard := some moveWait } {}

theorem test_hyp_Repair :
    let s := repairing .commit [0]
    (getSlot s 1).round.kind = .commit ∧ (getSlot s 1).round.ready = true ∧ (getSlot s 1).round.issued = false ∧ (getSlot s 1).table.length = 1 ∧
    (0 : BitVec 12).toNat ∈ (getSlot s 1).round.entries ∧ (1 : BitVec 12).toNat ∉ (getSlot s 1).round.entries ∧ dataRank s 1 = 0 ∧
    ([0].filter (· != (0 : BitVec 12).toNat)) = [] ∧ ([0, 1].filter (· != (0 : BitVec 12).toNat)) ≠ [] := by decide

/-- The job has a data cut on axis X, and the package stands at coordinate 1. -/
theorem test_hyp_Repair_rank : dataRank { stepState { stepSlot with pattern := some { emptyPattern with job := 2 ^ 16 } } {} with torus := { len := 1, coord := 1 } } 1 ≠ 0 := by decide

theorem test_hyp_PeerLost : (getSlot (repairing .switch []) 1).round.kind = .switch ∧ (getSlot (repairing .switch []) 1).round.issued = false ∧
    (readyMember .switch true).round.issued = true ∧ (getSlot (repairing .switch []) 1).reshard = some moveWait ∧
    ({ stepSlot with reshard := some moveWait } : SlotSt).round.kind = .none ∧ (readyMember .commit true).round.issued = true := by decide

theorem test_hyp_LinkControl_en : isFenced { linkState {} with fault := { fenced := [linkDie 0] } } (linkDie 0) = true ∧
    coordOk { linkState {} with torus := { len := 1, coord := 2 } } 2 = false ∧ ({ lpEn := true, lpPort := 0 } : PertSt).lpPort = 0 ∧
    (getLink (linkState (inState .retrain)) 0).state = .retrain := by decide

theorem test_hyp_LaneTest_repeated :
    let x := { inState .retrain with idle := [1, 2] }
    3 ≤ ((x.idle ++ [(linkState x).fc]).filter (fun t => decide ((linkState x).fc < t + 1200000000))).length ∧
    ((inState .retrain).idle ++ [(linkState x).fc]).length < 3 ∧ (inState .retrain).txRetired ||| 0 = (inState .retrain).txRetired := by decide

/-- A BREAK of the link that port 0 is an end of. -/
theorem test_hyp_Break_own : (fromNeighbour true).port.toNat % 4 ≠ portAxis 0 ∨ (fromNeighbour true).brk.toNat % 2 ^ 15 = breakCoord (linkState upLink) 0 := by decide

/-- An IDLE block, whose payload the receiver ignores. -/
def idleBlock : Block :=
  let b : Block := { hdr := mkBlockHdr tyIdle 0 0 0 false 0 0 0, payload := [], ack := 0, crc := 0 }
  { b with crc := BitVec.ofNat 32 (blockCrc 0 0 0 b) }

theorem test_hyp_BlockAccepted_idle : bType idleBlock.hdr = tyIdle ∧ sequenced idleBlock.hdr = false ∧
    blockCrc (getLink (linkState upLink) 0).rxNext (linkState upLink).torus.coord 0 idleBlock = idleBlock.crc.toNat ∧
    (getLink (after (arriving idleBlock 0 false) (linkState failedOnce)) 0).waiting = true := by decide +kernel

theorem test_hyp_FunctionReset_collect : (∀ r ∈ fnRingList ready 77, collecting ready r = none) ∧ (64 : Nat) ≤ 64 ∧ (1 : Nat) ≤ 1 := by decide +kernel

/-- Both ports are up, or port B is down; PERST# of port A is asserted before and after boot stage 2 has ended. -/
theorem test_hyp_PortResets : (getPort ready (1 - 0)).up = true ∧ (getPort { ready with ports := [(0, { up := true, perst := false })] } (1 - 0)).up = false ∧
    (ready.power.coldReset = false ∧ ready.power.on = true ∧ 2 < ready.handle.stage ∧ isFenced ready (0x38 + 0) = false) ∧
    ¬ 2 < ({ ready with handle := { stage := 2 } } : State).handle.stage ∧ (1 : Nat) ≠ (0 : BitVec 1).toNat := by decide +kernel

theorem test_hyp_PowerStateD3_closing : (getFn (mbState { mbState := .closing, session := 7 }) 0).mbState = .closing ∧
    (getFn (mbState { mbState := .challenged }) 0).mbState = .challenged ∧ fnAddrOk pf = true ∧
    (let s := { mbState { mbState := .closing, session := 7 } with pert := { en := true, owner := 7, ownerFn := 0 } }
     s.pert.en = true ∧ s.pert.ownerFn = fnKeyOf pf ∧ (getFn s 0).session ≠ 0) := by decide

/-- Nothing answers before boot stage 3 has ended; later a PF and an enabled VF do, while a VF that is not enabled does not. -/
theorem test_hyp_ConfigurationWrites : fnAddrOk { port := 0, fn := 65 } = false ∧ fnLive ready 77 = true ∧ 3 < ready.handle.stage ∧
    fnLive { ready with ports := [(1, { up := true, perst := false })] } 77 = false ∧ ({ ready with handle := { stage := 3 } } : State).handle.stage ≤ 3 ∧
    fnIsPf 77 = false ∧ fnIsPf 0 = true ∧ fnLive ready 0 = true ∧ (getPort ready 1).vfEnable = true ∧ (getPort ready 0).vfEnable = false ∧
    bit (0x8000 : Word).toNat 15 = true ∧ bit (0xC000 : Word).toNat 14 = true ∧ bit (1 : Word).toNat 0 = true ∧ (4 : Nat) ≤ (4 : BitVec 3).toNat := by decide

theorem test_configuration : (getFn (after (.registerWrite pf (.config .deviceControl) 0 0x50E0) ready) 0).cfg = { cfgOn with mps := 2, mrrs := 5, relaxed := false } ∧
    (getPort (after (.registerWrite { port := 1, fn := 0 } (.config .sriovControl) 0 0) ready) 1).vfEnable = false ∧
    (getPort (after (.registerWrite pf (.config .numVfs) 0 65) ready) 0).numVfs = 64 := by decide +kernel

theorem test_hyp_MailboxEnds_quiet : handleUp { ready with handle := {} } = false ∧ (getFn (mbState { mbState := .closing }) 0).cmd = none ∧
    fnQuiet (mbState { mbState := .closing }) 0 = true ∧ (getFn (mbState {}) 0).mbState ≠ .closing ∧ (getFn (mbState {}) 0).cmd = none := by decide

/-- A RUN of slot 1 collects entries on ring 3, whose fetching ends. -/
def collectState : State :=
  { ringState { mbState := .opened } { liveRing with collect := some (0, 2), open_ := [{ oneDesc with raw := 4 + 2 ^ 16, status := none }], nextId := 1 } with
    slots := [(1, { slot1 with run := some { aRun .collecting with ring := 3 } })] }

theorem test_hyp_RingControl_all : (getRing (ringState {} liveRing) 3).enable = true ∧ (getRing (ringState {} { active := true }) 3).active = true ∧
    (getRing (ringState {} liveRing) 3).size ≠ bits (1 * 2 ^ 26) 29 26 ∧ (getRing (ringState {} {}) 3).active = false ∧
    collecting (ringState {} {}) 3 = none ∧ collecting (ringState {} liveRing) 3 = none ∧ collecting collectState 3 = some 1 ∧
    (getSlot collectState 1).run = some { aRun .collecting with ring := 3 } ∧ (getRing collectState 3).target = none ∧ (getRing collectState 3).ready = [] ∧
    (getRing (ringState {} { liveRing with target := some 5 }) 3).target ≠ none := by decide

theorem test_ring_all : (getSlot (after (.ringDisable pf 0) collectState) 1).run = none ∧
    (getFn (after (.ringEnable pf (1 * 2 ^ 26)) (ringState {} liveRing)) 0).ringFlags = [(1, { count := 1, last := 0 })] ∧
    (getRing (after (.ringDisable pf 0) (ringState {} { liveRing with target := some 5 })) 3).target = some 5 := by decide +kernel

theorem test_hyp_Fetch_none : (fnOfRing { ready with fns := [] } 3).any (fun k => (getFn { ready with fns := [] } k).cfg.master) = false ∧
    (aPoll 63).base.toNat ≠ (getFn heldState2 0).dbBase + 1 ∧ (getFn { ready with fns := [] } 0).cfg.master = false := by decide

theorem test_hyp_Completions_master :
    let off := { ringState {} (doneRing oneDesc) with fns := [(0, { ringCount := 0x2000 })] }
    (fnOfRing off 3).all (fun k => (getFn off k).cfg.master) = false ∧
    (fnOfRing (ringState {} (doneRing oneDesc)) 3).all (fun k => (getFn (ringState {} (doneRing oneDesc)) k).cfg.master) = true := by decide

/-- Ring 2 has a descriptor ready too, and goes first. -/
def behind : State := { ready with fns := [(0, sess 2)], rings := [(2, { liveRing with ready := [(0, 0)] }), (3, { liveRing with ready := [(0, 0)] })] }

theorem test_hyp_DecidesNothing : ringFirst behind 3 = false ∧ ringFirst behind 2 = true ∧ (fnOfRing behind 3).isSome = true ∧ fnOfRing { ready with fns := [(0, { ringCount := 0 })] } 3 = none ∧
    fenceOpen { liveRing with open_ := [{ oneDesc with raw := 0x0B, status := none }] } = true ∧
    (getRing (headState collectState (sess 2) 0x11) 3).ready ≠ [] ∧ ({ liveRing with collect := some (0, 2) } : RingSt).collect = some (0, 2) ∧ liveRing.enable = true := by decide

theorem test_hyp_LoadPattern_none : Passed bareOp (headState (withSlot { slot1 with pattern := none }) (sess 2) (loadRaw 2 0)) 0 0 (loadRaw 2 0) [] 0x01 loadPlan ∧
    (getSlot (withSlot { slot1 with pattern := none }) 1).pattern = none := by
  refine ⟨passed_of _ _ _ _ _ _ rfl ?_ ?_, ?_⟩ <;> decide +kernel

/-- Ring 3 brings no more descriptors when its RUN with PSRC = 1 is decided. -/
def lastRun : State :=
  { slotBase with fns := [(0, sess 4)], rings := [(3, { liveRing with enable := false, ready := [(0, runRaw 1 0)] })] }

theorem test_hyp_Run_ends : Passed headOp lastRun 0 0 (runRaw 1 0) [] 0x04 runPlan ∧ dFlag (runRaw 1 0) 3 = true ∧ runRefusal lastRun 1 = none ∧
    (getRing lastRun 3).enable = false ∧ (getRing lastRun 3).target = none ∧ collecting lastRun 3 = none ∧
    (copyReads slotBase 0 (2 ^ 60) 32 [2 ^ 60]).1 = some sTierFail ∧ dFlag (runRaw 0 (2 ^ 60)) 3 = false := by
  refine ⟨⟨⟨rfl, rfl, rfl, rfl, rfl, by intro d hd; exact absurd hd (List.not_mem_nil)⟩, ?_, ?_⟩, ?_⟩ <;> decide +kernel

theorem test_run_ends : (getSlot (after (.run headOp) lastRun) 1).run = none := by decide +kernel

/-- A policy with every flag clear or host placement set, and the domain with room for the master. -/
theorem test_hyp_Policy_placement : Passed bareOp (headState slotBase (sess 2) (rawDesc 12 [(16, 1)])) 0 0 (rawDesc 12 [(16, 1)]) [] 0x0C policyPlan ∧
    bit (rawDesc 12 [(16, 1)]) 64 = false ∧ bit (rawDesc 12 [(16, 1), (64, 1)]) 64 = true ∧ slot1.hostPlaced = false ∧ imageSlot.hostPlaced = true ∧
    allocs (allocRegions slotBase 0 (masterRegions 1 slot1)) = true ∧ allocs (allocRegions slotBase 0 (masterRegions 1 imageSlot)) = false := by
  refine ⟨passed_of _ _ _ _ _ _ rfl ?_ ?_, ?_⟩ <;> decide +kernel

theorem test_hyp_CopyIn_again : chkMatch (checkedState (copyRaw 5 0)) 0 (copyRaw 5 0) (List.replicate 8 0) = false ∧
    chkMatch (checkedState (copyRaw 5 0)) 0 (copyRaw 5 0) (List.replicate 4 0 ++ bytesLE 4 (crc32c (List.replicate 4 0))) = true := by decide +kernel

/-- A step writes to its stream: a token of one valid row. -/
def aPut : TierPut := { tile := { hdr := mkHdr 1 0 3 false 0 0 0 31 0 0 0, tile := [7] }, fmt := 2, addr := 2 ^ 60, stride := 128 }
def putState : State := { streamed with fc := 5 }

theorem test_hyp_TierReads_put : tokMrows aPut.tile.hdr < 1 ∧ (0 : Nat) ≤ tokMrows aPut.tile.hdr ∧ (31 : Nat) ≤ tokMcols aPut.tile.hdr ∧
    (∀ q ∈ writeStreams (getSlot putState 1), q.1 ≤ 2 ^ 60) ∧ (getSlot putState 1).run.map (·.stage) = some .step ∧
    channelRim (channelOf 1 0 0) ∉ putState.tiers.fenced := by decide +kernel

theorem test_hyp_TierReads_replay : (getSlot (stepState { stepSlot with run := some (aRun .replay), round := { abort := some (false, 1) } } {}) 1).round.abort.isSome = true ∧
    (aRun .replay).stage = .replay ∧ (getChan (lateState 12) (channelOf 1 0 0)).lateFc = [] ∧ readOp.bad1 = false ∧ readOp.corrected ≠ 0 ∧
    ({ dirtyState with handle := { stage := 5 } } : State).handle.stage = 5 ∧ dirtyState.handle.stage ≠ 5 ∧
    mget .free ({ dirtyState with tiers := { hbmGran := [(2, .retired)] } } : State).tiers.hbmGran 2 = .retired := by decide +kernel

theorem test_hyp_PartResize_quads : takeBuffers fullSlath 1 ((quadsOf [1]).filter (fun q => !([] : List Nat).contains q)) = none ∧
    (quadsOf [128]).filter (fun q => !(quadsOf [0]).contains q) = [1] ∧ (takeBuffers emptyPart 1 [1]).isSome = true := by decide +kernel

theorem test_hyp_Arbiters_slots :
    let o : ArbOp := { arbFc [1, 2] false with slots := [(2, 1)] }
    o.slots = [(2, 1)] ∧ (2 : BitVec 4) ∈ o.reqs ∧ (2 : BitVec 4).toNat < arbInputs 3 ∧
    mget 0 (getArb (after (.arbitration o) (arbState {})) (arbKey 3 0)).owner 2 = 2 := by decide

theorem test_hyp_Detectors_counts : mget 0 (after (.sramUncorrectable ⟨.store 0 5, true⟩) ready).fault.sramCorr (sramCounter (.store 0 5)) = 1 ∧
    ((sramPlace (runState .step) (.store 0 5)).1, (sramPlace (runState .step) (.store 0 5)).2.1, 1, true) ∉ (runState .step).fault.words := by decide +kernel

theorem test_hyp_Boot_tables : (pairState (dieIn .active) (dieIn .starting) (some 0) 3).handle.stage = 3 ∧
    (pairState (dieIn .active) (dieIn .starting) (some 0) 4).handle.stage = 4 ∧
    (after .bootStageEnd { pairState (dieIn .active) (dieIn .starting) (some 0) 4 with handle := { (pairState (dieIn .active) (dieIn .starting) (some 0) 4).handle with
      fences := { spareFor := [(0, 9), (1, 3)], fenced := [8] } } }).fault.spareOn = [(1, true)] := by decide +kernel

theorem test_hyp_Takeover_rebooting : (getDie (pairState (dieIn .lost) (dieIn .rebooting) (some 1) 6) 1).role = .rebooting ∧
    (getDie (pairState (dieIn .lost) (dieIn .lost) (some 1) 6) 1).role ≠ .standby ∧ (getDie (pairState (dieIn .lost) (dieIn .lost) (some 1) 6) 1).role ≠ .active ∧
    (pairState (dieIn .lost) (dieIn .rebooting) (some 1) 6).handle.update = none := by decide

theorem test_hyp_Flags_blocks : (FlagBlock.ring ≠ .pert) ∧ (FlagBlock.pipe ≠ .ring ∧ FlagBlock.pipe ≠ .host ∧ FlagBlock.pipe ≠ .chk) ∧
    bit (0 : Word).toNat 0 = false ∧ flagCount [(0, { count := 7, last := 0 })] 0 ≤ 255 ∧ (0 : Nat) < 3 := by decide

theorem test_hyp_Perturb_steps : pertActive (pertState owned) = true ∧ pertActive (pertState {}) = false ∧ inStep (getSlot (runState .step) 1) = true ∧
    fnReach ready 0 = true ∧ (5 : Nat) % 2 = 1 ∧ (4 : Nat) % 2 = 0 := by decide

theorem test_hyp_VfConfined_collect : ∀ r, ownsRing selState 77 r = true → collecting selState r = none := by
  intro r _
  rfl

/-! ### Formats and the whole machine -/

theorem test_hyp_SpecialValues : HasInf .fp32 ∧ HasInf .e5m2 ∧ IsLog .l8 ∧ IsFloat .e4m3 ∧ 0x7FC00000 < 2 ^ (8 * Fmt.fp32.width) ∧
    (2 ^ Fmt.fp32.ebits - 1) * 2 ^ Fmt.fp32.mbits < 0x7FC00000 % Fmt.fp32.signBit := by
  refine ⟨Or.inl rfl, Or.inr (Or.inr (Or.inr rfl)), Or.inl rfl, Or.inr rfl, ?_⟩
  decide

theorem test_hyp_StepRunsFront : ready.rootLock = true ∧ State.reset.rootLock = false ∧ ready.pending = [] := by decide

theorem test_step : (nextOf (step { ready with pending := [.bootStageEnd, .pllLoss] })).pending = [.pllLoss] ∧ (nextOf (step ready)).fc = 1 ∧
    step State.reset = .next State.reset := ⟨by decide +kernel, by decide, rfl⟩

theorem test_hyp_QueueUnchanged : exec .pllLoss State.reset = .next (after .pllLoss State.reset) := rfl

theorem test_hyp_StepKeepsInv : Safety.Inv State.reset ∧ Safety.Inv ready ∧ step ready = .next (nextOf (step ready)) := by
  refine ⟨⟨by unfold Safety.MemCanonical; decide, ?_⟩, ⟨by unfold Safety.MemCanonical; decide, ?_⟩, by rfl⟩
  · intro d h
    cases h
  · intro d h
    match d, h with
    | 0, _ => rfl
    | 1, h => cases h
    | d + 2, h => exact absurd h (by simp [getDie, ready, mget])

theorem test_reset_registers : bar0Value State.reset 0 0 = 0x70640100 ∧ bar0Value State.reset 0 0x1040 = 0xBB8 ∧ bar0Value State.reset 65 0x10100 = 0x01000000 ∧
    bar2Value State.reset 3 4 = 1 := by decide +kernel

end Sys2Proof.Tests
end

section
/-! PROOFS. What software reads after cold reset (R9): every view starts from the defaults of its tables, and each block of the register
map of chapter 19 reads 0 but where its Reset column says otherwise. -/

namespace Sys2Proof.Machine

/-! ### The state after cold reset -/

/-- A sparse table that lists nothing reads as its default. -/
@[simp] theorem mget_nil {α : Type} (d : α) (i : Nat) : mget d [] i = d := rfl

@[simp] theorem boolNat_false : boolNat false = 0 := rfl
@[simp] theorem half_zero (i : Nat) : half 0 i = 0 := by simp [half]
@[simp] theorem wordAt_nil (i : Nat) : wordAt [] i = 0 := by simp [wordAt, nth]
@[simp] theorem flagWord_nil : flagWord [] = 0 := rfl
@[simp] theorem occWord_nil (w : Nat) : occWord [] w = 0 := rfl

@[simp] theorem getFn_reset (k : Nat) : getFn State.reset k = fnDefault k := rfl
@[simp] theorem selOf_reset (k o : Nat) : selOf State.reset k o = 0 := rfl
@[simp] theorem snapOf_reset (k o : Nat) : snapOf State.reset k o = [] := rfl
@[simp] theorem getChk_reset (k u : Nat) : getChk State.reset k u = {} := rfl
@[simp] theorem getPort_reset (p : Nat) : getPort State.reset p = {} := rfl
@[simp] theorem getRing_reset (r : Nat) : getRing State.reset r = {} := rfl
@[simp] theorem getLink_reset (p : Nat) : getLink State.reset p = {} := rfl
@[simp] theorem getArb_reset (a : Nat) : getArb State.reset a = {} := rfl
@[simp] theorem getPoint_reset (i : Nat) : getPoint State.reset i = {} := rfl

@[simp] theorem reset_tiers : State.reset.tiers = {} := rfl
@[simp] theorem reset_train : State.reset.train = {} := rfl
@[simp] theorem reset_clock : State.reset.clock = {} := rfl
@[simp] theorem reset_torus : State.reset.torus = {} := rfl
@[simp] theorem reset_fault : State.reset.fault = {} := rfl
@[simp] theorem reset_wdog : State.reset.wdog = {} := rfl
@[simp] theorem reset_handle : State.reset.handle = {} := rfl
@[simp] theorem reset_pert : State.reset.pert = {} := rfl
@[simp] theorem reset_rootLock : State.reset.rootLock = false := rfl
@[simp] theorem reset_pipeFlags : State.reset.pipeFlags = [] := rfl
@[simp] theorem reset_convFlags : State.reset.convFlags = [] := rfl

/-- A function's mailbox reads BUSY until the device is ready (R400). -/
@[simp] theorem mbStateCode_reset (f : FnSt) : mbStateCode State.reset f = 1 := rfl

@[simp] theorem pertActive_reset : pertActive State.reset = false := rfl
@[simp] theorem handleStatus_reset : handleStatus State.reset = 0 := rfl
@[simp] theorem fwActive_reset : fwActive State.reset = 0 := rfl
@[simp] theorem fwStandby_reset : fwStandby State.reset = 0 := rfl
@[simp] theorem torusRing_default : torusRing {} = 0 := rfl

/-- No Handle die is active before a boot. -/
theorem reset_oneActive : Safety.OneActive State.reset := fun _ h => nomatch h

/-- PACE_CAP acts at its reset value whatever board limit a part was made with, which is never below it (log entry 9). -/
theorem paceCap_reset : paceCap State.reset = 0xBB8 :=
  min_eq_left (le_max_left 0xBB8 Config.factoryBoardLimit)

/-- No derating and no correction is in force, so the budget is PACE_CAP. -/
theorem rawBudget_reset : rawBudget State.reset = 0xBB8 := by
  rw [rawBudget, thermalLimit, paceCap_reset]
  rfl

theorem paceStatus_reset : paceStatus State.reset = 0x0BB80000 := by
  rw [paceStatus, budget, rawBudget_reset]
  rfl

/-! ### The Reset column -/

/-- The words of BAR0 that a PF reads as other than 0 after cold reset, with their values: the Reset column of Tables 19.2 to 19.23, less
the serial number and the words that stand in arrays. -/
def resetColumn : List (Nat × Nat) :=
  [(0x0, 0x70640100), (0x4, 0x11), (0x8, 0x20080806), (0xC, 0x10004000), (0x10, 0x01004040), (0x20, 0xFF0), (0x24, 0xFF0), (0x28, 0xFF0),
    (0x2C, 0xFF0), (0x30, 0x00983800), (0x34, 0x00D74B50), (0x1040, 0xBB8), (0x1044, 0x0BB80000), (0x2004, 0x80000000), (0x2048, 3), (0x80004, 0xFF), (0x80030, 0x100000),
    (0x80060, 0x00100003), (0x80064, 0x01000000), (0xA0030, 1)]

/-- An offset that the Reset column does not list. -/
abbrev Unlisted (o : Nat) : Prop := ∀ p ∈ resetColumn, o ≠ p.1

/-- Every listed word but PACE_STATUS is a value of the state alone. -/
theorem bar0Value_resetColumn_evaluates :
    ∀ p ∈ resetColumn, p.1 ≠ 0x1044 → ∀ k ∈ [0, 65], bar0Value State.reset k p.1 = p.2 := by
  decide +kernel

theorem bar0Value_resetColumn (p : Nat × Nat) (hp : p ∈ resetColumn) (k : Nat) (hk : k = 0 ∨ k = 65) :
    bar0Value State.reset k p.1 = p.2 := by
  by_cases hpace : p.1 = 0x1044
  · have hval : ∀ q ∈ resetColumn, q.1 = 0x1044 → q.2 = 0x0BB80000 := by decide
    rw [hpace, hval p hp hpace]
    exact paceStatus_reset
  · exact bar0Value_resetColumn_evaluates p hp hpace k (by simpa using hk)

/-! ### The blocks of BAR0 -/

theorem readGlobal_reset (o : Nat) (h : Unlisted o) (hlo : o ≠ 0x18) (hhi : o ≠ 0x1C) : readGlobal State.reset o = 0 := by
  unfold readGlobal
  split <;> try contradiction -- the listed words
  all_goals simp [clkStatus]

/-- A function has at most 2,048 vectors. -/
theorem vectorCount_le (k : Nat) : vectorCount k ≤ 2048 := by
  unfold vectorCount
  split <;> decide

/-- HOST block: every vector is masked, so the table's control words read 1, and no vector is pending. -/
theorem readHost_reset (k o : Nat) (h : Unlisted o) (hw : o % 4 = 0) (hv : ∀ v, v < 2048 → o ≠ 0x4000 + 16 * v + 12) :
    readHost State.reset k o = 0 := by
  have hring (r : Nat) : (if ownsRing State.reset k r then getRing State.reset r else {}) = ({} : RingSt) := by
    rw [getRing_reset, ite_self]
  unfold readHost
  dsimp only
  rw [hring]
  split
  · simp [fnDefault, sumNat]
  split
  · have hcount := vectorCount_le k
    have hmask : (o - 0x4000) / 4 < 4 * vectorCount k → (o - 0x4000) / 4 % 4 ≠ 3 := fun hlt h3 => hv ((o - 0x4000) / 4 / 4) (by omega) (by omega)
    simp +contextual [fnDefault, hmask]
  · clear hv -- `contradiction` would evaluate it
    split <;> try contradiction
    all_goals simp [fnDefault, ringCtlWord, ringStatusWord]

/-- SESSION block: an entry's state word reads BUSY and its KEY_ID 0. -/
theorem readSession_reset (k o : Nat) (hn : ∀ n, n ≤ 64 → o ≠ 0x10100 + 8 * n) : readSession State.reset k o = 0 := by
  unfold readSession
  dsimp only
  split
  · rfl
  split
  · rfl
  next hentry =>
    have hkey : o % 8 ≠ 0 := fun h8 => hn ((o - 0x10100) / 8) (by omega) (by omega)
    rw [if_neg hkey]
    rfl

theorem readCheck_reset (k o : Nat) (hu : ∀ u, u < 32 → o ≠ 0x100 * u) : readCheck State.reset k o = 0 := by
  unfold readCheck
  dsimp only
  split
  · rfl
  split
  · rfl
  split
  · rfl
  · split
    next hctl => exact absurd (by omega) (hu (o / 0x100) (by omega))
    all_goals simp [chkHi]

theorem readPerf_reset (k o : Nat) : readPerf State.reset k o = 0 := by
  unfold readPerf
  split
  all_goals simp

theorem readTiers_reset (k o : Nat) : readTiers State.reset k o = 0 := by
  unfold readTiers
  split <;> simp [tierFree]

theorem readLink_reset (p o : Nat) : readLink State.reset p o = 0 := by
  unfold readLink
  dsimp only
  split
  · rfl
  · split <;> simp [LinkState.code]

theorem readTorus_reset (k o : Nat) : readTorus State.reset k o = 0 := by
  unfold readTorus
  split <;> simp

theorem readArb_reset (k o : Nat) : readArb State.reset k o = 0 := by
  unfold readArb
  dsimp only
  rw [selOf_reset]
  split <;> simp

theorem readFault_reset (o : Nat) (h : Unlisted o) : readFault State.reset o = 0 := by
  unfold readFault
  split <;> try contradiction
  all_goals simp [wdogStatus]

theorem readPert_reset (k o : Nat) (h : Unlisted o) : readPert State.reset k o = 0 := by
  unfold readPert
  dsimp only
  split <;> try contradiction
  all_goals simp

theorem readHandle_reset (o : Nat) : readHandle State.reset o = 0 := by
  unfold readHandle
  split
  all_goals simp

/-! ### BAR2 and the whole of BAR0 -/

/-- A byte array that nothing was written to reads 0. -/
theorem fieldLE_nil (off n : Nat) : fieldLE [] off n = 0 := by simp [fieldLE, ofBytesLE]

theorem bar2Value_reset (k o : Nat) : bar2Value State.reset k o = if o = 4 then 1 else 0 := by
  by_cases h : o = 4
  · subst h
    simp [bar2Value, fnDefault]
  · unfold bar2Value
    dsimp only
    rw [if_neg h, if_neg h]
    simp only [getFn_reset, fnDefault, fieldLE_nil, ite_self]

/-- Every word of BAR0 outside the Reset column, the serial number and the arrays reads 0, from any function. -/
theorem bar0Value_reset_other (k o : Nat) (h : Unlisted o) (hlo : o ≠ 0x18) (hhi : o ≠ 0x1C)
    (hv : ∀ v, v < 2048 → o ≠ 0x4000 + 16 * v + 12) (hn : ∀ n, n ≤ 64 → o ≠ 0x10100 + 8 * n) (hu : ∀ u, u < 32 → o ≠ 0x70000 + 0x100 * u) :
    bar0Value State.reset k o = 0 := by
  unfold bar0Value
  refine ite_eq_iff'.mpr ⟨fun _ => rfl, fun hw => ?_⟩
  refine ite_eq_iff'.mpr ⟨fun _ => readGlobal_reset o h hlo hhi, fun _ => ?_⟩
  refine ite_eq_iff'.mpr ⟨fun _ => readHost_reset k o h (not_not.mp hw) hv, fun _ => ?_⟩
  refine ite_eq_iff'.mpr ⟨fun _ => readSession_reset k o hn, fun _ => ?_⟩
  refine ite_eq_iff'.mpr ⟨fun hc => readCheck_reset k _ fun u hlt he => hu u hlt (by omega), fun _ => ?_⟩
  refine ite_eq_iff'.mpr ⟨fun _ => readPerf_reset k o, fun _ => ?_⟩
  refine ite_eq_iff'.mpr ⟨fun _ => rfl, fun _ => ?_⟩
  refine ite_eq_iff'.mpr ⟨fun _ => readTiers_reset k o, fun _ => ?_⟩
  refine ite_eq_iff'.mpr ⟨fun _ => readLink_reset _ _, fun _ => ?_⟩
  refine ite_eq_iff'.mpr ⟨fun _ => readTorus_reset k o, fun _ => ?_⟩
  refine ite_eq_iff'.mpr ⟨fun _ => readArb_reset k o, fun _ => ?_⟩
  refine ite_eq_iff'.mpr ⟨fun _ => readFault_reset o h, fun _ => ?_⟩
  refine ite_eq_iff'.mpr ⟨fun _ => readPert_reset k o h, fun _ => ?_⟩
  exact readHandle_reset o

/-! ### The arrays -/

/-- Words from 0x2000 to 0xFFFF lie in the HOST block. -/
theorem bar0Value_host (s : State) (k o : Nat) (hw : o % 4 = 0) (hlo : 0x2000 ≤ o) (hhi : o < 0x10000) : bar0Value s k o = readHost s k o := by
  rw [bar0Value, if_neg (not_not.mpr hw), if_neg (Nat.not_lt.mpr hlo), if_pos hhi]

/-- Words from 0x10000 to 0x1FFFF lie in the SESSION block. -/
theorem bar0Value_session (s : State) (k o : Nat) (hw : o % 4 = 0) (hlo : 0x10000 ≤ o) (hhi : o < 0x20000) :
    bar0Value s k o = readSession s k o := by
  have h2 : ¬o < 0x2000 := by omega
  rw [bar0Value, if_neg (not_not.mpr hw), if_neg h2, if_neg (Nat.not_lt.mpr hlo), if_pos hhi]

/-- Words from 0x70000 to 0x7FFFF lie in the CHECK block. -/
theorem bar0Value_check (s : State) (k o : Nat) (hw : o % 4 = 0) (hlo : 0x70000 ≤ o) (hhi : o < 0x80000) :
    bar0Value s k o = readCheck s k (o - 0x70000) := by
  have h2 : ¬o < 0x2000 := by omega
  have h3 : ¬o < 0x10000 := by omega
  have h4 : ¬o < 0x20000 := by omega
  rw [bar0Value, if_neg (not_not.mpr hw), if_neg h2, if_neg h3, if_neg h4, if_pos ⟨hlo, hhi⟩]

/-- The state word of every entry of the session table reads BUSY from the PF. -/
theorem readSession_reset_entry (n k : Nat) (hn : n ≤ 64) (hk : fnIsPf k = true) :
    readSession State.reset k (0x10100 + 8 * n) = 0x01000000 := by
  have hentry : (0x10100 + 8 * n - 0x10100) / 8 = n := by omega
  have hother : 0x10100 + 8 * n ≠ 0x10000 := by omega
  have hseen : ¬(0x10100 + 8 * n < 0x10100 ∨ 64 < n ∨ fnIsPf k = false ∧ n ≠ k % 65) := by
    simp only [hk, Bool.true_eq_false, false_and, or_false]
    omega
  have hstate : (0x10100 + 8 * n) % 8 = 0 := by omega
  unfold readSession
  dsimp only
  rw [if_neg hother, hentry, if_neg hseen, if_pos hstate]
  simp [fnDefault]

/-- CHK_CTL of every check set has FINAL and FRESH set, in every function's view. -/
theorem readCheck_reset_ctl (u k : Nat) (hu : u < 32) : readCheck State.reset k (0x100 * u) = 0x03000000 := by
  have hin : ¬0x2000 ≤ 0x100 * u := by omega
  have hflags : 0x100 * u ≠ 0x2000 := by omega
  have hocc : 0x100 * u ≠ 0x2004 := by omega
  unfold readCheck
  dsimp only
  rw [if_neg hflags, if_neg hocc, if_neg hin, Nat.mul_mod_right, getChk_reset]
  rfl

/-- The control word of every vector of a PF reads masked. -/
theorem readHost_reset_vector (v k : Nat) (hv : v < 2048) (hk : fnIsPf k = true) : readHost State.reset k (0x4000 + 16 * v + 12) = 1 := by
  have hword : (0x4000 + 16 * v + 12 - 0x4000) / 4 = 4 * v + 3 := by omega
  have hpend : ¬0xC000 ≤ 0x4000 + 16 * v + 12 := by omega
  have htable : 0x4000 ≤ 0x4000 + 16 * v + 12 := by omega
  have hcount : ¬4 * vectorCount k ≤ 4 * v + 3 := by
    rw [vectorCount, if_pos hk]
    omega
  have hctl : (4 * v + 3) % 4 = 3 := by omega
  unfold readHost
  dsimp only
  rw [if_neg hpend, if_pos htable, hword, if_neg hcount, if_pos hctl]
  rfl

/-- Keys 0 and 65 are those of the two PFs. -/
theorem fnIsPf_of_key (k : Nat) (hk : k = 0 ∨ k = 65) : fnIsPf k = true := by
  rcases hk with rfl | rfl <;> rfl

end Sys2Proof.Machine

open Sys2Proof.Machine

/-- Settles O60: the listed words by evaluation, the arrays and the words that read 0 block by block of the register map. -/
theorem resetValues : Obligations.ResetValues := by
  unfold Obligations.ResetValues
  refine ⟨bar0Value_resetColumn, ?session, ?check, ?vectors, ?other, fun k o _ => bar2Value_reset k o⟩
  case session =>
    intro n k hn hk
    rw [bar0Value_session _ _ _ (by omega) (by omega) (by omega)]
    exact readSession_reset_entry n k hn (fnIsPf_of_key k hk)
  case check =>
    intro u k hu _
    rw [bar0Value_check _ _ _ (by omega) (by omega) (by omega), Nat.add_sub_cancel_left]
    exact readCheck_reset_ctl u k hu
  case vectors =>
    intro v k hv hk
    rw [bar0Value_host _ _ _ (by omega) (by omega) (by omega)]
    exact readHost_reset_vector v k hv (fnIsPf_of_key k hk)
  case other =>
    intro k o _ _ hlisted hlo hhi hv hn hu
    exact bar0Value_reset_other k o hlisted hlo hhi hv hn hu

/-- Settles O59: the byte stores list nothing and no Handle die is active. -/
theorem resetInv : Obligations.ResetInv := ⟨reset_memCanonical, reset_oneActive⟩
end

section
/-! PROOFS. A DIE fault that strikes a step of a job of two packages: the ABORT of R378 leaves on the link to the other package, so that
what changes is more than the tables the statement names. -/

namespace Sys2Proof.Machine

/-- A pattern whose job is a data ring of two packages along X. -/
def ringPattern : Pattern :=
  { ctxs := [], folds := [], job := 2 ^ 48 + 2 ^ 16 + 1, relay := [], landing := [], micro := 1, table := [], progs := [], owners := [], stash := 0,
    gaa := 0, staging := [], streams := [], parMin := [], parMax := [], records := 0, timing := {}, marker := false, staticOk := true }

/-- A Wale port in service. -/
def upLink : LinkSt := { en := true, state := .up, txGroups := 15, rxGroups := 15, accepted := true }

/-- A slot with that pattern on partition 1, whose RUN is in a step. -/
def ringSlot : SlotSt :=
  { present := true, part := 1, pattern := some ringPattern,
    run := some { ring := 0, desc := 0, fn := 0, steps := 1, stage := .step, problems := [] } }

/-- The package of index 0 of that ring. Both its X links are UP, and the one cluster of partition 1 lies on die 0. -/
def ringMember : State :=
  { State.reset with
    rootLock := true,
    power := { coldReset := false },
    handle := { latch := some 0, stage := 6, dies := [(0, { role := .active })] },
    torus := { len := 1 },
    links := [(0, upLink), (1, upLink)],
    parts := [(1, { clusters := [0], cur := some 0, run := some 1 })],
    slots := [(1, ringSlot)] }

/-- Die 0 serves position 0 and has a spare left. -/
theorem ringMember_dieHasSpare : diePos ringMember 0 = some 0 ∧ spareTaken ringMember 0 = false := by decide

/-- The ABORT takes sequence number 0 of the link through port 0 (R198, R308). -/
theorem ringMember_abortLeaves :
    (getLink ringMember 0).txNext = 0 ∧ (getLink (dieFault ringMember 0 3) 0).txNext = 1 := by
  decide +kernel

/-- So the links are not as before. -/
theorem ringMember_linksChange : (dieFault ringMember 0 3).links ≠ ringMember.links := by
  intro hlinks
  obtain ⟨hbefore, hafter⟩ := ringMember_abortLeaves
  have hsame : getLink (dieFault ringMember 0 3) 0 = getLink ringMember 0 := congrArg (mget ({} : LinkSt) · 0) hlinks
  rw [hsame, hbefore] at hafter
  exact absurd hafter (by decide)

end Sys2Proof.Machine

open Sys2Proof.Machine

/-- Refutes O38: with a spare left, DIE_FAULT is said to leave the links alone, but the ABORT that R378 has it send for a step in progress
goes out on them. The counterexample is `ringMember`: die 0 fails while slot 1 runs a step of a job of two packages. -/
theorem not_dieFaultsAndSpares : ¬ Obligations.DieFaultsAndSpares := by
  unfold Obligations.DieFaultsAndSpares
  rintro ⟨hfaults, -⟩
  obtain ⟨hserves, hspare⟩ := ringMember_dieHasSpare
  obtain ⟨t, hexec, hframe, -⟩ := (hfaults 0 3 ringMember (by decide)).2.1 0 hserves hspare
  have hnext : dieFault ringMember 0 3 = t := Host.Outcome.next.inj hexec
  have hlinks : t.links = ringMember.links := by rw [hframe]
  exact ringMember_linksChange (hnext ▸ hlinks)
end

section
/-! PROOFS. From cold reset to READY: what the flashes keep, the images the Handle dies boot, the latch, and the stages of boot. -/

namespace Sys2Proof.Machine

/-! ### Handle dies -/

@[simp] theorem getDie_setDie_same (s : State) (d : Nat) (x : HandleDie) : getDie (setDie s d x) d = x := by
  simp [getDie, setDie, updHandle]

theorem getDie_setDie_other (s : State) (d e : Nat) (x : HandleDie) (h : e ≠ d) : getDie (setDie s d x) e = getDie s e :=
  mget_mset_other _ _ _ _ _ h

@[simp] theorem getDie_setRole_same (s : State) (d : Nat) (r : DieRole) : getDie (setRole s d r) d = { getDie s d with role := r } :=
  getDie_setDie_same _ _ _

theorem getDie_setRole_other (s : State) (d e : Nat) (r : DieRole) (h : e ≠ d) : getDie (setRole s d r) e = getDie s e :=
  getDie_setDie_other _ _ _ _ h

/-- What keeps the roles of the Handle pair keeps each die. -/
theorem getDie_of_kept {s t : State} (h : kept t = kept s) (d : Nat) : getDie t d = getDie s d :=
  congrArg (fun k : List Instr × Option Nat × SMap HandleDie => mget ({} : HandleDie) k.2.2 d) h

@[simp] theorem getDie_raiseHandle (s : State) (b d : Nat) : getDie (raiseHandle s b) d = getDie s d := rfl

@[simp] theorem getDie_logEvent (s : State) (src code die sev : Nat) (args : List Byte) (d : Nat) :
    getDie (logEvent s src code die sev args) d = getDie s d := getDie_of_kept (logEvent_kept s src code die sev args) d

/-- An event of Handle's log changes nothing else of Handle. -/
theorem logEvent_handle (s : State) (src code die sev : Nat) (args : List Byte) : (logEvent s src code die sev args).handle =
    { s.handle with log := keepLast 32768 (s.handle.log ++ [newEntry s src code die sev args]), nextSeq := s.handle.nextSeq + 1 } := by
  rw [logEvent, updHandle]

/-- The die that holds the latch is the active one once its role says so. -/
theorem activeDie_of_latch (s : State) (d : Nat) (hlatch : s.handle.latch = some d) (hrole : (getDie s d).role = .active) :
    activeDie s = some d := by
  simp [activeDie, hlatch, hrole]

/-- An event of SEV below 2 goes to the log alone. -/
theorem logEvent_handle_only (s : State) (src code die sev : Nat) (args : List Byte) (h : sev ≠ 2) :
    logEvent s src code die sev args = { s with handle := (logEvent s src code die sev args).handle } := by
  simp [logEvent, updHandle, h]

/-! ### Cold reset (R445, R448) -/

/-- Before boot HANDLE_STATUS reads 0: no latch, no update, stage 0. -/
theorem handleStatus_coldState (s : State) (p : PowerSt) : handleStatus { coldState s with power := p } = 0 := by
  simp [handleStatus, deviceReady, standbyOk, activeDie, coldState, flashOf]

/-- What every loss of the volatile state leaves, whatever is asserted with it. -/
theorem coldState_coldFrom (s : State) (p : PowerSt) : Claims.ColdFrom s { coldState s with power := p } := by
  unfold Claims.ColdFrom
  have hsites : ∀ q, q < 4 → siteMap {} q = 0xFF0 := by decide
  have hstatus := handleStatus_coldState s p
  exact ⟨rfl, rfl, rfl, rfl, rfl, rfl, rfl, rfl, rfl, rfl, rfl, rfl, rfl, rfl, rfl, rfl, rfl, rfl, rfl, rfl, rfl, rfl, hsites, hstatus,
    rfl, rfl, rfl, rfl, rfl, rfl, rfl, rfl, rfl, rfl, rfl, rfl, rfl⟩

theorem coldReset_ignored (s : State) (h : s.power.on = false ∨ shutDown s = true) : exec .coldReset s = .next s := by
  show execColdReset s = _
  rcases h with h | h <;> simp [execColdReset, h]

theorem coldReset_taken (s : State) (hon : s.power.on = true) (hshut : shutDown s = false) :
    exec .coldReset s = .next { coldState s with power := { s.power with coldReset := true } } := by
  show execColdReset s = _
  simp [execColdReset, hon, hshut]

theorem coldResetRelease_ignored (bus own test : Bool) (s : State) (h : s.power.coldReset = false ∨ shutDown s = true) :
    exec (.coldResetRelease bus own test) s = .next s := by
  show execColdResetRelease bus own test s = _
  rcases h with h | h <;> simp [execColdResetRelease, h]

theorem coldResetRelease_taken (bus own test : Bool) (s : State) (hlow : s.power.coldReset = true) (hshut : shutDown s = false) :
    exec (.coldResetRelease bus own test) s = .next { s with
      handle := { s.handle with busSel := bus, ownN := own, testN := test }, power := { s.power with on := true, coldReset := false } } := by
  show execColdResetRelease bus own test s = _
  simp [execColdResetRelease, hlow, hshut, updHandle]

/-! ### Root lock (R254, R397, R399) -/

/-- The image in a flash slot is a matter of the die alone. -/
theorem imageAt_congr (s t : State) (d k : Nat) (h : getDie s d = getDie t d) : imageAt s d k = imageAt t d k := by
  simp only [imageAt, h]

theorem boots_congr (s t : State) (d : Nat) (x : HandleDie) (h : getDie s d = getDie t d) (hx : Claims.Boots s d x) : Claims.Boots t d x := by
  simpa only [Claims.Boots, h, imageAt_congr s t d _ h] using hx

/-- The three ways of a boot (R397). -/
theorem bootDie_boots (s : State) (d : Nat) : Claims.Boots s d (getDie (bootDie s d .starting) d) := by
  simp only [Claims.Boots, bootDie]
  refine ⟨fun hown => ?_, fun hown hother => ?_, fun hown hother => ?_⟩ <;> simp [*]

/-- A boot changes Handle alone. -/
theorem bootDie_handle_only (s : State) (d : Nat) (r : DieRole) : bootDie s d r = { s with handle := (bootDie s d r).handle } := by
  simp only [bootDie]
  split
  · rfl
  split
  · exact logEvent_handle_only _ _ _ _ _ _ (by decide)
  · rfl

theorem bootDie_stage_boots (s : State) (d : Nat) (r : DieRole) :
    (bootDie s d r).handle.stage = s.handle.stage ∧ (bootDie s d r).handle.boots = s.handle.boots := by
  simp only [bootDie]
  split
  · exact ⟨rfl, rfl⟩
  split
  · rw [logEvent_handle]
    exact ⟨rfl, rfl⟩
  · exact ⟨rfl, rfl⟩

theorem getDie_bootDie_other (s : State) (d e : Nat) (r : DieRole) (h : e ≠ d) : getDie (bootDie s d r) e = getDie s e := by
  simp only [bootDie]
  split
  · exact getDie_setDie_other _ _ _ _ h
  split
  · rw [getDie_logEvent, getDie_raiseHandle, getDie_setDie_other _ _ _ _ h]
  · exact getDie_setDie_other _ _ _ _ h

theorem rootLock_ignored (s : State) (h : s.rootLock = true ∨ s.power.coldReset = true ∨ s.power.on = false ∨ shutDown s = true) :
    exec .rootLock s = .next s := by
  show execRootLock s = _
  rcases h with h | h | h | h <;> simp [execRootLock, h]

/-- The counters start at 0 and boot stage 1 begins (R254). -/
def lockedState (s : State) : State :=
  { s with rootLock := true, fc := 0, handle := { s.handle with stage := 1, boots := s.handle.boots + 1 } }

theorem rootLock_taken (s : State) (hlock : s.rootLock = false) (hcold : s.power.coldReset = false) (hon : s.power.on = true)
    (hshut : shutDown s = false) : exec .rootLock s = .next (bootDie (bootDie (lockedState s) 0 .starting) 1 .starting) := by
  show execRootLock s = _
  simp [execRootLock, hlock, hcold, hon, hshut, updHandle, lockedState]

/-- Both dies boot after the root PLL has locked. -/
theorem rootLock_boots (s : State) :
    let t := bootDie (bootDie (lockedState s) 0 .starting) 1 .starting
    t = { s with rootLock := true, fc := 0, handle := t.handle } ∧ t.handle.stage = 1 ∧ t.handle.boots = s.handle.boots + 1 ∧
      Claims.Boots s 0 (getDie t 0) ∧ Claims.Boots s 1 (getDie t 1) := by
  intro t
  have hfirst := bootDie_handle_only (lockedState s) 0 .starting
  have hsecond := bootDie_handle_only (bootDie (lockedState s) 0 .starting) 1 .starting
  obtain ⟨hstage0, hboots0⟩ := bootDie_stage_boots (lockedState s) 0 .starting
  obtain ⟨hstage1, hboots1⟩ := bootDie_stage_boots (bootDie (lockedState s) 0 .starting) 1 .starting
  refine ⟨?frame, hstage1.trans hstage0, hboots1.trans hboots0, ?die0, ?die1⟩
  case frame =>
    calc t = { bootDie (lockedState s) 0 .starting with handle := t.handle } := hsecond
      _ = { s with rootLock := true, fc := 0, handle := t.handle } := by rw [hfirst]; rfl
  case die0 =>
    rw [getDie_bootDie_other _ 1 0 _ (by decide)]
    exact boots_congr (lockedState s) s 0 _ rfl (bootDie_boots _ _)
  case die1 => exact boots_congr _ s 1 _ (getDie_bootDie_other (lockedState s) 0 1 _ (by decide)) (bootDie_boots _ _)

/-! ### The latch (R392) -/

/-- A starting die takes the latch and becomes the active one. -/
def takeLatch (s : State) (d : Nat) : State := setRole (updHandle s (fun h => { h with latch := some d })) d .active

theorem takeLatch_frame (s : State) (d : Nat) : takeLatch s d =
    { s with handle := { s.handle with latch := (takeLatch s d).handle.latch, dies := (takeLatch s d).handle.dies } } := rfl

theorem activeDie_takeLatch (s : State) (d : Nat) : activeDie (takeLatch s d) = some d :=
  activeDie_of_latch _ d rfl (by simp [takeLatch])

theorem latchDecision_ignored (h0 : Bool) (s : State) (h : s.handle.stage ≠ 2 ∨ s.handle.latch ≠ none) : exec (.latchDecision h0) s = .next s :=
  if_pos h

/-- With both dies started the first heartbeat of H0 decides. -/
theorem latchDecision_both (h0 : Bool) (s : State) (hstage : s.handle.stage = 2) (hlatch : s.handle.latch = none)
    (hup0 : (getDie s 0).role = .starting) (hup1 : (getDie s 1).role = .starting) :
    exec (.latchDecision h0) s = .next (takeLatch s (if h0 = true then 0 else 1)) := by
  show execLatchDecision h0 s = _
  cases h0 <;> simp [execLatchDecision, takeLatch, otherDie, hstage, hlatch, hup0, hup1]

/-- A die 0 that did not start leaves the latch to die 1 and is lost. -/
theorem latchDecision_one (h0 : Bool) (s : State) (hstage : s.handle.stage = 2) (hlatch : s.handle.latch = none)
    (hup0 : (getDie s 0).role ≠ .starting) (hup1 : (getDie s 1).role = .starting) :
    exec (.latchDecision h0) s = .next (raiseHandle (setRole (takeLatch s 1) 0 .lost) mfStandbyLost) := by
  show execLatchDecision h0 s = _
  simp [execLatchDecision, takeLatch, otherDie, hstage, hlatch, hup0, hup1]

/-! ### The stages (R399) -/

/-- Boot has reached a stage. -/
def stageTo (s : State) (n : Nat) : State := { s with handle := { s.handle with stage := n } }

theorem bootStageEnd_of_stage1 (s : State) (hstage : s.handle.stage = 1) (htest : s.handle.testN = true) (hup : (getDie s 0).role = .starting) :
    exec .bootStageEnd s = .next (stageTo s 2) := by
  show execBootStageEnd s = _
  simp [execBootStageEnd, hstage, htest, hup, stageTo, updHandle]

theorem bootStageEnd_of_testMode (s : State) (hstage : s.handle.stage = 1) (htest : s.handle.testN = false) : exec .bootStageEnd s = .next s := by
  show execBootStageEnd s = _
  simp [execBootStageEnd, hstage, htest]

theorem bootStageEnd_of_noLatch (s : State) (hstage : s.handle.stage = 2) (hlatch : s.handle.latch = none) : exec .bootStageEnd s = .next s := by
  show execBootStageEnd s = _
  simp [execBootStageEnd, hstage, hlatch]

theorem bootStageEnd_of_latch (s : State) (hstage : s.handle.stage = 2) (hlatch : s.handle.latch.isSome = true) :
    exec .bootStageEnd s = .next (trainPort (trainPort (stageTo s 3) 0) 1) := by
  show execBootStageEnd s = _
  simp [execBootStageEnd, hstage, hlatch, stageTo, updHandle]

theorem bootStageEnd_of_stage3 (s : State) (hstage : s.handle.stage = 3) :
    exec .bootStageEnd s = .next { s with
      handle := { s.handle with stage := 4 }, clock := { s.clock with memLock := true, serdesLock := true, idle := Config.idlePower s.handle.boots } } := by
  show execBootStageEnd s = _
  simp [execBootStageEnd, hstage, updHandle]

theorem bootStageEnd_of_stage4 (s : State) (hstage : s.handle.stage = 4) :
    exec .bootStageEnd s = .next (measureSites (reapplyFences (stageTo s 5))) := by
  show execBootStageEnd s = _
  simp [execBootStageEnd, hstage, stageTo, updHandle]

/-- Before ROOT_LOCK, and once stage 4 has ended, no stage ends this way. -/
theorem bootStageEnd_outside (s : State) (hstage : s.handle.stage = 0 ∨ 5 ≤ s.handle.stage) : exec .bootStageEnd s = .next s := by
  show execBootStageEnd s = _
  unfold execBootStageEnd
  split
  case h_5 => rfl
  all_goals omega

/-! ### Port training -/

theorem fenceTable_stageTo (s : State) (n : Nat) : fenceTable (stageTo s n) = fenceTable s := rfl

/-- Training changes ports and PHY locks alone. -/
theorem trainPort_frame (s : State) (p : Nat) : trainPort s p = { s with ports := (trainPort s p).ports, clock := (trainPort s p).clock } := by
  unfold trainPort
  split <;> rfl

theorem fenceTable_trainPort (s : State) (p : Nat) : fenceTable (trainPort s p) = fenceTable s := by
  rw [trainPort_frame]
  rfl

/-- A port comes up unless its PERST# is asserted or its die is fenced. -/
theorem trainPort_ports (s : State) (p : Nat) : (trainPort s p).ports =
    if (getPort s p).perst = true ∨ 0x38 + p ∈ (fenceTable s).fenced then s.ports else mset {} s.ports p { getPort s p with up := true } := by
  simp only [trainPort, Bool.or_eq_true, List.contains_iff_mem]
  split <;> rfl

theorem getPort_trainPort_other (s : State) (p q : Nat) (h : q ≠ p) : getPort (trainPort s p) q = getPort s q := by
  rw [getPort, trainPort_ports]
  split
  · rfl
  · exact mget_mset_other _ _ _ _ _ h

/-- A port is up after training where it was up, or its PERST# is released and its die not fenced. -/
theorem trainPort_up (s : State) (p : Nat) : (getPort (trainPort s p) p).up = true ↔
    (getPort s p).up = true ∨ (getPort s p).perst = false ∧ 0x38 + p ∉ (fenceTable s).fenced := by
  have hfree : (getPort s p).perst = false ∧ 0x38 + p ∉ (fenceTable s).fenced ↔
      ¬((getPort s p).perst = true ∨ 0x38 + p ∈ (fenceTable s).fenced) := by simp
  rw [hfree, getPort, trainPort_ports]
  split
  next hheld => simp only [hheld, not_true, or_false]; rfl
  next hup => simp only [mget_mset_same, hup, not_false_eq_true, or_true]

/-- Both ports after stage 2. -/
theorem trainPorts_up (s : State) (p : Nat) (hp : p < 2) : (getPort (trainPort (trainPort (stageTo s 3) 0) 1) p).up = true ↔
    (getPort s p).up = true ∨ (getPort s p).perst = false ∧ 0x38 + p ∉ (fenceTable s).fenced := by
  obtain rfl | rfl : p = 0 ∨ p = 1 := by omega
  · rw [getPort_trainPort_other _ 1 0 (by decide)]
    exact trainPort_up (stageTo s 3) 0
  · have hbefore : getPort (trainPort (stageTo s 3) 0) 1 = getPort s 1 := getPort_trainPort_other _ 0 1 (by decide)
    rw [trainPort_up, hbefore, fenceTable_trainPort, fenceTable_stageTo]

theorem trainPorts_frame (s : State) :
    let t := trainPort (trainPort (stageTo s 3) 0) 1
    t = { s with handle := { s.handle with stage := 3 }, ports := t.ports, clock := t.clock } := by
  intro t
  calc t = { trainPort (stageTo s 3) 0 with ports := t.ports, clock := t.clock } := trainPort_frame _ 1
    _ = _ := by rw [trainPort_frame (stageTo s 3) 0]; rfl

/-! ### Readiness (R209, R400) -/

theorem ready_of_stage5 (s : State) (hstage : s.handle.stage = 5) :
    exec .ready s = .next { s with handle := { s.handle with stage := 6 }, tiers := { s.tiers with zeroed := true } } :=
  if_neg (not_not.mpr hstage)

theorem ready_ignored (s : State) (hstage : s.handle.stage ≠ 5) : exec .ready s = .next s := if_pos hstage

end Sys2Proof.Machine

open Sys2Proof.Machine

/-- Settles O40: each event by its own lemma, in the order of the boot. -/
theorem bootSequence : Obligations.BootSequence := by
  unfold Obligations.BootSequence
  refine ⟨?coldReset, ?release, ?rootLock, ?latch, ?stages⟩
  case coldReset =>
    exact fun s => ⟨coldReset_ignored s, fun hon hshut => ⟨_, coldReset_taken s hon hshut, coldState_coldFrom s _, rfl⟩,
      _, rfl, coldState_coldFrom s _, rfl⟩
  case release => exact fun bus own test s => ⟨coldResetRelease_ignored bus own test s, coldResetRelease_taken bus own test s⟩
  case rootLock =>
    exact fun s => ⟨rootLock_ignored s, fun hlock hcold hon hshut => ⟨_, rootLock_taken s hlock hcold hon hshut, rootLock_boots s⟩⟩
  case latch =>
    intro h0 s
    refine ⟨latchDecision_ignored h0 s, fun hstage hlatch hup0 hup1 => ?_, fun hstage hlatch hup0 hup1 => ?_⟩
    · exact ⟨_, latchDecision_both h0 s hstage hlatch hup0 hup1, takeLatch_frame s _, rfl, activeDie_takeLatch s _⟩
    · refine ⟨_, latchDecision_one h0 s hstage hlatch hup0 hup1, activeDie_of_latch _ 1 rfl ?_, by simp, rfl⟩
      rw [getDie_raiseHandle, getDie_setRole_other _ 0 1 _ (by decide)]
      simp [takeLatch]
  case stages =>
    intro s
    refine ⟨bootStageEnd_of_stage1 s, bootStageEnd_of_testMode s, bootStageEnd_of_noLatch s, fun hstage hlatch => ?_, bootStageEnd_of_stage3 s,
      fun hstage => ?_, bootStageEnd_outside s, ready_of_stage5 s, ready_ignored s⟩
    · exact ⟨_, bootStageEnd_of_latch s hstage hlatch, trainPorts_frame s, trainPorts_up s⟩
    · exact ⟨_, bootStageEnd_of_stage4 s hstage, rfl, rfl⟩
end

section
/-! PROOFS. The boundary converters (R21, R26, R27, R32): widening of every L8 code, and what infinities, NaNs, zeros and NaR become. -/

namespace Sys2Proof.Machine

open Sys2Proof.Claims

/-! ### Widening (R21) -/

theorem lField_lCode (neg : Bool) (f : Nat) (hf : f < 0x8000) : lField (lCode neg f) = f := by
  cases neg <;> simp [lField, lCode] <;> omega

theorem lCode_div (neg : Bool) (f : Nat) (hf : f < 0x8000) : lCode neg f / 0x8000 = boolNat neg := by
  cases neg <;> simp [lCode, boolNat] <;> omega

/-- A code that is neither zero nor NaR keeps its sign, and its field moves to the bias of L16. -/
theorem widen_of_field (c : Nat) (hc : c < 256) (hfield : c % 128 ≠ 0) : widen c = lCode (decide (c ≥ 0x80)) (64 * (c % 128) + 12288) := by
  have hzero : c ≠ 0 := by omega
  have hnar : c ≠ 0x80 := by omega
  simp [widen, Nat.mod_eq_of_lt hc, hzero, hnar]

/-! ### Codes and their values (R22) -/

theorem ne_e4m3_of_hasInf {f : Fmt} (h : HasInf f) : f ≠ .e4m3 := by
  rcases h with rfl | rfl | rfl | rfl <;> decide

/-- Sign, exponent and fraction fill a floating-point code. -/
theorem signBit_of_hasInf {f : Fmt} (h : HasInf f) : f.signBit = 2 ^ (f.mbits + f.ebits) := by
  rcases h with rfl | rfl | rfl | rfl <;> rfl

theorem floatVal_inf {f : Fmt} (h : HasInf f) (neg : Bool) :
    floatVal f ((if neg = true then f.signBit else 0) + (2 ^ f.ebits - 1) * 2 ^ f.mbits) = .inf neg := by
  rcases h with rfl | rfl | rfl | rfl <;> cases neg <;> rfl

/-- Above an infinity lie the codes whose exponent is all ones and whose fraction is not 0. -/
theorem fields_above_inf (c m e : Nat) (h : (2 ^ e - 1) * 2 ^ m < c % 2 ^ (m + e)) : c / 2 ^ m % 2 ^ e = 2 ^ e - 1 ∧ c % 2 ^ m ≠ 0 := by
  have hexp : c / 2 ^ m % 2 ^ e = c % 2 ^ (m + e) / 2 ^ m := by rw [Nat.pow_add, Nat.mod_mul_right_div_self]
  have hfrac : c % 2 ^ m = c % 2 ^ (m + e) % 2 ^ m := by rw [Nat.pow_add, Nat.mod_mul_right_mod]
  have hbound : c / 2 ^ m % 2 ^ e < 2 ^ e := Nat.mod_lt _ (Nat.two_pow_pos e)
  have hleast : 2 ^ e - 1 ≤ c / 2 ^ m % 2 ^ e := by
    rw [hexp, Nat.le_div_iff_mul_le (Nat.two_pow_pos m)]
    exact h.le
  have hones : c / 2 ^ m % 2 ^ e = 2 ^ e - 1 := by omega
  refine ⟨hones, fun hzero => ?_⟩
  have hsplit := Nat.div_add_mod' (c % 2 ^ (m + e)) (2 ^ m)
  rw [← hexp, ← hfrac, hones, hzero] at hsplit
  omega

theorem floatVal_nan {f : Fmt} (hf : HasInf f) (c : Nat) (h : (2 ^ f.ebits - 1) * 2 ^ f.mbits < c % f.signBit) : floatVal f c = .nan := by
  rw [signBit_of_hasInf hf] at h
  obtain ⟨hexp, hfrac⟩ := fields_above_inf c f.mbits f.ebits h
  simp [floatVal, ne_e4m3_of_hasInf hf, hexp, hfrac]

theorem floatVal_zero {f : Fmt} (hf : IsFloat f) : floatVal f 0 = .fin false 0 f.emin := by
  rcases hf with (rfl | rfl | rfl | rfl) | rfl <;> rfl

theorem floatVal_negZero {f : Fmt} (hf : IsFloat f) : floatVal f f.signBit = .fin true 0 f.emin := by
  rcases hf with (rfl | rfl | rfl | rfl) | rfl <;> rfl

/-! ### The converters (R26, R27, R32) -/

/-- A floating-point code goes to a log format by its value. -/
theorem convert_float_log {src dst : Fmt} (hsrc : IsFloat src) (hdst : IsLog dst) (c : Nat) :
    convert src dst c = valToLog (decide (dst = .l8)) (floatVal src c) := by
  rcases hsrc with (rfl | rfl | rfl | rfl) | rfl <;> rcases hdst with rfl | rfl <;> rfl

theorem valToLog_inf {dst : Fmt} (hdst : IsLog dst) (neg : Bool) : valToLog (decide (dst = .l8)) (.inf neg) =
    { code := (if neg = true then 2 ^ (8 * dst.width - 1) else 0) + (if dst = .l8 then 0x7F else 0x7FFF), sat := true } := by
  rcases hdst with rfl | rfl <;> rfl

theorem valToLog_nan {dst : Fmt} (hdst : IsLog dst) : valToLog (decide (dst = .l8)) .nan = { code := if dst = .l8 then 0x80 else 0x8000, nar := true } := by
  rcases hdst with rfl | rfl <;> rfl

theorem valToLog_zero (l8 neg : Bool) (e : Int) : valToLog l8 (.fin neg 0 e) = { code := 0 } := rfl

theorem convert_nan {src dst : Fmt} (hsrc : IsFloat src) (hdst : IsLog dst) (c : Nat) (h : floatVal src c = .nan) :
    convert src dst c = { code := if dst = .l8 then 0x80 else 0x8000, nar := true } := by
  rw [convert_float_log hsrc hdst, h, valToLog_nan hdst]

/-- Zero of a log format is the positive zero of every floating-point format. -/
theorem convert_log_zero {src dst : Fmt} (hsrc : IsLog src) (hdst : IsFloat dst) : convert src dst 0 = { code := 0 } := by
  rcases hsrc with rfl | rfl <;> rcases hdst with (rfl | rfl | rfl | rfl) | rfl <;> rfl

theorem convert_nar {src dst : Fmt} (hsrc : IsLog src) (hdst : IsFloat dst) :
    convert src dst (if src = .l8 then 0x80 else 0x8000) = { code := dst.nanCode, nar := true } := by
  rcases hsrc with rfl | rfl <;> rcases hdst with (rfl | rfl | rfl | rfl) | rfl <;> rfl

end Sys2Proof.Machine

open Sys2Proof.Machine

/-- Settles O53: zero and NaR by evaluation, every other code by its widened field. -/
theorem wideningIsExact : Obligations.WideningIsExact := by
  unfold Obligations.WideningIsExact
  intro c hc
  have hcode : convert .l8 .l16 c = { code := widen c } := rfl
  dsimp only
  rw [hcode]
  refine ⟨rfl, rfl, rfl, fun hzero => by rw [hzero]; rfl, fun hnar => by rw [hnar]; rfl, fun hfield => ?_⟩
  have hsign : c / 0x80 = boolNat (decide (c ≥ 0x80)) := by
    by_cases h : c ≥ 0x80 <;> simp [h, boolNat] <;> omega
  have hrange : 64 * (c % 128) + 12288 < 0x8000 := by omega
  simp only [widen_of_field c hc hfield, lField_lCode _ _ hrange, lCode_div _ _ hrange, hsign, true_and]
  omega

/-- Settles O54: the value of each special code, then what a converter makes of that value. -/
theorem specialValues : Obligations.SpecialValues := by
  unfold Obligations.SpecialValues
  refine ⟨?inf, ?nan, ?e4m3, ?zero, ?nar⟩
  case inf =>
    intro src dst neg hsrc hdst
    rw [convert_float_log (.inl hsrc) hdst, floatVal_inf hsrc, valToLog_inf hdst]
  case nan => exact fun src dst c hsrc hdst _ hc => convert_nan (.inl hsrc) hdst c (floatVal_nan hsrc c hc)
  case e4m3 =>
    rintro dst c hdst (rfl | rfl)
    · exact convert_nan (.inr rfl) hdst _ rfl
    · exact convert_nan (.inr rfl) hdst _ rfl
  case zero =>
    intro src dst hsrc hdst
    have hpos : convert src dst 0 = { code := 0 } := by rw [convert_float_log hsrc hdst, floatVal_zero hsrc, valToLog_zero]
    have hneg : convert src dst src.signBit = { code := 0 } := by rw [convert_float_log hsrc hdst, floatVal_negZero hsrc, valToLog_zero]
    refine ⟨hpos, hneg, ?_⟩
    rw [hneg, convert_log_zero hdst hsrc]
  case nar =>
    intro src dst hsrc hdst
    rw [convert_nar hsrc hdst]
    rcases hdst with (rfl | rfl | rfl | rfl) | rfl <;> rfl
end

section
/-! PROOFS. Lane instructions (R90, R93 to R102): what every row of classes VF, VI, VC and VL does with its lane results, the forms that are
refused, and when a result in flight reaches its register. -/

namespace Sys2Proof.Machine

open Sys2Proof.Claims

/-! ### Issue of a lane row -/

theorem atAHalf_issued (s : State) (c : BitVec 12) (k : Issue → Res) (i : Issue) (h : AIssues s c i) : atAHalf s c.toNat k = k i := by
  obtain ⟨⟨hvalid, hissue⟩, hdone⟩ := h
  rw [atAHalf, atCore_issued _ _ _ _ hvalid hissue, hdone]
  rfl

/-- A bundle has one A half (R88). -/
theorem atAHalf_done (s : State) (c : BitVec 12) (k : Issue → Res) (i : Issue) (h : Issues s c i) (hdone : i.core.aDone = true) :
    atAHalf s c.toNat k = .next s := by
  obtain ⟨hvalid, hissue⟩ := h
  rw [atAHalf, atCore_issued _ _ _ _ hvalid hissue, hdone]
  rfl

theorem laneOp_wellFormed (k : LaneClass) (lat : Nat) (toPred : Bool) (srcs : LaneOp → List (BitVec 6)) (f : LaneOp → Nat → Nat → Nat → Bool → LaneRes)
    (o : LaneOp) (s : State) (hvalid : coreValid o.core.toNat = true) (hform : laneFormOk k o = true) : laneOp k lat toPred srcs o (f o) s =
      atAHalf s o.core.toNat (fun i => .next (commitLanes s o i lat toPred (laneResults srcs f o i.ctx))) := by
  simp only [laneOp, hvalid, hform, Bool.not_true, Bool.false_eq_true, if_false]
  rfl

/-! ### Results and events of a lane row (R35, R36) -/

theorem pushResult_eq (co : CoreSt) (f : InFlight) :
    pushResult co f = { co with inflight := co.inflight ++ (if f.vals.isEmpty then [] else [f]) } := by
  unfold pushResult
  split <;> simp

/-- Events of a converter change the conversion flags alone. -/
theorem raiseConv_frame (s : State) (u : Nat) (e : Conv4) :
    raiseConv s u e = { s with convFlags := (raiseConv s u e).convFlags, convUnits := (raiseConv s u e).convUnits } := by
  unfold raiseConv
  split <;> rfl

@[simp] theorem getCore_raiseConv (s : State) (u c : Nat) (e : Conv4) : getCore (raiseConv s u e) c = getCore s c := by
  rw [raiseConv_frame]
  rfl

theorem coreAndFlags_setCore_raiseConv (s : State) (c : Nat) (e : Conv4) (co : CoreSt) : CoreAndFlags s (setCore (raiseConv s c e) c co) c := by
  refine ⟨?_, fun d hd => ?_⟩
  · rw [raiseConv_frame]
    rfl
  · rw [getCore_setCore_other _ _ _ _ hd, getCore_raiseConv]

/-- The core after its lane results: they are in flight, and their events are counted in the context (R36). -/
theorem getCore_commitLanes (s : State) (o : LaneOp) (i : Issue) (lat : Nat) (toPred : Bool) (rs : List (Nat × LaneRes × Bool)) :
    getCore (commitLanes s o i lat toPred rs) o.core.toNat =
      { setCtx i.core i.n { i.ctx with conv := i.ctx.conv.add (laneEvents rs) } with
        aDone := true,
        inflight := i.core.inflight ++ (if rs.isEmpty then [] else
          [{ due := i.core.ac + lat, ctx := i.n, pred := toPred, reg := if toPred then o.pd.toNat else o.vd.toNat, vals := rs.map (fun r => (r.1, r.2.1.code, r.2.2)) }]) } := by
  simp only [commitLanes, getCore_setCore_same, pushResult_eq, List.isEmpty_map]
  rfl

theorem coreAndFlags_commitLanes (s : State) (o : LaneOp) (i : Issue) (lat : Nat) (toPred : Bool) (rs : List (Nat × LaneRes × Bool)) :
    CoreAndFlags s (commitLanes s o i lat toPred rs) o.core.toNat := coreAndFlags_setCore_raiseConv _ _ _ _

theorem raises_commitLanes (s : State) (o : LaneOp) (i : Issue) (lat : Nat) (toPred : Bool) (rs : List (Nat × LaneRes × Bool)) :
    Raises s (commitLanes s o i lat toPred rs) o.core.toNat (laneEvents rs) := ⟨rfl, rfl⟩

/-- A row that is a lane-wise operation does what the statements say of lane rows. -/
theorem laneRow_of_exec {row : LaneOp → Instr} {k : LaneClass} {lat : Nat} {toPred : Bool} {srcs : LaneOp → List (BitVec 6)}
    {f : LaneOp → Nat → Nat → Nat → Bool → LaneRes} (hrow : ∀ o s, exec (row o) s = laneOp k lat toPred srcs o (f o) s) :
    LaneRow row k lat toPred srcs f := by
  refine ⟨fun o s i hissue hform => ?issued, fun o s i hissue hform hdone => ?done⟩
  case issued =>
    have hexec : exec (row o) s = .next (commitLanes s o i lat toPred (laneResults srcs f o i.ctx)) := by
      rw [hrow, laneOp_wellFormed _ _ _ _ _ _ _ hissue.1.1 hform, atAHalf_issued _ _ _ _ hissue]
    refine ⟨_, hexec, coreAndFlags_commitLanes _ _ _ _ _ _, raises_commitLanes _ _ _ _ _ _, ?others, ?ctx, ?core⟩
    all_goals rw [getCore_commitLanes]
    case others => exact fun n hn => getCtx_setCtx_other _ _ _ _ hn
    case ctx => exact getCtx_setCtx_same _ _ _
    case core => rfl
  case done => rw [hrow, laneOp_wellFormed _ _ _ _ _ _ _ hissue.1 hform, atAHalf_done _ _ _ _ hissue hdone]

/-! ### Forms that a load rejects (R39, R84, R94, R98, R99) -/

theorem laneOp_rejected {k : LaneClass} {lat : Nat} {toPred : Bool} {srcs : LaneOp → List (BitVec 6)} {o : LaneOp}
    {f : Nat → Nat → Nat → Bool → LaneRes} {s : State} (hvalid : coreValid o.core.toNat = true) (hform : laneFormOk k o = false) :
    laneOp k lat toPred srcs o f s = .refused .rejectedAtLoad := by
  rw [laneOp, hvalid, hform]
  rfl

theorem reduceOp_rejected {lat : Nat} {o : LaneOp} {f : SumNode → SumNode → SumNode} {s : State} (hvalid : coreValid o.core.toNat = true)
    (hform : laneFormOk .vf o = false) : reduceOp lat o f s = .refused .rejectedAtLoad := by
  rw [reduceOp, hvalid, hform]
  rfl

/-! ### Latency (R90) -/

@[simp] theorem lane_writeLane_same (x : Ctx) (r l v : Nat) (m : Bool) : (x.writeLane false r (l, v, m)).lane r l = v := by
  simp [Ctx.writeLane, Ctx.lane]

theorem lane_writeLane_other (x : Ctx) (r l v j : Nat) (m : Bool) (h : j ≠ l) : (x.writeLane false r (l, v, m)).lane r j = x.lane r j := by
  have hkey : 128 * r + j ≠ 128 * r + l := by omega
  simp [Ctx.writeLane, Ctx.lane, mget_mset_other _ _ _ _ _ hkey]

/-- A result of one lane of a vector register. -/
theorem writeResult_lane (x : Ctx) (f : InFlight) (l v : Nat) (m : Bool) (hvec : f.pred = false) (hvals : f.vals = [(l, v, m)]) :
    x.writeResult f = x.writeLane false f.reg (l, v, m) := by
  simp [Ctx.writeResult, hvec, hvals]

/-- Before a result is due only the count of ac changes. -/
theorem tickCore_pending (co : CoreSt) (k : Nat) (f : InFlight) (hin : co.inflight = [f]) (hdue : co.ac + k < f.due) :
    tickCore co k = { co with ac := co.ac + k } := by
  have hsame : { co with ac := co.ac + k, inflight := [f] } = { co with ac := co.ac + k } := by rw [← hin]
  simp [tickCore, settle, hin, hdue, Nat.not_le.mpr hdue, byDue, hsame]

/-- A result that is due reaches its register. -/
theorem tickCore_due (co : CoreSt) (k : Nat) (f : InFlight) (hin : co.inflight = [f]) (hdue : f.due ≤ co.ac + k) :
    tickCore co k = setCtx { co with ac := co.ac + k, inflight := [] } f.ctx ((getCtx co f.ctx).writeResult f) := by
  have hready : co.inflight.filter (fun f => decide (f.due ≤ co.ac + k)) = [f] := by simp [hin, hdue]
  have hleft : co.inflight.filter (fun f => decide (co.ac + k < f.due)) = [] := by simp [hin, hdue]
  simp only [tickCore, settle, hready, hleft]
  rfl

/-- Of two results the one due last is written last, those of one ac in the order of issue. -/
theorem byDue_pair (f g : InFlight) : byDue [f, g] = if f.due ≤ g.due then [f, g] else [g, f] := by
  by_cases h : f.due ≤ g.due
  · simp [byDue, insertDue, h, Nat.not_lt.mpr h]
  · simp [byDue, insertDue, h, Nat.not_le.mp h]

/-- Two results of one context that are due reach it in the order in which they became available. -/
theorem getCtx_tickCore_pair (co : CoreSt) (k : Nat) (f g : InFlight) (hin : co.inflight = [f, g]) (hf : f.due ≤ co.ac + k) (hg : g.due ≤ co.ac + k)
    (hctx : f.ctx = g.ctx) : getCtx (tickCore co k) f.ctx =
      if f.due ≤ g.due then ((getCtx co f.ctx).writeResult f).writeResult g else ((getCtx co f.ctx).writeResult g).writeResult f := by
  have hready : co.inflight.filter (fun f => decide (f.due ≤ co.ac + k)) = [f, g] := by simp [hin, hf, hg]
  simp only [tickCore, settle, hready, byDue_pair]
  split <;> simp [hctx] <;> rfl

/-! ### The rows -/

/-- Each row of class VF is its lane-wise operation. -/
theorem floatLanes : Claims.FloatLanes := by
  unfold Claims.FloatLanes
  refine ⟨?_, ?_, ?_, ?_, ?_, ?_, ?_, ?_, ?_⟩
  all_goals exact laneRow_of_exec fun _ _ => rfl

/-- Each row of class VI is its lane-wise operation. -/
theorem integerLanes : Claims.IntegerLanes := by
  unfold Claims.IntegerLanes
  refine ⟨?_, ?_, ?_, ?_, ?_, ?_, ?_, ?_, ?_, ?_, ?_, ?_, ?_⟩
  all_goals exact laneRow_of_exec fun _ _ => rfl

/-- Each row of classes VL and VC is its lane-wise operation. -/
theorem logLanes : Claims.LogLanes := by
  unfold Claims.LogLanes
  refine ⟨?_, ?_, ?_, ?_, ?_, ?_, ?_, ?_, ?_, ?_, ?_, ?_⟩
  all_goals exact laneRow_of_exec fun _ _ => rfl

/-- FRSUM and FRMAX reduce across lanes, every other row is a lane-wise operation; both look at the form first. -/
theorem laneFormsRejected : Claims.LaneFormsRejected := by
  unfold Claims.LaneFormsRejected
  refine ⟨?_, ?_, ?_, ?_, ?_, ?_, ?_, ?_, ?_, ?frsum, ?frmax, ?_, ?_, ?_, ?_, ?_, ?_, ?_, ?_, ?_, ?_, ?_, ?_, ?_, ?_, ?_, ?_, ?_, ?_, ?_, ?_, ?_, ?_,
    ?_, ?_, ?_⟩
  all_goals intro o s hvalid hform; delta exec
  case frsum => exact reduceOp_rejected hvalid hform
  case frmax => exact reduceOp_rejected hvalid hform
  all_goals exact laneOp_rejected hvalid hform

/-- One result by its due ac, two by the order in which they become available. -/
theorem resultLatency : Claims.ResultLatency := by
  unfold Claims.ResultLatency
  refine ⟨fun co f k l v m hin hvec hvals _ => ⟨fun hpending n => ?pending, fun hdue => ?due⟩, ?two⟩
  case pending =>
    rw [tickCore_pending co k f hin hpending]
    rfl
  case due =>
    have htick : tickCore co k = setCtx { co with ac := co.ac + k, inflight := [] } f.ctx ((getCtx co f.ctx).writeLane false f.reg (l, v, m)) := by
      rw [tickCore_due co k f hin hdue, writeResult_lane _ f l v m hvec hvals]
    rw [htick, getCtx_setCtx_same]
    exact ⟨rfl, lane_writeLane_same _ _ _ _ _, fun j _ hj => lane_writeLane_other _ _ _ _ _ _ hj⟩
  case two =>
    intro co f g k l v w m m' hin hf hg hctx hreg hfv hgv _ hfdue hgdue
    rw [getCtx_tickCore_pair co k f g hin hfdue hgdue hctx]
    simp only [writeResult_lane _ f l v m hf hfv, writeResult_lane _ g l w m' hg hgv, hreg]
    split <;> exact lane_writeLane_same _ _ _ _ _

end Sys2Proof.Machine

open Sys2Proof.Machine

/-- Settles O1: every row is one lane-wise operation, of its own class, latency, destination and function. -/
theorem laneArithmetic : Obligations.LaneArithmetic := ⟨floatLanes, integerLanes, logLanes⟩

/-- Settles O2: the form is checked before anything else, and a core's results reach their registers in the order in which they become available. -/
theorem laneFormsAndLatency : Obligations.LaneFormsAndLatency := ⟨laneFormsRejected, resultLatency⟩
end

section
/-! PROOFS. Select registers (R436): what a write of one does to its function, which slots PERF selects, and CONV_CLR (R37). -/

namespace Sys2Proof.Machine

open Sys2Proof.Claims

/-! ### A select register and its snapshot -/

/-- A command that sets one select register and its snapshot changes nothing else. -/
theorem selectRow_of_putSel {c : Instr} {s : State} {k off n : Nat} {snap : List Nat} (h : exec c s = .next (putSel s k off n snap)) :
    SelectRow c s k off n snap := by
  have hfn : getFn (putSel s k off n snap) k =
      { getFn s k with sels := mset 0 (getFn s k).sels off n, snaps := mset [] (getFn s k).snaps off snap } := getFn_updFn_same _ _ _
  refine ⟨_, h, ⟨rfl, fun j hj => getFn_updFn_other _ _ _ _ hj⟩, ?_, ?_, fun o ho => ⟨?_, ?_⟩, ?_⟩
  · rw [selOf, hfn, mget_mset_same]
  · rw [snapOf, hfn, mget_mset_same]
  · rw [selOf, hfn, mget_mset_other _ _ _ _ _ ho, selOf]
  · rw [snapOf, hfn, mget_mset_other _ _ _ _ _ ho, snapOf]
  · rw [hfn]

theorem selectable_iff (s : State) (k n : Nat) : selectable s k n = true ↔
    (getSlot s n).present = true ∧ (fnIsPf k = true ∨ (getFn s k).session ≠ 0 ∧ (getFn s k).domain = (getSlot s n).dom) := by
  simp [selectable]

section
variable {f : FnAddr} {v : Word} {s : State} {c : Instr} {k off n : Nat} {snap : List Nat} {g : SlotSt → List Nat}

/-- A register write of a function that answers. -/
theorem exec_of_answers (h : Answers f s) (w : Nat → State) (hrow : exec c s = fnWrite f s (fun k => .next (w k))) :
    exec c s = .next (w (fnKeyOf f)) := by
  obtain ⟨hexists, hreach⟩ := h
  rw [hrow, fnWrite_reached f s _ hexists hreach]

theorem selectRow_of_selectable (hexec : exec c s = .next (selectSlot s k off n g)) (h : selectable s k (n % 2 ^ 12) = true) :
    SelectRow c s k off (n % 2 ^ 12) (g (getSlot s (n % 2 ^ 12))) := by
  refine selectRow_of_putSel ?_
  rw [hexec, selectSlot, if_pos h]

/-- A slot that the function may not select leaves a snapshot of nothing. -/
theorem selectRow_of_not_selectable (hexec : exec c s = .next (selectSlot s k off n g)) (h : ¬selectable s k (n % 2 ^ 12) = true) :
    SelectRow c s k off (n % 2 ^ 12) [] := by
  refine selectRow_of_putSel ?_
  rw [hexec, selectSlot, if_neg h]

theorem selectRow_of_pf (hexec : exec c s = .next (selectHidden s k off n snap)) (h : fnIsPf k = true) : SelectRow c s k off n snap := by
  refine selectRow_of_putSel ?_
  rw [hexec, selectHidden, if_pos h]

theorem selectHidden_vf (h : fnIsPf k = false) : selectHidden s k off n snap = s := by
  simp [selectHidden, h]

end

/-! ### The rows -/

section
variable {f : FnAddr} {s : State} (v : Word) (h : Answers f s)
include h

theorem exec_convSel : exec (.convSel f v) s = .next (selectSlot s (fnKeyOf f) oConvSel v.toNat convSnap) := exec_of_answers h (writeConvSel s · v.toNat) rfl
theorem exec_stepSel : exec (.stepSel f v) s = .next (selectSlot s (fnKeyOf f) oStepSel v.toNat stepSnap) := exec_of_answers h (writeStepSel s · v.toNat) rfl
theorem exec_devSel : exec (.devSel f v) s = .next (selectSlot s (fnKeyOf f) oDevSel v.toNat devSnap) := exec_of_answers h (writeDevSel s · v.toNat) rfl
theorem exec_quotaSel : exec (.quotaSel f v) s =
    .next (selectHidden s (fnKeyOf f) oQuotaSel (v.toNat % 2 ^ 12) (quotaSnap s (v.toNat % 2 ^ 12))) := exec_of_answers h (writeQuotaSel s · v.toNat) rfl
theorem exec_tierSlotSel : exec (.tierSlotSel f v) s =
    .next (selectHidden s (fnKeyOf f) oTierSlotSel (v.toNat % 2 ^ 12) (tierSlotSnap (getSlot s (v.toNat % 2 ^ 12)))) := exec_of_answers h (writeTierSlotSel s · v.toNat) rfl
theorem exec_tierChSel : exec (.tierChSel f v) s =
    .next (selectHidden s (fnKeyOf f) oTierChSel (v.toNat % 2 ^ 12) (tierChSnap s (v.toNat % 2 ^ 12))) := exec_of_answers h (writeTierChSel s · v.toNat) rfl
theorem exec_layoutSel : exec (.layoutSel f v) s =
    .next (selectHidden s (fnKeyOf f) oLayoutSel (v.toNat % 2 ^ 12) (layoutSnap (getSlot s (v.toNat % 2 ^ 12)))) := exec_of_answers h (writeLayoutSel s · v.toNat) rfl
theorem exec_arbSel : exec (.arbSel f v) s =
    .next (selectHidden s (fnKeyOf f) oArbSel (v.toNat % 2 ^ 16) (arbSnap s (v.toNat % 2 ^ 16))) := exec_of_answers h (writeArbSel s · v.toNat) rfl

/-- CONV_CLR with bit 0 clears the counters of a slot that the function may select. -/
theorem exec_convClr_selectable (hbit : bit v.toNat 0 = true) (hsel : selectable s (fnKeyOf f) (selOf s (fnKeyOf f) oConvSel) = true) :
    exec (.convClr f v) s = .next (updSlot s (selOf s (fnKeyOf f) oConvSel) (fun x => { x with conv := {} })) := by
  have hexec : exec (.convClr f v) s = .next (writeConvClr s (fnKeyOf f) v.toNat) := exec_of_answers h (writeConvClr s · v.toNat) rfl
  simp [hexec, writeConvClr, hbit, hsel]

theorem exec_convClr_ignored (hno : bit v.toNat 0 = false ∨ ¬selectable s (fnKeyOf f) (selOf s (fnKeyOf f) oConvSel) = true) :
    exec (.convClr f v) s = .next s := by
  have hexec : exec (.convClr f v) s = .next (writeConvClr s (fnKeyOf f) v.toNat) := exec_of_answers h (writeConvClr s · v.toNat) rfl
  rcases hno with hbit | hsel
  · simp [hexec, writeConvClr, hbit]
  · simp [hexec, writeConvClr, hsel]

end

/-! ### Snapshots of nothing -/

theorem quotaSnap_beyond (s : State) (d : Nat) (h : 256 ≤ d) : quotaSnap s d = [] := if_pos h

theorem quotaSnap_within (s : State) (d : Nat) (h : d < 256) : quotaSnap s d =
    [(getDom s d).limSc, (getDom s d).limPs, (getDom s d).limHbm, (getDom s d).limLp, (getDom s d).useSc, ((getDom s d).usePages + 31) / 32,
      (getDom s d).useHbm, (getDom s d).useLp] := if_neg (Nat.not_le.mpr h)

theorem tierChSnap_beyond (s : State) (c : Nat) (h : 576 ≤ c) : tierChSnap s c = [] := if_pos h

theorem tierChSnap_within (s : State) (c : Nat) (h : c < 576) : tierChSnap s c =
    [(mget {} s.tiers.chans c).late % 2 ^ 32, (mget {} s.tiers.chans c).late / 2 ^ 32 % 2 ^ 32, (mget {} s.tiers.chans c).corr,
      (mget {} s.tiers.chans c).retry, (mget {} s.tiers.chans c).fail] := if_neg (Nat.not_le.mpr h)

theorem arbSnap_absent (s : State) (key : Nat) (h : arbValid key = false) : arbSnap s key = [] := by simp [arbSnap, h]

theorem arbSnap_present (s : State) (key : Nat) (h : arbValid key = true) : arbSnap s key =
    [arbStatus s key, (getArb s key).grants % 2 ^ 32, (getArb s key).grants / 2 ^ 32 % 2 ^ 32, (getArb s key).parked, (getArb s key).refused,
      (getArb s key).dead] := by
  simp [arbSnap, h, loHi]

end Sys2Proof.Machine

open Sys2Proof.Machine

/-- Settles O45: the three registers of PERF by what the function may select, the hidden ones by PF and VF, CONV_CLR by both. -/
theorem selectsAndSnapshots : Obligations.SelectsAndSnapshots := by
  unfold Obligations.SelectsAndSnapshots
  intro f v s h k n x mine
  refine ⟨fun hmine => ?mine, fun hmine => ?foreign, fun hpf => ?pf, fun hvf => ?vf, ?clear⟩
  case mine =>
    have hsel := (selectable_iff s k n).mpr hmine
    exact ⟨selectRow_of_selectable (exec_convSel v h) hsel, selectRow_of_selectable (exec_stepSel v h) hsel, selectRow_of_selectable (exec_devSel v h) hsel⟩
  case foreign =>
    have hsel := mt (selectable_iff s k n).mp hmine
    exact ⟨selectRow_of_not_selectable (exec_convSel v h) hsel, selectRow_of_not_selectable (exec_stepSel v h) hsel,
      selectRow_of_not_selectable (exec_devSel v h) hsel⟩
  case pf =>
    have hquota : Sys2Proof.Claims.SelectRow (.quotaSel f v) s k oQuotaSel n (quotaSnap s n) := selectRow_of_pf (exec_quotaSel v h) hpf
    have hchannel : Sys2Proof.Claims.SelectRow (.tierChSel f v) s k oTierChSel n (tierChSnap s n) := selectRow_of_pf (exec_tierChSel v h) hpf
    have harb : Sys2Proof.Claims.SelectRow (.arbSel f v) s k oArbSel (v.toNat % 2 ^ 16) (arbSnap s (v.toNat % 2 ^ 16)) := selectRow_of_pf (exec_arbSel v h) hpf
    refine ⟨fun hbeyond => ?_, fun hwithin => ?_, selectRow_of_pf (exec_tierSlotSel v h) hpf, fun hbeyond => ?_, fun hwithin => ?_,
      selectRow_of_pf (exec_layoutSel v h) hpf, fun hinvalid => ?_, fun hvalid => ?_⟩
    · exact quotaSnap_beyond s n hbeyond ▸ hquota
    · rw [quotaSnap_within s n hwithin] at hquota
      exact hquota
    · exact tierChSnap_beyond s n hbeyond ▸ hchannel
    · rw [tierChSnap_within s n hwithin] at hchannel
      exact hchannel
    · exact arbSnap_absent s _ hinvalid ▸ harb
    · exact arbSnap_present s _ hvalid ▸ harb
  case vf =>
    have hsame (off n : Nat) (snap : List Nat) : selectHidden s (fnKeyOf f) off n snap = s := selectHidden_vf hvf
    simp only [exec_quotaSel v h, exec_tierSlotSel v h, exec_tierChSel v h, exec_layoutSel v h, exec_arbSel v h, hsame, and_self]
  case clear =>
    intro m y may
    refine ⟨fun hbit hmay => ?_, fun hno => exec_convClr_ignored v h (hno.imp_right (mt (selectable_iff s k m).mp))⟩
    exact ⟨_, exec_convClr_selectable v h hbit ((selectable_iff s k m).mpr hmay), rfl, getSlot_updSlot_same _ _ _,
      fun j hj => getSlot_updSlot_other _ _ _ _ hj⟩
end

section
/-! PROOFS. The head of a descriptor ring (R286, R287): one that passes the acceptance checks is taken and executed, and one whose outcome is
fixed in the state that takes it leaves its ring as `endsHead` says. -/

namespace Sys2Proof.Machine

open Sys2Proof.Claims

/-! ### Taking a head and fixing its outcome -/

/-- A ring whose head has become an open descriptor. -/
def takenRing (x : RingSt) (i raw : Nat) (rest : List (Nat × Nat)) : RingSt :=
  { x with ready := rest, open_ := x.open_ ++ [{ id := x.nextId, idx := i, raw := raw }], nextId := x.nextId + 1 }

/-- A ring whose head has ended with a status and a DETAIL. -/
def endedRing (x : RingSt) (i raw : Nat) (rest : List (Nat × Nat)) (status detail : Nat) : RingSt :=
  { x with
    ready := rest, open_ := x.open_ ++ [{ id := x.nextId, idx := i, raw := raw, status := some status, detail := detail }],
    finished := x.finished ++ [x.nextId], nextId := x.nextId + 1 }

theorem takenHead_eq (o : DescOp) (s : State) (i raw : Nat) (rest : List (Nat × Nat)) :
    takenHead o s i raw rest = setRing s o.ring.toNat (takenRing (getRing s o.ring.toNat) i raw rest) := rfl

theorem endsHead_eq (o : DescOp) (s : State) (i raw : Nat) (rest : List (Nat × Nat)) (u : State) (status detail : Nat) :
    endsHead o s i raw rest u status detail = setRing u o.ring.toNat (endedRing (getRing s o.ring.toNat) i raw rest status detail) := rfl

/-- A second write of a ring replaces the first, where neither is the ring as it was made. -/
theorem setRing_setRing (s : State) (r : Nat) (x y : RingSt) (hx : x ≠ {}) (hy : y ≠ {}) : setRing (setRing s r x) r y = setRing s r y := by
  simp only [setRing, mset_mset _ _ _ _ _ hx hy]

/-- A ring that has taken a descriptor is not as it was made. -/
theorem ne_default_of_nextId {x : RingSt} {n : Nat} (h : x.nextId = n + 1) : x ≠ {} := by
  rintro rfl
  exact absurd h (by simp)

/-- A descriptor accepted earlier does not end with a later number. -/
theorem endsWith_earlier (n : Nat) (d : DescSt) (hid : d.id < n) (hrun : ∀ m, d.ofRun = some m → m < n) : endsWith n d = false := by
  have hown : d.id ≠ n := hid.ne
  have hother : d.ofRun ≠ some n := fun h => Nat.lt_irrefl n (hrun n h)
  simp [endsWith, hown, hother]

/-- Where the descriptor just taken gets its outcome, its ring is as `endsHead` says, whatever else has changed. -/
theorem finishDesc_taken {o : DescOp} {s : State} {k i raw : Nat} {rest : List (Nat × Nat)} (h : AtHead o s k i raw rest) (u : State) (status detail : Nat) :
    finishDesc (setRing u o.ring.toNat (takenRing (getRing s o.ring.toNat) i raw rest)) o.ring.toNat (getRing s o.ring.toNat).nextId status detail =
      endsHead o s i raw rest u status detail := by
  obtain ⟨-, -, -, -, hcollect, hopen⟩ := h
  rw [endsHead_eq, finishDesc, updRing, getRing_setRing_same, setRing_setRing _ _ _ _ (ne_default_of_nextId rfl) (ne_default_of_nextId rfl)]
  generalize getRing s o.ring.toNat = x at *
  have hold : ∀ d ∈ x.open_, endsWith x.nextId d = false := fun d hd => endsWith_earlier _ d (hopen d hd).1 (hopen d hd).2
  have hnew : endsWith x.nextId { id := x.nextId, idx := i, raw := raw } = true := by simp [endsWith]
  have hfinished : x.open_.filter (endsWith x.nextId) = [] := List.filter_eq_nil_iff.mpr fun d hd => by simp [hold d hd]
  have hkept : x.open_.map (fun d => if endsWith x.nextId d = true then
      { d with status := some status, detail := if d.id = x.nextId ∨ status = sBadProblem then detail else 0 } else d) = x.open_ :=
    (List.map_congr_left fun d hd => by simp [hold d hd]).trans (List.map_id _)
  congr 1
  simp [takenRing, endedRing, hcollect, hnew, hfinished, hkept]

/-! ### The acceptance checks 2 to 9 (Table 12.2) -/

/-- Buffers that exist, are permitted and are long enough pass checks 8 and 9. -/
theorem bufVerdict_go (f : FnSt) (es : List BufEntry) (us : List BufUse) (hlen : es.length = us.length) (hidx : ∀ u ∈ us, u.idx < f.bufCount)
    (hbuf : ∀ q ∈ us.zip es, q.1.acc &&& q.2.acc.toNat = q.1.acc ∧ q.1.off + q.1.bytes ≤ q.2.len.toNat) : bufVerdict f es us = .go := by
  have hexist : us.any (fun u => decide (f.bufCount ≤ u.idx)) = false := by
    simpa using hidx
  have hacc : (us.zip es).any (fun p => p.1.acc &&& p.2.acc.toNat != p.1.acc) = false := by
    simpa using fun a b h => (hbuf (a, b) h).1
  have hlong : (us.zip es).any (fun p => decide (p.2.len.toNat < p.1.off + p.1.bytes)) = false := by
    simpa using fun a b h => (hbuf (a, b) h).2
  simp [bufVerdict, hexist, hlen, hacc, hlong]

theorem checkPlan_of_accepted {s : State} {k raw : Nat} {es : List BufEntry} {p : Plan} (h : Accepted s k raw es p) : checkPlan s k raw es p = .go := by
  obtain ⟨hreserved, hform, hrole, hdom, hservice, hnames, hcounts, hempty, hready, hmaster, hlen, hidx, hbuf⟩ := h
  have hfields : (!(reservedZero raw p.fields && p.form)) = false := by simp [hreserved, hform]
  have hown : ((getFn s k).role == 1 && p.dom.any (· != (getFn s k).domain)) = false := by
    by_cases htenant : (getFn s k).role = 1
    · rcases hdom htenant with hnone | hsame <;> simp [*]
    · simp [htenant]
  have hservice' : (p.service && !s.service) = false := by simpa using hservice
  have hmaster' : (p.ready && (p.bufs.isEmpty || (getFn s k).cfg.master)) = true := by
    simpa [hready] using hmaster
  simp [checkPlan, hfields, hrole, hown, hservice', hnames, hcounts, hempty, bufVerdict_go _ _ _ hlen hidx hbuf, hmaster']

/-- A descriptor that passes the checks is accepted and executed. -/
theorem exec_of_passed {c : Instr} {o : DescOp} {s : State} {k i raw code : Nat} {rest : List (Nat × Nat)} {plan : Nat → Nat → State → Plan}
    {go : DescEnv → State → State} (hrow : exec c s = decideRow code o plan go s) (hcode : codeDefined code = true)
    (h : Passed o s k i raw rest code plan) : exec c s = .next (go (headEnv o s k raw (plan k raw s)) (takenHead o s i raw rest)) := by
  obtain ⟨hhead, hraw, hacc⟩ := h
  obtain ⟨hready, hfn, hfence, hfirst, hcollect, -⟩ := hhead
  have hgo := checkPlan_of_accepted hacc
  rw [hrow, decideRow]
  simp only [hready, List.head?_cons, hfn, hfence, hfirst, hcollect, hraw, hcode, hgo, takeHead_cons _ _ _ _ _ hready, Bool.not_true, Bool.or_self,
    Bool.false_eq_true, if_false, ne_eq, not_true_eq_false, headEnv,
    takenHead_eq, takenRing]

/-- The outcome of a descriptor that is fixed in the state that takes it. -/
theorem done_taken {o : DescOp} {s : State} {k i raw : Nat} {rest : List (Nat × Nat)} (h : AtHead o s k i raw rest) (p : Plan) (status detail : Nat) :
    (headEnv o s k raw p).done (takenHead o s i raw rest) status detail = endsHead o s i raw rest s status detail := finishDesc_taken h s status detail

end Sys2Proof.Machine
end

section
/-! PROOFS. What the operations of data movement leave alone: writes of tier bytes change the tiers alone and know nothing of rings, and the
counters and check sets of a copy stand beside its bytes. -/

namespace Sys2Proof.Machine

open Sys2Proof.Claims

/-! ### Writes of tier bytes -/

/-- `t` differs from `s` in the tiers alone. -/
def TiersOnly (s t : State) : Prop := t = { s with tiers := t.tiers }

theorem TiersOnly.trans {s t u : State} (hst : TiersOnly s t) (htu : TiersOnly t u) : TiersOnly s u := by
  unfold TiersOnly at *
  rw [htu, hst]

theorem setTierByte_tiersOnly (s : State) (dom a : Nat) (b : Byte) : TiersOnly s (setTierByte s dom a b) := by
  unfold setTierByte
  dsimp only
  split
  · rfl
  · split <;> rfl

theorem setTierByte_setRing (s : State) (r : Nat) (x : RingSt) (dom a : Nat) (b : Byte) :
    setTierByte (setRing s r x) dom a b = setRing (setTierByte s dom a b) r x := by
  unfold setTierByte
  simp only [getDom_setRing, setRing_tiers]
  split
  · rfl
  · rw [apply_ite (setRing · r x)]
    rfl

theorem setTierBytes_tiersOnly (s : State) (dom a : Nat) (bs : List Byte) : TiersOnly s (setTierBytes s dom a bs) := by
  induction bs generalizing s a with
  | nil => rfl
  | cons b bs ih => exact (setTierByte_tiersOnly s dom a b).trans (ih _ _)

theorem setTierBytes_setRing (s : State) (r : Nat) (x : RingSt) (dom a : Nat) (bs : List Byte) :
    setTierBytes (setRing s r x) dom a bs = setRing (setTierBytes s dom a bs) r x := by
  induction bs generalizing s a with
  | nil => rfl
  | cons b bs ih => rw [setTierBytes, setTierByte_setRing, ih, setTierBytes]

theorem writeStream_tiersOnly (s : State) (slot : Nat) (st : Stream) (off : Nat) (bs : List Byte) : TiersOnly s (writeStream s slot st off bs) := by
  induction bs generalizing s off with
  | nil => rfl
  | cons b bs ih =>
    rw [writeStream]
    split
    · exact ih _ _
    · exact (setTierByte_tiersOnly _ _ _ _).trans (ih _ _)

theorem streamAddr_setRing (s : State) (r : Nat) (x : RingSt) (slot : Nat) (st : Stream) (off : Nat) :
    streamAddr (setRing s r x) slot st off = streamAddr s slot st off := by
  unfold streamAddr
  cases st <;> rfl

theorem writeStream_setRing (s : State) (r : Nat) (x : RingSt) (slot : Nat) (st : Stream) (off : Nat) (bs : List Byte) :
    writeStream (setRing s r x) slot st off bs = setRing (writeStream s slot st off bs) r x := by
  induction bs generalizing s off with
  | nil => rfl
  | cons b bs ih =>
    rw [writeStream, writeStream, streamAddr_setRing]
    split
    · exact ih _ _
    · rw [getSlot_setRing, setTierByte_setRing]
      exact ih _ _

theorem setRecord_tiersOnly (s : State) (slot t v : Nat) : TiersOnly s (setRecord s slot t v) := writeStream_tiersOnly _ _ _ _ _

theorem setRecord_setRing (s : State) (r : Nat) (x : RingSt) (slot t v : Nat) : setRecord (setRing s r x) slot t v = setRing (setRecord s slot t v) r x :=
  writeStream_setRing _ _ _ _ _ _ _

theorem writeParts_tiersOnly (n : Nat) (ps : List (Stream × Nat × Nat)) (bs : List Byte) (s : State) : TiersOnly s (writeParts n ps bs s) := by
  induction ps generalizing bs s with
  | nil => rfl
  | cons p ps ih => exact (writeStream_tiersOnly _ _ _ _ _).trans (ih _ _)

theorem writeParts_setRing (n : Nat) (ps : List (Stream × Nat × Nat)) (bs : List Byte) (s : State) (r : Nat) (x : RingSt) :
    writeParts n ps bs (setRing s r x) = setRing (writeParts n ps bs s) r x := by
  induction ps generalizing bs s with
  | nil => rfl
  | cons p ps ih => rw [writeParts, writeStream_setRing, ih, writeParts]

theorem sideWrite_tiersOnly (s : State) (bs : List Byte) (side : CopySide) : TiersOnly s (sideWrite s bs side) := by
  cases side with
  | tier d a => exact setTierBytes_tiersOnly _ _ _ _
  | stream k st off => exact writeStream_tiersOnly _ _ _ _ _

theorem sideWrite_setRing (s : State) (r : Nat) (x : RingSt) (bs : List Byte) (side : CopySide) :
    sideWrite (setRing s r x) bs side = setRing (sideWrite s bs side) r x := by
  cases side with
  | tier d a => exact setTierBytes_setRing _ _ _ _ _ _
  | stream k st off => exact writeStream_setRing _ _ _ _ _ _ _

/-! ### Folds -/

theorem foldl_tiersOnly {β : Type} (f : State → β → State) (h : ∀ s b, TiersOnly s (f s b)) (l : List β) (s : State) : TiersOnly s (l.foldl f s) := by
  induction l generalizing s with
  | nil => rfl
  | cons b l ih => exact (h s b).trans (ih _)

/-- A fold of operations that know nothing of rings. -/
theorem foldl_setRing {β : Type} (f : State → β → State) (r : Nat) (x : RingSt) (h : ∀ s b, f (setRing s r x) b = setRing (f s b) r x) (l : List β)
    (s : State) : l.foldl f (setRing s r x) = setRing (l.foldl f s) r x := by
  induction l generalizing s with
  | nil => rfl
  | cons b l ih => rw [List.foldl_cons, h, ih, List.foldl_cons]

/-- A fold of updates of slots changes slots alone. -/
theorem foldl_updSlot_frame {β : Type} (n : β → Nat) (g : β → SlotSt → SlotSt) (l : List β) (s : State) :
    l.foldl (fun s b => updSlot s (n b) (g b)) s = { s with slots := (l.foldl (fun s b => updSlot s (n b) (g b)) s).slots } := by
  induction l generalizing s with
  | nil => rfl
  | cons b l ih =>
    rw [List.foldl_cons, ih]
    rfl

theorem markStale_frame (s : State) (ns : List Nat) (load : Bool) : markStale s ns load = { s with slots := (markStale s ns load).slots } :=
  foldl_updSlot_frame _ _ _ _

theorem markStale_setRing (s : State) (r : Nat) (x : RingSt) (ns : List Nat) (load : Bool) :
    markStale (setRing s r x) ns load = setRing (markStale s ns load) r x := foldl_setRing _ _ _ (fun _ _ => rfl) _ _

theorem holdBanks_frame (s : State) (r id : Nat) (bs : List (Nat × Nat)) : holdBanks s r id bs = { s with slots := (holdBanks s r id bs).slots } :=
  foldl_updSlot_frame _ _ _ _

/-! ### The counters and check sets of a copy (R35, R36, R352) -/

/-- What a copy changes beside its ring, its draws and what it sends. A function keeps its check flags. -/
structure CopyFrame (s t : State) : Prop where
  frame : t = { s with tiers := t.tiers, slots := t.slots, fns := t.fns, convFlags := t.convFlags, convUnits := t.convUnits }
  chkFlags : ∀ k, (getFn t k).chkFlags = (getFn s k).chkFlags

theorem CopyFrame.trans {s t u : State} (hst : CopyFrame s t) (htu : CopyFrame t u) : CopyFrame s u := by
  refine ⟨?_, fun k => (htu.chkFlags k).trans (hst.chkFlags k)⟩
  rw [htu.frame, hst.frame]

theorem CopyFrame.cores {s t : State} (h : CopyFrame s t) : t.cores = s.cores := by rw [h.frame]
theorem CopyFrame.handle {s t : State} (h : CopyFrame s t) : t.handle = s.handle := by rw [h.frame]
theorem CopyFrame.draws {s t : State} (h : CopyFrame s t) : t.draws = s.draws := by rw [h.frame]
theorem CopyFrame.fc {s t : State} (h : CopyFrame s t) : t.fc = s.fc := by rw [h.frame]

theorem CopyFrame.of_tiersOnly {s t : State} (h : TiersOnly s t) : CopyFrame s t := by
  rw [h]
  exact ⟨rfl, fun _ => rfl⟩

theorem copyFrame_markStale (s : State) (ns : List Nat) (load : Bool) : CopyFrame s (markStale s ns load) := by
  rw [markStale_frame]
  exact ⟨rfl, fun _ => rfl⟩

/-- The events of a copy change the conversion flags and, where the descriptor names a slot, its counters. -/
theorem countCopy_frame (s : State) (k raw : Nat) (ev : Conv4) : countCopy s k raw ev =
    { s with slots := (countCopy s k raw ev).slots, convFlags := (countCopy s k raw ev).convFlags, convUnits := (countCopy s k raw ev).convUnits } := by
  unfold countCopy
  dsimp only
  rw [raiseConv_frame]
  split <;> rfl

theorem copyFrame_countCopy (s : State) (k raw : Nat) (ev : Conv4) : CopyFrame s (countCopy s k raw ev) := by
  rw [countCopy_frame]
  exact ⟨rfl, fun _ => rfl⟩

/-- A check set that processes bytes changes its function alone. -/
theorem runChk_frame (s : State) (k buf addr : Nat) (bs : List Byte) : (runChk s k buf addr bs).2 = { s with fns := (runChk s k buf addr bs).2.fns } := by
  unfold runChk
  split <;> rfl

/-- A check set that is written leaves the function's check flags. -/
theorem chkFlags_setChk (s : State) (k i j : Nat) (c : ChkSet) : (getFn (setChk s k i c) j).chkFlags = (getFn s j).chkFlags := by
  by_cases h : j = k
  · rw [h, setChk, getFn_updFn_same]
  · rw [setChk, getFn_updFn_other _ _ _ _ h]

theorem copyFrame_runChk (s : State) (k buf addr : Nat) (bs : List Byte) : CopyFrame s (runChk s k buf addr bs).2 := by
  refine ⟨?_, fun j => ?_⟩
  · rw [runChk_frame]
  · unfold runChk
    split
    · rfl
    · exact chkFlags_setChk _ _ _ _ _

end Sys2Proof.Machine
end

section
/-! PROOFS. COPY_IN, COPY_OUT and FILL (R290, R352 to R354, R464): what each does once it is accepted, check by check. -/

namespace Sys2Proof.Machine

open Sys2Proof.Claims

/-! ### The checks of a copy do not look at rings -/

section
variable (s : State) (r : Nat) (x : RingSt)

theorem sideOk_setRing (w n : Nat) (side : CopySide) : sideOk (setRing s r x) w n side = sideOk s w n side := by
  cases side <;> rfl

theorem writeRefusal_setRing (n : Nat) (side : CopySide) : writeRefusal (setRing s r x) n side = writeRefusal s n side := by
  cases side <;> rfl

theorem masterSlots_setRing (n : Nat) (side : CopySide) : masterSlots (setRing s r x) n side = masterSlots s n side := by
  cases side <;> rfl

theorem sideBlocks_setRing (n : Nat) (side : CopySide) : sideBlocks (setRing s r x) n side = sideBlocks s n side := by
  cases side with
  | tier d a => rfl
  | stream k st off => simp only [sideBlocks, streamBlocks, streamAddr_setRing, getSlot_setRing]

end

section
variable {o : DescOp} {s : State} {i raw w n : Nat} {rest : List (Nat × Nat)} {side : CopySide}

theorem sideOk_takenHead {ok : Bool} (h : sideOk s w n side = ok) : sideOk (takenHead o s i raw rest) w n side = ok :=
  (sideOk_setRing _ _ _ _ _ _).trans h

theorem writeRefusal_takenHead {c : Option Nat} (h : writeRefusal s n side = c) : writeRefusal (takenHead o s i raw rest) n side = c :=
  (writeRefusal_setRing _ _ _ _ _).trans h

end

/-! ### COPY_IN -/

section
variable (e : DescEnv) (s : State)

/-- The state in which a COPY_IN has written one reading and another after it, and its check set and counters have taken both (log entry 79). -/
def reread (e : DescEnv) (s : State) : State :=
  let w := copyWrite s e.raw (e.o.data.take (dLength e.raw))
  let v := copyWrite w.1 e.raw (e.o.data2.take (dLength e.raw))
  countCopy (runChk v.1 e.k (dBuf e.raw) (dAddr e.raw) (e.o.data2.take (dLength e.raw))).2 e.k e.raw (w.2.add v.2)

theorem copyIn_badAddr (hside : sideOk s (tierLength e.raw false).2 (tierLength e.raw false).1 (copySide s e.raw) = false) :
    copyIn e s = e.done s sBadAddr 0 := by
  simp [copyIn, hside]

variable (hside : sideOk s (tierLength e.raw false).2 (tierLength e.raw false).1 (copySide s e.raw) = true)
include hside

theorem copyIn_refused (c : Nat) (hrefuse : writeRefusal s (tierLength e.raw false).1 (copySide s e.raw) = some c) : copyIn e s = e.done s c 0 := by
  simp [copyIn, hside, hrefuse]

variable (hfree : writeRefusal s (tierLength e.raw false).1 (copySide s e.raw) = none)
include hfree

theorem copyIn_matched (hmatch : chkMatch s e.k e.raw e.o.data = true) :
    let w := copyWrite s e.raw (e.o.data.take (dLength e.raw))
    copyIn e s = e.done (markStale (countCopy (runChk w.1 e.k (dBuf e.raw) (dAddr e.raw) (e.o.data.take (dLength e.raw))).2 e.k e.raw w.2)
      (masterSlots s (tierLength e.raw false).1 (copySide s e.raw)) true) sSuccess 0 := by
  simp [copyIn, hside, hfree, hmatch]

theorem copyIn_rematched (hmiss : chkMatch s e.k e.raw e.o.data = false) (hmatch : chkMatch s e.k e.raw e.o.data2 = true) :
    copyIn e s = e.done (markStale (reread e s) (masterSlots s (tierLength e.raw false).1 (copySide s e.raw)) true) sSuccess 0 := by
  simp [copyIn, reread, hside, hfree, hmiss, hmatch]

theorem copyIn_mismatched (hmiss : chkMatch s e.k e.raw e.o.data = false) (hagain : chkMatch s e.k e.raw e.o.data2 = false) :
    let u := undefinedBytes (reread e s) (tierLength e.raw false).1
    copyIn e s = e.done (raiseChk (markStale (sideWrite u.2 u.1 (copySide s e.raw))
      (masterSlots s (tierLength e.raw false).1 (copySide s e.raw)) true) e.k cfMismatch) sHostCrc 0 := by
  simp [copyIn, reread, hside, hfree, hmiss, hagain]

end

theorem copyFrame_reread (e : DescEnv) (s : State) : CopyFrame s (reread e s) := by
  have hwrite : ∀ (u : State) (bs : List Byte), CopyFrame u (copyWrite u e.raw bs).1 := fun u bs => .of_tiersOnly (sideWrite_tiersOnly u _ _)
  exact (hwrite _ _).trans ((hwrite _ _).trans ((copyFrame_runChk _ _ _ _ _).trans (copyFrame_countCopy _ _ _ _)))

/-- What a copy leaves whose second reading fails too: undefined bytes drawn once, and CHK_FLAGS.MISMATCH. -/
theorem mismatched_frame (e : DescEnv) (s : State) (n : Nat) (side : CopySide) (ns : List Nat) :
    let d := undefinedBytes (reread e s) n
    let u := raiseChk (markStale (sideWrite d.2 d.1 side) ns true) e.k cfMismatch
    u.cores = s.cores ∧ u.handle = s.handle ∧ u.draws = s.draws + 1 ∧ (getFn u e.k).chkFlags = raise s.fc (getFn s e.k).chkFlags cfMismatch := by
  intro d u
  have hread := copyFrame_reread e s
  have hspoilt : CopyFrame d.2 (markStale (sideWrite d.2 d.1 side) ns true) :=
    (CopyFrame.of_tiersOnly (sideWrite_tiersOnly _ _ _)).trans (copyFrame_markStale _ _ _)
  have hfc : (markStale (sideWrite d.2 d.1 side) ns true).fc = s.fc := hspoilt.fc.trans hread.fc
  have hflags := (hspoilt.chkFlags e.k).trans (hread.chkFlags e.k)
  refine ⟨hspoilt.cores.trans hread.cores, hspoilt.handle.trans hread.handle, hspoilt.draws.trans (congrArg (· + 1) hread.draws), ?_⟩
  simp only [u, raiseChk, getFn_updFn_same, hfc, hflags]

/-! ### COPY_OUT -/

section
variable (e : DescEnv) (s : State)

theorem copyOut_badAddr (hside : sideOk s (tierLength e.raw true).2 (tierLength e.raw true).1 (copySide s e.raw) = false) :
    copyOut e s = e.done s sBadAddr 0 := by
  simp [copyOut, hside]

variable (hside : sideOk s (tierLength e.raw true).2 (tierLength e.raw true).1 (copySide s e.raw) = true) (v : State)
include hside

/-- A read that fails ends the copy (R220). -/
theorem copyOut_failed (st : Nat)
    (hreads : copyReadsAt s (sideBlocks s (tierLength e.raw true).1 (copySide s e.raw)).1 (sideBlocks s (tierLength e.raw true).1 (copySide s e.raw)).2
      (e.o.fails.map (·.toNat)) = (some st, v)) : copyOut e s = e.done v st 0 := by
  simp [copyOut, hside, hreads]

/-- The bytes read go to the host with their check value, and their banks are held (R186, R352). -/
theorem copyOut_sent
    (hreads : copyReadsAt s (sideBlocks s (tierLength e.raw true).1 (copySide s e.raw)).1 (sideBlocks s (tierLength e.raw true).1 (copySide s e.raw)).2
      (e.o.fails.map (·.toNat)) = (none, v)) :
    let side := copySide s e.raw
    let n := (tierLength e.raw true).1
    let h := holdBanks v e.r e.id (banksRead v n side)
    let r := convertBytes (fmtOf (dFrom e.raw)) (fmtOf (dTo e.raw)) (sideRead h n side)
    let chk := runChk h e.k (dBuf e.raw) (dAddr e.raw) r.1
    let sum := if chkBytes v e.k (dBuf e.raw) dirAppend = 0 then [] else chk.1
    copyOut e s = e.done { countCopy chk.2 e.k e.raw r.2 with out := v.out ++ [.hostWrite (fnPort e.k) (e.addr 0 + dBufOff e.raw) (r.1 ++ sum)] } sSuccess 0 ∧
      (countCopy chk.2 e.k e.raw r.2).tiers = v.tiers := by
  intro side n h r chk sum
  have hheld : h = { v with slots := h.slots } := holdBanks_frame _ _ _ _
  have hout : (countCopy chk.2 e.k e.raw r.2).out = v.out := by rw [countCopy_frame, runChk_frame, hheld]
  have happend : chkBytes h e.k (dBuf e.raw) dirAppend = chkBytes v e.k (dBuf e.raw) dirAppend := by
    rw [hheld]
    rfl
  have hsum : (if chkBytes h e.k (dBuf e.raw) dirAppend != 0 then chk.1 else []) = sum := by
    simp only [happend, sum, bne_iff_ne, ite_not]
  refine ⟨?_, by rw [countCopy_frame, runChk_frame, hheld]⟩
  rw [← hout, ← hsum]
  simp only [copyOut, hside, hreads, Bool.not_true, Bool.false_eq_true, if_false]
  rfl

end

/-! ### FILL -/

theorem bytesLE_length (n x : Nat) : (bytesLE n x).length = n := by
  induction n generalizing x with
  | zero => rfl
  | succ n ih => rw [bytesLE, List.length_cons, ih]

theorem nth_bytesLE (n x i : Nat) (hi : i < n) : nth 0 (bytesLE n x) i = BitVec.ofNat 8 (x / 256 ^ i) := by
  induction n generalizing x i with
  | zero => exact absurd hi (Nat.not_lt_zero i)
  | succ n ih =>
    cases i with
    | zero => simp [bytesLE, nth]
    | succ i =>
      have htail : nth 0 (bytesLE (n + 1) x) (i + 1) = nth 0 (bytesLE n (x / 256)) i := rfl
      rw [htail, ih _ _ (Nat.lt_of_succ_lt_succ hi), Nat.div_div_eq_div_mul, Nat.pow_succ']

theorem Fmt.width_pos (f : Fmt) : 0 < f.width := by
  cases f <;> decide

/-- Byte j of a fill is byte j modulo the element's width of the element (R290). -/
theorem fillBytes_getElem? (w x n j : Nat) (hw : 0 < w) (hj : j < n) : (fillBytes w x n)[j]? = some (BitVec.ofNat 8 (x / 256 ^ (j % w))) := by
  rw [fillBytes, List.getElem?_map, List.getElem?_range hj]
  exact congrArg some (nth_bytesLE w x (j % w) (Nat.mod_lt j hw))

section
variable (e : DescEnv) (s : State)

theorem fill_badAddr (hside : sideOk s 1 (dLength e.raw) (copySide s e.raw) = false) : fill e s = e.done s sBadAddr 0 := by
  simp [fill, hside]

theorem fill_refused (hside : sideOk s 1 (dLength e.raw) (copySide s e.raw) = true) (c : Nat)
    (hrefuse : writeRefusal s (dLength e.raw) (copySide s e.raw) = some c) : fill e s = e.done s c 0 := by
  simp [fill, hside, hrefuse]

theorem fill_written (hside : sideOk s 1 (dLength e.raw) (copySide s e.raw) = true) (hfree : writeRefusal s (dLength e.raw) (copySide s e.raw) = none) :
    fill e s = e.done (markStale (sideWrite s (fillBytes (fmtOf (dTo e.raw)).width (dfld e.raw 0x18 4) (dLength e.raw)) (copySide s e.raw))
      (masterSlots s (dLength e.raw) (copySide s e.raw)) false) sSuccess 0 := by
  simp [fill, hside, hfree]

end

/-- A write of a side and the slots it makes stale change tiers and slots alone. -/
theorem markStale_sideWrite_frame (s : State) (bs : List Byte) (side : CopySide) (ns : List Nat) (load : Bool) :
    let t := markStale (sideWrite s bs side) ns load
    t = { s with tiers := t.tiers, slots := t.slots } := by
  intro t
  have hslots : t = { sideWrite s bs side with slots := t.slots } := markStale_frame _ _ _
  have htiers : sideWrite s bs side = { s with tiers := (sideWrite s bs side).tiers } := sideWrite_tiersOnly _ _ _
  rw [hslots, htiers]

/-! ### The descriptors -/

/-- COPY_IN, COPY_OUT and FILL: each check of the row in the state that takes the head, where it answers as before. -/
theorem copyDescriptors : CopyDescriptors := by
  unfold CopyDescriptors
  refine ⟨?copyIn, ?copyOut, ?fill⟩
  case copyIn =>
    intro o s k i raw rest h side t bs e w again v
    have hexec : exec (.copyIn o) s = .next (copyIn e (takenHead o s i raw rest)) := exec_of_passed rfl rfl h
    have hmasters : masterSlots (takenHead o s i raw rest) t.1 side = masterSlots s t.1 side := masterSlots_setRing _ _ _ _ _
    rw [hexec, ← hmasters]
    refine ⟨fun hbad => ?badAddr, fun hok => ⟨fun c hc => ?refused, fun hfree hmatch => ?matched, fun hfree hmiss hmatch => ?rematched,
      fun hfree hmiss hagain => ?mismatched⟩⟩
    case badAddr => rw [copyIn_badAddr e _ (sideOk_takenHead hbad), done_taken h.1]
    case refused => rw [copyIn_refused e _ (sideOk_takenHead hok) c (writeRefusal_takenHead hc), done_taken h.1]
    case matched => exact congrArg _ (copyIn_matched e _ (sideOk_takenHead hok) (writeRefusal_takenHead hfree) hmatch)
    case rematched => exact congrArg _ (copyIn_rematched e _ (sideOk_takenHead hok) (writeRefusal_takenHead hfree) hmiss hmatch)
    case mismatched =>
      refine ⟨_, congrArg _ (copyIn_mismatched e _ (sideOk_takenHead hok) (writeRefusal_takenHead hfree) hmiss hagain), ?_⟩
      exact mismatched_frame e (takenHead o s i raw rest) _ _ _
  case copyOut =>
    intro o s k i raw rest h side t e b
    have hexec : exec (.copyOut o) s = .next (copyOut e (takenHead o s i raw rest)) := exec_of_passed rfl rfl h
    have hblocks : sideBlocks (takenHead o s i raw rest) t.1 side = b := sideBlocks_setRing _ _ _ _ _
    rw [hexec, ← hblocks]
    refine ⟨fun hbad => ?badAddr, fun hok c v hreads => ⟨fun st hc => ?failed, fun hc => ?sent⟩⟩
    case badAddr => rw [copyOut_badAddr e _ (sideOk_takenHead hbad), done_taken h.1]
    case failed =>
      subst hc
      exact congrArg _ (copyOut_failed e _ (sideOk_takenHead hok) v st hreads)
    case sent =>
      subst hc
      obtain ⟨hsent, htiers⟩ := copyOut_sent e _ (sideOk_takenHead hok) v hreads
      exact ⟨_, congrArg _ hsent, rfl, htiers⟩
  case fill =>
    intro o s k i raw rest h n side bs
    have hexec : exec (.descriptorFill o) s = .next (fill (headEnv o s k raw (fillPlan k raw s)) (takenHead o s i raw rest)) :=
      exec_of_passed rfl rfl h
    rw [hexec]
    refine ⟨fun hbad => ?badAddr, fun hok => ⟨fun c hc => ?refused, fun hfree => ?written⟩⟩
    case badAddr => rw [fill_badAddr _ _ (sideOk_takenHead hbad), done_taken h.1]
    case refused => rw [fill_refused _ _ (sideOk_takenHead hok) c (writeRefusal_takenHead hc), done_taken h.1]
    case written =>
      have hended : fill (headEnv o s k raw (fillPlan k raw s)) (takenHead o s i raw rest) =
          endsHead o s i raw rest (markStale (sideWrite s bs side) (masterSlots s n side) false) sSuccess 0 := by
        rw [fill_written _ _ (sideOk_takenHead hok) (writeRefusal_takenHead hfree), ← finishDesc_taken h.1, ← markStale_setRing, ← sideWrite_setRing,
          ← masterSlots_setRing s]
        rfl
      have hlen : bs.length = n := by simp [bs, fillBytes]
      refine ⟨_, rfl, hended, ?frame, hlen, fun j hj => fillBytes_getElem? _ _ _ _ (Fmt.width_pos _) hj⟩
      case frame =>
        have hmoved := markStale_sideWrite_frame s bs side (masterSlots s n side) false
        rw [hended, endsHead_eq, hmoved]
        rfl

end Sys2Proof.Machine
end

section
/-! PROOFS. CHECKPOINT and RESTORE (R186, R292): the size of an image and what each row does once it is accepted, check by check. -/

namespace Sys2Proof.Machine

open Sys2Proof.Claims

/-! ### The size of an image -/

theorem sumNat_eq_sum (l : List Nat) : sumNat l = l.sum := List.sum_eq_foldl.symm

theorem readStream_length (s : State) (slot : Nat) (st : Stream) (off n : Nat) : (readStream s slot st off n).length = n := by simp [readStream]

theorem imageHeader_length (x : SlotSt) (slot t0 n crc : Nat) : (imageHeader x slot t0 n crc).length = 64 := by
  simp only [imageHeader, List.length_append, bytesLE_length]

/-- The body has the bytes of its parts, and the header goes before it. -/
theorem imageBody_length (v : State) (x : SlotSt) (slot t0 n : Nat) :
    ((imageParts x x.bank t0 n).flatMap (fun p => readStream v slot p.1 p.2.1 p.2.2)).length + 64 = imageSize x t0 n := by
  simp only [List.length_flatMap, readStream_length, imageSize, sumNat_eq_sum]
  omega

/-! ### CHECKPOINT -/

theorem streamBlocks_setRing (s : State) (r : Nat) (x : RingSt) (k : Nat) (st : Stream) (off n : Nat) :
    streamBlocks (setRing s r x) k st off n = streamBlocks s k st off n := by
  simp only [streamBlocks, streamAddr_setRing]

section
variable (e : DescEnv) (s : State)

variable (x : SlotSt) (hslot : getSlot s (dTarget e.raw) = x)
include hslot

theorem checkpoint_badAddr (htiles : tilesOk x e.raw = false) : checkpoint e s = e.done s sBadAddr 0 := by
  simp [checkpoint, hslot, htiles]

variable (htiles : tilesOk x e.raw = true)
include htiles

theorem checkpoint_short (hshort : dLength e.raw < imageSize x (dTile0 e.raw) (dNtiles e.raw)) :
    checkpoint e s = e.done s sShortBuf (imageSize x (dTile0 e.raw) (dNtiles e.raw)) := by
  simp [checkpoint, hslot, htiles, hshort]

variable (hroom : imageSize x (dTile0 e.raw) (dNtiles e.raw) ≤ dLength e.raw) (v : State)
include hroom

/-- A read that fails ends the image (R220). -/
theorem checkpoint_failed (st : Nat)
    (hreads : copyReadsAt s x.dom ((imageParts x x.bank (dTile0 e.raw) (dNtiles e.raw)).flatMap
      (fun p => streamBlocks s (dTarget e.raw) p.1 p.2.1 p.2.2)) (e.o.fails.map (·.toNat)) = (some st, v)) :
    checkpoint e s = e.done v st (imageSize x (dTile0 e.raw) (dNtiles e.raw)) := by
  simp [checkpoint, hslot, htiles, Nat.not_lt.mpr hroom, hreads]

theorem checkpoint_written
    (hreads : copyReadsAt s x.dom ((imageParts x x.bank (dTile0 e.raw) (dNtiles e.raw)).flatMap
      (fun p => streamBlocks s (dTarget e.raw) p.1 p.2.1 p.2.2)) (e.o.fails.map (·.toNat)) = (none, v)) :
    let n := dTarget e.raw
    let body := (imageParts x x.bank (dTile0 e.raw) (dNtiles e.raw)).flatMap (fun p => readStream v n p.1 p.2.1 p.2.2)
    let h := holdBanks v e.r e.id (if x.hostPlaced then [] else [(n, x.bank)])
    checkpoint e s = e.done { h with out := h.out ++
      [.hostWrite (fnPort e.k) (e.addr 0 + dBufOff e.raw) (imageHeader x n (dTile0 e.raw) (dNtiles e.raw) (crc64 body) ++ body)] } sSuccess
        (imageSize x (dTile0 e.raw) (dNtiles e.raw)) := by
  simp [checkpoint, hslot, htiles, Nat.not_lt.mpr hroom, hreads]

end

/-! ### RESTORE -/

/-- The state in which RESTORE has set CN and written an image's body and cleared the quantise records of its tiles. -/
def landImage (n t0 nt : Nat) (bs : List Byte) (s : State) : State :=
  let cn := fieldLE bs 0x08 8
  (List.range nt).foldl (fun u j => setRecord u n (t0 + j) 0)
    (writeParts n (imageParts (getSlot s n) (cn % 2) t0 nt) (bs.drop 64)
      (updSlot s n (fun y => { y with cn := cn, wcStale := y.wcStale || !y.hostPlaced, noMaster := false })))

theorem landImage_setRing (n t0 nt : Nat) (bs : List Byte) (s : State) (r : Nat) (x : RingSt) :
    landImage n t0 nt bs (setRing s r x) = setRing (landImage n t0 nt bs s) r x := by
  have hparts := writeParts_setRing n (imageParts (getSlot s n) (fieldLE bs 0x08 8 % 2) t0 nt) (bs.drop 64)
    (updSlot s n (fun y => { y with cn := fieldLE bs 0x08 8, wcStale := y.wcStale || !y.hostPlaced, noMaster := false })) r x
  exact (congrArg ((List.range nt).foldl _) hparts).trans (foldl_setRing _ r x (fun _ _ => setRecord_setRing _ _ _ _ _ _) _ _)

/-- Beside the tiers RESTORE changes its slot. -/
theorem landImage_tiersOnly (n t0 nt : Nat) (bs : List Byte) (s : State) :
    TiersOnly (updSlot s n (fun y => { y with cn := fieldLE bs 0x08 8, wcStale := y.wcStale || !y.hostPlaced, noMaster := false }))
      (landImage n t0 nt bs s) :=
  (writeParts_tiersOnly _ _ _ _).trans (foldl_tiersOnly _ (fun _ _ => setRecord_tiersOnly _ _ _ _) _ _)

theorem getSlot_landImage (n t0 nt : Nat) (bs : List Byte) (s : State) (m : Nat) : getSlot (landImage n t0 nt bs s) m =
    getSlot (updSlot s n (fun y => { y with cn := fieldLE bs 0x08 8, wcStale := y.wcStale || !y.hostPlaced, noMaster := false })) m := by
  rw [landImage_tiersOnly]
  rfl

section
variable (e : DescEnv) (s : State)

variable (x : SlotSt) (hslot : getSlot s (dTarget e.raw) = x)
include hslot

theorem restore_badAddr (htiles : tilesOk x e.raw = false) : restore e s = e.done s sBadAddr 0 := by
  simp [restore, hslot, htiles]

variable (htiles : tilesOk x e.raw = true)
include htiles

theorem restore_busy (hrun : slotRunning s (dTarget e.raw) = true) : restore e s = e.done s sSlotBusy 0 := by
  simp [restore, hslot, htiles, hrun]

variable (hidle : slotRunning s (dTarget e.raw) = false)
include hidle

theorem restore_badImage (himage : restoreOk x e.raw e.o.data = false) : restore e s = e.done s sBadImage 0 := by
  simp [restore, hslot, htiles, hidle, himage]

theorem restore_landed (himage : restoreOk x e.raw e.o.data = true) :
    restore e s = e.done (landImage (dTarget e.raw) (dTile0 e.raw) (dNtiles e.raw) e.o.data s) sSuccess 0 := by
  simp [restore, landImage, hslot, htiles, hidle, himage]

end

/-! ### The descriptors -/

/-- CHECKPOINT and RESTORE: each check of the row in the state that takes the head, where it answers as before. -/
theorem imageDescriptors : ImageDescriptors := by
  unfold ImageDescriptors
  refine ⟨?checkpoint, ?restore⟩
  case checkpoint =>
    intro o s k i raw rest h n x e ps size
    have hexec : exec (.checkpoint o) s = .next (checkpoint e (takenHead o s i raw rest)) := exec_of_passed rfl rfl h
    have hblocks : ps.flatMap (fun p => streamBlocks (takenHead o s i raw rest) n p.1 p.2.1 p.2.2) =
        ps.flatMap (fun p => streamBlocks s n p.1 p.2.1 p.2.2) := by simp only [takenHead_eq, streamBlocks_setRing]
    rw [hexec, ← hblocks]
    refine ⟨fun htiles => ?badAddr, fun htiles hshort => ?short, fun htiles hroom c v hreads => ⟨fun st hc => ?failed, fun hc => ?written⟩⟩
    case badAddr => rw [checkpoint_badAddr e (takenHead o s i raw rest) x rfl htiles, done_taken h.1]
    case short =>
      rw [checkpoint_short e (takenHead o s i raw rest) x rfl htiles hshort, done_taken h.1]
      rfl
    case failed =>
      subst hc
      exact congrArg _ (checkpoint_failed e (takenHead o s i raw rest) x rfl htiles hroom v st hreads)
    case written =>
      subst hc
      exact ⟨congrArg _ (checkpoint_written e (takenHead o s i raw rest) x rfl htiles hroom v hreads), imageHeader_length _ _ _ _ _, imageBody_length v x n _ _⟩
  case restore =>
    intro o s k i raw rest h n x cn
    let e := headEnv o s k raw (restorePlan o k raw s)
    have hexec : exec (.restore o) s = .next (restore e (takenHead o s i raw rest)) := exec_of_passed rfl rfl h
    rw [hexec]
    refine ⟨fun htiles => ?badAddr, fun htiles hrun => ?busy, fun htiles hidle himage => ?badImage, fun htiles hidle himage => ?landed⟩
    case badAddr => rw [restore_badAddr e (takenHead o s i raw rest) x rfl htiles, done_taken h.1]
    case busy => rw [restore_busy e (takenHead o s i raw rest) x rfl htiles hrun, done_taken h.1]
    case badImage => rw [restore_badImage e (takenHead o s i raw rest) x rfl htiles hidle himage, done_taken h.1]
    case landed =>
      have hrest : restore e (takenHead o s i raw rest) = _ := restore_landed e (takenHead o s i raw rest) x rfl htiles hidle himage
      have hended : restore e (takenHead o s i raw rest) =
          endsHead o s i raw rest (landImage n (dTile0 raw) (dNtiles raw) o.data s) sSuccess 0 := by
        rw [hrest, ← finishDesc_taken h.1, ← landImage_setRing]
        rfl
      have hland := landImage_tiersOnly n (dTile0 raw) (dNtiles raw) o.data s
      refine ⟨_, rfl, ?frame, ?tiers, ?slot, ?others, ?ring⟩
      case frame =>
        rw [hended, endsHead_eq, hland]
        rfl
      case tiers =>
        rw [hrest]
        rfl
      all_goals rw [hended, endsHead_eq]
      case slot => rw [getSlot_setRing, getSlot_landImage, getSlot_updSlot_same]
      case others =>
        intro m hm
        rw [getSlot_setRing, getSlot_landImage, getSlot_updSlot_other _ _ _ _ hm]
      case ring => rw [getRing_setRing_same, endsHead_eq, getRing_setRing_same]

end Sys2Proof.Machine

open Sys2Proof.Machine

/-- Settles O33: the three rows of copies and the two of images, each by its checks in order. -/
theorem copiesAndImages : Obligations.CopiesAndImages := ⟨copyDescriptors, imageDescriptors⟩
end

section
/-! PROOFS. The ENG instruction (R50, R55, R72 to R74, R93, R118): a tile operation, its wait for a running value, and the forms that are refused. -/

namespace Sys2Proof.Machine

open Sys2Proof.Claims

/-! ### Tokens that leave a core, and the stalled-fc count (R144, R328) -/

/-- Whether a route is a relay route is a matter of the slots and of the context's own slot alone. -/
theorem routeRelay_of_noRelay {s t : State} {x y : Ctx} {c r : Nat} (h : NoRelay s x c r) (hslots : t.slots = s.slots) (hslot : y.slot = x.slot) :
    routeRelay t y c r = none := by
  unfold NoRelay getSlot at h
  unfold routeRelay getSlot
  rw [hslots, hslot]
  cases hx : x.slot with
  | none => rfl
  | some n =>
    simp only [hx, Option.bind_some] at h ⊢
    cases hpat : (mget {} s.slots n).pattern with
    | none => rfl
    | some pat =>
      have hentry : relayOf pat c r = none := by simpa [hpat] using h
      simp [hentry]

/-- Where a route is no relay route, tokens reach the fabric in order. -/
theorem emitTokens_fabric {s : State} {x : Ctx} {c r : Nat} (ts : List Token) (h : routeRelay s x c r = none) :
    emitTokens c r x s ts = { s with out := s.out ++ ts.map .token } := by
  induction ts generalizing s with
  | nil => simp [emitTokens]
  | cons t ts ih =>
    have hhead : emitToken c r x s t = { s with out := s.out ++ [.token t] } := by simp [emitToken, h]
    have hnext : routeRelay { s with out := s.out ++ [.token t] } x c r = none := h
    calc emitTokens c r x s (t :: ts) = emitTokens c r x (emitToken c r x s t) ts := rfl
      _ = { s with out := s.out ++ (t :: ts).map .token } := by
        rw [hhead, ih hnext]
        simp

/-- A token that moves changes partitions alone. -/
theorem tokenMoved_frame (s : State) (c : Nat) : tokenMoved s c = { s with parts := (tokenMoved s c).parts } := by
  unfold tokenMoved
  split <;> rfl

theorem getPart_tokenMoved (s : State) (c p : Nat) : getPart (tokenMoved s c) p =
    if partOfCluster s (coreCluster c) = some p then { getPart s p with stalled := 0 } else getPart s p := by
  unfold tokenMoved
  cases hpart : partOfCluster s (coreCluster c) with
  | none => rfl
  | some k =>
    by_cases hp : p = k
    · simp [hp]
    · simp [getPart_setPart_other _ _ _ _ hp, Ne.symm hp]

/-! ### What a tile operation leaves, part by part -/

/-- The accumulator slot is a pair (R71). -/
def slotPair (i : Issue) (o : EngOp) : Bool := i.ctx.slotKind o.eng.toNat o.accSlot.toNat == 2

/-- The physical slot of the A half. -/
def physA (i : Issue) (o : EngOp) : Nat := mget 0 i.ctx.accPhys (16 * o.eng.toNat + o.accSlot.toNat) - 1

/-- The physical slot of the C half of a pair. -/
def physC (i : Issue) (o : EngOp) : Nat := mget 0 i.ctx.accPhys (64 + 16 * o.eng.toNat + o.accSlot.toNat) - 1

/-- The final tallies of a tile. -/
def tallies (i : Issue) (o : EngOp) : List Accum :=
  engResult i o (slotPair i o) (startElem i o (slotPair i o) (physA i o) (physC i o))

/-- The tile coordinates of block 0 of a descriptor. -/
def firstTile (i : Issue) (d : BitVec 6) : Nat × Nat := tileCoord (i.ctx.desc d.toNat) (i.ctx.posOf d.toNat) 0

/-- The SAT events of a tile. -/
def tileEvents (i : Issue) (o : EngOp) : Conv4 :=
  { sat := engSats (readRows i.core (i.ctx.desc o.asrc.toNat) (firstTile i o.asrc))
      (readCols i.core (i.ctx.desc o.wsrc.toNat) (firstTile i o.wsrc)) (tallies i o) }

/-- One half of the slot as a token on the operation's route. -/
def slotToken (i : Issue) (o : EngOp) (kind ahead : Nat) (half : Accum → Nat) : Token :=
  routeToken i o.core.toNat o.odst.toNat kind (validRows (i.ctx.desc o.asrc.toNat) i.core.par (firstTile i o.asrc) - 1)
    (validCols (i.ctx.desc o.wsrc.toNat) i.core.par (firstTile i o.wsrc) - 1) (firstTile i o.asrc).1 (firstTile i o.wsrc).2 ahead
    ((tallies i o).map half)

/-- The tokens of an ACC_OUT (R74, R118). -/
def tileTokens (i : Issue) (o : EngOp) : List Token :=
  if o.accOut = true then slotToken i o 1 0 (·.a) :: (if slotPair i o = true then [slotToken i o 2 1 (·.c)] else []) else []

/-- The context with both operands moved on by the blocks taken. -/
def operandsMoved (i : Issue) (o : EngOp) : Ctx :=
  (i.ctx.useDesc i.core.par o.asrc.toNat (o.kblk.toNat + 1)).useDesc i.core.par o.wsrc.toNat (o.kblk.toNat + 1)

/-- The context after a tile operation: its events are counted (R36), and its tokens take the next SEQ of their route (R120). -/
def tileCtx (i : Issue) (o : EngOp) : Ctx :=
  let x := { operandsMoved i o with conv := i.ctx.conv.add (tileEvents i o) }
  if (tileTokens i o).isEmpty then x
  else { x with sendSeq := mset 0 i.ctx.sendSeq o.odst.toNat ((mget 0 i.ctx.sendSeq o.odst.toNat + (tileTokens i o).length) % 32) }

theorem tileCtx_eq (i : Issue) (o : EngOp) : tileCtx i o =
    { operandsMoved i o with
      conv := i.ctx.conv.add (tileEvents i o)
      sendSeq := if o.accOut = true then
          mset 0 i.ctx.sendSeq o.odst.toNat ((mget 0 i.ctx.sendSeq o.odst.toNat + (tileTokens i o).length) % 32)
        else i.ctx.sendSeq } := by
  cases hout : o.accOut
  all_goals
    simp only [tileCtx, tileTokens, hout]
    rfl

/-- The core with the engine's times and weight banks after the operation. -/
def engTimed (i : Issue) (o : EngOp) : CoreSt :=
  { i.core with
    engs := mset {} i.core.engs o.eng.toNat (engAfter i o (physA i o)).1
    banks := (engAfter i o (physA i o)).2 }

/-- The accumulator memory with a slot's tallies. -/
def accAfter (i : Issue) (o : EngOp) : SMap Nat :=
  let acc := msetList 0 i.core.acc (accKey o.eng.toNat (physA i o) 0) ((tallies i o).map (·.a))
  if slotPair i o = true then msetList 0 acc (accKey o.eng.toNat (physC i o) 0) ((tallies i o).map (·.c)) else acc

/-- The VALID bits with the slot's own. -/
def validAfter (i : Issue) (o : EngOp) : SMap Bool :=
  let valid := mset false i.core.accValid (16 * o.eng.toNat + physA i o) true
  if slotPair i o = true then mset false valid (16 * o.eng.toNat + physC i o) true else valid

/-- The core with the tallies in the accumulator slot. -/
def slotWritten (i : Issue) (o : EngOp) : CoreSt := { engTimed i o with acc := accAfter i o, accValid := validAfter i o }

/-- A queue after a CHAIN_IN has taken its running value, one token or a pair's two. -/
def chainTaken (q : Queue) (pair : Bool) : Queue := if pair then q.pop.pop else q.pop

/-- The core after a tile operation, before its bundle ends. -/
def tileCore (i : Issue) (o : EngOp) : CoreSt :=
  if o.accInit == 2 then setQueue (slotWritten i o) o.qin.toNat (chainTaken (getQueue i.core o.qin.toNat) (slotPair i o)) else slotWritten i o

/-- The state with the core and the flags of a tile operation. -/
def tileRaised (s : State) (i : Issue) (o : EngOp) : State :=
  raiseConv (setCore s o.core.toNat (endBundle (tileCore i o) i.n (tileCtx i o))) o.core.toNat (tileEvents i o)

/-- The state after a tile operation, before its tokens leave. -/
def tileMoved (s : State) (i : Issue) (o : EngOp) : State :=
  if o.accInit == 2 then tokenMoved (tileRaised s i o) o.core.toNat else tileRaised s i o

/-! ### The outcomes of ENG -/

/-- The elements that an operation starts from, as the function of their number that `execEng` builds. -/
theorem startElem_eq (i : Issue) (o : EngOp) (pair : Bool) (ph pc : Nat) : startElem i o pair ph pc = fun k =>
    if o.accInit = 2 then
      { a := nth 0 ((chainIn i o.qin.toNat pair).getD ([], [])).1 k, c := nth 0 ((chainIn i o.qin.toNat pair).getD ([], [])).2 k }
    else if o.accInit == 1 && mget false i.core.accValid (16 * o.eng.toNat + ph) then
      { a := mget 0 i.core.acc (accKey o.eng.toNat ph k), c := if pair then mget 0 i.core.acc (accKey o.eng.toNat pc k) else 0 }
    else { a := 0 } := by
  funext k
  simp [startElem]

section
variable {o : EngOp} {s : State} {i : Issue} (hissue : Issues s o.core i)
include hissue

theorem execEng_rejected (hform : engFormOk i o = false) : exec (.eng o) s = .refused .rejectedAtLoad := by
  obtain ⟨hvalid, hsome⟩ := hissue
  delta exec
  simp only [execEng, atCore_issued _ _ _ _ hvalid hsome, hform]
  rfl

/-- A head token of another KIND is discarded as a sequence error (R118, R120; log entry 118). -/
theorem execEng_badHead (hform : engFormOk i o = true) (hact : i.ctx.active o.pinv o.preg.toNat 0 = true) (hchain : o.accInit = 2)
    (hbad : chainBadHead i o.qin.toNat (slotPair i o) = true) :
    exec (.eng o) s = .next (tokenMoved (setCore (coreSeqFault (seqError s o.core.toNat) o.core.toNat) o.core.toNat
        (tickCore (setQueue i.core o.qin.toNat (getQueue i.core o.qin.toNat).pop) 1)) o.core.toNat) := by
  obtain ⟨hvalid, hsome⟩ := hissue
  unfold slotPair at hbad
  delta exec
  simp only [execEng, atCore_issued _ _ _ _ hvalid hsome, hform, hact, hchain, hbad]
  rfl

/-- Without its running value the sequencer stops (R74, R91; log entry 28). -/
theorem execEng_waits (hform : engFormOk i o = true) (hact : i.ctx.active o.pinv o.preg.toNat 0 = true) (hchain : o.accInit = 2)
    (hgood : chainBadHead i o.qin.toNat (slotPair i o) = false) (hnone : chainIn i o.qin.toNat (slotPair i o) = none) :
    exec (.eng o) s = .next (setCore s o.core.toNat (stopAt i.core (.chainWait o.qin.toNat))) := by
  obtain ⟨hvalid, hsome⟩ := hissue
  unfold slotPair at hgood hnone
  delta exec
  simp only [execEng, atCore_issued _ _ _ _ hvalid hsome, hform, hact, hchain, hgood, hnone]
  rfl

/-- With its predicate 1 and, for a CHAIN_IN, its running value at the head of the queue, the operation runs. -/
theorem execEng_tile (hform : engFormOk i o = true) (hact : i.ctx.active o.pinv o.preg.toNat 0 = true)
    (hrun : o.accInit = 2 → chainBadHead i o.qin.toNat (slotPair i o) = false ∧ (chainIn i o.qin.toNat (slotPair i o)).isSome = true) :
    exec (.eng o) s = .next (emitTokens o.core.toNat o.odst.toNat (tileCtx i o) (tileMoved s i o) (tileTokens i o)) := by
  obtain ⟨hvalid, hsome⟩ := hissue
  have hgood : ((o.accInit == 2) && chainBadHead i o.qin.toNat (slotPair i o)) = false := by simpa using fun h => (hrun h).1
  have hhere : ((o.accInit == 2) && (chainIn i o.qin.toNat (slotPair i o)).isNone) = false := by simpa using fun h => (hrun h).2
  unfold slotPair at hgood hhere
  delta exec
  simp only [execEng, atCore_issued _ _ _ _ hvalid hsome, hform, hact, hgood, hhere, Bool.and_true, ← startElem_eq]
  rfl

/-- With its predicate 0 the operation takes its time alone, and no token (R93; log entry 27). -/
theorem execEng_off (hform : engFormOk i o = true) (hoff : i.ctx.active o.pinv o.preg.toNat 0 = false) :
    exec (.eng o) s = .next (setCore s o.core.toNat (endBundle (engTimed i o) i.n { operandsMoved i o with conv := i.ctx.conv.add {} })) := by
  obtain ⟨hvalid, hsome⟩ := hissue
  delta exec
  simp only [execEng, atCore_issued _ _ _ _ hvalid hsome, hform, hoff, Bool.and_false]
  rfl

end

/-! ### The accumulator slots after a tile -/

@[simp] theorem tallies_length (i : Issue) (o : EngOp) : (tallies i o).length = 1024 := by simp [tallies, engResult]

/-- A slot's keys hold the tallies written from its first key on. -/
theorem mget_accKey_written (m : SMap Nat) (e slot : Nat) (res : List Accum) (half : Accum → Nat) (k : Nat) (hk : k < res.length) :
    mget 0 (msetList 0 m (accKey e slot 0) (res.map half)) (accKey e slot k) = half (nth { a := 0 } res k) := by
  have hread := mget_msetList_inside 0 (res.map half) m (accKey e slot 0) k (by simpa using hk)
  simpa [accKey, nth, hk] using hread

/-- The keys of another slot keep what they hold. -/
theorem mget_acc_otherSlot (m : SMap Nat) (e slot z : Nat) (vs : List Nat) (k : Nat) (hlen : vs.length = 1024) (hk : k < 1024)
    (hz : z ≠ 16 * e + slot) : mget 0 (msetList 0 m (accKey e slot 0) vs) (1024 * z + k) = mget 0 m (1024 * z + k) := by
  refine mget_msetList_outside _ _ _ _ _ ?_
  unfold accKey
  omega

theorem accAfter_plain {i : Issue} {o : EngOp} (hpair : slotPair i o = false) {k : Nat} (hk : k < 1024) :
    mget 0 (accAfter i o) (accKey o.eng.toNat (physA i o) k) = (nth { a := 0 } (tallies i o) k).a := by
  simp only [accAfter, hpair, Bool.false_eq_true, if_false]
  exact mget_accKey_written _ _ _ _ (·.a) _ (by simpa using hk)

theorem accAfter_pair {i : Issue} {o : EngOp} (hpair : slotPair i o = true) (hapart : physA i o ≠ physC i o) {k : Nat} (hk : k < 1024) :
    mget 0 (accAfter i o) (accKey o.eng.toNat (physA i o) k) = (nth { a := 0 } (tallies i o) k).a ∧
    mget 0 (accAfter i o) (accKey o.eng.toNat (physC i o) k) = (nth { a := 0 } (tallies i o) k).c := by
  simp only [accAfter, hpair, if_true]
  refine ⟨?_, mget_accKey_written _ _ _ _ (·.c) _ (by simpa using hk)⟩
  have hkept := mget_acc_otherSlot (msetList 0 i.core.acc (accKey o.eng.toNat (physA i o) 0) ((tallies i o).map (·.a))) o.eng.toNat (physC i o)
    (16 * o.eng.toNat + physA i o) ((tallies i o).map (·.c)) k (by simp) hk (by omega)
  exact hkept.trans (mget_accKey_written _ _ _ _ (·.a) _ (by simpa using hk))

theorem accAfter_other {i : Issue} {o : EngOp} {z k : Nat} (ha : z ≠ 16 * o.eng.toNat + physA i o)
    (hc : slotPair i o = true → z ≠ 16 * o.eng.toNat + physC i o) (hk : k < 1024) :
    mget 0 (accAfter i o) (1024 * z + k) = mget 0 i.core.acc (1024 * z + k) := by
  unfold accAfter
  split
  next hpair => rw [mget_acc_otherSlot _ _ _ _ _ _ (by simp) hk (hc hpair), mget_acc_otherSlot _ _ _ _ _ _ (by simp) hk ha]
  next => exact mget_acc_otherSlot _ _ _ _ _ _ (by simp) hk ha

/-- The slot becomes valid (R73), and so does the C half of a pair. -/
theorem validAfter_slot (i : Issue) (o : EngOp) : mget false (validAfter i o) (16 * o.eng.toNat + physA i o) = true ∧
    (slotPair i o = true → mget false (validAfter i o) (16 * o.eng.toNat + physC i o) = true) := by
  unfold validAfter
  refine ⟨?_, fun hpair => by simp [hpair]⟩
  split
  next =>
    by_cases hsame : physA i o = physC i o
    · simp [hsame]
    · rw [mget_mset_other _ _ _ _ _ (by omega), mget_mset_same]
  next => exact mget_mset_same _ _ _ _

theorem validAfter_other {i : Issue} {o : EngOp} {z : Nat} (ha : z ≠ 16 * o.eng.toNat + physA i o)
    (hc : slotPair i o = true → z ≠ 16 * o.eng.toNat + physC i o) : mget false (validAfter i o) z = mget false i.core.accValid z := by
  unfold validAfter
  split
  next hpair => rw [mget_mset_other _ _ _ _ _ (hc hpair), mget_mset_other _ _ _ _ _ ha]
  next => exact mget_mset_other _ _ _ _ _ ha

/-! ### The core and the state after a tile -/

theorem tileCore_eq (i : Issue) (o : EngOp) : tileCore i o = { i.core with
    acc := accAfter i o, accValid := validAfter i o, queues := (tileCore i o).queues,
    engs := mset {} i.core.engs o.eng.toNat (engAfter i o (physA i o)).1, banks := (engAfter i o (physA i o)).2 } := by
  unfold tileCore
  split <;> rfl

@[simp] theorem tileCore_acc (i : Issue) (o : EngOp) : (tileCore i o).acc = accAfter i o := by rw [tileCore_eq]

@[simp] theorem tileCore_accValid (i : Issue) (o : EngOp) : (tileCore i o).accValid = validAfter i o := by rw [tileCore_eq]

theorem tileCore_queues_unchained {i : Issue} {o : EngOp} (h : o.accInit ≠ 2) : (tileCore i o).queues = i.core.queues := by
  simp only [tileCore, beq_iff_eq, h, if_false]
  rfl

/-- A CHAIN_IN takes its running value from its own queue and leaves the others. -/
theorem getQueue_tileCore_chained {i : Issue} {o : EngOp} (h : o.accInit = 2) (p : Nat) : getQueue (tileCore i o) p =
    if p = o.qin.toNat then chainTaken (getQueue i.core p) (slotPair i o) else getQueue i.core p := by
  simp only [tileCore, h, beq_self_eq_true, if_true, getQueue, setQueue]
  split
  next hp => rw [hp, mget_mset_same]
  next hp => exact mget_mset_other _ _ _ _ _ hp

@[simp] theorem getCore_tokenMoved (s : State) (c d : Nat) : getCore (tokenMoved s c) d = getCore s d := by
  rw [tokenMoved_frame]
  rfl

theorem getCore_tileMoved (s : State) (i : Issue) (o : EngOp) (d : Nat) :
    getCore (tileMoved s i o) d = getCore (setCore s o.core.toNat (endBundle (tileCore i o) i.n (tileCtx i o))) d := by
  unfold tileMoved tileRaised
  split <;> simp

theorem raiseConv_setCore_frame (s : State) (c u : Nat) (co : CoreSt) (e : Conv4) : raiseConv (setCore s c co) u e = { s with
    cores := (raiseConv (setCore s c co) u e).cores, convFlags := (raiseConv (setCore s c co) u e).convFlags,
    convUnits := (raiseConv (setCore s c co) u e).convUnits } := by
  unfold raiseConv
  split <;> rfl

theorem tileRaised_frame (s : State) (i : Issue) (o : EngOp) : tileRaised s i o = { s with
    cores := (tileRaised s i o).cores, convFlags := (tileRaised s i o).convFlags, convUnits := (tileRaised s i o).convUnits } :=
  raiseConv_setCore_frame _ _ _ _ _

@[simp] theorem tileRaised_parts (s : State) (i : Issue) (o : EngOp) : (tileRaised s i o).parts = s.parts := by rw [tileRaised_frame]

theorem getPart_tileRaised (s : State) (i : Issue) (o : EngOp) (p : Nat) : getPart (tileRaised s i o) p = getPart s p := by
  rw [getPart, tileRaised_parts, getPart]

theorem partOfCluster_tileRaised (s : State) (i : Issue) (o : EngOp) (k : Nat) : partOfCluster (tileRaised s i o) k = partOfCluster s k := by
  rw [partOfCluster, tileRaised_parts, partOfCluster]

/-- A tile operation changes its core, the conversion flags and, where a running value leaves a queue, a stalled-fc count. -/
theorem tileMoved_frame (s : State) (i : Issue) (o : EngOp) : tileMoved s i o = { s with
    cores := (tileMoved s i o).cores, convFlags := (tileMoved s i o).convFlags, convUnits := (tileMoved s i o).convUnits,
    parts := (tileMoved s i o).parts } := by
  have hraised := tileRaised_frame s i o
  unfold tileMoved
  generalize tileRaised s i o = v at hraised ⊢
  rw [hraised]
  split
  · unfold tokenMoved
    split <;> rfl
  · rfl

/-- The stalled-fc count starts again for a CHAIN_IN alone (R144). -/
theorem coreFlagsAndStall_tileMoved (s : State) (i : Issue) (o : EngOp) :
    CoreFlagsAndStall s (tileMoved s i o) o.core.toNat (o.accInit = 2) := by
  refine ⟨tileMoved_frame s i o, fun d hd => ?others, fun hplain => ?still, fun p hchain => ?moved⟩
  case others => rw [getCore_tileMoved, getCore_setCore_other _ _ _ _ hd]
  case still => simp only [tileMoved, beq_iff_eq, hplain, if_false, tileRaised_parts]
  case moved =>
    simp only [tileMoved, hchain, beq_self_eq_true, if_true, getPart_tokenMoved]
    rw [partOfCluster_tileRaised, getPart_tileRaised]

theorem raises_setCore (s : State) (c : Nat) (co : CoreSt) (e : Conv4) : Raises s (raiseConv (setCore s c co) c e) c e := by
  unfold Raises raiseConv
  split <;> exact ⟨rfl, rfl⟩

theorem raises_tokenMoved {s t : State} {u : Nat} {ev : Conv4} (c : Nat) (h : Raises s t u ev) : Raises s (tokenMoved t c) u ev := by
  rw [tokenMoved_frame]
  exact h

theorem raises_tileMoved (s : State) (i : Issue) (o : EngOp) : Raises s (tileMoved s i o) o.core.toNat (tileEvents i o) := by
  have hraised : Raises s (tileRaised s i o) o.core.toNat (tileEvents i o) := raises_setCore _ _ _ _
  unfold tileMoved
  split
  · exact raises_tokenMoved _ hraised
  · exact hraised

/-- Tokens of a tile reach the fabric where the route is no relay route: the operation leaves the slots of the package alone. -/
theorem emitTokens_tileMoved {s : State} {i : Issue} {o : EngOp} (h : NoRelay s i.ctx o.core.toNat o.odst.toNat) :
    emitTokens o.core.toNat o.odst.toNat (tileCtx i o) (tileMoved s i o) (tileTokens i o) =
      { tileMoved s i o with out := s.out ++ (tileTokens i o).map .token } := by
  have hslots : (tileMoved s i o).slots = s.slots := by rw [tileMoved_frame]
  have hout : (tileMoved s i o).out = s.out := by rw [tileMoved_frame]
  have hslot : (tileCtx i o).slot = i.ctx.slot := by
    rw [tileCtx_eq]
    rfl
  rw [emitTokens_fabric _ (routeRelay_of_noRelay h hslots hslot), hout]

/-! ### The statements -/

/-- The slot, the queues and the rest of the core by their own lemmas; with the predicate 0 the operation takes its time alone. -/
theorem engineTile : Claims.EngineTile := by
  unfold Claims.EngineTile
  refine ⟨fun o s i hissue hform hact => ?tile, fun o s i hissue hform hoff => execEng_off hissue hform hoff⟩
  intro c e q r pair ph pc res a w ta tw ev tok toks moved x hrun
  have hx : x = tileCtx i o := (tileCtx_eq i o).symm
  refine ⟨_, tileMoved s i o, execEng_tile hissue hform hact hrun, by rw [hx]; rfl, fun _ hroute => emitTokens_tileMoved hroute,
    coreFlagsAndStall_tileMoved s i o, raises_tileMoved s i o, tileCore i o, ?bundle, ?core, ?pair, ?plain, ?valid, ?validC, ?other, ?unchained, ?chained⟩
  case bundle => rw [hx, getCore_tileMoved, getCore_setCore_same]
  case core =>
    rw [tileCore_acc, tileCore_accValid]
    exact tileCore_eq i o
  case unchained => exact tileCore_queues_unchained
  case chained =>
    intro hchain
    simp only [getQueue_tileCore_chained hchain]
    exact ⟨fun p hp => if_neg hp, if_pos rfl⟩
  all_goals simp only [tileCore_acc, tileCore_accValid]
  case pair => exact fun hpair hapart k hk => accAfter_pair hpair hapart hk
  case plain => exact fun hpair k hk => accAfter_plain hpair hk
  case valid => exact (validAfter_slot i o).1
  case validC => exact (validAfter_slot i o).2
  case other => exact fun z k ha hc hk => ⟨accAfter_other ha hc hk, validAfter_other ha hc⟩

/-- An even core has engines 0 and 1 alone (R84). -/
theorem engFormOk_absentEngine (i : Issue) (o : EngOp) (heven : coreEven o.core.toNat = true) (habsent : 2 ≤ o.eng.toNat) : engFormOk i o = false := by
  simp [engFormOk, heven, Nat.not_lt.mpr habsent]

theorem engineChainWaits : Claims.EngineChainWaits := by
  unfold Claims.EngineChainWaits
  refine ⟨fun o s i hissue hform hact hchain => ⟨?waits, ?badHead⟩, fun o s i hissue hform => execEng_rejected hissue hform, ?absent⟩
  case waits => exact execEng_waits hissue hform hact hchain
  case badHead => exact execEng_badHead hissue hform hact hchain
  case absent =>
    intro o s hvalid heven habsent ⟨i, hsome⟩
    exact execEng_rejected ⟨hvalid, hsome⟩ (engFormOk_absentEngine i o heven habsent)

end Sys2Proof.Machine

open Sys2Proof.Machine

/-- Settles O4: each outcome of ENG is one state, and what that state holds and keeps is read off part by part. -/
theorem engineOperation : Obligations.EngineOperation := ⟨engineTile, engineChainWaits⟩
end

section
/-! PROOFS. The fault detectors and the loss of a rim die: what the strikes on the slots leave of the fault records, what each detector
answers, and which slots lose data. -/

namespace Sys2Proof.Machine

/-! ### What the work on slots, partitions and links leaves of the fault records -/

/-- What no operation of a slot, a partition or a link touches: the fc count, Handle, the rim dies out of service, TIER_FLAGS, and the fault
records but for the words that attempts have met (R373). -/
def faultView (s : State) : Nat × HandleSt × List Nat × FlagReg × FaultSt :=
  (s.fc, s.handle, s.tiers.fenced, s.tiers.tierFlags, { s.fault with words := [] })

theorem foldl_faultView {β : Type} (f : State → β → State) (h : ∀ s b, faultView (f s b) = faultView s) (l : List β) (s : State) :
    faultView (l.foldl f s) = faultView s := by
  induction l generalizing s with
  | nil => rfl
  | cons b l ih => rw [List.foldl_cons, ih, h]

/-- A fold of operations that may fail. -/
theorem foldl_bind_faultView {β : Type} (f : State → β → Option State) (h : ∀ s b t, f s b = some t → faultView t = faultView s) (l : List β)
    (a : Option State) (t : State) (ht : l.foldl (fun a b => a.bind (fun s => f s b)) a = some t) : ∃ s, a = some s ∧ faultView t = faultView s := by
  induction l generalizing a with
  | nil => exact ⟨t, ht, rfl⟩
  | cons b l ih =>
    obtain ⟨u, hu, hview⟩ := ih _ ht
    obtain ⟨s, rfl, hs⟩ := Option.bind_eq_some_iff.mp hu
    exact ⟨s, rfl, hview.trans (h s b u hs)⟩

/-! #### Writes of one table -/

@[simp] theorem setCore_faultView (s : State) (c : Nat) (x : CoreSt) : faultView (setCore s c x) = faultView s := rfl
@[simp] theorem setPart_faultView (s : State) (p : Nat) (x : PartSt) : faultView (setPart s p x) = faultView s := rfl
@[simp] theorem updSlot_faultView (s : State) (n : Nat) (g : SlotSt → SlotSt) : faultView (updSlot s n g) = faultView s := rfl
@[simp] theorem updLink_faultView (s : State) (p : Nat) (g : LinkSt → LinkSt) : faultView (updLink s p g) = faultView s := rfl
@[simp] theorem finishDesc_faultView (s : State) (r id status detail : Nat) : faultView (finishDesc s r id status detail) = faultView s := rfl

theorem mapCores_faultView (s : State) (p : Nat) (f : Nat → CoreSt → CoreSt) : faultView (mapCores s p f) = faultView s :=
  foldl_faultView _ (fun s c => setCore_faultView s c _) _ _

@[simp] theorem raiseConv_faultView (s : State) (u : Nat) (e : Conv4) : faultView (raiseConv s u e) = faultView s := by
  rw [raiseConv_frame]
  rfl

/-! #### Tiers -/

theorem setPhysByte_flags (t : TierSt) (tier p o : Nat) (b : Byte) :
    (setPhysByte t tier p o b).fenced = t.fenced ∧ (setPhysByte t tier p o b).tierFlags = t.tierFlags := by
  unfold setPhysByte
  split <;> exact ⟨rfl, rfl⟩

/-- A tier state with the same fenced dies and TIER_FLAGS. -/
theorem withTiers_faultView (s : State) (t : TierSt) (h : t.fenced = s.tiers.fenced ∧ t.tierFlags = s.tiers.tierFlags) :
    faultView { s with tiers := t } = faultView s := by
  simp [faultView, h]

@[simp] theorem setTierByte_faultView (s : State) (dom a : Nat) (b : Byte) : faultView (setTierByte s dom a b) = faultView s := by
  unfold setTierByte
  dsimp only
  split
  · rfl
  · split <;> refine withTiers_faultView _ _ ?_
    · split <;> split <;> simp only [setPhysByte_flags, and_self]
    · exact setPhysByte_flags _ _ _ _ _

@[simp] theorem writeStream_faultView (slot : Nat) (st : Stream) (bs : List Byte) (s : State) (off : Nat) :
    faultView (writeStream s slot st off bs) = faultView s := by
  induction bs generalizing s off with
  | nil => rfl
  | cons b bs ih =>
    rw [writeStream, ih]
    split <;> simp

theorem unmapGranule_faultView (dom tier : Nat) (s : State) (g : Nat) : faultView (unmapGranule dom tier s g) = faultView s := by
  unfold unmapGranule
  dsimp only
  split
  · rfl
  · split <;> rfl

theorem releaseRegion_faultView (s : State) (dom : Nat) (r : Region) : faultView (releaseRegion s dom r) = faultView s :=
  foldl_faultView _ (fun s k => unmapGranule_faultView dom r.tier s (r.gidx + k)) _ _

theorem releaseWhere_faultView (s : State) (dom : Nat) (f : Region → Bool) : faultView (releaseWhere s dom f) = faultView s :=
  foldl_faultView _ (fun s r => releaseRegion_faultView s dom r) _ _

theorem retireGranule_faultView {s t : State} {tier p : Nat} {bad : List Nat} (h : retireGranule s tier p bad = some t) :
    faultView t = faultView s := by
  unfold retireGranule at h
  dsimp only at h
  split at h
  · cases h
    refine withTiers_faultView _ _ ?_
    split <;> exact ⟨rfl, rfl⟩
  · split at h
    all_goals
      obtain ⟨r, -, rfl⟩ := Option.map_eq_some_iff.mp h
      rfl

theorem retireFailed_faultView {s t : State} {slot : Nat} (h : retireFailed s slot = some t) : faultView t = faultView s := by
  obtain ⟨u, hu, hview⟩ := foldl_bind_faultView _ (fun _ _ _ hr => retireGranule_faultView hr) _ _ _ h
  cases hu
  exact hview

/-- The granules in which a slot's reads failed are retired, or the failures forgotten. -/
theorem retired_faultView (s : State) (slot : Nat) : faultView ((retireFailed s slot).getD (forgetFailed s slot)) = faultView s := by
  cases h : retireFailed s slot with
  | none => rfl
  | some t => exact retireFailed_faultView h

/-! #### Links and the torus -/

theorem recordAck_faultView (s : State) (p : Nat) : faultView (recordAck s p) = faultView s := by
  unfold recordAck
  split <;> rfl

theorem noteAck_faultView (s : State) (p : Nat) : faultView (noteAck s p) = faultView s := by
  unfold noteAck
  dsimp only
  split <;> exact recordAck_faultView s p

theorem emitBlock_faultView (s : State) (p seq : Nat) (b : Block) (spoil : Bool) (k : Nat) :
    faultView (emitBlock s p seq b spoil k) = faultView s := noteAck_faultView s p

theorem putBlock_faultView (s : State) (p seq : Nat) (b : Block) (spoil : Bool) : faultView (putBlock s p seq b spoil) = faultView s := by
  unfold putBlock
  dsimp only
  split <;> simp only [emitBlock_faultView]

theorem takeInject_faultView {s t : State} {mode target : Nat} (h : takeInject s mode target = some t) : faultView t = faultView s := by
  obtain ⟨p, -, rfl⟩ := Option.map_eq_some_iff.mp h
  rfl

theorem injectWale_faultView (s : State) (p seq : Nat) : faultView (injectWale s p seq).1 = faultView s := by
  unfold injectWale
  split
  next hOnce => exact takeInject_faultView hOnce
  split
  next hTwice =>
    have hview := takeInject_faultView hTwice
    exact hview
  · rfl

theorem sendBlock_faultView (s : State) (p : Nat) (b : Block) : faultView (sendBlock s p b) = faultView s := by
  unfold sendBlock
  rw [updLink_faultView, putBlock_faultView, injectWale_faultView]

theorem handOn_faultView {s t : State} {b : Block} {transit : Bool} (h : handOn s b transit = some t) : faultView t = faultView s := by
  unfold handOn at h
  split at h <;> cases h
  case h_2 => exact sendBlock_faultView _ _ _
  all_goals rfl

theorem drainTransit_faultView (bs : List (Nat × Block)) (s : State) (stuck : List Nat) (keep : List (Nat × Block)) :
    faultView (drainTransit s stuck bs keep) = faultView s := by
  induction bs generalizing s stuck keep with
  | nil => rfl
  | cons b bs ih =>
    rw [drainTransit]
    split
    next h => rw [ih, handOn_faultView (Option.ite_none_left_eq_some.mp h).2]
    · exact ih _ _ _

theorem drainLocal_faultView (bs : List Block) (s : State) (keep : List Block) : faultView (drainLocal s bs keep) = faultView s := by
  induction bs generalizing s keep with
  | nil => rfl
  | cons b bs ih =>
    rw [drainLocal]
    split
    next h => rw [ih, handOn_faultView h]
    · exact ih _ _

theorem fillGaps_faultView (s0 s : State) : faultView (fillGaps s0 s) = faultView s := by
  refine foldl_faultView _ (fun s p => ?_) _ _
  dsimp only
  split
  · exact putBlock_faultView _ _ _ _ _
  · rfl

theorem injectBlock_faultView (s : State) (b : Block) : faultView (injectBlock s b) = faultView s := by
  unfold injectBlock drainAll
  dsimp only
  rw [fillGaps_faultView, drainLocal_faultView, foldl_faultView _ (fun s p => updLink_faultView s p _), drainTransit_faultView]
  rfl

theorem sendPacket_faultView (s : State) (slot dest kind stream : Nat) (a : PacketArgs) :
    faultView (sendPacket s slot dest kind stream a) = faultView s :=
  foldl_faultView _ injectBlock_faultView _ _

theorem sendAborts_faultView (s : State) (n : Nat) (report : Bool) (code : Nat) : faultView (sendAborts s n report code) = faultView s :=
  foldl_faultView _ (fun _ _ => foldl_faultView _ (fun _ _ => sendPacket_faultView _ _ _ _ _ _) _ _) _ _

/-! #### Partitions: switches, loads and RUNs -/

theorem settleSwitch_faultView (s : State) (p : Nat) : faultView (settleSwitch s p) = faultView s := by
  unfold settleSwitch
  dsimp only
  split
  · rfl
  split
  · split <;> rfl
  · rfl

theorem cancelSwitches_faultView (s : State) (p : Nat) : faultView (cancelSwitches s p) = faultView s :=
  foldl_faultView _ (fun s r => by split <;> rfl) _ _

theorem tryLoads_faultView (s : State) (p : Nat) : faultView (tryLoads s p) = faultView s := by
  suffices h : ∀ (ls done : List LoadSt) (s : State), faultView (proceedLoads p ls done s) = faultView s from h _ _ _
  intro ls
  induction ls with
  | nil => exact fun _ _ => rfl
  | cons l ls ih =>
    intro done s
    rw [proceedLoads]
    split
    · rw [ih, beginLoad, mapCores_faultView]
      split
      · exact mapCores_faultView _ _ _
      · rfl
    · exact ih _ _

theorem regenWc_faultView (s : State) (n : Nat) : faultView (regenWc s n) = faultView s := by
  unfold regenWc
  dsimp only
  split
  · refine foldl_faultView _ (fun s t => ?_) _ _
    rw [regenTile, updSlot_faultView, raiseConv_faultView]
    exact writeStream_faultView _ _ _ _ _
  · rfl

theorem beginRun_faultView (s : State) (p n : Nat) : faultView (beginRun s p n) = faultView s := by
  unfold beginRun
  dsimp only
  split
  · exact regenWc_faultView _ n
  split
  · exact regenWc_faultView _ n
  split
  · exact regenWc_faultView _ n
  · exact (settleSwitch_faultView _ _).trans (regenWc_faultView _ n)

theorem closeRun_faultView (s : State) (n status detail : Nat) : faultView (closeRun s n status detail) = faultView s := by
  unfold closeRun
  dsimp only
  split
  · rfl
  · split <;> rfl

theorem startRuns_faultView (s : State) (p : Nat) : faultView (startRuns s p) = faultView s := by
  suffices h : ∀ (ns : List Nat) (s : State), faultView (startFrom p ns s) = faultView s by
    unfold startRuns
    dsimp only
    split
    · exact h _ _
    · rfl
  intro ns
  induction ns with
  | nil => exact fun _ => rfl
  | cons n ns ih =>
    intro s
    rw [startFrom]
    split
    · rfl
    split
    · exact beginRun_faultView _ _ _
    · rw [ih, closeRun_faultView]

theorem endRun_faultView (s : State) (n status detail : Nat) : faultView (endRun s n status detail) = faultView s := by
  unfold endRun
  split
  · rfl
  · rw [tryLoads_faultView, startRuns_faultView, closeRun_faultView]

/-! #### Strikes on a slot -/

@[simp] theorem setStage_faultView (s : State) (n : Nat) (g : RunStage) : faultView (setStage s n g) = faultView s := rfl
@[simp] theorem chargeHeld_faultView (s : State) (n : Nat) : faultView (chargeHeld s n) = faultView s := rfl

theorem noteBroken_faultView (s : State) (n : Nat) : faultView (noteBroken s n) = faultView s := by
  unfold noteBroken
  split <;> rfl

theorem abortAttempt_faultView (s : State) (n : Nat) (report : Bool) (code : Nat) :
    faultView (abortAttempt s n report code) = faultView s := by
  unfold abortAttempt
  split
  · unfold stopAttempt
    dsimp only
    rw [cancelSwitches_faultView, setPart_faultView, setStage_faultView, chargeHeld_faultView, noteBroken_faultView, updSlot_faultView]
    split
    · exact sendAborts_faultView _ _ _ _
    · rfl
  · rfl

theorem dropReshard_faultView (s : State) (n code : Nat) : faultView (dropReshard s n code) = faultView s := by
  unfold dropReshard
  dsimp only
  split
  · rfl
  · rw [finishDesc_faultView, retired_faultView, updSlot_faultView]
    split
    · rfl
    · exact releaseWhere_faultView _ _ _

theorem failSlot_faultView (s : State) (n code : Nat) : faultView (failSlot s n code) = faultView s := by
  unfold failSlot failRun failReshard
  split
  · rw [dropReshard_faultView, sendAborts_faultView]
  split
  · rfl
  split
  · exact endRun_faultView _ _ _ _
  · exact abortAttempt_faultView _ _ _ _

theorem replaySlot_faultView (s : State) (n : Nat) : faultView (replaySlot s n) = faultView s := by
  unfold replaySlot restartMoves
  dsimp only
  split
  · split
    · rfl
    · exact sendAborts_faultView _ _ _ _
  · exact abortAttempt_faultView _ _ _ _

theorem noteRimLoss_faultView (s : State) (n : Nat) : faultView (noteRimLoss s n) = faultView s := by
  unfold noteRimLoss
  split <;> rfl

theorem replaceHbm_faultView {dom g : Nat} {s t : State} (h : replaceHbm dom s g = some t) : faultView t = faultView s := by
  unfold replaceHbm at h
  dsimp only at h
  split at h
  · cases h; rfl
  split at h
  · cases h; rfl
  · obtain ⟨r, -, rfl⟩ := Option.map_eq_some_iff.mp h
    rfl

theorem replaceLost_faultView {s t : State} {n : Nat} (h : replaceLost s n = some t) : faultView t = faultView s := by
  obtain ⟨u, hu, rfl⟩ := Option.map_eq_some_iff.mp h
  obtain ⟨v, hv, hview⟩ := foldl_bind_faultView _ (fun _ _ _ hr => replaceHbm_faultView hr) _ _ _ hu
  cases hv
  split <;> exact hview

/-- The loss of a rim die strikes a slot (R228, R387): the records of the fault stay. -/
theorem rimLossSlot_faultView (covered : Bool) (s : State) (n : Nat) : faultView (rimLossSlot covered s n) = faultView s := by
  unfold rimLossSlot
  split
  · rw [failSlot_faultView, noteRimLoss_faultView, updSlot_faultView]
  · have hstrike : faultView (if covered then replaySlot s n else failSlot (noteRimLoss s n) n sFaultUncovered) = faultView s := by
      split
      · exact replaySlot_faultView _ _
      · rw [failSlot_faultView, noteRimLoss_faultView]
    dsimp only
    split
    next h => exact (replaceLost_faultView h).trans hstrike
    · rw [failSlot_faultView, noteRimLoss_faultView, hstrike]

theorem loseMirrored_faultView (s : State) : faultView (loseMirrored s) = faultView s := by
  unfold loseMirrored
  split
  · exact foldl_faultView _ (fun s n => updSlot_faultView s n _) _ _
  · rfl

/-! ### HOP_CRC (R372) -/

section
variable {die : BitVec 6} {s : State} (hdie : die.toNat < 48) (hserves : (diePos s die.toNat).isSome = true)
include hdie hserves

theorem hopCrc_bond_twice : exec (.hopCrc (.bond die) true true) s = .next (dieFault s die.toNat dtHop) := by
  show execHopCrc (.bond die) true true s = _
  simp [execHopCrc, Nat.not_le.mpr hdie, ← Option.isSome_iff_ne_none, hserves]

theorem hopCrc_bond_once : exec (.hopCrc (.bond die) true false) s = .next (bondTransient s die.toNat) := by
  show execHopCrc (.bond die) true false s = _
  simp [execHopCrc, Nat.not_le.mpr hdie, ← Option.isSome_iff_ne_none, hserves]

end

theorem hopCrc_bond_sound {die : BitVec 6} {s : State} (again : Bool) (hdie : die.toNat < 48) (hnone : takeInject s 0 die.toNat = none) :
    exec (.hopCrc (.bond die) false again) s = .next s := by
  show execHopCrc (.bond die) false again s = _
  simp [execHopCrc, Nat.not_le.mpr hdie, hnone]

/-- The transient of a bond link is counted, and noted with its fc; below 256 within 1 s that is all. -/
theorem bondTransient_few {s : State} {die : Nat}
    (hfew : ((mget [] s.fault.bond die).filter (fun t => decide (s.fc < t + 1200000000))).length < 255) :
    bondTransient s die = { s with fault := { s.fault with
      transCnt := satAdd32 s.fault.transCnt 1, flags := raise s.fc s.fault.flags ffTransient, bond := (bondTransient s die).fault.bond } } := by
  unfold bondTransient faultTransient
  dsimp only
  rw [if_neg (by rw [List.length_append, List.length_singleton]; omega)]

/-! ### HEARTBEAT (R374) -/

theorem heartbeat_exempt {die : Byte} {s : State} (received : Bool) (hdie : die.toNat < 0x40) (hbeats : beats s die.toNat = false) :
    exec (.heartbeat die received) s = .next s := by
  show execHeartbeat die received s = _
  simp [execHeartbeat, Nat.not_le.mpr hdie, hbeats]

/-- The count of heartbeats that a die missed in a row. -/
def withMissed (s : State) (die n : Nat) : State := { s with fault := { s.fault with missed := mset 0 s.fault.missed die n } }

section
variable {die : Byte} {s : State} (hdie : die.toNat < 0x40) (hbeats : beats s die.toNat = true)
include hdie hbeats

theorem heartbeat_received : exec (.heartbeat die true) s = .next (withMissed s die.toNat 0) := by
  show execHeartbeat die true s = _
  simp [execHeartbeat, Nat.not_le.mpr hdie, hbeats, withMissed]

theorem heartbeat_missed (hfew : mget 0 s.fault.missed die.toNat ≠ 2) :
    exec (.heartbeat die false) s = .next (withMissed s die.toNat (mget 0 s.fault.missed die.toNat + 1)) := by
  show execHeartbeat die false s = _
  simp [execHeartbeat, Nat.not_le.mpr hdie, hbeats, hfew, withMissed]

theorem heartbeat_thirdMissed (htwo : mget 0 s.fault.missed die.toNat = 2) :
    exec (.heartbeat die false) s = .next (heartbeatFault (withMissed s die.toNat 0) die.toNat) := by
  show execHeartbeat die false s = _
  simp [execHeartbeat, Nat.not_le.mpr hdie, hbeats, htwo, withMissed]

end

/-! ### SELF_TEST (R375 to R377) -/

/-- A self-test of an engine that exists, on a die that serves a position, by its result and that of the test before it. -/
theorem selfTest_served {core : BitVec 12} {engine : BitVec 2} {s : State} (pass : Bool) (hcore : coreValid core.toNat = true)
    (hengine : coreEven core.toNat = true → engine.toNat < 2) (hserves : (diePos s (coreDie s core.toNat)).isSome = true) :
    let die := coreDie s core.toNat
    let k := 4 * core.toNat + engine.toNat
    let drop : State := { s with fault := { s.fault with failedTest := s.fault.failedTest.filter (· != k) } }
    exec (.selfTest core engine pass) s = .next (
      if pass = true then (if k ∈ s.fault.failedTest then faultTransient drop else s)
      else if k ∈ s.fault.failedTest then dieFault drop die dtSelfTest
      else abortParts { s with fault := { s.fault with failedTest := s.fault.failedTest ++ [k] } } (partsWith s (dieClusters s die)) false sFaultCovered) := by
  intro die k drop
  have hexists : ¬(!coreValid core.toNat || (coreEven core.toNat && decide (2 ≤ engine.toNat))) = true := by
    simp only [hcore, Bool.not_true, Bool.false_or, Bool.and_eq_true, decide_eq_true_eq, not_and, not_le]
    exact hengine
  have hpos : ¬(diePos s (coreDie s core.toNat)).isNone = true := by simpa [← Option.isSome_iff_ne_none] using hserves
  show execSelfTest core engine pass s = _
  unfold execSelfTest
  dsimp only
  rw [if_neg hexists, if_neg hpos]
  simp only [List.contains_iff_mem]
  split
  · rfl
  · split <;> rfl

/-! ### Words of an SRAM (R71, R85, R373) -/

section
variable {w : SramWord} {s : State}

theorem sram_unused (hunused : (sramPlace s w).2.2 = none) : exec (.sramUncorrectable ⟨w, false⟩) s = .next s := by
  show execSramUncorrectable ⟨w, false⟩ s = _
  simp [execSramUncorrectable, hunused]

theorem sram_used {n : Nat} (hused : (sramPlace s w).2.2 = some n) :
    exec (.sramUncorrectable ⟨w, false⟩) s = .next (sramError s (sramPlace s w).1 (sramPlace s w).2.1 n) := by
  show execSramUncorrectable ⟨w, false⟩ s = _
  simp [execSramUncorrectable, hused]

end

section
variable {s : State} {die word n : Nat}

theorem sramError_noAttempt (habort : abortable (getSlot s n) = false) : sramError s die word n = s := by
  simp [sramError, habort]

theorem sramError_first (habort : abortable (getSlot s n) = true) (hnew : (die, word, n, true) ∉ s.fault.words) :
    sramError s die word n = abortAttempt { s with fault := { s.fault with words := s.fault.words ++ [(die, word, n, false)] } } n false sFaultCovered := by
  simp [sramError, habort, hnew]

/-- Met again in the next attempt, the word is a fault of its compute die. -/
theorem sramError_again (habort : abortable (getSlot s n) = true) (hmet : (die, word, n, true) ∈ s.fault.words) (hdie : die < 48) :
    sramError s die word n =
      dieFault { s with fault := { s.fault with words := s.fault.words.filter (fun x => !(x.1 == die && x.2.1 == word)) } } die dtSram := by
  simp [sramError, habort, hmet, hdie]

end

/-! ### Rim dies, Slaths and bridges (R228, R387, R388) -/

/-- The records when a rim die goes out of service: a first one is covered, a second is not. -/
def rimRecorded (s : State) (d det : Nat) : State :=
  let cls := if s.tiers.fenced.isEmpty then fcRim else fcUncovered
  let code := if s.tiers.fenced.isEmpty then sFaultCovered else sFaultUncovered
  let u := logEvent (recordFault s cls det code (0x30 + d)) lgFence code (0x30 + d) 2 []
  raiseTier { u with tiers := { u.tiers with fenced := u.tiers.fenced ++ [d] } } tfMirrorDeg

theorem rimFault_eq {s : State} {d : Nat} (det : Nat) (hin : d ∉ s.tiers.fenced) :
    rimFault s d det = (((loseMirrored (rimRecorded s d det)).slots.filter (·.2.present)).map (·.1)).foldl
      (rimLossSlot s.tiers.fenced.isEmpty) (loseMirrored (rimRecorded s d det)) := by
  unfold rimFault rimRecorded
  rw [if_neg (by simpa using hin)]
  cases s.tiers.fenced.isEmpty <;> rfl

/-- What strikes the slots leaves the records. -/
theorem rimFault_faultView {s : State} {d : Nat} (det : Nat) (hin : d ∉ s.tiers.fenced) :
    faultView (rimFault s d det) = faultView (rimRecorded s d det) := by
  rw [rimFault_eq det hin, foldl_faultView _ (rimLossSlot_faultView _), loseMirrored_faultView]

theorem rimRecorded_tiers (s : State) (d det : Nat) : (rimRecorded s d det).tiers =
    { s.tiers with fenced := s.tiers.fenced ++ [d], tierFlags := raise s.fc s.tiers.tierFlags tfMirrorDeg } := rfl

theorem rimRecorded_fault (s : State) (d det : Nat) : (rimRecorded s d det).fault =
    (faultRecord s (if s.tiers.fenced.isEmpty then fcRim else fcUncovered) det
      (if s.tiers.fenced.isEmpty then sFaultCovered else sFaultUncovered) (0x30 + d)).fault := rfl

/-- A slot that is not mirrored and neither runs nor moves its shards has lost its data, and nothing else changes. -/
theorem rimLossSlot_idle {s : State} {n : Nat} (covered : Bool) (hmirror : (getSlot s n).mirrored = false) (hrun : (getSlot s n).run = none)
    (hmove : (getSlot s n).reshard = none) : rimLossSlot covered s n = updSlot s n (fun x => { x with lostData := true }) := by
  simp [rimLossSlot, hmirror, noteRimLoss, abortable, failSlot, reshardOpen, failRun, hrun, hmove]

/-- The only slot of a package, rewritten. -/
theorem slots_updSlot_only {s : State} {n : Nat} {x : SlotSt} (g : SlotSt → SlotSt) (hslots : s.slots = [(n, x)]) (hg : (g x).present = true) :
    (updSlot s n g).slots = [(n, g x)] := by
  have hkeep : g x ≠ {} := fun h => by simp [h] at hg
  simp [updSlot, setSlot, getSlot, hslots, mget, mset, hkeep, minsert]

/-- The loss of a rim die leaves the only slot of a package as it was, or has marked its lost data already (R226). -/
theorem loseMirrored_slots_only {s : State} {n : Nat} {x : SlotSt} (hslots : s.slots = [(n, x)]) (hpresent : x.present = true) :
    ∃ y, (loseMirrored s).slots = [(n, y)] ∧ (y = x ∨ y = { x with lostData := true }) := by
  unfold loseMirrored
  split
  · refine ⟨{ x with lostData := true }, ?_, .inr rfl⟩
    rw [hslots]
    refine (slots_updSlot_only (fun x => if x.present then { x with lostData := true } else x) hslots ?_).trans ?_ <;> simp [hpresent]
  · exact ⟨x, hslots, .inl rfl⟩

/-- The only slot of a package, not mirrored and without a RUN or a re-shard, has lost its data. -/
theorem getSlot_rimFault_only {s : State} {d n : Nat} {x : SlotSt} (det : Nat) (hin : d ∉ s.tiers.fenced) (hslots : s.slots = [(n, x)])
    (hpresent : x.present = true) (hmirror : x.mirrored = false) (hrun : x.run = none) (hmove : x.reshard = none) :
    getSlot (rimFault s d det) n = { x with lostData := true } := by
  have hrecorded : (rimRecorded s d det).slots = [(n, x)] := hslots
  obtain ⟨y, hlost, hy⟩ := loseMirrored_slots_only hrecorded hpresent
  have hget : getSlot (loseMirrored (rimRecorded s d det)) n = y := by simp [getSlot, hlost, mget]
  have hlike : y.present = true ∧ y.mirrored = false ∧ y.run = none ∧ y.reshard = none ∧
      { y with lostData := true } = { x with lostData := true } := by
    rcases hy with rfl | rfl <;> exact ⟨hpresent, hmirror, hrun, hmove, rfl⟩
  obtain ⟨hpresent, hmirror, hrun, hmove, hsame⟩ := hlike
  have hstruck : ((loseMirrored (rimRecorded s d det)).slots.filter (·.2.present)).map (·.1) = [n] := by simp [hlost, hpresent]
  rw [rimFault_eq det hin, hstruck, List.foldl_cons, List.foldl_nil,
    rimLossSlot_idle _ (by rw [hget, hmirror]) (by rw [hget, hrun]) (by rw [hget, hmove]), getSlot_updSlot_same, hget, hsame]

/-! ### The statements -/

theorem detectors : Claims.Detectors := by
  unfold Claims.Detectors
  refine ⟨?hops, ?heartbeats, ?selfTests, ?words⟩
  case hops =>
    intro die q b again s hdie hserves
    exact ⟨hopCrc_bond_twice hdie hserves, fun hfew => ⟨_, hopCrc_bond_once hdie hserves, bondTransient_few hfew⟩,
      hopCrc_bond_sound again hdie, rfl, rfl, rfl, rfl, rfl, rfl⟩
  case heartbeats =>
    intro die received s hdie
    exact ⟨heartbeat_exempt received hdie, fun hbeats =>
      ⟨heartbeat_received hdie hbeats, heartbeat_missed hdie hbeats, heartbeat_thirdMissed hdie hbeats⟩⟩
  case selfTests =>
    intro core engine s hcore hengine die k drop hserves
    have hresult (pass : Bool) := selfTest_served pass hcore hengine hserves
    refine ⟨fun hnew => ⟨(hresult true).trans ?_, (hresult false).trans ?_⟩, fun hmet => ⟨(hresult true).trans ?_, (hresult false).trans ?_⟩⟩
    · rw [if_pos rfl, if_neg hnew]
    · rw [if_neg Bool.false_ne_true, if_neg hnew]
    · rw [if_pos rfl, if_pos hmet]
    · rw [if_neg Bool.false_ne_true, if_pos hmet]
  case words =>
    intro w s p k
    refine ⟨⟨countCorrected s w, rfl, rfl, mget_mset_same _ _ _ _, fun j hj => mget_mset_other _ _ _ _ _ hj⟩, sram_unused, fun n hused => ?_⟩
    rw [sram_used hused]
    exact ⟨fun hnone => by rw [sramError_noAttempt hnone], fun habort hnew => by rw [sramError_first habort hnew],
      fun habort hmet hdie => by rw [sramError_again habort hmet hdie]⟩

theorem rimFaults : Claims.RimFaults := by
  unfold Claims.RimFaults
  refine ⟨fun rim detect s => ⟨fun hout => ?again, fun hin => ?lost⟩, fun s q det hout => if_pos hout, fun s g det hout => ?bridge⟩
  case again => exact congrArg Host.Outcome.next (if_pos (by simpa using hout))
  case bridge => exact if_pos (by simpa using hout)
  case lost =>
    have hview := rimFault_faultView detect.toNat hin
    simp only [faultView, rimRecorded_tiers, rimRecorded_fault, Prod.mk.injEq] at hview
    obtain ⟨-, -, hfenced, hflags, hfault⟩ := hview
    refine ⟨_, rfl, hfenced, hflags, congrArg FaultSt.detect hfault, congrArg FaultSt.die hfault, fun hfirst => ?first, fun hsecond => ?second,
      fun n x hslots hpresent hmirror hrun hmove => getSlot_rimFault_only detect.toNat hin hslots hpresent hmirror hrun hmove⟩
    case first =>
      have hcovered : s.tiers.fenced.isEmpty = true := List.isEmpty_iff.mpr hfirst
      exact ⟨(congrArg FaultSt.cls hfault).trans (if_pos hcovered), (congrArg FaultSt.code hfault).trans (if_pos hcovered)⟩
    case second =>
      have huncovered : ¬s.tiers.fenced.isEmpty = true := fun hempty => hsecond (List.isEmpty_iff.mp hempty)
      exact ⟨(congrArg FaultSt.cls hfault).trans (if_neg huncovered), (congrArg FaultSt.code hfault).trans (if_neg huncovered)⟩

end Sys2Proof.Machine

open Sys2Proof.Machine

/-- Settles O39: each detector by the result of its test, and the rim die by the records that no strike on a slot touches. -/
theorem detectorsAndRimFaults : Obligations.DetectorsAndRimFaults := ⟨detectors, rimFaults⟩
end

section
/-! PROOFS. What instructions of a core share: issue, a core written back, and the ac that pass at it (R88, R90). -/

namespace Sys2Proof.Machine

open Sys2Proof.Claims

/-! ### A core that issues -/

theorem atCore_issues {s : State} {c : BitVec 12} {i : Issue} (h : Issues s c i) (k : Issue → Res) : atCore s c.toNat k = k i :=
  atCore_issued _ _ _ _ h.1 h.2

theorem coreOnly_setCore (s : State) (c : Nat) (co : CoreSt) : CoreOnly s (setCore s c co) c :=
  ⟨rfl, fun _ hd => getCore_setCore_other _ _ _ _ hd⟩

/-- A core whose step has ended issues nothing (R168). -/
theorem issue_finished {s : State} {c : Nat} (h : (getCore s c).finished = true) : issue? s c = none := by
  unfold issue?
  split
  · rfl
  · dsimp only
    split
    · rfl
    · simp [h]

theorem coreLanes_pos (c : Nat) : 0 < coreLanes c := by
  unfold coreLanes
  split <;> omega

/-- A result with lanes is in flight. -/
theorem pushResult_of_ne_nil {co : CoreSt} {f : InFlight} (h : f.vals ≠ []) : pushResult co f = { co with inflight := co.inflight ++ [f] } :=
  if_neg (by simpa using h)

/-! ### Time that passes at a core (R88, R90) -/

/-- Results that reach their registers change the contexts of a core alone. -/
theorem foldl_writeResult_frame (fs : List InFlight) (co : CoreSt) :
    fs.foldl (fun co f => setCtx co f.ctx ((getCtx co f.ctx).writeResult f)) co =
      { co with ctxs := (fs.foldl (fun co f => setCtx co f.ctx ((getCtx co f.ctx).writeResult f)) co).ctxs } := by
  induction fs generalizing co with
  | nil => rfl
  | cons f fs ih =>
    rw [List.foldl_cons, ih]
    rfl

/-- An ac that passes changes the contexts, the results in flight and the count of ac. -/
theorem tickCore_frame (co : CoreSt) (k : Nat) : tickCore co k = { co with
    ac := co.ac + k, ctxs := (tickCore co k).ctxs, inflight := co.inflight.filter (fun f => decide (co.ac + k < f.due)) } := by
  unfold tickCore settle
  rw [foldl_writeResult_frame]

theorem tickCore_finished (co : CoreSt) (k : Nat) : (tickCore co k).finished = co.finished := by rw [tickCore_frame]

theorem endBundle_frame (co : CoreSt) (n : Nat) (x : Ctx) : endBundle co n x = { co with
    ac := co.ac + 1, ctxs := (endBundle co n x).ctxs, inflight := co.inflight.filter (fun f => decide (co.ac + 1 < f.due)),
    boundary := false, aDone := false, stop := none } := by
  unfold endBundle
  rw [tickCore_frame]
  rfl

end Sys2Proof.Machine
end

section
/-! PROOFS. The control rows of a core sequencer (R88, R92, R93, R128, R141, R168): NOP, LOOP, YIELD, PMARK and FOLD. -/

namespace Sys2Proof.Machine

open Sys2Proof.Claims

/-! ### Loops and fold steps -/

/-- A LOOP that is rejected at load: a body of no bundle or of more than 256, a fifth level, or an end past that of the enclosing body (R92). -/
def LoopRejected (i : Issue) (b : Nat) : Prop :=
  b = 0 ∨ 256 < b ∨ 4 ≤ i.ctx.loops.length ∨ (match i.ctx.loops with | l :: _ => decide (l.last < i.ctx.pc + b) | [] => false) = true

theorem loop_accepted {i : Issue} {b : Nat} (hpos : 0 < b) (hlen : b ≤ 256) (hdepth : i.ctx.loops.length < 4)
    (hinside : ∀ l ls, i.ctx.loops = l :: ls → i.ctx.pc + b ≤ l.last) : ¬ LoopRejected i b := by
  rintro (hempty | hlong | hdeep | hcrosses)
  · omega
  · omega
  · omega
  · cases hloops : i.ctx.loops with
    | nil => simp [hloops] at hcrosses
    | cons l ls =>
      have hlast := hinside l ls hloops
      simp [hloops] at hcrosses
      omega

/-- The body of LOOP starts, or is skipped where its count is 0 (R92). -/
def loopCtx (x : Ctx) (b n : Nat) : Ctx :=
  if n = 0 then x.advance (x.pc + b)
  else { x with pc := x.pc + 1, loops := { first := x.pc + 1, last := x.pc + b, left := n - 1 } :: x.loops }

/-- How often the body of a LOOP runs. -/
def loopCount (co : CoreSt) : LoopCount → Nat
  | .imm n => n.toNat
  | .par k => nth 0 co.par k.toNat

/-- The partition of a core. -/
def corePart (s : State) (c : Nat) : PartSt := getPart s ((partOfCluster s (coreCluster c)).getD 0)

/-- The core after FOLD, on its next fold step (R141). -/
def foldStepped (i : Issue) : CoreSt :=
  tickCore (enterFold { endBundle i.core i.n i.ctx with boundary := true } (foldNext i.core.fold i.core.foldPos)) 1

/-! ### The outcomes of the control rows -/

section
variable {core : BitVec 12} {s : State} {i : Issue} (hissue : Issues s core i)
include hissue

theorem coreNop_aHalf (hdone : i.core.aDone = false) :
    exec (.coreNop core false) s = .next (setCore s core.toNat { i.core with aDone := true }) :=
  atAHalf_issued s core _ i ⟨hissue, hdone⟩

theorem coreNop_aDone (hdone : i.core.aDone = true) : exec (.coreNop core false) s = .next s := atAHalf_done s core _ i hissue hdone

theorem coreNop_bHalf : exec (.coreNop core true) s = .next (setCore s core.toNat (endBundle i.core i.n i.ctx)) := atCore_issues hissue _

theorem loop_rejected {body : BitVec 9} (n : LoopCount) (h : LoopRejected i body.toNat) : exec (.loop core body n) s = .refused .rejectedAtLoad :=
  (atCore_issues hissue _).trans (if_pos h)

theorem loop_taken {body : BitVec 9} (n : LoopCount) (h : ¬ LoopRejected i body.toNat) : exec (.loop core body n) s =
    .next (setCore s core.toNat (tickCore { setCtx i.core i.n (loopCtx i.ctx body.toNat (loopCount i.core n)) with boundary := false, stop := none } 1)) := by
  refine (atCore_issues hissue _).trans ((if_neg h).trans ?_)
  cases n <;> rfl

theorem yield_holding {pinv : Bool} {preg : BitVec 3} (hheld : holdsToken i.core = true) : exec (.yield core pinv preg) s = .refused .rejectedAtLoad :=
  (atCore_issues hissue _).trans (if_pos hheld)

theorem pmark_holding {pinv : Bool} {preg : BitVec 3} {bundle : BitVec 12} (hheld : holdsToken i.core = true) :
    exec (.pmark core pinv preg bundle) s = .refused .rejectedAtLoad :=
  (atCore_issues hissue _).trans (if_pos hheld)

theorem fold_holding {pinv : Bool} {preg : BitVec 3} (hheld : holdsToken i.core = true) : exec (.fold core pinv preg) s = .refused .rejectedAtLoad :=
  (atCore_issues hissue _).trans (if_pos hheld)

section
variable {pinv : Bool} {preg : BitVec 3} (hfree : holdsToken i.core = false)
include hfree

theorem yield_off (hoff : i.ctx.active pinv preg.toNat 0 = false) :
    exec (.yield core pinv preg) s = .next (setCore s core.toNat (endBundle i.core i.n i.ctx)) := by
  refine (atCore_issues hissue _).trans ?_
  simp [hfree, hoff]

theorem yield_on (hon : i.ctx.active pinv preg.toNat 0 = true) :
    exec (.yield core pinv preg) s = .next (setCore s core.toNat { endBundle i.core i.n i.ctx with boundary := true }) := by
  refine (atCore_issues hissue _).trans ?_
  simp [hfree, hon]

theorem pmark_off {bundle : BitVec 12} (hoff : i.ctx.active pinv preg.toNat 0 = false) :
    exec (.pmark core pinv preg bundle) s = .next (setCore s core.toNat (endBundle i.core i.n i.ctx)) := by
  refine (atCore_issues hissue _).trans ?_
  simp [hfree, hoff]

theorem pmark_next {bundle : BitVec 12} (hon : i.ctx.active pinv preg.toNat 0 = true)
    (hmore : i.core.entry + 1 < (corePart s core.toNat).problems.length) :
    exec (.pmark core pinv preg bundle) s = .next (setCore s core.toNat (tickCore
      { setCtx i.core i.n { i.ctx with pc := bundle.toNat, loops := [], pos := [] } with
        entry := i.core.entry + 1, par := i.core.parNext, parNext := entryPar (corePart s core.toNat) (i.core.entry + 2), boundary := true, stop := none } 1)) := by
  unfold corePart at hmore
  refine (atCore_issues hissue _).trans ?_
  simp only [hfree, hon, hmore]
  rfl

theorem pmark_last {bundle : BitVec 12} (hon : i.ctx.active pinv preg.toNat 0 = true)
    (hlast : (corePart s core.toNat).problems.length ≤ i.core.entry + 1) :
    exec (.pmark core pinv preg bundle) s = .next (setCore s core.toNat (tickCore
      { setCtx i.core i.n { i.ctx with pc := bundle.toNat, loops := [] } with finished := true, boundary := true, stop := none } 1)) := by
  have hnone := Nat.not_lt.mpr hlast
  unfold corePart at hnone
  refine (atCore_issues hissue _).trans ?_
  simp only [hfree, hon, hnone]
  rfl

/-- A FOLDED core takes the FOLD bundle's ac and the switch ac, whether or not it changes its fold step (R141). -/
theorem fold_off (hoff : i.ctx.active pinv preg.toNat 0 = false) : exec (.fold core pinv preg) s = .next (setCore s core.toNat
    (if i.core.fold = [] then endBundle i.core i.n i.ctx else tickCore (endBundle i.core i.n i.ctx) 1)) := by
  have hfold : (endBundle i.core i.n i.ctx).fold = i.core.fold := by rw [endBundle_frame]
  refine (atCore_issues hissue _).trans ?_
  simp [hfree, hoff, hfold]

theorem fold_on (hon : i.ctx.active pinv preg.toNat 0 = true) : exec (.fold core pinv preg) s = .next (setCore s core.toNat
    (if i.core.fold = [] then { endBundle i.core i.n i.ctx with boundary := true } else foldStepped i)) := by
  have hfold : (endBundle i.core i.n i.ctx).fold = i.core.fold := by rw [endBundle_frame]
  have hpos : (endBundle i.core i.n i.ctx).foldPos = i.core.foldPos := by rw [endBundle_frame]
  refine (atCore_issues hissue _).trans ?_
  simp [hfree, hon, hfold, hpos, foldStepped]

end

end

theorem foldStepped_frame (i : Issue) : foldStepped i = { i.core with
    ctxs := (foldStepped i).ctxs, inflight := (foldStepped i).inflight, aDone := false, stop := none,
    ac := i.core.ac + 2, boundary := true, foldPos := foldNext i.core.fold i.core.foldPos,
    cur := some (foldCtx (nth 0 i.core.fold (foldNext i.core.fold i.core.foldPos))) } := by
  have hframe := endBundle_frame i.core i.n i.ctx
  unfold foldStepped enterFold
  generalize endBundle i.core i.n i.ctx = co at hframe ⊢
  rw [hframe, tickCore_frame]
  rfl

end Sys2Proof.Machine

open Sys2Proof.Machine

/-- Settles O9: each row is one state of its core, by its count, its predicate and what the core holds. -/
theorem sequencerControl : Obligations.SequencerControl := by
  unfold Obligations.SequencerControl
  refine ⟨fun core s i hissue => ⟨coreNop_aHalf hissue, coreNop_aDone hissue, coreNop_bHalf hissue⟩, ?loop, ?skipped, ?rejected, ?taken, ?passed, ?holding⟩
  case loop =>
    intro core body n s i hissue hpos hlen hdepth hinside
    refine ⟨_, loop_taken hissue (.imm n) (loop_accepted hpos hlen hdepth hinside), coreOnly_setCore _ _ _, ?_⟩
    have hzero : n = 0 ↔ loopCount i.core (.imm n) = 0 := BitVec.toNat_eq
    rw [getCore_setCore_same, loopCtx, if_congr hzero rfl rfl]
    rfl
  case skipped =>
    intro core body k s i hissue hpos hlen hdepth hinside hzero
    have hcount : loopCount i.core (.par k) = 0 := hzero
    rw [loop_taken hissue (.par k) (loop_accepted hpos hlen hdepth hinside), loopCtx, if_pos hcount]
  case rejected =>
    intro core body n s i hissue hbad
    exact loop_rejected hissue n (hbad.imp_right (Or.imp_right Or.inl))
  case taken =>
    intro core pinv preg bundle s i hissue hfree hon p x
    refine ⟨yield_on hissue hfree hon, fun hmore => ?next, fun hlast => ?last, fun hfold => ?step, fun hplain => ?plain⟩
    case next =>
      refine ⟨_, pmark_next hissue hfree hon hmore, coreOnly_setCore _ _ _, ?_⟩
      rw [getCore_setCore_same, tickCore_frame]
      exact ⟨rfl, rfl, rfl, (tickCore_frame _ _).symm⟩
    case last =>
      refine ⟨_, pmark_last hissue hfree hon hlast, coreOnly_setCore _ _ _, ?_⟩
      rw [getCore_setCore_same, tickCore_finished]
      exact ⟨rfl, issue_finished (by rw [getCore_setCore_same, tickCore_finished])⟩
    case step =>
      refine ⟨_, fold_on hissue hfree hon, coreOnly_setCore _ _ _, ?_⟩
      rw [if_neg hfold, getCore_setCore_same, foldStepped_frame]
      exact ⟨rfl, rfl, rfl, rfl⟩
    case plain => rw [fold_on hissue hfree hon, if_pos hplain]
  case passed =>
    intro core pinv preg bundle s i hissue hfree hoff
    refine ⟨yield_off hissue hfree hoff, pmark_off hissue hfree hoff, fun hplain => ?plain, fun hfold => ?step⟩
    case plain => rw [fold_off hissue hfree hoff, if_pos hplain]
    case step =>
      refine ⟨_, fold_off hissue hfree hoff, coreOnly_setCore _ _ _, ?_⟩
      rw [if_neg hfold, getCore_setCore_same, tickCore_frame, endBundle_frame]
      exact ⟨rfl, rfl, rfl, rfl⟩
  case holding =>
    intro core pinv preg bundle s i hissue hheld
    exact ⟨yield_holding hissue hheld, pmark_holding hissue hheld, fold_holding hissue hheld⟩
end

section
/-! PROOFS. Writes of elements into an operand store (R155, R162): which bytes they change. -/

namespace Sys2Proof.Machine

/-- `co'` differs from `co` in its operand store alone. -/
def StoreOnly (co co' : CoreSt) : Prop := co' = { co with store := co'.store }

theorem StoreOnly.trans {a b c : CoreSt} (hab : StoreOnly a b) (hbc : StoreOnly b c) : StoreOnly a c := by
  unfold StoreOnly at *
  rw [hbc, hab]

theorem StoreOnly.par {a b : CoreSt} (h : StoreOnly a b) : b.par = a.par := by rw [h]

theorem writeElem_storeOnly (co : CoreSt) (d : Nat) (t : Nat × Nat) (m j code : Nat) : StoreOnly co (writeElem co d t m j code) := by
  unfold writeElem
  dsimp only
  split <;> rfl

theorem foldl_storeOnly {β : Type} {f : CoreSt → β → CoreSt} (h : ∀ co b, StoreOnly co (f co b)) (l : List β) (co : CoreSt) :
    StoreOnly co (l.foldl f co) := by
  induction l generalizing co with
  | nil => rfl
  | cons b l ih => exact (h co b).trans (ih _)

/-- An element to be written: its row and column in the tile, and its code. -/
abbrev ElemWrite := (Nat × Nat) × Nat

/-- Elements of the tile at `t` written in order. -/
def writeElems (d : Nat) (t : Nat × Nat) (es : List ElemWrite) (co : CoreSt) : CoreSt :=
  es.foldl (fun co e => writeElem co d t e.1.1 e.1.2 e.2) co

theorem writeElems_cons (d : Nat) (t : Nat × Nat) (e : ElemWrite) (es : List ElemWrite) (co : CoreSt) :
    writeElems d t (e :: es) co = writeElems d t es (writeElem co d t e.1.1 e.1.2 e.2) := rfl

theorem writeElems_storeOnly (d : Nat) (t : Nat × Nat) (es : List ElemWrite) (co : CoreSt) : StoreOnly co (writeElems d t es co) :=
  foldl_storeOnly (fun _ _ => writeElem_storeOnly _ _ _ _ _ _) _ _

/-- Element (m, j) of the tile at `t` is one that a write reaches: of a STORE descriptor, and inside the tensor. -/
def elemLands (d : Nat) (par : List Nat) (t : Nat × Nat) (p : Nat × Nat) : Bool := dSpace d == 0 && inTensor d par t p.1 p.2

/-- Byte address of element (m, j) of the tile at `t`. -/
def tileAddr (d : Nat) (t p : Nat × Nat) : Nat := elemAddr d (32 * t.1 + p.1) (32 * t.2 + p.2)

theorem store_writeElem (co : CoreSt) (d : Nat) (t p : Nat × Nat) (code : Nat) : (writeElem co d t p.1 p.2 code).store =
    if elemLands d co.par t p = true then msetList 0 co.store (tileAddr d t p) (bytesLE (dFormat d).width code) else co.store := by
  unfold writeElem elemLands tileAddr
  dsimp only
  split
  next h => rw [if_pos (by simpa using h)]
  next h => rw [if_neg (by simpa using h)]

/-- A byte outside every element written keeps its value. -/
theorem mget_writeElems_outside {d : Nat} {t : Nat × Nat} {es : List ElemWrite} {co : CoreSt} {a : Nat}
    (h : ∀ e ∈ es, elemLands d co.par t e.1 = true → a < tileAddr d t e.1 ∨ tileAddr d t e.1 + (dFormat d).width ≤ a) :
    mget 0 (writeElems d t es co).store a = mget 0 co.store a := by
  induction es generalizing co with
  | nil => rfl
  | cons e es ih =>
    obtain ⟨hhead, htail⟩ := List.forall_mem_cons.mp h
    have hpar := (writeElem_storeOnly co d t e.1.1 e.1.2 e.2).par
    have hfirst : mget 0 (writeElem co d t e.1.1 e.1.2 e.2).store a = mget 0 co.store a := by
      rw [store_writeElem]
      split
      next hlands => exact mget_msetList_outside _ _ _ _ _ (by simpa only [bytesLE_length] using hhead hlands)
      next => rfl
    exact (ih (by rwa [hpar])).trans hfirst

theorem mgetList_congr {α : Type} {d : α} {m m' : SMap α} {i n : Nat} (h : ∀ a, i ≤ a → a < i + n → mget d m a = mget d m' a) :
    mgetList d m i n = mgetList d m' i n := by
  induction n generalizing i with
  | zero => rfl
  | succ n ih =>
    simp only [mgetList]
    rw [h i (Nat.le_refl i) (by omega), ih fun a hlo hhi => h a (by omega) (by omega)]

/-- An element written that no other element written overlaps holds its code. -/
theorem mgetList_writeElems_inside {d : Nat} {t : Nat × Nat} {es : List ElemWrite} {co : CoreSt} {e : ElemWrite} (hmem : e ∈ es)
    (hlands : elemLands d co.par t e.1 = true)
    (hapart : ∀ e' ∈ es, e' ≠ e → elemLands d co.par t e'.1 = true →
      tileAddr d t e'.1 + (dFormat d).width ≤ tileAddr d t e.1 ∨ tileAddr d t e.1 + (dFormat d).width ≤ tileAddr d t e'.1) :
    mgetList 0 (writeElems d t es co).store (tileAddr d t e.1) (dFormat d).width = bytesLE (dFormat d).width e.2 := by
  induction es generalizing co with
  | nil => simp at hmem
  | cons e₀ es ih =>
    have hpar := (writeElem_storeOnly co d t e₀.1.1 e₀.1.2 e₀.2).par
    by_cases hagain : e ∈ es
    · exact ih hagain (by rwa [hpar]) (by rw [hpar]; exact fun e' he' => hapart e' (List.mem_cons_of_mem _ he'))
    · obtain rfl : e = e₀ := (List.mem_cons.mp hmem).resolve_right hagain
      have hkept : mgetList 0 (writeElems d t es (writeElem co d t e.1.1 e.1.2 e.2)).store (tileAddr d t e.1) (dFormat d).width =
          mgetList 0 (writeElem co d t e.1.1 e.1.2 e.2).store (tileAddr d t e.1) (dFormat d).width := by
        refine mgetList_congr fun a hlo hhi => mget_writeElems_outside fun e' he' hlands' => ?_
        have hother : e' ≠ e := fun heq => hagain (heq ▸ he')
        have hdisjoint := hapart e' (List.mem_cons_of_mem _ he') hother (by rwa [hpar] at hlands')
        omega
      have hread := mgetList_msetList 0 (bytesLE (dFormat d).width e.2) co.store (tileAddr d t e.1)
      rw [bytesLE_length] at hread
      rw [writeElems_cons, hkept, store_writeElem, if_pos hlands, hread]

end Sys2Proof.Machine
end

section
/-! PROOFS. Loads and stores between a core's operand store and its registers (R93, R159, R162). -/

namespace Sys2Proof.Machine

open Sys2Proof.Claims

/-- With no injection armed for a core its reads have their own effect (R422). -/
theorem coreRead_sound {s : State} {c : Nat} (h : takeInject s 1 c = none) (k : Res) : coreRead s c k = k := by
  unfold coreRead
  split
  · rfl
  · rw [h]
    split <;> rfl

theorem loadRegister : Claims.LoadRegister := by
  intro o s i hissue hsound c d tc vals res
  have hvals : res.vals ≠ [] := by simpa [res, vals] using (coreLanes_pos c).ne'
  have hexec : exec (.loadRegister o) s = .next (setCore s c (endBundle
      (if i.ctx.active o.pinv o.preg.toNat 0 then pushResult { i.core with accessAc := i.core.accessAc + 1 } res
        else { i.core with accessAc := i.core.accessAc + 1 })
      i.n (i.ctx.useDesc i.core.par o.desc.toNat 1))) := (atCore_issues hissue _).trans (coreRead_sound hsound _)
  rw [pushResult_of_ne_nil hvals] at hexec
  refine ⟨_, hexec, coreOnly_setCore _ _ _, ?store, ?core⟩
  all_goals rw [getCore_setCore_same]
  case store =>
    rw [(endBundle_stores _ _ _).1]
    split <;> rfl
  case core => split <;> rfl

/-- The elements that a store writes: those of the lanes whose predicate bit is 1 (R93). -/
def laneWrites (o : LdstOp) (x : Ctx) (ls : List Nat) : List ElemWrite :=
  (ls.filter (fun l => x.active o.pinv o.preg.toNat l)).map (fun l => (laneElem o.row.toNat l, x.lane o.vr.toNat l))

theorem storeLanes_eq (o : LdstOp) (x : Ctx) (d : Nat) (t : Nat × Nat) (ls : List Nat) (co : CoreSt) :
    storeLanes o x d t ls co = writeElems d t (laneWrites o x ls) co := by
  induction ls generalizing co with
  | nil => rfl
  | cons l ls ih =>
    rw [storeLanes, ih]
    cases hact : x.active o.pinv o.preg.toNat l <;> simp [laneWrites, hact, writeElems]

theorem mem_laneWrites {o : LdstOp} {x : Ctx} {ls : List Nat} {e : ElemWrite} : e ∈ laneWrites o x ls ↔
    ∃ l ∈ ls, x.active o.pinv o.preg.toNat l = true ∧ (laneElem o.row.toNat l, x.lane o.vr.toNat l) = e := by
  simp [laneWrites, and_assoc]

theorem storeRegister : Claims.StoreRegister := by
  intro o s i hissue c d tc at_ writes
  let co := writeElems d tc (laneWrites o i.ctx (List.range (coreLanes c))) { i.core with accessAc := i.core.accessAc + 1 }
  have hco : StoreOnly { i.core with accessAc := i.core.accessAc + 1 } co := writeElems_storeOnly _ _ _ _
  have hexec : exec (.storeRegister o) s = .next (setCore s c (endBundle co i.n (i.ctx.useDesc co.par o.desc.toNat 1))) := by
    refine (atCore_issues hissue _).trans ?_
    simp only [storeLanes_eq]
    rfl
  have hwrites : ∀ {l}, writes l = true ↔ i.ctx.active o.pinv o.preg.toNat l = true ∧ elemLands d i.core.par tc (laneElem o.row.toNat l) = true := by
    intro l
    simp [writes, elemLands, laneElem, and_assoc]
  have hrest := endBundle_stores co i.n (i.ctx.useDesc co.par o.desc.toNat 1)
  obtain ⟨hstore, hacc, -, hqueues, -⟩ := hrest
  refine ⟨_, hexec, coreOnly_setCore _ _ _, fun a houtside => ?outside, fun l hl hwritten hapart => ?inside, ?inflight, ?acc, ?queues⟩
  all_goals rw [getCore_setCore_same]
  case outside =>
    rw [hstore]
    refine mget_writeElems_outside fun e he hlands => ?_
    obtain ⟨l, hl, hact, rfl⟩ := mem_laneWrites.mp he
    exact houtside l (List.mem_range.mp hl) (hwrites.mpr ⟨hact, hlands⟩)
  case inside =>
    rw [hstore]
    obtain ⟨hact, hlands⟩ := hwrites.mp hwritten
    refine mgetList_writeElems_inside (mem_laneWrites.mpr ⟨l, List.mem_range.mpr hl, hact, rfl⟩) hlands fun e' he' hother hlands' => ?_
    obtain ⟨m, hm, hactm, rfl⟩ := mem_laneWrites.mp he'
    have hne : m ≠ l := fun heq => hother (by rw [heq])
    exact hapart m (List.mem_range.mp hm) hne (hwrites.mpr ⟨hactm, hlands'⟩)
  case inflight =>
    rw [endBundle_frame, endBundle_frame i.core, hco]
  case acc => rw [hacc, hco]
  case queues => rw [hqueues, hco]

end Sys2Proof.Machine

open Sys2Proof.Machine

/-- Settles O10: a load puts one result in flight, and a store is the elements of its active lanes, each with its own bytes. -/
theorem loadsAndStores : Obligations.LoadsAndStores := ⟨loadRegister, storeRegister⟩
end

section
/-! PROOFS. Reductions across lanes and of predicates (R94, R97), and the special functions of even cores (R84, R103 to R105). -/

namespace Sys2Proof.Machine

open Sys2Proof.Claims

/-! ### Reductions (R94, R97) -/

/-- The root of a reduction's tree over all lanes (R97; log entry 37). -/
def reduceRoot (f : SumNode → SumNode → SumNode) (o : LaneOp) (x : Ctx) : SumNode :=
  (treeLevelsOf f (laneLog o.core.toNat) ((List.range (coreLanes o.core.toNat)).map (fun l =>
    ({ code := operandA o (x.lane o.va.toNat l), masked := x.laneMasked o.va.toNat l, sats := 0 } : SumNode)))).headD { code := 0, masked := false, sats := 0 }

/-- The SAT events of a reduction count where a lane is active. -/
def reduceEvents (f : SumNode → SumNode → SumNode) (o : LaneOp) (x : Ctx) : Conv4 :=
  { sat := if (activeLanes o x).isEmpty then 0 else (reduceRoot f o x).sats }

/-- The root goes to every active lane of VD. -/
def reduceResult (f : SumNode → SumNode → SumNode) (lat : Nat) (o : LaneOp) (i : Issue) : InFlight :=
  { due := i.core.ac + lat, ctx := i.n, pred := false, reg := o.vd.toNat,
    vals := (activeLanes o i.ctx).map (fun l => (l, (reduceRoot f o i.ctx).code, (reduceRoot f o i.ctx).masked)) }

/-- The core after a reduction: the result is in flight and its events are counted in the context. -/
def reduceCore (f : SumNode → SumNode → SumNode) (lat : Nat) (o : LaneOp) (i : Issue) : CoreSt :=
  { pushResult (setCtx i.core i.n { i.ctx with conv := i.ctx.conv.add (reduceEvents f o i.ctx) }) (reduceResult f lat o i) with aDone := true }

theorem reduceOp_wellFormed {o : LaneOp} {s : State} (lat : Nat) (f : SumNode → SumNode → SumNode) (hvalid : coreValid o.core.toNat = true)
    (hform : laneFormOk .vf o = true) : reduceOp lat o f s = atAHalf s o.core.toNat (fun i =>
      .next (setCore (raiseConv s o.core.toNat (reduceEvents f o i.ctx)) o.core.toNat (reduceCore f lat o i))) := by
  rw [reduceOp, hvalid, hform]
  rfl

theorem reduceCore_eq (f : SumNode → SumNode → SumNode) (lat : Nat) (o : LaneOp) (i : Issue) : reduceCore f lat o i =
    { setCtx i.core i.n { i.ctx with conv := i.ctx.conv.add (reduceEvents f o i.ctx) } with
      aDone := true, inflight := i.core.inflight ++ (if (activeLanes o i.ctx).isEmpty then [] else [reduceResult f lat o i]) } := by
  rw [reduceCore, pushResult_eq, reduceResult, List.isEmpty_map]
  rfl

/-- A row that is a reduction across lanes does what the statements say of reductions. -/
theorem reduceRow_of_exec {row : LaneOp → Instr} {lat : LaneOp → Nat} {f : SumNode → SumNode → SumNode}
    (hrow : ∀ o s, exec (row o) s = reduceOp (lat o) o f s) : ReduceRow row lat f := by
  refine ⟨fun o s i hissue hform => ?issued, fun o s i hissue hform hdone => ?done⟩
  case done => rw [hrow, reduceOp_wellFormed _ _ hissue.1 hform, atAHalf_done _ _ _ _ hissue hdone]
  case issued =>
    intro c leaves root act ev
    have hexec : exec (row o) s = .next (setCore (raiseConv s c ev) c (reduceCore f (lat o) o i)) := by
      rw [hrow, reduceOp_wellFormed _ _ hissue.1.1 hform, atAHalf_issued _ _ _ _ hissue]
      rfl
    refine ⟨_, hexec, coreAndFlags_setCore_raiseConv _ _ _ _, ⟨rfl, rfl⟩, ?others, ?ctx, ?core⟩
    all_goals rw [getCore_setCore_same, reduceCore_eq]
    case others => exact fun n hn => getCtx_setCtx_other _ _ _ _ hn
    case ctx => exact getCtx_setCtx_same _ _ _
    case core => rfl

/-- A row that is a reduction of a predicate does what the statements say of such a row. -/
theorem predRow_of_exec {row : PredOp → Instr} {f : List Bool → Bool} (hrow : ∀ o s, exec (row o) s = predReduce f o s) : PredRow row f := by
  intro o s i hissue c ls v res co
  have hvals : res.vals ≠ [] := by simpa [res, ls] using (coreLanes_pos c).ne'
  have hexec : exec (row o) s = .next (setCore s c (endBundle (if i.ctx.active o.pinv o.preg.toNat 0 then pushResult i.core res else i.core) i.n i.ctx)) := by
    rw [hrow, predReduce, atCore_issues hissue]
  rw [pushResult_of_ne_nil hvals] at hexec
  exact ⟨_, hexec, coreOnly_setCore _ _ _, getCore_setCore_same _ _ _⟩

/-- Each row is its own reduction. -/
theorem laneReductions : Claims.LaneReductions := by
  unfold Claims.LaneReductions
  exact ⟨reduceRow_of_exec fun _ _ => rfl, reduceRow_of_exec fun _ _ => rfl, predRow_of_exec fun _ _ => rfl, predRow_of_exec fun _ _ => rfl⟩

/-! ### Special functions (R84, R103 to R105) -/

theorem writeRow_storeOnly (o : LaneOp) (x : Ctx) (co : CoreSt) (vs : List Nat) : StoreOnly co (writeRow o x co vs) := by
  refine foldl_storeOnly (fun co v => ?_) _ _
  split
  · exact writeElem_storeOnly _ _ _ _ _ _
  · rfl

/-- The operations whose γ is read from VB, and the one whose β is read from VC (R103). -/
def readsGamma (op : SfuOp) : Bool := op == .layernorm || op == .rmsnorm
def readsBeta (op : SfuOp) : Bool := op == .layernorm

/-- The core with the result row in its store. -/
def sfuStored (op : SfuOp) (o : LaneOp) (i : Issue) : CoreSt :=
  let n := o.imm.toNat + 1
  writeRow o i.ctx i.core (sfuRow op (rowElems i.core i.ctx o.va.toNat n) (if readsGamma op then rowElems i.core i.ctx o.vb.toNat n else [])
    (if readsBeta op then rowElems i.core i.ctx o.vc.toNat n else []) (i.ctx.lane 63 0))

/-- The context with the operands of the operation moved on. -/
def sfuCtx (op : SfuOp) (o : LaneOp) (par : List Nat) (x : Ctx) : Ctx :=
  let x := (x.useDesc par o.va.toNat 1).useDesc par o.vd.toNat 1
  let x := if readsGamma op then x.useDesc par o.vb.toNat 1 else x
  if readsBeta op then x.useDesc par o.vc.toNat 1 else x

theorem sfuStored_storeOnly (op : SfuOp) (o : LaneOp) (i : Issue) : StoreOnly i.core (sfuStored op o i) := writeRow_storeOnly _ _ _ _

theorem sfuInstr_wellFormed {op : SfuOp} {o : LaneOp} {s : State} (heven : coreEven o.core.toNat = true) (hiov : o.iov = 0) :
    sfuInstr op o s = atAHalf s o.core.toNat (fun i => .next (setCore s o.core.toNat (tickCore
      { setCtx (sfuStored op o i) i.n (sfuCtx op o (sfuStored op o i).par i.ctx) with aDone := true } (sfuTime op (o.imm.toNat + 1))))) := by
  unfold sfuInstr
  dsimp only
  rw [heven, hiov, if_neg (by simp)]
  cases op <;> rfl

/-- A row that is a special function does what the statements say of such a row. -/
theorem sfuRow_of_exec {row : LaneOp → Instr} {op : SfuOp} (hrow : ∀ o s, exec (row o) s = sfuInstr op o s) : SfuRow row op (readsGamma op) (readsBeta op) := by
  refine ⟨fun o s i hissue heven hiov => ?issued, fun o s i hissue heven hiov hdone => ?done⟩
  case done => rw [hrow, sfuInstr_wellFormed heven hiov, atAHalf_done _ _ _ _ hissue hdone]
  case issued =>
    intro n xs gs bs co x x x
    have hexec := (hrow o s).trans ((sfuInstr_wellFormed heven hiov).trans (atAHalf_issued _ _ _ _ hissue))
    rw [(sfuStored_storeOnly op o i).par] at hexec
    exact ⟨_, hexec, coreOnly_setCore _ _ _, getCore_setCore_same _ _ _, sfuStored_storeOnly op o i⟩

/-- A special function of a dense core, or with IOV not 0, is rejected. -/
theorem sfuRejected_of_exec {row : LaneOp → Instr} {op : SfuOp} (hrow : ∀ o s, exec (row o) s = sfuInstr op o s) : SfuRejected row := by
  intro o s hvalid hform
  rw [hrow, sfuInstr]
  refine if_pos ?_
  simpa [hvalid] using hform

theorem specialFunctions : Claims.SpecialFunctions := by
  unfold Claims.SpecialFunctions
  refine ⟨sfuRow_of_exec fun _ _ => rfl, sfuRow_of_exec fun _ _ => rfl, sfuRow_of_exec fun _ _ => rfl, sfuRow_of_exec fun _ _ => rfl,
    sfuRow_of_exec fun _ _ => rfl, sfuRow_of_exec fun _ _ => rfl, ?_, ?_, ?_, ?_, ?_, ?_⟩
  all_goals exact sfuRejected_of_exec fun _ _ => rfl

end Sys2Proof.Machine

open Sys2Proof.Machine

/-- Settles O3: each row by the operation it is, reductions across lanes, of predicates and special functions alike. -/
theorem reductionsAndSpecials : Obligations.ReductionsAndSpecials := ⟨laneReductions, specialFunctions⟩
end

section
/-! PROOFS. SEND through the route entry, with its back-pressure (R91, R127, R163, R328). -/

namespace Sys2Proof.Machine

open Sys2Proof.Claims

/-- The token that SEND makes of the tile that its descriptor stands on. -/
def sendToken (o : TokOp) (i : Issue) : Token :=
  let d := i.ctx.desc o.opd.toNat
  let tc := tileCoord d (i.ctx.posOf o.opd.toNat) 0
  routeToken i o.core.toNat o.route.toNat 0 (validRows d i.core.par tc - 1) (validCols d i.core.par tc - 1) tc.1 tc.2 0 (readTile i.core d tc)

/-- The context after SEND: its descriptor has moved on, and the route's next SEQ is taken (R120). -/
def sentCtx (o : TokOp) (i : Issue) : Ctx :=
  { i.ctx.useDesc i.core.par o.opd.toNat 1 with
    sendSeq := mset 0 i.ctx.sendSeq o.route.toNat ((mget 0 i.ctx.sendSeq o.route.toNat + 1) % 32) }

/-- The state after SEND but for its token. -/
def sentState (o : TokOp) (s : State) (i : Issue) : State :=
  setCore s o.core.toNat (endBundle
    { i.core with accessAc := i.core.accessAc + (tokFmt (reFmt (i.ctx.route o.route.toNat))).width } i.n (sentCtx o i))

/-- SEND on an entry that is not enabled, or of another format than its tile, is rejected at load. -/
def SendRejected (o : TokOp) (i : Issue) : Prop :=
  reEn (i.ctx.route o.route.toNat) = false ∨ dFormat (i.ctx.desc o.opd.toNat) ≠ tokFmt (reFmt (i.ctx.route o.route.toNat))

/-- SEND waits for room in the queue it sends to; the engines of a relay route always have it (R91, R328). -/
def SendWaits (o : TokOp) (s : State) (i : Issue) : Prop :=
  NoRelay s i.ctx o.core.toNat o.route.toNat ∧ queueFull s (sendToken o i).hdr = true

/-- A route is a relay route exactly where the model finds its entry. -/
theorem routeRelay_eq_none {s : State} {x : Ctx} {c r : Nat} : routeRelay s x c r = none ↔ NoRelay s x c r := by
  unfold routeRelay NoRelay
  cases x.slot with
  | none => simp
  | some n =>
    cases hpat : (getSlot s n).pattern <;> simp [hpat]

section
variable {o : TokOp} {s : State} {i : Issue} (hissue : Issues s o.core i)
include hissue

theorem send_rejected (hbad : SendRejected o i) : exec (.send o) s = .refused .rejectedAtLoad := by
  refine (atCore_issues hissue _).trans (if_pos ?_)
  simpa [SendRejected] using hbad

theorem send_waits (hform : ¬ SendRejected o i) (hwaits : SendWaits o s i) : exec (.send o) s =
    .next (setCore s o.core.toNat (stopAt i.core (.sendFull (reDst (i.ctx.route o.route.toNat)) (reDq (i.ctx.route o.route.toNat))))) := by
  obtain ⟨hroute, hfull⟩ := hwaits
  refine (atCore_issues hissue _).trans ((if_neg ?_).trans (if_pos ?_))
  · simpa [SendRejected] using hform
  · rw [Bool.and_eq_true]
    exact ⟨by rw [routeRelay_eq_none.mpr hroute]; rfl, hfull⟩

theorem send_taken (hform : ¬ SendRejected o i) (hroom : ¬ SendWaits o s i) : exec (.send o) s =
    coreRead s o.core.toNat (.next (emitToken o.core.toNat o.route.toNat (sentCtx o i) (sentState o s i) (sendToken o i))) := by
  refine (atCore_issues hissue _).trans ((if_neg ?_).trans ((if_neg ?_).trans rfl))
  · simpa [SendRejected] using hform
  · intro hwaits
    obtain ⟨hroute, hfull⟩ := Bool.and_eq_true _ _ ▸ hwaits
    exact hroom ⟨routeRelay_eq_none.mp (Option.isNone_iff_eq_none.mp hroute), hfull⟩

end

/-- A token on a route that is no relay route reaches the fabric. -/
theorem emitToken_sent {o : TokOp} {s : State} {i : Issue} (hroute : NoRelay s i.ctx o.core.toNat o.route.toNat) :
    emitToken o.core.toNat o.route.toNat (sentCtx o i) (sentState o s i) (sendToken o i) =
      { sentState o s i with out := s.out ++ [.token (sendToken o i)] } :=
  emitTokens_fabric [sendToken o i] (routeRelay_of_noRelay hroute rfl rfl)

/-- An injected error ends a command of an attempt that can be aborted (R422). -/
theorem coreRead_injected {s s' : State} {c n : Nat} (hrun : (partOfCluster s (coreCluster c)).bind (fun p => (getPart s p).run) = some n)
    (habort : abortable (getSlot s n) = true) (hinject : takeInject s 1 c = some s') (k : Res) :
    coreRead s c k = .next (sramError s' (coreDie s' c) (2 ^ 43 + s.fc) n) := by
  have hfc : s'.fc = s.fc := congrArg Prod.fst (takeInject_faultView hinject)
  unfold coreRead
  simp only [hrun, habort, hinject, hfc]
  rfl

end Sys2Proof.Machine

open Sys2Proof.Machine Sys2Proof.Claims

/-- Settles O7: SEND is rejected, waits or is taken; where it is taken its token leaves by the route's kind, or the read of its tile ends it. -/
theorem sendAToken : Obligations.SendAToken := by
  intro o s i hissue c r e d tc tk x s1
  refine ⟨send_rejected hissue, fun hen hfmt => ?_⟩
  have hform : ¬ SendRejected o i := not_or.mpr ⟨by rw [hen]; exact Bool.noConfusion, not_not.mpr hfmt⟩
  have htaken (hroom : ¬ NoRelay s i.ctx c r ∨ queueFull s tk.hdr = false) : exec (.send o) s = coreRead s c (.next (emitToken c r x s1 tk)) :=
    send_taken hissue hform fun ⟨hroute, hfull⟩ => hroom.elim (absurd hroute) fun hfree => Bool.noConfusion (hfull.symm.trans hfree)
  refine ⟨fun hroute hfull => send_waits hissue hform ⟨hroute, hfull⟩, fun hroute hfree hsound => ?fabric, fun hrelay hsound => ?relay, ?injected⟩
  case fabric =>
    rw [htaken (.inr hfree), coreRead_sound hsound]
    exact congrArg Host.Outcome.next (emitToken_sent hroute)
  case relay => rw [htaken (.inl hrelay), coreRead_sound hsound]
  case injected =>
    intro s' n hgoes hrun habort hinject
    rw [htaken hgoes, coreRead_injected hrun habort hinject]
end

section
/-! PROOFS. The gather unit of even cores (R106, R107): requests, waits and deliveries. -/

namespace Sys2Proof.Machine

open Sys2Proof.Claims

/-! ### Issue of a row of class GS (R84) -/

theorem gsInstr_issues {o : GsOp} {s : State} {i : Issue} (h : GsIssues s o.core i) (k : Issue → Res) : gsInstr o s k = k i := by
  obtain ⟨hissue, heven⟩ := h
  refine (if_neg ?_).trans (atCore_issues hissue k)
  simp [heven]

/-- A dense core has no unit of class GS. -/
theorem gsInstr_dense {o : GsOp} {s : State} (hvalid : coreValid o.core.toNat = true) (hdense : coreEven o.core.toNat = false) (k : Issue → Res) :
    gsInstr o s k = .refused .rejectedAtLoad :=
  if_pos (by simp [hvalid, hdense])

/-! ### GATHER and GWAIT (R106) -/

/-- The request of a GATHER. -/
def gatherReq (o : GsOp) (i : Issue) : GatherReq :=
  { ctx := i.n, table := i.ctx.table o.table.toNat, idx := (indices i.ctx o.va.toNat).map (toTwos 32), seg := o.seg.toNat, desc := o.desc.toNat,
    pos := i.ctx.posOf o.desc.toNat }

section
variable {o : GsOp} {s : State} {i : Issue} (hissue : GsIssues s o.core i)
include hissue

theorem gather_full (hfull : 8 ≤ i.core.gathers.length) : exec (.gather o) s = .next (setCore s o.core.toNat (stopAt i.core .gatherWait)) :=
  (gsInstr_issues hissue _).trans (if_pos hfull)

theorem gather_room (hroom : i.core.gathers.length < 8) : exec (.gather o) s = .next (setCore s o.core.toNat (endBundle
    (if i.ctx.active o.pinv o.preg.toNat 0 then { i.core with gathers := i.core.gathers ++ [gatherReq o i] } else i.core) i.n
    (i.ctx.useDesc i.core.par o.desc.toNat 1))) :=
  (gsInstr_issues hissue _).trans (if_neg (Nat.not_le.mpr hroom))

theorem gwait_passes (hnone : i.ctx.active o.pinv o.preg.toNat 0 = false ∨ ∀ g ∈ i.core.gathers, g.ctx ≠ i.n) :
    exec (.gwait o) s = .next (setCore s o.core.toNat (endBundle i.core i.n i.ctx)) := by
  refine (gsInstr_issues hissue _).trans (if_neg ?_)
  rcases hnone with hoff | hnone
  · simp [hoff]
  · simpa using fun _ => hnone

theorem gwait_stops (hon : i.ctx.active o.pinv o.preg.toNat 0 = true) (hsome : ∃ g ∈ i.core.gathers, g.ctx = i.n) :
    exec (.gwait o) s = .next (setCore s o.core.toNat (stopAt i.core .gatherWait)) := by
  refine (gsInstr_issues hissue _).trans (if_pos ?_)
  simpa [hon] using hsome

end

/-! ### Rows of a table (R107) -/

theorem gatherRow_outOfRange {tbl : Nat} {k : Int} (s : State) (dom seg : Nat) (h : k < 0 ∨ (tdRows tbl : Int) ≤ k) :
    gatherRow s dom tbl seg k = some (List.replicate 32 0) := by
  refine if_pos ?_
  simpa [indexOk, imp_iff_not_or] using h

/-- A list of computations that all succeed gives one result for each, and each has what every such result has. -/
theorem forall_of_mapM_some {α β : Type} {f : α → Option β} {p : β → Prop} (hp : ∀ a b, f a = some b → p b) {as : List α} {bs : List β}
    (h : as.mapM f = some bs) : bs.length = as.length ∧ ∀ b ∈ bs, p b := by
  induction as generalizing bs with
  | nil =>
    obtain rfl : [] = bs := by simpa using h
    simp
  | cons a as ih =>
    rw [List.mapM_cons] at h
    obtain ⟨b, hb, h⟩ := Option.bind_eq_some_iff.mp h
    obtain ⟨bs', hbs, h⟩ := Option.bind_eq_some_iff.mp h
    obtain rfl : b :: bs' = bs := by simpa using h
    obtain ⟨hlen, hall⟩ := ih hbs
    exact ⟨congrArg (· + 1) hlen, List.forall_mem_cons.mpr ⟨hp a b hb, hall⟩⟩

theorem gatherRow_length {s : State} {dom tbl seg : Nat} {k : Int} {row : List Nat} (h : gatherRow s dom tbl seg k = some row) : row.length = 32 := by
  unfold gatherRow at h
  split at h
  · cases h
    exact List.length_replicate
  · exact (forall_of_mapM_some (p := fun _ => True) (fun _ _ _ => trivial) h).1.trans List.length_range

/-! ### Deliveries (R106, R107) -/

/-- The elements of the rows that a gather delivers, row m of them in row m of the tile. -/
def rowWrites (rows : List (List Nat)) : List ElemWrite :=
  rows.zipIdx.flatMap (fun r => r.1.zipIdx.map (fun v => ((r.2, v.2), v.1)))

theorem mem_rowWrites {rows : List (List Nat)} (hwidth : ∀ row ∈ rows, row.length = 32) {m j code : Nat} :
    ((m, j), code) ∈ rowWrites rows ↔ m < rows.length ∧ j < 32 ∧ code = nth 0 (nth [] rows m) j := by
  simp only [rowWrites, List.mem_flatMap, List.mem_map, List.mem_zipIdx_iff_getElem?, Prod.exists, Prod.mk.injEq]
  constructor
  · rintro ⟨row, _, hrow, _, _, hcode, ⟨rfl, rfl⟩, rfl⟩
    have hlen := hwidth row (List.mem_of_getElem? hrow)
    exact ⟨(List.getElem?_eq_some_iff.mp hrow).1, hlen ▸ (List.getElem?_eq_some_iff.mp hcode).1, by simp [nth, hrow, hcode]⟩
  · rintro ⟨hm, hj, rfl⟩
    have hlen := hwidth rows[m] (List.getElem_mem hm)
    exact ⟨rows[m], m, List.getElem?_eq_getElem hm, _, j, by simp [nth, hm, hlen, hj], ⟨rfl, rfl⟩, rfl⟩

theorem writeElems_rowWrites (d : Nat) (t : Nat × Nat) (rows : List (List Nat)) (co : CoreSt) :
    rows.zipIdx.foldl (fun co r => r.1.zipIdx.foldl (fun co v => writeElem co d t r.2 v.2 v.1) co) co = writeElems d t (rowWrites rows) co := by
  simp only [writeElems, rowWrites, List.foldl_flatMap, List.foldl_map]

/-- The indices of a request. -/
def reqIndices (g : GatherReq) : List Int := g.idx.map (signedVal 32)

/-- The core that a gather leaves, its indices out of range counted (R107). -/
def gatherLeft (co : CoreSt) (g : GatherReq) (gs : List GatherReq) : CoreSt :=
  setCtx { co with gathers := gs } g.ctx { getCtx co g.ctx with
    oor := satAdd32 (getCtx co g.ctx).oor ((reqIndices g).filter (fun k => !indexOk g.table k)).length }

/-- The core with the rows of a gather in its operand store. -/
def delivered (co : CoreSt) (g : GatherReq) (gs : List GatherReq) (rows : List (List Nat)) : CoreSt :=
  let d := (getCtx co g.ctx).desc g.desc
  writeElems d (tileCoord d g.pos 0) (rowWrites rows) (gatherLeft co g gs)

/-- The rows that a request asks for. -/
def reqRows (s : State) (co : CoreSt) (g : GatherReq) : Option (List (List Nat)) :=
  (reqIndices g).mapM (gatherRow s (ctxDom s (getCtx co g.ctx)) g.table g.seg)

section
variable {core : BitVec 12} {s : State} (hvalid : coreValid core.toNat = true)
include hvalid

theorem gatherDelivery_idle (hnone : (getCore s core.toNat).gathers = []) : exec (.gatherDelivery core) s = .next s := by
  delta exec
  simp [execGatherDelivery, hvalid, hnone]

variable {g : GatherReq} {gs : List GatherReq} (hhead : (getCore s core.toNat).gathers = g :: gs)
include hhead

theorem gatherDelivery_noGranule (hrows : reqRows s (getCore s core.toNat) g = none) : exec (.gatherDelivery core) s = .fault .noGranule := by
  unfold reqRows reqIndices at hrows
  delta exec
  simp [execGatherDelivery, hvalid, hhead, hrows]

theorem gatherDelivery_failed {rows : List (List Nat)} (hrows : reqRows s (getCore s core.toNat) g = some rows)
    (hlost : (reqIndices g).any (rowLost s (ctxDom s (getCtx (getCore s core.toNat) g.ctx)) g.table g.seg) = true) :
    exec (.gatherDelivery core) s = .next (tableFailed (setCore s core.toNat { getCore s core.toNat with gathers := gs })
      (getCtx (getCore s core.toNat) g.ctx)) := by
  unfold reqRows reqIndices at hrows
  unfold reqIndices at hlost
  delta exec
  simp only [execGatherDelivery, hvalid, hhead, hrows, hlost]
  rfl

theorem gatherDelivery_arrives {rows : List (List Nat)} (hrows : reqRows s (getCore s core.toNat) g = some rows)
    (hsound : (reqIndices g).any (rowLost s (ctxDom s (getCtx (getCore s core.toNat) g.ctx)) g.table g.seg) = false) :
    exec (.gatherDelivery core) s = .next (setCore s core.toNat (delivered (getCore s core.toNat) g gs rows)) := by
  unfold reqRows reqIndices at hrows
  unfold reqIndices at hsound
  delta exec
  simp only [execGatherDelivery, hvalid, hhead, hrows, hsound, writeElems_rowWrites]
  rfl

end

theorem delivered_storeOnly (co : CoreSt) (g : GatherReq) (gs : List GatherReq) (rows : List (List Nat)) :
    StoreOnly (gatherLeft co g gs) (delivered co g gs rows) := writeElems_storeOnly _ _ _ _

/-- Rows that arrive have 32 elements each, one row for each index. -/
theorem reqRows_shape {s : State} {co : CoreSt} {g : GatherReq} {rows : List (List Nat)} (h : reqRows s co g = some rows) :
    rows.length = (reqIndices g).length ∧ ∀ row ∈ rows, row.length = 32 :=
  forall_of_mapM_some (fun _ _ => gatherRow_length) h

/-- The bytes of the store after a delivery: each row as far as the destination tile has room for it, and no other byte. -/
theorem gatherUnit : Claims.GatherUnit := by
  refine ⟨fun o s i hissue => ⟨fun hroom hon => ?joins, fun hroom hoff => ?off, gather_full hissue⟩,
    fun o s i hissue => ⟨gwait_passes hissue, gwait_stops hissue⟩, fun core s hvalid => ⟨gatherDelivery_idle hvalid, fun g gs hhead => ?delivery⟩⟩
  case joins => exact (gather_room hissue hroom).trans (by rw [if_pos hon]; rfl)
  case off => exact (gather_room hissue hroom).trans (by rw [if_neg (by simp [hoff])])
  case delivery =>
    intro x dom ks d tc at_ w lands
    refine ⟨gatherDelivery_noGranule hvalid hhead, fun rows hrows => ⟨gatherDelivery_failed hvalid hhead hrows, fun hsound => ?arrives⟩⟩
    have hstore := delivered_storeOnly (getCore s core.toNat) g gs rows
    obtain ⟨hcount, hwidth⟩ := reqRows_shape hrows
    have hroom {m j : Nat} : lands m j = true ↔ j < 32 ∧ elemLands d (getCore s core.toNat).par tc (m, j) = true := by
      simp [lands, elemLands, inTensor]
      tauto
    refine ⟨_, gatherDelivery_arrives hvalid hhead hrows hsound, coreOnly_setCore _ _ _, ?core, ?ctx, ?others, fun b houtside => ?outside,
      fun m j hlands hm hapart => ?inside⟩
    all_goals rw [getCore_setCore_same]
    case core => rw [hstore]; rfl
    case ctx => rw [hstore]; exact getCtx_setCtx_same _ _ _
    case others => rw [hstore]; exact fun n hn => getCtx_setCtx_other _ _ _ _ hn
    case outside =>
      refine mget_writeElems_outside fun ⟨⟨m, j⟩, code⟩ he hlands => ?_
      obtain ⟨hm, hj, -⟩ := (mem_rowWrites hwidth).mp he
      exact houtside m j (hroom.mpr ⟨hj, hlands⟩) (hm.trans_eq hcount)
    case inside =>
      obtain ⟨hj, hinside⟩ := hroom.mp hlands
      refine mgetList_writeElems_inside (e := ((m, j), nth 0 (nth [] rows m) j)) ((mem_rowWrites hwidth).mpr ⟨hm.trans_eq hcount.symm, hj, rfl⟩) hinside
        fun ⟨⟨m', j'⟩, code⟩ he' hother hlands' => ?_
      obtain ⟨hm', hj', rfl⟩ := (mem_rowWrites hwidth).mp he'
      refine hapart m' j' (fun hsame => hother ?_) (hroom.mpr ⟨hj', hlands'⟩) (hm'.trans_eq hcount)
      obtain ⟨rfl, rfl⟩ := Prod.mk.inj hsame
      rfl

/-- An index out of the table's range delivers zeros (R107). -/
theorem outOfRangeRowIsZero : Claims.OutOfRangeRowIsZero := fun s dom _ seg _ => gatherRow_outOfRange s dom seg

end Sys2Proof.Machine
end

section
/-! PROOFS. The scatter and index rows of even cores (R106, R108; log entry 13). -/

namespace Sys2Proof.Machine

open Sys2Proof.Claims

/-! ### Index rows (R108) -/

theorem mem_insertDistinct {j k : Int} {l : List Int} : j ∈ insertDistinct k l ↔ j = k ∨ j ∈ l := by
  induction l with
  | nil => simp [insertDistinct]
  | cons a l ih =>
    rw [insertDistinct]
    split
    · exact List.mem_cons
    · split
      next heq => simp [heq]
      next => simp [ih, or_left_comm]

theorem pairwise_insertDistinct {k : Int} {l : List Int} (h : l.Pairwise (· < ·)) : (insertDistinct k l).Pairwise (· < ·) := by
  induction l with
  | nil => simp [insertDistinct]
  | cons a l ih =>
    obtain ⟨hhead, htail⟩ := List.pairwise_cons.mp h
    rw [insertDistinct]
    split
    next hlt => exact List.pairwise_cons.mpr ⟨List.forall_mem_cons.mpr ⟨hlt, fun b hb => hlt.trans (hhead b hb)⟩, h⟩
    next hge =>
      split
      next => exact h
      next hne =>
        refine List.pairwise_cons.mpr ⟨fun b hb => ?_, ih htail⟩
        rcases mem_insertDistinct.mp hb with rfl | hb
        · omega
        · exact hhead b hb

/-- The distinct values of a list, ascending. -/
def distinct (ks : List Int) : List Int := ks.foldl (fun l k => insertDistinct k l) []

theorem mem_distinct {ks : List Int} {j : Int} : j ∈ distinct ks ↔ j ∈ ks := by
  suffices h : ∀ l : List Int, j ∈ ks.foldl (fun l k => insertDistinct k l) l ↔ j ∈ ks ∨ j ∈ l by simpa [distinct] using h []
  induction ks with
  | nil => simp
  | cons k ks ih =>
    intro l
    rw [List.foldl_cons, ih, mem_insertDistinct, List.mem_cons, or_left_comm, or_assoc]

theorem pairwise_distinct (ks : List Int) : (distinct ks).Pairwise (· < ·) :=
  List.foldlRecOn ks _ .nil fun _ h _ _ => pairwise_insertDistinct h

theorem map_indices_ne_nil {α : Type} (x : Ctx) (r : Nat) (f : Int → α) : (indices x r).map f ≠ [] := by simp [indices]

/-- Index results for lanes 0 to 31 of a register. -/
def indexFlight (i : Issue) (r due : Nat) (vs : List Int) : InFlight :=
  { due := i.core.ac + due, ctx := i.n, pred := false, reg := r, vals := vs.zipIdx.map (fun v => (v.2, toTwos 32 v.1, false)) }

theorem pushResult_indexFlight {i : Issue} {co : CoreSt} {r due : Nat} {vs : List Int} (h : vs ≠ []) :
    pushResult co (indexFlight i r due vs) = { co with inflight := co.inflight ++ [indexFlight i r due vs] } :=
  pushResult_of_ne_nil (by simpa [indexFlight] using h)

section
variable {o : GsOp} {s : State} {i : Issue}

theorem indexResult_off (hoff : i.ctx.active o.pinv o.preg.toNat 0 = false) (extra : Nat) (rs : List (Nat × List Int)) :
    indexResult o s i extra rs = .next (setCore s o.core.toNat (tickCore (endBundle i.core i.n i.ctx) extra)) := by
  rw [indexResult, hoff]
  rfl

/-- Results are in flight, one for each register. -/
theorem indexResult_on (hon : i.ctx.active o.pinv o.preg.toNat 0 = true) (extra : Nat) {rs : List (Nat × List Int)} (hrs : ∀ r ∈ rs, r.2 ≠ []) :
    indexResult o s i extra rs = .next (setCore s o.core.toNat (tickCore (endBundle
      { i.core with inflight := i.core.inflight ++ rs.map (fun r => indexFlight i r.1 (extra + 1) r.2) } i.n i.ctx) extra)) := by
  have hpush (co : CoreSt) : rs.foldl (fun co r => pushResult co (indexFlight i r.1 (extra + 1) r.2)) co =
      { co with inflight := co.inflight ++ rs.map (fun r => indexFlight i r.1 (extra + 1) r.2) } := by
    induction rs generalizing co with
    | nil => simp
    | cons r rs ih =>
      obtain ⟨hhead, htail⟩ := List.forall_mem_cons.mp hrs
      rw [List.foldl_cons, pushResult_indexFlight hhead, ih htail]
      simp
  rw [indexResult, hon, ← hpush]
  rfl

/-- The results of IMOD: each index modulo the table's row count. -/
def imodValues (o : GsOp) (i : Issue) : List Int :=
  (indices i.ctx o.va.toNat).map (fun k =>
    if tdRows (i.ctx.table o.table.toNat) = 0 then (Config.imodZero (toTwos 32 k)).toNat else k % (tdRows (i.ctx.table o.table.toNat) : Int))

/-- The results of IOFF: each index with the table's row offset. -/
def ioffValues (o : GsOp) (i : Issue) : List Int := (indices i.ctx o.va.toNat).map (· + tdOffset (i.ctx.table o.table.toNat))

/-- The results of IUNIQ: the distinct indices ascending in 32 lanes, and each lane's place among them. -/
def iuniqValues (o : GsOp) (i : Issue) : List Int := (List.range 32).map (fun l => nth (-1) (distinct (indices i.ctx o.va.toNat)) l)
def iuniqPlaces (o : GsOp) (i : Issue) : List Int :=
  (indices i.ctx o.va.toNat).map (fun k => ((distinct (indices i.ctx o.va.toNat)).idxOf k : Int))

theorem imodValues_ne_nil : imodValues o i ≠ [] := map_indices_ne_nil _ _ _
theorem ioffValues_ne_nil : ioffValues o i ≠ [] := map_indices_ne_nil _ _ _
theorem iuniqPlaces_ne_nil : iuniqPlaces o i ≠ [] := map_indices_ne_nil _ _ _
theorem iuniqValues_ne_nil : iuniqValues o i ≠ [] := List.map_eq_nil_iff.not.mpr (List.range_eq_nil.not.mpr (by decide))

variable (hissue : GsIssues s o.core i)
include hissue

theorem exec_imod : exec (.imod o) s = indexResult o s i 0 [(o.vd.toNat, imodValues o i)] := gsInstr_issues hissue _

theorem exec_ioff : exec (.ioff o) s = indexResult o s i 0 [(o.vd.toNat, ioffValues o i)] := gsInstr_issues hissue _

theorem exec_iuniq : exec (.iuniq o) s = indexResult o s i 7 [(o.vd.toNat, iuniqValues o i), (o.vc.toNat, iuniqPlaces o i)] :=
  gsInstr_issues hissue _

end

/-! ### SCATTER_ADD (R108) -/

/-- The sums of a SCATTER_ADD, element after element, and how many of them saturate. -/
def scatterSum (o : GsOp) (s : State) (i : Issue) : Option (State × Nat) :=
  let d := i.ctx.desc o.desc.toNat
  let tb := i.ctx.table o.table.toNat
  let tc := tileCoord d (i.ctx.posOf o.desc.toNat) 0
  (List.range 1024).foldl (fun r k =>
    let ix := nth 0 (indices i.ctx o.va.toNat) (k / 32)
    if indexOk tb ix && elemValid i.core d tc (k / 32) (k % 32) then
      scatterElem (ctxDom s i.ctx) tb ix.toNat (32 * o.seg.toNat + k % 32) (readElem i.core d tc (k / 32) (k % 32)) r
    else r) (some (s, 0))

/-- The indices of a row of class GS that name no row of its table. -/
def lostIndices (o : GsOp) (i : Issue) : Nat :=
  ((indices i.ctx o.va.toNat).filter (fun k => !indexOk (i.ctx.table o.table.toNat) k)).length

/-- The context after a SCATTER_ADD whose additions saturated `sats` times (R36, R107). -/
def scatteredCtx (o : GsOp) (i : Issue) (sats : Nat) : Ctx :=
  { i.ctx.useDesc i.core.par o.desc.toNat 1 with conv := i.ctx.conv.add { sat := sats }, oor := satAdd32 i.ctx.oor (lostIndices o i) }

/-- A SCATTER_ADD between other formats than FP32 is rejected at load. -/
def ScatterRejected (o : GsOp) (i : Issue) : Prop :=
  dFormat (i.ctx.desc o.desc.toNat) ≠ .fp32 ∨ tdFmt (i.ctx.table o.table.toNat) ≠ .fp32

/-- A row that a SCATTER_ADD wants cannot be read. -/
def scatterLost (o : GsOp) (s : State) (i : Issue) : Bool :=
  (indices i.ctx o.va.toNat).any (rowLost s (ctxDom s i.ctx) (i.ctx.table o.table.toNat) o.seg.toNat)

section
variable {o : GsOp} {s : State} {i : Issue} (hissue : GsIssues s o.core i)
include hissue

theorem scatterAdd_rejected (hbad : ScatterRejected o i) : exec (.scatterAdd o) s = .refused .rejectedAtLoad := by
  refine (gsInstr_issues hissue _).trans (if_pos ?_)
  simpa [ScatterRejected] using hbad

variable (hform : ¬ ScatterRejected o i)
include hform

theorem scatterAdd_off (hoff : i.ctx.active o.pinv o.preg.toNat 0 = false) : exec (.scatterAdd o) s =
    .next (setCore s o.core.toNat (endBundle i.core i.n (i.ctx.useDesc i.core.par o.desc.toNat 1))) := by
  refine (gsInstr_issues hissue _).trans ((if_neg ?_).trans (if_pos ?_))
  · simpa [ScatterRejected] using hform
  · rw [hoff]; rfl

variable (hon : i.ctx.active o.pinv o.preg.toNat 0 = true)
include hon

theorem scatterAdd_lost (hlost : scatterLost o s i = true) : exec (.scatterAdd o) s =
    .next (tableFailed (setCore s o.core.toNat (endBundle i.core i.n (i.ctx.useDesc i.core.par o.desc.toNat 1))) i.ctx) := by
  refine (gsInstr_issues hissue _).trans ((if_neg ?_).trans ((if_neg ?_).trans (if_pos hlost)))
  · simpa [ScatterRejected] using hform
  · rw [hon]; exact Bool.noConfusion

variable (hsound : scatterLost o s i = false)
include hsound

theorem scatterAdd_noGranule (hnone : scatterSum o s i = none) : exec (.scatterAdd o) s = .fault .noGranule := by
  unfold scatterSum at hnone
  refine (gsInstr_issues hissue _).trans ((if_neg ?_).trans ((if_neg ?_).trans ((if_neg ?_).trans ?_)))
  · simpa [ScatterRejected] using hform
  · rw [hon]; exact Bool.noConfusion
  · exact Bool.eq_false_iff.mp hsound
  · rw [hnone]

theorem scatterAdd_added {s' : State} {sats : Nat} (hsum : scatterSum o s i = some (s', sats)) : exec (.scatterAdd o) s =
    .next (setCore (raiseConv s' o.core.toNat { sat := sats }) o.core.toNat (endBundle i.core i.n (scatteredCtx o i sats))) := by
  unfold scatterSum at hsum
  refine (gsInstr_issues hissue _).trans ((if_neg ?_).trans ((if_neg ?_).trans ((if_neg ?_).trans ?_)))
  · simpa [ScatterRejected] using hform
  · rw [hon]; exact Bool.noConfusion
  · exact Bool.eq_false_iff.mp hsound
  · rw [hsum]
    rfl

end

/-- One addition changes the tiers alone. -/
theorem scatterElem_tiersOnly {dom t row e code : Nat} {r : Option (State × Nat)} {q : State × Nat} (h : scatterElem dom t row e code r = some q) :
    ∃ p, r = some p ∧ TiersOnly p.1 q.1 := by
  obtain ⟨p, hp, h⟩ := Option.bind_eq_some_iff.mp h
  refine ⟨p, hp, ?_⟩
  split at h
  · cases h
    rfl
  · split at h
    · cases h
      exact setTierBytes_tiersOnly _ _ _ _
    · cases h

theorem scatterSum_tiersOnly {o : GsOp} {s s' : State} {i : Issue} {sats : Nat} (h : scatterSum o s i = some (s', sats)) : TiersOnly s s' := by
  suffices hall : ∀ p ∈ scatterSum o s i, TiersOnly s p.1 from hall _ h
  refine List.foldlRecOn (motive := fun r => ∀ p : State × Nat, p ∈ r → TiersOnly s p.1) _ _ (by rintro _ ⟨⟩; rfl) fun r ih k _ q hq => ?_
  dsimp only at hq
  split at hq
  · obtain ⟨p, hp, hpq⟩ := scatterElem_tiersOnly hq
    exact (ih p hp).trans hpq
  · exact ih q hq

theorem nth_mem {α : Type} {d : α} {l : List α} {k : Nat} (h : k < l.length) : nth d l k ∈ l := by
  simp [nth, h]

/-- Where no index names a row nothing is added (log entry 13). -/
theorem scatterSum_noRow {o : GsOp} {s : State} {i : Issue} (h : ∀ k ∈ indices i.ctx o.va.toNat, indexOk (i.ctx.table o.table.toNat) k = false) :
    scatterSum o s i = some (s, 0) := by
  refine (List.foldl_ext _ (fun r _ => r) _ fun r k hk => ?_).trans (List.foldl_fixed _)
  have hrow : nth 0 (indices i.ctx o.va.toNat) (k / 32) ∈ indices i.ctx o.va.toNat := nth_mem (by
    have hlt := List.mem_range.mp hk
    simp only [indices, List.length_map, List.length_range]
    omega)
  simp [h _ hrow]

theorem raiseConv_tiersOnly {s t : State} (h : TiersOnly s t) (u : Nat) (e : Conv4) : raiseConv t u e = { raiseConv s u e with tiers := t.tiers } := by
  rw [h]
  unfold raiseConv
  split <;> rfl

/-! ### The statements -/

theorem scatterAndIndex : Claims.ScatterAndIndex := by
  refine ⟨fun o s i hissue => ?scatter, fun o s i hissue hon => ?on, fun o s i hissue hoff => ?off,
    fun o s hvalid hdense => ?dense⟩
  case scatter =>
    intro c d tb ks dom tc x sum
    -- The fold is named before anything is unified with it, so that its 1,024 steps are never evaluated.
    have hsum : sum = scatterSum o s i := by
      unfold scatterSum
      dsimp only
    clear_value sum
    rw [hsum]
    refine ⟨scatterAdd_rejected hissue, fun hd htb => ?_⟩
    have hform : ¬ ScatterRejected o i := not_or.mpr ⟨not_not.mpr hd, not_not.mpr htb⟩
    refine ⟨scatterAdd_off hissue hform, scatterAdd_lost hissue hform, fun hon hsound =>
      ⟨scatterAdd_noGranule hissue hform hon hsound, fun s' sats hsum => ?added, scatterSum_noRow⟩⟩
    have htiers := scatterSum_tiersOnly hsum
    refine ⟨_, scatterAdd_added hissue hform hon hsound hsum, ?_⟩
    rw [raiseConv_tiersOnly htiers]
    refine ⟨?frame, ⟨rfl, rfl⟩, fun k hk => ?others, getCore_setCore_same _ _ _⟩
    case frame =>
      rw [raiseConv_frame]
      rfl
    case others =>
      rw [getCore_setCore_other _ _ _ _ hk]
      exact getCore_raiseConv _ _ _ _
  case on =>
    intro tb ks u res
    refine ⟨?imod, ?ioff, ?iuniq, fun k => mem_distinct.mpr, fun k => mem_distinct.mp, pairwise_distinct ks⟩
    case imod =>
      rw [exec_imod hissue, indexResult_on hon 0 (List.forall_mem_singleton.mpr imodValues_ne_nil)]
      rfl
    case ioff =>
      rw [exec_ioff hissue, indexResult_on hon 0 (List.forall_mem_singleton.mpr ioffValues_ne_nil)]
      rfl
    case iuniq =>
      rw [exec_iuniq hissue, indexResult_on hon 7 (List.forall_mem_cons.mpr ⟨iuniqValues_ne_nil, List.forall_mem_singleton.mpr iuniqPlaces_ne_nil⟩)]
      rfl
  case off =>
    rw [exec_imod hissue, exec_ioff hissue, exec_iuniq hissue]
    exact ⟨indexResult_off hoff _ _, indexResult_off hoff _ _, indexResult_off hoff _ _⟩
  case dense => exact ⟨gsInstr_dense hvalid hdense _, gsInstr_dense hvalid hdense _, gsInstr_dense hvalid hdense _, gsInstr_dense hvalid hdense _,
      gsInstr_dense hvalid hdense _, gsInstr_dense hvalid hdense _⟩

end Sys2Proof.Machine

open Sys2Proof.Machine

/-- Settles O5: each row of the unit by its outcomes, and what a delivery or a scatter leaves by the elements it writes. -/
theorem gathersAndScatters : Obligations.GathersAndScatters := ⟨gatherUnit, outOfRangeRowIsZero, scatterAndIndex⟩
end

section
/-! PROOFS. What the operations of context loads share: a function applied to every core of a partition, the end of a load, and the switch
requests that it lets go on (R129, R130, R133). -/

namespace Sys2Proof.Machine

/-! ### Every core of a partition -/

theorem foldl_setCore_frame (f : Nat → CoreSt → CoreSt) (ks : List Nat) (s : State) :
    ks.foldl (fun s c => setCore s c (f c (getCore s c))) s = { s with cores := (ks.foldl (fun s c => setCore s c (f c (getCore s c))) s).cores } := by
  induction ks generalizing s with
  | nil => rfl
  | cons k ks ih =>
    rw [List.foldl_cons, ih]
    rfl

theorem mapCores_frame (s : State) (p : Nat) (f : Nat → CoreSt → CoreSt) : mapCores s p f = { s with cores := (mapCores s p f).cores } :=
  foldl_setCore_frame f _ s

@[simp] theorem getPart_mapCores (s : State) (p : Nat) (f : Nat → CoreSt → CoreSt) (q : Nat) : getPart (mapCores s p f) q = getPart s q := by
  rw [mapCores_frame]
  rfl

/-- A core is changed once for each time the partition lists it. -/
theorem getCore_mapCores (s : State) (p : Nat) (f : Nat → CoreSt → CoreSt) (k : Nat) :
    getCore (mapCores s p f) k = (f k)^[(partCores (getPart s p)).count k] (getCore s k) := by
  unfold mapCores
  generalize partCores (getPart s p) = ks
  induction ks generalizing s with
  | nil => rfl
  | cons c ks ih =>
    rw [List.foldl_cons, ih]
    by_cases hc : c = k
    · subst hc
      rw [getCore_setCore_same, List.count_cons_self, Function.iterate_succ_apply]
    · rw [getCore_setCore_other _ _ _ _ (Ne.symm hc), List.count_cons_of_ne hc]

theorem getCore_mapCores_outside {s : State} {p k : Nat} (f : Nat → CoreSt → CoreSt) (h : k ∉ partCores (getPart s p)) :
    getCore (mapCores s p f) k = getCore s k := by
  rw [getCore_mapCores, List.count_eq_zero_of_not_mem h]
  rfl

/-- What the function keeps of a core, it keeps on every core. -/
theorem getCore_mapCores_keeps {f : Nat → CoreSt → CoreSt} {k : Nat} {P : CoreSt → Prop} (h : ∀ co, P co → P (f k co)) (s : State) (p : Nat)
    (hs : P (getCore s k)) : P (getCore (mapCores s p f) k) := by
  rw [getCore_mapCores]
  exact Function.Iterate.rec P hs h _

/-- A core of the partition is the function of a core that has what the function keeps. -/
theorem getCore_mapCores_inside {f : Nat → CoreSt → CoreSt} {s : State} {p k : Nat} {P : CoreSt → Prop} (h : ∀ co, P co → P (f k co))
    (hs : P (getCore s k)) (hk : k ∈ partCores (getPart s p)) : ∃ co, P co ∧ getCore (mapCores s p f) k = f k co := by
  obtain ⟨n, hn⟩ := Nat.exists_eq_succ_of_ne_zero (List.count_pos_iff.mpr hk).ne'
  rw [getCore_mapCores, hn, Function.iterate_succ_apply']
  exact ⟨_, Function.Iterate.rec P hs h n, rfl⟩

/-- Clusters that are listed once have cores that are listed once. -/
theorem partCores_nodup {x : PartSt} (h : x.clusters.Nodup) : (partCores x).Nodup := by
  refine List.nodup_flatMap.mpr ⟨fun k _ => List.nodup_range.map fun a b hab => Nat.add_left_cancel hab, h.imp fun {a b} hab => ?_⟩
  intro k ha hb
  simp only [List.mem_map, List.mem_range] at ha hb
  omega

theorem getCore_mapCores_once {s : State} {p k : Nat} (f : Nat → CoreSt → CoreSt) (h : (getPart s p).clusters.Nodup)
    (hk : k ∈ partCores (getPart s p)) : getCore (mapCores s p f) k = f k (getCore s k) := by
  rw [getCore_mapCores, List.count_eq_one_of_mem (partCores_nodup h) hk]
  rfl

/-! ### Switch requests and the end of a load (R129, R130, R133) -/

/-- `t` differs from `s` in partitions and rings alone. -/
def PartsAndRings (s t : State) : Prop := t = { s with parts := t.parts, rings := t.rings }

theorem PartsAndRings.trans {s t u : State} (hst : PartsAndRings s t) (htu : PartsAndRings t u) : PartsAndRings s u := by
  unfold PartsAndRings at *
  rw [htu, hst]

theorem PartsAndRings.getCore {s t : State} (h : PartsAndRings s t) (k : Nat) : getCore t k = getCore s k := by
  rw [h]
  rfl

/-- Work on the switch requests of partition `p`: partitions and rings change, and its loads stay. -/
def LoadsKept (p : Nat) (s t : State) : Prop := PartsAndRings s t ∧ (getPart t p).loads = (getPart s p).loads

theorem LoadsKept.trans {p : Nat} {s t u : State} (hst : LoadsKept p s t) (htu : LoadsKept p t u) : LoadsKept p s u :=
  ⟨hst.1.trans htu.1, htu.2.trans hst.2⟩

theorem loadsKept_setPart {s : State} {p : Nat} {x : PartSt} (h : x.loads = (getPart s p).loads) : LoadsKept p s (setPart s p x) :=
  ⟨rfl, by rw [getPart_setPart_same, h]⟩

theorem loadsKept_finishDesc (p : Nat) (s : State) (r id status detail : Nat) : LoadsKept p s (finishDesc s r id status detail) := ⟨rfl, rfl⟩

theorem promoteSwitch_loads (x : PartSt) : (promoteSwitch x).loads = x.loads := by
  unfold promoteSwitch
  split
  · split
    · split <;> rfl
    · rfl
  · rfl

theorem loadsKept_settleSwitch (s : State) (p : Nat) : LoadsKept p s (settleSwitch s p) := by
  have hpromoted := promoteSwitch_loads (getPart s p)
  unfold settleSwitch
  dsimp only
  split
  · exact loadsKept_setPart hpromoted
  · split
    · have htaken (x : PartSt) (hx : x.loads = (getPart s p).loads) : LoadsKept p s (setPart s p (promoteSwitch x)) :=
        loadsKept_setPart ((promoteSwitch_loads x).trans hx)
      split
      · exact htaken _ hpromoted
      · refine LoadsKept.trans (htaken _ ?_) (loadsKept_finishDesc _ _ _ _ _ _)
        exact hpromoted
    · exact loadsKept_setPart hpromoted

theorem loadsKept_refuseSwitches (s : State) (p c : Nat) : LoadsKept p s (refuseSwitches s p c) := by
  refine List.foldlRecOn (motive := LoadsKept p s) _ _ (loadsKept_setPart rfl) fun t ht r _ => ?_
  split
  · exact ht
  · exact ht.trans (loadsKept_finishDesc _ _ _ _ _ _)

/-- A partition without loads has none to begin. -/
theorem loadsKept_tryLoads {s : State} {p : Nat} (h : (getPart s p).loads = []) : LoadsKept p s (tryLoads s p) := by
  rw [tryLoads, h]
  exact loadsKept_setPart h.symm

/-- The end of a partition's only load leaves it without loads, and changes partitions and rings alone. -/
theorem endLoad_only {s : State} {p : Nat} {l : LoadSt} (h : (getPart s p).loads = [l]) (status detail : Nat) :
    PartsAndRings s (endLoad s p l status detail) ∧ (getPart (endLoad s p l status detail) p).loads = [] := by
  have hrest : (if status = 0 then (getPart s p).loads.filter (· != l) else (getPart s p).loads.filter (fun m => !sameDesc l m)) = [] := by
    rw [h]
    split <;> simp [sameDesc]
  have hdone : status ≠ 0 ∨ ([] : List LoadSt).any (sameDesc l) = false := .inr rfl
  unfold endLoad
  dsimp only
  rw [hrest, if_pos hdone]
  let s₁ := finishDesc (setPart s p { getPart s p with loads := [] }) l.ring l.desc status detail
  let s₂ := if (status = 0 || l.waiting) = true then s₁ else refuseSwitches s₁ p l.ctx
  have hnone : (getPart s₁ p).loads = [] := congrArg PartSt.loads (getPart_setPart_same _ _ _)
  have hswitches : LoadsKept p s₁ s₂ := by
    unfold s₂
    split
    · exact ⟨rfl, rfl⟩
    · exact loadsKept_refuseSwitches _ _ _
  have hall := (hswitches.trans (loadsKept_tryLoads (hswitches.2.trans hnone))).trans (loadsKept_settleSwitch _ _)
  exact ⟨PartsAndRings.trans (t := s₁) rfl hall.1, hall.2.trans hnone⟩

end Sys2Proof.Machine
end

section
/-! PROOFS. Loads that wait (R133, R135, R140): what holds one back, what begins, and the end of one that has waited too long. -/

namespace Sys2Proof.Machine

/-! ### A load that begins (R133, R140) -/

/-- A core whose context is to be written: it is no longer resident, its GEN inverted, its accumulator slots free (R133). -/
def beginCore (c : Nat) (co : CoreSt) : CoreSt :=
  setCtx (invalidateAcc co (getCtx co c)) c { getCtx co c with resident := false, gen := !(getCtx co c).gen, accPhys := [] }

theorem beginLoad_eq (s : State) (p c : Nat) : beginLoad s p c = mapCores s p (fun _ => beginCore c) := rfl

theorem getCtx_beginCore_same (c : Nat) (co : CoreSt) : getCtx (beginCore c co) c =
    { getCtx co c with resident := false, gen := !(getCtx co c).gen, accPhys := [] } := getCtx_setCtx_same _ _ _

theorem getCtx_beginCore_other {c n : Nat} (h : n ≠ c) (co : CoreSt) : getCtx (beginCore c co) n = getCtx co n := getCtx_setCtx_other _ _ _ _ h

/-- A core without its fold table and without a current context (R140). -/
def unfoldCore (co : CoreSt) : CoreSt := { co with fold := [], foldPos := 0, cur := none }

/-- The state in which a load begins: one that replaces the fold table discards the old one first. -/
def unfolded (s : State) (p : Nat) (fold : Bool) : State := if fold then dropFold s p else s

theorem unfolded_true (s : State) (p : Nat) :
    unfolded s p true = mapCores (setPart s p { getPart s p with hasFold := false, cur := none }) p (fun _ => unfoldCore) := rfl

/-- The partition in which a load begins. -/
theorem getPart_unfolded (s : State) (p : Nat) (fold : Bool) : getPart (unfolded s p fold) p =
    if fold then { getPart s p with hasFold := false, cur := none } else getPart s p := by
  cases fold
  · rfl
  · rw [unfolded_true, getPart_mapCores, getPart_setPart_same]
    rfl

theorem partCores_unfolded (s : State) (p : Nat) (fold : Bool) : partCores (getPart (unfolded s p fold) p) = partCores (getPart s p) := by
  rw [getPart_unfolded]
  split <;> rfl

theorem clusters_unfolded (s : State) (p : Nat) (fold : Bool) : (getPart (unfolded s p fold) p).clusters = (getPart s p).clusters := by
  rw [getPart_unfolded]
  split <;> rfl

theorem unfolded_frame (s : State) (p : Nat) (fold : Bool) : unfolded s p fold =
    { s with cores := (unfolded s p fold).cores, parts := (unfolded s p fold).parts } := by
  cases fold
  · rfl
  · rw [unfolded_true, mapCores_frame]
    rfl

theorem getCtx_unfolded (s : State) (p : Nat) (fold : Bool) (k n : Nat) : getCtx (getCore (unfolded s p fold) k) n = getCtx (getCore s k) n := by
  cases fold
  · rfl
  · exact getCore_mapCores_keeps (f := fun _ => unfoldCore) (P := fun co => getCtx co n = getCtx (getCore s k) n) (fun _ h => h) _ _ rfl

theorem getCore_unfolded_outside {s : State} {p k : Nat} (fold : Bool) (h : k ∉ partCores (getPart s p)) :
    getCore (unfolded s p fold) k = getCore s k := by
  cases fold
  · rfl
  · rw [unfolded_true, getCore_mapCores_outside _ (by rwa [getPart_setPart_same])]
    rfl

/-- Once the fold table is discarded every core of the partition is without it and without a current context. -/
theorem getCore_unfolded_inside {s : State} {p k : Nat} (h : k ∈ partCores (getPart s p)) :
    (getCore (unfolded s p true) k).fold = [] ∧ (getCore (unfolded s p true) k).cur = none := by
  have hk : k ∈ partCores (getPart (setPart s p { getPart s p with hasFold := false, cur := none }) p) := by
    rwa [getPart_setPart_same]
  obtain ⟨co, -, hco⟩ := getCore_mapCores_inside (f := fun _ => unfoldCore) (P := fun _ => True) (fun _ _ => trivial) trivial hk
  rw [unfolded_true, hco]
  exact ⟨rfl, rfl⟩

/-- The state once load `l` of partition `p` has begun. -/
def begun (s : State) (p : Nat) (l : LoadSt) : State := mapCores (unfolded s p l.fold) p (fun _ => beginCore l.ctx)

theorem begun_frame (s : State) (p : Nat) (l : LoadSt) : begun s p l = { s with cores := (begun s p l).cores, parts := (begun s p l).parts } := by
  unfold begun
  rw [mapCores_frame, unfolded_frame]

theorem getPart_begun (s : State) (p : Nat) (l : LoadSt) : getPart (begun s p l) p = getPart (unfolded s p l.fold) p := getPart_mapCores _ _ _ _

section
variable {s : State} {p k : Nat} (l : LoadSt)

theorem getCtx_begun_other {n : Nat} (h : n ≠ l.ctx) : getCtx (getCore (begun s p l) k) n = getCtx (getCore s k) n :=
  getCore_mapCores_keeps (f := fun _ => beginCore l.ctx) (P := fun co => getCtx co n = getCtx (getCore s k) n)
    (fun co hco => (getCtx_beginCore_other h co).trans hco) _ _
    (getCtx_unfolded _ _ _ _ _)

theorem getCore_begun_outside (h : k ∉ partCores (getPart s p)) : getCore (begun s p l) k = getCore s k := by
  unfold begun
  rw [getCore_mapCores_outside _ (by rwa [partCores_unfolded]), getCore_unfolded_outside _ h]

variable (hk : k ∈ partCores (getPart s p))
include hk

theorem getCtx_begun_resident : (getCtx (getCore (begun s p l) k) l.ctx).resident = false := by
  rw [← partCores_unfolded s p l.fold] at hk
  obtain ⟨co, -, hco⟩ := getCore_mapCores_inside (f := fun _ => beginCore l.ctx) (P := fun _ => True) (fun _ _ => trivial) trivial hk
  rw [begun, hco, getCtx_beginCore_same]

/-- GEN is inverted where the partition lists its clusters once. -/
theorem getCtx_begun_gen (h : (getPart s p).clusters.Nodup) :
    (getCtx (getCore (begun s p l) k) l.ctx).gen = !(getCtx (getCore s k) l.ctx).gen := by
  rw [begun, getCore_mapCores_once _ (by rwa [clusters_unfolded]) (by rwa [partCores_unfolded]), getCtx_beginCore_same, getCtx_unfolded]

theorem getCore_begun_fold (h : l.fold = true) : (getCore (begun s p l) k).fold = [] ∧ (getCore (begun s p l) k).cur = none := by
  unfold begun
  rw [h]
  exact getCore_mapCores_keeps (P := fun co => co.fold = [] ∧ co.cur = none) (fun _ hco => hco) _ _ (getCore_unfolded_inside hk)

end

/-! ### The only load of a partition -/

section
variable {s : State} {p : Nat} {l : LoadSt} (hloads : (getPart s p).loads = [l]) (hwaits : l.waiting = true)
include hloads hwaits

/-- A load that is held back goes on waiting. -/
theorem tryLoads_held (hheld : loadHeld s p [] l = true) : tryLoads s p = setPart s p { getPart s p with loads := [l] } := by
  rw [tryLoads, hloads, proceedLoads]
  simp [hwaits, hheld, sameDesc, proceedLoads]

theorem tryLoads_begins (hfree : loadHeld s p [] l = false) : tryLoads s p =
    setPart (begun s p l) p { getPart (begun s p l) p with loads := [{ l with waiting := false }] } := by
  rw [tryLoads, hloads, proceedLoads]
  simp [hwaits, hfree, sameDesc, proceedLoads, beginLoad_eq, begun, unfolded]

theorem loadBlocked_early {part : BitVec 6} {ctx : BitVec 2} (hp : part.toNat = p) (hearly : s.fc < l.since + wdogLimit s) :
    exec (.loadBlocked part ctx) s = .next s := by
  subst hp
  delta exec
  simp [execLoadBlocked, hloads, hwaits, Nat.not_le.mpr hearly]

theorem loadBlocked_late {part : BitVec 6} {ctx : BitVec 2} (hp : part.toNat = p) (hctx : ctx.toNat = l.ctx) (hlate : l.since + wdogLimit s ≤ s.fc) :
    exec (.loadBlocked part ctx) s = .next (endLoad s p l sLoadBlocked 0) := by
  subst hp
  delta exec
  simp [execLoadBlocked, hloads, hwaits, hctx, hlate]

end

/-- A load that is held back, one that begins, and one whose time is up. -/
theorem waitingLoads : Claims.WaitingLoads := by
  intro part s l p ks hloads hwaits
  refine ⟨fun hfree => ?begins, fun hheld => ?held, fun ctx hctx => ⟨loadBlocked_early hloads hwaits rfl, fun hlate => ?late⟩⟩
  case held =>
    refine ⟨_, congrArg Host.Outcome.next (tryLoads_held hloads hwaits hheld), rfl, ?_⟩
    rw [getPart_setPart_same]
  case late =>
    obtain ⟨hframe, hnone⟩ := endLoad_only hloads sLoadBlocked 0
    exact ⟨_, loadBlocked_late hloads hwaits rfl hctx hlate, hframe, hnone⟩
  case begins =>
    refine ⟨_, congrArg Host.Outcome.next (tryLoads_begins hloads hwaits hfree), ?frame, ?loads, fun k hk => getCtx_begun_resident l hk,
      fun hnodup k hk => getCtx_begun_gen l hk hnodup, fun k n hn => getCtx_begun_other l hn, fun k hk => getCore_begun_outside l hk,
      fun hfold => ⟨?hasFold, ?cur, fun k hk => getCore_begun_fold l hk hfold⟩⟩
    case frame =>
      rw [begun_frame]
      rfl
    all_goals rw [getPart_setPart_same]
    all_goals rw [getPart_begun, getPart_unfolded, hfold]
    all_goals rfl

end Sys2Proof.Machine
end

section
/-! PROOFS. The end of a context load (R82, R89, R131, R133, R134, R140, R371): the readings of its images, what each core is given, and how the
load ends. -/

namespace Sys2Proof.Machine

/-! ### Accumulator slots that move (R82; log entry 14) -/

/-- From `co` to `co'` the contexts keep everything but where their accumulator slots lie. -/
def SlotsMoved (co co' : CoreSt) : Prop := ∀ n, getCtx co' n = { getCtx co n with accPhys := (getCtx co' n).accPhys }

theorem SlotsMoved.refl (co : CoreSt) : SlotsMoved co co := fun _ => rfl

theorem SlotsMoved.trans {a b c : CoreSt} (hab : SlotsMoved a b) (hbc : SlotsMoved b c) : SlotsMoved a c := by
  intro n
  rw [hbc n, hab n]

/-- A table read after a function of its values. -/
theorem mget_map_values {α : Type} {d : α} {f : α → α} (hd : f d = d) (m : SMap α) (k : Nat) : mget d (m.map (fun x => (x.1, f x.2))) k = f (mget d m k) := by
  induction m with
  | nil => exact hd.symm
  | cons x m ih =>
    simp only [List.map_cons, mget, ih]
    split <;> rfl

theorem moveAcc_slotsMoved (co : CoreSt) (e src dst : Nat) : SlotsMoved co (moveAcc co e src dst) := by
  intro n
  have hread := mget_map_values (d := ({} : Ctx))
    (f := fun x => { x with accPhys := x.accPhys.map (fun a => if a.1 / 16 % 4 = e ∧ a.2 = src + 1 then (a.1, dst + 1) else a) }) rfl co.ctxs n
  unfold moveAcc getCtx
  rw [hread]

theorem makePairs_slotsMoved (im : CtxImage) (c e f : Nat) (co : CoreSt) : SlotsMoved co (makePairs im c e f co) := by
  induction f generalizing co with
  | zero => exact .refl co
  | succ f ih =>
    rw [makePairs]
    split
    · split
      · exact (moveAcc_slotsMoved _ _ _ _).trans (ih _)
      · exact .refl co
    · exact .refl co

/-! ### What a load gives a core (R89, R133) -/

/-- The core once every engine has the pairs that an image asks for. -/
def pairsMade (im : CtxImage) (c : Nat) (co : CoreSt) : CoreSt := (List.range 4).foldl (fun co e => makePairs im c e 8 co) co

theorem pairsMade_slotsMoved (im : CtxImage) (c : Nat) (co : CoreSt) : SlotsMoved co (pairsMade im c co) :=
  List.foldlRecOn (motive := SlotsMoved co) _ _ (.refl co) fun _ h _ _ => h.trans (makePairs_slotsMoved _ _ _ _ _)

section
variable (slot c : Nat) (ims : List (Nat × CtxImage)) (regions : List (Nat × Nat)) (k : Nat) (co : CoreSt)

/-- The context that a load writes: the state that a load establishes. -/
def loadedCtx : Ctx :=
  let im := (imageFor ims k).getD (idleImage k)
  freshCtx slot im (getCtx co c).gen (assignAll im (pairsMade im c co) c) (((regions.find? (fun r => r.1 == k)).map (·.2)).getD 0)

theorem getCtx_loadCore (n : Nat) : getCtx (loadCore slot c ims regions k co) n =
    getCtx (setCtx (pairsMade ((imageFor ims k).getD (idleImage k)) c co) c (loadedCtx slot c ims regions k co)) n := rfl

theorem getCtx_loadCore_same : getCtx (loadCore slot c ims regions k co) c = loadedCtx slot c ims regions k co := by
  rw [getCtx_loadCore, getCtx_setCtx_same]

theorem getCtx_loadCore_other {n : Nat} (h : n ≠ c) : getCtx (loadCore slot c ims regions k co) n =
    { getCtx co n with accPhys := (getCtx (loadCore slot c ims regions k co) n).accPhys } := by
  rw [getCtx_loadCore, getCtx_setCtx_other _ _ _ _ h]
  exact pairsMade_slotsMoved _ _ _ n

end

/-! ### The readings of the images (R134, R371) -/

section
variable (s : State) (p : Nat) (l : LoadSt)

/-- The fold tables that a load brings (R140). -/
def loadFolds : List (Nat × List Nat × Nat) :=
  match (getSlot s l.slot).pattern with | some pat => if l.fold then pat.folds else [] | none => []

/-- A core's image or fold table carries another check value than its bytes have. -/
def checkWrong (k : Nat) : Bool :=
  (imageFor (loadImages s l) k).any (fun im => imageCheck im k != im.trailer % 2 ^ 32)
    || (loadFolds s l).any (fun f => f.1 == k && foldCheck f.2.1 k != f.2.2)

/-- A reading of a core's image fails its check: it arrived corrupted, or its check value is wrong. -/
def readFails (r : List (BitVec 12)) (k : Nat) : Bool := r.any (fun c => c.toNat == k) || checkWrong s l k

/-- The cores of a partition whose first reading alone fails: transients (R371). -/
def transientCores (first second : List (BitVec 12)) : List Nat :=
  (partCores (getPart s p)).filter (fun k => readFails s l first k && !readFails s l second k)

/-- The state with LOAD_RETRY and the transients of the readings noted. -/
def readingsNoted (first second : List (BitVec 12)) : State :=
  (transientCores s p l first second).foldl (fun s _ => faultTransient s)
    { s with pipeFlags := raiseIf s.fc ((partCores (getPart s p)).any (readFails s l first)) s.pipeFlags pipeLoadRetry }

end

/-- The fold table that a pattern gives a core, at its first entry. -/
def foldCore (pat : Pattern) (k : Nat) (co : CoreSt) : CoreSt :=
  { co with fold := ((pat.folds.find? (fun f => f.1 == k)).map (·.2.1)).getD [], foldPos := 0 }

/-- The cores of a partition with context number `c` of load `l` written. -/
def coresLoaded (s : State) (p c : Nat) (l : LoadSt) (ims : List (Nat × CtxImage)) : State := mapCores s p (loadCore l.slot c ims l.regions)

/-- A partition that has the fold table of a pattern (R140). -/
def foldsLoaded (s : State) (p : Nat) (pat : Pattern) : State :=
  setPart (mapCores s p (foldCore pat)) p { getPart (mapCores s p (foldCore pat)) p with hasFold := true }

/-- A load of another context by the descriptor of `l` is still to come. -/
def foldAwaits (s : State) (p : Nat) (l : LoadSt) : Bool := (getPart s p).loads.any (fun m => m != l && m.ring == l.ring && m.desc == l.desc)

/-- The state with the cores loaded and, after the last load of a descriptor that brings one, the fold table. -/
def loaded (s : State) (p c : Nat) (l : LoadSt) (ims : List (Nat × CtxImage)) (pat : Pattern) : State :=
  if l.fold && !foldAwaits (coresLoaded s p c l ims) p l then foldsLoaded (coresLoaded s p c l ims) p pat else coresLoaded s p c l ims

/-- How a load of context number `c` ends once its images are written. -/
def loadEnds (s : State) (p c : Nat) (l : LoadSt) (first second : List (BitVec 12)) : Res :=
  let t := readingsNoted s p l first second
  match (partCores (getPart s p)).find? (fun k => readFails s l first k && readFails s l second k) with
  | some k => .next (endLoad t p l sPatternCheck k)
  | none =>
    match (getSlot t l.slot).pattern with
    | none => .next (endLoad t p l sBadPattern 0xFFFFFFFF)
    | some pat =>
      match lateRefusal pat l.fold c (loadImages s l) with
      | some k => .next (endLoad t p l sBadPattern k)
      | none => .next (endLoad (loaded t p c l (loadImages s l) pat) p l sSuccess 0)

theorem contextLoadEnd_eq (part : BitVec 6) (ctx : BitVec 2) (first second : List (BitVec 12)) (s : State) :
    exec (.contextLoadEnd part ctx first second) s =
      match (getPart s part.toNat).loads.find? (fun l => l.ctx == ctx.toNat && !l.waiting) with
      | none => .next s
      | some l => loadEnds s part.toNat ctx.toNat l first second := rfl

/-! ### The readings -/

theorem foldl_faultTransient_frame {β : Type} (l : List β) (s : State) : l.foldl (fun s _ => faultTransient s) s =
    { s with fault := (l.foldl (fun s _ => faultTransient s) s).fault } := by
  induction l generalizing s with
  | nil => rfl
  | cons b l ih =>
    rw [List.foldl_cons, ih]
    rfl

theorem readingsNoted_frame (s : State) (p : Nat) (l : LoadSt) (first second : List (BitVec 12)) : readingsNoted s p l first second = { s with
    pipeFlags := raiseIf s.fc ((partCores (getPart s p)).any (readFails s l first)) s.pipeFlags pipeLoadRetry,
    fault := (readingsNoted s p l first second).fault } := by
  unfold readingsNoted
  rw [foldl_faultTransient_frame]

theorem flagSet_raise_same (fc : Nat) (f : FlagReg) (b : Nat) : flagSet (raise fc f b) b = true := by
  have hnow := flagNow_raise_same fc f b
  simp only [flagNow, Bool.and_eq_true] at hnow
  exact hnow.1

/-- A transient raises its flag (R371). -/
theorem flagSet_foldl_faultTransient {β : Type} {l : List β} (h : l ≠ []) (s : State) :
    flagSet (l.foldl (fun s _ => faultTransient s) s).fault.flags ffTransient = true := by
  obtain ⟨b, l, rfl⟩ := List.exists_cons_of_ne_nil h
  rw [List.foldl_cons]
  exact List.foldlRecOn (motive := fun t : State => flagSet t.fault.flags ffTransient = true) _ _ (flagSet_raise_same _ _ _)
    fun _ _ _ _ => flagSet_raise_same _ _ _

/-- Every image and fold table that a load brings to its partition carries the check value of its bytes (R134, R140). -/
def ChecksPass (s : State) (p : Nat) (l : LoadSt) (pat : Pattern) : Prop :=
  (∀ k ∈ partCores (getPart s p), ∀ im, imageFor (loadImages s l) k = some im → imageCheck im k = im.trailer % 2 ^ 32) ∧
  (l.fold = true → ∀ f ∈ pat.folds, f.1 ∈ partCores (getPart s p) → foldCheck f.2.1 f.1 = f.2.2)

section
variable {s : State} {p : Nat} {l : LoadSt} {pat : Pattern} {first second : List (BitVec 12)}

theorem readFails_of_corrupted {r : List (BitVec 12)} {k : Nat} (h : ∃ q ∈ r, q.toNat = k) : readFails s l r k = true := by
  simpa [readFails] using .inl h

theorem loadFolds_eq (hpat : (getSlot s l.slot).pattern = some pat) : loadFolds s l = if l.fold then pat.folds else [] := by
  rw [loadFolds, hpat]

/-- Where the check values are right a reading fails as it arrives corrupted, and not else. -/
theorem readFails_iff (hpat : (getSlot s l.slot).pattern = some pat) (hpass : ChecksPass s p l pat) {r : List (BitVec 12)} {k : Nat}
    (hk : k ∈ partCores (getPart s p)) : readFails s l r k = true ↔ ∃ q ∈ r, q.toNat = k := by
  obtain ⟨himages, hfolds⟩ := hpass
  have hright : checkWrong s l k = false := by
    rw [checkWrong, loadFolds_eq hpat, Bool.or_eq_false_iff]
    constructor
    · cases him : imageFor (loadImages s l) k with
      | none => rfl
      | some im => simpa using himages k hk im him
    · cases hfold : l.fold with
      | false => rfl
      | true =>
        refine List.any_eq_false.mpr fun f hf => ?_
        simpa using fun hcore : f.1 = k => hcore ▸ hfolds hfold f hf (hcore ▸ hk)
  simp [readFails, hright]

/-- Readings without a fault leave no note. -/
theorem readingsNoted_clean (h : ∀ k ∈ partCores (getPart s p), readFails s l first k = false) : readingsNoted s p l first second = s := by
  have hnone : transientCores s p l first second = [] := List.filter_eq_nil_iff.mpr fun k hk => by simp [h k hk]
  have hany : (partCores (getPart s p)).any (readFails s l first) = false := List.any_eq_false.mpr fun k hk => by simp [h k hk]
  rw [readingsNoted, hnone, hany]
  rfl

/-- A first reading that fails raises LOAD_RETRY (R134). -/
theorem readingsNoted_retried {k : Nat} (hk : k ∈ partCores (getPart s p)) (hfirst : readFails s l first k = true) :
    readingsNoted s p l first second =
      { s with pipeFlags := raise s.fc s.pipeFlags pipeLoadRetry, fault := (readingsNoted s p l first second).fault } := by
  rw [readingsNoted_frame, raiseIf, if_pos (List.any_eq_true.mpr ⟨k, hk, hfirst⟩)]

theorem getPart_readingsNoted : getPart (readingsNoted s p l first second) p = getPart s p := by
  rw [readingsNoted_frame]
  rfl

/-- A core whose second reading passes is a transient (R371). -/
theorem readingsNoted_transient {k : Nat} (hk : k ∈ partCores (getPart s p)) (hfirst : readFails s l first k = true)
    (hsecond : readFails s l second k = false) : flagSet (readingsNoted s p l first second).fault.flags ffTransient = true := by
  refine flagSet_foldl_faultTransient (List.ne_nil_of_mem (List.mem_filter.mpr ⟨hk, ?_⟩)) _
  rw [hfirst, hsecond]
  rfl

end

/-! ### How a load ends -/

section
variable {part : BitVec 6} {ctx : BitVec 2} {first second : List (BitVec 12)} {s : State} {l : LoadSt} {pat : Pattern}
  (hloads : (getPart s part.toNat).loads = [l]) (hctx : l.ctx = ctx.toNat) (hwritten : l.waiting = false)
include hloads hctx hwritten

theorem contextLoadEnd_ends : exec (.contextLoadEnd part ctx first second) s = loadEnds s part.toNat ctx.toNat l first second := by
  have hfind : (getPart s part.toNat).loads.find? (fun l => l.ctx == ctx.toNat && !l.waiting) = some l := by simp [hloads, hctx, hwritten]
  rw [contextLoadEnd_eq, hfind]

/-- A core whose two readings fail ends the load (R134). -/
theorem contextLoadEnd_failed (hbad : ∃ k ∈ partCores (getPart s part.toNat), readFails s l first k = true ∧ readFails s l second k = true) :
    ∃ k, exec (.contextLoadEnd part ctx first second) s = .next (endLoad (readingsNoted s part.toNat l first second) part.toNat l sPatternCheck k) := by
  obtain ⟨k, hk⟩ : ∃ k, (partCores (getPart s part.toNat)).find? (fun k => readFails s l first k && readFails s l second k) = some k := by
    simpa [← Option.isSome_iff_exists] using hbad
  refine ⟨k, (contextLoadEnd_ends hloads hctx hwritten).trans ?_⟩
  rw [loadEnds, hk]

variable (hpat : (getSlot s l.slot).pattern = some pat)
  (hgood : ∀ k ∈ partCores (getPart s part.toNat), readFails s l first k = false ∨ readFails s l second k = false)
include hpat hgood

/-- Where no core fails twice the later checks decide (R131). -/
theorem contextLoadEnd_checked : exec (.contextLoadEnd part ctx first second) s =
    match lateRefusal pat l.fold ctx.toNat (loadImages s l) with
    | some k => .next (endLoad (readingsNoted s part.toNat l first second) part.toNat l sBadPattern k)
    | none => .next (endLoad (loaded (readingsNoted s part.toNat l first second) part.toNat ctx.toNat l (loadImages s l) pat) part.toNat l sSuccess 0) := by
  have hnone : (partCores (getPart s part.toNat)).find? (fun k => readFails s l first k && readFails s l second k) = none := by
    simpa [List.find?_eq_none, ← Bool.not_eq_true, imp_iff_not_or] using hgood
  have hpat' : (getSlot (readingsNoted s part.toNat l first second) l.slot).pattern = some pat := by
    rw [readingsNoted_frame]
    exact hpat
  refine (contextLoadEnd_ends hloads hctx hwritten).trans ?_
  rw [loadEnds, hnone]
  dsimp only
  rw [hpat']

end

/-! ### The cores of the partition once they are loaded -/

section
variable (s : State) (p c : Nat) (l : LoadSt) (ims : List (Nat × CtxImage)) (pat : Pattern)

theorem loaded_only (hloads : (getPart s p).loads = [l]) : loaded s p c l ims pat =
    if l.fold then foldsLoaded (coresLoaded s p c l ims) p pat else coresLoaded s p c l ims := by
  have hlast : foldAwaits (coresLoaded s p c l ims) p l = false := by simp [foldAwaits, coresLoaded, hloads]
  rw [loaded, hlast, Bool.not_false, Bool.and_true]

theorem foldsLoaded_frame : foldsLoaded s p pat = { s with cores := (foldsLoaded s p pat).cores, parts := (foldsLoaded s p pat).parts } := by
  unfold foldsLoaded
  rw [mapCores_frame]
  rfl

theorem loaded_frame : loaded s p c l ims pat = { s with cores := (loaded s p c l ims pat).cores, parts := (loaded s p c l ims pat).parts } := by
  unfold loaded
  split
  · rw [foldsLoaded_frame, coresLoaded, mapCores_frame]
  · rw [coresLoaded, mapCores_frame]

theorem loads_loaded : (getPart (loaded s p c l ims pat) p).loads = (getPart s p).loads := by
  unfold loaded
  split
  · rw [foldsLoaded, getPart_setPart_same]
    simp [coresLoaded]
  · simp [coresLoaded]

theorem getCore_foldsLoaded (k : Nat) : getCore (foldsLoaded s p pat) k = getCore (mapCores s p (foldCore pat)) k := getCore_setPart _ _ _ _

/-- The fold table leaves the contexts alone. -/
theorem getCtx_loaded (k n : Nat) : getCtx (getCore (loaded s p c l ims pat) k) n = getCtx (getCore (coresLoaded s p c l ims) k) n := by
  unfold loaded
  split
  · rw [getCore_foldsLoaded]
    exact getCore_mapCores_keeps (P := fun co => getCtx co n = getCtx (getCore (coresLoaded s p c l ims) k) n) (fun _ h => h) _ _ rfl
  · rfl

end

section
variable {s : State} {p c k : Nat} {l : LoadSt} {ims : List (Nat × CtxImage)} {pat : Pattern}

theorem getCore_loaded_outside (hk : k ∉ partCores (getPart s p)) : getCore (loaded s p c l ims pat) k = getCore s k := by
  have hcores : getCore (coresLoaded s p c l ims) k = getCore s k := getCore_mapCores_outside _ hk
  unfold loaded
  split
  · rw [getCore_foldsLoaded, getCore_mapCores_outside _ (by rwa [coresLoaded, getPart_mapCores]), hcores]
  · exact hcores

/-- The other contexts keep everything but where their accumulator slots lie (R82). -/
theorem getCtx_loaded_other {n : Nat} (hn : n ≠ c) : getCtx (getCore (loaded s p c l ims pat) k) n =
    { getCtx (getCore s k) n with accPhys := (getCtx (getCore (loaded s p c l ims pat) k) n).accPhys } := by
  rw [getCtx_loaded]
  refine getCore_mapCores_keeps (f := loadCore l.slot c ims l.regions)
    (P := fun co => getCtx co n = { getCtx (getCore s k) n with accPhys := (getCtx co n).accPhys }) (fun co hco => ?_) _ _ rfl
  rw [getCtx_loadCore_other _ _ _ _ _ _ hn, hco]

/-- The context loaded is in the state that a load establishes, its GEN as it was. -/
theorem getCtx_loaded_same (hk : k ∈ partCores (getPart s p)) : ∃ phys base, getCtx (getCore (loaded s p c l ims pat) k) c =
    freshCtx l.slot ((imageFor ims k).getD (idleImage k)) (getCtx (getCore s k) c).gen phys base := by
  obtain ⟨co, hgen, hco⟩ := getCore_mapCores_inside (f := loadCore l.slot c ims l.regions)
    (P := fun co => (getCtx co c).gen = (getCtx (getCore s k) c).gen) (fun co hco => by rwa [getCtx_loadCore_same]) rfl hk
  rw [getCtx_loaded, coresLoaded, hco, getCtx_loadCore_same, loadedCtx, hgen]
  exact ⟨_, _, rfl⟩

theorem getCore_loaded_fold (hloads : (getPart s p).loads = [l]) (hfold : l.fold = true) (hk : k ∈ partCores (getPart s p)) :
    (getCore (loaded s p c l ims pat) k).fold = ((pat.folds.find? (fun f => f.1 == k)).map (·.2.1)).getD [] ∧
    (getCore (loaded s p c l ims pat) k).foldPos = 0 := by
  rw [← getPart_mapCores s p (loadCore l.slot c ims l.regions)] at hk
  obtain ⟨co, -, hco⟩ := getCore_mapCores_inside (f := foldCore pat) (P := fun _ => True) (fun _ _ => trivial) trivial hk
  rw [loaded_only _ _ _ _ _ _ hloads, if_pos hfold, getCore_foldsLoaded, coresLoaded, hco]
  exact ⟨rfl, rfl⟩

end

/-! ### The statement -/

theorem contextLoadEnds : Claims.ContextLoadEnds := by
  intro part ctx first second s l pat p c ks ims sound hloads hctx hwritten hpat
  have hpasses (r : List (BitVec 12)) (hsound : sound) (hnone : ∀ k ∈ ks, ∀ q ∈ r, q.toNat ≠ k) : ∀ k ∈ ks, readFails s l r k = false := fun k hk => by
    rw [← Bool.not_eq_true, readFails_iff hpat hsound hk]
    exact fun ⟨q, hq, hqk⟩ => hnone k hk q hq hqk
  have hends (u : State) (hu : (getPart u p).loads = (getPart s p).loads) := endLoad_only (hu.trans hloads)
  refine ⟨fun hsound haccepted => ⟨fun hnone => ?loaded, fun hfirst hsecond => ?transient⟩, fun k hsound hrefused hnone => ?refused, fun hboth => ?failed⟩
  case failed =>
    obtain ⟨k, hk, hfirst, hsecond⟩ := hboth
    have hfails := readFails_of_corrupted (s := s) (l := l) hfirst
    obtain ⟨k', hexec⟩ := contextLoadEnd_failed hloads hctx hwritten ⟨k, hk, hfails, readFails_of_corrupted hsecond⟩
    obtain ⟨hframe, hleft⟩ := hends _ (congrArg PartSt.loads (getPart_readingsNoted (first := first) (second := second))) sPatternCheck k'
    refine ⟨_, hexec, ?_, hleft⟩
    rw [hframe, readingsNoted_retried hk hfails]
  case refused =>
    have hgood := hpasses first hsound hnone
    have hexec := contextLoadEnd_checked (second := second) hloads hctx hwritten hpat fun k hk => .inl (hgood k hk)
    rw [hrefused, readingsNoted_clean hgood] at hexec
    exact ⟨_, hexec, hends s rfl _ _⟩
  case transient =>
    obtain ⟨k, hk, hcorrupted⟩ := hfirst
    have hgood := hpasses second hsound hsecond
    have hfails := readFails_of_corrupted (s := s) (l := l) hcorrupted
    have hexec := contextLoadEnd_checked (first := first) hloads hctx hwritten hpat fun k hk => .inr (hgood k hk)
    rw [haccepted] at hexec
    obtain ⟨hframe, -⟩ := hends _ ((loads_loaded _ _ _ _ _ _).trans (congrArg PartSt.loads getPart_readingsNoted)) sSuccess 0
    refine ⟨_, hexec, ?retry, ?flag, fun k hk => ?resident⟩
    case retry => rw [hframe, loaded_frame, readingsNoted_retried hk hfails]
    case flag =>
      rw [hframe, loaded_frame]
      exact readingsNoted_transient hk hfails (hgood k hk)
    case resident =>
      have hlisted : k ∈ partCores (getPart (readingsNoted s p l first second) p) := by rwa [getPart_readingsNoted]
      obtain ⟨phys, base, hfresh⟩ := getCtx_loaded_same (c := c) (l := l) (ims := ims) (pat := pat) hlisted
      rw [hframe.getCore, hfresh]
      rfl
  case loaded =>
    have hgood := hpasses first hsound hnone
    have hexec := contextLoadEnd_checked (second := second) hloads hctx hwritten hpat fun k hk => .inl (hgood k hk)
    rw [haccepted, readingsNoted_clean hgood] at hexec
    obtain ⟨hframe, hleft⟩ := hends _ (loads_loaded s p c l ims pat) sSuccess 0
    refine ⟨_, hexec, ?frame, fun k hk => ?context, fun k n hn => ?others, fun k hk => ?outside, hleft, fun hfold k hk => ?fold⟩
    case frame =>
      rw [hframe, loaded_frame]
    all_goals rw [hframe.getCore]
    case context =>
      obtain ⟨phys, base, hfresh⟩ := getCtx_loaded_same (c := c) (l := l) (ims := ims) (pat := pat) hk
      rw [hfresh]
      exact ⟨rfl, rfl, rfl, rfl, rfl, rfl, rfl, rfl, rfl⟩
    case others => exact getCtx_loaded_other hn
    case outside => exact getCore_loaded_outside hk
    case fold => exact getCore_loaded_fold hloads hfold hk

end Sys2Proof.Machine

open Sys2Proof.Machine

/-- Settles O12: a load ends by its readings and its later checks, core by core; one that waits begins, goes on waiting or is ended. -/
theorem contextLoads : Obligations.ContextLoads := ⟨contextLoadEnds, waitingLoads⟩
end

section
/-! PROOFS. RECV and REL (R118, R127): what each does to the head of its queue, and what a token that moves leaves of the other queues and cores. -/

namespace Sys2Proof.Machine

open Sys2Proof.Claims

/-! ### Queues of a core -/

@[simp] theorem getQueue_setQueue_same (co : CoreSt) (q : Nat) (x : Queue) : getQueue (setQueue co q x) q = x := by
  simp [getQueue, setQueue]

theorem getQueue_setQueue_other (co : CoreSt) (q : Nat) (x : Queue) {r : Nat} (h : r ≠ q) : getQueue (setQueue co q x) r = getQueue co r := by
  simp [getQueue, setQueue, mget_mset_other _ _ _ _ _ h]

/-- The end of a bundle leaves the queues alone. -/
theorem getQueue_endBundle (co : CoreSt) (n : Nat) (x : Ctx) (r : Nat) : getQueue (endBundle co n x) r = getQueue co r := by
  obtain ⟨-, -, -, hqueues, -⟩ := endBundle_stores co n x
  rw [getQueue, hqueues, getQueue]

/-- The oldest token leaves, from the hardware entries before the lane (R121). -/
theorem Queue.pop_tokens (x : Queue) : x.pop.hw ++ x.pop.lane = (x.hw ++ x.lane).tail := by
  unfold Queue.pop
  cases x.hw <;> simp

theorem Queue.pop_held (x : Queue) : x.pop.held = false := by
  unfold Queue.pop
  split <;> rfl

/-! ### Tokens that move at a core (R144) -/

/-- A core is written and a token of its partition has moved. -/
theorem coreAndStall_tokenMoved (s : State) (c : Nat) (co : CoreSt) : CoreAndStall s (tokenMoved (setCore s c co) c) c := by
  refine ⟨?_, fun d hd => ?_, fun p => getPart_tokenMoved _ _ _⟩
  · rw [tokenMoved_frame]
    rfl
  · rw [getCore_tokenMoved, getCore_setCore_other _ _ _ _ hd]

/-! ### RECV -/

section
variable {o : TokOp} {s : State} {i : Issue} (hissue : Issues s o.core i)
include hissue

theorem recv_rejected (h : (getQueue i.core o.q.toNat).held = true ∨ foldAllows (corePart s o.core.toNat) i.core o.q.toNat = false) :
    exec (.recv o) s = .refused .rejectedAtLoad := by
  unfold corePart at h
  refine (atCore_issues hissue _).trans (if_pos ?_)
  simpa using h

variable (hfree : (getQueue i.core o.q.toNat).held = false) (hallow : foldAllows (corePart s o.core.toNat) i.core o.q.toNat = true)
include hfree hallow

/-- A RECV that a load accepts goes by the head of its queue. -/
theorem recv_accepted : exec (.recv o) s = match (getQueue i.core o.q.toNat).head with
    | none => .next (setCore s o.core.toNat (stopAt i.core (.recvEmpty o.q.toNat)))
    | some t =>
      if tokCtx t.hdr = i.n ∧ tokGen t.hdr = i.ctx.gen then
        if tokKind t.hdr = 0 then
          .next (tokenMoved (setCore s o.core.toNat
            (endBundle (setQueue i.core o.q.toNat { getQueue i.core o.q.toNat with held := true }) i.n i.ctx)) o.core.toNat)
        else .next (tokenMoved (setCore (coreSeqFault (seqError s o.core.toNat) o.core.toNat) o.core.toNat
          (tickCore (setQueue i.core o.q.toNat (getQueue i.core o.q.toNat).pop) 1)) o.core.toNat)
      else .next (setCore s o.core.toNat (stopAt i.core (.recvEmpty o.q.toNat))) := by
  unfold corePart at hallow
  refine (atCore_issues hissue _).trans ((if_neg ?_).trans ?_)
  · simp [hfree, hallow]
  · rfl

theorem recv_empty (hhead : (getQueue i.core o.q.toNat).head = none) :
    exec (.recv o) s = .next (setCore s o.core.toNat (stopAt i.core (.recvEmpty o.q.toNat))) := by
  rw [recv_accepted hissue hfree hallow, hhead]

variable {tk : Token} (hhead : (getQueue i.core o.q.toNat).head = some tk)
include hhead

theorem recv_otherTag (htag : tokCtx tk.hdr ≠ i.n ∨ tokGen tk.hdr ≠ i.ctx.gen) :
    exec (.recv o) s = .next (setCore s o.core.toNat (stopAt i.core (.recvEmpty o.q.toNat))) := by
  rw [recv_accepted hissue hfree hallow, hhead]
  exact if_neg (not_and_or.mpr htag)

variable (hctx : tokCtx tk.hdr = i.n) (hgen : tokGen tk.hdr = i.ctx.gen)
include hctx hgen

theorem recv_taken (hkind : tokKind tk.hdr = 0) : exec (.recv o) s = .next (tokenMoved (setCore s o.core.toNat
    (endBundle (setQueue i.core o.q.toNat { getQueue i.core o.q.toNat with held := true }) i.n i.ctx)) o.core.toNat) := by
  rw [recv_accepted hissue hfree hallow, hhead]
  exact (if_pos ⟨hctx, hgen⟩).trans (if_pos hkind)

theorem recv_otherKind (hkind : tokKind tk.hdr ≠ 0) :
    exec (.recv o) s = .next (tokenMoved (setCore (coreSeqFault (seqError s o.core.toNat) o.core.toNat) o.core.toNat
      (tickCore (setQueue i.core o.q.toNat (getQueue i.core o.q.toNat).pop) 1)) o.core.toNat) := by
  rw [recv_accepted hissue hfree hallow, hhead]
  exact (if_pos ⟨hctx, hgen⟩).trans (if_neg hkind)

end

/-- A RECV is rejected, stops, takes the head, or discards it. -/
theorem receive : Claims.Receive := by
  intro o s i hissue c q qu p
  refine ⟨recv_rejected hissue, fun hfree hallow => ⟨recv_empty hissue hfree hallow, fun tk hhead htag => recv_otherTag hissue hfree hallow hhead htag,
    fun tk hhead hctx hgen hkind => ?taken, fun tk hhead hctx hgen hkind => recv_otherKind hissue hfree hallow hhead hctx hgen hkind⟩⟩
  case taken =>
    refine ⟨_, recv_taken hissue hfree hallow hhead hctx hgen hkind, coreAndStall_tokenMoved _ _ _, ?_⟩
    rw [getCore_tokenMoved, getCore_setCore_same]
    simp only [getQueue_endBundle, q, getQueue_setQueue_same]
    exact ⟨rfl, trivial, rfl, rfl, fun r hr => getQueue_setQueue_other _ _ _ hr⟩

/-! ### REL -/

section
variable {o : TokOp} {s : State} {i : Issue} (hissue : Issues s o.core i)
include hissue

theorem rel_rejected (hfree : (getQueue i.core o.q.toNat).held = false) : exec (.rel o) s = .refused .rejectedAtLoad := by
  refine (atCore_issues hissue _).trans (if_pos ?_)
  simp [hfree]

theorem rel_taken (hheld : (getQueue i.core o.q.toNat).held = true) : exec (.rel o) s = .next (tokenMoved (setCore s o.core.toNat
    (endBundle (setQueue i.core o.q.toNat (getQueue i.core o.q.toNat).pop) i.n i.ctx)) o.core.toNat) := by
  refine (atCore_issues hissue _).trans (if_neg ?_)
  simp [hheld]

end

/-- A REL is rejected, or takes the head out of its queue. -/
theorem release : Claims.Release := by
  intro o s i hissue c q qu
  refine ⟨rel_rejected hissue, fun hheld => ⟨_, rel_taken hissue hheld, coreAndStall_tokenMoved _ _ _, ?_⟩⟩
  rw [getCore_tokenMoved, getCore_setCore_same]
  simp only [getQueue_endBundle, q, getQueue_setQueue_same]
  exact ⟨rfl, Queue.pop_held _, Queue.pop_tokens _, fun r hr => getQueue_setQueue_other _ _ _ hr⟩

end Sys2Proof.Machine

open Sys2Proof.Machine

/-- Settles O6: RECV by the head of its queue, REL by whether it is held. -/
theorem receiveAndRelease : Obligations.ReceiveAndRelease := ⟨receive, release⟩
end

section
/-! PROOFS. CONTEXT_SWITCH (R129): a core that takes the pending request at its token boundary, and the end of the request once every core stands in
its context. -/

namespace Sys2Proof.Machine

/-! ### The outstanding request of a partition (R129, R130) -/

/-- No request takes the place of one that is outstanding. -/
theorem promoteSwitch_outstanding {x : PartSt} {r : SwReq} (h : x.swReq = some r) : promoteSwitch x = x := by
  simp [promoteSwitch, h]

/-- With no request that waits nothing takes a place. -/
theorem promoteSwitch_noneWaits {x : PartSt} (h : x.swWait = []) : promoteSwitch x = x := by
  unfold promoteSwitch
  rw [h]
  cases x.swReq <;> rfl

theorem promoteSwitch_cur (x : PartSt) : (promoteSwitch x).cur = x.cur := by
  unfold promoteSwitch
  split
  · split
    · split <;> rfl
    · rfl
  · rfl

/-- Every core of partition `p` stands in context `c`. -/
def allStandIn (s : State) (p c : Nat) : Prop := ∀ k ∈ partCores (getPart s p), (getCore s k).cur = some c

/-- The partition once its outstanding request `r` has ended. -/
def switchedPart (x : PartSt) (r : SwReq) : PartSt := promoteSwitch { x with cur := some r.ctx, swReq := none }

section
variable {s : State} {p : Nat} {r : SwReq} (hreq : (getPart s p).swReq = some r)
include hreq

/-- While a core stands in another context the request stays. -/
theorem settleSwitch_pending (h : ¬ allStandIn s p r.ctx) : settleSwitch s p = setPart s p (getPart s p) := by
  have hsome : ¬(partCores (getPart s p)).all (fun c => (getCore s c).cur == some r.ctx) = true := by
    simpa [allStandIn] using h
  unfold settleSwitch
  simp only [promoteSwitch_outstanding hreq, hreq]
  exact if_neg hsome

theorem getPart_settleSwitch_ended (h : allStandIn s p r.ctx) : getPart (settleSwitch s p) p = switchedPart (getPart s p) r := by
  have hall : (partCores (getPart s p)).all (fun c => (getCore s c).cur == some r.ctx) = true := by
    simpa [allStandIn] using h
  unfold settleSwitch
  simp only [promoteSwitch_outstanding hreq, hreq, if_pos hall]
  cases r.desc <;> exact getPart_setPart_same _ _ _

end

/-! ### The row -/

/-- A core that has taken the request for context `c` (R129). -/
def switchedCore (co : CoreSt) (c : Nat) : CoreSt := tickCore { co with cur := some c, boundary := true, stop := none } 1

theorem switchedCore_cur (co : CoreSt) (c : Nat) : (switchedCore co c).cur = some c := by
  rw [switchedCore, tickCore_frame]

section
variable {core : BitVec 12} {s : State} {p : Nat} {r : SwReq} (hvalid : coreValid core.toNat = true)
  (hpart : partOfCluster s (coreCluster core.toNat) = some p) (hreq : (getPart s p).swReq = some r)
include hvalid hpart hreq

/-- A core in the requested context, or not at a token boundary, does not switch. -/
theorem contextSwitch_ignored (h : (getCore s core.toNat).cur = some r.ctx ∨ ((getCore s core.toNat).boundary = false ∧ (getCore s core.toNat).cur ≠ none)) :
    exec (.contextSwitch core) s = .next s := by
  have hno : ((getCore s core.toNat).cur != some r.ctx && ((getCore s core.toNat).boundary || (getCore s core.toNat).cur.isNone)) = false := by
    rcases h with hsame | ⟨hwithin, hcur⟩
    · simp [hsame]
    · simp [hwithin, Option.isNone_eq_false_iff, Option.isSome_iff_ne_none.mpr hcur]
  show execContextSwitch core s = _
  simp [execContextSwitch, hvalid, hpart, hreq, hno]

theorem contextSwitch_taken (hdrain : (getPart s p).drain = .idle) (hother : (getCore s core.toNat).cur ≠ some r.ctx)
    (hboundary : (getCore s core.toNat).boundary = true ∨ (getCore s core.toNat).cur = none) (hresident : (getCtx (getCore s core.toNat) r.ctx).resident = true) :
    exec (.contextSwitch core) s = .next (settleSwitch (setCore s core.toNat (switchedCore (getCore s core.toNat) r.ctx)) p) := by
  have hstands : ((getCore s core.toNat).boundary || (getCore s core.toNat).cur.isNone) = true := by simpa using hboundary
  show execContextSwitch core s = _
  simp [execContextSwitch, hvalid, hpart, hreq, hother, hstands, hresident, hdrain, switchedCore]

end

end Sys2Proof.Machine

open Sys2Proof.Machine

/-- Settles O11: the core ignores the request or takes it, and the request ends exactly where every other core has taken it. -/
theorem contextSwitch : Obligations.ContextSwitch := by
  intro core s p r hvalid hpart hreq hdrain co
  refine ⟨fun hsame => contextSwitch_ignored hvalid hpart hreq (.inl hsame),
    fun _ hwithin hcur => contextSwitch_ignored hvalid hpart hreq (.inr ⟨hwithin, hcur⟩), fun hother hboundary hresident => ?_⟩
  have hframe := (loadsKept_settleSwitch (setCore s core.toNat (switchedCore co r.ctx)) p).1
  have hreq' : (getPart (setCore s core.toNat (switchedCore co r.ctx)) p).swReq = some r := hreq
  have hown : (getCore (setCore s core.toNat (switchedCore co r.ctx)) core.toNat).cur = some r.ctx := by
    rw [getCore_setCore_same, switchedCore_cur]
  refine ⟨_, contextSwitch_taken hvalid hpart hreq hdrain hother hboundary hresident, fun d hd => ?others, ?core, ?cur, ?frame,
    fun ⟨k, hk, hne, hcur⟩ => ?stays, fun hall => ?ends⟩
  case others => rw [hframe.getCore, getCore_setCore_other _ _ _ _ hd]
  case core => rw [hframe.getCore, getCore_setCore_same, switchedCore]
  case cur => rw [hframe.getCore, hown]
  case frame =>
    rw [hframe]
    rfl
  case stays =>
    have hnot : ¬ allStandIn (setCore s core.toNat (switchedCore co r.ctx)) p r.ctx := fun hall =>
      hcur ((congrArg CoreSt.cur (getCore_setCore_other s _ _ k hne)).symm.trans (hall k hk))
    rw [settleSwitch_pending hreq' hnot, getPart_setPart_same]
    exact hreq
  case ends =>
    have hstand : allStandIn (setCore s core.toNat (switchedCore co r.ctx)) p r.ctx := fun k hk => by
      by_cases hk' : k = core.toNat
      · rw [hk', hown]
      · rw [getCore_setCore_other _ _ _ _ hk', hall k hk hk']
    rw [getPart_settleSwitch_ended hreq' hstand, switchedPart]
    refine ⟨promoteSwitch_cur _, fun hnone => ?_⟩
    rw [promoteSwitch_noneWaits]
    exact hnone
end

section
/-! PROOFS. Tokens that reach a core (R120, R121, R124, R137, R151), the fill of a hardware queue from its lane (R125), and the hold of a QDELAY
point (R419). -/

namespace Sys2Proof.Machine

open Sys2Proof.Claims

/-! ### A token that enters its queue (R120, R121, R124) -/

/-- `tk` has entered its queue behind every token that is there, and its context expects the next sequence number on that queue. -/
structure TokenEntered (tk : Token) (co co' : CoreSt) : Prop where
  tokens : (getQueue co' (tokQ tk.hdr)).hw ++ (getQueue co' (tokQ tk.hdr)).lane =
    (getQueue co (tokQ tk.hdr)).hw ++ (getQueue co (tokQ tk.hdr)).lane ++ [tk]
  held : (getQueue co' (tokQ tk.hdr)).held = (getQueue co (tokQ tk.hdr)).held
  otherQueues : ∀ r, r ≠ tokQ tk.hdr → getQueue co' r = getQueue co r
  seq : mget 0 (getCtx co' (tokCtx tk.hdr)).recvSeq (tokQ tk.hdr) = (mget 0 (getCtx co (tokCtx tk.hdr)).recvSeq (tokQ tk.hdr) + 1) % 32
  otherSeqs : ∀ r, r ≠ tokQ tk.hdr → mget 0 (getCtx co' (tokCtx tk.hdr)).recvSeq r = mget 0 (getCtx co (tokCtx tk.hdr)).recvSeq r

/-- A token takes a hardware entry only where the lane is empty (R124). -/
theorem lane_of_place_hardware {co : CoreSt} {q : Nat} {h : DWord} (hplace : place co q h = .hardware) : (getQueue co q).lane = [] := by
  unfold place at hplace
  dsimp only at hplace
  split at hplace
  next hroom =>
    rw [Bool.and_eq_true, List.isEmpty_iff] at hroom
    exact hroom.1
  next => split at hplace <;> cases hplace

/-- The core with its context expecting the sequence number after that of `tk`. -/
def seqTaken (co : CoreSt) (tk : Token) : CoreSt :=
  setCtx co (tokCtx tk.hdr) { getCtx co (tokCtx tk.hdr) with
    recvSeq := mset 0 (getCtx co (tokCtx tk.hdr)).recvSeq (tokQ tk.hdr)
      ((mget 0 (getCtx co (tokCtx tk.hdr)).recvSeq (tokQ tk.hdr) + 1) % 32) }

/-- A core that has taken the sequence number and has the token at the end of the queue. -/
theorem tokenEntered_of_queue {tk : Token} {co co' : CoreSt} {x : Queue} (hctxs : co'.ctxs = (seqTaken co tk).ctxs)
    (hqueues : co'.queues = mset {} co.queues (tokQ tk.hdr) x)
    (htokens : x.hw ++ x.lane = (getQueue co (tokQ tk.hdr)).hw ++ (getQueue co (tokQ tk.hdr)).lane ++ [tk])
    (hheld : x.held = (getQueue co (tokQ tk.hdr)).held) : TokenEntered tk co co' := by
  have hqueue : getQueue co' (tokQ tk.hdr) = x := by rw [getQueue, hqueues, mget_mset_same]
  have hctx : getCtx co' (tokCtx tk.hdr) = getCtx (seqTaken co tk) (tokCtx tk.hdr) := by rw [getCtx, hctxs, getCtx]
  refine ⟨by rw [hqueue, htokens], by rw [hqueue, hheld], fun r hr => ?others, ?seq, fun r hr => ?otherSeqs⟩
  case others => rw [getQueue, hqueues, mget_mset_other _ _ _ _ _ hr, getQueue]
  all_goals rw [hctx, seqTaken, getCtx_setCtx_same]
  case seq => exact mget_mset_same _ _ _ _
  case otherSeqs => exact mget_mset_other _ _ _ _ _ hr

section
variable {s : State} {tk : Token}

/-- An expected token passes its checks. -/
theorem deliver_expected (h : Expected s tk) : deliver s tk =
    match place (getCore s (tokDst tk.hdr)) (tokQ tk.hdr) tk.hdr with
    | .hardware => tokenMoved (setCore s (tokDst tk.hdr) (setQueue (seqTaken (getCore s (tokDst tk.hdr)) tk) (tokQ tk.hdr)
        { getQueue (getCore s (tokDst tk.hdr)) (tokQ tk.hdr) with hw := (getQueue (getCore s (tokDst tk.hdr)) (tokQ tk.hdr)).hw ++ [tk] })) (tokDst tk.hdr)
    | .lane => tokenMoved (setCore s (tokDst tk.hdr) { setQueue (seqTaken (getCore s (tokDst tk.hdr)) tk) (tokQ tk.hdr)
        { getQueue (getCore s (tokDst tk.hdr)) (tokQ tk.hdr) with lane := (getQueue (getCore s (tokDst tk.hdr)) (tokQ tk.hdr)).lane ++ [tk] } with
          accessAc := (getCore s (tokDst tk.hdr)).accessAc + 3 }) (tokDst tk.hdr)
    | .full => s := by
  obtain ⟨hresident, hgen, hseq, hkind⟩ := h
  have htag : ¬(!((getCtx (getCore s (tokDst tk.hdr)) (tokCtx tk.hdr)).resident &&
      (getCtx (getCore s (tokDst tk.hdr)) (tokCtx tk.hdr)).gen == tokGen tk.hdr)) = true := by simp [hresident, hgen]
  have horder : ¬(tokSeq tk.hdr != mget 0 (getCtx (getCore s (tokDst tk.hdr)) (tokCtx tk.hdr)).recvSeq (tokQ tk.hdr) || tokKind tk.hdr == 3) = true := by
    simp [hseq, hkind]
  exact (if_neg htag).trans (if_neg horder)

theorem deliver_full (h : Expected s tk) (hfull : place (getCore s (tokDst tk.hdr)) (tokQ tk.hdr) tk.hdr = .full) : deliver s tk = s := by
  rw [deliver_expected h, hfull]

theorem deliver_enters (h : Expected s tk) (hroom : place (getCore s (tokDst tk.hdr)) (tokQ tk.hdr) tk.hdr ≠ .full) :
    ∃ co', deliver s tk = tokenMoved (setCore s (tokDst tk.hdr) co') (tokDst tk.hdr) ∧ TokenEntered tk (getCore s (tokDst tk.hdr)) co' := by
  rw [deliver_expected h]
  cases hplace : place (getCore s (tokDst tk.hdr)) (tokQ tk.hdr) tk.hdr with
  | full => exact absurd hplace hroom
  | hardware =>
    refine ⟨_, rfl, tokenEntered_of_queue rfl rfl ?_ rfl⟩
    rw [lane_of_place_hardware hplace, List.append_nil, List.append_nil]
  | lane => exact ⟨_, rfl, tokenEntered_of_queue rfl rfl (List.append_assoc _ _ _).symm rfl⟩

/-! ### The arrival of a token -/

/-- Without a QDELAY point or a token in its hold a token that arrives is checked at once. -/
theorem arrive_clear (h : QueueClear s (tokDst tk.hdr) (tokQ tk.hdr)) : arrive s tk = arriveNow s tk := by
  obtain ⟨-, hhold, hpoint⟩ := h
  simp [arrive, hpoint, hhold]

theorem arriveNow_unblocked (h : queueBlocked s (tokDst tk.hdr) (tokQ tk.hdr) = false) :
    arriveNow s tk = if seqWrong s tk = true then coreSeqFault (deliver s tk) (tokDst tk.hdr) else deliver s tk := by
  simp [arriveNow, h]

theorem seqWrong_expected (h : Expected s tk) : seqWrong s tk = false := by
  obtain ⟨-, -, hseq, hkind⟩ := h
  simp [seqWrong, hseq, hkind]

theorem arriveNow_expected (hopen : queueBlocked s (tokDst tk.hdr) (tokQ tk.hdr) = false) (h : Expected s tk) : arriveNow s tk = deliver s tk := by
  rw [arriveNow_unblocked hopen, seqWrong_expected h]
  rfl

theorem tokenArrival_clear (hvalid : coreValid (tokDst tk.hdr) = true) (h : QueueClear s (tokDst tk.hdr) (tokQ tk.hdr)) :
    exec (.tokenArrival tk) s = .next (arriveNow s tk) := by
  show execTokenArrival tk s = _
  simp [execTokenArrival, hvalid, arrive_clear h]

/-- A token of a context that is not resident, or of another GEN, is discarded (R137). -/
theorem arriveNow_otherTag (hopen : queueBlocked s (tokDst tk.hdr) (tokQ tk.hdr) = false)
    (h : (getCtx (getCore s (tokDst tk.hdr)) (tokCtx tk.hdr)).resident = false ∨
      (getCtx (getCore s (tokDst tk.hdr)) (tokCtx tk.hdr)).gen ≠ tokGen tk.hdr) :
    arriveNow s tk = tokenMoved (tagMismatch s (tokDst tk.hdr)) (tokDst tk.hdr) := by
  have htag : ((getCtx (getCore s (tokDst tk.hdr)) (tokCtx tk.hdr)).resident &&
      (getCtx (getCore s (tokDst tk.hdr)) (tokCtx tk.hdr)).gen == tokGen tk.hdr) = false := by
    rcases h with h | h <;> simp [h]
  have hseq : seqWrong s tk = false := by simp [seqWrong, htag]
  rw [arriveNow_unblocked hopen, hseq]
  simp [deliver, htag]

/-- A token out of sequence, or of KIND 3, is discarded (R120). -/
theorem arriveNow_outOfSequence (hopen : queueBlocked s (tokDst tk.hdr) (tokQ tk.hdr) = false)
    (hresident : (getCtx (getCore s (tokDst tk.hdr)) (tokCtx tk.hdr)).resident = true)
    (hgen : (getCtx (getCore s (tokDst tk.hdr)) (tokCtx tk.hdr)).gen = tokGen tk.hdr)
    (h : tokSeq tk.hdr ≠ mget 0 (getCtx (getCore s (tokDst tk.hdr)) (tokCtx tk.hdr)).recvSeq (tokQ tk.hdr) ∨ tokKind tk.hdr = 3) :
    arriveNow s tk = coreSeqFault (tokenMoved (seqError s (tokDst tk.hdr)) (tokDst tk.hdr)) (tokDst tk.hdr) := by
  have hwrong : (tokSeq tk.hdr != mget 0 (getCtx (getCore s (tokDst tk.hdr)) (tokCtx tk.hdr)).recvSeq (tokQ tk.hdr) || tokKind tk.hdr == 3) = true := by
    simpa using h
  have hseq : seqWrong s tk = true := by simp [seqWrong, hresident, hgen, hwrong]
  rw [arriveNow_unblocked hopen, hseq]
  simp [deliver, hresident, hgen, hwrong]

end

/-- A discarded token of another tag is counted for the partition, and TAG_MISMATCH is raised (R137, R151). -/
theorem tagMismatch_frame (s : State) (c : Nat) :
    tagMismatch s c = { s with parts := (tagMismatch s c).parts, pipeFlags := raise s.fc s.pipeFlags pipeTagMismatch } := by
  unfold tagMismatch
  dsimp only
  split <;> rfl

theorem tagMiss_tagMismatch {s : State} {c p : Nat} (h : partOfCluster s (coreCluster c) = some p) :
    (getPart (tokenMoved (tagMismatch s c) c) p).tagMiss = satAdd32 (getPart s p).tagMiss 1 := by
  have hcount : (getPart (tagMismatch s c) p).tagMiss = satAdd32 (getPart s p).tagMiss 1 := by
    have hsame : partOfCluster { s with pipeFlags := raise s.fc s.pipeFlags pipeTagMismatch } (coreCluster c) = some p := h
    simp only [tagMismatch, hsame, getPart_setPart_same]
    rfl
  rw [getPart_tokenMoved]
  split <;> exact hcount

theorem tokenArrival : Claims.TokenArrival := by
  intro tk s hvalid hclear c q qu x
  have hopen := hclear.1
  rw [tokenArrival_clear hvalid hclear]
  refine ⟨fun hexp hfull => ?full, fun hexp hroom => ?enters, fun htag => ?otherTag, fun hresident hgen hseq => ?sequence⟩
  case full => rw [arriveNow_expected hopen hexp, deliver_full hexp hfull]
  case enters =>
    obtain ⟨co', hdeliver, hentered⟩ := deliver_enters hexp hroom
    have hseq : tokSeq tk.hdr = mget 0 x.recvSeq q := hexp.2.2.1
    refine ⟨_, rfl, ?_⟩
    rw [arriveNow_expected hopen hexp, hdeliver, getCore_tokenMoved, getCore_setCore_same, hseq]
    exact ⟨coreAndStall_tokenMoved _ _ _, hentered.tokens, hentered.held, hentered.otherQueues, hentered.seq, hentered.otherSeqs⟩
  case otherTag =>
    refine ⟨_, rfl, ?_⟩
    rw [arriveNow_otherTag hopen htag]
    refine ⟨?_, fun p hp => tagMiss_tagMismatch hp⟩
    rw [tokenMoved_frame, tagMismatch_frame]
  case sequence => rw [arriveNow_outOfSequence hopen hresident hgen hseq]

/-! ### FILL -/

theorem fill_taken {core : BitVec 12} {q : BitVec 4} {s : State} {tk : Token} {l : List Token} (hvalid : coreValid core.toNat = true)
    (hlane : (getQueue (getCore s core.toNat) q.toNat).lane = tk :: l) (hroom : (getQueue (getCore s core.toNat) q.toNat).hw.length < 8)
    (hsound : takeInject s 1 core.toNat = none) : exec (.fill core q) s = .next (tokenMoved (setCore s core.toNat
      { setQueue (getCore s core.toNat) q.toNat { getQueue (getCore s core.toNat) q.toNat with
          hw := (getQueue (getCore s core.toNat) q.toNat).hw ++ [tk], lane := l } with
        accessAc := (getCore s core.toNat).accessAc + 3 }) core.toNat) := by
  show execFill core q s = _
  simp [execFill, hvalid, hlane, hroom, coreRead_sound hsound]

theorem laneFills : Claims.Fill := by
  intro core q s tk l hvalid qu hlane hroom hsound
  refine ⟨_, fill_taken hvalid hlane hroom hsound, coreAndStall_tokenMoved _ _ _, ?_⟩
  rw [getCore_tokenMoved, getCore_setCore_same]
  have hqueue (co : CoreSt) (n r : Nat) : getQueue { co with accessAc := n } r = getQueue co r := rfl
  simp only [hqueue, getQueue_setQueue_same]
  exact ⟨rfl, trivial, rfl, fun r hr => getQueue_setQueue_other _ _ _ hr, trivial⟩

/-! ### The hold of a QDELAY point -/

/-- The state with `tk` in the hold of its queue and counted for point `k`, whose delay is fixed. -/
def delayed (s : State) (tk : Token) (k : Nat) (p : PointSt) : State :=
  { s with pert := { s.pert with
      points := mset {} s.pert.points k { p with count := satAdd32 p.count 1 }
      holds := mset none s.pert.holds (holdKey (tokDst tk.hdr) (tokQ tk.hdr)) (some (tk, s.fc + p.value)) } }

theorem hold_delayed (s : State) (tk : Token) (k : Nat) (p : PointSt) :
    mget none (delayed s tk k p).pert.holds (holdKey (tokDst tk.hdr) (tokQ tk.hdr)) = some (tk, s.fc + p.value) := by
  simp [delayed]

theorem getPoint_delayed (s : State) (tk : Token) (k : Nat) (p : PointSt) :
    getPoint (delayed s tk k p) k = { p with count := satAdd32 p.count 1 } := by
  simp [delayed, getPoint]

/-- The first token that arrives under a point of fixed delay enters the hold. -/
theorem arrive_delayed {tk : Token} {s : State} {k : Nat} {p : PointSt}
    (hpoint : findPoint s 1 (fun p => p.target == holdKey (tokDst tk.hdr) (tokQ tk.hdr) && decide (p.mode ≤ 1)) = some (k, p))
    (hhold : mget none s.pert.holds (holdKey (tokDst tk.hdr) (tokQ tk.hdr)) = none) (hmode : p.mode = 0) :
    arrive s tk = delayed s tk k p := by
  simp only [arrive, hpoint, hhold, if_pos hmode]
  rfl

section
variable {core : BitVec 12} {q : BitVec 4} {s : State} {tk : Token} {due : Nat} (hhold : mget none s.pert.holds (holdKey core.toNat q.toNat) = some (tk, due))
include hhold

theorem qdelayRelease_early (hearly : s.fc < due) : exec (.qdelayRelease core q) s = .next s := by
  show execQdelayRelease core q s = _
  simp [execQdelayRelease, hhold, hearly]

/-- Once its delay has passed an expected token that finds room leaves the hold. -/
theorem qdelayRelease_enters (hdue : due ≤ s.fc) (hopen : queueBlocked s (tokDst tk.hdr) (tokQ tk.hdr) = false) (hexp : Expected s tk)
    (hroom : place (getCore s (tokDst tk.hdr)) (tokQ tk.hdr) tk.hdr ≠ .full) :
    let u : State := { s with pert := { s.pert with holds := merase s.pert.holds (holdKey core.toNat q.toNat) } }
    ∃ co', exec (.qdelayRelease core q) s = .next (tokenMoved (setCore u (tokDst tk.hdr) co') (tokDst tk.hdr)) ∧
      TokenEntered tk (getCore s (tokDst tk.hdr)) co' := by
  intro u
  have hexp' : Expected u tk := hexp
  have hopen' : queueBlocked u (tokDst tk.hdr) (tokQ tk.hdr) = false := hopen
  have hroom' : place (getCore u (tokDst tk.hdr)) (tokQ tk.hdr) tk.hdr ≠ .full := hroom
  obtain ⟨co', hdeliver, hentered⟩ := deliver_enters hexp' hroom'
  have harrive : arriveNow u tk = tokenMoved (setCore u (tokDst tk.hdr) co') (tokDst tk.hdr) := (arriveNow_expected hopen' hexp').trans hdeliver
  refine ⟨co', ?_, hentered⟩
  have hmoved : arriveNow u tk ≠ u := fun hsame => by
    have hcore : co' = getCore u (tokDst tk.hdr) := by
      rw [← congrArg (getCore · (tokDst tk.hdr)) (harrive.symm.trans hsame), getCore_tokenMoved, getCore_setCore_same]
    have htokens := hentered.tokens
    rw [hcore] at htokens
    simpa using congrArg List.length htokens
  show execQdelayRelease core q s = _
  unfold execQdelayRelease
  simp only [hhold, if_neg (Nat.not_lt.mpr hdue)]
  rw [if_neg hmoved, harrive]

end

theorem queueDelay : Claims.QueueDelay := by
  refine ⟨fun tk s k p hvalid hpoint hhold hmode => ?held, fun core q s tk due hhold => ⟨qdelayRelease_early hhold, fun hdue hopen hexp hroom => ?released⟩⟩
  case held =>
    have hexec : exec (.tokenArrival tk) s = .next (arrive s tk) := by
      show execTokenArrival tk s = _
      simp [execTokenArrival, hvalid]
    rw [hexec, arrive_delayed hpoint hhold hmode]
    exact ⟨_, rfl, rfl, hold_delayed s tk k p, congrArg PointSt.count (getPoint_delayed s tk k p)⟩
  case released =>
    obtain ⟨co', hexec, hentered⟩ := qdelayRelease_enters hhold hdue hopen hexp hroom
    refine ⟨_, hexec, ?frame, ?tokens⟩
    case frame =>
      rw [tokenMoved_frame]
      rfl
    case tokens =>
      rw [getCore_tokenMoved, getCore_setCore_same]
      exact hentered.tokens

end Sys2Proof.Machine

open Sys2Proof.Machine

/-- Settles O8: an arrival by the checks of its token, a fill, and a hold by its delay. -/
theorem tokenArrivals : Obligations.TokenArrivals := ⟨tokenArrival, laneFills, queueDelay⟩
end

section
/-! PROOFS. Control registers (R147, R255, R352, R355, R362): a check set, the freeze of an arbiter, the capture of the cycle count and the release of
the watchdog's report. -/

namespace Sys2Proof.Machine

open Sys2Proof.Claims

/-! ### Check sets (R352, R355) -/

@[simp] theorem getChk_setChk_same (s : State) (k u : Nat) (c : ChkSet) : getChk (setChk s k u c) k u = c := by
  simp [getChk, setChk]

theorem getChk_setChk_other (s : State) (k u : Nat) (c : ChkSet) {j : Nat} (h : j ≠ u) : getChk (setChk s k u c) k j = getChk s k j := by
  simp [getChk, setChk, mget_mset_other _ _ _ _ _ h]

theorem fnOnly_setChk (s : State) (k u : Nat) (c : ChkSet) : FnOnly s (setChk s k u c) k :=
  ⟨rfl, fun _ hj => getFn_updFn_other _ _ _ _ hj⟩

/-- A write that enables check set `u` of function `k` on a buffer of another enabled set (R352). -/
def BufferTaken (s : State) (k u w : Nat) : Prop :=
  bit w 31 = true ∧ ∃ j, j < 32 ∧ j ≠ u ∧ (getChk s k j).en = true ∧ (getChk s k j).buf = w % 2 ^ 16

theorem bufferTaken_iff {s : State} {k u w : Nat} : BufferTaken s k u w ↔
    (bit w 31 && (List.range 32).any (fun j => j != u && (getChk s k j).en && (getChk s k j).buf == w % 2 ^ 16)) = true := by
  simp [BufferTaken, and_assoc]

section
variable {s : State} {k u w : Nat}

theorem writeChkCtl_refused (h : (getChk s k u).busy = true ∨ BufferTaken s k u w) : writeChkCtl s k u w = raiseChk s k cfCfgErr := by
  rw [bufferTaken_iff] at h
  refine if_pos ?_
  rwa [Bool.or_eq_true]

theorem writeChkCtl_set (hfree : (getChk s k u).busy = false) (hbuf : ¬ BufferTaken s k u w) : writeChkCtl s k u w = setChk s k u
    { getChk s k u with
      en := bit w 31, alg64 := bit w 30, dir := bits w 29 28, fold := bits w 27 26, final := bit w 25, fresh := bit w 31 || (getChk s k u).fresh,
      buf := w % 2 ^ 16 } := by
  rw [bufferTaken_iff] at hbuf
  refine if_neg ?_
  rw [hfree, Bool.false_or]
  exact hbuf

end

/-! ### The freeze of an arbiter (R361, R362) -/

/-- What a perturbation in progress leaves of a slot's RUN (R247). -/
def perturbedSlot (fc : Nat) (x : SlotSt) : SlotSt :=
  if inStep x || inAbort x then
    { x with run := x.run.map (fun r => { r with perturbed := true, causes := addCause r.causes cPerturb fc (fc + 1) }) }
  else x

theorem perturbedSlot_frame (fc : Nat) (x : SlotSt) : perturbedSlot fc x = { x with run := (perturbedSlot fc x).run } := by
  unfold perturbedSlot
  split <;> rfl

theorem notePerturb_eq (s : State) :
    notePerturb s = if pertActive s then { s with slots := s.slots.map (fun p => (p.1, perturbedSlot s.fc p.2)) } else s := by
  have hslot : (fun p : Nat × SlotSt => (p.1, perturbedSlot s.fc p.2)) = fun p => if inStep p.2 || inAbort p.2 then
      (p.1, { p.2 with run := p.2.run.map (fun r => { r with perturbed := true, causes := addCause r.causes cPerturb s.fc (s.fc + 1) }) }) else p := by
    funext p
    unfold perturbedSlot
    split <;> rfl
  rw [hslot]
  unfold notePerturb
  cases pertActive s <;> rfl

theorem notePerturb_frame (s : State) : notePerturb s = { s with slots := (notePerturb s).slots } := by
  rw [notePerturb_eq]
  split <;> rfl

/-- A note of perturbation changes the RUN of a slot alone. -/
theorem getSlot_notePerturb (s : State) (n : Nat) : getSlot (notePerturb s) n = { getSlot s n with run := (getSlot (notePerturb s) n).run } := by
  rw [notePerturb_eq]
  split
  · have hslot : getSlot { s with slots := s.slots.map (fun p => (p.1, perturbedSlot s.fc p.2)) } n = perturbedSlot s.fc (getSlot s n) :=
      mget_map_values (f := perturbedSlot s.fc) rfl _ _
    rw [hslot, perturbedSlot_frame]
  · rfl

theorem getArb_notePerturb (s : State) (j : Nat) : getArb (notePerturb s) j = getArb s j := by
  rw [notePerturb_frame]
  rfl

section
variable {s : State} {k v : Nat}

theorem writeArbCtl_taken (h : TestOrService s k) (hvalid : arbValid (selOf s k oArbSel) = true) : writeArbCtl s k v =
    notePerturb (setArb s (selOf s k oArbSel) { getArb s (selOf s k oArbSel) with swFreeze := bit v 0 }) := by
  obtain ⟨hpf, hsession, hrole⟩ := h
  refine if_pos ?_
  simp [hpf, hsession, hrole, hvalid]

theorem writeArbCtl_ignored (h : ¬ TestOrService s k ∨ arbValid (selOf s k oArbSel) = false) : writeArbCtl s k v = s := by
  refine if_neg fun hall => ?_
  simp only [Bool.and_eq_true, bne_iff_ne, Bool.or_eq_true, beq_iff_eq] at hall
  obtain ⟨⟨⟨hpf, hsession⟩, hrole⟩, hvalid⟩ := hall
  exact h.elim (· ⟨hpf, hsession, hrole⟩) fun hnone => Bool.noConfusion (hnone.symm.trans hvalid)

end

/-! ### The report of the watchdog (R147) -/

/-- A report that is released. -/
def reportReleased (s : State) : State := { s with wdog := { s.wdog with held := false, missed := 0, nent := 0, entries := [] } }

/-- The eight entries of a report that is released read 0. -/
theorem bar0Value_reportReleased (s : State) {i : Nat} (h : i < 8) : bar0Value (reportReleased s) 0 (0x80040 + 4 * i) = 0 := by
  interval_cases i <;> rfl

end Sys2Proof.Machine

open Sys2Proof.Machine Sys2Proof.Claims

/-- Settles O47: each register by what its write asks for and who writes it. -/
theorem controlRegisters : Obligations.ControlRegisters := by
  refine ⟨?chk, ?others⟩
  case chk =>
    intro f u v s h k c w taken
    have hexec : exec (.chkCtl f u v) s = .next (writeChkCtl s k u.toNat w) := exec_of_answers h (writeChkCtl s · u.toNat w) rfl
    refine ⟨fun hrefused => ?_, fun hfree hbuf => ⟨_, hexec, ?_⟩⟩
    · rw [hexec, writeChkCtl_refused hrefused]
    · rw [writeChkCtl_set hfree hbuf]
      exact ⟨fnOnly_setChk _ _ _ _, fun j hj => getChk_setChk_other _ _ _ _ hj, getChk_setChk_same _ _ _ _⟩
  case others =>
    intro f v s h k key
    have harb : exec (.arbCtl f v) s = .next (writeArbCtl s k v.toNat) := exec_of_answers h (writeArbCtl s · v.toNat) rfl
    have hsnap : exec (.cycSnap f v) s = .next (writeCycSnap s k v.toNat) := exec_of_answers h (writeCycSnap s · v.toNat) rfl
    have hwdog : exec (.wdogStatus f v) s = .next (writeWdogStatus s k v.toNat) := exec_of_answers h (writeWdogStatus s · v.toNat) rfl
    have hnot {b : Bool} (hno : fnIsPf k = false ∨ b = false) : ¬(fnIsPf k && b) = true := by
      rcases hno with hno | hno <;> simp [hno]
    rw [harb, hsnap, hwdog]
    refine ⟨fun hmay hvalid => ⟨_, rfl, ?freeze⟩, fun hno => by rw [writeArbCtl_ignored hno], fun hpf hbit => congrArg _ (if_pos (by simp [hpf, hbit])),
      fun hno => congrArg _ (if_neg (hnot hno)), fun hpf hbit => ⟨reportReleased s, congrArg _ (if_pos (by simp [hpf, hbit])), rfl, fun i hi =>
        bar0Value_reportReleased s hi⟩, fun hno => congrArg _ (if_neg (hnot hno))⟩
    case freeze =>
      rw [writeArbCtl_taken hmay hvalid]
      refine ⟨?frame, ?selected, fun j hj => ?other, fun n => ?slot⟩
      case frame =>
        rw [notePerturb_frame]
        rfl
      case selected => rw [getArb_notePerturb, getArb_setArb_same]
      case other => rw [getArb_notePerturb, getArb_setArb_other _ _ _ _ hj]
      case slot =>
        rw [getSlot_notePerturb]
        rfl
end

section
/-! PROOFS. Domains, quotas, service mode, partitions and pattern stores (R109, R112, R210, R223, R224, R266, R463): each row is decided in the state
that has taken the head of the ring, and what it does knows nothing of rings. -/

namespace Sys2Proof.Machine

open Sys2Proof.Claims

/-! ### Rows that complete at once -/

/-- The outcome of the head in the state that takes it, where the ring is taken in `u` as well. -/
theorem done_in {o : DescOp} {s : State} {k i raw : Nat} {rest : List (Nat × Nat)} {p : Plan} (h : AtHead o s k i raw rest) {t u : State}
    (ht : t = setRing u o.ring.toNat (takenRing (getRing s o.ring.toNat) i raw rest)) (status detail : Nat) :
    (headEnv o s k raw p).done t status detail = endsHead o s i raw rest u status detail := by
  rw [ht]
  exact finishDesc_taken h u status detail

/-- A row that tests `busy` and else has the effect `eff`, neither of which knows of rings, is an `AdminRow`. -/
theorem adminRow_of_go {row : DescOp → Instr} {code : Nat} {plan : Nat → Nat → State → Plan} {busy : State → Nat → Bool} {st : Nat}
    {eff : Nat → State → State} {go : DescEnv → State → State} (hrow : ∀ o s, exec (row o) s = decideRow code o plan go s)
    (hcode : codeDefined code = true) (hbusy : ∀ s r x raw, busy (setRing s r x) raw = busy s raw)
    (heff : ∀ raw s r x, eff raw (setRing s r x) = setRing (eff raw s) r x)
    (hgo : ∀ e s, go e s = if busy s e.raw = true then e.done s st 0 else e.done (eff e.raw s) sSuccess 0) : AdminRow row code plan busy st eff := by
  intro o s k i raw rest h
  have hhead : AtHead o s k i raw rest := h.1
  rw [exec_of_passed (hrow o s) hcode h, hgo]
  have hsame : busy (takenHead o s i raw rest) (headEnv o s k raw (plan k raw s)).raw = busy s raw := hbusy _ _ _ _
  rw [hsame]
  refine ⟨fun hyes => ?_, fun hno => ?_⟩
  · rw [if_pos hyes, done_taken hhead]
  · rw [if_neg (ne_true_of_eq_false hno)]
    exact congrArg _ (done_in hhead (heff _ _ _ _) _ _)

theorem createDomain_row : AdminRow .domainCreate 0x101 domainPlan (fun _ _ => false) 0
    (fun raw s => if domExists s (aDomain raw) = true then s else setDom s (aDomain raw) { created := true }) :=
  adminRow_of_go (fun _ _ => rfl) rfl (fun _ _ _ _ => rfl) (fun raw s r x =>
    (apply_ite (setRing · r x) (domExists s (aDomain raw) = true) s (setDom s (aDomain raw) { created := true })).symm) fun _ _ => rfl

theorem removeDomain_row : AdminRow .domainRemove 0x102 domainPlan (fun s raw => domHolds (getDom s (aDomain raw))) sDomainBusy
    (fun raw s => setDom s (aDomain raw) {}) :=
  adminRow_of_go (fun _ _ => rfl) rfl (fun _ _ _ _ => rfl) (fun _ _ _ _ => rfl) fun _ _ => rfl

theorem setQuota_row : AdminRow .quotaSet 0x103 quotaPlan (fun _ _ => false) 0
    (fun raw s => setDom s (aDomain raw) (setLimit (getDom s (aDomain raw)) (aByte11 raw) (aWord raw))) :=
  adminRow_of_go (fun _ _ => rfl) rfl (fun _ _ _ _ => rfl) (fun _ _ _ _ => rfl) fun _ _ => rfl

theorem enterService_row : AdminRow .serviceEnter 0x10D servicePlan (fun _ _ => false) 0 (fun _ s => { s with service := true }) :=
  adminRow_of_go (fun _ _ => rfl) rfl (fun _ _ _ _ => rfl) (fun _ _ _ _ => rfl) fun _ _ => rfl

theorem leaveService_row : AdminRow .serviceLeave 0x10E servicePlan (fun _ _ => false) 0 (fun _ s => { s with service := false }) :=
  adminRow_of_go (fun _ _ => rfl) rfl (fun _ _ _ _ => rfl) (fun _ _ _ _ => rfl) fun _ _ => rfl

theorem setMode_row : AdminRow .partMode 0x10B modePlan (fun s raw => partRunning s (dTarget raw)) sPartBusy
    (fun raw s => setPart s (dTarget raw) { getPart s (dTarget raw) with mode := modeOf (aByte11 raw) }) :=
  adminRow_of_go (fun _ _ => rfl) rfl (fun _ _ _ _ => rfl) (fun _ _ _ _ => rfl) fun _ _ => rfl

/-! ### Problem buffers (R167, R210) -/

/-- One granule of a Slath for a partition's problem buffers, where a step before it has left a state. -/
def takeBuffer (p : Nat) (a : Option State) (q : Nat) : Option State :=
  a.bind fun s => (takeSlath (.problems p) 1 (getSlath s q)).map (setSlath s q)

theorem takeBuffers_eq (s : State) (p : Nat) (qs : List Nat) : takeBuffers s p qs = qs.foldl (takeBuffer p) (some s) := rfl

theorem takeBuffer_setRing (p r : Nat) (x : RingSt) (a : Option State) (q : Nat) :
    takeBuffer p (a.map (setRing · r x)) q = (takeBuffer p a q).map (setRing · r x) := by
  cases a with
  | none => rfl
  | some s =>
    simp only [takeBuffer, Option.map_some, Option.bind_some, Option.map_map]
    rfl

/-- What is taken of the Slaths does not depend on the rings. -/
theorem takeBuffers_setRing (s : State) (r : Nat) (x : RingSt) (p : Nat) (qs : List Nat) :
    takeBuffers (setRing s r x) p qs = (takeBuffers s p qs).map (setRing · r x) := by
  have hfold : ∀ a : Option State, qs.foldl (takeBuffer p) (a.map (setRing · r x)) = (qs.foldl (takeBuffer p) a).map (setRing · r x) := by
    induction qs with
    | nil => exact fun _ => rfl
    | cons q qs ih => exact fun a => by rw [List.foldl_cons, takeBuffer_setRing, ih, List.foldl_cons]
  exact hfold (some s)

theorem takeBuffers_frame {s u : State} {p : Nat} {qs : List Nat} (h : takeBuffers s p qs = some u) : u = { s with slaths := u.slaths } := by
  rw [takeBuffers_eq] at h
  suffices hfold : ∀ a : Option State, (∀ v, a = some v → v = { s with slaths := v.slaths }) →
      ∀ v, qs.foldl (takeBuffer p) a = some v → v = { s with slaths := v.slaths } from hfold _ (fun v hv => by cases hv; rfl) u h
  clear h
  induction qs with
  | nil => exact fun a ha => ha
  | cons q qs ih =>
    refine fun a ha => ih _ fun v hv => ?_
    cases a with
    | none => cases hv
    | some w =>
      obtain ⟨y, -, rfl⟩ := Option.map_eq_some_iff.mp hv
      rw [ha w rfl]
      rfl

theorem dropBuffers_setRing (s : State) (r : Nat) (x : RingSt) (p : Nat) (qs : List Nat) :
    dropBuffers (setRing s r x) p qs = setRing (dropBuffers s p qs) r x := foldl_setRing _ r x (fun _ _ => rfl) qs s

theorem dropBuffers_frame (s : State) (p : Nat) (qs : List Nat) : dropBuffers s p qs = { s with slaths := (dropBuffers s p qs).slaths } := by
  unfold dropBuffers
  induction qs generalizing s with
  | nil => rfl
  | cons q qs ih =>
    rw [List.foldl_cons, ih]
    rfl

/-! ### A partition and its cores (R109, R113) -/

/-- A core that comes to a partition: no fold table, no current context. -/
def placedCore (co : CoreSt) : CoreSt := { co with fold := [], foldPos := 0, cur := none }

theorem placePart_eq (s : State) (p : Nat) (x : PartSt) : placePart s p x = mapCores (setPart s p x) p (fun _ => placedCore) := rfl

theorem placePart_setRing (s : State) (r : Nat) (x : RingSt) (p : Nat) (y : PartSt) :
    placePart (setRing s r x) p y = setRing (placePart s p y) r x := foldl_setRing _ r x (fun _ _ => rfl) _ (setPart s p y)

theorem placePart_frame (s : State) (p : Nat) (x : PartSt) :
    placePart s p x = { s with parts := (placePart s p x).parts, cores := (placePart s p x).cores } := by
  rw [placePart_eq, mapCores_frame]
  rfl

theorem getPart_placePart_same (s : State) (p : Nat) (x : PartSt) : getPart (placePart s p x) p = x := by simp [placePart_eq]

theorem getPart_placePart_other (s : State) {p q : Nat} (x : PartSt) (h : q ≠ p) : getPart (placePart s p x) q = getPart s q := by
  rw [placePart_eq, getPart_mapCores, getPart_setPart_other _ _ _ _ h]

theorem getCore_placePart_outside (s : State) {p c : Nat} {x : PartSt} (h : c ∉ partCores x) : getCore (placePart s p x) c = getCore s c := by
  rw [placePart_eq, getCore_mapCores_outside _ (by rwa [getPart_setPart_same]), getCore_setPart]

theorem getCore_placePart_inside (s : State) {p c : Nat} {x : PartSt} (h : c ∈ partCores x) :
    (getCore (placePart s p x) c).cur = none ∧ (getCore (placePart s p x) c).fold = [] ∧
      (getCore (placePart s p x) c).ctxs = (getCore s c).ctxs := by
  obtain ⟨co, hctxs, heq⟩ := getCore_mapCores_inside (s := setPart s p x) (p := p) (k := c) (f := fun _ => placedCore)
    (P := fun co => co.ctxs = (getCore s c).ctxs) (fun _ hco => hco) (congrArg _ (getCore_setPart s p x c)) (by rwa [getPart_setPart_same])
  rw [placePart_eq, heq]
  exact ⟨rfl, rfl, hctxs⟩

/-- A partition set up by the head of a ring: what each of its observers reads. -/
theorem endsHead_placePart (o : DescOp) (s : State) (i raw : Nat) (rest : List (Nat × Nat)) {u : State} (hu : u = { s with slaths := u.slaths })
    (p : Nat) (x : PartSt) :
    let t := endsHead o s i raw rest (placePart u p x) sSuccess 0
    t = { s with rings := t.rings, slaths := t.slaths, parts := t.parts, cores := t.cores } ∧ t.slaths = u.slaths ∧
      getPart t p = x ∧ (∀ q, q ≠ p → getPart t q = getPart s q) ∧ (∀ c, c ∉ partCores x → getCore t c = getCore s c) ∧
      ∀ c ∈ partCores x, (getCore t c).cur = none ∧ (getCore t c).fold = [] ∧ (getCore t c).ctxs = (getCore s c).ctxs := by
  have hpart : ∀ q, getPart u q = getPart s q := fun q => by rw [hu]; rfl
  have hcore : ∀ c, getCore u c = getCore s c := fun c => by rw [hu]; rfl
  have hslaths : (placePart u p x).slaths = u.slaths := by rw [placePart_frame]
  refine ⟨?_, hslaths, getPart_placePart_same u p x, fun q hq => (getPart_placePart_other u x hq).trans (hpart q),
    fun c hc => (getCore_placePart_outside u hc).trans (hcore c), fun c hc => ?_⟩
  · rw [endsHead_eq, placePart_frame]
    rw [hu]
    rfl
  · rw [← hcore]
    exact getCore_placePart_inside u hc

/-! ### The rows of partitions and pattern stores, case by case -/

section
variable {e : DescEnv} {t u : State} {p : Nat} {ks : List Nat}

theorem createPart_refused (hp : dTarget e.raw = p) (hks : clustersOf (dfld e.raw 0x18 36) = ks)
    (h : partExists t p = true ∨ clustersOk t p ks = false) : createPart e t = e.done t sBadField 0 := by
  subst hp hks
  exact if_pos (by simpa using h)

theorem createPart_full (hp : dTarget e.raw = p) (hks : clustersOf (dfld e.raw 0x18 36) = ks) (hnew : partExists t p = false)
    (hok : clustersOk t p ks = true) (htake : takeBuffers t p (quadsOf ks) = none) :
    createPart e t = e.done (raiseQuota t qfTierFull) sTierFull 0 := by
  subst hp hks
  simp only [createPart, hnew, hok, htake, Bool.not_true, Bool.or_self, Bool.false_eq_true, if_false]
  rfl

theorem createPart_placed (hp : dTarget e.raw = p) (hks : clustersOf (dfld e.raw 0x18 36) = ks) (hnew : partExists t p = false)
    (hok : clustersOk t p ks = true) (htake : takeBuffers t p (quadsOf ks) = some u) :
    createPart e t = e.done (placePart u p { clusters := ks, mode := modeOf (aByte11 e.raw) }) sSuccess 0 := by
  subst hp hks
  simp only [createPart, hnew, hok, htake, Bool.not_true, Bool.or_self, Bool.false_eq_true, if_false]

/-- The Slaths a resized partition comes to. -/
def quadsAdded (s : State) (p : Nat) (ks : List Nat) : List Nat := (quadsOf ks).filter (fun q => !(quadsOf (getPart s p).clusters).contains q)

/-- The Slaths a resized partition leaves. -/
def quadsLeft (s : State) (p : Nat) (ks : List Nat) : List Nat := (quadsOf (getPart s p).clusters).filter (fun q => !(quadsOf ks).contains q)

theorem resizePart_busy (hp : dTarget e.raw = p) (h : partBusy t p = true) : resizePart e t = e.done t sPartBusy 0 := by
  subst hp
  exact if_pos h

theorem resizePart_refused (hp : dTarget e.raw = p) (hks : clustersOf (dfld e.raw 0x18 36) = ks) (hidle : partBusy t p = false)
    (h : clustersOk t p ks = false) : resizePart e t = e.done t sBadField 0 := by
  subst hp hks
  simp [resizePart, hidle, h]

theorem resizePart_full (hp : dTarget e.raw = p) (hks : clustersOf (dfld e.raw 0x18 36) = ks) (hidle : partBusy t p = false)
    (hok : clustersOk t p ks = true) (htake : takeBuffers t p (quadsAdded t p ks) = none) :
    resizePart e t = e.done (raiseQuota t qfTierFull) sTierFull 0 := by
  subst hp hks
  rw [quadsAdded] at htake
  simp only [resizePart, hidle, hok, htake, Bool.not_true, Bool.false_eq_true, if_false]
  rfl

theorem resizePart_placed (hp : dTarget e.raw = p) (hks : clustersOf (dfld e.raw 0x18 36) = ks) (hidle : partBusy t p = false)
    (hok : clustersOk t p ks = true) (htake : takeBuffers t p (quadsAdded t p ks) = some u) : resizePart e t =
    e.done (placePart (dropBuffers u p (quadsLeft t p ks)) p { clusters := ks, mode := (getPart t p).mode }) sSuccess 0 := by
  subst hp hks
  rw [quadsAdded] at htake
  simp only [resizePart, hidle, hok, htake, Bool.not_true, Bool.false_eq_true, if_false]
  rfl

/-- A slot of the partition exists. -/
def PartNamed (s : State) (p : Nat) : Prop := ∃ x ∈ s.slots, x.2.present = true ∧ x.2.part = p

theorem removePart_refused (hp : dTarget e.raw = p) (h : partBusy t p = true ∨ PartNamed t p) : removePart e t = e.done t sPartBusy 0 := by
  subst hp
  exact if_pos (by simpa [PartNamed] using h)

theorem removePart_removed (hp : dTarget e.raw = p) (hidle : partBusy t p = false) (h : ¬ PartNamed t p) :
    removePart e t = e.done (setPart (dropBuffers t p (quadsOf (getPart t p).clusters)) p {}) sSuccess 0 := by
  subst hp
  exact if_neg (by simpa [PartNamed, hidle] using h)

theorem sizeStore_refused (h : (getSlath t (aByte11 e.raw)).psPages ≠ 0) : sizeStore e t = e.done t sRegionBusy 0 := if_pos h

theorem sizeStore_full (h : (getSlath t (aByte11 e.raw)).psPages = 0) (hbanks : storeBanks (getSlath t (aByte11 e.raw)) (aByte12 e.raw) = none) :
    sizeStore e t = e.done (raiseQuota t qfTierFull) sTierFull 0 := by
  simp only [sizeStore, h, hbanks, ne_eq, not_true_eq_false, if_false]
  rfl

theorem sizeStore_sized {bs : List Nat} (h : (getSlath t (aByte11 e.raw)).psPages = 0)
    (hbanks : storeBanks (getSlath t (aByte11 e.raw)) (aByte12 e.raw) = some bs) :
    sizeStore e t = e.done (setSlath t (aByte11 e.raw) { getSlath t (aByte11 e.raw) with psBanks := bs }) sSuccess 0 := by
  simp only [sizeStore, h, hbanks, ne_eq, not_true_eq_false, if_false]

end

section
variable {o : DescOp} {s u : State} {k i raw : Nat} {rest : List (Nat × Nat)}

/-- What is taken of the Slaths in the state that takes the head of a ring. -/
theorem takeBuffers_takenHead_none {p : Nat} {qs : List Nat} (h : takeBuffers s p qs = none) : takeBuffers (takenHead o s i raw rest) p qs = none := by
  rw [takenHead_eq, takeBuffers_setRing, h]
  rfl

theorem takeBuffers_takenHead_some {p : Nat} {qs : List Nat} (h : takeBuffers s p qs = some u) : takeBuffers (takenHead o s i raw rest) p qs =
    some (setRing u o.ring.toNat (takenRing (getRing s o.ring.toNat) i raw rest)) := by
  rw [takenHead_eq, takeBuffers_setRing, h]
  rfl

/-- No free granule on some Slath, or too few banks: the flag alone is raised (R210). -/
theorem done_full (h : AtHead o s k i raw rest) (p : Plan) : (headEnv o s k raw p).done (raiseQuota (takenHead o s i raw rest) qfTierFull) sTierFull 0 =
    endsHead o s i raw rest (raiseQuota s qfTierFull) sTierFull 0 := done_in (u := raiseQuota s qfTierFull) h rfl _ _

end

end Sys2Proof.Machine

open Sys2Proof.Machine Sys2Proof.Claims

namespace Sys2Proof.Claims

theorem domainsAndQuotas : DomainsAndQuotas := ⟨createDomain_row, removeDomain_row, setQuota_row, enterService_row, leaveService_row⟩

section
variable {o : DescOp} {s : State} {k i raw : Nat} {rest : List (Nat × Nat)}

theorem exec_partCreate (h : Passed o s k i raw rest 0x108 partPlan) : exec (.partCreate o) s =
    .next (createPart (headEnv o s k raw (partPlan k raw s)) (takenHead o s i raw rest)) := exec_of_passed rfl rfl h

theorem exec_partResize (h : Passed o s k i raw rest 0x109 resizePlan) : exec (.partResize o) s =
    .next (resizePart (headEnv o s k raw (resizePlan k raw s)) (takenHead o s i raw rest)) := exec_of_passed rfl rfl h

theorem exec_partRemove (h : Passed o s k i raw rest 0x10A removePlan) : exec (.partRemove o) s =
    .next (removePart (headEnv o s k raw (removePlan k raw s)) (takenHead o s i raw rest)) := exec_of_passed rfl rfl h

theorem exec_psSize (h : Passed o s k i raw rest 0x10C storePlan) : exec (.psSize o) s =
    .next (sizeStore (headEnv o s k raw (storePlan k raw s)) (takenHead o s i raw rest)) := exec_of_passed rfl rfl h

end

theorem partCreate_row {o : DescOp} {s : State} {k i raw : Nat} {rest : List (Nat × Nat)} (h : Passed o s k i raw rest 0x108 partPlan) {p : Nat}
    {ks : List Nat} (hp : dTarget raw = p) (hks : clustersOf (dfld raw 0x18 36) = ks) :
    (partExists s p = true ∨ clustersOk s p ks = false → exec (.partCreate o) s = .next (endsHead o s i raw rest s sBadField 0)) ∧
    (partExists s p = false → clustersOk s p ks = true →
      (takeBuffers s p (quadsOf ks) = none → exec (.partCreate o) s = .next (endsHead o s i raw rest (raiseQuota s qfTierFull) sTierFull 0)) ∧
      ∀ u, takeBuffers s p (quadsOf ks) = some u → exec (.partCreate o) s =
        .next (endsHead o s i raw rest (placePart u p { clusters := ks, mode := modeOf (aByte11 raw) }) sSuccess 0)) := by
  rw [exec_partCreate h]
  refine ⟨fun hbad => congrArg _ ?_, fun hnew hok => ⟨fun hfull => congrArg _ ?_, fun u hu => congrArg _ ?_⟩⟩
  · exact Eq.trans (createPart_refused hp hks hbad) (done_taken h.1 _ _ _)
  · exact Eq.trans (createPart_full hp hks hnew hok (takeBuffers_takenHead_none hfull)) (done_full h.1 _)
  · exact Eq.trans (createPart_placed hp hks hnew hok (takeBuffers_takenHead_some hu)) (done_in h.1 (placePart_setRing _ _ _ _ _) _ _)

theorem partResize_row {o : DescOp} {s : State} {k i raw : Nat} {rest : List (Nat × Nat)} (h : Passed o s k i raw rest 0x109 resizePlan) {p : Nat}
    {ks : List Nat} (hp : dTarget raw = p) (hks : clustersOf (dfld raw 0x18 36) = ks) :
    (partBusy s p = true → exec (.partResize o) s = .next (endsHead o s i raw rest s sPartBusy 0)) ∧
    (partBusy s p = false → clustersOk s p ks = false → exec (.partResize o) s = .next (endsHead o s i raw rest s sBadField 0)) ∧
    (partBusy s p = false → clustersOk s p ks = true →
      (takeBuffers s p (quadsAdded s p ks) = none → exec (.partResize o) s = .next (endsHead o s i raw rest (raiseQuota s qfTierFull) sTierFull 0)) ∧
      ∀ u, takeBuffers s p (quadsAdded s p ks) = some u → exec (.partResize o) s = .next (endsHead o s i raw rest
        (placePart (dropBuffers u p (quadsLeft s p ks)) p { clusters := ks, mode := (getPart s p).mode }) sSuccess 0)) := by
  rw [exec_partResize h]
  refine ⟨fun hbusy => congrArg _ ?_, fun hidle hbad => congrArg _ ?_, fun hidle hok => ⟨fun hfull => congrArg _ ?_, fun u hu => congrArg _ ?_⟩⟩
  · exact Eq.trans (resizePart_busy hp hbusy) (done_taken h.1 _ _ _)
  · exact Eq.trans (resizePart_refused hp hks hidle hbad) (done_taken h.1 _ _ _)
  · exact Eq.trans (resizePart_full hp hks hidle hok (takeBuffers_takenHead_none hfull)) (done_full h.1 _)
  · refine Eq.trans (resizePart_placed hp hks hidle hok (takeBuffers_takenHead_some hu)) (done_in h.1 ?_ _ _)
    rw [dropBuffers_setRing, placePart_setRing]
    rfl

theorem partitions : Partitions := by
  refine ⟨?create, ?resize, ?remove, setMode_row, ?store⟩
  case create =>
    intro o s k i raw rest h p ks
    obtain ⟨hrefused, hplaced⟩ := partCreate_row h rfl rfl
    refine ⟨hrefused, fun hnew hok => ⟨(hplaced hnew hok).1, fun htake => ?_⟩⟩
    obtain ⟨u, hu⟩ := Option.isSome_iff_exists.mp htake
    obtain ⟨hframe, -, hpart, hothers⟩ := endsHead_placePart o s i raw rest (takeBuffers_frame hu) p { clusters := ks, mode := modeOf (aByte11 raw) }
    exact ⟨_, (hplaced hnew hok).2 u hu, hframe, hpart, by rwa [hpart]⟩
  case resize =>
    intro o s k i raw rest h p ks
    obtain ⟨hbusy, hrefused, hplaced⟩ := partResize_row h rfl rfl
    refine ⟨hbusy, hrefused, fun hidle hok => ⟨(hplaced hidle hok).1, fun u hu => ⟨_, (hplaced hidle hok).2 u hu, ?_⟩⟩⟩
    have hframe : dropBuffers u p (quadsLeft s p ks) = { s with slaths := (dropBuffers u p (quadsLeft s p ks)).slaths } := by
      rw [dropBuffers_frame]
      exact congrArg (fun v : State => { v with slaths := (dropBuffers u p (quadsLeft s p ks)).slaths }) (takeBuffers_frame hu)
    obtain ⟨hall, hslaths, hpart, hothers⟩ := endsHead_placePart o s i raw rest hframe p { clusters := ks, mode := (getPart s p).mode }
    exact ⟨by rw [hslaths] at hall; exact hall, hpart, by rwa [hpart]⟩
  case remove =>
    intro o s k i raw rest h p named
    rw [exec_partRemove h]
    exact ⟨fun hbusy => congrArg _ (Eq.trans (removePart_refused rfl hbusy) (done_taken h.1 _ _ _)),
      fun hidle hnone => congrArg _ (Eq.trans (removePart_removed rfl hidle hnone) (done_in h.1 (by rw [takenHead_eq, dropBuffers_setRing]; rfl) _ _))⟩
  case store =>
    intro o s k i raw rest h x
    rw [exec_psSize h]
    exact ⟨fun hpages => congrArg _ (Eq.trans (sizeStore_refused hpages) (done_taken h.1 _ _ _)),
      fun hpages hbanks => congrArg _ (Eq.trans (sizeStore_full hpages hbanks) (done_full h.1 _)),
      fun bs hpages hbanks => congrArg _ (Eq.trans (sizeStore_sized hpages hbanks)
        (done_in (u := setSlath s (aByte11 raw) { x with psBanks := bs }) h.1 rfl _ _))⟩

end Sys2Proof.Claims

/-- Settles O35: every row is decided where it takes its head, and its effect knows nothing of rings. -/
theorem domainsAndPartitions : Obligations.DomainsAndPartitions := ⟨domainsAndQuotas, partitions⟩
end

section
/-! PROOFS. An abort and a commit (R149, R150, R183, R196, R198): the packets that an abort sends change links and the torus alone, the rest of it the
slot and its partition. -/

namespace Sys2Proof.Machine

open Sys2Proof.Claims

/-! ### Sending changes links, the torus, the perturbation points and the output alone -/

/-- `t` differs from `s` in the links, the torus, the perturbation state and the output alone. -/
def NetOnly (s t : State) : Prop := t = { s with links := t.links, torus := t.torus, out := t.out, pert := t.pert }

theorem NetOnly.refl (s : State) : NetOnly s s := rfl

theorem NetOnly.trans {s t u : State} (hst : NetOnly s t) (htu : NetOnly t u) : NetOnly s u := by
  unfold NetOnly at *
  rw [htu, hst]

theorem NetOnly.getSlot {s t : State} (h : NetOnly s t) (n : Nat) : getSlot t n = getSlot s n := by
  rw [h]
  rfl

theorem foldl_netOnly {β : Type} (f : State → β → State) (h : ∀ s b, NetOnly s (f s b)) (l : List β) (s : State) : NetOnly s (l.foldl f s) := by
  induction l generalizing s with
  | nil => exact .refl s
  | cons b l ih => exact (h s b).trans (ih _)

theorem recordAck_netOnly (s : State) (p : Nat) : NetOnly s (recordAck s p) := by
  unfold recordAck
  split <;> rfl

theorem noteAck_netOnly (s : State) (p : Nat) : NetOnly s (noteAck s p) := by
  refine (recordAck_netOnly s p).trans ?_
  unfold noteAck
  dsimp only
  split <;> rfl

theorem emitBlock_netOnly (s : State) (p seq : Nat) (b : Block) (spoil : Bool) (k : Nat) : NetOnly s (emitBlock s p seq b spoil k) :=
  (noteAck_netOnly s p).trans rfl

theorem putBlock_netOnly (s : State) (p seq : Nat) (b : Block) (spoil : Bool) : NetOnly s (putBlock s p seq b spoil) := by
  unfold putBlock
  dsimp only
  split
  · exact (emitBlock_netOnly _ _ _ _ _ _).trans (emitBlock_netOnly _ _ _ _ _ _)
  · exact emitBlock_netOnly _ _ _ _ _ _

theorem takeInject_netOnly {s t : State} {mode target : Nat} (h : takeInject s mode target = some t) : NetOnly s t := by
  obtain ⟨p, -, rfl⟩ := Option.map_eq_some_iff.mp h
  rfl

theorem injectWale_netOnly (s : State) (p seq : Nat) : NetOnly s (injectWale s p seq).1 := by
  unfold injectWale
  split
  next hOnce => exact takeInject_netOnly hOnce
  split
  next hTwice => exact (takeInject_netOnly hTwice).trans rfl
  · rfl

theorem sendBlock_netOnly (s : State) (p : Nat) (b : Block) : NetOnly s (sendBlock s p b) :=
  ((injectWale_netOnly s p _).trans (putBlock_netOnly _ _ _ _ _)).trans rfl

theorem handOn_netOnly {s t : State} {b : Block} {transit : Bool} (h : handOn s b transit = some t) : NetOnly s t := by
  unfold handOn at h
  split at h <;> cases h
  case h_2 => exact sendBlock_netOnly _ _ _
  all_goals rfl

theorem drainTransit_netOnly (bs : List (Nat × Block)) (s : State) (stuck : List Nat) (keep : List (Nat × Block)) :
    NetOnly s (drainTransit s stuck bs keep) := by
  induction bs generalizing s stuck keep with
  | nil => rfl
  | cons b bs ih =>
    rw [drainTransit]
    split
    next h => exact (handOn_netOnly (Option.ite_none_left_eq_some.mp h).2).trans (ih _ _ _)
    · exact ih _ _ _

theorem drainLocal_netOnly (bs : List Block) (s : State) (keep : List Block) : NetOnly s (drainLocal s bs keep) := by
  induction bs generalizing s keep with
  | nil => rfl
  | cons b bs ih =>
    rw [drainLocal]
    split
    next h => exact (handOn_netOnly h).trans (ih _ _)
    · exact ih _ _

theorem fillGaps_netOnly (s0 s : State) : NetOnly s (fillGaps s0 s) := by
  refine foldl_netOnly _ (fun s p => ?_) _ _
  dsimp only
  split
  · exact putBlock_netOnly _ _ _ _ _
  · rfl

theorem drainAll_netOnly (s : State) : NetOnly s (drainAll s) :=
  (((drainTransit_netOnly _ _ _ _).trans (foldl_netOnly _ (fun _ _ => by exact rfl) _ _)).trans (drainLocal_netOnly _ _ _)).trans (fillGaps_netOnly _ _)

theorem injectBlock_netOnly (s : State) (b : Block) : NetOnly s (injectBlock s b) :=
  NetOnly.trans (t := { s with torus := { s.torus with inject := s.torus.inject ++ [b] } }) rfl (drainAll_netOnly _)

/-! ### A slot's own part of an abort -/

/-- What the steps of an abort before its drain do: they change slot `n`, whose CN, abort and RUN's presence they keep, and what sends and holds starts. -/
structure OwnSlot (n : Nat) (s t : State) : Prop where
  frame : t = { s with links := t.links, torus := t.torus, out := t.out, pert := t.pert, slots := t.slots, clock := t.clock }
  other : ∀ m, m ≠ n → getSlot t m = getSlot s m
  cn : (getSlot t n).cn = (getSlot s n).cn
  abort : (getSlot t n).round.abort = (getSlot s n).round.abort
  hasRun : (getSlot t n).run.isSome = (getSlot s n).run.isSome

theorem OwnSlot.refl (n : Nat) (s : State) : OwnSlot n s s := ⟨rfl, fun _ _ => rfl, rfl, rfl, rfl⟩

theorem OwnSlot.trans {n : Nat} {s t u : State} (hst : OwnSlot n s t) (htu : OwnSlot n t u) : OwnSlot n s u where
  frame := by rw [htu.frame, hst.frame]
  other m hm := (htu.other m hm).trans (hst.other m hm)
  cn := htu.cn.trans hst.cn
  abort := htu.abort.trans hst.abort
  hasRun := htu.hasRun.trans hst.hasRun

theorem NetOnly.ownSlot {s t : State} (h : NetOnly s t) (n : Nat) : OwnSlot n s t where
  frame := by rw [h]
  other m _ := h.getSlot m
  cn := by rw [h.getSlot]
  abort := by rw [h.getSlot]
  hasRun := by rw [h.getSlot]

theorem updSlot_ownSlot {s : State} {n : Nat} {f : SlotSt → SlotSt} (hcn : (f (getSlot s n)).cn = (getSlot s n).cn)
    (habort : (f (getSlot s n)).round.abort = (getSlot s n).round.abort) (hrun : (f (getSlot s n)).run.isSome = (getSlot s n).run.isSome) :
    OwnSlot n s (updSlot s n f) where
  frame := rfl
  other _ hm := getSlot_updSlot_other _ _ _ _ hm
  cn := by rw [getSlot_updSlot_same, hcn]
  abort := by rw [getSlot_updSlot_same, habort]
  hasRun := by rw [getSlot_updSlot_same, hrun]

theorem foldl_ownSlot {β : Type} {n : Nat} (f : State → β → State) (h : ∀ s b, OwnSlot n s (f s b)) (l : List β) (s : State) :
    OwnSlot n s (l.foldl f s) := by
  induction l generalizing s with
  | nil => exact .refl n s
  | cons b l ih => exact (h s b).trans (ih _)

theorem sendPacket_ownSlot (s : State) (n dest kind stream : Nat) (a : PacketArgs) : OwnSlot n s (sendPacket s n dest kind stream a) := by
  have hseq := updSlot_ownSlot (s := s) (n := n) (f := fun x =>
    { x with coll := { x.coll with pseqOut := mset 0 x.coll.pseqOut stream ((mget 0 x.coll.pseqOut stream + 1) % 2 ^ 16) } }) rfl rfl rfl
  refine (hseq.trans ?_).trans ((foldl_netOnly _ injectBlock_netOnly _ _).ownSlot n)
  refine NetOnly.ownSlot ?_ n
  rfl

theorem sendAborts_ownSlot (s : State) (n : Nat) (report : Bool) (code : Nat) : OwnSlot n s (sendAborts s n report code) :=
  foldl_ownSlot _ (fun _ _ => foldl_ownSlot _ (fun _ _ => sendPacket_ownSlot _ _ _ _ _ _) _ _) _ _

theorem updRun_ownSlot (s : State) (n : Nat) (f : RunSt → RunSt) : OwnSlot n s (updRun s n f) :=
  updSlot_ownSlot (f := fun x => { x with run := x.run.map f }) rfl rfl (Option.isSome_map ..)

theorem noteBroken_ownSlot (s : State) (n : Nat) : OwnSlot n s (noteBroken s n) := by
  unfold noteBroken
  split
  · exact updRun_ownSlot _ _ _
  · exact .refl n s

theorem chargeHeld_ownSlot (s : State) (n : Nat) : OwnSlot n s (chargeHeld s n) := by
  refine OwnSlot.trans (t := { s with clock := { s.clock with held := s.clock.held.filter (· != n) } }) ⟨rfl, fun _ _ => rfl, rfl, rfl, rfl⟩ ?_
  unfold chargeHeld
  refine updSlot_ownSlot rfl rfl ?_
  exact Option.isSome_map ..

theorem chargeHeld_held (s : State) (n : Nat) : n ∉ (chargeHeld s n).clock.held := by
  show n ∉ s.clock.held.filter (· != n)
  simp

theorem setStage_held (s : State) (n : Nat) (g : RunStage) : (setStage s n g).clock.held = s.clock.held := rfl

/-! ### The discard drain of a partition (R149, R150) -/

/-- A partition is drained by discard and its switch requests are cancelled. -/
def drainDiscard (s : State) (p : Nat) : State := cancelSwitches (setPart s p { getPart s p with drain := .discard }) p

theorem cancelSwitches_frame (s : State) (p : Nat) :
    cancelSwitches s p = { setPart s p { getPart s p with swReq := none, swWait := [] } with rings := (cancelSwitches s p).rings } := by
  unfold cancelSwitches
  dsimp only
  generalize setPart s p { getPart s p with swReq := none, swWait := [] } = u
  generalize (match (getPart s p).swReq with | some r => [r] | none => []) ++ (getPart s p).swWait = rs
  induction rs generalizing u with
  | nil => rfl
  | cons r rs ih =>
    rw [List.foldl_cons, ih]
    cases r.desc <;> rfl

theorem getPart_cancelSwitches (s : State) (p q : Nat) :
    getPart (cancelSwitches s p) q = getPart (setPart s p { getPart s p with swReq := none, swWait := [] }) q := by
  rw [cancelSwitches_frame]
  rfl

theorem drainDiscard_frame (s : State) (p : Nat) : PartsAndRings s (drainDiscard s p) := by
  unfold PartsAndRings drainDiscard
  rw [cancelSwitches_frame]
  rfl

theorem PartsAndRings.getSlot {s t : State} (h : PartsAndRings s t) (n : Nat) : getSlot t n = getSlot s n := by
  rw [h]
  rfl

theorem getPart_drainDiscard_same (s : State) (p : Nat) :
    getPart (drainDiscard s p) p = { getPart s p with drain := .discard, swReq := none, swWait := [] } := by
  rw [drainDiscard, getPart_cancelSwitches, getPart_setPart_same, getPart_setPart_same]

theorem getPart_drainDiscard_other (s : State) {p q : Nat} (h : q ≠ p) : getPart (drainDiscard s p) q = getPart s q := by
  rw [drainDiscard, getPart_cancelSwitches, getPart_setPart_other _ _ _ _ h, getPart_setPart_other _ _ _ _ h]

/-! ### An attempt that stops -/

/-- The member sends ABORT on, where it has not yet. -/
def abortTold (s : State) (n : Nat) (k : Bool × Nat) : State := if (getSlot s n).round.abort.isNone then sendAborts s n k.1 k.2 else s

/-- A slot keeps the kind and cause of its abort; what it held of the attempt is dropped. -/
def abortedSlot (k : Bool × Nat) (x : SlotSt) : SlotSt :=
  { x with
    round := { x.round with abort := some k, held := [] },
    coll := { x.coll with held := x.coll.held.filter (fun p => !pkAttempt p.pkind.toNat || cnAhead p.cnLo.toNat x.cn) } }

/-- The kind and cause that a slot keeps: after REPLAY_LIMIT replays a REPLAY is a REPORT with REPLAY_EXHAUSTED (R198). -/
def abortKept (s : State) (n : Nat) (report : Bool) (code : Nat) : Bool × Nat :=
  let x := getSlot s n
  let spent := !report && decide (bits s.train.updCtl.toNat 3 0 ≤ x.replays)
  joinAbort x.round.abort (report || spent) (if spent then sReplayExhausted else code)

/-- The slot of an attempt that stops, before its partition drains. -/
def attemptEnded (s : State) (n : Nat) (k : Bool × Nat) : State :=
  setStage (chargeHeld (noteBroken (updSlot (abortTold s n k) n (abortedSlot k)) n) n) n .replay

theorem stopAttempt_eq (s : State) (n : Nat) (report : Bool) (code : Nat) :
    stopAttempt s n report code = drainDiscard (attemptEnded s n (abortKept s n report code)) (getSlot s n).part := rfl

theorem abortTold_ownSlot (s : State) (n : Nat) (k : Bool × Nat) : OwnSlot n s (abortTold s n k) := by
  unfold abortTold
  split
  · exact sendAborts_ownSlot _ _ _ _
  · exact .refl n s

/-- What an attempt that stops leaves of its slot. -/
structure AttemptEnded (n : Nat) (k : Bool × Nat) (s t : State) : Prop where
  frame : t = { s with links := t.links, torus := t.torus, out := t.out, pert := t.pert, slots := t.slots, clock := t.clock }
  other : ∀ m, m ≠ n → getSlot t m = getSlot s m
  cn : (getSlot t n).cn = (getSlot s n).cn
  abort : (getSlot t n).round.abort = some k
  stage : (getSlot s n).run.isSome = true → (getSlot t n).run.map (·.stage) = some .replay
  held : n ∉ t.clock.held

theorem AttemptEnded.getPart {n : Nat} {k : Bool × Nat} {s t : State} (h : AttemptEnded n k s t) (p : Nat) : getPart t p = getPart s p := by
  rw [h.frame]
  rfl

theorem attemptEnded_sound (s : State) (n : Nat) (k : Bool × Nat) : AttemptEnded n k s (attemptEnded s n k) := by
  have htold : OwnSlot n s (abortTold s n k) := abortTold_ownSlot s n k
  have hcharged : OwnSlot n (updSlot (abortTold s n k) n (abortedSlot k)) (chargeHeld (noteBroken (updSlot (abortTold s n k) n (abortedSlot k)) n) n) :=
    (noteBroken_ownSlot _ _).trans (chargeHeld_ownSlot _ _)
  have hstage := updRun_ownSlot (chargeHeld (noteBroken (updSlot (abortTold s n k) n (abortedSlot k)) n) n) n (fun r => { r with stage := .replay })
  have hown := hcharged.trans hstage
  refine ⟨?frame, fun m hm => ?other, ?cn, ?abort, fun hrun => ?stage, ?held⟩
  case frame =>
    rw [attemptEnded, setStage, hown.frame]
    rw [updSlot, setSlot, htold.frame]
  case other => rw [attemptEnded, setStage, hown.other m hm, getSlot_updSlot_other _ _ _ _ hm, htold.other m hm]
  case cn =>
    rw [attemptEnded, setStage, hown.cn, getSlot_updSlot_same]
    exact htold.cn
  case held =>
    rw [attemptEnded, setStage_held]
    exact chargeHeld_held _ _
  case abort =>
    rw [attemptEnded, setStage, hown.abort, getSlot_updSlot_same]
    rfl
  case stage =>
    have hsome : (getSlot (chargeHeld (noteBroken (updSlot (abortTold s n k) n (abortedSlot k)) n) n) n).run.isSome = true := by
      rw [hcharged.hasRun, getSlot_updSlot_same]
      exact htold.hasRun.trans hrun
    obtain ⟨r, hr⟩ := Option.isSome_iff_exists.mp hsome
    rw [attemptEnded, setStage, updRun, getSlot_updSlot_same, hr]
    rfl

/-- What an attempt that stops leaves: its slot as above, and its partition drained. -/
structure AttemptStopped (n : Nat) (k : Bool × Nat) (s t : State) : Prop where
  frame : t = { s with
    links := t.links, torus := t.torus, out := t.out, pert := t.pert, slots := t.slots, clock := t.clock, parts := t.parts, rings := t.rings }
  other : ∀ m, m ≠ n → getSlot t m = getSlot s m
  cn : (getSlot t n).cn = (getSlot s n).cn
  abort : (getSlot t n).round.abort = some k
  stage : (getSlot s n).run.isSome = true → (getSlot t n).run.map (·.stage) = some .replay
  held : n ∉ t.clock.held
  part : getPart t (getSlot s n).part = { getPart s (getSlot s n).part with drain := .discard, swReq := none, swWait := [] }
  otherPart : ∀ p, p ≠ (getSlot s n).part → getPart t p = getPart s p

theorem stopAttempt_sound (s : State) (n : Nat) (report : Bool) (code : Nat) :
    AttemptStopped n (abortKept s n report code) s (stopAttempt s n report code) := by
  rw [stopAttempt_eq]
  generalize abortKept s n report code = k
  have hended : AttemptEnded n k s (attemptEnded s n k) := attemptEnded_sound s n k
  have hdrain : PartsAndRings (attemptEnded s n k) (drainDiscard (attemptEnded s n k) (getSlot s n).part) := drainDiscard_frame _ _
  have hslot := hdrain.getSlot
  exact {
    frame := by rw [hdrain, hended.frame]
    other := fun m hm => (hslot m).trans (hended.other m hm)
    cn := by rw [hslot, hended.cn]
    abort := by rw [hslot, hended.abort]
    stage := by rw [hslot]; exact hended.stage
    held := by rw [hdrain]; exact hended.held
    part := by rw [getPart_drainDiscard_same, hended.getPart]
    otherPart := fun p hp => (getPart_drainDiscard_other _ hp).trans (hended.getPart p) }

theorem run_isSome_of_abortable {x : SlotSt} (h : abortable x = true) : x.run.isSome = true := by
  cases hrun : x.run with
  | some r => rfl
  | none => simp [abortable, hrun] at h

/-! ### A commit (R183, R196) -/

theorem settleWords_frame (s : State) (n : Nat) : settleWords s n = { s with fault := (settleWords s n).fault } := by
  unfold settleWords
  exact foldl_faultTransient_frame _ _

/-- The conversion events of the attempt are the slot's, its words transients. -/
def attemptSettled (s : State) (n : Nat) : State := settleWords (addConv s n) n

theorem attemptSettled_frame (s : State) (n : Nat) :
    attemptSettled s n = { s with slots := (addConv s n).slots, fault := (attemptSettled s n).fault } := by
  unfold attemptSettled
  rw [settleWords_frame]
  rfl

theorem getSlot_attemptSettled_same (s : State) (n : Nat) :
    getSlot (attemptSettled s n) n = { getSlot s n with conv := (getSlot (attemptSettled s n) n).conv } := by
  have hslot : getSlot (attemptSettled s n) n = getSlot (addConv s n) n := by
    rw [attemptSettled_frame]
    rfl
  rw [hslot, addConv, getSlot_updSlot_same]

theorem getSlot_attemptSettled_other (s : State) {n m : Nat} (h : m ≠ n) : getSlot (attemptSettled s n) m = getSlot s m := by
  have hslot : getSlot (attemptSettled s n) m = getSlot (addConv s n) m := by
    rw [attemptSettled_frame]
    rfl
  rw [hslot, addConv, getSlot_updSlot_other _ _ _ _ h]

/-- A slot whose step is committed; `oor` is the attempt's count of indices out of range. -/
def committedSlot (oor : Nat) (x : SlotSt) : SlotSt :=
  let c := match x.run with | some r => finalCharges r | none => []
  { x with
    cn := x.cn + 1,
    wcStale := false,
    last := sSuccess,
    replays := 0,
    dev := addCounters satAdd32 x.dev c,
    coll := { held := x.coll.held, pseqIn := x.coll.pseqIn.filter (fun q => q.1 % 8 == 7), pseqOut := x.coll.pseqOut.filter (fun q => q.1 == 7) },
    run := x.run.map (fun r =>
      { r with
        stage := .round,
        done := r.done + 1,
        charges := addCounters satAdd64 r.charges c,
        oor := satAdd32 r.oor oor,
        stepCharges := [],
        causes := [] }) }

/-- The step is committed: the packets of the slot's borders are gone. -/
def stepCommitted (s : State) (n : Nat) : State :=
  let s := attemptSettled s n
  let s := updSlot s n (committedSlot (coreOor s n))
  { s with borders := s.borders.filter (fun b => b.2.slot != n) }

theorem commitStep_eq (s : State) (n : Nat) : commitStep s n = releaseRound (stepCommitted s n) n := rfl

theorem releaseRound_of_noneHeld {s : State} {n : Nat} (h : (getSlot s n).coll.held = []) :
    releaseRound s n = updSlot s n (fun x => { x with coll := { x.coll with held := [] } }) := by
  unfold releaseRound
  rw [h]
  rfl

theorem getSlot_stepCommitted_same (s : State) (n : Nat) :
    getSlot (stepCommitted s n) n = committedSlot (coreOor (attemptSettled s n) n) (getSlot (attemptSettled s n) n) :=
  getSlot_updSlot_same _ _ _

theorem getSlot_stepCommitted_other (s : State) {n m : Nat} (h : m ≠ n) : getSlot (stepCommitted s n) m = getSlot s m :=
  (getSlot_updSlot_other _ _ _ _ h).trans (getSlot_attemptSettled_other s h)

theorem stepCommitted_frame (s : State) (n : Nat) : stepCommitted s n =
    { s with slots := (stepCommitted s n).slots, fault := (stepCommitted s n).fault, borders := (stepCommitted s n).borders } := by
  unfold stepCommitted
  dsimp only
  rw [updSlot, setSlot, attemptSettled_frame]

end Sys2Proof.Machine

open Sys2Proof.Machine Sys2Proof.Claims

namespace Sys2Proof.Claims

theorem abortStopsAttempt : AbortStopsAttempt := by
  intro s n code report x spent t
  refine ⟨fun hno => if_neg (ne_true_of_eq_false hno), fun hyes => ?_⟩
  have hstopped : AttemptStopped n (abortKept s n report code) s t := by
    rw [show t = stopAttempt s n report code from if_pos hyes]
    exact stopAttempt_sound s n report code
  have hpart := hstopped.part
  refine ⟨?_, ?_, ?_, ?_, hstopped.cn, hstopped.stage (run_isSome_of_abortable hyes), hstopped.abort, by rw [hpart], by rw [hpart], by rw [hpart],
    hstopped.otherPart, hstopped.held, hstopped.other⟩
  all_goals rw [hstopped.frame]

theorem commitRaisesCn : CommitRaisesCn := by
  intro s n r hrun hheld t
  have hsettled : getSlot (attemptSettled s n) n = _ := getSlot_attemptSettled_same s n
  have hslot : getSlot (stepCommitted s n) n = _ := getSlot_stepCommitted_same s n
  have hnone : (getSlot (stepCommitted s n) n).coll.held = [] := by
    rw [hslot, hsettled]
    exact hheld
  have ht : t = _ := (commitStep_eq s n).trans (releaseRound_of_noneHeld hnone)
  have hown : getSlot t n = _ := (congrArg (getSlot · n) ht).trans (getSlot_updSlot_same _ _ _)
  rw [hslot, hsettled] at hown
  have hstep {α : Type} (f : RunSt → α) : (getSlot t n).run.map f = (committedSlot (coreOor (attemptSettled s n) n) (getSlot s n)).run.map f := by
    rw [hown]
    rfl
  rw [hstep, hstep, committedSlot, hrun]
  refine ⟨by rw [hown]; rfl, by rw [hown]; rfl, by rw [hown]; rfl, rfl, rfl, fun m hm => ?_, ?_, ?_⟩
  · rw [ht, getSlot_updSlot_other _ _ _ _ hm, getSlot_stepCommitted_other s hm]
  all_goals
    rw [ht, updSlot, setSlot, stepCommitted_frame]

end Sys2Proof.Claims

/-- Settles O19: what a stopped attempt and a commit do to their slot, and that they leave the others alone. -/
theorem abortAndCommit : Obligations.AbortAndCommit := ⟨abortStopsAttempt, commitRaisesCn⟩
end

section
/-! PROOFS. The stall watchdog and the ends of drains (R144 to R150): the frame of what ends and starts RUNs, a stalled partition, and a drain that ends on
a partition where nothing waits. -/

namespace Sys2Proof.Machine

open Sys2Proof.Claims

/-! ### What the end of a RUN and the start of the next touch -/

/-- `t` differs from `s` in what ends and starts of RUNs touch, and a slot without a RUN has none there either. -/
structure RunWork (s t : State) : Prop where
  frame : t = { s with
    parts := t.parts, slots := t.slots, rings := t.rings, fault := t.fault, tiers := t.tiers, cores := t.cores, convFlags := t.convFlags,
    convUnits := t.convUnits }
  idle : ∀ n, (getSlot s n).run = none → (getSlot t n).run = none

theorem RunWork.refl (s : State) : RunWork s s := ⟨rfl, fun _ h => h⟩

theorem RunWork.trans {s t u : State} (hst : RunWork s t) (htu : RunWork t u) : RunWork s u where
  frame := by rw [htu.frame, hst.frame]
  idle n h := htu.idle n (hst.idle n h)

theorem RunWork.report {s t : State} (h : RunWork s t) : t.pipeFlags = s.pipeFlags ∧ t.wdog = s.wdog := by
  rw [h.frame]
  exact ⟨rfl, rfl⟩

theorem foldl_runWork {β : Type} (f : State → β → State) (h : ∀ s b, RunWork s (f s b)) (l : List β) (s : State) : RunWork s (l.foldl f s) := by
  induction l generalizing s with
  | nil => exact .refl s
  | cons b l ih => exact (h s b).trans (ih _)

theorem setPart_runWork (s : State) (p : Nat) (x : PartSt) : RunWork s (setPart s p x) := ⟨rfl, fun _ h => h⟩

theorem finishDesc_runWork (s : State) (r id status detail : Nat) : RunWork s (finishDesc s r id status detail) := ⟨rfl, fun _ h => h⟩

theorem attachReport_runWork (s : State) (r id addr : Nat) (bs : List Byte) : RunWork s (attachReport s r id addr bs) := ⟨rfl, fun _ h => h⟩

theorem dropWords_runWork (s : State) (n : Nat) :
    RunWork s { s with fault := { s.fault with words := s.fault.words.filter (fun w => w.2.2.1 != n) } } := ⟨rfl, fun _ h => h⟩

theorem mapCores_runWork (s : State) (p : Nat) (f : Nat → CoreSt → CoreSt) : RunWork s (mapCores s p f) := by
  rw [mapCores_frame]
  exact ⟨rfl, fun _ h => h⟩

theorem updSlot_runWork (s : State) (n : Nat) {f : SlotSt → SlotSt} (hf : ∀ x, x.run = none → (f x).run = none) : RunWork s (updSlot s n f) where
  frame := rfl
  idle m h := by
    by_cases hm : m = n
    · rw [hm, getSlot_updSlot_same]
      exact hf _ (hm ▸ h)
    · rwa [getSlot_updSlot_other _ _ _ _ hm]

theorem TiersOnly.runWork {s t : State} (h : TiersOnly s t) : RunWork s t where
  frame := by rw [h]
  idle n hn := by
    rw [h]
    exact hn

theorem raiseConv_runWork (s : State) (u : Nat) (e : Conv4) : RunWork s (raiseConv s u e) := by
  rw [raiseConv_frame]
  exact ⟨rfl, fun _ h => h⟩

theorem settleSwitch_runWork (s : State) (p : Nat) : RunWork s (settleSwitch s p) := by
  unfold settleSwitch
  dsimp only
  split
  · exact setPart_runWork _ _ _
  split
  · split
    · exact setPart_runWork _ _ _
    · exact (setPart_runWork _ _ _).trans (finishDesc_runWork _ _ _ _ _)
  · exact setPart_runWork _ _ _

theorem askSwitch_runWork (s : State) (p : Nat) (r : SwReq) : RunWork s (askSwitch s p r) :=
  (setPart_runWork _ _ _).trans (settleSwitch_runWork _ _)

theorem dropFold_runWork (s : State) (p : Nat) : RunWork s (dropFold s p) := (setPart_runWork _ _ _).trans (mapCores_runWork _ _ _)

theorem proceedLoads_runWork (p : Nat) (ls done : List LoadSt) (s : State) : RunWork s (proceedLoads p ls done s) := by
  induction ls generalizing done s with
  | nil => exact setPart_runWork _ _ _
  | cons l ls ih =>
    rw [proceedLoads]
    split
    · refine RunWork.trans ?_ (ih _ _)
      rw [beginLoad]
      split
      · exact (dropFold_runWork _ _).trans (mapCores_runWork _ _ _)
      · exact mapCores_runWork _ _ _
    · exact ih _ _

theorem tryLoads_runWork (s : State) (p : Nat) : RunWork s (tryLoads s p) := proceedLoads_runWork _ _ _ _

theorem regenTile_runWork (s : State) (n t : Nat) : RunWork s (regenTile s n t) := by
  unfold regenTile
  dsimp only
  refine RunWork.trans (RunWork.trans ?_ (raiseConv_runWork _ _ _)) (updSlot_runWork _ _ fun _ h => h)
  exact (writeStream_tiersOnly _ _ _ _ _).runWork

theorem regenWc_runWork (s : State) (n : Nat) : RunWork s (regenWc s n) := by
  unfold regenWc
  dsimp only
  split
  · exact (foldl_runWork _ (fun s t => regenTile_runWork s n t) _ _).trans (updSlot_runWork _ _ fun _ h => h)
  · exact .refl s

theorem setStage_runWork (s : State) (n : Nat) (g : RunStage) : RunWork s (setStage s n g) := by
  unfold setStage updRun
  exact updSlot_runWork s n fun x h => by simp [h]

theorem beginRun_runWork (s : State) (p n : Nat) : RunWork s (beginRun s p n) := by
  have hbetween (x : PartSt) : RunWork s (setStage (regenWc (setPart s p x) n) n .between) :=
    ((setPart_runWork _ _ _).trans (regenWc_runWork _ _)).trans (setStage_runWork _ _ _)
  unfold beginRun
  dsimp only
  split
  · exact hbetween _
  split
  · exact hbetween _
  split
  · exact hbetween _
  · exact (hbetween _).trans (askSwitch_runWork _ _ _)

theorem closeRun_runWork (s : State) (n status detail : Nat) : RunWork s (closeRun s n status detail) := by
  unfold closeRun
  dsimp only
  split
  · exact .refl s
  · refine RunWork.trans ?_ (attachReport_runWork _ _ _ _ _)
    refine RunWork.trans ?_ (finishDesc_runWork _ _ _ _ _)
    refine RunWork.trans ?_ (dropWords_runWork _ _)
    refine RunWork.trans ?_ (updSlot_runWork _ _ fun _ _ => rfl)
    split <;> exact setPart_runWork _ _ _

theorem startFrom_runWork (p : Nat) (ns : List Nat) (s : State) : RunWork s (startFrom p ns s) := by
  induction ns generalizing s with
  | nil => exact .refl s
  | cons n ns ih =>
    rw [startFrom]
    split
    · exact .refl s
    split
    · exact beginRun_runWork _ _ _
    · exact (closeRun_runWork _ _ _ _).trans (ih _)

theorem startRuns_runWork (s : State) (p : Nat) : RunWork s (startRuns s p) := by
  unfold startRuns
  dsimp only
  split
  · exact startFrom_runWork _ _ _
  · exact .refl s

theorem endRun_runWork (s : State) (n status detail : Nat) : RunWork s (endRun s n status detail) := by
  unfold endRun
  split
  · exact .refl s
  · exact ((closeRun_runWork _ _ _ _).trans (startRuns_runWork _ _)).trans (tryLoads_runWork _ _)

/-! ### A stalled partition (R144, R145, R147) -/

/-- A watchdog's state once a report of partition `p` is captured. -/
def stallCaptured (s : State) (p : Nat) : WdogSt :=
  { s.wdog with held := true, part := p, missed := 0, nent := (stallEntries s p).length, entries := msetList 0 [] 0 (stallEntries s p) }

theorem captureStall_free {s : State} {p : Nat} (h : s.wdog.held = false) : captureStall s p = { s with wdog := stallCaptured s p } :=
  if_neg (ne_true_of_eq_false h)

theorem captureStall_held {s : State} {p : Nat} (h : s.wdog.held = true) :
    captureStall s p = { s with wdog := { s.wdog with missed := min (s.wdog.missed + 1) 0xFF } } := if_pos h

theorem raiseStall_frame (s : State) (p : Nat) : raiseStall s p = setPart
    { s with wdog := (captureStall s p).wdog, pipeFlags := raise s.fc s.pipeFlags pipeStallWdog } p { getPart s p with stalled := 0 } := by
  unfold raiseStall captureStall
  dsimp only
  split <;> rfl

theorem getPart_raiseStall (s : State) (p : Nat) : getPart (raiseStall s p) p = { getPart s p with stalled := 0 } := by
  rw [raiseStall_frame, getPart_setPart_same]

theorem stallRun_noRun {s : State} {p : Nat} (h : (getPart s p).run = none) : stallRun s p = drainDiscard s p := by
  rw [stallRun, h]
  rfl

theorem stallRun_stops {s : State} {p n : Nat} (h : (getPart s p).run = some n)
    (hstop : (abortable (getSlot s n) || (getSlot s n).run.any (fun r => r.stage == .between)) = true) :
    stallRun s p = stopAttempt s n true sStallWatchdog := by
  rw [stallRun, h]
  exact if_pos hstop

/-- An attempt that can be aborted, or a RUN between two steps. -/
theorem stops_of_stage {x : SlotSt} (h : abortable x = true ∨ x.run.map (·.stage) = some .between) :
    (abortable x || x.run.any (fun r => r.stage == .between)) = true := by
  rcases h with h | h
  · rw [h, Bool.true_or]
  · obtain ⟨r, hr, hstage⟩ := Option.map_eq_some_iff.mp h
    simp [hr, hstage]

theorem run_isSome_of_stage {x : SlotSt} (h : abortable x = true ∨ x.run.map (·.stage) = some .between) : x.run.isSome = true := by
  rcases h with h | h
  · exact run_isSome_of_abortable h
  · obtain ⟨r, hr, -⟩ := Option.map_eq_some_iff.mp h
    rw [hr, Option.isSome_some]

theorem abortKept_report (s : State) (n code : Nat) : abortKept s n true code = joinAbort (getSlot s n).round.abort true code := rfl

/-- What becomes of the RUN changes neither the report nor its flag. -/
theorem stallRun_report (s : State) (p : Nat) : (stallRun s p).pipeFlags = s.pipeFlags ∧ (stallRun s p).wdog = s.wdog := by
  have hdrain : (drainDiscard s p).pipeFlags = s.pipeFlags ∧ (drainDiscard s p).wdog = s.wdog := by
    rw [drainDiscard_frame]
    exact ⟨rfl, rfl⟩
  cases hrun : (getPart s p).run with
  | none => rwa [stallRun_noRun hrun]
  | some n =>
    rw [stallRun, hrun]
    dsimp only
    split
    · rw [(stopAttempt_sound s n true sStallWatchdog).frame]
      exact ⟨rfl, rfl⟩
    · obtain ⟨hflags, hwdog⟩ := (endRun_runWork (drainDiscard s p) n sStallWatchdog (runDetail s n sStallWatchdog)).report
      exact ⟨hflags.trans hdrain.1, hwdog.trans hdrain.2⟩

/-! ### A drain that ends where nothing waits (R148, R149) -/

/-- With no RUN and nothing that waits, what goes on after a drain is nothing. -/
theorem afterDrain_quiet {s : State} {p : Nat} (hrun : (getPart s p).run = none) (hloads : (getPart s p).loads = [])
    (hqueue : (getPart s p).runQueue = []) (hreq : (getPart s p).swReq = none) (hwait : (getPart s p).swWait = []) :
    afterDrain s p = setPart (setPart s p (getPart s p)) p (getPart s p) := by
  have hload : tryLoads s p = setPart s p (getPart s p) := by
    rw [tryLoads, hloads, proceedLoads, ← hloads]
  have hstart : startRuns (setPart s p (getPart s p)) p = setPart s p (getPart s p) := by
    unfold startRuns
    simp only [getPart_setPart_same, hqueue, startFrom, ite_self]
  have hask : askAgain (setPart s p (getPart s p)) p = setPart s p (getPart s p) := by
    unfold askAgain
    simp only [getPart_setPart_same, hrun]
  rw [afterDrain, hload, hstart, hask, settleSwitch]
  simp only [getPart_setPart_same, promoteSwitch_noneWaits hwait, hreq]

theorem settle_inflight (co : CoreSt) : (settle co).inflight = co.inflight.filter (fun f => decide (co.ac < f.due)) := by
  have hfold : ∀ (l : List InFlight) (c : CoreSt),
      (l.foldl (fun co f => setCtx co f.ctx ((getCtx co f.ctx).writeResult f)) c).inflight = c.inflight := by
    intro l
    induction l with
    | nil => exact fun _ => rfl
    | cons f l ih => exact fun c => (ih _).trans rfl
  exact hfold _ _

theorem le_foldl_max (l : List Nat) (a : Nat) : a ≤ l.foldl max a ∧ ∀ b ∈ l, b ≤ l.foldl max a := by
  induction l generalizing a with
  | nil => simp
  | cons c l ih =>
    obtain ⟨hstart, hall⟩ := ih (max a c)
    rw [List.foldl_cons]
    refine ⟨by omega, List.forall_mem_cons.mpr ⟨by omega, hall⟩⟩

/-- Every result that was in flight has reached its register (R149). -/
theorem completeIssued_inflight (co : CoreSt) : (completeIssued co).inflight = [] := by
  rw [completeIssued, settle_inflight, List.filter_eq_nil_iff]
  intro f hf
  have hdue := (le_foldl_max (co.inflight.map (·.due)) co.ac).2 _ (List.mem_map_of_mem hf)
  simpa using hdue

theorem completeIssued_stores (co : CoreSt) : (completeIssued co).store = co.store ∧ (completeIssued co).acc = co.acc ∧
    (completeIssued co).queues = co.queues := by
  obtain ⟨hstore, hacc, -, hqueues, -⟩ := settle_stores { co with ac := (co.inflight.map (·.due)).foldl max co.ac }
  exact ⟨hstore, hacc, hqueues⟩

/-- A token's context number is one of four. -/
theorem tokCtx_mem (h : DWord) : tokCtx h ∈ [0, 1, 2, 3] := by
  have hlt : tokCtx h < 4 := by
    unfold tokCtx bits
    omega
  interval_cases tokCtx h <;> decide

theorem dropTokens_all (co : CoreSt) : (dropTokens [0, 1, 2, 3] co).queues = [] := by
  have hnone : ∀ t : Token, ([0, 1, 2, 3].contains (tokCtx t.hdr)) = true := fun t => List.contains_iff_mem.mpr (tokCtx_mem t.hdr)
  unfold dropTokens
  simp only [hnone, Bool.not_true, List.filterMap_eq_nil_iff]
  rintro ⟨q, x⟩ -
  refine if_pos ?_
  simp only [List.filter_false]
  cases x.head <;> simp

/-- A core at the end of a discard drain without a RUN. -/
def drainedCore (co : CoreSt) : CoreSt := { completeIssued (dropTokens [0, 1, 2, 3] co) with gathers := [] }

theorem discardTokens_eq (s : State) (p : Nat) : discardTokens s p [0, 1, 2, 3] = mapCores s p (fun _ => drainedCore) := rfl

theorem drainedCore_stores (co : CoreSt) : (drainedCore co).store = co.store ∧ (drainedCore co).acc = co.acc := by
  obtain ⟨hstore, hacc, -⟩ := completeIssued_stores (dropTokens [0, 1, 2, 3] co)
  exact ⟨hstore, hacc⟩

theorem drainedCore_empty (co : CoreSt) : (drainedCore co).inflight = [] ∧ (drainedCore co).gathers = [] ∧ (drainedCore co).queues = [] := by
  obtain ⟨-, -, hqueues⟩ := completeIssued_stores (dropTokens [0, 1, 2, 3] co)
  exact ⟨completeIssued_inflight _, rfl, hqueues.trans (dropTokens_all co)⟩

theorem drainEnd_idle {s : State} {part : BitVec 6} (h : (getPart s part.toNat).drain = .idle) : exec (.drainEnd part) s = .next s := by
  show execDrainEnd part s = _
  simp [execDrainEnd, h]

theorem drainEnd_run {s : State} {part : BitVec 6} (h : (getPart s part.toNat).drain = .run) : exec (.drainEnd part) s =
    if partEmpty s part.toNat then .next (afterDrain (setPart s part.toNat { getPart s part.toNat with drain := .idle }) part.toNat)
    else .next s := by
  show execDrainEnd part s = _
  simp [execDrainEnd, h]

theorem drainEnd_discard {s : State} {part : BitVec 6} (h : (getPart s part.toNat).drain = .discard) : exec (.drainEnd part) s =
    if gathersOut s part.toNat then .next s else .next (endDiscard s part.toNat) := by
  show execDrainEnd part s = _
  simp [execDrainEnd, h]

theorem endDiscard_noRun {s : State} {p : Nat} (h : (getPart s p).run = none) :
    endDiscard s p = afterDrain (discardTokens (setPart s p { getPart s p with drain := .idle }) p [0, 1, 2, 3]) p := by
  unfold endDiscard
  simp only [h]

/-- A state whose partition `p` is written again as it is. -/
theorem setPart_again (s : State) (p : Nat) (x : PartSt) :
    let t := setPart (setPart s p x) p x
    t = { s with parts := t.parts } ∧ getPart t p = x ∧ ∀ q, q ≠ p → getPart t q = getPart s q :=
  ⟨rfl, getPart_setPart_same _ _ _, fun q hq => by rw [getPart_setPart_other _ _ _ _ hq, getPart_setPart_other _ _ _ _ hq]⟩

end Sys2Proof.Machine

open Sys2Proof.Machine Sys2Proof.Claims

namespace Sys2Proof.Claims

theorem stallWatchdog : StallWatchdog := by
  intro part s p pt due
  have hexec : exec (.stallWatchdog part) s = if decide (wdogLimit s ≤ pt.stalled) && hasFullQueue s pt && !partCauses s p && pt.drain != .discard then
      .next (stallRun (raiseStall s p) p) else .next s := rfl
  have hdue : (decide (wdogLimit s ≤ pt.stalled) && hasFullQueue s pt && !partCauses s p && pt.drain != .discard) = true ↔ due := by
    simp [due, and_assoc]
  refine ⟨fun hno => hexec.trans (if_neg (mt hdue.mp hno)), fun hyes => ⟨_, hexec.trans (if_pos (hdue.mpr hyes)), ?_⟩⟩
  obtain ⟨hflags, hwdog⟩ := stallRun_report (raiseStall s p) p
  have hpart : getPart (raiseStall s p) p = { pt with stalled := 0 } := getPart_raiseStall s p
  have hslot : ∀ n, getSlot (raiseStall s p) n = getSlot s n := fun n => by
    rw [raiseStall_frame]
    rfl
  have hcores : (raiseStall s p).cores = s.cores := by rw [raiseStall_frame]; rfl
  have hslots : (raiseStall s p).slots = s.slots := by rw [raiseStall_frame]; rfl
  have hcapture : (raiseStall s p).wdog = (captureStall s p).wdog := by rw [raiseStall_frame]; rfl
  rw [hflags, hwdog, hcapture]
  refine ⟨by rw [raiseStall_frame]; rfl, fun hfree => congrArg State.wdog (captureStall_free hfree),
    fun hheld => congrArg State.wdog (captureStall_held hheld), fun hrun => ?none, fun n hrun hstage => ?stops⟩
  case none =>
    rw [stallRun_noRun (by rw [hpart]; exact hrun), getPart_drainDiscard_same]
    exact ⟨by rw [drainDiscard_frame]; exact hcores, by rw [drainDiscard_frame]; exact hslots, rfl, rfl, rfl⟩
  case stops =>
    have hrun' : (getPart (raiseStall s p) p).run = some n := by rw [hpart]; exact hrun
    have hstopped := stopAttempt_sound (raiseStall s p) n true sStallWatchdog
    rw [stallRun_stops hrun' (by rw [hslot]; exact stops_of_stage hstage)]
    refine ⟨by rw [hstopped.frame]; exact hcores, by rw [← hslot, hstopped.part], hstopped.stage ?_, by rw [hstopped.abort, abortKept_report, hslot]⟩
    rw [hslot]
    exact run_isSome_of_stage hstage

theorem drainEnds : DrainEnds := by
  intro part s p pt quiet
  refine ⟨drainEnd_idle, fun hrun hfull => ?_, fun hdiscard hout => ?_, fun hdiscard hin => ?_, fun hquiet hrun hempty => ?_,
    fun hquiet hdiscard hin => ?_⟩
  · rw [drainEnd_run hrun, if_neg (ne_true_of_eq_false hfull)]
  · rw [drainEnd_discard hdiscard, if_pos hout]
  · rw [drainEnd_discard hdiscard, if_neg (ne_true_of_eq_false hin)]
  · obtain ⟨hnoRun, hloads, hqueue, hreq, hwait⟩ := hquiet
    have hpart : getPart (setPart s p { pt with drain := .idle }) p = { pt with drain := .idle } := getPart_setPart_same _ _ _
    obtain ⟨hframe, hown, hother⟩ := setPart_again (setPart s p { pt with drain := .idle }) p { pt with drain := .idle }
    rw [drainEnd_run hrun, if_pos hempty, afterDrain_quiet (by rwa [hpart]) (by rwa [hpart]) (by rwa [hpart]) (by rwa [hpart]) (by rwa [hpart]), hpart]
    exact ⟨_, rfl, hframe, hown, fun q hq => (hother q hq).trans (getPart_setPart_other _ _ _ _ hq)⟩
  · obtain ⟨hnoRun, hloads, hqueue, hreq, hwait⟩ := hquiet
    rw [drainEnd_discard hdiscard, if_neg (ne_true_of_eq_false hin), endDiscard_noRun hnoRun, discardTokens_eq]
    generalize hu : mapCores (setPart s p { pt with drain := .idle }) p (fun _ => drainedCore) = u
    have hpart : getPart u p = { pt with drain := .idle } := by rw [← hu, getPart_mapCores, getPart_setPart_same]
    obtain ⟨hframe, hown, hother⟩ := setPart_again u p { pt with drain := .idle }
    rw [afterDrain_quiet (by rwa [hpart]) (by rwa [hpart]) (by rwa [hpart]) (by rwa [hpart]) (by rwa [hpart]), hpart]
    refine ⟨_, rfl, ?frame, hown, fun q hq => ?other, fun k hk => ?outside, fun k hk => ?inside⟩
    case frame =>
      rw [hframe, ← hu, mapCores_frame]
      rfl
    case other => rw [hother q hq, ← hu, getPart_mapCores, getPart_setPart_other _ _ _ _ hq]
    case outside =>
      rw [getCore_setPart, getCore_setPart, ← hu, getCore_mapCores_outside _ (by rwa [getPart_setPart_same]), getCore_setPart]
    case inside =>
      rw [getCore_setPart, getCore_setPart, ← hu]
      obtain ⟨co, ⟨hstore, hacc⟩, heq⟩ := getCore_mapCores_inside (s := setPart s p { pt with drain := .idle }) (p := p) (k := k) (f := fun _ => drainedCore)
        (P := fun co => co.store = (getCore s k).store ∧ co.acc = (getCore s k).acc)
        (fun co hco => ⟨(drainedCore_stores co).1.trans hco.1, (drainedCore_stores co).2.trans hco.2⟩) ⟨rfl, rfl⟩ (by rwa [getPart_setPart_same])
      obtain ⟨hinflight, hgathers, hqueues⟩ := drainedCore_empty co
      rw [heq]
      refine ⟨hinflight, hgathers, (drainedCore_stores co).1.trans hstore, (drainedCore_stores co).2.trans hacc, fun q => ?_⟩
      rw [getQueue, hqueues]
      exact ⟨rfl, rfl⟩

end Sys2Proof.Claims

/-- Settles O13: the report stands beside what becomes of the RUN, and a drain whose partition has nothing that waits ends alone. -/
theorem watchdogAndDrain : Obligations.WatchdogAndDrain := ⟨stallWatchdog, drainEnds⟩
end

section
/-! PROOFS. Descriptors of slots and partitions (R129, R136, R140, R148, R171, R195, R287 to R289, R291, R342): each row by the cases of its state checks,
in the state that takes the head of the ring. -/

namespace Sys2Proof.Machine

open Sys2Proof.Claims

/-! ### FENCE (R287) -/

section
variable {o : DescOp} {s : State} {k i raw : Nat} {rest : List (Nat × Nat)}

/-- The open descriptors of the ring that takes its head, those of dead functions left out. -/
theorem openOf_takenHead (o : DescOp) (s : State) (i raw : Nat) (rest : List (Nat × Nat)) :
    (getRing (takenHead o s i raw rest) o.ring.toNat).open_.filter (fun d => !d.orphan) =
      (getRing s o.ring.toNat).open_.filter (fun d => !d.orphan) ++ [{ id := (getRing s o.ring.toNat).nextId, idx := i, raw := raw }] := by
  rw [takenHead_eq, getRing_setRing_same]
  exact List.filter_append ..

theorem dOpcode_of_dCode {raw : Nat} (h : dCode raw = 0x0B) : dOpcode raw = 0x0B := by
  unfold dCode at h
  split at h <;> omega

/-- A FENCE that is alone in its ring ends. -/
theorem settleFence_alone (h : AtHead o s k i raw rest) (hcode : dCode raw = 0x0B) (hopen : ∀ d ∈ (getRing s o.ring.toNat).open_, d.orphan = true) :
    settleFence (takenHead o s i raw rest) o.ring.toNat = endsHead o s i raw rest s sSuccess 0 := by
  have hnone : (getRing s o.ring.toNat).open_.filter (fun d => !d.orphan) = [] := List.filter_eq_nil_iff.mpr fun d hd => by simp [hopen d hd]
  unfold settleFence
  rw [openOf_takenHead, hnone]
  exact (if_pos ⟨dOpcode_of_dCode hcode, rfl, rfl⟩).trans (finishDesc_taken h s _ _)

/-- A FENCE waits while a descriptor before it is open. -/
theorem settleFence_waits (hopen : ∃ d ∈ (getRing s o.ring.toNat).open_, d.orphan = false) :
    settleFence (takenHead o s i raw rest) o.ring.toNat = takenHead o s i raw rest := by
  obtain ⟨d, hd, horphan⟩ := hopen
  obtain ⟨d', ds, hcons⟩ := List.exists_cons_of_ne_nil (List.ne_nil_of_mem (List.mem_filter (p := fun d => !d.orphan).mpr ⟨hd, by simp [horphan]⟩))
  unfold settleFence
  rw [openOf_takenHead, hcons]
  cases ds <;> rfl

end

/-! ### LOAD_PATTERN, EVICT, SWITCH (R129, R131, R136, R140, R148) -/

section
variable {e : DescEnv} {t : State} {n p c : Nat} {pat : Pattern}

section
variable (hn : dTarget e.raw = n)
include hn

theorem startLoad_noPattern (hpat : (getSlot t n).pattern = none) : startLoad e t = e.done t sBadPattern 0xFFFFFFFF := by
  simp [startLoad, hn, hpat]

variable (hpat : (getSlot t n).pattern = some pat)
include hpat

theorem startLoad_current (hcur : slotCurrent t n = true) : startLoad e t = e.done t sPartBusy 0 := by simp [startLoad, hn, hpat, hcur]

variable (hcur : slotCurrent t n = false)
include hcur

theorem startLoad_count (hlen : (maskCtxs (dfld e.raw 0x08 1)).length ≠ pat.ctxs.length) : startLoad e t = e.done t sBadField 0 := by
  simp [startLoad, hn, hpat, hcur, hlen]

variable (hlen : (maskCtxs (dfld e.raw 0x08 1)).length = pat.ctxs.length)
include hlen

theorem startLoad_mode (hfold : dFlag e.raw 2 = true) (hmode : (getPart t (getSlot t n).part).mode ≠ .folded) :
    startLoad e t = e.done t sPartMode 0 := by
  simp [startLoad, hn, hpat, hcur, hlen, hfold, hmode]

variable (hmode : dFlag e.raw 2 = false ∨ (getPart t (getSlot t n).part).mode = .folded)
include hmode

theorem startLoad_refused {c : Nat × Nat} (hc : loadRefusal t n (maskCtxs (dfld e.raw 0x08 1)) (dFlag e.raw 2) pat = some c) :
    startLoad e t = e.done t c.1 c.2 := by
  have hallowed : (dFlag e.raw 2 && (getPart t (getSlot t n).part).mode != .folded) = false := by
    rcases hmode with h | h <;> simp [h]
  simp [startLoad, hn, hpat, hcur, hlen, hallowed, hc]

theorem startLoad_taken (hc : loadRefusal t n (maskCtxs (dfld e.raw 0x08 1)) (dFlag e.raw 2) pat = none) :
    startLoad e t = tryLoads (setPart t (getSlot t n).part { getPart t (getSlot t n).part with
      loads := (getPart t (getSlot t n).part).loads ++ newLoads e t n (maskCtxs (dfld e.raw 0x08 1)) (dFlag e.raw 2) pat }) (getSlot t n).part := by
  have hallowed : (dFlag e.raw 2 && (getPart t (getSlot t n).part).mode != .folded) = false := by
    rcases hmode with h | h <;> simp [h]
  simp [startLoad, hn, hpat, hcur, hlen, hallowed, hc]

end

theorem startEvict_refused (hn : dTarget e.raw = n) (hcur : slotCurrent t n = true)
    (hbusy : (getPart t (getSlot t n).part).mode ≠ .pinned ∨ partRunning t (getSlot t n).part = true) : startEvict e t = e.done t sPartBusy 0 := by
  have hheld : ((getPart t (getSlot t n).part).mode == .pinned && !partRunning t (getSlot t n).part) = false := by
    rcases hbusy with h | h <;> simp [h]
  simp [startEvict, hn, hcur, hheld]

theorem startEvict_taken (hn : dTarget e.raw = n)
    (hfree : slotCurrent t n = false ∨ ((getPart t (getSlot t n).part).mode = .pinned ∧ partRunning t (getSlot t n).part = false)) :
    startEvict e t = tryLoads (e.done (dropContexts t n).2 sSuccess (dropContexts t n).1) (getSlot t n).part := by
  subst hn
  refine if_neg ?_
  rcases hfree with hcur | ⟨hmode, hrun⟩
  · simp [hcur]
  · simp [hmode, hrun]

/-- A context that a SWITCH may ask for: it is resident, or its load has begun (R129). -/
def CtxHeld (t : State) (p c : Nat) : Prop := ctxResident t p c = true ∨ ∃ l ∈ (getPart t p).loads, l.ctx = c ∧ l.waiting = false

theorem ctxHeld_iff (t : State) (p c : Nat) :
    CtxHeld t p c ↔ (!ctxResident t p c && !(getPart t p).loads.any (fun l => l.ctx == c && !l.waiting)) = false := by
  rw [CtxHeld, or_iff_not_imp_left]
  simp

section
variable (hp : dTarget e.raw = p)
include hp

theorem startSwitch_mode (hmode : (getPart t p).mode ≠ .switching) : startSwitch e t = e.done t sPartMode 0 := by
  simp [startSwitch, hp, hmode]

variable (hmode : (getPart t p).mode = .switching)
include hmode

theorem startSwitch_notHeld (hheld : ¬ CtxHeld t p (bits e.raw 65 64)) : startSwitch e t = e.done t sNotResident 0 := by
  rw [ctxHeld_iff, Bool.not_eq_false] at hheld
  simp only [startSwitch, hp, hmode, hheld, bne_self_eq_false, Bool.false_eq_true, if_false, if_true]

variable (hheld : CtxHeld t p (bits e.raw 65 64))
include hheld

theorem startSwitch_busy (hrun : partRunning t p = true) : startSwitch e t = e.done t sPartBusy 0 := by
  rw [ctxHeld_iff] at hheld
  simp only [startSwitch, hp, hmode, hheld, hrun, bne_self_eq_false, Bool.false_eq_true, if_false, if_true]

theorem startSwitch_asked (hrun : partRunning t p = false) : startSwitch e t =
    askSwitch (if dFlag e.raw 1 = true ∧ (getPart t p).drain = .idle then setPart t p { getPart t p with drain := .run } else t) p
      { ctx := bits e.raw 65 64, desc := some (e.r, e.id), drain := dFlag e.raw 1 && (getPart t p).drain != .idle } := by
  rw [ctxHeld_iff] at hheld
  simp only [startSwitch, hp, hmode, hheld, hrun, bne_self_eq_false, Bool.false_eq_true, if_false, Bool.and_eq_true, beq_iff_eq]

end

end

/-! ### RUN (R164 to R173, R288, R291) -/

section
variable {s : State} {n : Nat}

theorem runRefusal_running (hrun : (getSlot s n).run.isSome = true) : runRefusal s n = some sSlotBusy := if_pos hrun

section
variable (hrun : (getSlot s n).run = none)
include hrun

theorem runRefusal_notResident (hres : runResident s n = false) : runRefusal s n = some sNotResident := by
  simp [runRefusal, hrun, hres]

variable (hres : runResident s n = true)
include hres

theorem runRefusal_mode (hmode : (getPart s (getSlot s n).part).mode = .pinned)
    (hother : ∃ c, (getPart s (getSlot s n).part).cur = some c ∧ c ∉ slotCtxs s (getSlot s n).part n) : runRefusal s n = some sPartMode := by
  obtain ⟨c, hcur, hc⟩ := hother
  simp [runRefusal, hrun, hres, hmode, hcur, hc]

theorem runRefusal_noMaster (hmode : (getPart s (getSlot s n).part).mode ≠ .pinned) (hhost : (getSlot s n).hostPlaced = false)
    (hmaster : (getSlot s n).noMaster = true) : runRefusal s n = some sNoMaster := by
  simp [runRefusal, hrun, hres, hmode, hhost, hmaster]

end

end

/-- A RUN accepted on its slot, in the queue of its partition (R288). -/
def runQueued (e : DescEnv) (t : State) (n : Nat) : State :=
  let x := getSlot t n
  setPart (updSlot t n (fun x => { x with run := some (newRun e) })) x.part { getPart t x.part with runQueue := (getPart t x.part).runQueue ++ [n] }

/-- The ring of a RUN whose entries follow it collects them (R291). -/
def runCollects (e : DescEnv) (t : State) : State := updRing t e.r (fun x => { x with collect := some (e.id, dPcount e.raw) })

section
variable {e : DescEnv} {t : State} {n : Nat} (hn : dTarget e.raw = n)
include hn

theorem acceptRun_badAddr (hlist : plistOk t (getSlot t n).dom e.raw = false) : acceptRun e t = e.done t sBadAddr 0 := by
  simp [acceptRun, hn, hlist]

variable (hlist : plistOk t (getSlot t n).dom e.raw = true)
include hlist

theorem acceptRun_refused {c : Nat} (hc : runRefusal t n = some c) : acceptRun e t = e.done t c 0 := by
  simp [acceptRun, hn, hlist, hc]

variable (hc : runRefusal t n = none)
include hc

theorem acceptRun_collects (hfollow : dFlag e.raw 3 = true) : acceptRun e t = settleCollect (runCollects e (runQueued e t n)) e.r := by
  simp [acceptRun, hn, hlist, hc, hfollow, runCollects, runQueued]

variable (hfollow : dFlag e.raw 3 = false) {v : State}
include hfollow

theorem acceptRun_failed {st : Nat}
    (hread : copyReads (runQueued e t n) (getSlot t n).dom (dPlist e.raw) (32 * dPcount e.raw) (e.o.fails.map (·.toNat)) = (some st, v)) :
    acceptRun e t = endRun v n st 0 := by
  rw [runQueued] at hread
  simp [acceptRun, hn, hlist, hc, hfollow, hread]

theorem acceptRun_read
    (hread : copyReads (runQueued e t n) (getSlot t n).dom (dPlist e.raw) (32 * dPcount e.raw) (e.o.fails.map (·.toNat)) = (none, v)) :
    acceptRun e t = admitRun v n (parseEntries (tierBytes v (getSlot t n).dom (dPlist e.raw) (32 * dPcount e.raw)) (dPcount e.raw)) := by
  rw [runQueued] at hread
  simp [acceptRun, hn, hlist, hc, hfollow, hread]

end

/-! #### A RUN that waits for entries on a ring that brings no more (R297, log entry 132) -/

/-- A slot's RUN collects its entries on a ring. -/
def collectsOn (r : Nat) (p : Nat × SlotSt) : Bool := p.2.run.any (fun x => x.stage == .collecting && x.ring == r)

theorem collecting_eq (s : State) (r : Nat) : collecting s r = (s.slots.find? (collectsOn r)).map (·.1) := rfl

theorem mem_minsert_same {α : Type} (m : SMap α) (i : Nat) (v : α) : (i, v) ∈ minsert m i v := by
  induction m with
  | nil => simp [minsert]
  | cons p m ih =>
    rw [minsert]
    split
    · simp
    split
    · simp
    · exact List.mem_cons_of_mem _ ih

theorem eq_or_mem_of_mem_minsert {α : Type} {m : SMap α} {i : Nat} {v : α} {p : Nat × α} (h : p ∈ minsert m i v) : p = (i, v) ∨ p ∈ m := by
  induction m with
  | nil => simpa [minsert] using h
  | cons q m ih =>
    rw [minsert] at h
    split at h
    · exact List.mem_cons.mp h
    split at h
    · exact (List.mem_cons.mp h).imp_right (List.mem_cons_of_mem _)
    · rcases List.mem_cons.mp h with rfl | hm
      · exact .inr List.mem_cons_self
      · exact (ih hm).imp_right (List.mem_cons_of_mem _)

/-- Where no other slot collects on a ring, the one that starts to is the ring's. -/
theorem collecting_of_setSlot {s t : State} {r n : Nat} {x : SlotSt} (hnone : collecting s r = none) (hx : collectsOn r (n, x) = true)
    (hslots : t.slots = mset {} s.slots n x) : collecting t r = some n := by
  have hne : x ≠ {} := by
    rintro rfl
    simp [collectsOn] at hx
  have hothers : ∀ p ∈ s.slots, collectsOn r p = false := by
    simpa [collecting_eq] using hnone
  rw [collecting_eq, hslots, mset, if_neg hne]
  cases hfind : (minsert s.slots n x).find? (collectsOn r) with
  | none => exact absurd hx (List.find?_eq_none.mp hfind _ (mem_minsert_same _ _ _))
  | some p =>
    rcases eq_or_mem_of_mem_minsert (List.mem_of_find?_eq_some hfind) with rfl | hm
    · rfl
    · exact absurd (List.find?_some hfind) (ne_true_of_eq_false (hothers p hm))

theorem closeRun_noRun (s : State) (n status detail : Nat) : (getSlot (closeRun s n status detail) n).run = none := by
  unfold closeRun
  dsimp only
  split
  next hrun => exact hrun
  · refine (attachReport_runWork _ _ _ _ _).idle n ((finishDesc_runWork _ _ _ _ _).idle n ((dropWords_runWork _ _).idle n ?_))
    rw [getSlot_updSlot_same]

/-- A slot whose RUN has ended has none. -/
theorem endRun_noRun (s : State) (n status detail : Nat) : (getSlot (endRun s n status detail) n).run = none := by
  unfold endRun
  split
  next hrun => exact hrun
  · exact ((startRuns_runWork _ _).trans (tryLoads_runWork _ _)).idle n (closeRun_noRun _ _ _ _)

/-- A RUN that collects on a ring that brings no more ends. -/
theorem settleCollect_noRun {s : State} {r n : Nat} (hcollect : collecting s r = some n) (henable : (getRing s r).enable = false)
    (htarget : (getRing s r).target = none) (hready : (getRing s r).ready = []) : (getSlot (settleCollect s r) n).run = none := by
  unfold settleCollect endCollecting
  simp only [henable, htarget, hready, hcollect, Bool.not_false, Option.isNone_none, List.isEmpty_nil, Bool.and_self, if_true]
  exact endRun_noRun _ _ _ _

/-- While the ring may bring more the RUN waits. -/
theorem settleCollect_waits {s : State} {r : Nat} (h : (getRing s r).enable = true ∨ (getRing s r).target ≠ none ∨ (getRing s r).ready ≠ []) :
    settleCollect s r = s := by
  refine if_neg ?_
  rcases h with h | h | h <;> simp [h]

/-! ### COMMIT_POLICY (R193, R195, R293) -/

/-- A slot with the policy of a COMMIT_POLICY. -/
def policySlot (e : DescEnv) (x : SlotSt) : SlotSt :=
  { x with
    hostPlaced := bit e.raw 64, narCommit := bit e.raw 65, repairOff := bit e.raw 66, gradBuf := e.addr 0, wcBuf := e.addr 1, readyBuf := e.addr 2 }

section
variable {e : DescEnv} {t v : State} {n c : Nat} (hn : dTarget e.raw = n)
include hn

theorem setPolicy_busy (hbusy : (getSlot t n).run.isSome = true ∨ (getSlot t n).reshard.isSome = true) : setPolicy e t = e.done t sSlotBusy 0 := by
  subst hn
  exact if_pos (by simpa using hbusy)

variable (hrun : (getSlot t n).run = none) (hreshard : (getSlot t n).reshard = none)
include hrun hreshard

theorem setPolicy_refused (hc : changePlacement t n (bit e.raw 64) = .err c) : setPolicy e t = e.done (quotaEvents t c) c 0 := by
  simp [setPolicy, hn, hrun, hreshard, hc]

theorem setPolicy_taken (hv : changePlacement t n (bit e.raw 64) = .ok v) : setPolicy e t = e.done (updSlot v n (policySlot e)) sSuccess 0 := by
  simp [setPolicy, hn, hrun, hreshard, hv]
  rfl

end

section
variable {t v : State} {n c : Nat} {host : Bool}

theorem changePlacement_same (h : (getSlot t n).hostPlaced = host) : changePlacement t n host = .ok t := by simp [changePlacement, h]

theorem changePlacement_toHost (h : (getSlot t n).hostPlaced = false) : changePlacement t n true = .ok (updSlot
    (releaseWhere t (getSlot t n).dom (fun r => r.slot == some n && masterKind r.kind)) n (fun x => { x with noMaster := false })) := by
  simp [changePlacement, h]

theorem changePlacement_refused (h : (getSlot t n).hostPlaced = true)
    (hc : allocRegions t (getSlot t n).dom (masterRegions n (getSlot t n)) = .err c) : changePlacement t n false = .err c := by
  simp [changePlacement, h, hc]

theorem changePlacement_toTiers (h : (getSlot t n).hostPlaced = true)
    (hv : allocRegions t (getSlot t n).dom (masterRegions n (getSlot t n)) = .ok v) :
    changePlacement t n false = .ok (updSlot v n (fun x => { x with noMaster := true })) := by
  simp [changePlacement, h, hv]

end

/-! ### RESHARD (R342, R343) -/

/-- An accepted re-shard, which waits for its fence. -/
def newReshard (e : DescEnv) (table : List UpdEntry) (fc : Nat) : ReshardSt :=
  { ring := e.r, desc := e.id, layout := dfld e.raw 0x0C 4, mapCrc := fieldLE e.o.data 0x18 8,
    map := parseMap (e.o.data.drop 64) (fieldLE e.o.data 0x08 4), table := table, stage := .fenceWait, accepted := fc }

section
variable {e : DescEnv} {t : State} {n : Nat} {table : List UpdEntry} (hn : dTarget e.raw = n)
include hn

theorem acceptReshard_old (hold : dfld e.raw 0x0C 4 ≤ (getSlot t n).layout) : acceptReshard table e t = e.done t sBadLayout 0 := by
  subst hn
  exact if_pos hold

theorem acceptReshard_busy (hnew : (getSlot t n).layout < dfld e.raw 0x0C 4) (hbusy : (getSlot t n).reshard.isSome = true) :
    acceptReshard table e t = e.done t sSlotBusy 0 := by
  simp [acceptReshard, hn, Nat.not_le.mpr hnew, hbusy]

variable (hfree : (getSlot t n).reshard = none)
include hfree

theorem acceptReshard_bad (hbad : layoutOk t n (dLength e.raw) (dfld e.raw 0x0C 4) e.o.data table = false) :
    acceptReshard table e t = e.done t sBadLayout 0 := by
  simp [acceptReshard, hn, hfree, hbad]

theorem acceptReshard_taken (hnew : (getSlot t n).layout < dfld e.raw 0x0C 4)
    (hgood : layoutOk t n (dLength e.raw) (dfld e.raw 0x0C 4) e.o.data table = true) :
    acceptReshard table e t = updSlot t n (fun x => { x with reshard := some (newReshard e table t.fc) }) := by
  simp [acceptReshard, hn, Nat.not_le.mpr hnew, hfree, hgood, newReshard]

end

end Sys2Proof.Machine

open Sys2Proof.Machine Sys2Proof.Claims

namespace Sys2Proof.Claims

section
variable {o : DescOp} {s : State} {k i raw : Nat} {rest : List (Nat × Nat)}

theorem exec_nop (h : Passed o s k i raw rest 0x00 barePlan) :
    exec (.nop o) s = .next ((headEnv o s k raw (barePlan k raw s)).done (takenHead o s i raw rest) sSuccess 0) :=
  exec_of_passed (go := fun e s => e.done s sSuccess 0) rfl rfl h

theorem exec_problem (h : Passed o s k i raw rest 0x11 problemPlan) :
    exec (.problem o) s = .next ((headEnv o s k raw (problemPlan k raw s)).done (takenHead o s i raw rest) sBadProblem 0xFFFFFFFF) :=
  exec_of_passed (go := fun e s => e.done s sBadProblem 0xFFFFFFFF) rfl rfl h

theorem exec_fence (h : Passed o s k i raw rest 0x0B barePlan) :
    exec (.fence o) s = .next (settleFence (takenHead o s i raw rest) o.ring.toNat) :=
  exec_of_passed (go := fun e s => settleFence s e.r) rfl rfl h

theorem exec_loadPattern (h : Passed o s k i raw rest 0x01 loadPlan) : exec (.loadPattern o) s =
    .next (startLoad (headEnv o s k raw (loadPlan k raw s)) (takenHead o s i raw rest)) := exec_of_passed rfl rfl h

theorem exec_evict (h : Passed o s k i raw rest 0x02 evictPlan) : exec (.evict o) s =
    .next (startEvict (headEnv o s k raw (evictPlan k raw s)) (takenHead o s i raw rest)) := exec_of_passed rfl rfl h

theorem exec_switch (h : Passed o s k i raw rest 0x03 switchPlan) : exec (.switch o) s =
    .next (startSwitch (headEnv o s k raw (switchPlan k raw s)) (takenHead o s i raw rest)) := exec_of_passed rfl rfl h

theorem exec_run (h : Passed o s k i raw rest 0x04 runPlan) : exec (.run o) s =
    .next (acceptRun (headEnv o s k raw (runPlan k raw s)) (takenHead o s i raw rest)) := exec_of_passed rfl rfl h

theorem exec_commitPolicy (h : Passed o s k i raw rest 0x0C policyPlan) : exec (.commitPolicy o) s =
    .next (setPolicy (headEnv o s k raw (policyPlan k raw s)) (takenHead o s i raw rest)) := exec_of_passed rfl rfl h

theorem exec_reshard {table : List UpdEntry} (h : Passed o s k i raw rest 0x0A reshardPlan) : exec (.reshard o table) s =
    .next (acceptReshard table (headEnv o s k raw (reshardPlan k raw s)) (takenHead o s i raw rest)) := exec_of_passed rfl rfl h

/-- A head that a row ends in the state that takes it. -/
theorem next_done {go : State} {status detail : Nat} {p : Plan} (h : AtHead o s k i raw rest)
    (hgo : go = (headEnv o s k raw p).done (takenHead o s i raw rest) status detail) :
    (.next go : Res) = .next (endsHead o s i raw rest s status detail) := by rw [hgo, done_taken h]

theorem headEnv_r (o : DescOp) (s : State) (k raw : Nat) (p : Plan) : (headEnv o s k raw p).r = o.ring.toNat := rfl

/-- The ring of a RUN that collects: its head is taken. -/
theorem getRing_runCollects (o : DescOp) (s : State) (k i raw : Nat) (rest : List (Nat × Nat)) (p : Plan) (n : Nat) :
    getRing (runCollects (headEnv o s k raw p) (runQueued (headEnv o s k raw p) (takenHead o s i raw rest) n)) o.ring.toNat =
      { takenRing (getRing s o.ring.toNat) i raw rest with collect := some ((getRing s o.ring.toNat).nextId, dPcount raw) } := by
  have hring : getRing (runQueued (headEnv o s k raw p) (takenHead o s i raw rest) n) o.ring.toNat = takenRing (getRing s o.ring.toNat) i raw rest := by
    rw [runQueued, getRing_setPart, getRing_updSlot, takenHead_eq, getRing_setRing_same]
  have hcollect := getRing_updRing_same (runQueued (headEnv o s k raw p) (takenHead o s i raw rest) n) o.ring.toNat
    (fun x => { x with collect := some ((getRing s o.ring.toNat).nextId, dPcount raw) })
  rw [hring] at hcollect
  exact hcollect

end

end Sys2Proof.Claims

/-- Settles O32: each row by the cases of its state checks, in the state that takes its head. -/
theorem slotDescriptors : Obligations.SlotDescriptors := by
  refine ⟨fun o s k i raw rest => ⟨fun h => ?nop, fun h => ?problem, fun h => ?fence⟩, fun o s k i raw rest h hpat => ?noPattern, ?load, ?evict, ?switch,
    ?run, ?policy, ?reshard⟩
  case nop => exact (exec_nop h).trans (next_done h.1 rfl)
  case problem => exact (exec_problem h).trans (next_done h.1 rfl)
  case fence =>
    rw [exec_fence h]
    exact ⟨fun hopen => by rw [settleFence_alone h.1 h.2.1 hopen], fun hopen => by rw [settleFence_waits hopen]⟩
  case noPattern => exact (exec_loadPattern h).trans (next_done h.1 (startLoad_noPattern rfl hpat))
  case load =>
    intro o s k i raw rest pat h n p cs u hpat
    rw [exec_loadPattern h]
    exact ⟨fun hcur => next_done h.1 (startLoad_current rfl hpat hcur), fun hcur => ⟨fun hlen => next_done h.1 (startLoad_count rfl hpat hcur hlen),
      fun hlen => ⟨fun hfold hmode => next_done h.1 (startLoad_mode rfl hpat hcur hlen hfold hmode), fun hmode =>
        ⟨fun c hc => next_done h.1 (startLoad_refused rfl hpat hcur hlen hmode hc), fun hc => congrArg _ (startLoad_taken rfl hpat hcur hlen hmode hc)⟩⟩⟩⟩
  case evict =>
    intro o s k i raw rest h n p v
    rw [exec_evict h]
    exact ⟨fun hcur hbusy => next_done h.1 (startEvict_refused rfl hcur hbusy), fun hfree => ⟨congrArg _ (startEvict_taken rfl hfree), rfl⟩⟩
  case switch =>
    intro o s k i raw rest h p c pt held
    rw [exec_switch h]
    exact ⟨fun hmode => next_done h.1 (startSwitch_mode rfl hmode), fun hmode hheld => next_done h.1 (startSwitch_notHeld rfl hmode hheld),
      fun hmode hheld hrun => next_done h.1 (startSwitch_busy rfl hmode hheld hrun),
      fun hmode hheld hrun => congrArg _ (startSwitch_asked rfl hmode hheld hrun)⟩
  case run =>
    intro o s k i raw rest h n x e r u
    rw [exec_run h]
    refine ⟨fun hlist => next_done h.1 (acceptRun_badAddr rfl hlist), fun hlist => ⟨fun hrun => ?_, fun hrun hres => ?_, fun hrun hres hmode hother => ?_,
      fun hrun hres hmode hhost hmaster => ?_, fun hc hfollow hmay => ?waits, fun hc hfollow henable htarget hrest hnone => ?ends,
      fun hc hfollow c v hread => ⟨fun hnone => congrArg _ ?_, fun st hst => congrArg _ ?_⟩⟩⟩
    · exact next_done h.1 (acceptRun_refused rfl hlist (runRefusal_running hrun))
    · exact next_done h.1 (acceptRun_refused rfl hlist (runRefusal_notResident hrun hres))
    · exact next_done h.1 (acceptRun_refused rfl hlist (runRefusal_mode hrun hres hmode hother))
    · exact next_done h.1 (acceptRun_refused rfl hlist (runRefusal_noMaster hrun hres hmode hhost hmaster))
    case waits =>
      refine congrArg _ (Eq.trans (acceptRun_collects rfl hlist hc hfollow) (settleCollect_waits ?_))
      rw [headEnv_r, getRing_runCollects]
      exact hmay
    case ends =>
      refine ⟨_, congrArg _ (acceptRun_collects rfl hlist hc hfollow), settleCollect_noRun (collecting_of_setSlot hnone ?_ rfl) ?_ ?_ ?_⟩
      · simp [collectsOn, newRun, headEnv]
      all_goals rw [headEnv_r, getRing_runCollects]
      · exact henable
      · exact htarget
      · exact hrest
    · exact acceptRun_read rfl hlist hc hfollow (hnone ▸ hread)
    · exact acceptRun_failed rfl hlist hc hfollow (hst ▸ hread)
  case policy =>
    intro o s k i raw rest h n x e u set
    rw [exec_commitPolicy h]
    refine ⟨fun hbusy => next_done h.1 (setPolicy_busy rfl hbusy), fun hrun hreshard hsame => congrArg _ ?_,
      fun hrun hreshard htiers hhost => congrArg _ ?_, fun hrun hreshard hwas hhost => ⟨fun c hc => congrArg _ ?_, fun v hv => congrArg _ ?_⟩⟩
    · exact Eq.trans (setPolicy_taken rfl hrun hreshard (changePlacement_same hsame)) (done_in (u := setSlot s n (set x)) h.1 rfl _ _)
    · exact setPolicy_taken rfl hrun hreshard ((congrArg _ hhost).trans (changePlacement_toHost htiers))
    · exact setPolicy_refused rfl hrun hreshard ((congrArg _ hhost).trans (changePlacement_refused hwas hc))
    · exact setPolicy_taken rfl hrun hreshard ((congrArg _ hhost).trans (changePlacement_toTiers hwas hv))
  case reshard =>
    intro o table s k i raw rest h n x layout good
    rw [exec_reshard h]
    exact ⟨fun hold => next_done h.1 (acceptReshard_old rfl hold), fun hnew hbusy => next_done h.1 (acceptReshard_busy rfl hnew hbusy),
      fun hnew hfree hbad => next_done h.1 (acceptReshard_bad rfl hfree hbad), fun hnew hfree hgood =>
        ⟨_, _, congrArg _ (acceptReshard_taken rfl hfree hnew hgood), rfl, rfl, rfl, rfl, rfl, rfl, rfl⟩⟩

end

section
/-! PROOFS. The decision on the descriptor at the head of a ring (R171, R282, R286, R287, R291): what a descriptor that passes the acceptance checks holds,
what a ring does with its head, and when it decides nothing. -/

namespace Sys2Proof.Machine

open Sys2Proof.Claims

/-! ### What the acceptance checks 2 to 9 let through (Table 12.2) -/

section
variable {b : Prop} [Decidable b] {c : Nat} {v : Verdict}

theorem refuseElse_eq_go : (if b then Verdict.refuse c else v) = .go ↔ ¬b ∧ v = .go := by
  by_cases h : b <;> simp [h]

theorem waitElse_eq_go : (if b then Verdict.wait else v) = .go ↔ ¬b ∧ v = .go := by
  by_cases h : b <;> simp [h]

end

/-- Buffers that pass checks 8 and 9 exist, are permitted and are long enough. -/
theorem buffers_of_bufVerdict {f : FnSt} {es : List BufEntry} {us : List BufUse} (h : bufVerdict f es us = .go) :
    es.length = us.length ∧ (∀ u ∈ us, u.idx < f.bufCount) ∧
      ∀ q ∈ us.zip es, q.1.acc &&& q.2.acc.toNat = q.1.acc ∧ q.1.off + q.1.bytes ≤ q.2.len.toNat := by
  rw [bufVerdict, refuseElse_eq_go, waitElse_eq_go, refuseElse_eq_go, refuseElse_eq_go] at h
  obtain ⟨hexist, hlen, hacc, hlong, -⟩ := h
  simp only [List.any_eq_true, decide_eq_true_eq, bne_iff_ne, not_exists, not_and, not_le, not_lt, not_not] at hexist hlen hacc hlong
  exact ⟨hlen, hexist, fun q hq => ⟨hacc q hq, hlong q hq⟩⟩

/-- A tenant's descriptor that passes check 3 names its session's domain or none. -/
theorem ownDomain_of_check {role domain : Nat} {dom : Option Nat} (h : (role == 1 && dom.any (· != domain)) = false) (htenant : role = 1) :
    dom = none ∨ dom = some domain := by
  cases dom with
  | none => exact .inl rfl
  | some d => exact .inr (congrArg some (by simpa [htenant] using h))

theorem accepted_of_checkPlan {s : State} {k raw : Nat} {es : List BufEntry} {p : Plan} (h : checkPlan s k raw es p = .go) : Accepted s k raw es p := by
  unfold checkPlan at h
  dsimp only at h
  rw [refuseElse_eq_go, refuseElse_eq_go, refuseElse_eq_go] at h
  obtain ⟨hfields, hrole, hservice, h⟩ := h
  simp only [Bool.not_eq_true, Bool.not_eq_false', Bool.and_eq_true] at hfields
  obtain ⟨hpermit, hown⟩ := Bool.or_eq_false_iff.mp (eq_false_of_ne_true hrole)
  cases hnames : p.names with
  | some c => simp [hnames] at h
  | none =>
    simp only [hnames] at h
    rw [refuseElse_eq_go, refuseElse_eq_go] at h
    obtain ⟨hcounts, hempty, h⟩ := h
    cases hbuf : bufVerdict (getFn s k) es p.bufs with
    | wait => simp [hbuf] at h
    | refuse c => simp [hbuf] at h
    | go =>
      obtain ⟨hlen, hidx, hper⟩ := buffers_of_bufVerdict hbuf
      have hread : p.ready = true ∧ (p.bufs = [] ∨ (getFn s k).cfg.master = true) := by simpa [hbuf, imp_iff_not_or] using h
      exact ⟨hfields.1, hfields.2, by simpa using hpermit, ownDomain_of_check hown, by simpa using hservice, hnames, by simpa using hcounts,
        by simpa using hempty, hread.1, hread.2, hlen, hidx, hper⟩

/-! ### The head of a ring -/

/-- A head that completes at once ends as `endsHead` says. -/
theorem finishHead_atHead {o : DescOp} {s : State} {k i raw : Nat} {rest : List (Nat × Nat)} (h : AtHead o s k i raw rest) (status detail : Nat) :
    finishHead s o.ring.toNat status detail = endsHead o s i raw rest s status detail := by
  rw [finishHead, takeHead_cons _ _ _ _ _ h.1]
  exact finishDesc_taken h s status detail

section
variable {o : DescOp} {s : State} {k i raw code : Nat} {rest : List (Nat × Nat)} {plan : Nat → Nat → State → Plan} {go : DescEnv → State → State}
  (h : AtHead o s k i raw rest)
include h

theorem decideRow_undefined (hcode : codeDefined (dCode raw) = false) : decideRow code o plan go s = .next (endsHead o s i raw rest s sBadOpcode 0) := by
  rw [← finishHead_atHead h]
  obtain ⟨hready, hfn, hfence, hfirst, hcollect, -⟩ := h
  simp [decideRow, hready, hfn, hfence, hfirst, hcollect, hcode]

theorem decideRow_otherRow (hcode : codeDefined (dCode raw) = true) (hother : dCode raw ≠ code) : decideRow code o plan go s = .next s := by
  obtain ⟨hready, hfn, hfence, hfirst, hcollect, -⟩ := h
  simp [decideRow, hready, hfn, hfence, hfirst, hcollect, hcode, hother]

variable (hcode : codeDefined code = true) (hraw : dCode raw = code)
include hcode hraw

theorem decideRow_refused {c : Nat} (hverdict : verdict o s k raw (plan k raw s) = .refuse c) :
    decideRow code o plan go s = .next (endsHead o s i raw rest s c 0) := by
  rw [← finishHead_atHead h]
  obtain ⟨hready, hfn, hfence, hfirst, hcollect, -⟩ := h
  rw [verdict] at hverdict
  simp [decideRow, hready, hfn, hfence, hfirst, hcollect, hraw, hcode, hverdict]

theorem decideRow_waits (hverdict : verdict o s k raw (plan k raw s) = .wait) : decideRow code o plan go s = .next s := by
  obtain ⟨hready, hfn, hfence, hfirst, hcollect, -⟩ := h
  rw [verdict] at hverdict
  simp [decideRow, hready, hfn, hfence, hfirst, hcollect, hraw, hcode, hverdict]

end

section
variable {o : DescOp} {s : State} {code : Nat} {plan : Nat → Nat → State → Plan} {go : DescEnv → State → State}

/-- A ring with nothing ready, of no function, with an open FENCE or behind another ready ring decides nothing (R287). -/
theorem decideRow_idle (h : (getRing s o.ring.toNat).ready = [] ∨ fnOfRing s o.ring.toNat = none ∨ fenceOpen (getRing s o.ring.toNat) = true ∨
    ringFirst s o.ring.toNat = false) : decideRow code o plan go s = .next s := by
  rw [decideRow]
  dsimp only
  split
  next d k hready hfn =>
    refine if_pos ?_
    rcases h with hnone | hnone | hfence | hbehind
    · simp [hnone] at hready
    · simp [hnone] at hfn
    · simp [hfence]
    · simp [hbehind]
  next => rfl

/-- The head of a ring whose RUN collects entries is consumed (R171, R291). -/
theorem decideRow_collects {c : Nat × Nat} (hready : (getRing s o.ring.toNat).ready ≠ []) (hfn : (fnOfRing s o.ring.toNat).isSome = true)
    (hfence : fenceOpen (getRing s o.ring.toNat) = false) (hfirst : ringFirst s o.ring.toNat = true)
    (hcollect : (getRing s o.ring.toNat).collect = some c) : decideRow code o plan go s = .next (collectHead s o.ring.toNat c) := by
  obtain ⟨d, ds, hcons⟩ := List.exists_cons_of_ne_nil hready
  obtain ⟨k, hk⟩ := Option.isSome_iff_exists.mp hfn
  simp [decideRow, hcons, hk, hfence, hfirst, hcollect]

end

/-- A ring whose RUN collects `n` entries, with its head consumed as one of them. -/
def collectedRing (x : RingSt) (id n i raw : Nat) (rest : List (Nat × Nat)) : RingSt :=
  { x with
    ready := rest, open_ := x.open_ ++ [{ id := x.nextId, idx := i, raw := raw, ofRun := some id }], nextId := x.nextId + 1,
    collect := some (id, n - 1) }

/-- The head consumed as an entry that is not the RUN's last leaves the RUN waiting for the next, on a ring that goes on. -/
theorem collectHead_more {s : State} {r id n i raw : Nat} {rest : List (Nat × Nat)} (hready : (getRing s r).ready = (i, raw) :: rest) (hn : 1 < n)
    (henable : (getRing s r).enable = true) : collectHead s r (id, n) = setRing s r (collectedRing (getRing s r) id n i raw rest) := by
  have hleft : n - 1 ≠ 0 := by omega
  simp only [collectHead, takeHead_cons _ _ _ _ _ hready, hleft, if_false]
  rw [updRing, getRing_setRing_same, setRing_setRing _ _ _ _ (ne_default_of_nextId rfl) (ne_default_of_nextId rfl)]
  refine settleCollect_waits (.inl ?_)
  rw [getRing_setRing_same]
  exact henable

/-! ### The rows -/

/-- The command of a row decides the head of a ring by the row's own checks and effect. -/
def IsRow (row : DescOp → Instr) (code : Nat) (plan : DescOp → Nat → Nat → State → Plan) (go : DescEnv → State → State) : Prop :=
  ∀ o s, exec (row o) s = decideRow code o (plan o) go s

section
variable {row : DescOp → Instr} {code : Nat} {plan : DescOp → Nat → Nat → State → Plan} {go : DescEnv → State → State} (hrow : IsRow row code plan go)
include hrow

theorem IsRow.decidesNothing : DecidesNothing row := fun o s =>
  ⟨fun h => (hrow o s).trans (decideRow_idle h),
    fun _ _ hready hfn hfence hfirst hcollect => (hrow o s).trans (decideRow_collects hready hfn hfence hfirst hcollect)⟩

theorem IsRow.decidesRow (hcode : codeDefined code = true) : DecidesRow row code plan go := fun o s _ _ _ _ h =>
  ⟨fun hundef => (hrow o s).trans (decideRow_undefined h hundef), fun hdef hother => (hrow o s).trans (decideRow_otherRow h hdef hother),
    fun hraw => ⟨fun _ hc => (hrow o s).trans (decideRow_refused h hcode hraw hc), fun hwait => (hrow o s).trans (decideRow_waits h hcode hraw hwait),
      fun hgo => exec_of_passed (hrow o s) hcode ⟨h, hraw, accepted_of_checkPlan hgo⟩⟩⟩

end

/-! #### Each row's code, plan and effect (Table 12.3) -/

theorem isRow_nop : IsRow .nop 0x00 (fun _ => barePlan) (fun e s => e.done s sSuccess 0) := fun _ _ => rfl
theorem isRow_loadPattern : IsRow .loadPattern 0x01 (fun _ => loadPlan) startLoad := fun _ _ => rfl
theorem isRow_evict : IsRow .evict 0x02 (fun _ => evictPlan) startEvict := fun _ _ => rfl
theorem isRow_switch : IsRow .switch 0x03 (fun _ => switchPlan) startSwitch := fun _ _ => rfl
theorem isRow_run : IsRow .run 0x04 (fun _ => runPlan) acceptRun := fun _ _ => rfl
theorem isRow_copyIn : IsRow .copyIn 0x05 copyInPlan copyIn := fun _ _ => rfl
theorem isRow_copyOut : IsRow .copyOut 0x06 (fun _ => copyOutPlan) copyOut := fun _ _ => rfl
theorem isRow_descriptorFill : IsRow .descriptorFill 0x07 (fun _ => fillPlan) fill := fun _ _ => rfl
theorem isRow_checkpoint : IsRow .checkpoint 0x08 (fun _ => imagePlan true true) checkpoint := fun _ _ => rfl
theorem isRow_restore : IsRow .restore 0x09 restorePlan restore := fun _ _ => rfl
theorem isRow_reshard (table : List UpdEntry) : IsRow (.reshard · table) 0x0A (fun _ => reshardPlan) (acceptReshard table) := fun _ _ => rfl
theorem isRow_fence : IsRow .fence 0x0B (fun _ => barePlan) (fun e s => settleFence s e.r) := fun _ _ => rfl
theorem isRow_commitPolicy : IsRow .commitPolicy 0x0C (fun _ => policyPlan) setPolicy := fun _ _ => rfl
theorem isRow_problem : IsRow .problem 0x11 (fun _ => problemPlan) (fun e s => e.done s sBadProblem 0xFFFFFFFF) := fun _ _ => rfl
theorem isRow_domainCreate : IsRow .domainCreate 0x101 (fun _ => domainPlan) createDomain := fun _ _ => rfl
theorem isRow_domainRemove : IsRow .domainRemove 0x102 (fun _ => domainPlan) removeDomain := fun _ _ => rfl
theorem isRow_quotaSet : IsRow .quotaSet 0x103 (fun _ => quotaPlan) setQuota := fun _ _ => rfl
theorem isRow_slotCreate (pat : Pattern) : IsRow (.slotCreate · pat) 0x104 (fun _ => createPlan) (createSlot pat) := fun _ _ => rfl
theorem isRow_slotRemove : IsRow .slotRemove 0x105 (fun _ => removeSlotPlan) removeSlot := fun _ _ => rfl
theorem isRow_regionAlloc : IsRow .regionAlloc 0x106 (fun _ => allocPlan) allocBuffer := fun _ _ => rfl
theorem isRow_regionRelease : IsRow .regionRelease 0x107 (fun _ => releasePlan) releaseBuffer := fun _ _ => rfl
theorem isRow_partCreate : IsRow .partCreate 0x108 (fun _ => partPlan) createPart := fun _ _ => rfl
theorem isRow_partResize : IsRow .partResize 0x109 (fun _ => resizePlan) resizePart := fun _ _ => rfl
theorem isRow_partRemove : IsRow .partRemove 0x10A (fun _ => removePlan) removePart := fun _ _ => rfl
theorem isRow_partMode : IsRow .partMode 0x10B (fun _ => modePlan) setMode := fun _ _ => rfl
theorem isRow_psSize : IsRow .psSize 0x10C (fun _ => storePlan) sizeStore := fun _ _ => rfl
theorem isRow_serviceEnter : IsRow .serviceEnter 0x10D (fun _ => servicePlan) (fun e s => e.done { s with service := true } sSuccess 0) := fun _ _ => rfl
theorem isRow_serviceLeave : IsRow .serviceLeave 0x10E (fun _ => servicePlan) (fun e s => e.done { s with service := false } sSuccess 0) := fun _ _ => rfl

end Sys2Proof.Machine

open Sys2Proof.Machine

/-- Settles O31: every row is `decideRow` with its own plan and effect, and what that does with a head is said once, check by check. -/
theorem descriptorDecision : Obligations.DescriptorDecision := by
  refine ⟨fun _ _ _ _ _ => ⟨accepted_of_checkPlan, checkPlan_of_accepted⟩, ?nothing, fun table => (isRow_reshard table).decidesNothing,
    fun pat => (isRow_slotCreate pat).decidesNothing, fun s r id n i raw rest hready hn henable => ?collects, ?rows⟩
  case nothing =>
    simp only [List.forall_mem_cons]
    exact ⟨isRow_nop.decidesNothing, isRow_loadPattern.decidesNothing, isRow_evict.decidesNothing, isRow_switch.decidesNothing, isRow_run.decidesNothing,
      isRow_copyIn.decidesNothing, isRow_copyOut.decidesNothing, isRow_descriptorFill.decidesNothing, isRow_checkpoint.decidesNothing,
      isRow_restore.decidesNothing, isRow_fence.decidesNothing, isRow_commitPolicy.decidesNothing, isRow_problem.decidesNothing,
      isRow_domainCreate.decidesNothing, isRow_domainRemove.decidesNothing, isRow_quotaSet.decidesNothing, isRow_slotRemove.decidesNothing,
      isRow_regionAlloc.decidesNothing, isRow_regionRelease.decidesNothing, isRow_partCreate.decidesNothing, isRow_partResize.decidesNothing,
      isRow_partRemove.decidesNothing, isRow_partMode.decidesNothing, isRow_psSize.decidesNothing, isRow_serviceEnter.decidesNothing,
      isRow_serviceLeave.decidesNothing, List.forall_mem_nil _⟩
  case collects =>
    rw [collectHead_more hready hn henable]
    refine ⟨_, rfl, rfl, ?_⟩
    rw [getRing_setRing_same]
    exact ⟨rfl, rfl, _, rfl, rfl, rfl, rfl⟩
  case rows =>
    exact ⟨isRow_nop.decidesRow rfl, isRow_loadPattern.decidesRow rfl, isRow_evict.decidesRow rfl, isRow_switch.decidesRow rfl, isRow_run.decidesRow rfl,
      isRow_copyIn.decidesRow rfl, isRow_copyOut.decidesRow rfl, isRow_descriptorFill.decidesRow rfl, isRow_checkpoint.decidesRow rfl,
      isRow_restore.decidesRow rfl, fun table => (isRow_reshard table).decidesRow rfl, isRow_fence.decidesRow rfl,
      isRow_commitPolicy.decidesRow rfl, isRow_problem.decidesRow rfl, isRow_domainCreate.decidesRow rfl, isRow_domainRemove.decidesRow rfl,
      isRow_quotaSet.decidesRow rfl, fun pat => (isRow_slotCreate pat).decidesRow rfl, isRow_slotRemove.decidesRow rfl,
      isRow_regionAlloc.decidesRow rfl, isRow_regionRelease.decidesRow rfl, isRow_partCreate.decidesRow rfl, isRow_partResize.decidesRow rfl,
      isRow_partRemove.decidesRow rfl, isRow_partMode.decidesRow rfl, isRow_psSize.decidesRow rfl, isRow_serviceEnter.decidesRow rfl,
      isRow_serviceLeave.decidesRow rfl⟩
end

section
/-! PROOFS. A byte written at a tier address while every rim die is in service (R206, R207, R226, R227): both copies of a mirrored granule take it, so
that it is the byte read there, and no byte elsewhere changes. -/

namespace Sys2Proof.Machine

/-! ### Cells apart from the one written -/

theorem setPhysByte_fenced (t : TierSt) (tier p o : Nat) (b : Byte) : (setPhysByte t tier p o b).fenced = t.fenced := by
  unfold setPhysByte
  split <;> rfl

/-- The bytes of one tier do not lie in the store of the other. -/
theorem physByte_setPhysByte_otherTier (t : TierSt) {tier tier' : Nat} (p o q x : Nat) (b : Byte) (h : tier' = 1 ↔ tier ≠ 1) :
    physByte (setPhysByte t tier p o b) tier' q x = physByte t tier' q x := by
  unfold physByte
  rw [openByte_setPhysByte]
  by_cases htier : tier = 1
  · have hother : tier' ≠ 1 := fun h1 => h.mp h1 htier
    simp [setPhysByte, htier, hother]
  · simp [setPhysByte, htier, h.mpr htier]

/-- A byte of the other tier, of another granule or at another offset reads as before. -/
theorem physByte_setPhysByte_apart (t : TierSt) {tier tier' p q o x : Nat} (b : Byte) (ho : o < granBytes) (hx : x < granBytes)
    (h : (tier' = 1 ↔ tier ≠ 1) ∨ (tier' = tier ∧ (q ≠ p ∨ x ≠ o))) : physByte (setPhysByte t tier p o b) tier' q x = physByte t tier' q x := by
  rcases h with hother | ⟨rfl, hcell⟩
  · exact physByte_setPhysByte_otherTier t p o q x b hother
  · exact physByte_setPhysByte_other t _ p o q x b ho hx hcell

/-! ### A granule and its mirror copy (R226, R227) -/

/-- A domain keeps two copies of the granule of a tier address. -/
def mirroredAt (d : DomSt) (a : Nat) : Bool := taTier a = 2 && mget false d.lpMirror (taGidx a)

/-- A byte written to a physical granule and, where it is mirrored, to the other copy. -/
def putCopies (t : TierSt) (mirrored : Bool) (tier p o : Nat) (b : Byte) : TierSt :=
  if mirrored = true then setPhysByte (setPhysByte t tier p o b) tier (p ^^^ 4) o b else setPhysByte t tier p o b

theorem putCopies_fenced (t : TierSt) (m : Bool) (tier p o : Nat) (b : Byte) : (putCopies t m tier p o b).fenced = t.fenced := by
  unfold putCopies
  split <;> simp only [setPhysByte_fenced]

theorem ne_xor_four (p : Nat) : p ≠ p ^^^ 4 := fun h => by
  have hfour : (4 : Nat) = 0 := Nat.xor_right_injective (x := p) (h.symm.trans (Nat.xor_zero p).symm)
  omega

theorem physByte_putCopies_same (t : TierSt) (m : Bool) (tier p o : Nat) (b : Byte) (ho : o < granBytes) :
    physByte (putCopies t m tier p o b) tier p o = b := by
  unfold putCopies
  split
  · rw [physByte_setPhysByte_other _ _ _ _ _ _ _ ho ho (.inl (ne_xor_four p)), physByte_setPhysByte_same]
  · exact physByte_setPhysByte_same _ _ _ _ _

theorem physByte_putCopies_apart (t : TierSt) {m : Bool} {tier tier' p q o x : Nat} (b : Byte) (ho : o < granBytes) (hx : x < granBytes)
    (h : (tier' = 1 ↔ tier ≠ 1) ∨ (tier' = tier ∧ ((q ≠ p ∧ (m = true → q ≠ p ^^^ 4)) ∨ x ≠ o))) :
    physByte (putCopies t m tier p o b) tier' q x = physByte t tier' q x := by
  have hfirst : physByte (setPhysByte t tier p o b) tier' q x = physByte t tier' q x :=
    physByte_setPhysByte_apart t b ho hx (h.imp_right (And.imp_right (Or.imp_left And.left)))
  unfold putCopies
  split
  next hm => exact (physByte_setPhysByte_apart _ b ho hx (h.imp_right (And.imp_right (Or.imp_left fun hq => hq.2 hm)))).trans hfirst
  next => exact hfirst

/-! ### Bytes at tier addresses -/

theorem taTier_of_taForm {a : Nat} (h : taForm a = true) : taTier a = 1 ∨ taTier a = 2 := by
  simp only [taForm, Bool.and_eq_true, Bool.or_eq_true, beq_iff_eq] at h
  exact h.1.1

section
variable {s : State} {dom a p : Nat} (hfenced : s.tiers.fenced = []) (hform : taForm a = true)
  (hphys : physOf (getDom s dom) (taTier a) (taGidx a) = some p)
include hfenced hform hphys

theorem tierByte_inService : tierByte s dom a = some (physByte s.tiers (taTier a) p (taOffs a)) := by
  simp [tierByte, hform, hphys, readGranule, hfenced]

theorem setTierByte_inService (b : Byte) :
    setTierByte s dom a b = { s with tiers := putCopies s.tiers (mirroredAt (getDom s dom) a) (taTier a) p (taOffs a) b } := by
  simp only [setTierByte, hform, hphys, hfenced, if_true, List.contains_nil, Bool.not_false, putCopies, mirroredAt]
  split <;> simp_all

end

theorem tierByteReadBack : Claims.TierByteReadBack := by
  intro s dom a b p hfenced hform hphys
  have hwritten := setTierByte_inService hfenced hform hphys b
  have hstill : (setTierByte s dom a b).tiers.fenced = [] := by rw [hwritten]; exact (putCopies_fenced ..).trans hfenced
  have hdom : getDom (setTierByte s dom a b) dom = getDom s dom := by rw [hwritten]; rfl
  have hread : ∀ c q, taForm c = true → physOf (getDom s dom) (taTier c) (taGidx c) = some q →
      tierByte (setTierByte s dom a b) dom c =
        some (physByte (putCopies s.tiers (mirroredAt (getDom s dom) a) (taTier a) p (taOffs a) b) (taTier c) q (taOffs c)) := by
    intro c q hc hq
    rw [tierByte_inService hstill hc (hdom ▸ hq), hwritten]
  refine ⟨?same, fun c q hc hq hapart => ?other, setTierByte_ok s dom a b⟩
  case same => rw [hread a p hform hphys, physByte_putCopies_same _ _ _ _ _ _ (taOffs_lt a)]
  case other =>
    rw [hread c q hc hq, tierByte_inService hfenced hc hq, physByte_putCopies_apart _ b (taOffs_lt a) (taOffs_lt c)]
    have hta := taTier_of_taForm hform
    have htc := taTier_of_taForm hc
    by_cases htier : taTier c = taTier a
    · refine .inr ⟨htier, ?_⟩
      rcases hapart with hne | hoffs | ⟨hgran, hcopy⟩
      · exact absurd htier hne
      · exact .inr hoffs
      · exact .inl ⟨hgran, fun hm => hcopy (of_decide_eq_true (Bool.and_eq_true_iff.mp hm).1)⟩
    · exact .inl (by omega)

end Sys2Proof.Machine
end

section
/-! PROOFS. Zeroing of granules (R209): the cells of a granule are dropped, so that it reads 0, and those of every other granule stay. -/

namespace Sys2Proof.Machine

/-! ### Cells that are dropped and cells that stay -/

section
variable {α : Type} (d : α) (m : SMap α) {f : Nat × α → Bool} {i : Nat}

/-- A key that a filter removes reads the default. -/
theorem mget_filter_removed (h : ∀ v, f (i, v) = false) : mget d (m.filter f) i = d := by
  induction m with
  | nil => rfl
  | cons p m ih =>
    obtain ⟨k, v⟩ := p
    rw [List.filter_cons]
    split
    next hkept =>
      have hk : k ≠ i := by
        rintro rfl
        exact absurd hkept (ne_true_of_eq_false (h v))
      rw [mget, if_neg hk, ih]
    next => exact ih

/-- A key that a filter keeps reads as before. -/
theorem mget_filter_kept (h : ∀ v, f (i, v) = true) : mget d (m.filter f) i = mget d m i := by
  induction m with
  | nil => rfl
  | cons p m ih =>
    obtain ⟨k, v⟩ := p
    rw [List.filter_cons]
    split
    next => simp only [mget, ih]
    next hremoved =>
      have hk : k ≠ i := by
        rintro rfl
        exact hremoved (h v)
      rw [ih, mget, if_neg hk]

end

theorem cell_granule (q : Nat) {j : Nat} (hj : j < granBytes) : (q * granBytes + j) / granBytes = q := by
  unfold granBytes at *
  omega

theorem mget_dropGranule_same (cells : List Host.Cell) (p : Nat) {j : Nat} (hj : j < granBytes) :
    mget 0 (dropGranule cells p) (p * granBytes + j) = 0 :=
  mget_filter_removed _ _ fun _ => by simp [cell_granule p hj]

theorem mget_dropGranule_other (cells : List Host.Cell) {p q j : Nat} (hq : q ≠ p) (hj : j < granBytes) :
    mget 0 (dropGranule cells p) (q * granBytes + j) = mget 0 cells (q * granBytes + j) :=
  mget_filter_kept _ _ fun _ => by simp [cell_granule q hj, hq]

/-- The cells of a granule dropped, and nothing open in it: it reads 0. -/
theorem physByte_dropped_same {t u : TierSt} {tier p j : Nat} (hj : j < granBytes)
    (hcells : (if tier = 1 then u.hbm else u.lp) = dropGranule (if tier = 1 then t.hbm else t.lp) p) (hopen : openByte u tier p j = 0) :
    physByte u tier p j = 0 := by
  rw [physByte, hcells, mget_dropGranule_same _ _ hj, hopen]
  rfl

/-- The cells of a granule dropped: another granule reads as before. -/
theorem physByte_dropped_other {t u : TierSt} {tier p q j : Nat} (hq : q ≠ p) (hj : j < granBytes)
    (hcells : (if tier = 1 then u.hbm else u.lp) = dropGranule (if tier = 1 then t.hbm else t.lp) p) (hopen : openByte u tier q j = openByte t tier q j) :
    physByte u tier q j = physByte t tier q j := by
  rw [physByte, hcells, mget_dropGranule_other _ hq hj, hopen, physByte]

/-! ### A granule that is zeroed -/

/-- The HBM3E tier with a granule zeroed and free. -/
def zeroHbm (t : TierSt) (p : Nat) : TierSt :=
  { t with hbmGran := mset .free t.hbmGran p .free, hbm := dropGranule t.hbm p, undef := mset 0 t.undef p 0 }

/-- The LPDDR5X tier with a granule zeroed and free. -/
def zeroLp (t : TierSt) (p : Nat) : TierSt := { t with lpGran := mset .free t.lpGran p .free, lp := dropGranule t.lp p }

section
variable (t : TierSt) {p q j : Nat} (hj : j < granBytes)
include hj

theorem physByte_zeroHbm_same : physByte (zeroHbm t p) 1 p j = 0 :=
  physByte_dropped_same (t := t) hj rfl (by simp [openByte, zeroHbm])

theorem physByte_zeroHbm_other (hq : q ≠ p) : physByte (zeroHbm t p) 1 q j = physByte t 1 q j :=
  physByte_dropped_other hq hj rfl (by simp [openByte, zeroHbm, mget_mset_other _ _ _ _ _ hq])

theorem physByte_zeroLp_same : physByte (zeroLp t p) 2 p j = 0 := physByte_dropped_same (t := t) hj rfl rfl

theorem physByte_zeroLp_other (hq : q ≠ p) : physByte (zeroLp t p) 2 q j = physByte t 2 q j := physByte_dropped_other hq hj rfl rfl

end

/-! ### GRANULE_ZEROING -/

/-- The state of a granule of a tier. -/
def granState (t : TierSt) (tier : BitVec 2) (p : Nat) : Granule := mget .free (if tier = 1 then t.hbmGran else t.lpGran) p

theorem tier_of_granuleOk {tier : BitVec 2} {p : Nat} (h : granuleOk tier.toNat p = true) : tier = 1 ∨ tier = 2 := by
  simp only [granuleOk, Bool.or_eq_true, Bool.and_eq_true, beq_iff_eq] at h
  exact h.imp (fun h1 => BitVec.eq_of_toNat_eq h1.1) fun h2 => BitVec.eq_of_toNat_eq h2.1

theorem exec_granuleZeroing (tier : BitVec 2) (gran : BitVec 19) (s : State) :
    exec (.granuleZeroing tier gran) s = execGranuleZeroing tier gran s := rfl

section
variable {tier : BitVec 2} {gran : BitVec 19} {s : State} (hgran : granuleOk tier.toNat gran.toNat = true)
include hgran

theorem exec_granuleZeroing_retired (hstage : s.handle.stage = 5) (hstate : granState s.tiers tier gran.toNat = .retired) :
    exec (.granuleZeroing tier gran) s = .next s := by
  rcases tier_of_granuleOk hgran with rfl | rfl <;> simp_all [exec_granuleZeroing, execGranuleZeroing, granState]

theorem exec_granuleZeroing_fresh (hstage : s.handle.stage = 5) (hstate : granState s.tiers tier gran.toNat ≠ .retired) :
    exec (.granuleZeroing tier gran) s = .next { s with
      tiers := { s.tiers with fresh := mset false s.tiers.fresh (if tier = 1 then gran.toNat else hbmGranules + gran.toNat) true } } := by
  rcases tier_of_granuleOk hgran with rfl | rfl <;> simp_all [exec_granuleZeroing, execGranuleZeroing, granState]

variable (hstage : s.handle.stage ≠ 5)
include hstage

theorem exec_granuleZeroing_clean (hstate : granState s.tiers tier gran.toNat ≠ .dirty) : exec (.granuleZeroing tier gran) s = .next s := by
  rcases tier_of_granuleOk hgran with rfl | rfl <;> simp_all [exec_granuleZeroing, execGranuleZeroing, granState]

theorem exec_granuleZeroing_hbm (htier : tier = 1) (hstate : granState s.tiers tier gran.toNat = .dirty) :
    exec (.granuleZeroing tier gran) s = .next { s with tiers := zeroHbm s.tiers gran.toNat } := by
  subst htier
  simp_all [exec_granuleZeroing, execGranuleZeroing, granState, zeroHbm]

theorem exec_granuleZeroing_lp (htier : tier = 2) (hstate : granState s.tiers tier gran.toNat = .dirty) :
    exec (.granuleZeroing tier gran) s = .next { s with tiers := zeroLp s.tiers gran.toNat } := by
  subst htier
  simp_all [exec_granuleZeroing, execGranuleZeroing, granState, zeroLp]

end

end Sys2Proof.Machine
end

section
/-! PROOFS. Requests at the memory tiers (R162, R218, R219, R229 to R231): a read is counted by what became of it, a late request of an attempt is charged,
and a tile that a rim die writes leaves what its token masks. -/

namespace Sys2Proof.Machine

/-! ### The counters of a channel (R231) -/

section
variable (s : State) (c : Nat) (f : ChanCnt → ChanCnt)

@[simp] theorem getChan_updChan_same : getChan (updChan s c f) c = f (getChan s c) := by simp [getChan, updChan]

theorem getChan_updChan_other {d : Nat} (h : d ≠ c) : getChan (updChan s c f) d = getChan s d := mget_mset_other _ _ _ _ _ h

@[simp] theorem getChan_raiseTier (b : Nat) : getChan (raiseTier s b) c = getChan s c := rfl

@[simp] theorem getChan_updSlot (n : Nat) (g : SlotSt → SlotSt) : getChan (updSlot s n g) c = getChan s c := rfl

end

/-! ### What became of a read (R218, R219, R377) -/

/-- The corrected errors of a read are counted at its channel. -/
def countCorr (s : State) (c k : Nat) : State := if k = 0 then s else updChan s c (fun x => { x with corr := satAdd32 x.corr k })

theorem countCorr_frame (s : State) (c k : Nat) :
    countCorr s c k = { s with tiers := { s.tiers with chans := (countCorr s c k).tiers.chans } } := by
  unfold countCorr
  split <;> rfl

theorem getChan_countCorr_same (s : State) (c k : Nat) : getChan (countCorr s c k) c =
    { getChan s c with corr := if k = 0 then (getChan s c).corr else satAdd32 (getChan s c).corr k } := by
  unfold countCorr
  split
  · rfl
  · exact getChan_updChan_same _ _ _

theorem getChan_countCorr_other (s : State) (k : Nat) {c d : Nat} (h : d ≠ c) : getChan (countCorr s c k) d = getChan s d := by
  unfold countCorr
  split
  · rfl
  · exact getChan_updChan_other _ _ _ h

/-- A read that is retried: its channel's RETRY, and the flag. -/
def countRetry (s : State) (c : Nat) : State := updChan (raiseTier s tfRetry) c (fun k => { k with retry := satAdd32 k.retry 1 })

/-- A read whose retry fails too: its channel's FAIL, and the flag. -/
def countFail (s : State) (c : Nat) : State := updChan (raiseTier s tfFail) c (fun k => { k with fail := satAdd32 k.fail 1 })

section
variable (s : State) (c k : Nat)

theorem countRetry_frame : countRetry (countCorr s c k) c = { s with
    tiers := { s.tiers with chans := (countRetry (countCorr s c k) c).tiers.chans, tierFlags := raise s.fc s.tiers.tierFlags tfRetry } } := by
  rw [countCorr_frame]
  rfl

theorem countFail_frame : countFail (countRetry (countCorr s c k) c) c = { s with
    tiers := { s.tiers with
      chans := (countFail (countRetry (countCorr s c k) c) c).tiers.chans,
      tierFlags := raise s.fc (raise s.fc s.tiers.tierFlags tfRetry) tfFail } } := by
  rw [countRetry_frame]
  rfl

theorem getChan_countRetry : getChan (countRetry s c) c = { getChan s c with retry := satAdd32 (getChan s c).retry 1 } :=
  getChan_updChan_same _ _ _

theorem getChan_countFail : getChan (countFail s c) c = { getChan s c with fail := satAdd32 (getChan s c).fail 1 } := getChan_updChan_same _ _ _

@[simp] theorem getChan_faultTransient : getChan (faultTransient s) c = getChan s c := rfl

end

section
variable (s : State) (c : Nat) {f : ReadFate}

theorem countRead_good (n : Option Nat) (hgood : f.bad1 = false) : countRead s n c f = countCorr s c f.corrected := by
  simp [countRead, hgood, countCorr]

theorem countRead_mended (hbad : f.bad1 = true) (hmended : f.bad2 = false) :
    countRead s none c f = faultTransient (countRetry (countCorr s c f.corrected) c) := by
  simp [countRead, hbad, hmended, countCorr, countRetry, updSlot?]

theorem countRead_failed (hbad : f.bad1 = true) (hagain : f.bad2 = true) (hreal : f.injected = false) :
    countRead s none c f = rimFailure (countFail (countRetry (countCorr s c f.corrected) c) c) c := by
  simp [countRead, hbad, hagain, hreal, countCorr, countRetry, countFail, updSlot?]

end

/-- The failed reads of a rim die that still count, with this one (R377). -/
def rimFailsNow (s : State) (c : Nat) : List (Nat × Nat) :=
  (mget [] s.fault.rimFails (channelRim c)).filter (fun f => f.1 != c && decide (s.fc < f.2 + 1200000000)) ++ [(c, s.fc)]

/-- While failed reads of fewer than four channels count, the rim die goes on. -/
theorem rimFailure_few {s : State} {c : Nat} (hfew : ((mget [] s.fault.rimFails (channelRim c)).filter (fun f => f.1 != c)).length < 3) :
    rimFailure s c = { s with fault := { s.fault with rimFails := mset [] s.fault.rimFails (channelRim c) (rimFailsNow s c) } } := by
  have hle : ((mget [] s.fault.rimFails (channelRim c)).filter (fun f => f.1 != c && decide (s.fc < f.2 + 1200000000))).length ≤
      ((mget [] s.fault.rimFails (channelRim c)).filter (fun f => f.1 != c)).length :=
    (List.monotone_filter_right _ fun _ h => (Bool.and_eq_true_iff.mp h).1).length_le
  refine if_neg ?_
  rw [List.length_append, List.length_singleton]
  omega

/-! ### Late requests (R229, R230) -/

theorem freshFc_nil {a b : Nat} (h : a < b) : freshFc [] a b = b - a := by simp [freshFc, h, sumNat]

section
variable (s : State) (n c : Nat) {a b : Nat}

theorem noteLate_onTime (h : b ≤ a) : noteLate s n c a b = s := if_pos h

variable (h : a < b)
include h

theorem noteLate_frame : noteLate s n c a b =
    { s with slots := (noteLate s n c a b).slots, parts := (noteLate s n c a b).parts, tiers := (noteLate s n c a b).tiers } := by
  rw [noteLate, if_neg (Nat.not_le.mpr h), dropStalled, if_pos h]
  rfl

theorem noteLate_tiers : (noteLate s n c a b).tiers =
    { s.tiers with chans := (noteLate s n c a b).tiers.chans, tierFlags := raise s.fc s.tiers.tierFlags tfLate } := by
  rw [noteLate, if_neg (Nat.not_le.mpr h), dropStalled, if_pos h]
  rfl

theorem tierLate_noteLate {r : RunSt} (hrun : (getSlot s n).run = some r) (hcauses : r.causes.filter (·.1 == cTier) = []) :
    (getSlot (noteLate s n c a b) n).tierLate = satAdd64 (getSlot s n).tierLate (b - a) := by
  have hslot : getSlot (updChan (raiseTier (dropStalled s n a b) tfLate) c
      (fun k => { k with late := satAdd64 k.late (freshFc k.lateFc a b), lateFc := k.lateFc ++ [(a, b)] })) n = getSlot s n := by
    rw [dropStalled, if_pos h]
    rfl
  rw [noteLate, if_neg (Nat.not_le.mpr h)]
  dsimp only
  rw [getSlot_updSlot_same, hslot, hrun]
  dsimp only
  rw [hcauses, List.map_nil, freshFc_nil h]

theorem late_noteLate (hfresh : (getChan s c).lateFc = []) :
    (getChan (noteLate s n c a b) c).late = satAdd64 (getChan s c).late (b - a) := by
  have hchan : getChan (raiseTier (dropStalled s n a b) tfLate) c = getChan s c := by
    rw [dropStalled, if_pos h]
    rfl
  rw [noteLate, if_neg (Nat.not_le.mpr h)]
  dsimp only
  rw [getChan_updSlot, getChan_updChan_same, hchan, hfresh, freshFc_nil h]

end

/-- The write of an attempt is late from the fc after its window's end until it is accepted. -/
theorem requestLate_write {s : State} {n c due : Nat} {r : RunSt} (hrun : (getSlot s n).run = some r)
    (hattempt : r.stage = .step ∨ (r.stage = .replay ∧ (getSlot s n).round.abort.isSome = true)) :
    requestLate s n c due true = noteLate s n c (r.start + due + 1) s.fc := by
  rcases hattempt with hstep | ⟨hreplay, habort⟩
  · simp [requestLate, hrun, hstep]
  · simp [requestLate, hrun, hreplay, habort]

/-! ### Tiles that a rim die writes (R162; log entry 135) -/

theorem putElem_masked {x : SlotSt} {u : TierPut} {s : State} {i : Nat}
    (h : tokMrows u.tile.hdr < i / 32 ∨ tokMcols u.tile.hdr < i % 32) : putElem x u s i = s := if_pos h

/-- An element that its token gives a value and that lies in a stream is written. -/
theorem putElem_inStream {x : SlotSt} {u : TierPut} {s : State} {i : Nat} (hrow : i / 32 ≤ tokMrows u.tile.hdr) (hcol : i % 32 ≤ tokMcols u.tile.hdr)
    {q : Nat × Nat} (hq : q ∈ writeStreams x) (hfrom : q.1 ≤ u.addr.toNat + i / 32 * u.stride.toNat + i % 32 * (tokFmt u.fmt.toNat).width)
    (hto : u.addr.toNat + i / 32 * u.stride.toNat + i % 32 * (tokFmt u.fmt.toNat).width + (tokFmt u.fmt.toNat).width ≤ q.1 + q.2) :
    putElem x u s i = setTierBytes s x.dom (u.addr.toNat + i / 32 * u.stride.toNat + i % 32 * (tokFmt u.fmt.toNat).width)
      (bytesLE (tokFmt u.fmt.toNat).width (nth 0 u.tile.tile i).toNat) := by
  have hgiven : ¬(tokMrows u.tile.hdr < i / 32 ∨ tokMcols u.tile.hdr < i % 32) := by omega
  exact (if_neg hgiven).trans (if_pos (List.any_eq_true.mpr ⟨q, hq, by simp [hfrom, hto]⟩))

theorem byte_toNat_eq_zero {b : Byte} : b.toNat = 0 ↔ b = 0 := BitVec.toNat_inj (y := 0)

/-! ### TIER_READ -/

theorem exec_tierRead (o : TierReadOp) (s : State) : exec (.tierRead o) s = execTierRead o s := rfl

section
variable {o : TierReadOp} {s : State} (hgran : granuleOk o.tier.toNat o.gran.toNat = true)
include hgran

theorem exec_tierRead_fenced (hout : channelRim (channelOf o.tier.toNat o.gran.toNat (4096 * o.block.toNat)) ∈ s.tiers.fenced) :
    exec (.tierRead o) s = .next s := by
  simp [exec_tierRead, execTierRead, hgran, hout]

variable (hin : channelRim (channelOf o.tier.toNat o.gran.toNat (4096 * o.block.toNat)) ∉ s.tiers.fenced)
include hin

theorem exec_tierRead_write (hnone : o.slot = none) (hwrite : o.write = true) : exec (.tierRead o) s = .next s := by
  simp [exec_tierRead, execTierRead, hgran, hin, hnone, hwrite, putTile]

/-- A write of a slot: what it is late by, and the tile it puts. -/
theorem exec_tierRead_slotWrite {n : BitVec 12} (hslot : o.slot = some n) (hwrite : o.write = true) : exec (.tierRead o) s =
    .next (putTile (requestLate s n.toNat (channelOf o.tier.toNat o.gran.toNat (4096 * o.block.toNat)) o.due true) (some n.toNat) o.put) := by
  simp [exec_tierRead, execTierRead, hgran, hin, hslot, hwrite]

/-- A read of another requester at a channel without armed points is counted by what became of it. -/
theorem exec_tierRead_read (hnone : o.slot = none) (hread : o.write = false)
    (hinject : ∀ k, k = 2 ∨ k = 3 ∨ k = 4 → takeInject s k (channelOf o.tier.toNat o.gran.toNat (4096 * o.block.toNat)) = none) :
    exec (.tierRead o) s = .next (countRead s none (channelOf o.tier.toNat o.gran.toNat (4096 * o.block.toNat))
      { corrected := o.corrected.toNat, bad1 := o.bad1, bad2 := o.bad1 && o.bad2 }) := by
  simp [exec_tierRead, execTierRead, hgran, hin, hnone, hread, injectRead, hinject]

end

/-! ### The statement -/

/-- A read that its retry mends: what it leaves. -/
theorem mended_frame (s : State) (c k : Nat) : let t := faultTransient (countRetry (countCorr s c k) c)
    t = { s with
      tiers := { s.tiers with chans := t.tiers.chans, tierFlags := raise s.fc s.tiers.tierFlags tfRetry },
      fault := { s.fault with transCnt := satAdd32 s.fault.transCnt 1, flags := raise s.fc s.fault.flags ffTransient } } := by
  dsimp only
  rw [countRetry_frame]
  rfl

/-- A read that fails twice, while few channels of its rim die have failed: what it leaves. -/
theorem failed_frame {s : State} {c : Nat} (k : Nat) (hfew : ((mget [] s.fault.rimFails (channelRim c)).filter (fun f => f.1 != c)).length < 3) :
    let t := rimFailure (countFail (countRetry (countCorr s c k) c) c) c
    t = { s with
      tiers := { s.tiers with chans := t.tiers.chans, tierFlags := raise s.fc (raise s.fc s.tiers.tierFlags tfRetry) tfFail },
      fault := { s.fault with rimFails := t.fault.rimFails } } ∧
    getChan t c = getChan (countFail (countRetry (countCorr s c k) c) c) c ∧ (c, s.fc) ∈ mget [] t.fault.rimFails (channelRim c) := by
  have hcounted := countFail_frame s c k
  generalize countFail (countRetry (countCorr s c k) c) c = u at *
  have hfault : u.fault = s.fault := by rw [hcounted]
  have hfc : u.fc = s.fc := by rw [hcounted]
  dsimp only
  rw [rimFailure_few (hfault ▸ hfew)]
  refine ⟨by rw [hcounted], rfl, ?_⟩
  rw [mget_mset_same, rimFailsNow, hfc]
  exact List.mem_append_right _ (List.mem_singleton_self _)

theorem requestsAndZeroing : Claims.TierReads := by
  unfold Claims.TierReads
  refine ⟨fun o s hgran => ?requests, fun x u s i _ => ?elements, fun tier gran s hgran => ?zeroing⟩
  case requests =>
    intro c inject corr
    have hcorr : getChan (countCorr s c o.corrected.toNat) c = { getChan s c with corr := corr } := by
      simp only [getChan_countCorr_same, byte_toNat_eq_zero, corr]
    refine ⟨exec_tierRead_fenced hgran, fun hin hnone => ⟨exec_tierRead_write hgran hin hnone, fun hread hinj hgood hzero => ?clean,
        fun hread hinj hgood _ => ?corrected, fun hread hinj hbad hmended => ?mended, fun hread hinj hbad hagain hfew => ?failed⟩,
      fun n r hin hslot hwrite hput hrun hattempt => ?late, fun n r u hin hslot hwrite hput hrun hstep hfc => ?put⟩
    case clean =>
      rw [exec_tierRead_read hgran hin hnone hread hinj, countRead_good _ _ _ hgood]
      exact congrArg _ (if_pos (byte_toNat_eq_zero.mpr hzero))
    case corrected =>
      rw [exec_tierRead_read hgran hin hnone hread hinj, countRead_good _ _ _ hgood]
      exact ⟨_, rfl, countCorr_frame _ _ _, hcorr, fun d hd => getChan_countCorr_other _ _ hd⟩
    case mended =>
      rw [exec_tierRead_read hgran hin hnone hread hinj, countRead_mended _ _ hbad (by simp [hmended])]
      refine ⟨_, rfl, mended_frame _ _ _, ?_⟩
      rw [getChan_faultTransient, getChan_countRetry, hcorr]
    case failed =>
      rw [exec_tierRead_read hgran hin hnone hread hinj, countRead_failed _ _ hbad (by simp [hbad, hagain]) rfl]
      obtain ⟨hframe, hchan, hrecord⟩ := failed_frame o.corrected.toNat hfew
      refine ⟨_, rfl, hframe, hchan.trans ?_, hrecord⟩
      rw [getChan_countFail, getChan_countRetry, hcorr]
    case late =>
      rw [exec_tierRead_slotWrite hgran hin hslot hwrite, requestLate_write hrun hattempt, hput]
      refine ⟨fun hfc => congrArg _ (noteLate_onTime s _ _ hfc), fun hlate => ⟨_, rfl, noteLate_frame _ _ _ hlate, noteLate_tiers _ _ _ hlate,
        tierLate_noteLate _ _ _ hlate hrun, late_noteLate _ _ _ hlate⟩⟩
    case put =>
      have hattempt : abortable (getSlot s n.toNat) = true := by simp [abortable, hrun, hstep]
      rw [exec_tierRead_slotWrite hgran hin hslot hwrite, requestLate_write hrun (.inl hstep), noteLate_onTime _ _ _ hfc, hput]
      exact congrArg _ (if_pos hattempt)
  case elements =>
    intro a
    exact ⟨putElem_masked, fun hrow hcol q hq hfrom hto => putElem_inStream hrow hcol hq hfrom hto⟩
  case zeroing =>
    intro p key state
    refine ⟨exec_granuleZeroing_retired hgran, exec_granuleZeroing_fresh hgran, fun hstage => ⟨exec_granuleZeroing_clean hgran hstage,
      fun htier hdirty => ?hbm, fun htier hdirty => ?lp⟩⟩
    case hbm =>
      exact ⟨_, exec_granuleZeroing_hbm hgran hstage htier hdirty, rfl, mget_mset_same .free s.tiers.hbmGran p .free,
        fun j hj => physByte_zeroHbm_same _ hj,
        fun q j hq hj => ⟨physByte_zeroHbm_other _ hj hq, mget_mset_other .free s.tiers.hbmGran p q .free hq⟩⟩
    case lp =>
      exact ⟨_, exec_granuleZeroing_lp hgran hstage htier hdirty, rfl, mget_mset_same .free s.tiers.lpGran p .free,
        fun j hj => physByte_zeroLp_same _ hj,
        fun q j hq hj => ⟨physByte_zeroLp_other _ hj hq, mget_mset_other .free s.tiers.lpGran p q .free hq⟩⟩

end Sys2Proof.Machine

open Sys2Proof.Machine

/-- Settles O34: a request by what became of it, a tile element by element, a granule by its cells; and a byte by the copies that take it. -/
theorem tierReads : Obligations.TierReads := ⟨requestsAndZeroing, tierByteReadBack⟩
end

section
/-! PROOFS. Border engines (R184, R188 to R191): an instruction that its engine stands at changes the engine, and what its row writes; a row is
what `borderOp` makes of it. -/

namespace Sys2Proof.Machine

open Sys2Proof.Claims

/-! ### One instruction at an engine (R188, R189; log entry 16) -/

section
variable {s : State} {op : Nat} {o : BorderOp}

/-- The test that `borderOp` makes is that the engine issues. -/
theorem borderIssues_iff : BorderIssues s op o ↔
    (!borderLive s (getBorder s o.rim.toNat) || borderAt (getSlot s (getBorder s o.rim.toNat).slot) (getBorder s o.rim.toNat) != some (borderWord op o)) = false := by
  simp [BorderIssues]

theorem borderOp_else (h : ¬ BorderIssues s op o) (f : SlotSt → BorderSt → State → State × BorderSt) : borderOp op o s f = .next s :=
  if_pos (eq_true_of_ne_false (mt borderIssues_iff.mpr h))

theorem borderOp_issues (h : BorderIssues s op o) (f : SlotSt → BorderSt → State → State × BorderSt) :
    borderOp op o s f = .next (borderNext s o (f (getSlot s (getBorder s o.rim.toNat).slot) (getBorder s o.rim.toNat) s).1
      (f (getSlot s (getBorder s o.rim.toNat).slot) (getBorder s o.rim.toNat) s).2) :=
  if_neg (Bool.not_eq_true _ ▸ borderIssues_iff.mp h)

end

/-! ### Events and registers -/

/-- Events counted change the flags and the slot's RUN alone (R35, R36). -/
theorem countConv_frame (s : State) (m n : Nat) (e : Conv4) : countConv s m n e =
    { s with slots := (countConv s m n e).slots, convFlags := (countConv s m n e).convFlags, convUnits := (countConv s m n e).convUnits } := by
  unfold countConv
  rw [raiseConv_frame]
  rfl

theorem liveElems_le (x : SlotSt) (b : BorderSt) : liveElems x b ≤ 1024 := by
  unfold liveElems tileElems
  split
  · exact Nat.zero_le _
  · exact Nat.min_le_left _ _

theorem vElem_setVec_same (b : BorderSt) (r : Nat) {cs : List Nat} {i : Nat} (h : i < cs.length) : vElem (setVec b r cs) r i = cs[i] := by
  unfold vElem setVec
  rw [mget_msetList_inside _ _ _ _ _ (by rw [List.length_append]; omega), List.getElem_append_left h]

/-- A vector register has 1,024 elements, and another lies outside them. -/
theorem vElem_setVec_other (b : BorderSt) {r q i : Nat} {cs : List Nat} (hlen : cs.length ≤ 1024) (hq : q ≠ r) (hi : i < 1024) :
    vElem (setVec b r cs) q i = vElem b q i := by
  refine mget_msetList_outside _ _ _ _ _ ?_
  rw [List.length_append, List.length_replicate]
  omega

/-! ### Vector and scalar rows -/

theorem vectorRow_of_exec {row : BorderOp → Instr} {op : Nat} {f : Nat → Nat → Nat → Nat → Cvt} (hrow : ∀ o s, exec (row o) s = vecOp op o s f) :
    VectorRow row op f := by
  refine ⟨fun o s h => (hrow o s).trans (borderOp_else h _), fun o s h => ?_⟩
  intro b rs s1
  have hlen : (rs.map (·.code)).length = liveElems (getSlot s b.slot) b := by simp [rs]
  refine ⟨(hrow o s).trans (borderOp_issues h _), countConv_frame _ _ _ _, fun i hi => ?_, fun r i hr hi => ?_⟩
  · rw [vElem_setVec_same b _ (hlen ▸ hi)]
    simp [rs]
  · exact vElem_setVec_other b (hlen ▸ liveElems_le _ _) hr hi

theorem scalarRow_of_exec {row : BorderOp → Instr} {op : Nat} {f : SlotSt → Nat → Nat → Cvt} (hrow : ∀ o s, exec (row o) s = scalarOp op o s f) :
    ScalarRow row op f := by
  refine ⟨fun o s h => (hrow o s).trans (borderOp_else h _), fun o s h => ?_⟩
  exact ⟨(hrow o s).trans (borderOp_issues h _), countConv_frame _ _ _ _, mget_mset_same _ _ _ _, fun q hq => mget_mset_other _ _ _ _ _ hq⟩

theorem borderVectors : BorderVectors := by
  refine ⟨?_, ?_, ?_, ?_, ?_, ?_, ?_, ?_, ?_, ?_, ?_, ?_, ?_, ?_⟩ <;> exact vectorRow_of_exec (fun _ _ => rfl)

theorem borderScalars : BorderScalars := by
  refine ⟨?_, ?_, ?_, ?_, ?_, ?_, ?_, fun o s h => (borderOp_else h _ : execKacc o s = _),
    fun o s h => (borderOp_issues h _ : execKacc o s = _)⟩ <;>
    exact scalarRow_of_exec (fun _ _ => rfl)

/-! ### Loads, stores and accumulations -/

theorem borderLoads : BorderLoads := by
  refine ⟨fun o s => ?loads, fun o s h => (borderOp_else h _ : execBorderNop o s = _), fun o s h => (borderOp_else h _ : execLdg o s = _),
    fun o s h => (borderOp_else h _ : execLdw o s = _), fun o s h => (borderOp_else h _ : execLds o s = _),
    fun o s h => (borderOp_else h _ : loadStat 0x14 o s elemRow = _), fun o s h => (borderOp_else h _ : loadStat 0x15 o s elemCol = _)⟩
  case loads =>
    intro b x k bank
    have hbank : (if b.stage == .phase2 then (x.cn + 1) % 2 else x.bank) = bank := by simp [bank]
    rw [← hbank]
    exact ⟨fun h => (borderOp_issues h _ : execBorderNop o s = _), fun h => (borderOp_issues h _ : execLdg o s = _),
      fun h => (borderOp_issues h _ : execLdw o s = _), fun h => (borderOp_issues h _ : execLds o s = _),
      fun h => (borderOp_issues h _ : loadStat 0x14 o s elemRow = _), fun h => (borderOp_issues h _ : loadStat 0x15 o s elemCol = _)⟩

theorem borderStores : BorderStores :=
  ⟨fun o s => ⟨fun h => (borderOp_issues h _ : execStw o s = _), fun h => (borderOp_issues h _ : execSts o s = _)⟩,
    fun o s => ⟨fun h => (borderOp_issues h _ : execArsum o s = _), fun h => (borderOp_issues h _ : execAcsum o s = _),
      fun h => (borderOp_issues h _ : execSumsq o s = _)⟩,
    fun o s h => (borderOp_else h _ : execStw o s = _), fun o s h => (borderOp_else h _ : execSts o s = _),
    fun o s h => (borderOp_else h _ : execSumsq o s = _), fun o s h => (borderOp_else h _ : execArsum o s = _),
    fun o s h => (borderOp_else h _ : execAcsum o s = _)⟩

end Sys2Proof.Machine

open Sys2Proof.Machine

/-- Settles O17: each row is `vecOp` or `scalarOp` of its arithmetic; KACC by the general rule of an engine that issues. -/
theorem borderArithmetic : Obligations.BorderArithmetic := ⟨borderVectors, borderScalars⟩

/-- Settles O18: each row is what `borderOp` makes of its effect. -/
theorem borderMemory : Obligations.BorderMemory := ⟨borderLoads, borderStores⟩
end

section
/-! PROOFS. Quantised gradient tiles and host-placed updates (R178, R180, R193, R194, R261, R262): a tile that waits is taken and written by the quantiser;
the buffers of a host-placed update by what the commands find. -/

namespace Sys2Proof.Machine

open Sys2Proof.Claims

/-! ### What a slot keeps -/

theorem TiersOnly.getSlot {s t : State} (h : TiersOnly s t) (n : Nat) : getSlot t n = getSlot s n := by
  rw [h]
  rfl

@[simp] theorem getSlot_raiseConv (s : State) (u : Nat) (e : Conv4) (n : Nat) : getSlot (raiseConv s u e) n = getSlot s n := by
  rw [raiseConv_frame]
  rfl

theorem getSlot_countConv_same (s : State) (m n : Nat) (e : Conv4) : getSlot (countConv s m n e) n =
    { getSlot s n with run := (getSlot s n).run.map (fun r => { r with conv := r.conv.add e }) } := by
  simp [countConv, updRun]

theorem getSlot_countConv_other (s : State) (m : Nat) (e : Conv4) {n j : Nat} (h : j ≠ n) : getSlot (countConv s m n e) j = getSlot s j :=
  (getSlot_updSlot_other _ _ _ _ h).trans (getSlot_raiseConv _ _ _ _)

theorem mhas_merase_same {α : Type} (m : SMap α) (i : Nat) : mhas (merase m i) i = false := by
  induction m with
  | nil => rfl
  | cons p m ih =>
    obtain ⟨k, v⟩ := p
    rw [merase]
    split
    · exact ih
    next hk => simpa [mhas, hk] using ih

/-! ### Work on a tile: the tiers, the slots and the conversion flags -/

/-- `t` differs from `s` in the tiers, the slots and the conversion flags alone. -/
def TileWork (s t : State) : Prop := t = { s with tiers := t.tiers, slots := t.slots, convFlags := t.convFlags, convUnits := t.convUnits }

theorem TileWork.trans {s t u : State} (hst : TileWork s t) (htu : TileWork t u) : TileWork s u := by
  unfold TileWork at *
  rw [htu, hst]

theorem TiersOnly.tileWork {s t : State} (h : TiersOnly s t) : TileWork s t := by
  rw [h]
  rfl

theorem updSlot_tileWork (s : State) (n : Nat) (f : SlotSt → SlotSt) : TileWork s (updSlot s n f) := rfl

theorem raiseConv_tileWork (s : State) (u : Nat) (e : Conv4) : TileWork s (raiseConv s u e) := by
  rw [raiseConv_frame]
  rfl

theorem updRun_tileWork (s : State) (n : Nat) (f : RunSt → RunSt) : TileWork s (updRun s n f) := updSlot_tileWork _ _ _

theorem countConv_tileWork (s : State) (m n : Nat) (e : Conv4) : TileWork s (countConv s m n e) := by
  unfold countConv
  exact (raiseConv_tileWork _ _ _).trans (updRun_tileWork _ _ _)

@[simp] theorem updRun_tiers (s : State) (n : Nat) (f : RunSt → RunSt) : (updRun s n f).tiers = s.tiers := rfl

@[simp] theorem countConv_tiers (s : State) (m n : Nat) (e : Conv4) : (countConv s m n e).tiers = s.tiers := by rw [countConv_frame]

theorem TileWork.cores {s t : State} (h : TileWork s t) : t.cores = s.cores := by rw [h]
theorem TileWork.borders {s t : State} (h : TileWork s t) : t.borders = s.borders := by rw [h]

/-! ### The quantiser (R178, R180) -/

/-- A tile that waits for the quantiser is taken. -/
def tileTaken (s : State) (n t : Nat) : State := updSlot s n (fun x => { x with coll := { x.coll with reduced := merase x.coll.reduced t } })

theorem getSlot_tileTaken_same (s : State) (n t : Nat) : getSlot (tileTaken s n t) n =
    { getSlot s n with coll := { (getSlot s n).coll with reduced := merase (getSlot s n).coll.reduced t } } := getSlot_updSlot_same _ _ _

theorem getSlot_tileTaken_other (s : State) (t : Nat) {n m : Nat} (h : m ≠ n) : getSlot (tileTaken s n t) m = getSlot s m := getSlot_updSlot_other _ _ _ _ h

/-- What the quantiser makes of each element of a tile. -/
def tileQuantised (s : State) (n t : Nat) (g : List Nat) : List (Nat × Nat × Conv4 × Bool) :=
  let k := tileElems (getSlot s n) t
  (List.range k).map (fun j => quantise (nth 0 g j) (nth 0 (readCodes s n .e 2 (2048 * t) k) j))

/-- The codes, the error terms and the record of a quantised tile are written. -/
def tileWritten (s : State) (n t : Nat) (qs : List (Nat × Nat × Conv4 × Bool)) : State :=
  setRecord (writeCodes (writeCodes s n .g8 1 (1024 * t) (qs.map (·.1))) n .e 2 (2048 * t) (qs.map (·.2.1))) n t (rcode ((getSlot s n).cn + 1))

theorem writeCodes_tiersOnly (s : State) (n : Nat) (st : Stream) (w off : Nat) (cs : List Nat) : TiersOnly s (writeCodes s n st w off cs) :=
  writeStream_tiersOnly _ _ _ _ _

theorem tileWritten_tiersOnly (s : State) (n t : Nat) (qs : List (Nat × Nat × Conv4 × Bool)) : TiersOnly s (tileWritten s n t qs) :=
  ((writeCodes_tiersOnly _ _ _ _ _ _).trans (writeCodes_tiersOnly _ _ _ _ _ _)).trans (setRecord_tiersOnly _ _ _ _)

section
variable (s : State) (n t : Nat) (g : List Nat)

theorem quantiseNow_eq : let qs := tileQuantised s n t g
    quantiseNow s n t g = updRun (countConv (tileWritten s n t qs) (tileRim (tileWritten s n t qs) t) n (qs.foldl (fun a q => a.add q.2.2.1) {})) n
      (fun r => { r with nan := r.nan || qs.any (·.2.2.2) }) := by
  intro qs
  have hslot : getSlot (writeCodes (writeCodes s n .g8 1 (1024 * t) (qs.map (·.1))) n .e 2 (2048 * t) (qs.map (·.2.1))) n = getSlot s n :=
    ((writeCodes_tiersOnly _ _ _ _ _ _).trans (writeCodes_tiersOnly _ _ _ _ _ _)).getSlot n
  unfold tileWritten
  rw [← hslot]
  rfl

theorem quantiseNow_tiers : (quantiseNow s n t g).tiers = (tileWritten s n t (tileQuantised s n t g)).tiers := by
  rw [quantiseNow_eq, updRun_tiers, countConv_tiers]

theorem quantiseNow_tileWork : TileWork s (quantiseNow s n t g) := by
  rw [quantiseNow_eq]
  exact ((tileWritten_tiersOnly _ _ _ _).tileWork.trans (countConv_tileWork _ _ _ _)).trans (updRun_tileWork _ _ _)

theorem getSlot_quantiseNow_same {r : RunSt} (hrun : (getSlot s n).run = some r) : getSlot (quantiseNow s n t g) n = { getSlot s n with
    run := some { r with
      nan := r.nan || (tileQuantised s n t g).any (·.2.2.2), conv := r.conv.add ((tileQuantised s n t g).foldl (fun a q => a.add q.2.2.1) {}) } } := by
  rw [quantiseNow_eq, updRun, getSlot_updSlot_same, getSlot_countConv_same, (tileWritten_tiersOnly _ _ _ _).getSlot, hrun]
  rfl

theorem getSlot_quantiseNow_other {m : Nat} (h : m ≠ n) : getSlot (quantiseNow s n t g) m = getSlot s m := by
  rw [quantiseNow_eq, updRun, getSlot_updSlot_other _ _ _ _ h, getSlot_countConv_other _ _ _ h, (tileWritten_tiersOnly _ _ _ _).getSlot]

end

section
variable {slot : BitVec 12} {tile : Word} {s : State}

theorem quantising_iff {x : SlotSt} : quantising x = true ↔ ∃ r, x.run = some r ∧ (r.stage = .step ∨ r.stage = .replay ∧ x.round.kind ≠ .restart) := by
  simp [quantising, Option.any_eq_true]

theorem quantiseTile_idle (h : quantising (getSlot s slot.toNat) = false ∨ mhas (getSlot s slot.toNat).coll.reduced tile.toNat = false) :
    exec (.quantiseTile slot tile) s = .next s := by
  refine if_pos ?_
  rcases h with h | h <;> simp [h]

theorem quantiseTile_takes (hattempt : quantising (getSlot s slot.toNat) = true) (hwaits : mhas (getSlot s slot.toNat).coll.reduced tile.toNat = true) :
    exec (.quantiseTile slot tile) s = .next (
      if getRecord s slot.toNat tile.toNat == rcode ((getSlot s slot.toNat).cn + 1) then tileTaken s slot.toNat tile.toNat
      else quantiseNow (tileTaken s slot.toNat tile.toNat) slot.toNat tile.toNat (mget [] (getSlot s slot.toNat).coll.reduced tile.toNat)) :=
  if_neg (by simp [hattempt, hwaits])

end

/-- A tile that the step has not quantised yet: the slot it was taken from has the same table and commit number. -/
theorem quantiseNow_tileTaken {s : State} {n : Nat} {r : RunSt} (t : Nat) (g : List Nat) (hrun : (getSlot s n).run = some r) :
    let x := getSlot s n
    let s1 := tileTaken s n t
    let k := tileElems x t
    let qs := (List.range k).map (fun j => quantise (nth 0 g j) (nth 0 (readCodes s1 n .e 2 (2048 * t) k) j))
    let u := quantiseNow s1 n t g
    u.tiers = (setRecord (writeCodes (writeCodes s1 n .g8 1 (1024 * t) (qs.map (·.1))) n .e 2 (2048 * t) (qs.map (·.2.1))) n t (rcode (x.cn + 1))).tiers ∧
      getSlot u n = { x with
        coll := { x.coll with reduced := merase x.coll.reduced t }
        run := some { r with nan := r.nan || qs.any (·.2.2.2), conv := r.conv.add (qs.foldl (fun a q => a.add q.2.2.1) {}) } } := by
  intro x s1 k qs u
  have hslot := getSlot_tileTaken_same s n t
  have hqs : tileQuantised s1 n t g = qs := by
    unfold tileQuantised
    rw [hslot]
    rfl
  have hcn : (getSlot s1 n).cn = x.cn := by rw [hslot]
  constructor
  · rw [quantiseNow_tiers, hqs, tileWritten, hcn]
  · rw [getSlot_quantiseNow_same s1 n t g (r := r) (by rw [hslot]; exact hrun), hqs, hslot]

theorem quantise_nan {g e : Nat} (h : isNaN32 (fpAdd g (convert .l16 .fp32 e).code).code = true) : quantise g e = (0x80, 0, { nar := 1 }, true) :=
  if_pos h

theorem quantise_number {g e : Nat} (h : isNaN32 (fpAdd g (convert .l16 .fp32 e).code).code = false) :
    let v := (fpAdd g (convert .l16 .fp32 e).code).code
    let q := (convert .fp32 .l8 v).code
    quantise g e = (q, (convert .fp32 .l16 (fpSub v (l8ToF32 q)).code).code, (quantise g e).2.2.1, false) := by
  unfold quantise
  dsimp only
  rw [if_neg (by simpa using h)]

theorem quantiseTile : QuantiseTile := by
  unfold QuantiseTile
  refine ⟨fun slot tile s r => ?taken, fun slot tile s h => quantiseTile_idle h, fun g e => ?element⟩
  case taken =>
    intro n t x s1 g k es qs hrun hstage hwaits
    have hslot := getSlot_tileTaken_same s n t
    obtain ⟨htiers, hown⟩ := quantiseNow_tileTaken t g hrun
    have hwork := quantiseNow_tileWork (tileTaken s n t) n t g
    rw [quantiseTile_takes (quantising_iff.mpr ⟨r, hrun, hstage⟩) hwaits]
    refine ⟨fun hdone => ?_, fun hnew => ?_, ?_, fun u hu => ?_⟩
    · rw [if_pos (beq_iff_eq.mpr hdone)]
      rfl
    · rw [if_neg (mt beq_iff_eq.mp hnew)]
      exact ⟨_, rfl, htiers, hown, fun m hm => (getSlot_quantiseNow_other _ _ _ _ hm).trans (getSlot_tileTaken_other s t hm), hwork.cores, hwork.borders⟩
    · rw [show getSlot s1 n = _ from hslot]
      exact mhas_merase_same _ _
    · rw [show getSlot s1 n = _ from hslot]
      exact mget_merase_other _ _ _ _ hu
  case element =>
    intro v q
    refine ⟨fun hnan => ?_, fun hnum => ?_⟩
    · simp [quantise_nan hnan]
    · have hq := quantise_number hnum
      exact ⟨congrArg (·.1) hq, congrArg (·.2.1) hq, congrArg (·.2.2.2) hq⟩

/-! ### Host-placed updates (R193, R194, R261, R262) -/

/-- The slot waits for the host. -/
def hostAsked (s : State) (n : Nat) : State := updSlot s n (fun x => { x with hostWait := true, run := x.run.map (fun r => { r with sweeping := true }) })

/-- The gradient, its trailer and the ready word are sent, and the slot waits for the host. -/
def gradSent (s : State) (n : Nat) (r : RunSt) : State :=
  let x := getSlot s n
  let g := readStream s n .g8 0 (1024 * tableTiles x.table)
  { hostAsked s n with
    out := s.out ++ [.hostWrite (fnPort r.fn) x.gradBuf (g ++ hostTrailer x.cn (crc32c g)), .hostWrite (fnPort r.fn) x.readyBuf (bytesLE 8 (x.cn + 1))] }

/-- The check of a working copy that the host has placed (R193). -/
def hostCopyOk (x : SlotSt) (data : List Byte) : Bool :=
  let k := 2048 * tableTiles x.table
  data.length == k + 64 && (data.drop k).take 12 == (hostTrailer x.cn (crc32c (data.take k))).take 12

/-- A working copy that the host has placed is installed in the alternate bank. -/
def copyInstalled (s : State) (n : Nat) (data : List Byte) : State :=
  let x := getSlot s n
  updSlot (writeStream s n (.wc ((x.cn + 1) % 2)) 0 (data.take (2048 * tableTiles x.table))) n
    (fun x => { x with hostWait := false, hostRetry := false, run := x.run.map (fun r => { r with installed := true }) })

/-- The number and the check value of a trailer are its first twelve bytes. -/
theorem hostTrailer_take (cn crc : Nat) : (hostTrailer cn crc).take 12 = bytesLE 8 (cn + 1) ++ bytesLE 4 crc := by
  unfold hostTrailer
  exact List.take_left' (by simp [bytesLE_length])

theorem hostCopyOk_iff {x : SlotSt} {data : List Byte} : hostCopyOk x data = true ↔
    data.length = 2048 * tableTiles x.table + 64 ∧ (data.drop (2048 * tableTiles x.table)).take 12 =
      bytesLE 8 (x.cn + 1) ++ bytesLE 4 (crc32c (data.take (2048 * tableTiles x.table))) := by
  simp [hostCopyOk, hostTrailer_take]

section
variable {slot : BitVec 12} {s : State} {r : RunSt} (hrun : (getSlot s slot.toNat).run = some r)
include hrun

theorem gradReady_early (h : allQuantised s slot.toNat = false ∨ (getSlot s slot.toNat).hostPlaced = false ∨ r.sweeping = true) :
    exec (.gradReady slot) s = .next s := by
  show execGradReady slot s = _
  unfold execGradReady
  simp only [hrun]
  refine if_pos ?_
  rcases h with h | h | h <;> simp [h]

variable (hstage : r.stage = .step)
include hstage

section
variable (hhost : (getSlot s slot.toNat).hostPlaced = true) (hnew : r.sweeping = false) (hall : allQuantised s slot.toNat = true)
include hhost hnew hall

/-- Every tile is quantised, and nothing is sent yet: what the RUN's function allows decides. -/
theorem gradReady_due : exec (.gradReady slot) s = .next (
    if runOrphan s r then abortAttempt s slot.toNat true sHostTimeout
    else if !(getFn s r.fn).cfg.master then s
    else gradSent s slot.toNat r) := by
  show execGradReady slot s = _
  unfold execGradReady
  simp only [hrun]
  rw [if_neg (by simp [hhost, hstage, hnew, hall]), apply_ite Host.Outcome.next, apply_ite Host.Outcome.next]
  rfl

end

end

theorem getSlot_hostAsked_same {s : State} {n : Nat} {r : RunSt} (hrun : (getSlot s n).run = some r) :
    getSlot (hostAsked s n) n = { getSlot s n with hostWait := true, run := some { r with sweeping := true } } := by
  unfold hostAsked
  rw [getSlot_updSlot_same, hrun]
  rfl

theorem getSlot_hostAsked_other (s : State) {m n : Nat} (h : m ≠ n) : getSlot (hostAsked s n) m = getSlot s m := getSlot_updSlot_other _ _ _ _ h

section
variable {slot : BitVec 12} {s : State} {word : DWord} {data : List Byte}

theorem hostTimeout_idle (h : (getSlot s slot.toNat).hostWait = false) : exec (.hostTimeout slot) s = .next s := if_neg (by simp [h])

theorem hostTimeout_waits (h : (getSlot s slot.toNat).hostWait = true) : exec (.hostTimeout slot) s = .next (abortAttempt s slot.toNat true sHostTimeout) :=
  if_pos h

theorem wcReadyPoll_idle (h : (getSlot s slot.toNat).hostWait = false) : exec (.wcReadyPoll slot word data) s = .next s := if_pos (by simp [h])

variable {r : RunSt} (hrun : (getSlot s slot.toNat).run = some r)
include hrun

theorem wcReadyPoll_early (h : word.toNat ≠ ((getSlot s slot.toNat).cn + 1) % 2 ^ 64 ∨ (getFn s r.fn).cfg.master = false) :
    exec (.wcReadyPoll slot word data) s = .next s := by
  refine if_pos ?_
  rcases h with h | h
  · rw [bne_iff_ne.mpr h, Bool.or_true]
  · simp [h, hrun]

variable (hstage : r.stage = .step) (hwait : (getSlot s slot.toNat).hostWait = true) (hword : word.toNat = ((getSlot s slot.toNat).cn + 1) % 2 ^ 64)
  (hmaster : (getFn s r.fn).cfg.master = true)
include hstage hwait hword hmaster

/-- The word has reached CN + 1: the buffer is read, and its check decides. -/
theorem wcReadyPoll_read : exec (.wcReadyPoll slot word data) s = .next (
    if hostCopyOk (getSlot s slot.toNat) data then copyInstalled s slot.toNat data
    else if (getSlot s slot.toNat).hostRetry then abortAttempt s slot.toNat true sHostCrc
    else updSlot s slot.toNat (fun x => { x with hostRetry := true })) := by
  show execWcReadyPoll slot word data s = _
  unfold execWcReadyPoll
  dsimp only
  rw [if_neg (by simp [hwait, hrun, hstage, hmaster, hword]), apply_ite Host.Outcome.next, apply_ite Host.Outcome.next]
  rfl

end

/-- A stream's bytes are written in the slot's tiers alone, then the slot goes on. -/
theorem copyInstalled_frame (s : State) (n : Nat) (data : List Byte) :
    copyInstalled s n data = { s with slots := (copyInstalled s n data).slots, tiers := (copyInstalled s n data).tiers } := by
  have hwritten := writeStream_tiersOnly s n (.wc (((getSlot s n).cn + 1) % 2)) 0 (data.take (2048 * tableTiles (getSlot s n).table))
  unfold copyInstalled
  dsimp only
  rw [hwritten]
  rfl

theorem getSlot_copyInstalled {s : State} {n : Nat} {r : RunSt} (data : List Byte) (hrun : (getSlot s n).run = some r) :
    getSlot (copyInstalled s n data) n = { getSlot s n with hostWait := false, hostRetry := false, run := some { r with installed := true } } := by
  unfold copyInstalled
  dsimp only
  rw [getSlot_updSlot_same, (writeStream_tiersOnly _ _ _ _ _).getSlot, hrun]
  rfl

theorem hostPlacedUpdate : HostPlacedUpdate := by
  intro slot s r n x g k master hrun hstage
  refine ⟨fun hhost hnew hall => ?sends, gradReady_early hrun, fun hidle => ⟨hostTimeout_idle hidle, fun word data => wcReadyPoll_idle hidle⟩, hostTimeout_waits,
    fun word data hwait => ⟨wcReadyPoll_early hrun, fun hword hmaster => ?reads⟩⟩
  case sends =>
    rw [gradReady_due hrun hstage hhost hnew hall]
    refine ⟨fun horphan => by rw [if_pos horphan], fun horphan hmaster => ?_, fun horphan hmaster => ?_⟩
    · rw [if_neg (by simp [horphan]), if_pos (by simpa using hmaster)]
    · rw [if_neg (by simp [horphan]), if_neg (by simpa using hmaster)]
      exact ⟨_, rfl, rfl, rfl, getSlot_hostAsked_same hrun, fun m hm => getSlot_hostAsked_other s hm⟩
  case reads =>
    rw [wcReadyPoll_read hrun hstage hwait hword hmaster]
    refine ⟨fun hgood => ?_, fun hbad hfirst => ?_, fun hbad hagain => ?_⟩
    · rw [if_pos (hostCopyOk_iff.mpr hgood)]
      have hslot := getSlot_copyInstalled data hrun
      exact ⟨_, rfl, copyInstalled_frame _ _ _, rfl, by rw [hslot], by rw [hslot], by rw [hslot]⟩
    · rw [if_neg (mt hostCopyOk_iff.mp hbad), if_neg (by simpa using hfirst)]
    · rw [if_neg (mt hostCopyOk_iff.mp hbad), if_pos hagain]

end Sys2Proof.Machine

open Sys2Proof.Machine

/-- Settles O15: a tile by whether the step has quantised it already, the commands of a host-placed update by what they find. -/
theorem quantiseAndHostPlaced : Obligations.QuantiseAndHostPlaced := ⟨quantiseTile, hostPlacedUpdate⟩
end

section
/-! PROOFS. Starting a step and beginning an attempt (R174, R182, R211, R252, R382): the working copy formed again, the step areas and the staging
spoiled granule by granule, and the cores as an attempt finds them. -/

namespace Sys2Proof.Machine

open Sys2Proof.Claims

/-! ### The working copy formed again (R182, R185) -/

/-- A slot keeps all but its conversion events and whether its working copy is stale. -/
def SlotRegenerated (x y : SlotSt) : Prop := y = { x with conv := y.conv, wcStale := y.wcStale }

/-- Work on tiles by which every slot keeps all but its conversion events and whether its working copy is stale. -/
structure Regenerated (s t : State) : Prop where
  work : TileWork s t
  slot : ∀ m, SlotRegenerated (getSlot s m) (getSlot t m)

theorem SlotRegenerated.trans {x y z : SlotSt} (hxy : SlotRegenerated x y) (hyz : SlotRegenerated y z) : SlotRegenerated x z := by
  unfold SlotRegenerated at *
  rw [hyz, hxy]

theorem Regenerated.refl (s : State) : Regenerated s s := ⟨rfl, fun _ => rfl⟩

theorem Regenerated.trans {s t u : State} (hst : Regenerated s t) (htu : Regenerated t u) : Regenerated s u :=
  ⟨hst.work.trans htu.work, fun m => (hst.slot m).trans (htu.slot m)⟩

theorem foldl_regenerated {β : Type} (f : State → β → State) (h : ∀ s b, Regenerated s (f s b)) (l : List β) (s : State) : Regenerated s (l.foldl f s) := by
  induction l generalizing s with
  | nil => exact .refl s
  | cons b l ih => exact (h s b).trans (ih _)

theorem updSlot_regenerated (s : State) (n : Nat) {f : SlotSt → SlotSt} (hf : ∀ x, SlotRegenerated x (f x)) : Regenerated s (updSlot s n f) where
  work := updSlot_tileWork _ _ _
  slot m := by
    by_cases hm : m = n
    · rw [hm, getSlot_updSlot_same]
      exact hf _
    · rw [getSlot_updSlot_other _ _ _ _ hm]
      rfl

theorem TiersOnly.regenerated {s t : State} (h : TiersOnly s t) : Regenerated s t := ⟨h.tileWork, fun m => by rw [h.getSlot]; rfl⟩

theorem raiseConv_regenerated (s : State) (u : Nat) (e : Conv4) : Regenerated s (raiseConv s u e) :=
  ⟨raiseConv_tileWork _ _ _, fun m => by rw [getSlot_raiseConv]; rfl⟩

theorem regenTile_regenerated (s : State) (n t : Nat) : Regenerated s (regenTile s n t) := by
  unfold regenTile
  exact ((writeCodes_tiersOnly _ _ _ _ _ _).regenerated.trans (raiseConv_regenerated _ _ _)).trans (updSlot_regenerated _ _ fun _ => rfl)

theorem regenWc_regenerated (s : State) (n : Nat) : Regenerated s (regenWc s n) := by
  unfold regenWc
  dsimp only
  split
  · exact (foldl_regenerated _ (regenTile_regenerated · n) _ _).trans (updSlot_regenerated _ _ fun _ => rfl)
  · exact .refl s

theorem regenWc_fresh {s : State} {n : Nat} (h : (getSlot s n).wcStale = false ∨ (getSlot s n).hostPlaced = true) : regenWc s n = s := by
  refine if_neg ?_
  rcases h with h | h <;> simp [h]

theorem regenWc_wcStale {s : State} {n : Nat} (h : (getSlot s n).hostPlaced = false) : (getSlot (regenWc s n) n).wcStale = false := by
  unfold regenWc
  dsimp only
  split
  · rw [getSlot_updSlot_same]
  next hfresh => simpa [h] using hfresh

section
variable {s t : State} (h : Regenerated s t)
include h

theorem Regenerated.getPart (p : Nat) : getPart t p = getPart s p := by
  rw [h.work]
  rfl

theorem Regenerated.getCore (k : Nat) : getCore t k = getCore s k := by
  rw [h.work]
  rfl

theorem Regenerated.getDom (d : Nat) : getDom t d = getDom s d := by
  rw [h.work]
  rfl

theorem Regenerated.getSlath (q : Nat) : getSlath t q = getSlath s q := by
  rw [h.work]
  rfl

theorem Regenerated.part (n : Nat) : (getSlot t n).part = (getSlot s n).part := by rw [h.slot n]

theorem Regenerated.ownCtxs (n : Nat) : ownCtxs t n = ownCtxs s n := by
  unfold Machine.ownCtxs slotCtxs
  simp only [h.part, h.getPart, h.getCore]

theorem Regenerated.areaGranules (n : Nat) : areaGranules t n = areaGranules s n := by
  unfold Machine.areaGranules
  rw [show (Machine.getSlot t n).dom = (Machine.getSlot s n).dom by rw [h.slot n], h.getDom]

end

/-! ### The step areas become undefined (R174) -/

/-- `t` is `s` with the contents of HBM3E granules undefined, each by a draw of its own. -/
structure AreasSpoiled (ps : List Nat) (s t : State) : Prop where
  frame : t = { s with tiers := { s.tiers with hbm := t.tiers.hbm, undef := t.tiers.undef }, draws := t.draws }
  draws : s.draws ≤ t.draws
  kept : ∀ p, p ∉ ps → mget 0 t.tiers.undef p = mget 0 s.tiers.undef p ∧ ∀ o, o < granBytes → physByte t.tiers 1 p o = physByte s.tiers 1 p o
  drawn : ∀ p ∈ ps, ∃ d, s.draws ≤ d ∧ d < t.draws ∧ mget 0 t.tiers.undef p = d + 1 ∧
    ∀ o, o < granBytes → physByte t.tiers 1 p o = Config.undefinedByte d o
  apart : ∀ p ∈ ps, ∀ q ∈ ps, p ≠ q → mget 0 t.tiers.undef p ≠ mget 0 t.tiers.undef q

section
variable (s : State) (p : Nat)

@[simp] theorem undef_spoilGranule_same : mget 0 (spoilGranule s p).tiers.undef p = s.draws + 1 := mget_mset_same 0 s.tiers.undef p (s.draws + 1)

theorem undef_spoilGranule_other {q : Nat} (h : q ≠ p) : mget 0 (spoilGranule s p).tiers.undef q = mget 0 s.tiers.undef q :=
  mget_mset_other 0 s.tiers.undef p q (s.draws + 1) h

theorem physByte_spoilGranule_same {o : Nat} (ho : o < granBytes) : physByte (spoilGranule s p).tiers 1 p o = Config.undefinedByte s.draws o := by
  have hopen : openByte (spoilGranule s p).tiers 1 p o = Config.undefinedByte s.draws o := by
    simp [openByte]
  rw [physByte, hopen]
  exact (congrArg (· ^^^ _) (mget_dropGranule_same s.tiers.hbm p ho)).trans (BitVec.zero_xor)

theorem physByte_spoilGranule_other {q o : Nat} (h : q ≠ p) (ho : o < granBytes) : physByte (spoilGranule s p).tiers 1 q o = physByte s.tiers 1 q o :=
  physByte_dropped_other h ho rfl (by simp [openByte, undef_spoilGranule_other s p h])

end

theorem spoilGranules_spoiled (ps : List Nat) (s : State) : AreasSpoiled ps s (ps.foldl spoilGranule s) := by
  induction ps generalizing s with
  | nil => exact ⟨rfl, le_rfl, fun _ _ => ⟨rfl, fun _ _ => rfl⟩, fun _ h => absurd h List.not_mem_nil, fun _ h => absurd h List.not_mem_nil⟩
  | cons g ps ih =>
    rw [List.foldl_cons]
    have h := ih (spoilGranule s g)
    have hdraws : s.draws + 1 ≤ (ps.foldl spoilGranule (spoilGranule s g)).draws := h.draws
    -- A granule that the list names no further keeps the draw that it has just taken, which is older than those of the rest.
    have hfirst (hg : g ∉ ps) := (h.kept g hg).1.trans (undef_spoilGranule_same s g)
    have hrest (q : Nat) (hq : q ∈ ps) (hg : g ∉ ps) :
        mget 0 (ps.foldl spoilGranule (spoilGranule s g)).tiers.undef q ≠ mget 0 (ps.foldl spoilGranule (spoilGranule s g)).tiers.undef g := by
      obtain ⟨d, hd, -, hundef, -⟩ := h.drawn q hq
      have hd : s.draws + 1 ≤ d := hd
      rw [hundef, hfirst hg]
      omega
    refine ⟨?frame, Nat.le_of_succ_le hdraws, fun p hp => ?kept, fun p hp => ?drawn, fun p hp q hq hpq => ?apart⟩
    case frame =>
      rw [h.frame]
      rfl
    case kept =>
      rw [List.mem_cons, not_or] at hp
      obtain ⟨hundef, hbytes⟩ := h.kept p hp.2
      exact ⟨hundef.trans (undef_spoilGranule_other s g hp.1), fun o ho => (hbytes o ho).trans (physByte_spoilGranule_other s g hp.1 ho)⟩
    case drawn =>
      by_cases hlater : p ∈ ps
      · obtain ⟨d, hd, hrest⟩ := h.drawn p hlater
        exact ⟨d, Nat.le_of_succ_le hd, hrest⟩
      · obtain rfl := (List.mem_cons.mp hp).resolve_right hlater
        exact ⟨s.draws, le_rfl, hdraws, hfirst hlater, fun o ho => ((h.kept p hlater).2 o ho).trans (physByte_spoilGranule_same s p ho)⟩
    case apart =>
      by_cases hp' : p ∈ ps <;> by_cases hq' : q ∈ ps
      · exact h.apart p hp' q hq' hpq
      · obtain rfl := (List.mem_cons.mp hq).resolve_right hq'
        exact hrest p hp' hq'
      · obtain rfl := (List.mem_cons.mp hp).resolve_right hp'
        exact (hrest q hq' hp').symm
      · exact absurd (((List.mem_cons.mp hp).resolve_right hp').trans ((List.mem_cons.mp hq).resolve_right hq').symm) hpq

theorem AreasSpoiled.getSlath {ps : List Nat} {s t : State} (h : AreasSpoiled ps s t) (q : Nat) : getSlath t q = getSlath s q := by
  rw [h.frame]
  rfl

/-! ### The staging becomes undefined (R211) -/

/-- What one step of a fold brings about, and every step keeps, holds after the fold. -/
theorem foldl_establishes {α β : Type} {P : α → Prop} {f : α → β → α} {b : β} (hb : ∀ a, P (f a b)) (hkeep : ∀ a c, P a → P (f a c)) {l : List β} (h : b ∈ l)
    (a : α) : P (l.foldl f a) := by
  induction l generalizing a with
  | nil => exact absurd h List.not_mem_nil
  | cons c l ih =>
    rw [List.foldl_cons]
    rcases List.mem_cons.mp h with rfl | h
    · exact List.foldlRecOn l f (hb a) fun a ha c _ => hkeep a c ha
    · exact ih h _

/-- A granule of a Slath has free contents: no byte of it is staged. -/
def GranuleFree (g : Nat) (y : SlathSt) : Prop := mget 0 y.undef g ≠ 0 ∧ ∀ b ∈ y.bytes, b.1 / granBytes ≠ g

/-- One staging granule of a Slath spoiled. -/
def spoilCache (draws : Nat) (y : SlathSt) (g : Nat × Nat) : SlathSt :=
  { y with bytes := y.bytes.filter (fun b => b.1 / granBytes != g.1), undef := mset 0 y.undef g.1 (draws + g.2 + 1) }

theorem granuleFree_spoilCache_same (d : Nat) (y : SlathSt) (g : Nat × Nat) : GranuleFree g.1 (spoilCache d y g) := by
  refine ⟨?_, fun b hb => ?_⟩
  · rw [spoilCache, mget_mset_same]
    exact Nat.succ_ne_zero _
  · exact bne_iff_ne.mp (List.mem_filter.mp hb).2

theorem granuleFree_spoilCache {g : Nat} {y : SlathSt} (h : GranuleFree g y) (d : Nat) (c : Nat × Nat) : GranuleFree g (spoilCache d y c) := by
  by_cases hc : g = c.1
  · rw [hc]
    exact granuleFree_spoilCache_same d y c
  · exact ⟨(mget_mset_other 0 y.undef c.1 g (d + c.2 + 1) hc).trans_ne h.1, fun b hb => h.2 b (List.mem_filter.mp hb).1⟩

/-- The staging granules of a slot in a Slath. -/
def stagingGranules (n : Nat) (x : SlathSt) : List Nat := (x.use.filter (fun u => u.2 == .staging n)).map (·.1)

/-- A Slath with the staging of a slot spoiled. -/
def spoiledSlath (n d : Nat) (x : SlathSt) : SlathSt := (stagingGranules n x).zipIdx.foldl (spoilCache d) x

theorem spoiledSlath_use (n d : Nat) (x : SlathSt) : (spoiledSlath n d x).use = x.use :=
  List.foldlRecOn (motive := fun (y : SlathSt) => y.use = x.use) _ _ rfl fun _ hy _ _ => hy

theorem granuleFree_spoiledSlath {n g : Nat} {x : SlathSt} (d : Nat) (h : g ∈ stagingGranules n x) : GranuleFree g (spoiledSlath n d x) := by
  obtain ⟨i, hi, rfl⟩ := List.mem_iff_getElem.mp h
  refine foldl_establishes (b := (_, i)) (fun y => granuleFree_spoilCache_same d y _) (fun y c hy => granuleFree_spoilCache hy d c) ?_ x
  exact List.mk_mem_zipIdx_iff_getElem?.mpr (List.getElem?_eq_getElem hi)

/-- A Slath in which a slot stages nothing has nothing to spoil. -/
theorem spoilStaging_eq (n : Nat) (s : State) (q : Nat) : spoilStaging n s q = if (stagingGranules n (getSlath s q)).isEmpty then s else
    { setSlath s q (spoiledSlath n s.draws (getSlath s q)) with draws := s.draws + (stagingGranules n (getSlath s q)).length } := rfl

theorem getSlath_spoilStaging_same (n : Nat) (s : State) (q : Nat) : getSlath (spoilStaging n s q) q = spoiledSlath n s.draws (getSlath s q) := by
  rw [spoilStaging_eq]
  split
  next hnone => rw [spoiledSlath, List.isEmpty_iff.mp hnone]; rfl
  · exact getSlath_setSlath_same _ _ _

theorem getSlath_spoilStaging_other (n : Nat) (s : State) {q j : Nat} (h : j ≠ q) : getSlath (spoilStaging n s q) j = getSlath s j := by
  rw [spoilStaging_eq]
  split
  · rfl
  · exact getSlath_setSlath_other _ _ _ _ h

theorem slathUse_spoilStaging (n : Nat) (s : State) (q j : Nat) : (getSlath (spoilStaging n s q) j).use = (getSlath s j).use := by
  by_cases h : j = q
  · rw [h, getSlath_spoilStaging_same, spoiledSlath_use]
  · rw [getSlath_spoilStaging_other n s h]

/-- Spoiled staging changes the shared cache and takes draws. -/
structure StagingSpoiled (s t : State) : Prop where
  frame : t = { s with slaths := t.slaths, draws := t.draws }
  draws : s.draws ≤ t.draws

theorem spoilStaging_spoiled (n : Nat) (s : State) (q : Nat) : StagingSpoiled s (spoilStaging n s q) := by
  rw [spoilStaging_eq]
  split
  · exact ⟨rfl, le_rfl⟩
  · exact ⟨rfl, Nat.le_add_right _ _⟩

theorem StagingSpoiled.trans {s t u : State} (hst : StagingSpoiled s t) (htu : StagingSpoiled t u) : StagingSpoiled s u := by
  refine ⟨?_, hst.draws.trans htu.draws⟩
  rw [htu.frame, hst.frame]

theorem foldl_stagingSpoiled (n : Nat) (qs : List Nat) (s : State) : StagingSpoiled s (qs.foldl (spoilStaging n) s) := by
  induction qs generalizing s with
  | nil => exact ⟨rfl, le_rfl⟩
  | cons q qs ih => exact (spoilStaging_spoiled n s q).trans (ih _)

/-- Every granule in which a slot stages in a Slath has free contents. -/
def StagingFree (n q : Nat) (s : State) : Prop := ∀ g ∈ stagingGranules n (getSlath s q), GranuleFree g (getSlath s q)

theorem stagingFree_spoilStaging_same (n : Nat) (s : State) (q : Nat) : StagingFree n q (spoilStaging n s q) := by
  intro g hg
  rw [stagingGranules, slathUse_spoilStaging] at hg
  rw [getSlath_spoilStaging_same]
  exact granuleFree_spoiledSlath _ hg

theorem stagingFree_spoilStaging {n q : Nat} {s : State} (h : StagingFree n q s) (c : Nat) : StagingFree n q (spoilStaging n s c) := by
  by_cases hc : q = c
  · rw [hc]
    exact stagingFree_spoilStaging_same n s c
  · unfold StagingFree
    rw [getSlath_spoilStaging_other n s hc]
    exact h

theorem foldl_stagingFree {n q : Nat} {qs : List Nat} (hq : q ∈ qs) (s : State) : StagingFree n q (qs.foldl (spoilStaging n) s) :=
  foldl_establishes (fun s => stagingFree_spoilStaging_same n s q) (fun _ c h => stagingFree_spoilStaging h c) hq s

theorem slathUse_foldl_spoilStaging (n : Nat) (qs : List Nat) (s : State) (q : Nat) : (getSlath (qs.foldl (spoilStaging n) s) q).use = (getSlath s q).use :=
  List.foldlRecOn (motive := fun t => (getSlath t q).use = (getSlath s q).use) _ _ rfl fun t ht c _ => (slathUse_spoilStaging n t c q).trans ht

/-! ### The cores of an attempt (R382) -/

/-- A core as an attempt finds it: at a token boundary, with entry 0's parameter words, its step not finished, and no result of the contexts in flight. -/
structure CoreBegun (cs : List Nat) (pt : PartSt) (co : CoreSt) : Prop where
  par : co.par = entryPar pt 0
  entry : co.entry = 0
  finished : co.finished = false
  boundary : co.boundary = true
  inflight : ∀ f ∈ co.inflight, f.ctx ∉ cs

theorem foldl_freshAttempt_frame (cs : List Nat) (co : CoreSt) : cs.foldl freshAttempt co =
    { co with ctxs := (cs.foldl freshAttempt co).ctxs, accValid := (cs.foldl freshAttempt co).accValid } := by
  induction cs generalizing co with
  | nil => rfl
  | cons c cs ih =>
    rw [List.foldl_cons, ih]
    rfl

theorem enterFold_frame (co : CoreSt) (k : Nat) : enterFold co k =
    { co with ctxs := (enterFold co k).ctxs, cur := (enterFold co k).cur, foldPos := k, boundary := true } := rfl

/-- A core of a FOLDED partition is placed on its first fold entry besides. -/
theorem attemptCore_frame (cs : List Nat) (pt : PartSt) (co : CoreSt) : attemptCore cs pt co = { co with
    ctxs := (attemptCore cs pt co).ctxs, accValid := (attemptCore cs pt co).accValid, cur := (attemptCore cs pt co).cur,
    foldPos := (attemptCore cs pt co).foldPos, inflight := co.inflight.filter (fun f => !cs.contains f.ctx),
    gathers := co.gathers.filter (fun g => !cs.contains g.ctx), par := entryPar pt 0, parNext := entryPar pt 1, entry := 0, finished := false,
    boundary := true, stop := none } := by
  unfold attemptCore
  dsimp only
  rw [foldl_freshAttempt_frame]
  split
  · rw [enterFold_frame]
  · rfl

theorem attemptCore_store (cs : List Nat) (pt : PartSt) (co : CoreSt) : (attemptCore cs pt co).store = co.store := by rw [attemptCore_frame]

theorem attemptCore_begun (cs : List Nat) (pt : PartSt) (co : CoreSt) : CoreBegun cs pt (attemptCore cs pt co) := by
  rw [attemptCore_frame]
  refine ⟨rfl, rfl, rfl, rfl, fun f hf hmem => ?_⟩
  simpa [hmem] using (List.mem_filter.mp hf).2

/-! ### An attempt begins, on working copies that hold (R174, R244, R382) -/

/-- The step areas and the staging of a slot are spoiled. -/
def areasSpoiled (u : State) (n : Nat) : State := (List.range 4).foldl (spoilStaging n) ((areaGranules u n).foldl spoilGranule u)

/-- The cores of the slot's partition are taken to their first state. -/
def coresBegun (u : State) (n : Nat) : State :=
  mapCores (areasSpoiled u n) (getSlot u n).part (fun _ => attemptCore (ownCtxs u n) (getPart u (getSlot u n).part))

/-- A FOLDED partition has no current context, and the words of the attempt before it stay under watch. -/
def attemptAged (u : State) (n : Nat) : State :=
  let p := (getSlot u n).part
  ageWords (if (getPart u p).mode == .folded then setPart (coresBegun u n) p { getPart u p with cur := none } else coresBegun u n) n

/-- A slot at the start of an attempt, with the axes that run as lines. -/
def attemptSlot (v : State) (lines : List Nat) (x : SlotSt) : SlotSt :=
  { x with
    coll := { held := x.coll.held, lineAxes := lines, pseqIn := x.coll.pseqIn.filter (fun q => q.1 % 8 == 7), pseqOut := x.coll.pseqOut.filter (fun q => q.1 == 7) },
    round := { kind := .commit, held := x.round.held },
    hostWait := false,
    hostRetry := false,
    run := x.run.map (fun r =>
      let again := !r.stepCharges.isEmpty
      { r with
        stage := .step,
        first := if r.stepCharges.isEmpty then v.fc else r.first,
        start := v.fc,
        causes := [],
        conv := {},
        nan := again && r.nan,
        perturbed := (again && r.perturbed) || pertActive v,
        sweeping := false,
        installed := false,
        stepCharges := addCounters satAdd64 r.stepCharges (addAt [] cFault (if again then v.fc - r.start else 0)) }) }

/-- The attempt is open; LINE_ORDER is yet to be raised. -/
def attemptOpened (u : State) (n : Nat) : State :=
  updSlot (attemptAged u n) n (attemptSlot (attemptAged u n) (lineAxesOf u (slotJob (getSlot u n))))

theorem beginAttempt_eq (s : State) (n : Nat) : beginAttempt s n =
    let u := regenWc s n
    if (lineAxesOf u (slotJob (getSlot u n))).isEmpty then attemptOpened u n else raiseColl (attemptOpened u n) kfLineOrder := rfl

/-- `t` differs from `s` in the contents of HBM3E granules, the shared cache and the draws alone. -/
def ContentsOnly (s t : State) : Prop :=
  t = { s with tiers := { s.tiers with hbm := t.tiers.hbm, undef := t.tiers.undef }, slaths := t.slaths, draws := t.draws }

section
variable {s t : State} (h : ContentsOnly s t)
include h

theorem ContentsOnly.fc : t.fc = s.fc := by rw [h]
theorem ContentsOnly.out : t.out = s.out := by rw [h]
theorem ContentsOnly.doms : t.doms = s.doms := by rw [h]
theorem ContentsOnly.tiers : t.tiers = { s.tiers with hbm := t.tiers.hbm, undef := t.tiers.undef } := congrArg State.tiers h

theorem ContentsOnly.getPart (p : Nat) : getPart t p = getPart s p := by
  rw [h]
  rfl

theorem ContentsOnly.getCore (k : Nat) : getCore t k = getCore s k := by
  rw [h]
  rfl

theorem ContentsOnly.getSlot (n : Nat) : getSlot t n = getSlot s n := by
  rw [h]
  rfl

end

/-- `t` differs from `s` in the cores, the partitions, the slots, the fault records and the flags of training alone. -/
def AttemptWork (s t : State) : Prop := t = { s with cores := t.cores, parts := t.parts, slots := t.slots, fault := t.fault, train := t.train }

theorem AttemptWork.trans {s t u : State} (hst : AttemptWork s t) (htu : AttemptWork t u) : AttemptWork s u := by
  unfold AttemptWork at *
  rw [htu, hst]

section
variable {s t : State} (h : AttemptWork s t)
include h

theorem AttemptWork.fc : t.fc = s.fc := by rw [h]
theorem AttemptWork.out : t.out = s.out := by rw [h]
theorem AttemptWork.doms : t.doms = s.doms := by rw [h]
theorem AttemptWork.tiers : t.tiers = s.tiers := by rw [h]
theorem AttemptWork.draws : t.draws = s.draws := by rw [h]

theorem AttemptWork.getSlath (q : Nat) : getSlath t q = getSlath s q := by
  rw [h]
  rfl

end

/-- `t` differs from `s` in the partitions, the fault records and the flags of training alone. -/
def RecordsOnly (s t : State) : Prop := t = { s with parts := t.parts, fault := t.fault, train := t.train }

section
variable {s t : State} (h : RecordsOnly s t)
include h

theorem RecordsOnly.getCore (k : Nat) : getCore t k = getCore s k := by
  rw [h]
  rfl

theorem RecordsOnly.getSlot (n : Nat) : getSlot t n = getSlot s n := by
  rw [h]
  rfl

theorem RecordsOnly.attemptWork : AttemptWork s t := by
  rw [h]
  rfl

end

theorem updSlot_attemptWork (s : State) (n : Nat) (f : SlotSt → SlotSt) : AttemptWork s (updSlot s n f) := rfl

theorem mapCores_attemptWork (s : State) (p : Nat) (f : Nat → CoreSt → CoreSt) : AttemptWork s (mapCores s p f) := by
  rw [mapCores_frame]
  rfl

theorem getSlot_mapCores (s : State) (p : Nat) (f : Nat → CoreSt → CoreSt) (n : Nat) : getSlot (mapCores s p f) n = getSlot s n := by
  rw [mapCores_frame]
  rfl

section
variable (u : State) (n : Nat)

theorem areasSpoiled_contentsOnly : ContentsOnly u (areasSpoiled u n) := by
  have hareas := spoilGranules_spoiled (areaGranules u n) u
  have hstaging := foldl_stagingSpoiled n (List.range 4) ((areaGranules u n).foldl spoilGranule u)
  unfold ContentsOnly areasSpoiled
  rw [hstaging.frame, hareas.frame]

theorem coresBegun_attemptWork : AttemptWork (areasSpoiled u n) (coresBegun u n) := mapCores_attemptWork _ _ _

theorem attemptAged_recordsOnly : RecordsOnly (coresBegun u n) (attemptAged u n) := by
  unfold attemptAged
  generalize coresBegun u n = v
  dsimp only
  split <;> rfl

theorem attemptOpened_attemptWork : AttemptWork (attemptAged u n) (attemptOpened u n) := updSlot_attemptWork _ _ _

theorem getSlot_attemptAged (m : Nat) : getSlot (attemptAged u n) m = getSlot u m := by
  rw [(attemptAged_recordsOnly u n).getSlot, coresBegun, getSlot_mapCores, (areasSpoiled_contentsOnly u n).getSlot]

theorem attemptAged_fc : (attemptAged u n).fc = u.fc := by
  rw [(attemptAged_recordsOnly u n).attemptWork.fc, (coresBegun_attemptWork u n).fc, (areasSpoiled_contentsOnly u n).fc]

end

section
variable (s : State) (n : Nat)

/-- Beyond an open attempt, LINE_ORDER alone may be raised. -/
theorem beginAttempt_recordsOnly : RecordsOnly (attemptOpened (regenWc s n) n) (beginAttempt s n) := by
  rw [beginAttempt_eq]
  dsimp only
  generalize attemptOpened (regenWc s n) n = v
  split <;> rfl

theorem beginAttempt_work : AttemptWork (areasSpoiled (regenWc s n) n) (beginAttempt s n) :=
  (((coresBegun_attemptWork _ n).trans (attemptAged_recordsOnly _ n).attemptWork).trans (attemptOpened_attemptWork _ n)).trans
    (beginAttempt_recordsOnly s n).attemptWork

theorem getCore_beginAttempt (k : Nat) : getCore (beginAttempt s n) k = getCore (coresBegun (regenWc s n) n) k := by
  rw [(beginAttempt_recordsOnly s n).getCore, attemptOpened, getCore_updSlot, (attemptAged_recordsOnly _ n).getCore]

theorem getSlot_beginAttempt : getSlot (beginAttempt s n) n =
    attemptSlot (attemptAged (regenWc s n) n) (lineAxesOf (regenWc s n) (slotJob (getSlot (regenWc s n) n))) (getSlot (regenWc s n) n) := by
  rw [(beginAttempt_recordsOnly s n).getSlot, attemptOpened, getSlot_updSlot_same, getSlot_attemptAged]

/-- A core of the partition is begun, however often the partition lists it. -/
theorem getCore_coresBegun (u : State) {k : Nat} (hk : k ∈ partCores (getPart u (getSlot u n).part)) :
    CoreBegun (ownCtxs u n) (getPart u (getSlot u n).part) (getCore (coresBegun u n) k) ∧ (getCore (coresBegun u n) k).store = (getCore u k).store := by
  have hspoiled := areasSpoiled_contentsOnly u n
  have hcore : (getCore (areasSpoiled u n) k).store = (getCore u k).store := by rw [hspoiled.getCore]
  rw [← hspoiled.getPart] at hk
  obtain ⟨co, hstore, hbegun⟩ := getCore_mapCores_inside (f := fun _ => attemptCore (ownCtxs u n) (getPart u (getSlot u n).part))
    (P := fun co => co.store = (getCore u k).store) (fun co h => (attemptCore_store _ _ co).trans h) hcore hk
  rw [coresBegun, hbegun]
  exact ⟨attemptCore_begun _ _ co, (attemptCore_store _ _ co).trans hstore⟩

end

/-! ### The state that an attempt begins in -/

section
variable (s : State) (n : Nat)

theorem areasSpoiled_tiers (u : State) : (areasSpoiled u n).tiers = ((areaGranules u n).foldl spoilGranule u).tiers ∧
    ((areaGranules u n).foldl spoilGranule u).draws ≤ (areasSpoiled u n).draws := by
  have h : StagingSpoiled ((areaGranules u n).foldl spoilGranule u) (areasSpoiled u n) := foldl_stagingSpoiled _ _ _
  generalize areasSpoiled u n = v at *
  exact ⟨congrArg (·.tiers) h.frame, h.draws⟩

/-- Each core of the partition is begun. -/
theorem beginAttempt_cores {k : Nat} (hk : k ∈ partCores (getPart s (getSlot s n).part)) :
    CoreBegun (ownCtxs s n) (getPart s (getSlot s n).part) (getCore (beginAttempt s n) k) ∧ (getCore (beginAttempt s n) k).store = (getCore s k).store := by
  have hu := regenWc_regenerated s n
  have hcore := getCore_coresBegun n (regenWc s n) (k := k) (by rwa [hu.part, hu.getPart])
  rw [hu.part, hu.getPart, hu.ownCtxs, hu.getCore, ← getCore_beginAttempt] at hcore
  exact hcore

/-- The bytes of the tiers: the step areas alone become undefined. -/
theorem beginAttempt_tiers : (beginAttempt s n).tiers = ((areaGranules s n).foldl spoilGranule (regenWc s n)).tiers ∧
    ((areaGranules s n).foldl spoilGranule (regenWc s n)).draws ≤ (beginAttempt s n).draws := by
  have hareas := areasSpoiled_tiers n (regenWc s n)
  rw [(regenWc_regenerated s n).areaGranules] at hareas
  have hwork := beginAttempt_work s n
  rwa [← hwork.tiers, ← hwork.draws] at hareas

theorem slathUse_beginAttempt (q : Nat) : (getSlath (beginAttempt s n) q).use = (getSlath s q).use := by
  have hareas := spoilGranules_spoiled (areaGranules (regenWc s n) n) (regenWc s n)
  rw [(beginAttempt_work s n).getSlath, areasSpoiled, slathUse_foldl_spoilStaging, hareas.getSlath, (regenWc_regenerated s n).getSlath]

theorem stagingFree_beginAttempt {q : Nat} (hq : q < 4) : StagingFree n q (beginAttempt s n) := by
  have h := foldl_stagingFree (n := n) (List.mem_range.mpr hq) ((areaGranules (regenWc s n) n).foldl spoilGranule (regenWc s n))
  unfold StagingFree at *
  rw [(beginAttempt_work s n).getSlath]
  exact h

end

/-- Every granule of the slot's staging, whatever Slath holds it, has free contents. -/
theorem beginAttempt_staging (s : State) (n : Nat) {q : Nat} (hq : q < 4) {g : Nat × CacheUse} (hg : g ∈ (getSlath s q).use) (hstaging : g.2 = .staging n) :
    GranuleFree g.1 (getSlath (beginAttempt s n) q) := by
  refine stagingFree_beginAttempt s n hq g.1 (List.mem_map_of_mem (List.mem_filter.mpr ⟨?_, ?_⟩))
  · rwa [slathUse_beginAttempt]
  · rw [hstaging]
    exact beq_self_eq_true _

theorem attemptBegins : AttemptBegins := by
  intro s n r hrun t u
  have hu : Regenerated s u := regenWc_regenerated s n
  have hwork : AttemptWork (areasSpoiled u n) t := beginAttempt_work s n
  have hspoiled : ContentsOnly u (areasSpoiled u n) := areasSpoiled_contentsOnly u n
  have hslot := getSlot_beginAttempt s n
  have hcn : (getSlot u n).cn = (getSlot s n).cn := by rw [hu.slot n]
  have hurun : (getSlot u n).run = some r := by rw [hu.slot n]; exact hrun
  have hfc : (attemptAged u n).fc = s.fc := by rw [attemptAged_fc, hu.work]
  have hdraws : u.draws = s.draws := by rw [hu.work]
  obtain ⟨htiers, hlast⟩ := beginAttempt_tiers s n
  have hareas := spoilGranules_spoiled (areaGranules s n) u
  refine ⟨regenWc_fresh, hu.work, fun k hk => ?cores, ?stage, ?start, ?cn, fun hplaced => ?fresh, ?out, ?doms, ?tiers, ?kept, ?drawn, ?apart, ?staging⟩
  case cores =>
    obtain ⟨hbegun, hstore⟩ := beginAttempt_cores s n hk
    exact ⟨hbegun.par, hbegun.entry, hbegun.finished, hbegun.boundary, hstore, hbegun.inflight⟩
  case stage => rw [hslot, attemptSlot, hurun]; rfl
  case start => rw [hslot, attemptSlot, hurun]; exact congrArg some hfc
  case cn => rw [hslot]; exact hcn
  case fresh => rw [hslot]; exact regenWc_wcStale hplaced
  case out => rw [hwork.out, hspoiled.out, hu.work]
  case doms => rw [hwork.doms, hspoiled.doms, hu.work]
  case tiers => rw [hwork.tiers]; exact hspoiled.tiers
  case kept => rw [htiers]; exact fun p o hp ho => (hareas.kept p hp).2 o ho
  case drawn =>
    intro p hp
    obtain ⟨d, hfirst, hd, -, hbytes⟩ := hareas.drawn p hp
    rw [htiers]
    exact ⟨d, hdraws ▸ hfirst, hd.trans_le hlast, hbytes⟩
  case apart => rw [htiers]; exact hareas.apart
  case staging => exact fun q hq g hg hstaging => beginAttempt_staging s n hq hg hstaging

/-! ### A step start is asked for (R252) -/

section
variable {slot : BitVec 12} {s : State} {r : RunSt} (hrun : (getSlot s slot.toNat).run = some r)
include hrun

theorem exec_stepStart_notResident (hstage : r.stage = .between) (hres : runResident s slot.toNat = false)
    (hloads : (getPart s (getSlot s slot.toNat).part).loads = []) :
    exec (.stepStart slot) s = .next (endRun s slot.toNat sNotResident (runDetail s slot.toNat sNotResident)) := by
  show execStepStart slot s = _
  simp only [execStepStart, hrun, hstage]
  rw [if_pos (by simp [hres, hloads])]

theorem exec_stepStart_between (hstage : r.stage = .between)
    (hctx : runResident s slot.toNat = true ∨ (getPart s (getSlot s slot.toNat).part).loads ≠ []) :
    exec (.stepStart slot) s = if runPlaced s slot.toNat && !reshardHolds (getSlot s slot.toNat) then
      .next (requestStart (updRun s slot.toNat (fun r => { r with stepCharges := [], perturbed := false })) slot.toNat) else .next s := by
  show execStepStart slot s = _
  simp only [execStepStart, hrun, hstage]
  exact if_neg (by rcases hctx with h | h <;> simp [h])

theorem exec_stepStart_paced (hstage : r.stage = .paced) : exec (.stepStart slot) s = .next (grantHeld s slot.toNat) := by
  show execStepStart slot s = _
  simp only [execStepStart, hrun, hstage]

end

theorem requestStart_granted {s : State} {n : Nat} (hheld : s.clock.held = []) (hmay : mayStart s n = true) : requestStart s n = startAttempt s n := by
  unfold requestStart
  exact if_pos (by simp [hheld, hmay])

theorem requestStart_held {s : State} {n : Nat} (h : s.clock.held ≠ [] ∨ mayStart s n = false) : requestStart s n =
    { updRun (setStage s n .paced) n (fun r => { r with asked := s.fc }) with
      clock := { s.clock with held := s.clock.held ++ [n] }
      train := { s.train with cycFlags := raise s.fc s.train.cycFlags 1 } } := by
  unfold requestStart
  exact if_neg (by rcases h with h | h <;> simp [h])

theorem getSlot_updRun_same (s : State) (n : Nat) (f : RunSt → RunSt) : getSlot (updRun s n f) n = { getSlot s n with run := (getSlot s n).run.map f } :=
  getSlot_updSlot_same _ _ _

theorem getSlot_updRun_other (s : State) {n m : Nat} (f : RunSt → RunSt) (h : m ≠ n) : getSlot (updRun s n f) m = getSlot s m :=
  getSlot_updSlot_other _ _ _ _ h

/-- A start that is held changes its own slot, the list of held starts and PACED. -/
theorem requestStart_held_frame {s : State} {n : Nat} (h : s.clock.held ≠ [] ∨ mayStart s n = false) : requestStart s n = { s with
    slots := (requestStart s n).slots, clock := { s.clock with held := s.clock.held ++ [n] },
    train := { s.train with cycFlags := raise s.fc s.train.cycFlags 1 } } := by
  rw [requestStart_held h]
  rfl

theorem getSlot_requestStart_held {s : State} {n : Nat} (h : s.clock.held ≠ [] ∨ mayStart s n = false) (m : Nat) :
    getSlot (requestStart s n) m = getSlot (updRun (setStage s n .paced) n (fun r => { r with asked := s.fc })) m := by
  rw [requestStart_held h]
  rfl

theorem grantHeld_oldest {s : State} {n : Nat} (hheld : s.clock.held.head? = some n) (hmay : mayStart s n = true) :
    grantHeld s n = startAttempt (chargeHeld s n) n := if_pos (by simp [hheld, hmay])

theorem grantHeld_waits {s : State} {n : Nat} (h : s.clock.held.head? ≠ some n ∨ mayStart s n = false) : grantHeld s n = s :=
  if_neg (by rcases h with h | h <;> simp [h])

/-- The fc charged to PACE are those of a start that is no replay's. -/
theorem chargeHeld_paced {s : State} {n : Nat} {r : RunSt} (hrun : (getSlot s n).run = some r) (hstage : r.stage = .paced) :
    let w := addAt [] cPace (if r.stepCharges = [] then s.fc - r.asked else 0)
    chargeHeld s n = updSlot { s with clock := { s.clock with held := s.clock.held.filter (· != n) } } n (fun x =>
      { x with
        dev := addCounters satAdd32 x.dev w,
        run := x.run.map (fun r => { r with charges := addCounters satAdd64 r.charges w }) }) := by
  simp only [chargeHeld, hrun, hstage, beq_self_eq_true, Bool.true_and, List.isEmpty_iff]

/-- What a start that is asked for and held leaves. -/
theorem requestStart_asked {s : State} {n : Nat} {r : RunSt} (hrun : (getSlot s n).run = some r) :
    let s1 := updRun s n (fun r => { r with stepCharges := [], perturbed := false })
    s.clock.held ≠ [] ∨ mayStart s1 n = false →
    requestStart s1 n = { s with
      slots := (requestStart s1 n).slots, clock := { s.clock with held := s.clock.held ++ [n] },
      train := { s.train with cycFlags := raise s.fc s.train.cycFlags 1 } } ∧
    (getSlot (requestStart s1 n) n).run = some { r with stage := .paced, asked := s.fc, stepCharges := [], perturbed := false } ∧
    ∀ m, m ≠ n → getSlot (requestStart s1 n) m = getSlot s m := by
  intro s1 (h : s1.clock.held ≠ [] ∨ mayStart s1 n = false)
  refine ⟨requestStart_held_frame (s := s1) h, ?_, fun m hm => ?_⟩
  · rw [getSlot_requestStart_held (s := s1) h, getSlot_updRun_same, setStage, getSlot_updRun_same, getSlot_updRun_same, hrun]
    rfl
  · rw [getSlot_requestStart_held (s := s1) h, getSlot_updRun_other _ _ hm, setStage, getSlot_updRun_other _ _ hm, getSlot_updRun_other _ _ hm]

theorem exec_stepStart_idle {slot : BitVec 12} {s : State}
    (h : ∀ r, (getSlot s slot.toNat).run = some r → r.stage ≠ .between ∧ r.stage ≠ .paced) : exec (.stepStart slot) s = .next s := by
  show execStepStart slot s = _
  unfold execStepStart
  dsimp only
  split
  · rfl
  next r hrun =>
    obtain ⟨hbetween, hpaced⟩ := h r hrun
    split
    next hstage => exact absurd hstage hbetween
    next hstage => exact absurd hstage hpaced
    · rfl

theorem stepStart : StepStart := by
  refine ⟨?asked, ?evicted, ?unplaced, fun _ _ => exec_stepStart_idle, ?paced⟩
  case asked =>
    intro slot s r n hrun hstage hplaced hreshard hctx s1
    have hasked : exec (.stepStart slot) s = .next (requestStart s1 n) :=
      (exec_stepStart_between hrun hstage hctx).trans (if_pos (by simp [n, hplaced, hreshard]))
    rw [hasked]
    exact ⟨fun hheld hmay => congrArg _ (requestStart_granted hheld hmay), fun hwait => ⟨_, rfl, requestStart_asked hrun hwait⟩⟩
  case evicted => exact fun slot s r hrun hstage hres hloads => exec_stepStart_notResident hrun hstage hres hloads
  case unplaced =>
    intro slot s r hrun hstage hctx hwait
    rw [exec_stepStart_between hrun hstage hctx, if_neg (by rcases hwait with h | h <;> simp [h])]
  case paced =>
    intro slot s r hrun hstage
    rw [exec_stepStart_paced hrun hstage]
    refine ⟨fun hwait => congrArg _ (grantHeld_waits hwait), fun hheld hmay => ?_⟩
    rw [grantHeld_oldest hheld hmay, chargeHeld_paced hrun hstage]

end Sys2Proof.Machine

open Sys2Proof.Machine

/-- Settles O14: of the request and the grant of a start branch by branch, and of the attempt part by part, the granules by induction over the lists that
are spoiled. -/
theorem stepAndAttempt : Obligations.StepAndAttempt := ⟨stepStart, attemptBegins⟩

end

section
/-! PROOFS. STEP_READY, REPAIR, PEER_LOST and FENCE_ROUND at a member (R195, R196, R199 to R201, R249, R344). -/

namespace Sys2Proof.Machine

/-! ### STEP_READY and FENCE_ROUND -/

section
variable {slot : BitVec 12} {s : State} {r : RunSt} (hrun : (getSlot s slot.toNat).run = some r) (hstage : r.stage = .step)
  (hready : (if (getSlot s slot.toNat).hostPlaced then r.installed else sweepDone s slot.toNat) = true)
include hrun hstage hready

/-- A NaN that the policy does not commit aborts the step. -/
theorem exec_stepReady_nan (hnan : r.nan = true) (hpolicy : (getSlot s slot.toNat).narCommit = false) :
    exec (.stepReady slot) s = .next (abortAttempt s slot.toNat true sNarGrad) := by
  show execStepReady slot s = _
  simp only [execStepReady, hrun]
  rw [if_neg (by simp [hstage, hready]), if_pos (by simp [hnan, hpolicy])]

theorem exec_stepReady_retires (hnan : r.nan = false ∨ (getSlot s slot.toNat).narCommit = true) : exec (.stepReady slot) s =
    match retireFailed s slot.toNat with
    | none => .next (abortAttempt (forgetFailed s slot.toNat) slot.toNat true sTierFull)
    | some s1 =>
      let n := slot.toNat
      let u := if r.perturbed || pertActive s1 then 0 else unexplained r s1.fc
      let s2 := if u = 0 then s1 else { s1 with train := { s1.train with cycFlags := raise s1.fc s1.train.cycFlags 0 } }
      let s3 := updSlot s2 n (fun x =>
        { x with
          dev := addCounters satAdd32 x.dev (addAt [] cUnattr u),
          run := x.run.map (fun r => { r with charges := addCounters satAdd64 r.charges (addAt [] cUnattr u), readyFc := s2.fc, stage := .round }) })
      .next (pushRound (updRound s3 n (fun q => { kind := .commit, ready := true, digest := replicaDigest s3 n, held := q.held })) n) := by
  show execStepReady slot s = _
  simp only [execStepReady, hrun]
  exact (if_neg (by simp [hstage, hready])).trans (if_neg (by rcases hnan with h | h <;> simp [h]))

end

/-- A member past its fence wait, with no attempt in progress and no reduction left, joins the fence round. -/
theorem exec_fenceRound_joins {slot : BitVec 12} {s : State} {rs : ReshardSt} (hreshard : (getSlot s slot.toNat).reshard = some rs)
    (hstage : rs.stage = .fenceWait)
    (hidle : ∀ r, (getSlot s slot.toNat).run = some r → r.stage ≠ .step ∧ r.stage ≠ .round ∧ r.stage ≠ .replay)
    (hcontrib : (getSlot s slot.toNat).coll.contrib = []) (hrunning : (getSlot s slot.toNat).coll.running = []) :
    exec (.fenceRound slot) s = .next (pushRound (updRound (updReshard (reserveMoves s slot.toNat rs).1 slot.toNat
      (fun _ => { (reserveMoves s slot.toNat rs).2 with stage := .fenceRound })) slot.toNat (fun q => { kind := .fence, ready := true, held := q.held }))
      slot.toNat) := by
  have hbusy : (getSlot s slot.toNat).run.any (fun r => r.stage == .step || r.stage == .round || r.stage == .replay) = false := by
    rw [Option.any_eq_false]
    intro r hr
    obtain ⟨hstep, hround, hreplay⟩ := hidle r hr
    simp [hstep, hround, hreplay]
  show execFenceRound slot s = _
  simp only [execFenceRound, hreshard]
  rw [if_neg (by simp [hstage, hbusy, hcontrib, hrunning])]

/-! ### What a repair leaves alone (R200, R201) -/

section
variable (s : State) (n : Nat) (f : RoundSt → RoundSt)

theorem getSlot_updRound_same : getSlot (updRound s n f) n = { getSlot s n with round := f (getSlot s n).round } := getSlot_updSlot_same _ _ _

theorem cutRank_updRound (j c : Nat) : cutRank (updRound s n f) j c = cutRank s j c := rfl

theorem dataRank_updRound : dataRank (updRound s n f) n = dataRank s n := by
  unfold dataRank
  rw [getSlot_updRound_same, cutRank_updRound]
  rfl

end

theorem TiersOnly.dataRank {s t : State} (h : TiersOnly s t) (n : Nat) : dataRank t n = dataRank s n := by
  rw [show t = { s with tiers := t.tiers } from h]
  rfl

/-- An entry's bytes go to the tiers, part after part. -/
theorem foldl_writeStream_tiersOnly (n : Nat) (parts : List (Stream × Nat × Nat × Nat)) (a : State × List Byte) :
    TiersOnly a.1 (parts.foldl (fun (a : State × List Byte) p => (writeStream a.1 n p.1 p.2.2.1 (a.2.take p.2.2.2), a.2.drop p.2.2.2)) a).1 := by
  induction parts generalizing a with
  | nil => rfl
  | cons p parts ih => exact (writeStream_tiersOnly _ _ _ _ _).trans (ih _)

theorem writeEntry_tiersOnly (s : State) (n i : Nat) (bs : List Byte) : TiersOnly s (writeEntry s n i bs) := foldl_writeStream_tiersOnly n _ (s, bs)

/-! ### REPAIR (R201) -/

theorem askEntries_updRound (s : State) (n : Nat) (f : RoundSt → RoundSt) (is : List Nat) : askEntries (updRound s n f) n is =
    { updRound s n f with out := s.out ++ [.repair n (f (getSlot s n).round).supplier (.want (BitVec.ofNat 5 (dataRank s n)) (is.map (BitVec.ofNat 12)))] } := by
  unfold askEntries
  rw [getSlot_updRound_same, dataRank_updRound]
  rfl

theorem endRepair_member (s : State) (n : Nat) (f : RoundSt → RoundSt) (h : dataRank s n ≠ 0) : endRepair (updRound s n f) n =
    { updRound s n f with out := s.out ++ [.repair n 0 (.done (BitVec.ofNat 5 (dataRank s n)))] } := by
  unfold endRepair
  rw [dataRank_updRound]
  exact if_neg h

theorem endRepair_first (s : State) (n : Nat) (f : RoundSt → RoundSt) (h : dataRank s n = 0) : endRepair (updRound s n f) n =
    repairDone (updRound s n f) n 0 := by
  unfold endRepair
  rw [dataRank_updRound]
  exact if_pos h

/-- The entries of which the member's CRC differs from the supplier's. -/
def differing (s : State) (n : Nat) (crcs : List Nat) : List Nat :=
  (List.range (getSlot s n).table.length).filter (fun i => crc64 (entryData s n i) != nth 0 crcs i)

theorem nth_entryCrcs (s : State) (n : Nat) {i : Nat} (h : i < (getSlot s n).table.length) : nth 0 (entryCrcs s n) i = crc64 (entryData s n i) := by
  simp [nth, entryCrcs, h]

theorem landList_eq (s : State) (n rank : Nat) (crcs : List Nat) : landList s n rank crcs =
    if (differing s n crcs).isEmpty then endRepair (updRound s n (fun q => { q with supplier := rank, entries := differing s n crcs })) n
    else askEntries (updRound s n (fun q => { q with supplier := rank, entries := differing s n crcs })) n (differing s n crcs) := by
  have hbad : (List.range (entryCrcs s n).length).filter (fun i => nth 0 (entryCrcs s n) i != nth 0 crcs i) = differing s n crcs := by
    rw [show (entryCrcs s n).length = (getSlot s n).table.length by simp [entryCrcs]]
    refine List.filter_congr fun i hi => ?_
    rw [nth_entryCrcs s n (List.mem_range.mp hi)]
  unfold landList
  dsimp only
  rw [hbad]

/-- The member's entry as the repair leaves it: still to be received, or no longer. -/
theorem landEntry_awaited {s : State} {n i crc : Nat} {bs : List Byte} (h : i ∈ (getSlot s n).round.entries) :
    let s1 := writeEntry s n i bs
    let left := (getSlot s n).round.entries.filter (· != i)
    landEntry s n i crc bs =
      if crc64 (entryData s1 n i) ≠ crc then
        { s1 with out := s.out ++ [.repair n (getSlot s n).round.supplier (.want (BitVec.ofNat 5 (dataRank s n)) [BitVec.ofNat 12 i])] }
      else if left.isEmpty then endRepair (updRound s1 n (fun q => { q with entries := left })) n else updRound s1 n (fun q => { q with entries := left }) := by
  intro s1 left
  have hwrite : TiersOnly s s1 := writeEntry_tiersOnly s n i bs
  have hround : updRound s1 n (fun q => { q with entries := q.entries.filter (· != i) }) = updRound s1 n (fun q => { q with entries := left }) := by
    unfold updRound updSlot
    rw [hwrite.getSlot]
  have hask : askEntries s1 n [i] =
      { s1 with out := s.out ++ [.repair n (getSlot s n).round.supplier (.want (BitVec.ofNat 5 (dataRank s n)) [BitVec.ofNat 12 i])] } := by
    unfold askEntries
    rw [hwrite.getSlot, hwrite.dataRank, show s1.out = s.out by rw [hwrite]]
    rfl
  unfold landEntry
  rw [if_neg (by simpa using h)]
  dsimp only
  rw [hask, hround, getSlot_updRound_same]

section
variable {slot : BitVec 12} {s : State}

/-- The member takes part in the repair: it is ready for a commit round that is not decided. -/
def InRepair (x : SlotSt) : Prop := x.round.kind = .commit ∧ x.round.ready = true ∧ x.round.issued = false

theorem exec_repair_open (h : InRepair (getSlot s slot.toNat)) (m : RepairMsg) : exec (.repair slot m) s =
    match m with
    | .supply rs => .next (sendLists s slot.toNat (rs.map (·.toNat)))
    | .list r crcs => .next (landList s slot.toNat r.toNat (crcs.map (·.toNat)))
    | .want r is => .next (sendEntries s slot.toNat r.toNat (is.map (·.toNat)))
    | .entry i crc bs => .next (landEntry s slot.toNat i.toNat crc.toNat bs)
    | .done r => .next (repairDone s slot.toNat r.toNat) := by
  obtain ⟨hkind, hready, hissued⟩ := h
  exact if_neg (by simp [hkind, hready, hissued])

theorem exec_repair_closed (h : (getSlot s slot.toNat).round.kind ≠ .commit ∨ (getSlot s slot.toNat).round.ready = false ∨
    (getSlot s slot.toNat).round.issued = true) (m : RepairMsg) : exec (.repair slot m) s = .next s := by
  refine if_pos ?_
  rcases h with h | h | h <;> simp [h]

theorem sendLists_eq (s : State) (n : Nat) (ranks : List Nat) : sendLists s n ranks = { s with
    out := s.out ++ ranks.map (fun r => .repair n r (.list (BitVec.ofNat 5 (dataRank s n))
      ((List.range (getSlot s n).table.length).map (fun i => BitVec.ofNat 64 (crc64 (entryData s n i)))))) } := by
  unfold sendLists entryCrcs
  rw [List.map_map]
  rfl

theorem sendEntries_map (s : State) (n rank : Nat) (is : List (BitVec 12)) : sendEntries s n rank (is.map (·.toNat)) = { s with
    out := s.out ++ is.map (fun i => .repair n rank (.entry i (BitVec.ofNat 64 (crc64 (entryData s n i.toNat))) (entryData s n i.toNat))) } := by
  simp only [sendEntries, List.map_map, Function.comp_def, BitVec.ofNat_toNat, BitVec.setWidth_eq]

/-! ### PEER_LOST (R199, R344) -/

theorem exec_peerLost_idle (h : (getSlot s slot.toNat).round.ready = false ∨ (getSlot s slot.toNat).round.kind = .none) :
    exec (.peerLost slot) s = .next s := by
  show execPeerLost slot s = _
  unfold execPeerLost
  dsimp only
  split
  · rfl
  next hready => rw [h.resolve_left (by simpa using hready)]

theorem exec_peerLost_ready (h : (getSlot s slot.toNat).round.ready = true) : exec (.peerLost slot) s =
    match (getSlot s slot.toNat).round.kind with
    | .none => .next s
    | .fence => .next (failReshard s slot.toNat sPeerLost)
    | .switch =>
      if (getSlot s slot.toNat).round.issued then
        match (getSlot s slot.toNat).reshard with
        | none => .next s
        | some rs =>
          .next (finishDesc (updSlot s slot.toNat (fun x => { x with reshard := none, round := { held := x.round.held } })) rs.ring rs.desc sPeerLost rs.wait)
      else .next (failReshard s slot.toNat sPeerLost)
    | _ =>
      if (getSlot s slot.toNat).round.issued then
        .next (endRun (noteRound s slot.toNat) slot.toNat sPeerLost (runDetail s slot.toNat sPeerLost))
      else .next (abortAttempt s slot.toNat true sPeerLost) := by
  show execPeerLost slot s = _
  unfold execPeerLost
  dsimp only
  exact if_neg (by simp [h])

end

section
variable {slot : BitVec 12} {s : State}

/-! ### The messages of a repair, one after another -/

/-- The round once the supplier's list has come. -/
def listed (s : State) (n rank : Nat) (bad : List Nat) : State := updRound s n (fun q => { q with supplier := rank, entries := bad })

theorem exec_repair_list (h : InRepair (getSlot s slot.toNat)) (rank : BitVec 5) (crcs : List DWord) :
    let n := slot.toNat
    let bad := differing s n (crcs.map (·.toNat))
    (bad ≠ [] → exec (.repair slot (.list rank crcs)) s = .next { listed s n rank.toNat bad with
      out := s.out ++ [.repair n rank.toNat (.want (BitVec.ofNat 5 (dataRank s n)) (bad.map (BitVec.ofNat 12)))] }) ∧
    (bad = [] → dataRank s n ≠ 0 → exec (.repair slot (.list rank crcs)) s = .next { listed s n rank.toNat bad with
      out := s.out ++ [.repair n 0 (.done (BitVec.ofNat 5 (dataRank s n)))] }) ∧
    (bad = [] → dataRank s n = 0 → exec (.repair slot (.list rank crcs)) s = .next (repairDone (listed s n rank.toNat bad) n 0)) := by
  intro n bad
  rw [exec_repair_open h]
  dsimp only
  rw [landList_eq]
  refine ⟨fun hbad => ?_, fun hbad hrank => ?_, fun hbad hrank => ?_⟩
  · rw [if_neg (mt List.isEmpty_iff.mp hbad), askEntries_updRound]
    rfl
  · rw [if_pos (List.isEmpty_iff.mpr hbad), endRepair_member _ _ _ hrank]
    rfl
  · rw [if_pos (List.isEmpty_iff.mpr hbad), endRepair_first _ _ _ hrank]
    rfl

/-- The round once an entry has come. -/
def received (s : State) (n : Nat) (left : List Nat) : State := updRound s n (fun q => { q with entries := left })

theorem exec_repair_entry (h : InRepair (getSlot s slot.toNat)) (i : BitVec 12) (crc : DWord) (bs : List Byte)
    (hi : i.toNat ∈ (getSlot s slot.toNat).round.entries) :
    let n := slot.toNat
    let s1 := writeEntry s n i.toNat bs
    let left := (getSlot s n).round.entries.filter (· != i.toNat)
    (crc64 (entryData s1 n i.toNat) ≠ crc.toNat → exec (.repair slot (.entry i crc bs)) s = .next { s1 with
      out := s.out ++ [.repair n (getSlot s n).round.supplier (.want (BitVec.ofNat 5 (dataRank s n)) [i])] }) ∧
    (crc64 (entryData s1 n i.toNat) = crc.toNat →
      (left ≠ [] → exec (.repair slot (.entry i crc bs)) s = .next (received s1 n left)) ∧
      (left = [] → dataRank s n ≠ 0 → exec (.repair slot (.entry i crc bs)) s = .next { received s1 n left with
        out := s.out ++ [.repair n 0 (.done (BitVec.ofNat 5 (dataRank s n)))] }) ∧
      (left = [] → dataRank s n = 0 → exec (.repair slot (.entry i crc bs)) s = .next (repairDone (received s1 n left) n 0))) := by
  intro n s1 left
  have hwrite : TiersOnly s s1 := writeEntry_tiersOnly s n i.toNat bs
  have hout : s1.out = s.out := by rw [hwrite]
  have hrank : dataRank s1 n = dataRank s n := hwrite.dataRank n
  rw [exec_repair_open h]
  dsimp only
  rw [landEntry_awaited hi, BitVec.ofNat_toNat, BitVec.setWidth_eq]
  refine ⟨fun hcrc => by rw [if_pos hcrc], fun hcrc => ⟨fun hleft => ?_, fun hleft hmember => ?_, fun hleft hfirst => ?_⟩⟩
  · rw [if_neg (not_not.mpr hcrc), if_neg (mt List.isEmpty_iff.mp hleft)]
    rfl
  · rw [if_neg (not_not.mpr hcrc), if_pos (List.isEmpty_iff.mpr hleft), endRepair_member s1 n _ (hrank ▸ hmember), hrank, hout]
    rfl
  · rw [if_neg (not_not.mpr hcrc), if_pos (List.isEmpty_iff.mpr hleft), endRepair_first s1 n _ (hrank.trans hfirst)]
    rfl

/-- After the decision of its step a member completes with PEER_LOST. -/
theorem exec_peerLost_decided (hready : (getSlot s slot.toNat).round.ready = true)
    (hkind : (getSlot s slot.toNat).round.kind = .commit ∨ (getSlot s slot.toNat).round.kind = .restart)
    (hissued : (getSlot s slot.toNat).round.issued = true) :
    exec (.peerLost slot) s = .next (endRun (noteRound s slot.toNat) slot.toNat sPeerLost (runDetail s slot.toNat sPeerLost)) := by
  rw [exec_peerLost_ready hready]
  rcases hkind with hkind | hkind <;> simp only [hkind, hissued, if_true]

/-- A re-shard that is not decided fails. -/
theorem exec_peerLost_reshard (hready : (getSlot s slot.toNat).round.ready = true)
    (hkind : (getSlot s slot.toNat).round.kind = .fence ∨ (getSlot s slot.toNat).round.kind = .switch ∧ (getSlot s slot.toNat).round.issued = false) :
    exec (.peerLost slot) s = .next (failReshard s slot.toNat sPeerLost) := by
  rw [exec_peerLost_ready hready]
  rcases hkind with hkind | ⟨hkind, hissued⟩
  · simp only [hkind]
  · simp only [hkind, hissued, Bool.false_eq_true, if_false]

theorem getSlot_finishDesc (s : State) (r id status detail n : Nat) : getSlot (finishDesc s r id status detail) n = getSlot s n := rfl

/-- After the decision of a switch the member keeps the layout that it has installed. -/
theorem exec_peerLost_switched {rs : ReshardSt} (hready : (getSlot s slot.toNat).round.ready = true) (hkind : (getSlot s slot.toNat).round.kind = .switch)
    (hissued : (getSlot s slot.toNat).round.issued = true) (hrs : (getSlot s slot.toNat).reshard = some rs) :
    ∃ t, exec (.peerLost slot) s = .next t ∧ t = { s with slots := t.slots, rings := t.rings } ∧
      getSlot t slot.toNat = { getSlot s slot.toNat with reshard := none, round := { held := (getSlot s slot.toNat).round.held } } := by
  rw [exec_peerLost_ready hready]
  simp only [hkind, hissued, hrs, if_true]
  refine ⟨_, rfl, ?_, ?_⟩
  · rw [finishDesc_frame]
    rfl
  · rw [getSlot_finishDesc, getSlot_updSlot_same]

end

end Sys2Proof.Machine

open Sys2Proof.Machine

/-- Settles O22: of each command what it does where it is taken, and that it does nothing elsewhere; a repair message by message. -/
theorem memberEvents : Obligations.MemberEvents := by
  refine ⟨?ready, ?repair, fun slot s m h => exec_repair_closed h m, ?peerLost, ?fence⟩
  case ready =>
    intro slot s s1 r n x hrun hstage hready
    refine ⟨exec_stepReady_nan hrun hstage hready, fun hnan hretire => ?_, fun hnan hretire => ?_⟩
    · rw [exec_stepReady_retires hrun hstage hready hnan, hretire]
    · rw [exec_stepReady_retires hrun hstage hready hnan, hretire]
  case fence =>
    intro slot s rs n x
    exact exec_fenceRound_joins
  case repair =>
    intro slot s hkind hready hissued
    have hopen : InRepair (getSlot s slot.toNat) := ⟨hkind, hready, hissued⟩
    refine ⟨fun ranks => ?supply, exec_repair_list hopen, fun rank is => ?want, fun i crc bs => ⟨fun hi => ?unasked, fun hi => ⟨?tiers, exec_repair_entry hopen i crc bs hi⟩⟩,
      fun rank => exec_repair_open hopen _, ?lost⟩
    case supply =>
      rw [exec_repair_open hopen]
      dsimp only
      rw [sendLists_eq, List.map_map]
      rfl
    case want =>
      rw [exec_repair_open hopen]
      exact congrArg _ (sendEntries_map _ _ _ _)
    case unasked =>
      rw [exec_repair_open hopen]
      exact congrArg _ (if_pos (by simpa using hi))
    case tiers => exact writeEntry_tiersOnly _ _ _ _
    case lost =>
      rw [exec_peerLost_ready hready]
      simp only [hkind, hissued]
      rfl
  case peerLost =>
    intro slot s x
    refine ⟨exec_peerLost_idle, exec_peerLost_decided, exec_peerLost_reshard, fun rs hready hkind hissued hrs => ?_⟩
    obtain ⟨t, hexec, hframe, hslot⟩ := exec_peerLost_switched hready hkind hissued hrs
    exact ⟨t, hexec, hframe, by rw [hslot], by rw [hslot], by rw [hslot]⟩

end

section
/-! PROOFS. Doorbell polls, fetches and completions of descriptor rings (R186, R262, R278 to R284, R287, R294 to R297). -/

namespace Sys2Proof.Machine

open Sys2Proof.Claims

/-! ### Polls (R283) -/

/-- `t` is `s` with rings of a list changed. -/
structure RingsOf (rs : List Nat) (s t : State) : Prop where
  frame : t = { s with rings := t.rings }
  kept : ∀ q, q ∉ rs → getRing t q = getRing s q

theorem setRing_ringsOf (s : State) (r : Nat) (x : RingSt) : RingsOf [r] s (setRing s r x) where
  frame := rfl
  kept _ hq := getRing_setRing_other _ _ _ _ (List.ne_of_not_mem_cons hq)

theorem RingsOf.refl (rs : List Nat) (s : State) : RingsOf rs s s := ⟨rfl, fun _ _ => rfl⟩

theorem pollRing_ringsOf (f : FnSt) (words : List (DWord × List Word)) (a : Bool × State) (r : Nat) : RingsOf [r] a.2 (pollRing f words a r).2 := by
  unfold pollRing
  dsimp only
  split
  · exact .refl _ _
  · split
    · exact .refl _ _
    · split
      · exact setRing_ringsOf _ _ _
      · exact .refl _ _

/-- A poll changes the rings that it looks at. -/
theorem foldl_pollRing_ringsOf (f : FnSt) (words : List (DWord × List Word)) (rs : List Nat) (a : Bool × State) :
    RingsOf rs a.2 (rs.foldl (pollRing f words) a).2 := by
  induction rs generalizing a with
  | nil => exact .refl _ _
  | cons r rs ih =>
    have hfirst := pollRing_ringsOf f words a r
    have hrest := ih (pollRing f words a r)
    refine ⟨?_, fun q hq => ?_⟩
    · rw [List.foldl_cons, hrest.frame, hfirst.frame]
    · rw [List.mem_cons, not_or] at hq
      rw [List.foldl_cons, hrest.kept q hq.2, hfirst.kept q (by simpa using hq.1)]

section
variable {f : FnSt} {words : List (DWord × List Word)} {s : State} {r : Nat}

theorem pollRing_unread (h : doorbellWord words (doorbellAddr f r) = none) : pollRing f words (false, s) r = (false, s) := by
  simp only [pollRing, h]

theorem pollRing_beyond {w : Word} (h : doorbellWord words (doorbellAddr f r) = some w) (htail : ringSize (getRing s r) ≤ w.toNat % 2 ^ 16) :
    pollRing f words (false, s) r = (true, s) := by
  simp only [pollRing, h, if_pos htail]

theorem pollRing_within {w : Word} (h : doorbellWord words (doorbellAddr f r) = some w) (htail : w.toNat % 2 ^ 16 < ringSize (getRing s r)) :
    pollRing f words (false, s) r =
      (false, if w.toNat % 2 ^ 16 ≠ (getRing s r).fetch ∧ (getRing s r).target = none then setRing s r { getRing s r with target := some (w.toNat % 2 ^ 16) }
        else s) := by
  simp only [pollRing, h, if_neg (not_le.mpr htail)]
  split <;> rfl

end

/-- The state after a poll, DB_ERR raised where a TAIL was out of range. -/
def polled (s : State) (k : Nat) (pr : PollRead) : State :=
  let a := (polledRings s k pr).foldl (pollRing (getFn s k) pr.words) (false, s)
  if a.1 then raiseRing a.2 k rfDbErr else a.2

theorem exec_doorbellPoll {f : FnAddr} {s : State} (h : Answers f s) (pr : PollRead) : exec (.doorbellPoll f pr) s =
    if !(getFn s (fnKeyOf f)).pollEn || !(getFn s (fnKeyOf f)).cfg.master || pr.base.toNat != (getFn s (fnKeyOf f)).dbBase then .next s
    else .next (polled s (fnKeyOf f) pr) := by
  obtain ⟨hexists, hreach⟩ := h
  show execDoorbellPoll f pr s = _
  rw [execDoorbellPoll, fnWrite_reached f s _ hexists hreach]
  rfl

theorem polled_kept (s : State) (k : Nat) (pr : PollRead) : polled s k pr = { s with rings := (polled s k pr).rings, fns := (polled s k pr).fns } ∧
    ∀ q, q ∉ polledRings s k pr → getRing (polled s k pr) q = getRing s q := by
  have h := foldl_pollRing_ringsOf (getFn s k) pr.words (polledRings s k pr) (false, s)
  unfold polled
  generalize (polledRings s k pr).foldl (pollRing (getFn s k) pr.words) (false, s) = a at *
  dsimp only at *
  split
  · refine ⟨?_, h.kept⟩
    rw [h.frame]
    rfl
  · refine ⟨?_, h.kept⟩
    rw [h.frame]

/-- A poll of one ring. -/
theorem polled_single {s : State} {k : Nat} {pr : PollRead} {r : Nat} (h : polledRings s k pr = [r]) : polled s k pr =
    let a := pollRing (getFn s k) pr.words (false, s) r
    if a.1 then raiseRing a.2 k rfDbErr else a.2 := by
  simp only [polled, h, List.foldl_cons, List.foldl_nil]

theorem ringFlags_raiseRing (s : State) (k b : Nat) : (getFn (raiseRing s k b) k).ringFlags = raise s.fc (getFn s k).ringFlags b := by
  rw [raiseRing, getFn_updFn_same]

/-! ### Fetches (R278, R284) -/

theorem fetchRoom_le (m : Nat) (x : RingSt) : fetchRoom m x ≤ min 8 (m / 64) := by
  unfold fetchRoom
  split
  · exact Nat.zero_le _
  · exact min_le_left _ _

/-- The fetch is out, reads what it asked for, and its function may master the port. -/
def FetchDue (s : State) (r : Nat) (o : FetchRead) : Prop :=
  o.descs ≠ [] ∧ o.descs.length ≤ fetchRoom (readSize s (r / 8192)) (getRing s r) ∧ o.addr.toNat = fetchAddr (getRing s r) ∧
    (fnOfRing s r).any (fun k => (getFn s k).cfg.master) = true

theorem exec_descriptorFetch_idle {ring : BitVec 14} {o : FetchRead} {s : State} (h : ¬ FetchDue s ring.toNat o) :
    exec (.descriptorFetch ring o) s = .next s := by
  refine if_pos (not_not.mp (mt (fun hdue => ?_) h))
  simpa [FetchDue, not_or] using hdue

theorem exec_descriptorFetch_due {ring : BitVec 14} {o : FetchRead} {s : State} (h : FetchDue s ring.toNat o) :
    let x := getRing s ring.toNat
    let tl := (x.fetch + o.descs.length) % ringSize x
    exec (.descriptorFetch ring o) s = .next (setRing s ring.toNat { x with
      fetch := tl, target := if x.target = some tl then none else x.target,
      ready := x.ready ++ o.descs.zipIdx.map (fun d => (x.fetch + d.2, d.1.toNat)) }) := by
  refine if_neg ?_
  simpa [FetchDue, not_or] using h

theorem doorbellsAndFetch : DoorbellsAndFetch := by
  refine ⟨fun f pr s h => ?poll, fun ring o s => ?fetch⟩
  case poll =>
    intro k x
    rw [exec_doorbellPoll h]
    refine ⟨fun hoff => if_pos ?_, fun hen hmaster hbase => ?_⟩
    · rcases hoff with h | h | h <;> simp [x, k, h]
    · rw [if_neg (by simp [x, k, hen, hmaster, hbase])]
      obtain ⟨hframe, hkept⟩ := polled_kept s k pr
      refine ⟨_, rfl, hframe, hkept, fun r hr hnone => ?_, fun r hr w hw => ⟨fun hbeyond => ?_, fun hwithin => ?_⟩⟩
      · rw [polled_single hr, pollRing_unread hnone]
        rfl
      · rw [polled_single hr, pollRing_beyond hw hbeyond]
        exact ⟨rfl, ringFlags_raiseRing _ _ _⟩
      · rw [polled_single hr, pollRing_within hw hwithin]
        dsimp only
        rw [if_neg Bool.false_ne_true]
        split
        · exact ⟨rfl, getRing_setRing_same _ _ _⟩
        · exact ⟨rfl, rfl⟩
  case fetch =>
    intro r x m tl
    refine ⟨fun hidle => exec_descriptorFetch_idle ?_, fun hdescs hroom haddr hmaster => ?_⟩
    · rintro ⟨hdescs, hroom, haddr, hmaster⟩
      rcases hidle with h | h | h | h
      · exact hdescs h
      · exact absurd hroom (not_le.mpr h)
      · exact h haddr
      · exact Bool.false_ne_true (h.symm.trans hmaster)
    · have hlen : o.descs.length ≤ min 8 (m / 64) := hroom.trans (fetchRoom_le m x)
      refine ⟨by omega, by omega, _, exec_descriptorFetch_due ⟨hdescs, hroom, haddr, hmaster⟩, rfl, fun q hq => getRing_setRing_other _ _ _ _ hq, ?_⟩
      rw [getRing_setRing_same]
      exact ⟨rfl, rfl, rfl, rfl⟩

/-! ### Signals (R296) -/

/-- A message leaves, or is pending: `t` is `s` with functions changed and messages sent. -/
structure MessageSent (s t : State) : Prop where
  frame : t = { s with fns := t.fns, out := t.out }
  sent : ∃ ms, t.out = s.out ++ ms

theorem sendMsix_messageSent (s : State) (k v : Nat) : MessageSent s (sendMsix s k v) := by
  unfold sendMsix
  dsimp only
  generalize (if v < vectorCount k then v else 0) = v
  split
  · exact ⟨rfl, [], (List.append_nil _).symm⟩
  · exact ⟨rfl, _, rfl⟩

/-- The moderation word of a ring is written; the vector is yet to be signalled. -/
def moderationWritten (s : State) (r : Nat) : State :=
  let x := getRing s r
  { setRing s r { x with unsig := 0 } with out := s.out ++ [.hostWrite (r / 8192) (x.cq + 16 * ringSize x) (bytesLE 8 (x.written % 2 ^ 32))] }

theorem signalRing_messageSent (s : State) (r : Nat) : MessageSent (moderationWritten s r) (signalRing s r) := by
  show MessageSent _ (match fnOfRing (moderationWritten s r) r with
    | none => moderationWritten s r
    | some k => sendMsix (moderationWritten s r) k (getRing s r).vector)
  split
  · exact ⟨rfl, [], (List.append_nil _).symm⟩
  · exact sendMsix_messageSent _ _ _

/-- A signal of a ring: the moderation word and the vector, and no completion of the ring is left unsignalled. -/
structure Signalled (r : Nat) (s t : State) : Prop where
  frame : t = { s with rings := t.rings, fns := t.fns, out := t.out }
  sent : ∃ ms, t.out = s.out ++ [.hostWrite (r / 8192) ((getRing s r).cq + 16 * ringSize (getRing s r)) (bytesLE 8 ((getRing s r).written % 2 ^ 32))] ++ ms
  ring : getRing t r = { getRing s r with unsig := 0 }
  kept : ∀ q, q ≠ r → getRing t q = getRing s q

theorem signalRing_signalled (s : State) (r : Nat) : Signalled r s (signalRing s r) := by
  have h := signalRing_messageSent s r
  have hring (q : Nat) : getRing (signalRing s r) q = getRing (moderationWritten s r) q := by
    rw [h.frame]
    rfl
  refine ⟨?_, h.sent, ?_, fun q hq => ?_⟩
  · rw [h.frame]
    rfl
  · rw [hring]
    exact getRing_setRing_same _ _ _
  · rw [hring]
    exact getRing_setRing_other _ _ _ _ hq

/-! ### What the end of a descriptor leaves of its ring (R287, R297) -/

/-- A ring keeps its completion indices, its phase, and its counts. -/
def IndicesKept (x y : RingSt) : Prop := y = { x with finished := y.finished, open_ := y.open_, collect := y.collect, active := y.active }

theorem IndicesKept.trans {x y z : RingSt} (hxy : IndicesKept x y) (hyz : IndicesKept y z) : IndicesKept x z := by
  unfold IndicesKept at *
  rw [hyz, hxy]

theorem settleRing_indicesKept (x : RingSt) : IndicesKept x (settleRing x) := by
  unfold settleRing
  split <;> rfl

/-- `t` is `s` with one ring changed that keeps its indices. -/
structure RingSettled (r : Nat) (s t : State) : Prop where
  rings : RingsOf [r] s t
  indices : IndicesKept (getRing s r) (getRing t r)

theorem finishDesc_settled (s : State) (r id status detail : Nat) : RingSettled r s (finishDesc s r id status detail) where
  rings := setRing_ringsOf _ _ _
  indices := by
    rw [finishDesc, getRing_updRing_same]
    rfl

theorem settleFence_settled (s : State) (r : Nat) : RingSettled r s (settleFence s r) := by
  unfold settleFence
  split
  · split
    · exact finishDesc_settled _ _ _ _ _
    · exact ⟨.refl _ _, rfl⟩
  · exact ⟨.refl _ _, rfl⟩

/-- A ring once a completion has left it: a FENCE that is now the oldest descriptor ends, and a disabled ring with no descriptor left is inactive. -/
def settled (s : State) (r : Nat) : State := updRing (settleFence s r) r settleRing

theorem settled_settled (s : State) (r : Nat) : RingSettled r s (settled s r) := by
  have hfence := settleFence_settled s r
  have hring : RingsOf [r] (settleFence s r) (settled s r) := setRing_ringsOf _ _ _
  refine ⟨⟨?_, fun q hq => (hring.kept q hq).trans (hfence.rings.kept q hq)⟩, hfence.indices.trans ?_⟩
  · rw [hring.frame, hfence.rings.frame]
  · rw [settled, getRing_updRing_same]
    exact settleRing_indicesKept _

/-! ### Copies (R186) -/

/-- A slot of which a copy no longer holds a bank. -/
def copyEnded (r id : Nat) (x : SlotSt) : SlotSt := { x with copies := x.copies.filter (fun c => !(c.1 == r && c.2.1 == id)) }

/-- A slot in which the copy holds nothing stays. -/
theorem copyEnded_idle {r id : Nat} {x : SlotSt} (h : x.copies.any (fun c => c.1 == r && c.2.1 == id) = false) : copyEnded r id x = x := by
  have hfilter : x.copies.filter (fun c => !(c.1 == r && c.2.1 == id)) = x.copies :=
    List.filter_eq_self.mpr fun c hc => by rw [Bool.eq_false_of_not_eq_true (List.any_eq_false.mp h c hc)]; rfl
  rw [copyEnded, hfilter]

theorem getSlot_endCopy (s : State) (r id n : Nat) : getSlot (endCopy s r id) n = copyEnded r id (getSlot s n) := by
  have hslots : (endCopy s r id).slots = s.slots.map (fun p => (p.1, copyEnded r id p.2)) := by
    refine List.map_congr_left fun p _ => ?_
    dsimp only
    split
    · rfl
    next hidle => rw [copyEnded_idle (Bool.eq_false_of_not_eq_true hidle)]
  unfold getSlot
  rw [hslots]
  exact mget_map_values rfl _ _

/-! ### Completions (R262, R294, R295) -/

/-- The descriptor whose outcome was fixed first is taken off its ring, and a copy holds its bank no longer. -/
def completionTaken (s : State) (r id : Nat) (ids : List Nat) : State :=
  endCopy (setRing s r { getRing s r with finished := ids, open_ := (getRing s r).open_.filter (fun d => d.id != id) }) r id

theorem completionTaken_frame (s : State) (r id : Nat) (ids : List Nat) :
    completionTaken s r id ids = { s with rings := (completionTaken s r id ids).rings, slots := (completionTaken s r id ids).slots } := rfl

theorem getRing_completionTaken_same (s : State) (r id : Nat) (ids : List Nat) : getRing (completionTaken s r id ids) r =
    { getRing s r with finished := ids, open_ := (getRing s r).open_.filter (fun d => d.id != id) } := getRing_setRing_same _ _ _

theorem getRing_completionTaken_other (s : State) {r q : Nat} (id : Nat) (ids : List Nat) (h : q ≠ r) :
    getRing (completionTaken s r id ids) q = getRing s q := getRing_setRing_other _ _ _ _ h

theorem getSlot_completionTaken (s : State) (r id : Nat) (ids : List Nat) (n : Nat) :
    getSlot (completionTaken s r id ids) n = copyEnded r id (getSlot s n) := getSlot_endCopy _ _ _ _

/-- A ring past the entry of a completion. -/
def entryPassed (x : RingSt) : RingSt :=
  { x with
    cidx := if x.cidx + 1 == ringSize x then 0 else x.cidx + 1, phase := if x.cidx + 1 == ringSize x then !x.phase else x.phase,
    written := x.written + 1, unsig := x.unsig + 1 }

/-- The report of a RUN that completes. -/
def reportWrites (r : Nat) (d : DescSt) : List Output := match d.report with | some q => [.hostWrite (r / 8192) q.1 q.2] | none => []

/-- The entry of a completion, at the completion index. -/
def entryWrite (x : RingSt) (r : Nat) (d : DescSt) : Output := .hostWrite (r / 8192) (x.cq + 16 * x.cidx) (completionEntry d x.fetch x.phase)

/-- The entry of a completion is written; the ring is yet to be signalled. -/
def entryWritten (s : State) (r : Nat) (d : DescSt) : State :=
  { setRing s r (entryPassed (getRing s r)) with out := s.out ++ reportWrites r d ++ [entryWrite (getRing s r) r d] }

/-- The completion asks for a signal, failed, or is the last of those that moderation holds back. -/
def signalDue (x : RingSt) (d : DescSt) : Bool := bit d.raw 8 || d.status != some 0 || decide (max x.modCnt 1 ≤ x.unsig + 1)

theorem writeCompletion_eq (s : State) (r : Nat) (d : DescSt) : writeCompletion s r d =
    if signalDue (getRing s r) d then signalRing (entryWritten s r d) r else entryWritten s r d := rfl

/-- A ring once a completion was written: past the entry, and with nothing unsignalled after a signal. -/
structure CompletionWritten (r : Nat) (d : DescSt) (s t : State) : Prop where
  frame : t = { s with rings := t.rings, fns := t.fns, out := t.out }
  sent : ∃ rest, t.out = s.out ++ reportWrites r d ++ [entryWrite (getRing s r) r d] ++ rest ∧
    (signalDue (getRing s r) d = false → rest = [] ∧ getRing t r = entryPassed (getRing s r))
  ring : getRing t r = { entryPassed (getRing s r) with unsig := (getRing t r).unsig }
  kept : ∀ q, q ≠ r → getRing t q = getRing s q

theorem writeCompletion_written (s : State) (r : Nat) (d : DescSt) : CompletionWritten r d s (writeCompletion s r d) := by
  have hring : getRing (entryWritten s r d) r = entryPassed (getRing s r) := getRing_setRing_same _ _ _
  have hkept : ∀ q, q ≠ r → getRing (entryWritten s r d) q = getRing s q := fun q hq => getRing_setRing_other _ _ _ _ hq
  rw [writeCompletion_eq]
  split
  next hdue =>
    have h := signalRing_signalled (entryWritten s r d) r
    obtain ⟨ms, hms⟩ := h.sent
    refine ⟨?_, ⟨_, hms.trans (List.append_assoc _ _ _), fun hquiet => absurd hdue (by simp [hquiet])⟩, ?_, fun q hq => (h.kept q hq).trans (hkept q hq)⟩
    · rw [h.frame]
      rfl
    · rw [h.ring, hring]
  next => exact ⟨rfl, ⟨[], (List.append_nil _).symm, fun _ => ⟨rfl, hring⟩⟩, by rw [hring], hkept⟩

/-- The discarded completion of a function that was reset is counted. -/
theorem dropCompletion_frame (s : State) (r : Nat) :
    dropCompletion s r = { s with ports := (dropCompletion s r).ports, fns := (dropCompletion s r).fns } := rfl

theorem getPort_dropCompletion (s : State) (r : Nat) :
    (getPort (dropCompletion s r) (r / 8192)).cplDrop = satAdd32 (getPort s (r / 8192)).cplDrop 1 :=
  congrArg (·.cplDrop) (getPort_setPort_same s (r / 8192) _)

theorem hostFlags_dropCompletion (s : State) (r : Nat) :
    (getFn (dropCompletion s r) (fnKey (r / 8192) 0)).hostFlags = raise s.fc (getFn s (fnKey (r / 8192) 0)).hostFlags hfCplDrop := by
  rw [dropCompletion, raiseHost, getFn_updFn_same]
  rfl

theorem completionEntry_length (d : DescSt) (head : Nat) (phase : Bool) : (completionEntry d head phase).length = 16 := by
  simp [completionEntry, bytesLE_length]

/-- The master condition of a ring: a ring that no function owns holds descriptors of functions that were reset alone. -/
def mayWrite (s : State) (r : Nat) : Bool := (fnOfRing s r).all (fun k => (getFn s k).cfg.master)

section
variable {ring : BitVec 14} {s : State}

theorem exec_descriptorComplete_idle (h : (getRing s ring.toNat).finished = []) : exec (.descriptorComplete ring) s = .next s := by
  show execDescriptorComplete ring s = _
  simp only [execDescriptorComplete, h]

variable {id : Nat} {ids : List Nat} {d : DescSt} (hfinished : (getRing s ring.toNat).finished = id :: ids)
  (hfind : (getRing s ring.toNat).open_.find? (fun d => d.id == id) = some d)
include hfinished hfind

theorem exec_descriptorComplete_found : exec (.descriptorComplete ring) s =
    if !d.orphan && !mayWrite s ring.toNat then .next s
    else
      let t := completionTaken s ring.toNat id ids
      .next (settled (if d.orphan then dropCompletion t ring.toNat else writeCompletion t ring.toNat d) ring.toNat) := by
  show execDescriptorComplete ring s = _
  simp only [execDescriptorComplete, hfinished, hfind]
  rfl

/-- The completion of a function that was reset. -/
theorem exec_descriptorComplete_orphan (horphan : d.orphan = true) : exec (.descriptorComplete ring) s =
    .next (settled (dropCompletion (completionTaken s ring.toNat id ids) ring.toNat) ring.toNat) := by
  rw [exec_descriptorComplete_found hfinished hfind, if_neg (by simp [horphan])]
  dsimp only
  rw [if_pos horphan]

theorem exec_descriptorComplete_waits (horphan : d.orphan = false) (hmaster : mayWrite s ring.toNat = false) : exec (.descriptorComplete ring) s = .next s := by
  rw [exec_descriptorComplete_found hfinished hfind, if_pos (by simp [horphan, hmaster])]

theorem exec_descriptorComplete_writes (horphan : d.orphan = false) (hmaster : mayWrite s ring.toNat = true) : exec (.descriptorComplete ring) s =
    .next (settled (writeCompletion (completionTaken s ring.toNat id ids) ring.toNat d) ring.toNat) := by
  rw [exec_descriptorComplete_found hfinished hfind, if_neg (by simp [hmaster])]
  dsimp only
  rw [if_neg (by simp [horphan])]

end

/-- A completion is discarded, and counted. -/
theorem completionDropped (s : State) (r id : Nat) (ids : List Nat) :
    let t := settled (dropCompletion (completionTaken s r id ids) r) r
    (getPort t (r / 8192)).cplDrop = satAdd32 (getPort s (r / 8192)).cplDrop 1 ∧ t.out = s.out ∧
      (getFn t (fnKey (r / 8192) 0)).hostFlags = raise s.fc (getFn s (fnKey (r / 8192) 0)).hostFlags hfCplDrop := by
  intro t
  have h : t = { dropCompletion (completionTaken s r id ids) r with rings := t.rings } := (settled_settled _ _).rings.frame
  refine ⟨?_, ?_, ?_⟩
  · rw [h]
    exact getPort_dropCompletion _ _
  · rw [h, dropCompletion_frame]
    rfl
  · rw [h]
    exact hostFlags_dropCompletion _ _

/-- A ring whose completion was written, and what has changed beside it. -/
structure CompletionLeft (r id : Nat) (d : DescSt) (s t : State) : Prop where
  sent : ∃ rest, t.out = s.out ++ reportWrites r d ++ [entryWrite (getRing s r) r d] ++ rest ∧
    (signalDue (getRing s r) d = false → rest = [] ∧ (getRing t r).unsig = (getRing s r).unsig + 1)
  cidx : (getRing t r).cidx = (entryPassed (getRing s r)).cidx
  phase : (getRing t r).phase = (entryPassed (getRing s r)).phase
  written : (getRing t r).written = (getRing s r).written + 1
  kept : ∀ q, q ≠ r → getRing t q = getRing s q
  cores : t.cores = s.cores
  tiers : t.tiers = s.tiers
  slots : ∀ n, getSlot t n = copyEnded r id (getSlot s n)

theorem completionLeft (s : State) (r id : Nat) (ids : List Nat) (d : DescSt) :
    CompletionLeft r id d s (settled (writeCompletion (completionTaken s r id ids) r d) r) := by
  have hsettled := settled_settled (writeCompletion (completionTaken s r id ids) r d) r
  have hwritten := writeCompletion_written (completionTaken s r id ids) r d
  have hx := getRing_completionTaken_same s r id ids
  have hslot := getSlot_completionTaken s r id ids
  have hkept := fun q (hq : q ≠ r) => getRing_completionTaken_other s id ids hq
  have htaken := completionTaken_frame s r id ids
  generalize settled (writeCompletion (completionTaken s r id ids) r d) r = t at *
  generalize writeCompletion (completionTaken s r id ids) r d = w at *
  generalize completionTaken s r id ids = v at *
  have hout : t.out = w.out := by rw [hsettled.rings.frame]
  have hring : getRing t r = { entryPassed (getRing v r) with
      unsig := (getRing w r).unsig, finished := (getRing t r).finished, open_ := (getRing t r).open_, collect := (getRing t r).collect,
      active := (getRing t r).active } := by
    rw [hsettled.indices, hwritten.ring]
  obtain ⟨rest, hsent, hquiet⟩ := hwritten.sent
  rw [hx] at hring hsent hquiet
  refine ⟨⟨rest, ?_, fun hdue => ⟨(hquiet hdue).1, ?_⟩⟩, ?_, ?_, ?_, fun q hq => ?_, ?_, ?_, fun n => ?_⟩
  · rw [hout, hsent, htaken]
    rfl
  · rw [hring, (hquiet hdue).2]
    rfl
  · rw [hring]
    rfl
  · rw [hring]
    rfl
  · rw [hring]
    rfl
  · rw [hsettled.rings.kept q (by simpa using hq), hwritten.kept q hq, hkept q hq]
  · rw [hsettled.rings.frame, hwritten.frame, htaken]
  · rw [hsettled.rings.frame, hwritten.frame, htaken]
  · rw [← hslot, hsettled.rings.frame, hwritten.frame]
    rfl

theorem completions : Completions := by
  refine ⟨fun ring s => exec_descriptorComplete_idle, ?complete, ?timer⟩
  case complete =>
    intro ring s id ids d r x master hfinished hfind
    refine ⟨fun horphan => ⟨_, exec_descriptorComplete_orphan hfinished hfind horphan, completionDropped s r id ids⟩,
      exec_descriptorComplete_waits hfinished hfind, fun horphan hmaster => ?_⟩
    have h := completionLeft s r id ids d
    obtain ⟨rest, hsent, hquiet⟩ := h.sent
    refine ⟨_, rest, exec_descriptorComplete_writes hfinished hfind horphan hmaster, ?_, completionEntry_length _ _ _, ?_, ?_, h.written,
      fun hbit hstatus hcount => hquiet ?_, h.kept, h.cores, h.tiers, h.slots⟩
    · exact hsent
    · rw [h.cidx]
      simp [entryPassed, x, r]
    · rw [h.phase]
      simp [entryPassed, x, r]
    · have hbelow : ¬ max x.modCnt 1 ≤ x.unsig + 1 := not_le.mpr hcount
      simpa [signalDue, hbit, hstatus, x, r] using hbelow
  case timer =>
    intro ring s x master
    refine ⟨fun hidle => if_pos ?_, fun htime hunsig hmaster => ?_⟩
    · simpa [x, master] using hidle
    · have h := signalRing_signalled s ring.toNat
      obtain ⟨rest, hsent⟩ := h.sent
      refine ⟨_, rest, if_neg ?_, by rw [h.ring], hsent, h.frame⟩
      simpa [x, master, not_or] using And.intro htime (And.intro hunsig hmaster)

end Sys2Proof.Machine

open Sys2Proof.Machine

/-- Settles O30: polls by induction over the rings looked at, fetches and completions branch by branch, a completion by what each of its stages keeps. -/
theorem ringTraffic : Obligations.RingTraffic := ⟨doorbellsAndFetch, completions⟩

end

section
/-! PROOFS. Arbiters (R238, R358 to R363): what is parked, which request a decision grants, who waits, and what a requester fence takes. -/

namespace Sys2Proof.Machine

/-! ### Requests (R358, R360) -/

/-- The requests of one fc in cyclic order from the pointer: those of inputs neither fenced nor parked already. -/
def asking (n : Nat) (reqs : List Nat) (a : ArbSt) : List Nat :=
  (cyclic n a.ptr).filter (fun i => reqs.contains i && !bit a.fenced i && !a.queue.contains i)

theorem lt_of_mem_cyclic {n p i : Nat} (h : i ∈ cyclic n p) : i < n := by
  obtain ⟨j, hj, rfl⟩ := List.mem_map.mp h
  exact Nat.mod_lt _ (Nat.zero_lt_of_lt (List.mem_range.mp hj))

/-- A request at an input that the arbiter does not have asks for nothing. -/
theorem asking_within (n : Nat) (reqs : List Nat) (a : ArbSt) : asking n (reqs.filter (fun i => decide (i < n))) a = asking n reqs a := by
  refine List.filter_congr fun i hi => ?_
  have hmem : (reqs.filter (fun i => decide (i < n))).contains i = reqs.contains i := by
    simp [lt_of_mem_cyclic hi]
  rw [hmem]

theorem not_fenced_of_asking {n : Nat} {reqs : List Nat} {a : ArbSt} {i : Nat} (h : i ∈ asking n reqs a) : bit a.fenced i = false := by
  have hpass := (List.mem_filter.mp h).2
  simp only [Bool.and_eq_true, Bool.not_eq_true'] at hpass
  exact hpass.1.2

/-! ### Parked requests (R360) -/

theorem parkAll_cons (a : ArbSt) (r : Nat) (rs : List Nat) : parkAll a (r :: rs) = parkAll
    (if a.queue.length < 8 then { a with queue := a.queue ++ [r], parked := satAdd32 a.parked 1 } else { a with refused := satAdd32 a.refused 1 }) rs := rfl

/-- Parking touches the queue and its two counters alone. -/
theorem parkAll_frame (a : ArbSt) (rs : List Nat) :
    parkAll a rs = { a with queue := (parkAll a rs).queue, parked := (parkAll a rs).parked, refused := (parkAll a rs).refused } := by
  induction rs generalizing a with
  | nil => rfl
  | cons r rs ih =>
    rw [parkAll_cons, ih]
    split <;> rfl

/-- Requests are parked in order while fewer than 8 entries are held. -/
theorem parkAll_queue (a : ArbSt) (rs : List Nat) : (parkAll a rs).queue = a.queue ++ rs.take (8 - a.queue.length) := by
  induction rs generalizing a with
  | nil => simp [parkAll]
  | cons r rs ih =>
    rw [parkAll_cons, ih]
    split
    case isTrue hroom =>
      have hleft : 8 - a.queue.length = 8 - (a.queue.length + 1) + 1 := by omega
      simp [hleft]
    case isFalse hfull =>
      have hnone : 8 - a.queue.length = 0 := by omega
      simp [hnone]

/-! ### The decision (R358) -/

/-- An arbiter at the start of a decision: no grant yet, and the requests of fenced inputs refused (R363). -/
def undecided (serving : Bool) (reqs : List Nat) (a : ArbSt) : ArbSt :=
  { a with lastGrant := none, busy := serving, refused := satAdd32 a.refused (reqs.filter (bit a.fenced)).eraseDups.length }

section
variable {n fc : Nat} {serving : Bool} {reqs : List Nat} {a : ArbSt}

theorem arbitrate_stopped : arbitrate n fc true serving reqs a = parkAll (undecided serving reqs a) (asking n reqs a) := rfl

theorem arbitrate_queued {h : Nat} {q : List Nat} (hq : a.queue = h :: q) : arbitrate n fc false serving reqs a =
    parkAll (grantTo n fc h { undecided serving reqs a with queue := q }) (asking n reqs a) := by
  simp only [arbitrate, hq, asking, undecided, Bool.false_eq_true, if_false]

theorem arbitrate_asked {r : Nat} {rs : List Nat} (hq : a.queue = []) (hask : asking n reqs a = r :: rs) : arbitrate n fc false serving reqs a =
    parkAll (grantTo n fc r (undecided serving reqs a)) rs := by
  unfold asking at hask
  simp only [hq] at hask
  simp only [arbitrate, hq, hask, undecided, Bool.false_eq_true, if_false]

theorem arbitrate_idle (hq : a.queue = []) (hask : asking n reqs a = []) : arbitrate n fc false serving reqs a = undecided serving reqs a := by
  unfold asking at hask
  simp only [hq] at hask
  simp only [arbitrate, hq, hask, undecided, Bool.false_eq_true, if_false]

/-- A decision changes neither the freezes nor the fences nor the dead slots. -/
theorem arbitrate_keeps (stopped : Bool) : (arbitrate n fc stopped serving reqs a).swFreeze = a.swFreeze ∧
    (arbitrate n fc stopped serving reqs a).fmFreeze = a.fmFreeze ∧ (arbitrate n fc stopped serving reqs a).fenced = a.fenced ∧
    (arbitrate n fc stopped serving reqs a).dead = a.dead := by
  cases stopped with
  | true =>
    rw [arbitrate_stopped, parkAll_frame]
    exact ⟨rfl, rfl, rfl, rfl⟩
  | false =>
    rcases hq : a.queue with _ | ⟨h, q⟩
    · rcases hask : asking n reqs a with _ | ⟨r, rs⟩
      · rw [arbitrate_idle hq hask]
        exact ⟨rfl, rfl, rfl, rfl⟩
      · rw [arbitrate_asked hq hask, parkAll_frame]
        exact ⟨rfl, rfl, rfl, rfl⟩
    · rw [arbitrate_queued hq, parkAll_frame]
      exact ⟨rfl, rfl, rfl, rfl⟩

/-- A grant moves the pointer behind its input and is counted. -/
theorem parkAll_grantTo (h : Nat) (rs : List Nat) : (parkAll (grantTo n fc h a) rs).lastGrant = some (h, fc) ∧
    (parkAll (grantTo n fc h a) rs).ptr = (h + 1) % n ∧ (parkAll (grantTo n fc h a) rs).grants = satAdd64 a.grants 1 ∧
    (parkAll (grantTo n fc h a) rs).queue = a.queue ++ rs.take (8 - a.queue.length) := by
  refine ⟨?_, ?_, ?_, parkAll_queue _ _⟩ <;> rw [parkAll_frame] <;> rfl

theorem arbitrate_stopped_grants_nothing : (arbitrate n fc true serving reqs a).lastGrant = none ∧
    (arbitrate n fc true serving reqs a).ptr = a.ptr ∧ (arbitrate n fc true serving reqs a).grants = a.grants ∧
    (arbitrate n fc true serving reqs a).queue = a.queue ++ (asking n reqs a).take (8 - a.queue.length) := by
  rw [arbitrate_stopped]
  refine ⟨?_, ?_, ?_, parkAll_queue _ _⟩ <;> rw [parkAll_frame] <;> rfl

end

/-! ### The slots that wait (R238; log entry 129) -/

section
variable {reqs : List Nat} {slots : List (Nat × Nat)} {a : ArbSt}

theorem noteOwners_frame : noteOwners reqs slots a = { a with owner := (noteOwners reqs slots a).owner } := rfl

/-- The slot of a granted input waits no longer. -/
theorem noteOwners_granted {g : Nat × Nat} (h : a.lastGrant = some g) : mget 0 (noteOwners reqs slots a).owner g.1 = 0 := by
  simp only [noteOwners, h, mget_mset_same]

/-- A slot whose request was presented and not granted waits. -/
theorem noteOwners_waiting {i slot : Nat} (hreq : i ∈ reqs) (hgrant : ∀ g, a.lastGrant = some g → g.1 ≠ i) :
    mget 0 (noteOwners reqs [(i, slot)] a).owner i = slot + 1 := by
  have hnoted : ([(i, slot)] : List (Nat × Nat)).filter (fun p => reqs.contains p.1) = [(i, slot)] := by simp [hreq]
  simp only [noteOwners, hnoted, List.foldl_cons, List.foldl_nil]
  rcases hlast : a.lastGrant with _ | g
  · exact mget_mset_same _ _ _ _
  · exact (mget_mset_other _ _ _ _ _ (hgrant g hlast).symm).trans (mget_mset_same _ _ _ _)

end

/-! ### ARBITRATION -/

/-- The inputs of an arbiter at which an ARBITRATION presents requests. -/
def presented (n : Nat) (o : ArbOp) : List Nat := (o.reqs.map (·.toNat)).filter (fun i => decide (i < n))

/-- What keeps an arbiter from a grant: a freeze, a blocked fc, or a grant still served. -/
def arbStopped (o : ArbOp) (s : State) : Bool :=
  arbFrozen (getArb s (arbKey o.cls.toNat o.index.toNat)) || arbBlocked s (arbKey o.cls.toNat o.index.toNat) || o.serving

/-- The arbiter that an ARBITRATION leaves, with the slots that wait there noted. -/
def arbitrated (o : ArbOp) (s : State) : ArbSt :=
  noteOwners (presented (arbInputs o.cls.toNat) o) (o.slots.map (fun p => (p.1.toNat, p.2.toNat)))
    (arbitrate (arbInputs o.cls.toNat) s.fc (arbStopped o s) o.serving (presented (arbInputs o.cls.toNat) o)
      (getArb s (arbKey o.cls.toNat o.index.toNat)))

theorem arbitrated_eq {o : ArbOp} {s : State} {stopped : Bool} (h : arbStopped o s = stopped) : arbitrated o s =
    noteOwners (presented (arbInputs o.cls.toNat) o) (o.slots.map (fun p => (p.1.toNat, p.2.toNat)))
      (arbitrate (arbInputs o.cls.toNat) s.fc stopped o.serving (presented (arbInputs o.cls.toNat) o)
        (getArb s (arbKey o.cls.toNat o.index.toNat))) := by
  rw [arbitrated, h]

theorem exec_arbitration {o : ArbOp} {s : State} (h : arbValid (arbKey o.cls.toNat o.index.toNat) = true) :
    exec (.arbitration o) s = .next (setArb s (arbKey o.cls.toNat o.index.toNat) (arbitrated o s)) := if_neg (by simp [h])

/-! ### WITHDRAW (R358, R359) -/

section
variable {cls : BitVec 4} {index : BitVec 12} {input : BitVec 4} {s : State}

theorem exec_withdraw (h : arbValid (arbKey cls.toNat index.toNat) = true) : exec (.withdraw cls index input) s =
    (let a := getArb s (arbKey cls.toNat index.toNat)
     if a.queue.contains input.toNat then
       .next (setArb s (arbKey cls.toNat index.toNat)
         { a with queue := a.queue.filter (· != input.toNat), owner := mset 0 a.owner input.toNat 0 })
     else if grantedNow a s.fc input.toNat then .next (setArb s (arbKey cls.toNat index.toNat) (deadSlot a))
     else .next s) := if_neg (by simp [h])

theorem grantedNow_iff {a : ArbSt} {fc i : Nat} : grantedNow a fc i = true ↔ a.lastGrant = some (i, fc) := by simp [grantedNow]

end

/-! ### The requester fence (R363) -/

theorem bit_add_two_pow {x i : Nat} (h : bit x i = false) : bit (x + 2 ^ i) i = true := by
  simp only [bit, beq_eq_false_iff_ne, beq_iff_eq] at h ⊢
  rw [Nat.add_div_right _ (Nat.two_pow_pos i)]
  omega

/-- A fence takes a grant made in this fc. -/
def ungranted (fc i : Nat) (a : ArbSt) : ArbSt := if grantedNow a fc i then deadSlot a else a

theorem ungranted_keeps (fc i : Nat) (a : ArbSt) : (ungranted fc i a).queue = a.queue ∧ (ungranted fc i a).ptr = a.ptr ∧
    (ungranted fc i a).swFreeze = a.swFreeze ∧ (ungranted fc i a).fmFreeze = a.fmFreeze := by
  unfold ungranted
  split <;> exact ⟨rfl, rfl, rfl, rfl⟩

theorem ungranted_lastGrant (fc i : Nat) (a : ArbSt) : (ungranted fc i a).lastGrant ≠ some (i, fc) := by
  unfold ungranted
  split
  case isTrue => exact nofun
  case isFalse h => exact mt grantedNow_iff.mpr h

/-- Input `i` of an arbiter behind its fence: no entry, no slot that waits, and the bit set. -/
def closedInput (i : Nat) (a : ArbSt) : ArbSt :=
  { a with queue := a.queue.filter (· != i), owner := mset 0 a.owner i 0, fenced := if bit a.fenced i then a.fenced else a.fenced + 2 ^ i }

theorem closedInput_fenced (i : Nat) (a : ArbSt) : bit (closedInput i a).fenced i = true := by
  unfold closedInput
  dsimp only
  split
  case isTrue h => exact h
  case isFalse h => exact bit_add_two_pow (Bool.not_eq_true _ ▸ h)

theorem getArb_fenceInput (s : State) (key i : Nat) :
    getArb (fenceInput s key i) key = closedInput i (ungranted s.fc i (getArb s key)) := getArb_setArb_same _ _ _

/-- What a requester fence takes and what it leaves. -/
theorem fenceInput_takes (s : State) (key i : Nat) :
    (getArb (fenceInput s key i) key).queue = (getArb s key).queue.filter (· != i) ∧ bit (getArb (fenceInput s key i) key).fenced i = true ∧
    (getArb (fenceInput s key i) key).ptr = (getArb s key).ptr ∧ (getArb (fenceInput s key i) key).swFreeze = (getArb s key).swFreeze ∧
    (getArb (fenceInput s key i) key).fmFreeze = (getArb s key).fmFreeze ∧ (getArb (fenceInput s key i) key).lastGrant ≠ some (i, s.fc) := by
  obtain ⟨hqueue, hptr, hsw, hfm⟩ := ungranted_keeps s.fc i (getArb s key)
  rw [getArb_fenceInput]
  refine ⟨?_, closedInput_fenced _ _, hptr, hsw, hfm, ungranted_lastGrant _ _ _⟩
  rw [closedInput, hqueue]

end Sys2Proof.Machine

open Sys2Proof.Machine

/-- Settles O37: a decision by its four outcomes, a withdrawal by where its request stands, a fence by the arbiter that it leaves. -/
theorem arbiters : Obligations.Arbiters := by
  refine ⟨?decision, ?withdrawal, ?fence⟩
  case decision =>
    intro o s hvalid key n a ask stopped
    refine ⟨_, exec_arbitration hvalid, rfl, fun q hq => getArb_setArb_other _ _ _ _ hq, ?_⟩
    rw [getArb_setArb_same]
    obtain ⟨hsw, hfm, hfenced, hdead⟩ := arbitrate_keeps (n := n) (fc := s.fc) (serving := o.serving)
      (reqs := presented n o) (a := a) (arbFrozen a || arbBlocked s key || o.serving)
    have hask : asking n (presented n o) a = ask := asking_within _ _ _
    refine ⟨hsw, hfm, hfenced, hdead, fun g hg => noteOwners_granted hg, fun p hslots hreq hinput hgrant => ?waits, fun hstop => ?stopped,
      fun hgo h q hq => ?queued, fun hgo hq r rs hr => ?asked, fun hgo hq hnone => ?idle⟩
    case waits =>
      have hpresent : p.1.toNat ∈ presented n o := List.mem_filter.mpr ⟨List.mem_map_of_mem hreq, decide_eq_true hinput⟩
      rw [arbitrated, hslots] at hgrant ⊢
      exact noteOwners_waiting hpresent hgrant
    case stopped =>
      rw [arbitrated_eq hstop, ← hask]
      exact arbitrate_stopped_grants_nothing
    case queued =>
      rw [arbitrated_eq (Bool.not_eq_true _ ▸ hgo), noteOwners_frame, arbitrate_queued hq, hask]
      exact parkAll_grantTo h ask
    case asked =>
      rw [arbitrated_eq (Bool.not_eq_true _ ▸ hgo), noteOwners_frame, arbitrate_asked hq (hask.trans hr)]
      obtain ⟨hgrant, hptr, -, hqueue⟩ := parkAll_grantTo (n := n) (fc := s.fc) (a := undecided o.serving (presented n o) a) r rs
      refine ⟨hgrant, hptr, ?_, not_fenced_of_asking (n := n) (reqs := presented n o) ?_⟩
      · rw [hqueue]
        simp [undecided, hq]
      · rw [hask, hr]
        exact List.mem_cons_self
    case idle =>
      rw [arbitrated_eq (Bool.not_eq_true _ ▸ hgo), noteOwners_frame, arbitrate_idle hq (hask.trans hnone)]
      exact ⟨rfl, rfl, hq⟩
  case withdrawal =>
    intro cls index input s hvalid key a i
    rw [exec_withdraw hvalid]
    refine ⟨fun hin => if_pos (by simpa using hin), fun hout hgrant => ?_, fun hout hgrant => ?_⟩
    · exact (if_neg (by simpa using hout)).trans (if_pos (grantedNow_iff.mpr hgrant))
    · exact (if_neg (by simpa using hout)).trans (if_neg (mt grantedNow_iff.mp hgrant))
  case fence =>
    intro s key i a b
    obtain ⟨hqueue, hfenced, hptr, hsw, hfm, hgrant⟩ := fenceInput_takes s key i
    exact ⟨hqueue, hfenced, hptr, hsw, hfm, hgrant, fun q hq => getArb_setArb_other _ _ _ _ hq, rfl⟩
end

section
/-! PROOFS. Sensors, derating, voltage commands and protective shutdowns (R236, R251, R253, R394, R401, R402, R450, R454, R455). -/

namespace Sys2Proof.Machine

open Sys2Proof.Claims

/-! ### Sensors (R394, R401) -/

section
variable {index : BitVec 9} {value : Int} {s : State}

theorem exec_sensorSample_unread (hindex : index.toNat ≤ 293) (h : handleUp s = false) : exec (.sensorSample index value) s = .next s :=
  (if_neg (by omega)).trans (if_pos (by simp [h]))

theorem exec_sensorSample_read (hindex : index.toNat ≤ 293) (h : handleUp s = true) : exec (.sensorSample index value) s =
    .next { s with handle := { s.handle with
      sensors := mset 0 s.handle.sensors index.toNat (if sensorGated s index.toNat = true then 0 else value) } } :=
  (if_neg (by omega)).trans (if_neg (by simp [h]))

end

/-! ### Derating (R253) -/

/-- A junction reads 100 °C or more. -/
def JunctionHot (s : State) : Prop := ∃ i, i < 150 ∧ 1600 ≤ mget 0 s.handle.sensors i

/-- Every junction reads below 98 °C. -/
def JunctionsCool (s : State) : Prop := ∀ i, i < 150 → mget 0 s.handle.sensors i < 1568

theorem junctionHot_iff {s : State} : JunctionHot s ↔ (junctions s).any (fun t => decide (1600 ≤ t)) = true := by
  simp [JunctionHot, junctions]

theorem junctionsCool_iff {s : State} : JunctionsCool s ↔ (junctions s).all (fun t => decide (t < 1568)) = true := by
  simp [JunctionsCool, junctions]

theorem JunctionsCool.not_hot {s : State} (h : JunctionsCool s) : ¬ JunctionHot s :=
  fun ⟨i, hi, hhot⟩ => absurd (h i hi) (by omega)

section
variable {s : State}

theorem exec_derate_hot (h : JunctionHot s) : exec .derate s = .next { s with
    clock := { s.clock with derated := min (s.clock.derated + 1) 20 },
    train := if s.clock.derated < 20 then { s.train with cycFlags := raise s.fc s.train.cycFlags 2 } else s.train } :=
  if_pos (junctionHot_iff.mp h)

theorem exec_derate_cool (h : JunctionsCool s) : exec .derate s = .next { s with clock := { s.clock with derated := s.clock.derated - 1 } } := by
  refine (if_neg (mt junctionHot_iff.mpr h.not_hot)).trans ?_
  rw [if_pos (junctionsCool_iff.mp h)]

theorem exec_derate_between (hhot : ¬ JunctionHot s) (hcool : ¬ JunctionsCool s) : exec .derate s = .next s := by
  refine (if_neg (mt junctionHot_iff.mpr hhot)).trans ?_
  rw [if_neg (mt junctionsCool_iff.mpr hcool)]

end

/-- DERATE moves the thermal limit by one step and may raise the flag; nothing else changes. -/
theorem derate_step (s : State) : ∃ t, exec .derate s = .next t ∧
    t = { s with clock := { s.clock with derated := t.clock.derated }, train := { s.train with cycFlags := t.train.cycFlags } } ∧
    (JunctionHot s → t.clock.derated = min (s.clock.derated + 1) 20 ∧
      t.train.cycFlags = (if s.clock.derated < 20 then raise s.fc s.train.cycFlags 2 else s.train.cycFlags)) ∧
    (JunctionsCool s → t.clock.derated = s.clock.derated - 1 ∧ t.train = s.train) ∧
    (¬ JunctionHot s → ¬ JunctionsCool s → t.clock.derated = s.clock.derated ∧ t.train = s.train) := by
  by_cases hhot : JunctionHot s
  · refine ⟨_, exec_derate_hot hhot, ?_, fun _ => ⟨rfl, ?_⟩, fun h => absurd hhot h.not_hot, fun h => absurd hhot h⟩ <;> split <;> rfl
  · by_cases hcool : JunctionsCool s
    · exact ⟨_, exec_derate_cool hcool, rfl, fun h => absurd h hhot, fun _ => ⟨rfl, rfl⟩, fun _ h => absurd hcool h⟩
    · exact ⟨_, exec_derate_between hhot hcool, rfl, fun h => absurd h hhot, fun h => absurd h hcool, fun _ _ => ⟨rfl, rfl⟩⟩

/-! ### Voltage commands (R402) -/

/-- A stage of the rail of quadrant `q` is in the board record. -/
def railListed (s : State) (q : Nat) : Bool := s.handle.board.any (fun b => b.stages.any (fun t => t.2 == q))

/-- 20,000 mc have passed since the last set-point of quadrant `q`. -/
def voutDue (s : State) (q : Nat) : Bool := mget 0 s.handle.vcoreMc q == 0 || decide (mget 0 s.handle.vcoreMc q + 20000 ≤ mcNow s + 1)

/-- Handle takes set-point `v` mV for quadrant `q`. -/
def voutTaken (s : State) (q v : Nat) : Bool :=
  handleUp s && railListed s q && voutDue s q && decide (600 ≤ v) && decide (v ≤ 800) && decide (Config.vcoreMin.val ≤ v)
    && decide (v ≤ vcore s q + 5) && decide (vcore s q ≤ v + 5)

/-- The set-point of a quadrant and the mc in which it was made. -/
def vcoreSet (s : State) (q v : Nat) : State :=
  { s with handle := { s.handle with vcore := mset 750 s.handle.vcore q v, vcoreMc := mset 0 s.handle.vcoreMc q (mcNow s + 1) } }

theorem voutTaken_iff {s : State} {q v : Nat} : voutTaken s q v = true ↔
    handleUp s = true ∧ (∃ b, s.handle.board = some b ∧ ∃ t ∈ b.stages, t.2 = q) ∧
    (mget 0 s.handle.vcoreMc q = 0 ∨ mget 0 s.handle.vcoreMc q + 20000 ≤ mcNow s + 1) ∧
    600 ≤ v ∧ v ≤ 800 ∧ Config.vcoreMin.val ≤ v ∧ v ≤ vcore s q + 5 ∧ vcore s q ≤ v + 5 := by
  simp only [voutTaken, railListed, voutDue, Option.any_eq_true, List.any_eq_true, beq_iff_eq, Bool.and_eq_true, Bool.or_eq_true, decide_eq_true_eq,
    and_assoc]

theorem exec_voutCommand (rail : BitVec 2) (mv : BitVec 10) (s : State) : exec (.voutCommand rail mv) s =
    if voutTaken s rail.toNat mv.toNat then .next (vcoreSet s rail.toNat mv.toNat) else .next s := by
  change execVoutCommand rail mv s = _
  unfold execVoutCommand voutTaken voutDue
  dsimp only
  cases mget 0 s.handle.vcoreMc rail.toNat <;> rfl

theorem vcore_vcoreSet_same (s : State) (q v : Nat) : vcore (vcoreSet s q v) q = v := mget_mset_same _ _ _ _

theorem vcore_vcoreSet_other (s : State) (q v : Nat) {r : Nat} (h : r ≠ q) : vcore (vcoreSet s q v) r = vcore s r := mget_mset_other _ _ _ _ _ h

theorem vcoreMc_vcoreSet (s : State) (q v : Nat) : mget 0 (vcoreSet s q v).handle.vcoreMc q = mcNow s + 1 := by
  simp [vcoreSet]

/-! ### Protective shutdowns (R454, R455) -/

theorem shutdown_unpowered {s : State} (h : s.power.on = false) (cause arg : Nat) (thermal : Bool) : shutdown s cause arg thermal = s :=
  if_pos (by simp [h])

/-- What a shutdown leaves, before it is logged. -/
def afterShutdown (s : State) (cause : Nat) (thermal : Bool) : State :=
  { coldState s with
    handle := { s.handle with fences := fenceTable s, applied := false }, fc := s.fc, rootLock := s.rootLock && cause != 2,
    power := { s.power with
      causes := s.power.causes ++ [cause], thermTrip := s.power.thermTrip || thermal, pwrFault := s.power.pwrFault || !thermal } }

theorem shutdown_powered {s : State} (h : s.power.on = true) (cause arg : Nat) (thermal : Bool) : shutdown s cause arg thermal =
    if 3 ≤ s.handle.stage then logEvent (afterShutdown s cause thermal) lgPower 0 0xFF 2 (bytesLE 1 cause ++ bytesLE 2 arg) else afterShutdown s cause thermal := by
  rw [shutdown, if_neg (by simp [h])]
  cases thermal <;> simp [afterShutdown]

/-- The log of Handle is all that a logged shutdown adds. -/
theorem shutsDown {s : State} (h : s.power.on = true) (cause arg : Nat) (thermal : Bool) : ShutsDown s (shutdown s cause arg thermal) cause thermal := by
  rw [shutdown_powered h]
  split
  case isTrue hlogged =>
    unfold ShutsDown
    rw [logEvent_handle, if_pos hlogged]
    exact ⟨rfl, rfl, rfl, rfl, rfl, rfl, rfl, rfl, rfl, rfl, rfl, rfl, rfl⟩
  case isFalse hearly => exact ⟨rfl, rfl, rfl, rfl, rfl, rfl, rfl, rfl, rfl, rfl, rfl, by rw [if_neg hearly]; rfl, rfl⟩

section
variable {stage : BitVec 7} {s : State}

theorem exec_smbalert_noFault : exec (.smbalert stage false) s = .next s := if_neg (by simp)

theorem exec_smbalert_down (h : handleUp s = false) : exec (.smbalert stage true) s = .next s := if_neg (by simp [h])

theorem exec_smbalert_fault {b : BoardRec} (hup : handleUp s = true) (hboard : s.handle.board = some b) (hlisted : ∃ r, (stage.toNat, r) ∈ b.stages.take 16) :
    exec (.smbalert stage true) s = .next (shutdown s 6 stage.toNat false) := by
  obtain ⟨r, hr⟩ := hlisted
  have hany : (b.stages.take 16).any (fun t => t.1 == stage.toNat) = true := List.any_eq_true.mpr ⟨_, hr, by simp⟩
  exact if_pos (by simp [hup, hboard, hany])

end

end Sys2Proof.Machine

namespace Sys2Proof.Claims

open Sys2Proof.Machine

theorem sensorsAndPower : SensorsAndPower := by
  refine ⟨?sample, fun s => ?derate, fun measured s => rfl, ?vout⟩
  case sample =>
    intro index value s hindex
    refine ⟨exec_sensorSample_unread hindex, fun hup => ⟨_, exec_sensorSample_read hindex hup, rfl, mget_mset_same _ _ _ _, fun j hj =>
      mget_mset_other _ _ _ _ _ hj⟩⟩
  case derate =>
    obtain ⟨t, hexec, hframe, hhot, hcool, hbetween⟩ := derate_step s
    refine ⟨t, hexec, hframe, hhot, hcool, fun hbelow ⟨i, hi, hread⟩ => hbetween ?_ ?_⟩
    · exact fun ⟨j, hj, hread⟩ => absurd (hbelow j hj) (by omega)
    · exact fun h => absurd (h i hi) (by omega)
  case vout =>
    intro rail mv s q v listed due ok
    have htaken : voutTaken s q v = true ↔ ok := voutTaken_iff
    rw [exec_voutCommand]
    exact ⟨fun hno => if_neg (mt htaken.mp hno), fun hok => ⟨_, if_pos (htaken.mpr hok), rfl, vcore_vcoreSet_same _ _ _, fun r hr =>
      vcore_vcoreSet_other _ _ _ hr, vcoreMc_vcoreSet _ _ _⟩⟩

theorem shutdowns : Shutdowns := by
  refine ⟨fun sensor s hon => ?_, fun sensor s hoff => ?_, fun stage s => ⟨exec_smbalert_noFault, exec_smbalert_down, fun b hup hon hboard hlisted =>
    ⟨_, exec_smbalert_fault hup hboard hlisted, shutsDown hon _ _ _⟩⟩⟩
  · exact ⟨⟨_, rfl, shutsDown hon _ _ _⟩, ⟨_, rfl, shutsDown hon _ _ _⟩, ⟨_, rfl, shutsDown hon _ _ _⟩,
      ⟨_, rfl, shutsDown hon _ _ _⟩, ⟨_, rfl, shutsDown hon _ _ _⟩⟩
  · have hnext (cause arg : Nat) (thermal : Bool) : (.next (shutdown s cause arg thermal) : Res) = .next s := congrArg _ (shutdown_unpowered hoff _ _ _)
    exact ⟨hnext _ _ _, hnext _ _ _, hnext _ _ _, hnext _ _ _, hnext _ _ _⟩

end Sys2Proof.Claims

/-- Settles O42: readings by what the sensors read and what Handle holds, a shutdown once for every cause. -/
theorem sensorsAndShutdowns : Obligations.SensorsAndShutdowns := ⟨Sys2Proof.Claims.sensorsAndPower, Sys2Proof.Claims.shutdowns⟩
end

section
/-! PROOFS. The PERTURB block (R249, R414 to R418, R428): who may write it, its points and their generator, and the mark of the steps in progress. -/

namespace Sys2Proof.Machine

open Sys2Proof.Claims

/-! ### Ownership (R414, R415) -/

theorem not_mayPerturb_iff {s : State} {k : Nat} (hpf : fnIsPf k = true) : ¬ MayPerturb s k ↔
    ((getFn s k).session == 0 || (getFn s k).role != 3 || (s.pert.en && s.pert.owner != (getFn s k).session)) = true := by
  simp only [MayPerturb, hpf, true_and, Bool.or_eq_true, Bool.and_eq_true, beq_iff_eq, bne_iff_ne]
  rw [← Bool.not_eq_true]
  tauto

section
variable {s : State} {k : Nat}

theorem pertWrite_permitted (h : MayPerturb s k) (g : State → State) : pertWrite s k g = g s := by
  have hpf : fnIsPf k = true := h.1
  rw [pertWrite, if_neg (by simp [hpf]), if_neg (mt (not_mayPerturb_iff hpf).mpr (not_not_intro h))]

/-- A write that is not permitted has the outcome that R415 gives it. -/
theorem pertWrite_denied (h : ¬ MayPerturb s k) (g : State → State) : (.next (pertWrite s k g) : Res) = PertDenied s k := by
  unfold pertWrite PertDenied
  cases hpf : fnIsPf k with
  | false => rfl
  | true => exact congrArg _ (if_pos ((not_mayPerturb_iff hpf).mp h))

/-! ### PERT_CTL (R415) -/

variable {w : Nat}

theorem writePertCtl_ends (h : MayPerturb s k) (hen : bit w 31 = false) :
    writePertCtl s k w = { s with pert := { s.pert with en := false, owner := 0, ownerFn := 0 } } := by
  simp [writePertCtl, pertWrite_permitted h, hen, updPert]

theorem writePertCtl_keeps (h : MayPerturb s k) (hen : bit w 31 = true) (hon : s.pert.en = true) : writePertCtl s k w = s := by
  simp [writePertCtl, pertWrite_permitted h, hen, hon]

theorem writePertCtl_begins (h : MayPerturb s k) (hen : bit w 31 = true) (hoff : s.pert.en = false) : writePertCtl s k w =
    notePerturb { s with pert := { s.pert with en := true, owner := (getFn s k).session, ownerFn := k } } := by
  simp [writePertCtl, pertWrite_permitted h, hen, hoff, updPert]

/-! ### The points (R415, R417, R418, R428) -/

theorem writePtSel_permitted (h : MayPerturb s k) :
    writePtSel s k w = updFn s k (fun f => { f with sels := mset 0 f.sels oPtSel (w % 16) }) := pertWrite_permitted h _

/-- PT_SEL takes the number of a point and touches no other select register. -/
theorem writePtSel_selects (h : MayPerturb s k) : FnOnly s (writePtSel s k w) k ∧ selOf (writePtSel s k w) k oPtSel = w % 16 ∧
    ∀ o, o ≠ oPtSel → selOf (writePtSel s k w) k o = selOf s k o := by
  rw [writePtSel_permitted h]
  refine ⟨⟨rfl, fun j hj => getFn_updFn_other _ _ _ _ hj⟩, ?_, fun o ho => ?_⟩
  · rw [selOf, getFn_updFn_same, mget_mset_same]
  · rw [selOf, getFn_updFn_same, mget_mset_other _ _ _ _ _ ho, selOf]

variable {keeps : PointSt → Bool} {g : PointSt → PointSt}

theorem pointWrite_discarded (h : MayPerturb s k) (harm : (getPoint s (selOf s k oPtSel)).arm = true)
    (hkeeps : keeps (getPoint s (selOf s k oPtSel)) = false) : pointWrite s k keeps g = raisePert s pfCfgErr := by
  simp [pointWrite, pertWrite_permitted h, harm, hkeeps]

theorem pointWrite_taken (h : MayPerturb s k)
    (hfree : (getPoint s (selOf s k oPtSel)).arm = false ∨ keeps (getPoint s (selOf s k oPtSel)) = true) :
    pointWrite s k keeps g = withPoint s (selOf s k oPtSel) (g (getPoint s (selOf s k oPtSel))) := by
  rw [pointWrite, pertWrite_permitted h]
  refine if_neg ?_
  rcases hfree with hfree | hfree <;> simp [hfree]

theorem writePtCtl_discarded (h : MayPerturb s k) (harm : (getPoint s (selOf s k oPtSel)).arm = true)
    (hnew : (getPoint s (selOf s k oPtSel)).kind ≠ bits w 30 28 ∨ (getPoint s (selOf s k oPtSel)).mode ≠ bits w 27 24) :
    writePtCtl s k w = raisePert s pfCfgErr := by
  unfold writePtCtl
  refine pointWrite_discarded h harm ?_
  rcases hnew with hnew | hnew <;> simp [hnew]

/-- An armed point keeps its count of injections over a write that keeps KIND and MODE (log entry 83). -/
theorem writePtCtl_armed (h : MayPerturb s k) {p : PointSt} (hp : getPoint s (selOf s k oPtSel) = p) (harm : p.arm = true)
    (hkind : p.kind = bits w 30 28) (hmode : p.mode = bits w 27 24) :
    writePtCtl s k w = withPoint s (selOf s k oPtSel) { p with arm := bit w 31 } := by
  subst hp
  unfold writePtCtl
  rw [pointWrite_taken h (Or.inr (by simp [hkind, hmode])), if_pos harm, ← hkind, ← hmode]

theorem writePtCtl_disarmed (h : MayPerturb s k) {p : PointSt} (hp : getPoint s (selOf s k oPtSel) = p) (harm : p.arm = false) :
    writePtCtl s k w = withPoint s (selOf s k oPtSel) { p with arm := bit w 31, kind := bits w 30 28, mode := bits w 27 24, made := 0 } := by
  subst hp
  unfold writePtCtl
  rw [pointWrite_taken h (Or.inl harm), if_neg (by simp [harm])]

end

/-! ### The steps in progress (R247, R249) -/

theorem perturbedSlot_marks {fc : Nat} {x : SlotSt} {r : RunSt} (hstep : inStep x = true) (hrun : (perturbedSlot fc x).run = some r) :
    r.perturbed = true := by
  rw [perturbedSlot, if_pos (by rw [hstep, Bool.true_or])] at hrun
  obtain ⟨q, -, rfl⟩ := Option.map_eq_some_iff.mp hrun
  rfl

theorem getSlot_notePerturb_active {s : State} (h : pertActive s = true) (n : Nat) : getSlot (notePerturb s) n = perturbedSlot s.fc (getSlot s n) := by
  rw [notePerturb_eq, if_pos h]
  exact mget_map_values (f := perturbedSlot s.fc) rfl _ _

theorem notePerturb_inactive {s : State} (h : pertActive s = false) : notePerturb s = s := by
  rw [notePerturb_eq, h]
  rfl

/-! ### The generator (R418) -/

theorem lfsr_even {g : Nat} (h : g % 2 = 0) : lfsr g = g / 2 := if_neg (by omega)

theorem lfsr_odd {g : Nat} (h : g % 2 = 1) : lfsr g = (g / 2) ^^^ 0x80200003 := if_pos h

/-- The halved value lies below the highest tap, so that an odd value does not cancel the taps and no value but 0 leads to 0. -/
theorem lfsr_pos_lt {g : Nat} (hpos : 0 < g) (hlt : g < 2 ^ 32) : 0 < lfsr g ∧ lfsr g < 2 ^ 32 := by
  rcases Nat.mod_two_eq_zero_or_one g with heven | hodd
  · rw [lfsr_even heven]
    omega
  · rw [lfsr_odd hodd]
    have hne : g / 2 ≠ 0x80200003 := by omega
    exact ⟨Nat.pos_of_ne_zero (mt Nat.xor_eq_zero_iff.mp hne), Nat.xor_lt_two_pow (by omega) (by decide)⟩

end Sys2Proof.Machine

open Sys2Proof.Machine Sys2Proof.Claims

/-- Settles O51: each write by whether it is permitted and whether its point is armed, the mark slot by slot, the generator by the parity of its value. -/
theorem perturbationPoints : Obligations.PerturbationPoints := by
  refine ⟨?writes, fun s n => ⟨getSlot_notePerturb s n, notePerturb_inactive, fun hactive hstep r hrun => ?marks, notePerturb_frame s⟩,
    fun g hpos hlt => ⟨(lfsr_pos_lt hpos hlt).1, (lfsr_pos_lt hpos hlt).2, lfsr_even, lfsr_odd⟩⟩
  case marks =>
    rw [getSlot_notePerturb_active hactive] at hrun
    exact perturbedSlot_marks hstep hrun
  case writes =>
    intro f v s h k w i p
    have hctl : exec (.pertCtl f v) s = .next (writePertCtl s k w) := exec_of_answers h (writePertCtl s · w) rfl
    have hsel : exec (.ptSel f v) s = .next (writePtSel s k w) := exec_of_answers h (writePtSel s · w) rfl
    have hpoint : exec (.ptCtl f v) s = .next (writePtCtl s k w) := exec_of_answers h (writePtCtl s · w) rfl
    have hseed : exec (.ptSeed f v) s = .next (writePtSeed s k w) := exec_of_answers h (writePtSeed s · w) rfl
    rw [hctl, hsel, hpoint, hseed]
    refine ⟨fun hdenied => ?denied, fun hmay => ?_⟩
    case denied =>
      simp only [writePertCtl, writePtSel, writePtCtl, writePtSeed, pointWrite, pertWrite_denied hdenied, and_self]
    exact ⟨fun hen => congrArg _ (writePertCtl_ends hmay hen), fun hen hon => congrArg _ (writePertCtl_keeps hmay hen hon),
      fun hen hoff => congrArg _ (writePertCtl_begins hmay hen hoff), ⟨_, rfl, writePtSel_selects hmay⟩,
      fun harm hnew => congrArg _ (writePtCtl_discarded hmay harm hnew),
      fun harm hkind hmode => congrArg _ (writePtCtl_armed hmay rfl harm hkind hmode), fun harm => congrArg _ (writePtCtl_disarmed hmay rfl harm),
      fun harm => congrArg _ (pointWrite_discarded hmay harm rfl), fun harm => congrArg _ (pointWrite_taken hmay (Or.inl harm))⟩
end

section
/-! PROOFS. Commands of the session mailbox (R268, R269, R271, R273, R274, R400): what each starts, what ends at once and with what result, and the
closing of a session. -/

namespace Sys2Proof.Machine

open Sys2Proof.Claims

/-! ### Signals of a function -/

theorem fnOnly_refl (s : State) (k : Nat) : FnOnly s s k := ⟨rfl, fun _ _ => rfl⟩

theorem fnOnly_updFn (s : State) (k : Nat) (g : FnSt → FnSt) : FnOnly s (updFn s k g) k := ⟨rfl, fun j hj => getFn_updFn_other s k g j hj⟩

theorem fnOnly_trans {s t u : State} {k : Nat} (hst : FnOnly s t k) (htu : FnOnly t u k) : FnOnly s u k :=
  ⟨by rw [htu.1, hst.1], fun j hj => (htu.2 j hj).trans (hst.2 j hj)⟩

/-- A message of a function changes only its pending bits. -/
theorem getFn_sendMsix (s : State) (k v : Nat) : getFn (sendMsix s k v) k = { getFn s k with msixPend := (getFn (sendMsix s k v) k).msixPend } := by
  unfold sendMsix
  dsimp only
  generalize (if v < vectorCount k then v else 0) = v
  split
  · rw [getFn_setFn_same]
  · rfl

theorem getFn_sendMsix_other (s : State) {k j : Nat} (v : Nat) (h : j ≠ k) : getFn (sendMsix s k v) j = getFn s j := by
  unfold sendMsix
  dsimp only
  generalize (if v < vectorCount k then v else 0) = v
  split
  · exact getFn_setFn_other _ _ _ _ h
  · rfl

theorem vectorCount_pos (k : Nat) : 0 < vectorCount k := by
  unfold vectorCount
  split <;> decide

/-- Vector 0 is signalled, or pending while it is masked. -/
theorem sendMsix_vector0 (s : State) (k : Nat) : if msixMasked (getFn s k) 0 = true then
      (sendMsix s k 0).out = s.out ∧ mget false (getFn (sendMsix s k 0) k).msixPend 0 = true
    else (sendMsix s k 0).out = s.out ++ [.msix (fnPort k) (k % 65) 0] := by
  split
  next h =>
    rw [sendMsix_masked _ _ _ (vectorCount_pos k) h, getFn_setFn_same, mget_mset_same]
    exact ⟨rfl, rfl⟩
  next h => rw [sendMsix_open _ _ _ (vectorCount_pos k) (Bool.eq_false_iff.mpr h)]

/-! ### Ends and starts of commands -/

section
variable {s u : State} {k seq result : Nat} {st : MbState}

theorem endMb_frame (s : State) (k seq result : Nat) (st : MbState) : endMb s k seq result st =
    { s with fns := (endMb s k seq result st).fns, out := (endMb s k seq result st).out } := (sendMsix_messageSent _ _ _).frame

theorem getFn_endMb (s : State) (k seq result : Nat) (st : MbState) : getFn (endMb s k seq result st) k =
    { getFn s k with mbSeq := seq, mbResult := result, mbState := st, cmd := none, msixPend := (getFn (endMb s k seq result st) k).msixPend } := by
  refine (getFn_sendMsix _ _ _).trans ?_
  rw [getFn_updFn_same]
  rfl

theorem getFn_endMb_other {j : Nat} (h : j ≠ k) : getFn (endMb s k seq result st) j = getFn s j :=
  (getFn_sendMsix_other _ _ h).trans (getFn_updFn_other _ _ _ _ h)

/-- What a command changes before it ends leaves the session and the vectors of the function alone. -/
structure MailboxKept (k : Nat) (s u : State) : Prop where
  only : FnOnly s u k
  session : (getFn u k).session = (getFn s k).session
  masked : msixMasked (getFn u k) 0 = msixMasked (getFn s k) 0

theorem MailboxKept.refl (k : Nat) (s : State) : MailboxKept k s s := ⟨fnOnly_refl s k, rfl, rfl⟩

theorem updFn_mailboxKept {g : FnSt → FnSt} (hsession : (g (getFn s k)).session = (getFn s k).session)
    (hmasked : msixMasked (g (getFn s k)) 0 = msixMasked (getFn s k) 0) : MailboxKept k s (updFn s k g) where
  only := fnOnly_updFn s k g
  session := by rw [getFn_updFn_same, hsession]
  masked := by rw [getFn_updFn_same, hmasked]

theorem MailboxKept.trans {s t u : State} (hst : MailboxKept k s t) (htu : MailboxKept k t u) : MailboxKept k s u where
  only := fnOnly_trans hst.only htu.only
  session := htu.session.trans hst.session
  masked := htu.masked.trans hst.masked

/-- The end of a command after such changes is an end at once of `s`. -/
theorem MailboxKept.endsAtOnce (h : MailboxKept k s u) : EndsAtOnce s (endMb u k seq result st) k seq result st := by
  have hout : u.out = s.out := by rw [h.only.1]
  have hsignal := sendMsix_vector0 (updFn u k (fun f => { f with mbSeq := seq, mbResult := result, mbState := st, cmd := none })) k
  have hmasked : msixMasked (getFn (updFn u k (fun f => { f with mbSeq := seq, mbResult := result, mbState := st, cmd := none })) k) 0 =
      msixMasked (getFn s k) 0 := by
    rw [getFn_updFn_same, ← h.masked]
    rfl
  rw [hmasked, updFn_out, hout] at hsignal
  refine ⟨?frame, fun j hj => (getFn_endMb_other hj).trans (h.only.2 j hj), ?_, ?_, ?_, ?_, ?_, hsignal⟩
  case frame =>
    rw [endMb_frame, h.only.1]
  all_goals rw [getFn_endMb]
  exact h.session

end

/-- The function once a write of MB_CMD is taken. -/
def mbTaken (s : State) (k seq op : Nat) : State := updFn s k (fun f => { f with mbCmd := seq * 2 ^ 24 + op })

theorem mbTaken_kept (s : State) (k seq op : Nat) : MailboxKept k s (mbTaken s k seq op) := updFn_mailboxKept rfl rfl

theorem getFn_mbTaken (s : State) (k seq op : Nat) : getFn (mbTaken s k seq op) k = { getFn s k with mbCmd := seq * 2 ^ 24 + op } := getFn_updFn_same _ _ _

/-- A function whose challenge is dropped. -/
def challengeDropped (s : State) (k : Nat) : State := updFn s k (fun f => { f with devNonce := [], role := 0 })

theorem challengeDropped_kept (s : State) (k : Nat) : MailboxKept k s (challengeDropped s k) := updFn_mailboxKept rfl rfl

/-- A command that starts once its write is taken. -/
theorem beginMb_starts (s : State) (k op seq key : Nat) : Starts s (beginMb (mbTaken s k seq op) k op seq key .busy) k op seq key := by
  have hlatched : FnOnly (mbTaken s k seq op) (beginMb (mbTaken s k seq op) k op seq key .busy) k := by
    unfold beginMb
    exact fnOnly_updFn _ _ _
  have honly := fnOnly_trans (mbTaken_kept s k seq op).only hlatched
  refine ⟨honly.1, honly.2, ?_⟩
  rw [beginMb, getFn_updFn_same, getFn_mbTaken]
  exact ⟨rfl, rfl, _, rfl, rfl, rfl, rfl, rfl, rfl, rfl, rfl, rfl, rfl, rfl⟩

/-! ### A write of MB_CMD that is taken, by state -/

section
variable {s : State} {k : Nat} (seq : Nat)

theorem writeMbCmd_taken (h : MailboxFree s k) (op : Nat) : writeMbCmd s k seq op = takeMb s k seq op := by
  obtain ⟨hready, hcmd, hbusy, hclosing⟩ := h
  simp [writeMbCmd, hready, hcmd, hbusy, hclosing]

theorem writeMbCmd_discarded (h : ¬ MailboxFree s k) (op : Nat) : writeMbCmd s k seq op = s := by
  refine if_pos ?_
  by_contra hfree
  refine h ?_
  simpa [MailboxFree, and_assoc] using hfree

theorem takeMb_open_idle (h : (getFn s k).mbState = .idle) : takeMb s k seq mbOpen =
    beginMb (mbTaken s k seq mbOpen) k mbOpen seq (getFn s k).mbKey .busy := by
  simp [takeMb, h, mbTaken]

theorem takeMb_open_busy (h : (getFn s k).mbState ≠ .idle) : takeMb s k seq mbOpen =
    endMb (mbTaken s k seq mbOpen) k seq sSessionBusy (getFn s k).mbState := by
  cases hst : (getFn s k).mbState <;> simp_all [takeMb, mbTaken]

theorem takeMb_prove_challenged (h : (getFn s k).mbState = .challenged) : takeMb s k seq mbProve =
    beginMb (mbTaken s k seq mbProve) k mbProve seq (getFn s k).chKey .busy := by
  simp [takeMb, h, mbTaken, mbProve, mbOpen]

theorem takeMb_prove_opened (h : (getFn s k).mbState = .opened) : takeMb s k seq mbProve =
    endMb (mbTaken s k seq mbProve) k seq sSessionBusy .opened := by
  simp [takeMb, h, mbTaken, mbProve, mbOpen]

theorem takeMb_prove_idle (h : (getFn s k).mbState = .idle) : takeMb s k seq mbProve =
    endMb (mbTaken s k seq mbProve) k seq sNoSession .idle := by
  simp [takeMb, h, mbTaken, mbProve, mbOpen]

theorem takeMb_close_challenged (h : (getFn s k).mbState = .challenged) : takeMb s k seq mbClose =
    endMb (challengeDropped (mbTaken s k seq mbClose) k) k seq sSuccess .idle := by
  simp [takeMb, h, mbTaken, challengeDropped, mbClose, mbProve, mbOpen]

theorem takeMb_close_opened (h : (getFn s k).mbState = .opened) : takeMb s k seq mbClose =
    beginMb (closeSession (mbTaken s k seq mbClose) k) k mbClose seq (getFn s k).mbKey .closing := by
  simp [takeMb, h, mbTaken, mbClose, mbProve, mbOpen]

theorem takeMb_close_idle (h : (getFn s k).mbState = .idle) : takeMb s k seq mbClose = endMb (mbTaken s k seq mbClose) k seq sNoSession .idle := by
  simp [takeMb, h, mbTaken, mbClose, mbProve, mbOpen]

theorem takeMb_password_busy (h : (getFn s k).mbState ≠ .idle) : takeMb s k seq mbPassword =
    endMb (mbTaken s k seq mbPassword) k seq sSessionBusy (getFn s k).mbState := by
  cases hst : (getFn s k).mbState <;> simp_all [takeMb, mbTaken, mbPassword, mbClose, mbProve, mbOpen]

theorem takeMb_password_badRole (h : (getFn s k).mbState = .idle) (hrole : keyRole (getFn s k).mbKey ≠ 4 ∨ fnIsPf k = false) :
    takeMb s k seq mbPassword = endMb (mbTaken s k seq mbPassword) k seq sBadRole .idle := by
  simp [takeMb, h, mbTaken, mbPassword, mbClose, mbProve, mbOpen, hrole]

theorem takeMb_password_badCount (h : (getFn s k).mbState = .idle) (hrole : keyRole (getFn s k).mbKey = 4) (hpf : fnIsPf k = true)
    (hlen : (getFn s k).pwLen < 8 ∨ 64 < (getFn s k).pwLen) :
    takeMb s k seq mbPassword = endMb (mbTaken s k seq mbPassword) k seq sBadCount .idle := by
  simp [takeMb, h, mbTaken, mbPassword, mbClose, mbProve, mbOpen, hrole, hpf, hlen]

theorem takeMb_password_starts (h : (getFn s k).mbState = .idle) (hrole : keyRole (getFn s k).mbKey = 4) (hpf : fnIsPf k = true)
    (hlong : 8 ≤ (getFn s k).pwLen) (hshort : (getFn s k).pwLen ≤ 64) :
    takeMb s k seq mbPassword = beginMb (mbTaken s k seq mbPassword) k mbPassword seq (getFn s k).mbKey .busy := by
  simp [takeMb, h, mbTaken, mbPassword, mbClose, mbProve, mbOpen, hrole, hpf, Nat.not_lt.mpr hlong, Nat.not_lt.mpr hshort]

theorem takeMb_undefined {op : Nat} (h : op = 0 ∨ 4 < op) : takeMb s k seq op = endMb (mbTaken s k seq op) k seq sBadOpcode (getFn s k).mbState := by
  have hopen : op ≠ mbOpen := by unfold mbOpen; omega
  have hprove : op ≠ mbProve := by unfold mbProve; omega
  have hclose : op ≠ mbClose := by unfold mbClose; omega
  have hpassword : op ≠ mbPassword := by unfold mbPassword; omega
  simp [takeMb, hopen, hprove, hclose, hpassword, mbTaken]

end

/-! ### A session that closes (R274) -/

theorem RingsOf.trans {rs : List Nat} {s t u : State} (hst : RingsOf rs s t) (htu : RingsOf rs t u) : RingsOf rs s u where
  frame := by rw [htu.frame, hst.frame]
  kept q hq := (htu.kept q hq).trans (hst.kept q hq)

theorem updRing_ringsOf {rs : List Nat} (s : State) {r : Nat} (g : RingSt → RingSt) (h : r ∈ rs) : RingsOf rs s (updRing s r g) where
  frame := rfl
  kept _ hq := getRing_updRing_other _ _ _ _ fun heq => hq (heq ▸ h)

theorem RingsOf.collecting {rs : List Nat} {s t : State} (h : RingsOf rs s t) (r : Nat) : collecting t r = collecting s r := by
  rw [h.frame]
  rfl

theorem disableRing_enable (m : Nat) (x : RingSt) : (disableRing m x).enable = false := by
  unfold disableRing settleRing
  split <;> rfl

theorem settleRing_enable (x : RingSt) : (settleRing x).enable = x.enable := by rw [settleRing_indicesKept x]

/-- A ring of a function is switched off. -/
def stopRing (k : Nat) (s : State) (r : Nat) : State := updRing s r (disableRing (readSize s (fnPort k)))

theorem disableRings_eq (s : State) (k : Nat) : disableRings s k = (fnRingList s k).foldl (stopRing k) s := rfl

theorem foldl_stopRing_ringsOf (k : Nat) {rs : List Nat} (l : List Nat) (s : State) (h : l ⊆ rs) : RingsOf rs s (l.foldl (stopRing k) s) := by
  induction l generalizing s with
  | nil => exact .refl _ _
  | cons r l ih =>
    obtain ⟨hr, hl⟩ := List.cons_subset.mp h
    exact (updRing_ringsOf s _ hr).trans (ih _ hl)

/-- A ring of the list is off in the end, and so is one that was off before. -/
theorem foldl_stopRing_enable (k : Nat) (rs : List Nat) {s : State} {q : Nat} (h : q ∈ rs ∨ (getRing s q).enable = false) :
    (getRing (rs.foldl (stopRing k) s) q).enable = false := by
  induction rs generalizing s with
  | nil => exact h.resolve_left List.not_mem_nil
  | cons r rs ih =>
    refine ih ?_
    by_cases hq : q = r
    · rw [hq, stopRing, getRing_updRing_same, disableRing_enable]
      exact .inr rfl
    · rw [stopRing, getRing_updRing_other _ _ _ _ hq]
      exact h.imp_left fun hmem => List.mem_of_ne_of_mem hq hmem

theorem disableRings_ringsOf (s : State) (k : Nat) : RingsOf (fnRingList s k) s (disableRings s k) :=
  foldl_stopRing_ringsOf k _ s (List.Subset.refl _)

theorem disableRings_enable {s : State} {k r : Nat} (h : r ∈ fnRingList s k) : (getRing (disableRings s k) r).enable = false :=
  foldl_stopRing_enable k _ (.inl h)

theorem endCollecting_runWork (s : State) (r : Nat) : RunWork s (endCollecting s r) := by
  unfold endCollecting
  split
  · exact .refl s
  · exact endRun_runWork _ _ _ _

theorem settleCollect_runWork (s : State) (r : Nat) : RunWork s (settleCollect s r) := by
  unfold settleCollect
  dsimp only
  split
  · exact (endCollecting_runWork s r).trans ⟨rfl, fun _ h => h⟩
  · exact .refl s

/-- Where no RUN collects on a ring, what settles is the ring alone. -/
theorem settleCollect_free {s : State} {r : Nat} (h : collecting s r = none) :
    settleCollect s r = updRing s r settleRing ∨ settleCollect s r = s := by
  unfold settleCollect endCollecting
  rw [h]
  exact ite_eq_or_eq _ _ _

theorem settleCollect_ringsOf {rs : List Nat} {s : State} {r : Nat} (h : collecting s r = none) (hr : r ∈ rs) : RingsOf rs s (settleCollect s r) := by
  rcases settleCollect_free h with hsettled | hsame
  · exact hsettled ▸ updRing_ringsOf s _ hr
  · rw [hsame]
    exact .refl _ _

theorem settleCollect_enable {s : State} {r : Nat} (h : collecting s r = none) (q : Nat) :
    (getRing (settleCollect s r) q).enable = (getRing s q).enable := by
  rcases settleCollect_free h with hsettled | hsame
  · rw [hsettled]
    by_cases hq : q = r
    · rw [hq, getRing_updRing_same, settleRing_enable]
    · rw [getRing_updRing_other _ _ _ _ hq]
  · rw [hsame]

/-- Rings on which no RUN collects settle: they alone change, and none of them is switched on or off. -/
theorem foldl_settleCollect_free {rs : List Nat} (l : List Nat) {s : State} (hsub : l ⊆ rs) (h : ∀ r ∈ l, collecting s r = none) :
    RingsOf rs s (l.foldl settleCollect s) ∧ ∀ q, (getRing (l.foldl settleCollect s) q).enable = (getRing s q).enable := by
  induction l generalizing s with
  | nil => exact ⟨.refl _ _, fun _ => rfl⟩
  | cons r l ih =>
    obtain ⟨hr, hl⟩ := List.cons_subset.mp hsub
    have hfree : collecting s r = none := h r List.mem_cons_self
    have hfirst : RingsOf rs s (settleCollect s r) := settleCollect_ringsOf hfree hr
    obtain ⟨hrest, henable⟩ := ih hl fun q hq => (hfirst.collecting q).trans (h q (List.mem_cons_of_mem _ hq))
    exact ⟨hfirst.trans hrest, fun q => (henable q).trans (settleCollect_enable hfree q)⟩

/-! A session that starts to close: first STATE, then the rings of the function stop, then they settle. -/

def closingFn (s : State) (k : Nat) : State := updFn s k (fun f => { f with mbState := .closing })

def closingOff (s : State) (k : Nat) : State := disableRings (closingFn s k) k

theorem closeSession_opened {s : State} {k : Nat} (h : (getFn s k).mbState = .opened) :
    closeSession s k = (fnRingList (closingOff s k) k).foldl settleCollect (closingOff s k) := by
  simp [closeSession, h, closingOff, closingFn]

theorem mem_fnRingList {s : State} {k r : Nat} : r ∈ fnRingList s k ↔ r ∈ s.rings.map (·.1) ∧ ownsRing s k r = true := by
  simp only [fnRingList, ownsRing, List.mem_filter, Bool.and_assoc]

/-- What a function owns follows from its range. -/
theorem ownsRing_eq {s t : State} {k : Nat} (hfirst : (getFn t k).ringFirst = (getFn s k).ringFirst) (hcount : (getFn t k).ringCount = (getFn s k).ringCount)
    (r : Nat) : ownsRing t k r = ownsRing s k r := by
  simp only [ownsRing, hfirst, hcount]

theorem ownsRing_closingFn (s : State) (k r : Nat) : ownsRing (closingFn s k) k r = ownsRing s k r := by
  refine ownsRing_eq ?_ ?_ r <;> rw [closingFn, getFn_updFn_same]

theorem RingsOf.getFn {rs : List Nat} {s t : State} (h : RingsOf rs s t) (j : Nat) : getFn t j = getFn s j := by
  rw [h.frame]
  rfl

theorem RingsOf.ownsRing {rs : List Nat} {s t : State} (h : RingsOf rs s t) (k r : Nat) : ownsRing t k r = ownsRing s k r := by
  refine ownsRing_eq ?_ ?_ r <;> rw [h.getFn]

theorem RunWork.getFn {s t : State} (h : RunWork s t) (j : Nat) : getFn t j = getFn s j := by
  rw [h.frame]
  rfl

theorem closingOff_ringsOf (s : State) (k : Nat) : RingsOf (fnRingList (closingFn s k) k) (closingFn s k) (closingOff s k) := disableRings_ringsOf _ _

theorem ownsRing_closingOff (s : State) (k r : Nat) : ownsRing (closingOff s k) k r = ownsRing s k r :=
  ((closingOff_ringsOf s k).ownsRing k r).trans (ownsRing_closingFn s k r)

section
variable {s : State} {k : Nat} (hopen : (getFn s k).mbState = .opened)
include hopen

/-- Of the functions only the one that closes changes, in its STATE. -/
theorem getFn_closeSession (j : Nat) : getFn (closeSession s k) j = getFn (closingFn s k) j := by
  rw [closeSession_opened hopen, (foldl_runWork _ settleCollect_runWork _ _).getFn, (closingOff_ringsOf s k).getFn]

variable (hfree : ∀ r, ownsRing s k r = true → collecting s r = none)
include hfree

/-- The rings that settle, where no RUN collects on one of them. -/
theorem closeSession_settles : RingsOf (fnRingList (closingOff s k) k) (closingOff s k) (closeSession s k) ∧
    ∀ q, (getRing (closeSession s k) q).enable = (getRing (closingOff s k) q).enable := by
  rw [closeSession_opened hopen]
  refine foldl_settleCollect_free _ (List.Subset.refl _) fun r hr => ?_
  rw [(closingOff_ringsOf s k).collecting]
  exact hfree r (ownsRing_closingOff s k r ▸ (mem_fnRingList.mp hr).2)

/-- Nothing but the function and rings that it owns changes. -/
theorem closeSession_frame : closeSession s k = { s with fns := (closeSession s k).fns, rings := (closeSession s k).rings } ∧
    ∀ q, ownsRing s k q = false → getRing (closeSession s k) q = getRing s q := by
  obtain ⟨hsettles, -⟩ := closeSession_settles hopen hfree
  have hstops := closingOff_ringsOf s k
  refine ⟨by rw [hsettles.frame, hstops.frame]; rfl, fun q hq => ?_⟩
  have hunowned (t : State) (ht : ownsRing t k q = ownsRing s k q) : q ∉ fnRingList t k := fun hmem =>
    Bool.false_ne_true (hq.symm.trans (ht.symm.trans (mem_fnRingList.mp hmem).2))
  rw [hsettles.kept q (hunowned _ (ownsRing_closingOff s k q)), hstops.kept q (hunowned _ (ownsRing_closingFn s k q))]
  rfl

/-- Every ring of the function is off. -/
theorem closeSession_off {r : Nat} (hown : ownsRing s k r = true) (hlisted : r ∈ s.rings.map (·.1)) :
    (getRing (closeSession s k) r).enable = false := by
  rw [(closeSession_settles hopen hfree).2]
  exact disableRings_enable (mem_fnRingList.mpr ⟨hlisted, (ownsRing_closingFn s k r).trans hown⟩)

end

/-- A CLOSE that starts, once its write is taken. -/
def closeTaken (s : State) (k seq : Nat) : State :=
  beginMb (closeSession (mbTaken s k seq mbClose) k) k mbClose seq (getFn s k).mbKey .closing

theorem closeTaken_closes {s : State} {k : Nat} (seq : Nat) (hopen : (getFn s k).mbState = .opened) :
    (getFn (closeTaken s k seq) k).mbState = .closing ∧ (getFn (closeTaken s k seq) k).session = (getFn s k).session ∧
    (∀ j, j ≠ k → getFn (closeTaken s k seq) j = getFn s j) ∧
    ((∀ r, collecting s r = none) → closeTaken s k seq = { s with fns := (closeTaken s k seq).fns, rings := (closeTaken s k seq).rings } ∧
      ∀ r, ownsRing s k r = true → (getRing (closeTaken s k seq) r).enable = false ∨ r ∉ s.rings.map (·.1)) := by
  have hopen' : (getFn (mbTaken s k seq mbClose) k).mbState = .opened := by rw [getFn_mbTaken]; exact hopen
  have hfns := getFn_closeSession hopen'
  refine ⟨?_, ?_, fun j hj => ?_, fun hnone => ⟨?_, fun r hown => ?_⟩⟩
  · rw [closeTaken, beginMb, getFn_updFn_same]
  · rw [closeTaken, beginMb, getFn_updFn_same, hfns, closingFn, getFn_updFn_same, getFn_mbTaken]
  · rw [closeTaken, beginMb, getFn_updFn_other _ _ _ _ hj, hfns, closingFn, getFn_updFn_other _ _ _ _ hj]
    exact (mbTaken_kept s k seq mbClose).only.2 j hj
  · have hframe := (closeSession_frame hopen' fun r _ => hnone r).1
    rw [closeTaken, beginMb, updFn, setFn, hframe]
    rfl
  · refine Classical.or_iff_not_imp_right.mpr fun hlisted => ?_
    refine closeSession_off hopen' (fun r _ => hnone r) ?_ (Classical.not_not.mp hlisted)
    refine (ownsRing_eq ?_ ?_ r).trans hown <;> rw [getFn_mbTaken]

end Sys2Proof.Machine

open Sys2Proof.Machine Sys2Proof.Claims

/-- Settles O27: a write that the mailbox discards, then the four commands in each state that takes them, then the undefined ones. -/
theorem mailboxCommands : Obligations.MailboxCommands := by
  unfold Obligations.MailboxCommands
  intro f seq s h k x
  have hopen : exec (.openMb f seq) s = .next (writeMbCmd s k seq.toNat mbOpen) := exec_of_answers h (writeMbCmd s · seq.toNat mbOpen) rfl
  have hprove : exec (.proveMb f seq) s = .next (writeMbCmd s k seq.toNat mbProve) := exec_of_answers h (writeMbCmd s · seq.toNat mbProve) rfl
  have hclose : exec (.closeMb f seq) s = .next (writeMbCmd s k seq.toNat mbClose) := exec_of_answers h (writeMbCmd s · seq.toNat mbClose) rfl
  have hpassword : exec (.passwordMb f seq) s = .next (writeMbCmd s k seq.toNat mbPassword) :=
    exec_of_answers h (writeMbCmd s · seq.toNat mbPassword) rfl
  have hany (value : Sys2Proof.Word) : exec (.mbCmd f value) s = .next (writeMbCmd s k (bits value.toNat 31 24) (bits value.toNat 7 0)) :=
    exec_of_answers h (writeMbCmd s · (bits value.toNat 31 24) (bits value.toNat 7 0)) rfl
  simp only [hopen, hprove, hclose, hpassword, hany]
  refine ⟨fun hbusy => ?discarded, fun hfree => ?taken⟩
  case discarded => simp only [writeMbCmd_discarded _ hbusy, implies_true, and_self]
  case taken =>
    simp only [writeMbCmd_taken _ hfree]
    have htaken {seq op : Nat} : MailboxKept k s (mbTaken s k seq op) := mbTaken_kept s k seq op
    refine ⟨fun hidle => ?idle, fun hchallenged => ?challenged, fun hopened => ?opened, fun value hop => ⟨_, rfl, ?undefined⟩⟩
    case idle =>
      refine ⟨⟨_, rfl, ?_⟩, ⟨_, rfl, ?_⟩, ⟨_, rfl, ?_⟩, fun hrole hpf hlong hshort => ⟨_, rfl, ?_⟩, fun hrole => ⟨_, rfl, ?_⟩,
        fun hrole hpf hlen => ⟨_, rfl, ?_⟩⟩
      · rw [takeMb_open_idle _ hidle]
        exact beginMb_starts _ _ _ _ _
      · rw [takeMb_prove_idle _ hidle]
        exact htaken.endsAtOnce
      · rw [takeMb_close_idle _ hidle]
        exact htaken.endsAtOnce
      · rw [takeMb_password_starts _ hidle hrole hpf hlong hshort]
        exact beginMb_starts _ _ _ _ _
      · rw [takeMb_password_badRole _ hidle hrole]
        exact htaken.endsAtOnce
      · rw [takeMb_password_badCount _ hidle hrole hpf hlen]
        exact htaken.endsAtOnce
    case challenged =>
      have hne : (getFn s k).mbState ≠ .idle := by rw [hchallenged]; decide
      refine ⟨⟨_, rfl, ?_⟩, ⟨_, rfl, ?_⟩, ⟨_, rfl, ?_⟩, ⟨_, rfl, ?_⟩⟩
      · rw [takeMb_open_busy _ hne, hchallenged]
        exact htaken.endsAtOnce
      · rw [takeMb_prove_challenged _ hchallenged]
        exact beginMb_starts _ _ _ _ _
      · rw [takeMb_close_challenged _ hchallenged]
        exact (htaken.trans (challengeDropped_kept _ _)).endsAtOnce
      · rw [takeMb_password_busy _ hne, hchallenged]
        exact htaken.endsAtOnce
    case opened =>
      have hne : (getFn s k).mbState ≠ .idle := by rw [hopened]; decide
      refine ⟨⟨_, rfl, ?_⟩, ⟨_, rfl, ?_⟩, ⟨_, rfl, ?_⟩⟩
      · rw [takeMb_open_busy _ hne, hopened]
        exact htaken.endsAtOnce
      · rw [takeMb_prove_opened _ hopened]
        exact htaken.endsAtOnce
      · rw [takeMb_close_opened _ hopened]
        exact closeTaken_closes _ hopened
    case undefined =>
      rw [takeMb_undefined _ hop]
      exact htaken.endsAtOnce
end

section
/-! PROOFS. Ends of mailbox commands, session identifiers and lock-outs (R269, R271 to R274). -/

namespace Sys2Proof.Machine

open Sys2Proof.Claims

/-! ### Lock-out records (R272) -/

theorem getLock_setLock_same (s : State) (k : Nat) (l : LockSt) : getLock (setLock s k l) k = l := by simp [getLock, setLock, updHandle]

theorem getLock_setLock_other (s : State) {k j : Nat} (l : LockSt) (h : j ≠ k) : getLock (setLock s k l) j = getLock s j := by
  simp [getLock, setLock, updHandle, mget_mset_other _ _ _ _ _ h]

theorem failLock_fails (l : LockSt) : (failLock l).fails = l.fails + 1 := by
  unfold failLock
  dsimp only
  split <;> rfl

/-- A failure under a lock is counted and leaves the lock as it is. -/
theorem failLock_locked {l : LockSt} (h : l.locked = true) : failLock l = { l with fails := l.fails + 1 } := by simp [failLock, h]

theorem failLock_fourth {l : LockSt} (hlock : l.locked = false) (hfails : 3 ≤ l.fails) :
    failLock l = { fails := l.fails + 1, locked := true, secs := if l.secs = 0 then 60 else min (2 * l.secs) 3840 } := by
  have hmany : ¬ l.fails + 1 < 4 := by omega
  simp [failLock, hlock, hmany]

theorem failLock_few {l : LockSt} (hlock : l.locked = false) (hfails : l.fails < 3) : failLock l = { l with fails := l.fails + 1 } := by
  have hfew : l.fails + 1 < 4 := by omega
  simp [failLock, hlock, hfew]

/-! ### Session identifiers (R271) -/

theorem firstFree_some {taken : Nat → Bool} {n i j : Nat} (h : firstFree taken i n = some j) : i ≤ j ∧ j < i + n ∧ taken j = false := by
  induction n generalizing i with
  | zero => cases h
  | succ n ih =>
    rw [firstFree] at h
    split at h
    · obtain ⟨hlow, hhigh, hfree⟩ := ih h
      exact ⟨by omega, by omega, hfree⟩
    next hi =>
      cases h
      exact ⟨le_rfl, by omega, Bool.eq_false_iff.mpr hi⟩

theorem firstFree_full {taken : Nat → Bool} {n i : Nat} (h : firstFree taken i n = none) : ∀ j ∈ List.range' i n, taken j = true := by
  induction n generalizing i with
  | zero => simp
  | succ n ih =>
    rw [firstFree] at h
    split at h
    next hi =>
      rw [List.range'_succ]
      exact List.forall_mem_cons.mpr ⟨hi, ih h⟩
    · cases h

/-- Fewer numbers than there are to choose from leave one of them. -/
theorem firstFree_of_length_lt {l : List Nat} {i n : Nat} (h : l.length < n) : ∃ j, firstFree l.contains i n = some j := by
  rw [← Option.isSome_iff_exists, ← Option.not_isNone, Bool.not_eq_true', Bool.eq_false_iff]
  intro hnone
  have hall : List.range' i n ⊆ l := fun j hj => List.contains_iff_mem.mp (firstFree_full (Option.isNone_iff_eq_none.mp hnone) j hj)
  have hle := ((List.nodup_range' 1).subperm hall).length_le
  rw [List.length_range'] at hle
  omega

theorem sessionIdIsFree : SessionIdIsFree := by
  intro s hroom
  unfold freshId
  dsimp only
  split
  next h =>
    obtain ⟨hlow, hhigh, hfree⟩ := h
    exact ⟨hlow, hhigh, fun hmem => Bool.false_ne_true (hfree.symm.trans (List.contains_iff_mem.mpr hmem))⟩
  · obtain ⟨j, hj⟩ := firstFree_of_length_lt (i := 1) hroom
    obtain ⟨hlow, hhigh, hfree⟩ := firstFree_some hj
    rw [hj]
    exact ⟨hlow, by simp only [Option.getD_some]; omega, fun hmem => Bool.false_ne_true (hfree.symm.trans (List.contains_iff_mem.mpr hmem))⟩

/-! ### Sessions that open and end (R271, R273, R274, R416) -/

theorem endMb_handle (s : State) (k seq result : Nat) (st : MbState) : (endMb s k seq result st).handle = s.handle := by rw [endMb_frame]

theorem getLock_endMb (s : State) (k seq result : Nat) (st : MbState) (j : Nat) : getLock (endMb s k seq result st) j = getLock s j := by
  rw [getLock, endMb_handle, getLock]

/-- What a function that opens a session shows. -/
structure SessionOpened (k role keyId domain : Nat) (mac : List Byte) (s t : State) : Prop where
  state : (getFn t k).mbState = .opened
  result : (getFn t k).mbResult = sSuccess
  role : (getFn t k).role = role
  keyId : (getFn t k).keyId = keyId
  domain : (getFn t k).domain = domain
  chk : (getFn t k).chk = []
  mac : (getFn t k).devMac = mac
  locks : ∀ j, getLock t j = getLock s j

theorem openSession_opened (s : State) (k seq role keyId domain : Nat) (mac : List Byte) :
    SessionOpened k role keyId domain mac s (openSession s k seq role keyId domain mac false) := by
  unfold openSession
  simp only [Bool.false_eq_true, if_false]
  constructor
  case locks =>
    intro j
    rw [getLock_endMb]
    rfl
  all_goals rw [getFn_endMb, getFn_updFn_same]

theorem endSession_frame (s : State) (k : Nat) : endSession s k =
    { s with fns := (endSession s k).fns, pert := (endSession s k).pert, tiers := (endSession s k).tiers } := by
  unfold endSession
  dsimp only
  split <;> rfl

/-- The end of a session clears what the function held, and where it owned the PERTURB block its PT_SEL. -/
theorem getFn_endSession (s : State) (k : Nat) : getFn (endSession s k) k =
    { getFn s k with session := 0, role := 0, keyId := 0, domain := 0, sels := (getFn (endSession s k) k).sels } := by
  unfold endSession
  dsimp only
  rw [getFn_updFn_same]
  split
  · rw [getFn_updFn_same]
    rfl
  · rfl

theorem getFn_endSession_other (s : State) {k j : Nat} (h : j ≠ k) : getFn (endSession s k) j = getFn s j := by
  unfold endSession
  dsimp only
  rw [getFn_updFn_other _ _ _ _ h]
  split
  · rw [getFn_updFn_other _ _ _ _ h]
    rfl
  · rfl

theorem any_merase {α : Type} (m : SMap α) (i : Nat) {q : Nat × α → Bool} (hq : ∀ v, q (i, v) = false) : (merase m i).any q = m.any q := by
  induction m with
  | nil => rfl
  | cons p m ih =>
    rw [merase]
    split
    next h =>
      subst h
      rw [List.any_cons, hq, Bool.false_or, ih]
    · rw [List.any_cons, List.any_cons, ih]

theorem any_minsert {α : Type} (m : SMap α) (i : Nat) (v : α) {q : Nat × α → Bool} (hq : ∀ v, q (i, v) = false) : (minsert m i v).any q = m.any q := by
  induction m with
  | nil => simp [minsert, hq]
  | cons p m ih =>
    rw [minsert]
    split
    · rw [List.any_cons, hq, Bool.false_or]
    split
    next h =>
      subst h
      rw [List.any_cons, List.any_cons, hq, hq]
    · rw [List.any_cons, List.any_cons, ih]

/-- What holds of some other key is not touched by a write. -/
theorem any_mset {α : Type} [DecidableEq α] (d : α) (m : SMap α) (i : Nat) (v : α) {q : Nat × α → Bool} (hq : ∀ v, q (i, v) = false) :
    (mset d m i v).any q = m.any q := by
  rw [mset]
  split
  · exact any_merase m i hq
  · exact any_minsert m i v hq

/-- Whether another session holds the SERVICE role does not depend on the function itself. -/
theorem serviceHeld_updFn (s : State) (k : Nat) (g : FnSt → FnSt) : serviceHeld (updFn s k g) k = serviceHeld s k :=
  any_mset _ _ _ _ fun v => by simp

theorem challengeDropped_handle (s : State) (k : Nat) : (challengeDropped s k).handle = s.handle := rfl

theorem getLock_of_handle {s t : State} (h : t.handle = s.handle) (j : Nat) : getLock t j = getLock s j := by rw [getLock, h, getLock]

/-! ### The outcome of a command that was in progress -/

section
variable {s : State} {k : Nat} {c : MbCmd}

theorem endOpen_badRole (h : keyRole c.key = 0 ∨ 3 < keyRole c.key ∨ (fnIsPf k = false ∧ keyRole c.key ≠ 1)) :
    endOpen s k c = endMb s k c.seq sBadRole .idle := if_pos h

section
variable (hlow : 1 ≤ keyRole c.key) (hhigh : keyRole c.key ≤ 3) (hpf : fnIsPf k = true ∨ keyRole c.key = 1)
include hlow hhigh hpf

/-- A role that the function's type allows. -/
theorem role_allowed : ¬ (keyRole c.key = 0 ∨ 3 < keyRole c.key ∨ (fnIsPf k = false ∧ keyRole c.key ≠ 1)) := by
  rintro (hzero | hbeyond | ⟨hvf, hne⟩)
  · omega
  · omega
  · exact hpf.elim (fun h => Bool.false_ne_true (hvf.symm.trans h)) hne

theorem endOpen_authFail (hentry : c.entry.role ≠ keyRole c.key) : endOpen s k c = endMb s k c.seq sAuthFail .idle := by
  rw [endOpen, if_neg (role_allowed hlow hhigh hpf), if_pos hentry]

theorem endOpen_challenges (hentry : c.entry.role = keyRole c.key) (hlocked : c.locked = false) (hclose : c.thenClose = false) : endOpen s k c =
    endMb (updFn (drawBytes s 32).2 k (fun f => { f with devNonce := (drawBytes s 32).1, role := keyRole c.key, chKey := c.key, chNonce := c.nonce }))
      k c.seq sSuccess .challenged := by
  simp only [endOpen, if_neg (role_allowed hlow hhigh hpf), hentry, hlocked, hclose, ne_eq, not_true_eq_false, Bool.false_eq_true, if_false]

end

/-- The proof that PROVE compares (R270). -/
def ProofRight (s : State) (k : Nat) (c : MbCmd) : Prop :=
  array32 c.mac = hmac c.entry.key (proofMessage 1 k c.key (getFn s k).devNonce (getFn s k).chNonce)

theorem endProve_opens (hlocked : c.locked = false) (hclose : c.thenClose = false) (hentry : c.entry.role = keyRole c.key) (hproof : ProofRight s k c) :
    endProve s k c = openSession (setLock s (keyNo c.key) (passLock (getLock s (keyNo c.key)))) k c.seq (keyRole c.key) (keyNo c.key)
      (if keyRole c.key = 1 then c.entry.domain else 0)
      (hmac c.entry.key (proofMessage 2 k c.key (getFn s k).chNonce (getFn s k).devNonce)) false := by
  simp only [endProve, hlocked, hclose, Bool.false_eq_true, if_false]
  rw [if_pos ⟨hentry, hproof⟩]

theorem endProve_fails (hlocked : c.locked = false) (hproof : ¬ ProofRight s k c) :
    endProve s k c = endMb (challengeDropped (authFailure s k (keyNo c.key) (keyNo c.key)) k) k c.seq sAuthFail .idle := by
  simp only [endProve, hlocked, Bool.false_eq_true, if_false]
  rw [if_neg fun h => hproof h.2]
  rfl

/-- A function whose password words are cleared. -/
def passwordCleared (s : State) (k : Nat) : State := updFn s k (fun f => { f with password := [], pwLen := 0 })

theorem endPassword_fails (hlocked : c.locked = false) (hwrong : ∀ v, c.verifier = some v → verify v.1 c.password ≠ v.2) :
    endPassword s k c = endMb (authFailure (passwordCleared s k) k lockService 0) k c.seq sAuthFail .idle := by
  have hno : c.verifier.any (fun v => verify v.1 c.password == v.2) = false := by
    cases hv : c.verifier with
    | none => rfl
    | some v => simpa using hwrong v hv
  simp [endPassword, hlocked, hno, passwordCleared]

theorem endPassword_opens {v : List Byte × List Byte} (hlocked : c.locked = false) (hclose : c.thenClose = false) (hverifier : c.verifier = some v)
    (hright : verify v.1 c.password = v.2) (hheld : serviceHeld s k = false) : endPassword s k c =
    openSession (setLock (passwordCleared s k) lockService (passLock (getLock (passwordCleared s k) lockService))) k c.seq 4 0 0 [] false := by
  have hfree : serviceHeld (setLock (passwordCleared s k) lockService (passLock (getLock (passwordCleared s k) lockService))) k = false := by
    show serviceHeld (passwordCleared s k) k = false
    rw [passwordCleared, serviceHeld_updFn, hheld]
  rw [passwordCleared] at hfree
  simp [endPassword, hlocked, hclose, hverifier, hright, hfree, passwordCleared]

/-- What a failure changes before it is logged. -/
def failureCounted (s : State) (k lock : Nat) : State :=
  updFn (setLock s lock (failLock (getLock s lock))) k (fun f =>
    { f with authFails := satAdd32 f.authFails 1, hostFlags := raise s.fc f.hostFlags hfAuthFail })

theorem failureCounted_nextSeq (s : State) (k lock : Nat) : (failureCounted s k lock).handle.nextSeq = s.handle.nextSeq := rfl

theorem failureCounted_locks (s : State) (k lock : Nat) :
    (failureCounted s k lock).handle.locks = mset {} s.handle.locks lock (failLock (getLock s lock)) := rfl

theorem logEvent_locks (s : State) (src code die sev : Nat) (args : List Byte) : (logEvent s src code die sev args).handle.locks = s.handle.locks := by
  rw [logEvent_handle]

theorem logEvent_fns (s : State) (src code die sev : Nat) (args : List Byte) : (logEvent s src code die sev args).fns = s.fns := by
  rw [logEvent, updHandle]

theorem getFn_of_fns {s t : State} (h : t.fns = s.fns) (j : Nat) : getFn t j = getFn s j := by rw [getFn, h, getFn]

theorem logEvent_nextSeq (s : State) (src code die sev : Nat) (args : List Byte) :
    (logEvent s src code die sev args).handle.nextSeq = s.handle.nextSeq + 1 := by
  rw [logEvent_handle]

theorem authFailure_eq (s : State) (k lock keyId : Nat) : authFailure s k lock keyId =
    logEvent (failureCounted s k lock) lgAuth sAuthFail 0xFF 1 (bytesLE 2 (fnFunc k) ++ bytesLE 2 keyId) := rfl

/-- A failure is counted and flagged at its function (R272). -/
theorem getFn_authFailure (s : State) (k lock keyId : Nat) : getFn (authFailure s k lock keyId) k =
    { getFn s k with authFails := satAdd32 (getFn s k).authFails 1, hostFlags := raise s.fc (getFn s k).hostFlags hfAuthFail } := by
  rw [authFailure_eq, getFn_of_fns (logEvent_fns _ _ _ _ _ _), failureCounted, getFn_updFn_same]
  rfl

/-- A failure is counted for its lock (R272). -/
theorem getLock_authFailure (s : State) (k lock keyId : Nat) : getLock (authFailure s k lock keyId) lock = failLock (getLock s lock) := by
  rw [authFailure_eq, getLock, logEvent_locks, failureCounted_locks]
  exact mget_mset_same _ _ _ _

/-- A failure is written to the event log (R272). -/
theorem nextSeq_authFailure (s : State) (k lock keyId : Nat) : (authFailure s k lock keyId).handle.nextSeq = s.handle.nextSeq + 1 := by
  rw [authFailure_eq, logEvent_nextSeq, failureCounted_nextSeq]

end

/-! ### MB_COMMAND_END -/

section
variable {f : FnAddr} {s : State} (hexists : fnAddrOk f = true)
include hexists

theorem exec_mbCommandEnd_down (h : handleUp s = false) : exec (.mbCommandEnd f) s = .next s := by
  show execMbCommandEnd f s = _
  simp [execMbCommandEnd, hexists, h]

variable (hup : handleUp s = true)
include hup

theorem exec_mbCommandEnd_busy {c : MbCmd} (hstate : (getFn s (fnKeyOf f)).mbState = .busy) (hcmd : (getFn s (fnKeyOf f)).cmd = some c) :
    exec (.mbCommandEnd f) s = .next (if c.op = mbOpen then endOpen s (fnKeyOf f) c else if c.op = mbProve then endProve s (fnKeyOf f) c
      else endPassword s (fnKeyOf f) c) := by
  show execMbCommandEnd f s = _
  simp only [execMbCommandEnd, hexists, hup, hstate, hcmd, Bool.not_true, Bool.false_eq_true, if_false]
  split
  · rfl
  · split <;> rfl

theorem exec_mbCommandEnd_none (hstate : (getFn s (fnKeyOf f)).mbState ≠ .closing) (hcmd : (getFn s (fnKeyOf f)).cmd = none) :
    exec (.mbCommandEnd f) s = .next s := by
  show execMbCommandEnd f s = _
  cases hst : (getFn s (fnKeyOf f)).mbState <;> simp_all [execMbCommandEnd]

theorem exec_mbCommandEnd_waits (hstate : (getFn s (fnKeyOf f)).mbState = .closing) (hquiet : fnQuiet s (fnKeyOf f) = false) :
    exec (.mbCommandEnd f) s = .next s := by
  show execMbCommandEnd f s = _
  simp [execMbCommandEnd, hexists, hup, hstate, hquiet]

variable (hstate : (getFn s (fnKeyOf f)).mbState = .closing) (hquiet : fnQuiet s (fnKeyOf f) = true)
include hstate hquiet

theorem exec_mbCommandEnd_closed {c : MbCmd} (hcmd : (getFn s (fnKeyOf f)).cmd = some c) :
    exec (.mbCommandEnd f) s = .next (endMb (endSession s (fnKeyOf f)) (fnKeyOf f) c.seq sSuccess .idle) := by
  show execMbCommandEnd f s = _
  simp [execMbCommandEnd, hexists, hup, hstate, hquiet, hcmd]

theorem exec_mbCommandEnd_dropped (hcmd : (getFn s (fnKeyOf f)).cmd = none) :
    exec (.mbCommandEnd f) s = .next (updFn (endSession s (fnKeyOf f)) (fnKeyOf f) (fun f => { f with mbState := .idle })) := by
  show execMbCommandEnd f s = _
  simp [execMbCommandEnd, hexists, hup, hstate, hquiet, hcmd]

end

end Sys2Proof.Machine

namespace Sys2Proof.Claims

open Sys2Proof.Machine

theorem mailboxEnds : MailboxEnds := by
  intro f s c hexists
  refine ⟨exec_mbCommandEnd_down hexists, fun hup => ?_⟩
  intro k x role lock
  refine ⟨fun hstate hcmd => ?busy, fun hstate hcmd hquiet => ?closed, fun hstate hcmd hquiet => ?dropped,
    exec_mbCommandEnd_waits hexists hup, exec_mbCommandEnd_none hexists hup⟩
  case busy =>
    have hexec : exec (.mbCommandEnd f) s = _ := exec_mbCommandEnd_busy hexists hup hstate hcmd
    have hopen (h : c.op = mbOpen) : exec (.mbCommandEnd f) s = .next (endOpen s k c) := by rw [hexec, if_pos h]
    have hprove (h : c.op = mbProve) : exec (.mbCommandEnd f) s = .next (endProve s k c) := by
      rw [hexec, if_neg (by rw [h]; decide), if_pos h]
    have hpassword (h : c.op = mbPassword) : exec (.mbCommandEnd f) s = .next (endPassword s k c) := by
      rw [hexec, if_neg (by rw [h]; decide), if_neg (by rw [h]; decide)]
    refine ⟨fun hop hlow hhigh hpf hentry hlocked hclose => ⟨_, hopen hop, ?challenge⟩,
      fun hop hentry hlow hhigh hpf => ⟨_, hopen hop, ?noKey⟩, fun hop hrole => ⟨_, hopen hop, ?badRole⟩,
      fun hop hlocked hclose hentry hproof => ⟨_, hprove hop, ?proved⟩, fun hop hlocked hproof => ⟨_, hprove hop, ?unproved⟩,
      fun hop hlocked hwrong => ⟨_, hpassword hop, ?wrong⟩,
      fun v hop hlocked hclose hverifier hright hheld => ⟨_, hpassword hop, ?right⟩⟩
    case challenge =>
      rw [endOpen_challenges hlow hhigh hpf hentry hlocked hclose, getFn_endMb, getFn_updFn_same]
      exact ⟨rfl, rfl, rfl, rfl, rfl, rfl⟩
    case noKey =>
      rw [endOpen_authFail hlow hhigh hpf hentry]
      exact (MailboxKept.refl k s).endsAtOnce
    case badRole =>
      rw [endOpen_badRole hrole]
      exact (MailboxKept.refl k s).endsAtOnce
    case proved =>
      rw [endProve_opens hlocked hclose hentry hproof]
      have h := openSession_opened (setLock s lock (passLock (getLock s lock))) k c.seq role lock (if role = 1 then c.entry.domain else 0)
        (hmac c.entry.key (proofMessage 2 k c.key x.chNonce x.devNonce))
      exact ⟨h.state, h.result, h.role, h.keyId, h.domain, h.chk, (h.locks lock).trans (getLock_setLock_same _ _ _), h.mac⟩
    case unproved =>
      rw [endProve_fails hlocked hproof, getLock_endMb, endMb_handle, getFn_endMb, getLock_of_handle (challengeDropped_handle _ _), challengeDropped_handle]
      have hfn : getFn (challengeDropped (authFailure s k lock lock) k) k = { x with
          devNonce := [], role := 0, authFails := satAdd32 x.authFails 1, hostFlags := raise s.fc x.hostFlags hfAuthFail } := by
        rw [challengeDropped, getFn_updFn_same, getFn_authFailure]
      rw [hfn]
      exact ⟨rfl, rfl, rfl, rfl, getLock_authFailure s k lock lock, nextSeq_authFailure s k lock lock, rfl⟩
    case wrong =>
      rw [endPassword_fails hlocked hwrong, getLock_endMb, getFn_endMb, getFn_authFailure, passwordCleared, getFn_updFn_same]
      exact ⟨rfl, rfl, rfl, rfl, getLock_authFailure _ _ _ _⟩
    case right =>
      rw [endPassword_opens hlocked hclose hverifier hright hheld]
      have h := openSession_opened (setLock (passwordCleared s k) lockService (passLock (getLock (passwordCleared s k) lockService))) k c.seq 4 0 0 []
      exact ⟨h.state, h.result, h.role⟩
  case closed =>
    refine ⟨_, exec_mbCommandEnd_closed hexists hup hstate hquiet hcmd, ?_⟩
    rw [getFn_endMb, getFn_endSession]
    exact ⟨rfl, rfl, rfl, rfl⟩
  case dropped =>
    refine ⟨_, exec_mbCommandEnd_dropped hexists hup hstate hquiet hcmd, ?_⟩
    rw [getFn_updFn_same, getFn_endSession, updFn_out, endSession_frame]
    exact ⟨rfl, rfl, rfl, rfl, rfl⟩

theorem lockOut : LockOut := by
  refine ⟨fun l => ?failures, fun key s => ⟨_, rfl, rfl, getLock_setLock_same _ _ _, fun j hj => getLock_setLock_other _ _ hj⟩, fun f s hexists => ?expired⟩
  case failures =>
    refine ⟨failLock_fails l, failLock_locked, fun hlock hfails => ?_, fun hlock hfails => ?_, rfl⟩
    · rw [failLock_fourth hlock hfails]
      exact ⟨rfl, rfl⟩
    · rw [failLock_few hlock hfails]
      exact hlock
  case expired =>
    intro k
    refine ⟨fun hstate => ?_, fun hstate => ?_⟩
    · show execAuthExpired f s = _
      simp [execAuthExpired, hexists, show (getFn s (fnKeyOf f)).mbState ≠ .challenged from hstate]
    · have hexec : exec (.authExpired f) s = .next (sendMsix (updFn s k (fun f =>
          { f with mbState := .idle, mbResult := sAuthExpired, devNonce := [], role := 0 })) k 0) := by
        show execAuthExpired f s = _
        simp [execAuthExpired, hexists, show (getFn s (fnKeyOf f)).mbState = .challenged from hstate, k]
      refine ⟨_, hexec, ?_⟩
      refine ⟨(sendMsix_messageSent _ _ _).frame, ?_, ?_, ?_, ?_, ?_,
        fun j hj => (getFn_sendMsix_other _ _ hj).trans (getFn_updFn_other _ _ _ _ hj)⟩
      all_goals rw [getFn_sendMsix, getFn_updFn_same]

end Sys2Proof.Claims

/-- Settles O28: the ends of a command by what is in progress, an identifier by counting those that are held, a lock-out by the failures before it. -/
theorem mailboxEndsAndLockOut : Obligations.MailboxEndsAndLockOut :=
  ⟨Sys2Proof.Claims.mailboxEnds, Sys2Proof.Machine.sessionIdIsFree, Sys2Proof.Claims.lockOut⟩
end

section
/-! PROOFS. What a VF reaches (R259, R432): whatever it writes changes its own view, its rings, messages and the conversion counters of slots alone. -/

namespace Sys2Proof.Machine

open Sys2Proof.Claims

/-! ### Changes within the view of a function -/

/-- `t` is `s` but for the view of function `k`, rings that it owns, conversion counters of slots, and messages. -/
structure Confined (k : Nat) (s t : State) : Prop where
  frame : t = { s with fns := t.fns, rings := t.rings, slots := t.slots, out := t.out }
  others : ∀ j, j ≠ k → getFn t j = getFn s j
  owns : ∀ r, ownsRing t k r = ownsRing s k r
  unowned : ∀ r, ownsRing s k r = false → getRing t r = getRing s r
  slot : ∀ n, getSlot t n = { getSlot s n with conv := (getSlot t n).conv }

theorem Confined.refl (k : Nat) (s : State) : Confined k s s := ⟨rfl, fun _ _ => rfl, fun _ => rfl, fun _ _ => rfl, fun _ => rfl⟩

section
variable {k : Nat} {s t u : State}

theorem Confined.trans (hst : Confined k s t) (htu : Confined k t u) : Confined k s u where
  frame := by rw [htu.frame, hst.frame]
  others j hj := (htu.others j hj).trans (hst.others j hj)
  owns r := (htu.owns r).trans (hst.owns r)
  unowned r hr := (htu.unowned r ((hst.owns r).trans hr)).trans (hst.unowned r hr)
  slot n := by rw [htu.slot n, hst.slot n]

/-- A change of the function that leaves its range of rings as it was. -/
theorem setFn_confined {x : FnSt} (hfirst : x.ringFirst = (getFn s k).ringFirst) (hcount : x.ringCount = (getFn s k).ringCount) :
    Confined k s (setFn s k x) where
  frame := rfl
  others j hj := getFn_setFn_other _ _ _ _ hj
  owns r := ownsRing_eq (by rw [getFn_setFn_same, hfirst]) (by rw [getFn_setFn_same, hcount]) r
  unowned _ _ := rfl
  slot _ := rfl

theorem updFn_confined {g : FnSt → FnSt} (hfirst : (g (getFn s k)).ringFirst = (getFn s k).ringFirst)
    (hcount : (g (getFn s k)).ringCount = (getFn s k).ringCount) : Confined k s (updFn s k g) := setFn_confined hfirst hcount

theorem RingsOf.confined {rs : List Nat} (h : RingsOf rs s t) (hown : ∀ r ∈ rs, Machine.ownsRing s k r = true) : Confined k s t where
  frame := by rw [h.frame]
  others j _ := h.getFn j
  owns := h.ownsRing k
  unowned r hr := h.kept r fun hmem => Bool.false_ne_true (hr.symm.trans (hown r hmem))
  slot n := by
    rw [h.frame]
    rfl

theorem updRing_confined {r : Nat} (g : RingSt → RingSt) (hown : ownsRing s k r = true) : Confined k s (updRing s r g) :=
  (updRing_ringsOf s g List.mem_cons_self).confined fun _ hq => List.mem_singleton.mp hq ▸ hown

theorem raiseRing_confined (b : Nat) : Confined k s (raiseRing s k b) := by
  unfold raiseRing
  exact updFn_confined rfl rfl

theorem raiseHost_confined (b : Nat) : Confined k s (raiseHost s k b) := by
  unfold raiseHost
  exact updFn_confined rfl rfl

theorem raiseChk_confined (b : Nat) : Confined k s (raiseChk s k b) := by
  unfold raiseChk
  exact updFn_confined rfl rfl

theorem setChk_confined (u : Nat) (c : ChkSet) : Confined k s (setChk s k u c) := by
  unfold setChk
  exact updFn_confined rfl rfl

theorem putSel_confined (off v : Nat) (snap : List Nat) : Confined k s (putSel s k off v snap) := by
  unfold putSel
  exact updFn_confined rfl rfl

theorem dropHeld_confined (p : PairReg) : Confined k s (dropHeld s k p) := by
  unfold dropHeld
  exact updFn_confined rfl rfl

/-- The flags of a function's own blocks. -/
theorem writeFlags_confined {b : FlagBlock} (v : Nat) (h : b = .ring ∨ b = .host ∨ b = .chk) : Confined k s (writeFlags s k b v) := by
  rcases h with rfl | rfl | rfl
  all_goals
    unfold writeFlags setFlags
    exact updFn_confined rfl rfl

/-- The conversion counters of a slot are cleared. -/
theorem convCleared_confined (n : Nat) : Confined k s (updSlot s n (fun x => { x with conv := {} })) where
  frame := rfl
  others _ _ := rfl
  owns _ := rfl
  unowned _ _ := rfl
  slot m := by
    by_cases hm : m = n
    · rw [hm, getSlot_updSlot_same]
    · rw [getSlot_updSlot_other _ _ _ _ hm]

theorem sendMsix_confined (v : Nat) : Confined k s (sendMsix s k v) where
  frame := by rw [(sendMsix_messageSent s k v).frame]
  others j hj := getFn_sendMsix_other s v hj
  owns r := ownsRing_eq (by rw [getFn_sendMsix]) (by rw [getFn_sendMsix]) r
  unowned r _ := by
    rw [(sendMsix_messageSent s k v).frame]
    rfl
  slot n := by
    rw [(sendMsix_messageSent s k v).frame]
    rfl

end

/-! ### Messages that waited (R438) -/

/-- A message of vector `v` that waits in a function is sent where the vector is no longer masked. -/
def pendingSent (k : Nat) (s : State) (v : Nat) : State :=
  if mget false (getFn s k).msixPend v && !msixMasked (getFn s k) v then
    sendMsix (setFn s k { getFn s k with msixPend := mset false (getFn s k).msixPend v false }) k v
  else s

theorem sendPending_eq (s : State) (k : Nat) : sendPending s k = ((getFn s k).msixPend.map (·.1)).foldl (pendingSent k) s := rfl

/-- What the sending of messages that waited leaves. -/
structure PendingSent (k : Nat) (s t : State) : Prop where
  frame : t = { s with fns := t.fns, out := t.out }
  others : ∀ j, j ≠ k → getFn t j = getFn s j
  own : getFn t k = { getFn s k with msixPend := (getFn t k).msixPend }
  off : (getFn s k).cfg.msixEn = false ∨ (getFn s k).cfg.msixMask = true → t = s

theorem PendingSent.refl (k : Nat) (s : State) : PendingSent k s s := ⟨rfl, fun _ _ => rfl, rfl, fun _ => rfl⟩

theorem PendingSent.trans {k : Nat} {s t u : State} (hst : PendingSent k s t) (htu : PendingSent k t u) : PendingSent k s u where
  frame := by rw [htu.frame, hst.frame]
  others j hj := (htu.others j hj).trans (hst.others j hj)
  own := by rw [htu.own, hst.own]
  off h := by
    have hsame := hst.off h
    subst hsame
    exact htu.off h

theorem msixMasked_of_off {f : FnSt} (h : f.cfg.msixEn = false ∨ f.cfg.msixMask = true) (v : Nat) : msixMasked f v = true := by
  rcases h with h | h <;> simp [msixMasked, h]

theorem pendingSent_sent (k : Nat) (s : State) (v : Nat) : PendingSent k s (pendingSent k s v) := by
  unfold pendingSent
  split
  next h =>
    have hunmasked : msixMasked (getFn s k) v = false := by simpa using (Bool.and_eq_true_iff.mp h).2
    refine ⟨?_, fun j hj => (getFn_sendMsix_other _ _ hj).trans (getFn_setFn_other _ _ _ _ hj), ?_, fun hoff => ?_⟩
    · rw [(sendMsix_messageSent _ _ _).frame]
      rfl
    · rw [getFn_sendMsix, getFn_setFn_same]
    · exact absurd (hunmasked.symm.trans (msixMasked_of_off hoff v)) Bool.false_ne_true
  · exact .refl k s

theorem sendPending_sent (s : State) (k : Nat) : PendingSent k s (sendPending s k) := by
  rw [sendPending_eq]
  generalize (getFn s k).msixPend.map (·.1) = vs
  induction vs generalizing s with
  | nil => exact .refl k s
  | cons v vs ih => exact (pendingSent_sent k s v).trans (ih _)

theorem PendingSent.confined {k : Nat} {s t : State} (h : PendingSent k s t) : Confined k s t where
  frame := by rw [h.frame]
  others := h.others
  owns r := ownsRing_eq (by rw [h.own]) (by rw [h.own]) r
  unowned r _ := by
    rw [h.frame]
    rfl
  slot n := by
    rw [h.frame]
    rfl

/-! ### What a VF's write leaves alone (Table 11.3) -/

section
variable {s : State} {k : Nat} (hvf : fnIsPf k = false)
include hvf

theorem operatorSession_vf : operatorSession s k = false := by simp [operatorSession, hvf]

theorem writeGated_vf (g : State → State) : writeGated s k g = s := if_neg (by rw [operatorSession_vf hvf]; decide)

theorem pertWrite_vf (g : State → State) : pertWrite s k g = s := if_pos (by rw [hvf]; rfl)

theorem pointWrite_vf (keeps : PointSt → Bool) (g : PointSt → PointSt) : pointWrite s k keeps g = s := pertWrite_vf hvf _

theorem writeTorus_vf (g : TorusSt → TorusSt) : writeTorus s k g = s := if_pos (by rw [hvf]; rfl)

theorem writeFnRings_vf (v : Nat) : writeFnRings s k v = s := if_pos (by rw [hvf]; rfl)

theorem writeHmCmd_vf (seq op : Nat) : writeHmCmd s k seq op = s := if_pos (by rw [hvf]; rfl)

theorem writeCycSnap_vf (v : Nat) : writeCycSnap s k v = s := if_neg (by simp [hvf])

theorem writeWdogStatus_vf (v : Nat) : writeWdogStatus s k v = s := if_neg (by simp [hvf])

theorem writeArbCtl_vf (v : Nat) : writeArbCtl s k v = s := if_neg (by simp [hvf])

theorem writeLinkCtl_vf (p v : Nat) : writeLinkCtl s k p v = s := if_pos (by rw [operatorSession_vf hvf]; rfl)

/-- A VF clears flags of its own HOST and CHECK views only. -/
theorem writeFlags_vf {b : FlagBlock} (v : Nat) (hring : b ≠ .ring) (hhost : b ≠ .host) (hchk : b ≠ .chk) : writeFlags s k b v = s := by
  unfold writeFlags
  cases b
  case ring => exact absurd rfl hring
  case host => exact absurd rfl hhost
  case chk => exact absurd rfl hchk
  case pert => exact pertWrite_vf hvf _
  all_goals exact if_neg (by rw [hvf]; decide)

/-- HM_ARG is the PF's. -/
theorem pairDiscard_hmArg_vf : pairDiscard s k .hmArg = some s := if_neg (by rw [hvf]; decide)

theorem writePairLo_hmArg_vf (v : Nat) : writePairLo s k .hmArg v = s := by rw [writePairLo, pairDiscard_hmArg_vf hvf]

theorem writePairHi_hmArg_vf (v : Nat) : writePairHi s k .hmArg v = s := by rw [writePairHi, pairDiscard_hmArg_vf hvf]

/-- Of the blocks outside HOST, LINK and CHECK a VF reaches the three select registers of PERF and CONV_CLR. -/
theorem writeDeviceBlocks_vf (o v : Nat) : writeDeviceBlocks s k o v = s ∨ writeDeviceBlocks s k o v = writeConvSel s k v ∨
    writeDeviceBlocks s k o v = writeConvClr s k v ∨ writeDeviceBlocks s k o v = writeStepSel s k v ∨ writeDeviceBlocks s k o v = writeDevSel s k v := by
  unfold writeDeviceBlocks
  split
  case h_24 => exact .inr (.inl rfl)
  case h_25 => exact .inr (.inr (.inl rfl))
  case h_26 => exact .inr (.inr (.inr (.inl rfl)))
  case h_27 => exact .inr (.inr (.inr (.inr rfl)))
  case h_4 | h_6 | h_7 | h_12 | h_14 => exact .inl (selectHidden_vf hvf)
  case h_3 | h_5 | h_8 | h_11 | h_13 | h_16 | h_17 | h_22 | h_23 | h_29 | h_37 => exact .inl (writeFlags_vf hvf v nofun nofun nofun)
  case h_2 | h_18 | h_20 | h_21 => exact .inl (writeGated_vf hvf _)
  case h_9 | h_10 => exact .inl (writeTorus_vf hvf _)
  case h_28 | h_30 | h_35 | h_36 => exact .inl (pertWrite_vf hvf _)
  case h_31 | h_32 | h_33 | h_34 => simp only [writePtCtl, writePtTarget, writePtParam, writePtSeed, pointWrite_vf hvf, true_or]
  case h_1 => exact .inl (writeCycSnap_vf hvf v)
  case h_15 => exact .inl (writeArbCtl_vf hvf v)
  case h_19 => exact .inl (writeWdogStatus_vf hvf v)
  case h_38 => exact .inl (writeHmCmd_vf hvf _ _)
  case h_39 => exact .inl (writePairLo_hmArg_vf hvf v)
  case h_40 => exact .inl (writePairHi_hmArg_vf hvf v)
  case h_41 => exact .inl rfl

/-! ### The writes of a VF, block by block -/

/-- What a pair needs so that its commit stays within the view of function `k`: a ring's pair a ring of its own, and HM_ARG no VF. -/
theorem pairDiscard_vf (p : PairReg) : (∃ t, pairDiscard s k p = some t ∧ Confined k s t) ∨
    pairDiscard s k p = none ∧ ∀ v, Confined k s (pairSet s k v p) := by
  cases p with
  | ringSq | ringCq =>
    simp only [pairDiscard]
    split
    · exact .inl ⟨s, rfl, .refl k s⟩
    next hunowned =>
      have hown : ownsRing s k (getFn s k).ringSel = true := by simpa using hunowned
      split
      · exact .inl ⟨_, rfl, raiseRing_confined _⟩
      · refine .inr ⟨rfl, fun v => ?_⟩
        unfold pairSet
        exact updRing_confined _ hown
  | chkFold | chkRun =>
    simp only [pairDiscard]
    split
    · exact .inl ⟨_, rfl, raiseChk_confined _⟩
    · exact .inr ⟨rfl, fun v => setChk_confined _ _⟩
  | dbBase | bufBase =>
    refine .inr ⟨rfl, fun v => ?_⟩
    unfold pairSet
    exact updFn_confined rfl rfl
  | hmArg => exact .inl ⟨s, pairDiscard_hmArg_vf hvf, .refl k s⟩

theorem writePairLo_confined (p : PairReg) (v : Nat) : Confined k s (writePairLo s k p v) := by
  rcases pairDiscard_vf hvf p with ⟨t, hdiscard, ht⟩ | ⟨hdiscard, -⟩ <;> rw [writePairLo, hdiscard]
  · exact ht
  · dsimp only
    exact updFn_confined rfl rfl

theorem writePairHi_confined (p : PairReg) (v : Nat) : Confined k s (writePairHi s k p v) := by
  rcases pairDiscard_vf hvf p with ⟨t, hdiscard, ht⟩ | ⟨hdiscard, hset⟩ <;> rw [writePairHi, hdiscard]
  · exact ht
  · exact (hset _).trans (dropHeld_confined _)

end

section
variable {s : State} {k : Nat}

theorem writeMsix_confined (w v : Nat) : Confined k s (writeMsix s k w v) := by
  unfold writeMsix
  split
  · exact .refl k s
  · dsimp only
    split
    · have hmask : Confined k s (updFn s k (fun f => { f with msix := mset 0 f.msix w ((v + 1) % 2) })) := updFn_confined rfl rfl
      split
      · refine (hmask.trans ?_).trans (sendMsix_confined _)
        exact setFn_confined rfl rfl
      · exact hmask
    · exact updFn_confined rfl rfl

theorem writeRingSel_confined (v : Nat) : Confined k s (writeRingSel s k v) := by
  have hsel : Confined k s (updFn s k (fun f => { f with ringSel := v % 2 ^ 14 })) := updFn_confined rfl rfl
  exact (hsel.trans (dropHeld_confined _)).trans (dropHeld_confined _)

theorem writeRingCtl_confined (hfree : ∀ r, ownsRing s k r = true → collecting s r = none) (enable : Bool) (v : Nat) :
    Confined k s (writeRingCtl s k enable v) := by
  unfold writeRingCtl
  dsimp only
  split
  · exact .refl k s
  next hunowned =>
    have hown : ownsRing s k (getFn s k).ringSel = true := by simpa using hunowned
    split
    · exact raiseRing_confined _
    split
    · exact raiseHost_confined _
    · have hset (x : RingSt) : RingsOf [(getFn s k).ringSel] s (setRing s (getFn s k).ringSel x) := setRing_ringsOf _ _ _
      refine ((hset _).trans (settleCollect_ringsOf ?_ List.mem_cons_self)).confined fun q hq => List.mem_singleton.mp hq ▸ hown
      rw [(hset _).collecting]
      exact hfree _ hown

theorem writeChkCtl_confined (u v : Nat) : Confined k s (writeChkCtl s k u v) := by
  unfold writeChkCtl
  dsimp only
  split
  · exact raiseChk_confined _
  · exact setChk_confined _ _

theorem selectSlot_confined (off v : Nat) (g : SlotSt → List Nat) : Confined k s (selectSlot s k off v g) := putSel_confined _ _ _

theorem writeConvClr_confined (v : Nat) : Confined k s (writeConvClr s k v) := by
  unfold writeConvClr
  dsimp only
  split
  · exact convCleared_confined _
  · exact .refl k s

variable (hvf : fnIsPf k = false)
include hvf

theorem writeHostBlock_confined (hfree : ∀ r, ownsRing s k r = true → collecting s r = none) (o v : Nat) : Confined k s (writeHostBlock s k o v) := by
  unfold writeHostBlock
  split
  · split
    · exact writeMsix_confined _ _
    · exact .refl k s
  · split
    case h_1 => simpa only [hvf, Bool.false_eq_true, if_false] using Confined.refl k s
    case h_2 => exact writeFnRings_vf hvf v ▸ .refl k s
    case h_3 => exact writeRingSel_confined v
    case h_4 => exact writeRingCtl_confined hfree _ _
    case h_5 | h_7 | h_9 | h_12 => exact writePairLo_confined hvf _ v
    case h_6 | h_8 | h_10 | h_13 => exact writePairHi_confined hvf _ v
    case h_11 | h_14 => exact updFn_confined rfl rfl
    case h_15 => exact writeFlags_confined v (.inl rfl)
    case h_16 => exact writeFlags_confined v (.inr (.inl rfl))
    case h_17 => exact .refl k s

theorem writeLinkBlock_confined (p o v : Nat) : Confined k s (writeLinkBlock s k p o v) := by
  unfold writeLinkBlock
  have hflags (b : BitVec 3) : writeFlags s k (.link b) v = s := writeFlags_vf hvf v nofun nofun nofun
  rw [writeLinkCtl_vf hvf, hflags, ite_self, ite_self, ite_self]
  exact .refl k s

theorem writeCheckBlock_confined (o v : Nat) : Confined k s (writeCheckBlock s k o v) := by
  unfold writeCheckBlock
  split
  · exact writeFlags_confined v (.inr (.inr rfl))
  split
  · exact .refl k s
  · dsimp only
    split
    case h_1 => exact writeChkCtl_confined _ v
    case h_2 | h_4 => exact writePairLo_confined hvf _ v
    case h_3 | h_5 => exact writePairHi_confined hvf _ v
    case h_6 => exact .refl k s

theorem writeDeviceBlocks_confined (o v : Nat) : Confined k s (writeDeviceBlocks s k o v) := by
  rcases writeDeviceBlocks_vf hvf o v with h | h | h | h | h <;> rw [h]
  · exact .refl k s
  · exact selectSlot_confined _ _ _
  · exact writeConvClr_confined v
  · exact selectSlot_confined _ _ _
  · exact selectSlot_confined _ _ _

theorem bar0Write_confined (hfree : ∀ r, ownsRing s k r = true → collecting s r = none) (o v : Nat) : Confined k s (bar0Write s k o v) := by
  unfold bar0Write
  split
  · exact .refl k s
  split
  · exact writeHostBlock_confined hvf hfree o v
  split
  · exact writeLinkBlock_confined hvf _ _ v
  split
  · exact writeCheckBlock_confined hvf _ v
  · exact writeDeviceBlocks_confined hvf o v

end

/-! ### The mailbox and the configuration space of any function -/

section
variable {s : State} {k : Nat}

theorem endMb_confined (seq result : Nat) (st : MbState) : Confined k s (endMb s k seq result st) := by
  unfold endMb
  exact Confined.trans (updFn_confined rfl rfl) (sendMsix_confined 0)

theorem beginMb_confined (op seq key : Nat) (st : MbState) : Confined k s (beginMb s k op seq key st) := by
  unfold beginMb
  exact updFn_confined rfl rfl

theorem mbTaken_confined (seq op : Nat) : Confined k s (mbTaken s k seq op) := updFn_confined rfl rfl

theorem challengeDropped_confined (s : State) (k : Nat) : Confined k s (challengeDropped s k) := updFn_confined rfl rfl

theorem closeSession_confined (hopen : (getFn s k).mbState = .opened) (hfree : ∀ r, ownsRing s k r = true → collecting s r = none) :
    Confined k s (closeSession s k) where
  frame := by rw [(closeSession_frame hopen hfree).1]
  others j hj := (getFn_closeSession hopen j).trans (getFn_updFn_other _ _ _ _ hj)
  owns r := by
    refine ownsRing_eq ?_ ?_ r <;> rw [getFn_closeSession hopen, closingFn, getFn_updFn_same]
  unowned := (closeSession_frame hopen hfree).2
  slot n := by
    rw [(closeSession_frame hopen hfree).1]
    rfl

theorem takeMb_confined (hfree : ∀ r, ownsRing s k r = true → collecting s r = none) (seq op : Nat) : Confined k s (takeMb s k seq op) := by
  have htaken : Confined k s (mbTaken s k seq op) := mbTaken_confined seq op
  have hends (result : Nat) (st : MbState) := htaken.trans (endMb_confined seq result st)
  have hbegins (key : Nat) (st : MbState) := htaken.trans (beginMb_confined op seq key st)
  unfold takeMb
  dsimp only
  split
  · split
    · exact hbegins _ _
    · exact hends _ _
  split
  · split
    · exact hbegins _ _
    · exact hends _ _
    · exact hends _ _
  split
  · split
    · exact (htaken.trans (challengeDropped_confined _ _)).trans (endMb_confined _ _ _)
    next hopen =>
      refine (htaken.trans (closeSession_confined hopen fun r hr => ?_)).trans (beginMb_confined _ _ _ _)
      exact hfree r ((htaken.owns r).symm.trans hr)
    · exact hends _ _
  split
  · split
    · split
      · exact hends _ _
      split
      · exact hends _ _
      · exact hbegins _ _
    · exact hends _ _
  · exact hends _ _

theorem bar2Write_confined (hfree : ∀ r, ownsRing s k r = true → collecting s r = none) (o v : Nat) : Confined k s (bar2Write s k o v) := by
  unfold bar2Write
  split
  · exact .refl k s
  split
  · unfold writeMbCmd
    dsimp only
    split
    · exact .refl k s
    · exact takeMb_confined hfree _ _
  split
  · exact updFn_confined rfl rfl
  split
  · exact updFn_confined rfl rfl
  split
  · exact updFn_confined rfl rfl
  split
  · exact updFn_confined rfl rfl
  split
  · exact updFn_confined rfl rfl
  · exact .refl k s

theorem cfgWrite_confined (hvf : fnIsPf k = false) (r : CfgReg) (v : Nat) : Confined k s (cfgWrite s k r v) := by
  cases r with
  | command =>
    unfold cfgWrite
    exact updFn_confined rfl rfl
  | msixControl =>
    unfold cfgWrite
    refine Confined.trans ?_ (sendPending_sent _ k).confined
    exact updFn_confined rfl rfl
  | deviceControl | aerControl | bar | sriovControl | numVfs | vfBar => simpa [cfgWrite, hvf] using Confined.refl k s

end

end Sys2Proof.Machine

open Sys2Proof.Machine

/-- Settles O50: each of the three places a VF writes, register by register, is confined to its view. -/
theorem vfConfined : Obligations.VfConfined := by
  unfold Obligations.VfConfined
  intro f b o v s hexists hvf hfree
  suffices h : ∃ t, exec (.registerWrite f b o v) s = .next t ∧ Confined (fnKeyOf f) s t by
    obtain ⟨t, hexec, ht⟩ := h
    exact ⟨t, hexec, ht.frame, ht.others, ht.unowned, ht.slot⟩
  have hwrite {w : Nat → State} (hw : Confined (fnKeyOf f) s (w (fnKeyOf f))) :
      ∃ t, fnWrite f s (fun k => .next (w k)) = .next t ∧ Confined (fnKeyOf f) s t := by
    cases hreach : fnReach s (fnKeyOf f)
    · exact ⟨s, fnWrite_away f s _ hexists hreach, .refl _ s⟩
    · exact ⟨_, fnWrite_reached f s _ hexists hreach, hw⟩
  cases b with
  | bar0 => exact hwrite (w := fun k => bar0Write s k o.toNat v.toNat) (bar0Write_confined hvf hfree _ _)
  | bar2 => exact hwrite (w := fun k => bar2Write s k o.toNat v.toNat) (bar2Write_confined hfree _ _)
  | config r =>
    show ∃ t, execRegisterWrite f (.config r) o v s = .next t ∧ _
    simp only [execRegisterWrite, hexists, Bool.not_true, Bool.false_eq_true, if_false]
    split
    · exact ⟨s, rfl, .refl _ s⟩
    · exact ⟨_, rfl, cfgWrite_confined hvf r _⟩
end

section
/-! PROOFS. Writes of the register map and of the configuration space (R257 to R259, R264, R429 to R432, R446): which take effect, and for whom. -/

namespace Sys2Proof.Machine

open Sys2Proof.Claims

/-! ### Words of an array of bytes (R5) -/

theorem fieldLE_succ (bs : List Byte) (off n : Nat) : fieldLE bs off (n + 1) = (nth 0 bs off).toNat + 256 * fieldLE bs (off + 1) n := by
  by_cases h : off < bs.length
  · rw [fieldLE, List.drop_eq_getElem_cons h, List.take_succ_cons, ofBytesLE, nth, List.getD_eq_getElem _ _ h, fieldLE]
  · have hbeyond : bs.length ≤ off := Nat.not_lt.mp h
    rw [fieldLE, fieldLE, List.drop_eq_nil_of_le hbeyond, List.drop_eq_nil_of_le (Nat.le_succ_of_le hbeyond), nth, List.getD_eq_default _ _ hbeyond]
    simp [ofBytesLE]

theorem fieldLE_congr {as bs : List Byte} {n off : Nat} (h : ∀ j, off ≤ j → j < off + n → nth 0 as j = nth 0 bs j) : fieldLE as off n = fieldLE bs off n := by
  induction n generalizing off with
  | zero => simp [fieldLE]
  | succ n ih => rw [fieldLE_succ, fieldLE_succ, h off le_rfl (by omega), ih fun j hlow hhigh => h j (by omega) (by omega)]

/-- The bytes of a number, read back. -/
theorem fieldLE_of_bytes {bs : List Byte} {n off x : Nat} (h : ∀ i, i < n → nth 0 bs (off + i) = BitVec.ofNat 8 (x / 256 ^ i)) :
    fieldLE bs off n = x % 256 ^ n := by
  induction n generalizing off x with
  | zero => simp [fieldLE, ofBytesLE, Nat.mod_one]
  | succ n ih =>
    have hfirst : nth 0 bs off = BitVec.ofNat 8 x := by simpa using h 0 (Nat.succ_pos n)
    have hrest : fieldLE bs (off + 1) n = x / 256 % 256 ^ n := ih fun i hi => by
      rw [Nat.add_assoc, Nat.add_comm 1 i, h (i + 1) (Nat.succ_lt_succ hi), Nat.div_div_eq_div_mul, Nat.pow_succ']
    have hsplit : x % 256 ^ (n + 1) = x % 256 + 256 * (x / 256 % 256 ^ n) := by rw [Nat.pow_succ', Nat.mod_mul]
    rw [fieldLE_succ, hfirst, hrest, BitVec.toNat_ofNat, hsplit]

theorem nth_setWord {n i v j : Nat} (bs : List Byte) (hj : j < n) : nth 0 (setWord n bs i v) j =
    if j / 4 = i then BitVec.ofNat 8 (v / 2 ^ (8 * (j % 4))) else nth 0 bs j := by
  rw [nth, setWord, List.getD_eq_getElem _ _ (by simpa using hj), List.getElem_map, List.getElem_range]

theorem fieldLE_setWord_same {n i : Nat} (bs : List Byte) (v : Nat) (hi : 4 * i + 4 ≤ n) : fieldLE (setWord n bs i v) (4 * i) 4 = v % 2 ^ 32 := by
  refine fieldLE_of_bytes (n := 4) fun j hj => ?_
  have hword : (4 * i + j) / 4 = i := by omega
  have hbyte : (4 * i + j) % 4 = j := by omega
  rw [nth_setWord bs (by omega), if_pos hword, hbyte, Nat.pow_mul]

theorem fieldLE_setWord_other {n i j : Nat} (bs : List Byte) (v : Nat) (hj : 4 * j + 4 ≤ n) (hne : j ≠ i) :
    fieldLE (setWord n bs i v) (4 * j) 4 = fieldLE bs (4 * j) 4 :=
  fieldLE_congr fun b hlow hhigh => by rw [nth_setWord bs (by omega), if_neg (by omega)]

/-! ### BAR0 and BAR2 -/

section
variable {f : FnAddr} {s : State} (h : Answers f s) (o : BitVec 24) (v : Word)
include h

theorem exec_bar0Write : exec (.registerWrite f .bar0 o v) s = .next (bar0Write s (fnKeyOf f) o.toNat v.toNat) :=
  exec_of_answers h (bar0Write s · o.toNat v.toNat) rfl

theorem exec_bar2Write : exec (.registerWrite f .bar2 o v) s = .next (bar2Write s (fnKeyOf f) o.toNat v.toNat) :=
  exec_of_answers h (bar2Write s · o.toNat v.toNat) rfl

end

section
variable {s : State} {k : Nat} {o : Nat} (v : Nat)

theorem bar0Write_misaligned (h : o % 4 ≠ 0) : bar0Write s k o v = s := if_pos h

theorem bar2Write_misaligned (h : o % 4 ≠ 0) : bar2Write s k o v = s := if_pos h

/-- No register of the device blocks lies below 0x1000, in the block of the sessions or from 0xC0000 on. -/
theorem writeDeviceBlocks_unassigned (h : o < 0x1000 ∨ 0xC0000 ≤ o ∨ 0x10000 ≤ o ∧ o < 0x20000) : writeDeviceBlocks s k o v = s := by
  unfold writeDeviceBlocks
  split
  case h_41 => rfl
  all_goals omega

theorem bar0Write_unassigned (h : o < 0x1000 ∨ 0xC0000 ≤ o ∨ 0x10000 ≤ o ∧ o < 0x20000 ∨ 0xC000 ≤ o ∧ o < 0x10000) : bar0Write s k o v = s := by
  unfold bar0Write
  split
  · rfl
  split
  next hhost =>
    unfold writeHostBlock
    rw [if_pos (by omega), if_neg (by omega)]
  split
  · omega
  split
  · omega
  · exact writeDeviceBlocks_unassigned v (by omega)

theorem writeGated_operator (h : operatorSession s k = true) (g : State → State) : writeGated s k g = g s := if_pos h

theorem writeGated_denied (h : operatorSession s k = false) (g : State → State) : writeGated s k g = s := if_neg (by rw [h]; decide)

variable (s k)

theorem bar0Write_paceCap : bar0Write s k 0x1040 v = writeGated s k (fun s => { s with clock := { s.clock with paceCap := v % 2 ^ 16 } }) := rfl

theorem bar0Write_wdogLimit : bar0Write s k 0x80030 v = writeGated s k (fun s => { s with wdog := { s.wdog with limit := v } }) := rfl

theorem bar0Write_updCtl : bar0Write s k 0x80060 v =
    writeGated s k (fun s => { s with train := { s.train with updCtl := BitVec.ofNat 32 v &&& 0xFFFFFF0F#32 } }) := rfl

theorem bar0Write_commitLimit : bar0Write s k 0x80064 v =
    writeGated s k (fun s => { s with train := { s.train with commitLimit := BitVec.ofNat 32 v } }) := rfl

theorem bar0Write_dbPoll : bar0Write s k 0x2048 v = updFn s k (fun f => { f with pollEn := bit v 31, pollPer := v % 2 ^ 8 }) := rfl

theorem bar0Value_dbPoll : bar0Value s k 0x2048 = boolNat (getFn s k).pollEn * 2 ^ 31 + (getFn s k).pollPer := rfl

theorem bar2Write_mbKey : bar2Write s k 0x8 v = updFn s k (fun f => { f with mbKey := bits v 31 28 * 2 ^ 28 + bits v 9 0 }) := rfl

theorem bar2Value_mbKey : bar2Value s k 0x8 = (getFn s k).mbKey := rfl

variable {i : Nat} (hi : i < 8)
include hi

theorem bar2Write_nonce : bar2Write s k (0x20 + 4 * i) v = updFn s k (fun f => { f with hostNonce := setWord 32 f.hostNonce i v }) := by
  have hword : (0x20 + 4 * i - 0x20) / 4 = i := by omega
  rw [bar2Write, if_neg (by omega), if_neg (by omega), if_neg (by omega), if_pos (by omega), hword]

theorem bar2Value_nonce : bar2Value s k (0x20 + 4 * i) = fieldLE (getFn s k).hostNonce (4 * i) 4 := by
  have hword : (0x20 + 4 * i - 0x20) / 4 = i := by omega
  unfold bar2Value
  dsimp only
  rw [if_neg (by omega), if_neg (by omega), if_neg (by omega), if_neg (by omega), if_neg (by omega), if_neg (by omega), if_pos (by omega), hword]

/-- A word of HOST_NONCE reads back as written, and no other word changes. -/
theorem bar2Value_writeNonce (hv : v < 2 ^ 32) : bar2Value (bar2Write s k (0x20 + 4 * i) v) k (0x20 + 4 * i) = v ∧
    ∀ j, j < 8 → j ≠ i → bar2Value (bar2Write s k (0x20 + 4 * i) v) k (0x20 + 4 * j) = bar2Value s k (0x20 + 4 * j) := by
  rw [bar2Write_nonce s k v hi]
  refine ⟨?_, fun j hj hne => ?_⟩
  · rw [bar2Value_nonce _ _ hi, getFn_updFn_same, fieldLE_setWord_same _ _ (by omega), Nat.mod_eq_of_lt hv]
  · rw [bar2Value_nonce _ _ hj, bar2Value_nonce _ _ hj, getFn_updFn_same, fieldLE_setWord_other _ _ (by omega) hne]

end

end Sys2Proof.Machine

namespace Sys2Proof.Claims

open Sys2Proof.Machine

theorem registerWrites : RegisterWrites := by
  intro f o v s h k w
  have hbar0 (o : BitVec 24) : exec (.registerWrite f .bar0 o v) s = .next (bar0Write s k o.toNat w) := exec_bar0Write h o v
  have hbar2 (o : BitVec 24) : exec (.registerWrite f .bar2 o v) s = .next (bar2Write s k o.toNat w) := exec_bar2Write h o v
  refine ⟨fun hodd => ?misaligned, fun hnone => ?unassigned, fun hdenied => ?denied, fun hoperator => ?permitted,
    ⟨_, hbar2 _, ?key⟩, fun i hi => ?nonce, ⟨_, hbar0 _, ?poll⟩⟩
  case misaligned =>
    rw [hbar0, hbar2, bar0Write_misaligned w hodd, bar2Write_misaligned w hodd]
    exact ⟨rfl, rfl⟩
  case unassigned => rw [hbar0, bar0Write_unassigned w hnone]
  case denied =>
    have hgate := writeGated_denied hdenied
    exact ⟨(hbar0 _).trans (congrArg _ ((bar0Write_paceCap s k w).trans (hgate _))), (hbar0 _).trans (congrArg _ ((bar0Write_wdogLimit s k w).trans (hgate _))),
      (hbar0 _).trans (congrArg _ ((bar0Write_updCtl s k w).trans (hgate _))), (hbar0 _).trans (congrArg _ ((bar0Write_commitLimit s k w).trans (hgate _)))⟩
  case permitted =>
    have hgate := writeGated_operator hoperator
    have hword : BitVec.ofNat 32 w = v := by simp [w]
    refine ⟨(hbar0 _).trans (congrArg _ ((bar0Write_paceCap s k w).trans (hgate _))),
      (hbar0 _).trans (congrArg _ ((bar0Write_wdogLimit s k w).trans (hgate _))), ?_, ?_⟩
    · rw [hbar0]
      refine congrArg _ ((bar0Write_updCtl s k w).trans ((hgate _).trans ?_))
      rw [hword]
    · rw [hbar0]
      refine congrArg _ ((bar0Write_commitLimit s k w).trans ((hgate _).trans ?_))
      rw [hword]
  case key =>
    show FnOnly s (bar2Write s k 0x8 w) k ∧ bar2Value (bar2Write s k 0x8 w) k 0x8 = _
    rw [bar2Write_mbKey, bar2Value_mbKey, getFn_updFn_same]
    exact ⟨fnOnly_updFn s k _, rfl⟩
  case nonce =>
    have hoffset : (BitVec.ofNat 24 (0x20 + 4 * i)).toNat = 0x20 + 4 * i := by
      rw [BitVec.toNat_ofNat]
      exact Nat.mod_eq_of_lt (by omega)
    refine ⟨_, hbar2 _, ?_⟩
    rw [hoffset]
    refine ⟨?_, bar2Value_writeNonce s k w hi v.isLt⟩
    rw [bar2Write_nonce s k w hi]
    exact fnOnly_updFn s k _
  case poll =>
    show FnOnly s (bar0Write s k 0x2048 w) k ∧ bar0Value (bar0Write s k 0x2048 w) k 0x2048 = _
    rw [bar0Write_dbPoll, bar0Value_dbPoll, getFn_updFn_same]
    exact ⟨fnOnly_updFn s k _, rfl⟩

end Sys2Proof.Claims

namespace Sys2Proof.Machine

open Sys2Proof.Claims

/-! ### Resets of functions (R261, R262) -/

/-- What a reset is told of the functions and ports. -/
def hostView (s : State) : SMap FnSt × SMap HostPort := (s.fns, s.ports)

theorem getFn_of_hostView {s t : State} (h : hostView t = hostView s) (j : Nat) : getFn t j = getFn s j := getFn_of_fns (Prod.mk.inj h).1 j

theorem foldl_hostView {β : Type} (f : State → β → State) (h : ∀ s b, hostView (f s b) = hostView s) (l : List β) (s : State) :
    hostView (l.foldl f s) = hostView s := by
  induction l generalizing s with
  | nil => rfl
  | cons b l ih => exact (ih _).trans (h s b)

theorem resetRing_hostView (s : State) (r : Nat) : hostView (resetRing s r) = hostView s := by
  show hostView (endCollecting s r) = _
  rw [(endCollecting_runWork s r).frame]
  rfl

theorem abortAttempt_hostView (s : State) (n : Nat) (report : Bool) (code : Nat) : hostView (abortAttempt s n report code) = hostView s := by
  unfold abortAttempt
  split
  · rw [(stopAttempt_sound s n report code).frame]
    rfl
  · rfl

/-- A function whose rings are reset. -/
def ringsReset (s : State) (k : Nat) : State := (fnRingList s k).foldl resetRing s

theorem ringsReset_hostView (s : State) (k : Nat) : hostView (ringsReset s k) = hostView s := foldl_hostView _ resetRing_hostView _ _

/-- The end of a reset: host-placed updates that wait on the function abort (R262). -/
theorem resetFn_hostView (s : State) (k : Nat) (keepRings : Bool) :
    hostView (resetFn s k keepRings) = hostView (updFn (endSession (ringsReset s k) k) k (resetFnSt k keepRings)) := by
  refine foldl_hostView _ (fun t p => ?_) _ _
  split
  · exact abortAttempt_hostView _ _ _ _
  · rfl

/-- A reset keeps nothing of what the end of a session clears. -/
theorem getFn_resetFn (s : State) (k : Nat) (keepRings : Bool) : getFn (resetFn s k keepRings) k = resetFnSt k keepRings (getFn s k) := by
  rw [getFn_of_hostView (resetFn_hostView s k keepRings), getFn_updFn_same, getFn_endSession, getFn_of_hostView (ringsReset_hostView s k)]
  rfl

theorem getFn_resetFn_other (s : State) {k j : Nat} (keepRings : Bool) (h : j ≠ k) : getFn (resetFn s k keepRings) j = getFn s j := by
  rw [getFn_of_hostView (resetFn_hostView s k keepRings), getFn_updFn_other _ _ _ _ h, getFn_endSession_other _ h,
    getFn_of_hostView (ringsReset_hostView s k)]

theorem resetFn_ports (s : State) (k : Nat) (keepRings : Bool) : (resetFn s k keepRings).ports = s.ports := by
  rw [(Prod.mk.inj (resetFn_hostView s k keepRings)).2, updFn_ports, endSession_frame, (Prod.mk.inj (ringsReset_hostView s k)).2]

theorem resetFnSt_resetFnSt (k : Nat) (f : FnSt) : resetFnSt k true (resetFnSt k true f) = resetFnSt k true f := rfl

/-- Functions that are reset one after another, their ranges of rings kept. -/
def fnsReset (key : Nat → Nat) (l : List Nat) (s : State) : State := l.foldl (fun s i => resetFn s (key i) true) s

section
variable {key : Nat → Nat} {l : List Nat} {s : State}

theorem fnsReset_ports : (fnsReset key l s).ports = s.ports := by
  induction l generalizing s with
  | nil => rfl
  | cons i l ih => exact ih.trans (resetFn_ports _ _ _)

variable {j : Nat}

theorem getFn_fnsReset_other (h : j ∉ l.map key) : getFn (fnsReset key l s) j = getFn s j := by
  induction l generalizing s with
  | nil => rfl
  | cons i l ih =>
    rw [List.map_cons, List.mem_cons, not_or] at h
    exact (ih h.2).trans (getFn_resetFn_other s true h.1)

theorem getFn_fnsReset (h : j ∈ l.map key) : getFn (fnsReset key l s) j = resetFnSt j true (getFn s j) := by
  induction l generalizing s with
  | nil => exact absurd h List.not_mem_nil
  | cons i l ih =>
    show getFn (fnsReset key l (resetFn s (key i) true)) j = _
    by_cases hl : j ∈ l.map key
    · rw [ih hl]
      by_cases hj : j = key i
      · rw [hj, getFn_resetFn, resetFnSt_resetFnSt]
      · rw [getFn_resetFn_other _ _ hj]
    · obtain rfl : j = key i := (List.mem_cons.mp h).resolve_right hl
      rw [getFn_fnsReset_other hl, getFn_resetFn]

end

/-! ### The configuration space -/

section
variable {f : FnAddr} {s : State} (r : CfgReg) (o : BitVec 24) (v : Word)

theorem exec_cfg_absent (h : fnAddrOk f = false) : exec (.registerWrite f (.config r) o v) s = .refused .noSuchUnit := by
  show execRegisterWrite f (.config r) o v s = _
  simp [execRegisterWrite, h]

theorem exec_cfg_away (hexists : fnAddrOk f = true) (h : fnLive s (fnKeyOf f) = false ∨ s.handle.stage ≤ 3) :
    exec (.registerWrite f (.config r) o v) s = .next s := by
  have hreach : cfgReach s (fnKeyOf f) = false := by
    rcases h with h | h
    · simp [cfgReach, h]
    · simp [cfgReach, Nat.not_lt.mpr h]
  show execRegisterWrite f (.config r) o v s = _
  simp [execRegisterWrite, hexists, hreach]

theorem exec_cfg_reached (hexists : fnAddrOk f = true) (hlive : fnLive s (fnKeyOf f) = true) (hstage : 3 < s.handle.stage) :
    exec (.registerWrite f (.config r) o v) s = .next (cfgWrite s (fnKeyOf f) r v.toNat) := by
  have hreach : cfgReach s (fnKeyOf f) = true := by simp [cfgReach, hlive, hstage]
  show execRegisterWrite f (.config r) o v s = _
  simp [execRegisterWrite, hexists, hreach]

end

theorem fnPort_fnKey {p n : Nat} (h : n ≤ 64) : fnPort (fnKey p n) = p := by
  unfold fnPort fnKey
  omega

theorem fnIsPf_fnKey {p n : Nat} (h : n ≤ 64) : fnIsPf (fnKey p n) = decide (n = 0) := by
  have hmod : fnKey p n % 65 = n := by
    unfold fnKey
    omega
  rw [fnIsPf, hmod]
  rfl

theorem fnPort_fnKeyOf {f : FnAddr} (h : fnAddrOk f = true) : fnPort (fnKeyOf f) = f.port.toNat := fnPort_fnKey (of_decide_eq_true h)

section
variable {s : State} {k : Nat} (w : Nat)

/-- A configuration register of the function itself. -/
def withCfg (s : State) (k : Nat) (x : CfgSt) : State := updFn s k (fun f => { f with cfg := x })

theorem withCfg_only (s : State) (k : Nat) (x : CfgSt) : FnOnly s (withCfg s k x) k ∧ getFn (withCfg s k x) k = { getFn s k with cfg := x } :=
  ⟨fnOnly_updFn s k _, getFn_updFn_same s k _⟩

theorem cfgWrite_command : cfgWrite s k .command w = withCfg s k { (getFn s k).cfg with mem := fnIsPf k && bit w 1, master := bit w 2 } := rfl

theorem cfgWrite_msixControl : cfgWrite s k .msixControl w =
    sendPending (withCfg s k { (getFn s k).cfg with msixEn := bit w 15, msixMask := bit w 14 }) k := rfl

/-- The registers of the SR-IOV capability and the PF's own are not a VF's. -/
theorem cfgWrite_vf (hvf : fnIsPf k = false) {r : CfgReg} (hcommand : r ≠ .command) (hmsix : r ≠ .msixControl) : cfgWrite s k r w = s := by
  cases r <;> simp_all [cfgWrite]

theorem cfgWrite_absentBar {n : BitVec 3} (h : 4 ≤ n.toNat) : cfgWrite s k (.bar n) w = s ∧ cfgWrite s k (.vfBar n) w = s := by
  have htwo : ¬ n.toNat < 2 := by omega
  have hfour : ¬ n.toNat < 4 := by omega
  simp [cfgWrite, htwo, hfour]

variable (hpf : fnIsPf k = true)
include hpf

theorem cfgWrite_deviceControl : cfgWrite s k .deviceControl w =
    withCfg s k { (getFn s k).cfg with relaxed := bit w 4, mps := min (bits w 7 5) 2, mrrs := min (bits w 14 12) 5 } := if_pos hpf

theorem cfgWrite_aerControl : cfgWrite s k .aerControl w = withCfg s k { (getFn s k).cfg with ecrcGen := bit w 6, ecrcChk := bit w 8 } := if_pos hpf

theorem cfgWrite_bar0 {n : BitVec 3} (h : n.toNat < 2) : cfgWrite s k (.bar n) w =
    withCfg s k { (getFn s k).cfg with bar0 := barWrite 24 (getFn s k).cfg.bar0 (n.toNat == 1) w } := by
  simp [cfgWrite, hpf, h, withCfg, updFn]

theorem cfgWrite_bar2 {n : BitVec 3} (htwo : 2 ≤ n.toNat) (hfour : n.toNat < 4) : cfgWrite s k (.bar n) w =
    withCfg s k { (getFn s k).cfg with bar2 := barWrite 12 (getFn s k).cfg.bar2 (n.toNat == 3) w } := by
  simp [cfgWrite, hpf, Nat.not_lt.mpr htwo, hfour, withCfg, updFn]

end

section
variable {s : State} {k p : Nat} (w : Nat) (hport : fnPort k = p)
include hport

theorem cfgWrite_numVfs_locked (h : (getPort s p).vfEnable = true) : cfgWrite s k .numVfs w = s := by simp [cfgWrite, hport, h]

variable (hpf : fnIsPf k = true)
include hpf

theorem cfgWrite_numVfs (h : (getPort s p).vfEnable = false) : cfgWrite s k .numVfs w =
    setPort s p { getPort s p with numVfs := min (w % 2 ^ 16) 64 } := by simp [cfgWrite, hport, hpf, h]

theorem cfgWrite_sriov_keeps (h : (getPort s p).vfEnable = false ∨ bit w 0 = true) : cfgWrite s k .sriovControl w =
    setPort s p { getPort s p with vfEnable := bit w 0, vfMem := bit w 3 } := by
  rcases h with h | h <;> simp [cfgWrite, hport, hpf, writeSriov, h]

/-- Clearing VF Enable resets the VFs of the port. -/
theorem cfgWrite_sriov_clears (h : (getPort s p).vfEnable = true) (hclear : bit w 0 = false) : cfgWrite s k .sriovControl w =
    fnsReset (fun i => fnKey p (i + 1)) (List.range 64) (setPort s p { getPort s p with vfEnable := false, vfMem := bit w 3 }) := by
  simp [cfgWrite, hport, hpf, writeSriov, h, hclear, fnsReset]

end

/-- The VFs of a port that are reset as VF Enable is cleared. -/
theorem vfsReset (s : State) (p : Nat) (x : HostPort) (hoff : x.vfEnable = false) :
    let t := fnsReset (fun i => fnKey p (i + 1)) (List.range 64) (setPort s p x)
    getPort t p = x ∧ (∀ k, fnIsPf k = true → getFn t k = getFn s k) ∧
    ∀ n, 1 ≤ n → n ≤ 64 → getFn t (fnKey p n) = resetFnSt (fnKey p n) true (getFn s (fnKey p n)) ∧ fnReach t (fnKey p n) = false := by
  intro t
  have hport : getPort t p = x := by
    rw [getPort, fnsReset_ports]
    exact getPort_setPort_same s p x
  refine ⟨hport, fun k hpf => ?_, fun n hlow hhigh => ⟨?_, ?_⟩⟩
  · refine getFn_fnsReset_other fun hmem => ?_
    obtain ⟨i, hi, rfl⟩ := List.mem_map.mp hmem
    have hvf := fnIsPf_fnKey (p := p) (Nat.succ_le_of_lt (List.mem_range.mp hi))
    simp [hvf] at hpf
  · refine getFn_fnsReset (List.mem_map.mpr ⟨n - 1, List.mem_range.mpr (by omega), ?_⟩)
    rw [Nat.sub_add_cancel hlow]
  · have hvf : fnIsPf (fnKey p n) = false := by
      rw [fnIsPf_fnKey hhigh]
      exact decide_eq_false (by omega)
    simp [fnReach, fnLive, fnPort_fnKey hhigh, hport, hoff, hvf]

end Sys2Proof.Machine

namespace Sys2Proof.Claims

open Sys2Proof.Machine

theorem configurationWrites : ConfigurationWrites := by
  intro f o v s k p w cfg
  refine ⟨fun habsent r => exec_cfg_absent r o v habsent, fun hexists haway r => exec_cfg_away r o v hexists haway, fun hexists hlive hstage => ?_⟩
  intro x y
  have hcfg (r : CfgReg) : exec (cfg r) s = .next (cfgWrite s k r w) := exec_cfg_reached r o v hexists hlive hstage
  have hport : fnPort k = p := fnPort_fnKeyOf hexists
  refine ⟨⟨_, hcfg _, withCfg_only s k _⟩, ⟨_, hcfg _, ?msix⟩, fun hvf r hcommand hmsix => ?vf, fun hpf => ?pf⟩
  case msix =>
    rw [cfgWrite_msixControl]
    have hsent := sendPending_sent (withCfg s k { x with msixEn := bit w 15, msixMask := bit w 14 }) k
    obtain ⟨⟨hframe, hothers⟩, hown⟩ := withCfg_only s k { x with msixEn := bit w 15, msixMask := bit w 14 }
    refine ⟨?_, fun j hj => (hsent.others j hj).trans (hothers j hj), ?_, fun hoff => ?_⟩
    · rw [hsent.frame, hframe]
    · rw [hsent.own, hown]
    · rw [hsent.off (by rwa [hown])]
      rfl
  case vf => rw [hcfg, cfgWrite_vf w hvf hcommand hmsix]
  case pf =>
    refine ⟨⟨_, hcfg _, ?device⟩, ⟨_, hcfg _, ?aer⟩, ⟨_, hcfg _, ?bar0Low⟩, ⟨_, hcfg _, ?bar0High⟩, ⟨_, hcfg _, ?bar2Low⟩, ⟨_, hcfg _, ?bar2High⟩,
      fun n hn => ?noBar, fun hlocked => ?locked, fun hfree => ?numVfs, fun hkeeps => ?sriov, fun henabled hclear => ?clears⟩
    case device => exact cfgWrite_deviceControl w hpf ▸ withCfg_only s k _
    case aer => exact cfgWrite_aerControl w hpf ▸ withCfg_only s k _
    case bar0Low | bar0High =>
      rw [cfgWrite_bar0 w hpf (by decide), (withCfg_only s k _).2]
      exact ⟨(withCfg_only s k _).1, rfl⟩
    case bar2Low | bar2High =>
      rw [cfgWrite_bar2 w hpf (by decide) (by decide), (withCfg_only s k _).2]
      exact ⟨(withCfg_only s k _).1, rfl⟩
    case noBar =>
      obtain ⟨hbar, hvfBar⟩ := cfgWrite_absentBar (s := s) (k := k) w hn
      rw [hcfg, hcfg, hbar, hvfBar]
      exact ⟨rfl, rfl⟩
    case locked => rw [hcfg, cfgWrite_numVfs_locked w hport hlocked]
    case numVfs => rw [hcfg, cfgWrite_numVfs w hport hpf hfree]
    case sriov => rw [hcfg, cfgWrite_sriov_keeps w hport hpf hkeeps]
    case clears =>
      refine ⟨_, hcfg _, ?_⟩
      rw [cfgWrite_sriov_clears w hport hpf henabled hclear]
      obtain ⟨hown, hpfs, hvfs⟩ := vfsReset s p { y with vfEnable := false, vfMem := bit w 3 } rfl
      exact ⟨hown, hpfs k hpf, hvfs⟩

theorem accessReaches : AccessReaches := by
  intro f v w x seq port u p b o tk tg rv s rows c hc
  have hrow : ∃ k, exec c s = fnWrite f s k := by
    revert c
    simp only [rows, List.forall_mem_cons, List.not_mem_nil, false_implies, implies_true, and_true]
    and_intros
    all_goals
      dsimp only [exec, execRegisterWrite, execOpenMb, execProveMb, execCloseMb, execPasswordMb, execMbCmd, mbWrite, execHmLogRead, execSensorRead,
        execLogHead, execHmCmd, hmWrite, execLinkEnable, execLinkDisable, execRetrain, linkWrite]
      exact ⟨_, rfl⟩
  obtain ⟨k, hexec⟩ := hrow
  rw [hexec]
  exact ⟨fnWrite_absent f s k, fnWrite_away f s k⟩

end Sys2Proof.Claims

open Sys2Proof.Claims

/-- Settles O49: the register map by offset and session, the configuration space by register and function, and the rows that reach a function by what
`fnWrite` does with one that does not answer. -/
theorem registerAccesses : Obligations.RegisterAccesses := ⟨registerWrites, configurationWrites, accessReaches⟩
end

section
/-! PROOFS. What leaves the byte stores of the DRAM tiers as they are, one lemma per operation. -/

namespace Sys2Proof.Machine

/-- The bytes that the two DRAM tiers hold. -/
def cells (s : State) : List Host.Cell × List Host.Cell := (s.tiers.hbm, s.tiers.lp)

/-- The bytes in a state written out. -/
@[simp] theorem cells_mk x0 x1 x2 x3 x4 x5 x6 x7 x8 x9 x10 x11 x12 x13 x14 x15 x16 x17 x18 x19 x20 x21 x22 x23 x24 x25 x26 x27 x28 x29 :
    cells (State.mk x0 x1 x2 x3 x4 x5 x6 x7 x8 x9 x10 x11 x12 x13 x14 x15 x16 x17 x18 x19 x20 x21 x22 x23 x24 x25 x26 x27 x28 x29) = (x7.hbm, x7.lp) := by rfl

/-- The bytes, folded again. -/
@[simp] theorem cells_fold (s : State) : (s.tiers.hbm, s.tiers.lp) = cells s := by rfl

/-- A fold of operations that keep the bytes keeps it. -/
theorem foldl_cells {β : Type} (f : State → β → State) (h : ∀ s x, cells (f s x) = cells s) (l : List β) (s : State) :
    cells (l.foldl f s) = cells s := by
  induction l generalizing s with
  | nil => rfl
  | cons a l ih => simp [List.foldl_cons, ih, h]

/-- The bytes of a choice. -/
@[simp] theorem ite_cells (c : Prop) [Decidable c] (a b : State) : cells (if c then a else b) = if c then cells a else cells b := by
  split <;> rfl

/-- A fold of operations that may fail, each of which keeps the bytes where it answers, keeps it. -/
theorem foldl_bind_cells {β : Type} (f : State → β → Option State) (h : ∀ s x t, f s x = some t → cells t = cells s) (l : List β)
    (a : Option State) (t : State) (ht : l.foldl (fun a x => a.bind (fun s => f s x)) a = some t) : ∃ s, a = some s ∧ cells t = cells s := by
  induction l generalizing a with
  | nil => exact ⟨t, ht, rfl⟩
  | cons x l ih =>
    obtain ⟨u, hu, e⟩ := ih _ ht
    cases a with
    | none => simp at hu
    | some s => exact ⟨s, rfl, e.trans (h s x u hu)⟩

/-- An answer that may fail keeps the bytes of the state it leaves. -/
theorem map_cells (a : Option State) (g : State → State) (q : List Host.Cell × List Host.Cell) (ha : ∀ s, a = some s → cells s = q) (hg : ∀ s, cells (g s) = cells s)
    (t : State) (h : a.map g = some t) : cells t = q := by
  cases a with
  | none => simp at h
  | some s => simp at h; subst h; rw [hg]; exact ha s rfl

@[simp] theorem setCore_cells (s : State) (c : Nat) (co : CoreSt) : cells (setCore s c co) = cells s := by
  unfold setCore
  simp

@[simp] theorem setPart_cells (s : State) (p : Nat) (x : PartSt) : cells (setPart s p x) = cells s := by
  unfold setPart
  simp

@[simp] theorem setDom_cells (s : State) (d : Nat) (x : DomSt) : cells (setDom s d x) = cells s := by
  unfold setDom
  simp

theorem mapGranule_cells (s : State) (dom tier g : Nat) (m : Bool) (t : State) (h : mapGranule s dom tier g m = some t) : cells t = cells s := by
  unfold mapGranule at h
  dsimp only at h
  split at h <;> (obtain ⟨p, _, rfl⟩ := Option.map_eq_some_iff.mp h) <;> rfl

theorem mapRun_cells (dom tier : Nat) (m : Bool) (n g : Nat) (s t : State) (h : mapRun dom tier m n g s = some t) : cells t = cells s := by
  induction n generalizing g s with
  | zero => cases h; rfl
  | succ n ih =>
    obtain ⟨u, hu, hv⟩ := Option.bind_eq_some_iff.mp h
    exact (ih _ _ hv).trans (mapGranule_cells _ _ _ _ _ _ hu)

theorem allocRegion_cells (s : State) (dom : Nat) (r : RegionReq) (t : State) (h : allocRegion s dom r = some t) : cells t = cells s := by
  unfold allocRegion at h
  dsimp only at h
  generalize lowestRun _ _ _ = g at h
  split at h
  · cases h; rfl
  · split at h
    · cases h
    · obtain ⟨u, hu, rfl⟩ := Option.map_eq_some_iff.mp h
      exact (setDom_cells _ _ _).trans (mapRun_cells _ _ _ _ _ _ _ hu)

theorem allocAll_cells (dom : Nat) (rs : List RegionReq) (s t : State) (h : allocAll dom rs s = some t) : cells t = cells s := by
  induction rs generalizing s with
  | nil => cases h; rfl
  | cons r rs ih =>
    obtain ⟨u, hu, hv⟩ := Option.bind_eq_some_iff.mp h
    exact (ih _ hv).trans (allocRegion_cells _ _ _ _ hu)

@[simp] theorem raiseQuota_cells (s : State) (b : Nat) : cells (raiseQuota s b) = cells s := by
  unfold raiseQuota
  simp

@[simp] theorem raiseTier_cells (s : State) (b : Nat) : cells (raiseTier s b) = cells s := by
  unfold raiseTier
  simp

@[simp] theorem quotaEvents_cells (s : State) (code : Nat) : cells (quotaEvents s code) = cells s := by
  unfold quotaEvents
  simp

@[simp] theorem unmapGranule_cells (dom tier : Nat) (s : State) (g : Nat) : cells (unmapGranule dom tier s g) = cells s := by
  unfold unmapGranule
  dsimp only
  (repeat' split) <;> simp

theorem allocRegions_cells (s : State) (dom : Nat) (rs : List RegionReq) (t : State) (h : allocRegions s dom rs = .ok t) : cells t = cells s := by
  unfold allocRegions at h
  dsimp only at h
  split at h
  · cases h
  · split at h
    · cases h
    · split at h
      · cases h
      · rename_i u hu; cases h; exact allocAll_cells _ _ _ _ hu

@[simp] theorem releaseRegion_cells (s : State) (dom : Nat) (r : Region) : cells (releaseRegion s dom r) = cells s := by
  unfold releaseRegion
  simp [foldl_cells]

@[simp] theorem trimRegion_cells (s : State) (dom : Nat) (r : Region) (keep : Nat → Bool) : cells (trimRegion s dom r keep) = cells s := by
  unfold trimRegion
  simp [foldl_cells]

@[simp] theorem releaseWhere_cells (s : State) (dom : Nat) (f : Region → Bool) : cells (releaseWhere s dom f) = cells s := by
  unfold releaseWhere
  simp [foldl_cells]

@[simp] theorem setSlath_cells (s : State) (q : Nat) (x : SlathSt) : cells (setSlath s q x) = cells s := by
  unfold setSlath
  simp

@[simp] theorem setSlot_cells (s : State) (n : Nat) (x : SlotSt) : cells (setSlot s n x) = cells s := by
  unfold setSlot
  simp

@[simp] theorem updSlot_cells (s : State) (n : Nat) (f : SlotSt → SlotSt) : cells (updSlot s n f) = cells s := by
  unfold updSlot
  simp

@[simp] theorem forgetFailed_cells (s : State) (slot : Nat) : cells (forgetFailed s slot) = cells s := by
  unfold forgetFailed
  simp

@[simp] theorem setFn_cells (s : State) (k : Nat) (f : FnSt) : cells (setFn s k f) = cells s := by
  unfold setFn
  simp

@[simp] theorem updFn_cells (s : State) (k : Nat) (g : FnSt → FnSt) : cells (updFn s k g) = cells s := by
  unfold updFn
  simp

@[simp] theorem setPort_cells (s : State) (p : Nat) (x : HostPort) : cells (setPort s p x) = cells s := by
  unfold setPort
  simp

@[simp] theorem raiseHost_cells (s : State) (k b : Nat) : cells (raiseHost s k b) = cells s := by
  unfold raiseHost
  simp

@[simp] theorem raiseRing_cells (s : State) (k b : Nat) : cells (raiseRing s k b) = cells s := by
  unfold raiseRing
  simp

@[simp] theorem raiseChk_cells (s : State) (k b : Nat) : cells (raiseChk s k b) = cells s := by
  unfold raiseChk
  simp

@[simp] theorem sendMsix_cells (s : State) (k v : Nat) : cells (sendMsix s k v) = cells s := by
  unfold sendMsix
  simp

@[simp] theorem setRing_cells (s : State) (r : Nat) (x : RingSt) : cells (setRing s r x) = cells s := by
  unfold setRing
  simp

@[simp] theorem updRing_cells (s : State) (r : Nat) (g : RingSt → RingSt) : cells (updRing s r g) = cells s := by
  unfold updRing
  simp

@[simp] theorem disableRings_cells (s : State) (k : Nat) : cells (disableRings s k) = cells s := by
  unfold disableRings
  simp [foldl_cells]

@[simp] theorem finishDesc_cells (s : State) (r id status detail : Nat) : cells (finishDesc s r id status detail) = cells s := by
  unfold finishDesc
  simp

@[simp] theorem attachReport_cells (s : State) (r id addr : Nat) (bs : List Byte) : cells (attachReport s r id addr bs) = cells s := by
  unfold attachReport
  simp

@[simp] theorem setPoint_cells (s : State) (i : Nat) (p : PointSt) : cells (setPoint s i p) = cells s := by
  unfold setPoint
  simp

@[simp] theorem countPoint_cells (s : State) (i : Nat) : cells (countPoint s i) = cells s := by
  unfold countPoint
  simp

@[simp] theorem tickPoints_cells (s : State) : cells (tickPoints s) = cells s := by
  unfold tickPoints
  simp [foldl_cells]

@[simp] theorem setLink_cells (s : State) (p : Nat) (x : LinkSt) : cells (setLink s p x) = cells s := by
  unfold setLink
  simp

@[simp] theorem updLink_cells (s : State) (p : Nat) (g : LinkSt → LinkSt) : cells (updLink s p g) = cells s := by
  unfold updLink
  simp

@[simp] theorem raiseLink_cells (s : State) (p b : Nat) : cells (raiseLink s p b) = cells s := by
  unfold raiseLink
  simp

@[simp] theorem raiseTorus_cells (s : State) (b : Nat) : cells (raiseTorus s b) = cells s := by
  unfold raiseTorus
  simp

@[simp] theorem recordAck_cells (s : State) (p : Nat) : cells (recordAck s p) = cells s := by
  unfold recordAck
  (repeat' split) <;> simp

@[simp] theorem noteAck_cells (s : State) (p : Nat) : cells (noteAck s p) = cells s := by
  unfold noteAck
  dsimp only
  (repeat' split) <;> simp

theorem takeInject_cells (s : State) (mode target : Nat) (t : State) (h : takeInject s mode target = some t) : cells t = cells s := by
  unfold takeInject at h
  cases hf : findPoint s 5 (fun p => p.mode == mode && p.target == target) with
  | none => simp [hf] at h
  | some p => simp [hf] at h; subst h; rfl

@[simp] theorem injectWale_cells (s : State) (p seq : Nat) : cells (injectWale s p seq).1 = cells s := by
  unfold injectWale
  split
  · rename_i h; exact takeInject_cells _ _ _ _ h
  · split
    · rename_i h; exact Eq.trans (by rfl) (takeInject_cells _ _ _ _ h)
    · rfl

@[simp] theorem emitBlock_cells (s : State) (p seq : Nat) (b : Block) (spoil : Bool) (k : Nat) : cells (emitBlock s p seq b spoil k) = cells s := by
  unfold emitBlock
  simp

@[simp] theorem putBlock_cells (s : State) (p seq : Nat) (b : Block) (spoil : Bool) : cells (putBlock s p seq b spoil) = cells s := by
  unfold putBlock
  dsimp only
  split <;> simp

@[simp] theorem putPlain_cells (s : State) (p : Nat) (b : Block) : cells (putPlain s p b) = cells s := by
  unfold putPlain
  simp

@[simp] theorem sendIdle_cells (s : State) (p : Nat) : cells (sendIdle s p) = cells s := by
  unfold sendIdle
  simp

@[simp] theorem sendBlock_cells (s : State) (p : Nat) (b : Block) : cells (sendBlock s p b) = cells s := by
  unfold sendBlock
  simp

@[simp] theorem resendFrom_cells (s : State) (p : Nat) (bs : List (Nat × Block)) : cells (resendFrom s p bs) = cells s := by
  unfold resendFrom
  simp [foldl_cells]

@[simp] theorem sendLink_cells (s : State) (p sub : Nat) (m : LinkMsg) : cells (sendLink s p sub m) = cells s := by
  unfold sendLink
  simp

@[simp] theorem sendHello_cells (s : State) (p : Nat) : cells (sendHello s p) = cells s := by
  unfold sendHello
  simp

@[simp] theorem sendEcho_cells (s : State) (p : Nat) : cells (sendEcho s p) = cells s := by
  unfold sendEcho
  simp

@[simp] theorem sendBreak_cells (s : State) (p brk : Nat) : cells (sendBreak s p brk) = cells s := by
  unfold sendBreak
  dsimp only
  split <;> simp

@[simp] theorem ringBreak_cells (s : State) (a brk : Nat) : cells (ringBreak s a brk) = cells s := by
  unfold ringBreak
  (repeat' split) <;> simp

@[simp] theorem dropUnacked_cells (s : State) (p : Nat) : cells (dropUnacked s p) = cells s := by
  unfold dropUnacked
  simp

@[simp] theorem announceBreak_cells (s : State) (p : Nat) : cells (announceBreak s p) = cells s := by
  unfold announceBreak
  simp

@[simp] theorem loseLink_cells (s : State) (p : Nat) : cells (loseLink s p) = cells s := by
  unfold loseLink
  simp

@[simp] theorem discardBlock_cells (s : State) (b : Block) (flag : Nat) : cells (discardBlock s b flag) = cells s := by
  unfold discardBlock
  simp

theorem handOn_cells (s : State) (b : Block) (transit : Bool) (t : State) (h : handOn s b transit = some t) : cells t = cells s := by
  unfold handOn at h
  split at h <;> simp at h <;> subst h <;> simp

@[simp] theorem drainTransit_cells (s : State) (stuck : List Nat) (l k : List (Nat × Block)) : cells (drainTransit s stuck l k) = cells s := by
  induction l generalizing s stuck k with
  | nil => rfl
  | cons b l ih =>
    rw [drainTransit]
    split
    · rename_i h
      rw [ih]
      split at h
      · cases h
      · exact handOn_cells _ _ _ _ h
    · rw [ih]

@[simp] theorem drainLocal_cells (s : State) (l k : List Block) : cells (drainLocal s l k) = cells s := by
  induction l generalizing s k with
  | nil => rfl
  | cons b l ih =>
    rw [drainLocal]
    split
    · rw [ih]; exact handOn_cells _ _ _ _ ‹_›
    · rw [ih]

@[simp] theorem fillGaps_cells (s0 s : State) : cells (fillGaps s0 s) = cells s :=
  foldl_cells _ (fun s p => by dsimp only; split <;> simp) _ _

@[simp] theorem drainAll_cells (s : State) : cells (drainAll s) = cells s := by
  unfold drainAll
  dsimp only
  rw [fillGaps_cells, drainLocal_cells]
  exact (foldl_cells _ (fun s p => by simp) _ _).trans (by simp)

@[simp] theorem injectBlock_cells (s : State) (b : Block) : cells (injectBlock s b) = cells s := by
  unfold injectBlock
  simp

@[simp] theorem faultTransient_cells (s : State) : cells (faultTransient s) = cells s := by
  unfold faultTransient
  simp

@[simp] theorem faultRecord_cells (s : State) (cls detect code die : Nat) : cells (faultRecord s cls detect code die) = cells s := by
  unfold faultRecord
  simp

@[simp] theorem settleSwitch_cells (s : State) (p : Nat) : cells (settleSwitch s p) = cells s := by
  unfold settleSwitch
  dsimp only
  (repeat' split) <;> simp

@[simp] theorem askSwitch_cells (s : State) (p : Nat) (r : SwReq) : cells (askSwitch s p r) = cells s := by
  unfold askSwitch
  simp

@[simp] theorem raiseConv_cells (s : State) (u : Nat) (e : Conv4) : cells (raiseConv s u e) = cells s := by
  unfold raiseConv
  split
  · rfl
  · rfl

@[simp] theorem seqError_cells (s : State) (c : Nat) : cells (seqError s c) = cells s := by
  unfold seqError
  dsimp only
  (repeat' split) <;> simp

@[simp] theorem tagMismatch_cells (s : State) (c : Nat) : cells (tagMismatch s c) = cells s := by
  unfold tagMismatch
  dsimp only
  (repeat' split) <;> simp

@[simp] theorem tokenMoved_cells (s : State) (c : Nat) : cells (tokenMoved s c) = cells s := by
  unfold tokenMoved
  (repeat' split) <;> simp

@[simp] theorem deliver_cells (s : State) (t : Token) : cells (deliver s t) = cells s := by
  unfold deliver
  dsimp only
  (repeat' split) <;> simp

@[simp] theorem sendPacket_cells (s : State) (slot dest kind stream : Nat) (a : PacketArgs) : cells (sendPacket s slot dest kind stream a) = cells s := by
  unfold sendPacket
  simp [foldl_cells]

@[simp] theorem raiseColl_cells (s : State) (b : Nat) : cells (raiseColl s b) = cells s := by
  unfold raiseColl
  simp

@[simp] theorem raiseTrain_cells (s : State) (b : Nat) : cells (raiseTrain s b) = cells s := by
  unfold raiseTrain
  simp

@[simp] theorem sendRound_cells (s : State) (slot cut rank kind : Nat) (body : List Byte) : cells (sendRound s slot cut rank kind body) = cells s := by
  unfold sendRound
  simp

@[simp] theorem unlanded_cells (s : State) : cells (unlanded s) = cells s := by
  unfold unlanded
  simp

@[simp] theorem takePseq_cells (s : State) (n : Nat) (p : Packet) : cells (takePseq s n p) = cells s := by
  unfold takePseq
  simp

@[simp] theorem holdPacket_cells (s : State) (n : Nat) (p : Packet) : cells (holdPacket s n p) = cells s := by
  unfold holdPacket
  simp

@[simp] theorem mapCores_cells (s : State) (p : Nat) (f : Nat → CoreSt → CoreSt) : cells (mapCores s p f) = cells s := by
  unfold mapCores
  simp [foldl_cells]

@[simp] theorem beginLoad_cells (s : State) (p c : Nat) : cells (beginLoad s p c) = cells s := by
  unfold beginLoad
  simp

@[simp] theorem dropFold_cells (s : State) (p : Nat) : cells (dropFold s p) = cells s := by
  unfold dropFold
  simp

@[simp] theorem proceedLoads_cells (p : Nat) (l k : List LoadSt) (s : State) : cells (proceedLoads p l k s) = cells s := by
  induction l generalizing s k with
  | nil => rfl
  | cons x l ih =>
    rw [proceedLoads]
    split
    · rw [ih]; simp
    · rw [ih]

@[simp] theorem tryLoads_cells (s : State) (p : Nat) : cells (tryLoads s p) = cells s := by
  unfold tryLoads
  simp

@[simp] theorem refuseSwitches_cells (s : State) (p c : Nat) : cells (refuseSwitches s p c) = cells s :=
  (foldl_cells _ (fun s r => by split <;> simp) _ _).trans rfl

@[simp] theorem endLoad_cells (s : State) (p : Nat) (l : LoadSt) (status detail : Nat) : cells (endLoad s p l status detail) = cells s := by
  unfold endLoad
  simp

@[simp] theorem evictSlot_cells (s : State) (slot : Nat) : cells (evictSlot s slot).2 = cells s := by
  unfold evictSlot
  simp

@[simp] theorem updHandle_cells (s : State) (f : HandleSt → HandleSt) : cells (updHandle s f) = cells s := by rfl

@[simp] theorem logEvent_cells (s : State) (src code die sev : Nat) (args : List Byte) : cells (logEvent s src code die sev args) = cells s := by
  unfold logEvent
  exact updHandle_cells _ _

@[simp] theorem recordFault_cells (s : State) (cls detect code die : Nat) : cells (recordFault s cls detect code die) = cells s := by
  unfold recordFault
  simp

@[simp] theorem noteCauses_cells (s : State) : cells (noteCauses s) = cells s := by
  unfold noteCauses
  simp

@[simp] theorem countStalled_cells (s : State) : cells (countStalled s) = cells s := by
  unfold countStalled
  simp

@[simp] theorem idleFc_cells (s : State) : cells (idleFc s) = cells s := by
  unfold idleFc
  simp

@[simp] theorem updRun_cells (s : State) (n : Nat) (f : RunSt → RunSt) : cells (updRun s n f) = cells s := by
  unfold updRun
  simp

@[simp] theorem setStage_cells (s : State) (n : Nat) (g : RunStage) : cells (setStage s n g) = cells s := by
  unfold setStage
  simp

@[simp] theorem closeRun_cells (s : State) (n status detail : Nat) : cells (closeRun s n status detail) = cells s := by
  unfold closeRun
  (repeat' split) <;> simp

@[simp] theorem ageWords_cells (s : State) (n : Nat) : cells (ageWords s n) = cells s := by
  unfold ageWords
  simp

@[simp] theorem settleWords_cells (s : State) (n : Nat) : cells (settleWords s n) = cells s := by
  unfold settleWords
  simp [foldl_cells]

@[simp] theorem spoilStaging_cells (n : Nat) (s : State) (q : Nat) : cells (spoilStaging n s q) = cells s := by
  unfold spoilStaging
  dsimp only
  split <;> simp

@[simp] theorem sendAborts_cells (s : State) (n : Nat) (report : Bool) (code : Nat) : cells (sendAborts s n report code) = cells s := by
  unfold sendAborts
  (repeat' split) <;> simp [foldl_cells]

@[simp] theorem cancelSwitches_cells (s : State) (p : Nat) : cells (cancelSwitches s p) = cells s :=
  (foldl_cells _ (fun s r => by split <;> simp) _ _).trans rfl

@[simp] theorem noteRound_cells (s : State) (n : Nat) : cells (noteRound s n) = cells s := by
  unfold noteRound
  simp

@[simp] theorem noteBroken_cells (s : State) (n : Nat) : cells (noteBroken s n) = cells s := by
  unfold noteBroken
  simp

@[simp] theorem chargeHeld_cells (s : State) (n : Nat) : cells (chargeHeld s n) = cells s := by
  unfold chargeHeld
  simp

@[simp] theorem stopAttempt_cells (s : State) (n : Nat) (report : Bool) (code : Nat) : cells (stopAttempt s n report code) = cells s := by
  unfold stopAttempt
  simp

@[simp] theorem abortAttempt_cells (s : State) (n : Nat) (report : Bool) (code : Nat) : cells (abortAttempt s n report code) = cells s := by
  unfold abortAttempt
  simp

@[simp] theorem abortParts_cells (s : State) (ps : List Nat) (report : Bool) (code : Nat) : cells (abortParts s ps report code) = cells s :=
  foldl_cells _ (fun s p => by split <;> simp) _ _

@[simp] theorem addConv_cells (s : State) (n : Nat) : cells (addConv s n) = cells s := by
  unfold addConv
  simp

@[simp] theorem chargeAborted_cells (s : State) (n : Nat) : cells (chargeAborted s n) = cells s := by
  unfold chargeAborted
  simp

@[simp] theorem discardTokens_cells (s : State) (p : Nat) (cs : List Nat) : cells (discardTokens s p cs) = cells s := by
  unfold discardTokens
  simp

@[simp] theorem askAgain_cells (s : State) (p : Nat) : cells (askAgain s p) = cells s := by
  unfold askAgain
  dsimp only
  (repeat' split) <;> simp

@[simp] theorem captureStall_cells (s : State) (p : Nat) : cells (captureStall s p) = cells s := by
  unfold captureStall
  simp

@[simp] theorem drawBytes_cells (s : State) (n : Nat) : cells (drawBytes s n).2 = cells s := by rfl

@[simp] theorem setLock_cells (s : State) (k : Nat) (l : LockSt) : cells (setLock s k l) = cells s := by
  unfold setLock
  simp

@[simp] theorem clearPerturb_cells (s : State) : cells (clearPerturb s) = cells s := by
  unfold clearPerturb
  simp

@[simp] theorem endSession_cells (s : State) (k : Nat) : cells (endSession s k) = cells s := by
  unfold endSession
  simp

@[simp] theorem endMb_cells (s : State) (k seq result : Nat) (st : MbState) : cells (endMb s k seq result st) = cells s := by
  unfold endMb
  simp

@[simp] theorem beginMb_cells (s : State) (k op seq key : Nat) (st : MbState) : cells (beginMb s k op seq key st) = cells s := by
  unfold beginMb
  simp

@[simp] theorem freshId_cells (s : State) : cells (freshId s).2 = cells s := by
  unfold freshId
  simp

@[simp] theorem authFailure_cells (s : State) (k lock keyId : Nat) : cells (authFailure s k lock keyId) = cells s := by
  unfold authFailure
  simp

@[simp] theorem endOpen_cells (s : State) (k : Nat) (c : MbCmd) : cells (endOpen s k c) = cells s := by
  unfold endOpen
  simp

@[simp] theorem writeFnRings_cells (s : State) (k v : Nat) : cells (writeFnRings s k v) = cells s := by
  unfold writeFnRings
  simp

@[simp] theorem signalRing_cells (s : State) (r : Nat) : cells (signalRing s r) = cells s := by
  unfold signalRing
  dsimp only
  (repeat' split) <;> simp

@[simp] theorem settleFence_cells (s : State) (r : Nat) : cells (settleFence s r) = cells s := by
  unfold settleFence
  (repeat' split) <;> simp

@[simp] theorem writeCompletion_cells (s : State) (r : Nat) (d : DescSt) : cells (writeCompletion s r d) = cells s := by
  unfold writeCompletion
  simp

@[simp] theorem dropCompletion_cells (s : State) (r : Nat) : cells (dropCompletion s r) = cells s := by
  unfold dropCompletion
  simp

@[simp] theorem setArb_cells (s : State) (key : Nat) (a : ArbSt) : cells (setArb s key a) = cells s := by
  unfold setArb
  simp

@[simp] theorem fenceInput_cells (s : State) (key i : Nat) : cells (fenceInput s key i) = cells s := by
  unfold fenceInput
  simp

@[simp] theorem raiseHandle_cells (s : State) (b : Nat) : cells (raiseHandle s b) = cells s := by rfl

@[simp] theorem trainPort_cells (s : State) (p : Nat) : cells (trainPort s p) = cells s := by
  unfold trainPort
  simp

@[simp] theorem seqFault_cells (s : State) (n : Nat) : cells (seqFault s n) = cells s := by
  unfold seqFault
  simp

@[simp] theorem coreSeqFault_cells (s : State) (c : Nat) : cells (coreSeqFault s c) = cells s := by
  unfold coreSeqFault
  (repeat' split) <;> simp

@[simp] theorem arriveNow_cells (s : State) (t : Token) : cells (arriveNow s t) = cells s := by
  unfold arriveNow
  simp

@[simp] theorem arrive_cells (s : State) (t : Token) : cells (arrive s t) = cells s := by
  unfold arrive
  dsimp only
  (repeat' split) <;> simp

@[simp] theorem landTile_cells (s : State) (n sh t : Nat) (v : List Nat) : cells (landTile s n sh t v) = cells s := by
  unfold landTile
  dsimp only
  (repeat' split) <;> simp

@[simp] theorem countSat_cells (s : State) (p n k : Nat) : cells (countSat s p n k) = cells s := by
  unfold countSat
  simp

@[simp] theorem sendTiles_cells (s : State) (n cut rank kind sh t : Nat) (pair : Bool) (tiles : List (List Nat)) : cells (sendTiles s n cut rank kind sh t pair tiles) = cells s := by
  unfold sendTiles
  simp

@[simp] theorem sendGather_cells (s : State) (n cut sh : Nat) (ts : List Nat) (vs : List (List Nat)) : cells (sendGather s n cut sh ts vs) = cells s := by
  unfold sendGather
  dsimp only
  (repeat' split) <;> simp

@[simp] theorem keepFinal_cells (s : State) (n sh : Nat) (ts : List Nat) (vs : List (List Nat)) : cells (keepFinal s n sh ts vs) = cells s := by
  unfold keepFinal
  simp [foldl_cells]

@[simp] theorem runChain_cells (s : State) (n cut sh t : Nat) : cells (runChain s n cut sh t).1 = cells s := by
  unfold runChain
  dsimp only
  split
  · rfl
  · split
    · rw [sendTiles_cells, updSlot_cells, countSat_cells]
    · rw [countSat_cells, updSlot_cells, countSat_cells]

@[simp] theorem putContrib_cells (s : State) (n cut sh t : Nat) (v : List Nat) : cells (putContrib s n cut sh t v) = cells s := by
  unfold putContrib
  simp

@[simp] theorem passSeq_cells (s : State) (n sh : Nat) (fs : List (Nat × List Nat)) : cells (passSeq s n sh fs) = cells s := by
  unfold passSeq
  split
  · rfl
  · exact (foldl_cells _ (fun s f => by dsimp only; split <;> simp) _ _).trans (by simp)

@[simp] theorem finishData_cells (s : State) (n sh : Nat) (fs : List (Nat × List Nat)) : cells (finishData s n sh fs) = cells s := by
  unfold finishData
  simp

@[simp] theorem feedData_cells (s : State) (n sh : Nat) (fs : List (Nat × List Nat)) : cells (feedData s n sh fs) = cells s := by
  unfold feedData
  split
  · simp
  · exact foldl_cells _ (fun s f => by dsimp only; split <;> simp) _ _

@[simp] theorem feedTile_cells (s : State) (n sh t : Nat) (v : List Nat) : cells (feedTile s n sh t v) = cells s := by
  unfold feedTile
  split
  · dsimp only; split <;> simp
  · simp

@[simp] theorem emitToken_cells (c r : Nat) (x : Ctx) (s : State) (t : Token) : cells (emitToken c r x s t) = cells s := by
  unfold emitToken
  (repeat' split) <;> simp

@[simp] theorem emitTokens_cells (c r : Nat) (x : Ctx) (s : State) (ts : List Token) : cells (emitTokens c r x s ts) = cells s := by
  unfold emitTokens
  simp [foldl_cells]

@[simp] theorem landReduce_cells (s : State) (n : Nat) (p : Packet) : cells (landReduce s n p) = cells s := by
  unfold landReduce
  dsimp only
  split
  · rfl
  · split
    · rfl
    · simp only [ite_cells, runChain_cells, finishData_cells, feedData_cells, updSlot_cells, ite_self]

@[simp] theorem landGather_cells (s : State) (n : Nat) (p : Packet) : cells (landGather s n p) = cells s := by
  unfold landGather
  dsimp only
  split
  · rfl
  · split <;> simp

@[simp] theorem layoutOld_cells (s : State) (n : Nat) (p : Packet) : cells (layoutOld s n p) = cells s := by
  unfold layoutOld
  simp

@[simp] theorem landGrad_cells (s : State) (n : Nat) (p : Packet) : cells (landGrad s n p) = cells s := by
  unfold landGrad
  simp [foldl_cells]

@[simp] theorem landShardReq_cells (s : State) (n : Nat) (p : Packet) : cells (landShardReq s n p) = cells s := by
  unfold landShardReq
  dsimp only
  (repeat' split) <;> simp [foldl_cells]

@[simp] theorem stageBytes_cells (s : State) (n o : Nat) (bs : List Byte) : cells (stageBytes s n o bs) = cells s :=
  foldl_cells _ (fun s b => by split <;> simp) _ _

@[simp] theorem noteRecord_cells (s : State) (n : Nat) (r : ShardRec) : cells (noteRecord s n r) = cells s := by
  unfold noteRecord
  dsimp only
  (repeat' split) <;> simp

@[simp] theorem landShard_cells (s : State) (n : Nat) (p : Packet) : cells (landShard s n p) = cells s := by
  unfold landShard
  simp

theorem deliverRelay_cells (n : Nat) (p : Packet) (e : LandEntry) (s : State) (i : Nat) (t : State) (h : deliverRelay n p e s i = some t) : cells t = cells s := by
  unfold deliverRelay at h
  dsimp only at h
  split at h
  · cases h
  · cases h; simp

theorem landRelay_cells (s : State) (n : Nat) (p : Packet) (t : State) (h : landRelay s n p = some t) : cells t = cells s := by
  unfold landRelay at h
  dsimp only at h
  split at h
  · cases h; simp
  · refine map_cells _ _ _ (fun u hu => ?_) (fun u => ?_) _ h
    · obtain ⟨v, hv, e⟩ := foldl_bind_cells _ (fun s i t h => deliverRelay_cells _ _ _ s i t h) _ _ _ hu
      cases hv; exact e
    · split
      · rfl
      · split <;> simp

theorem gate_cells (s : State) (p : Packet) (wait : Nat → State) (f : State → Nat → Option State) (hw : ∀ n, cells (wait n) = cells s)
    (hf : ∀ u n t, f u n = some t → cells t = cells u) : cells (gate s p wait f) = cells s := by
  unfold gate
  split
  · simp
  · simp
  · simp
  · rw [seqFault_cells]; rfl
  · simp
  · rename_i n _
    cases h : f (takePseq s n p) n with
    | none => exact hw n
    | some t => exact (hf _ _ _ h).trans (by simp)

theorem landData_cells (s : State) (n : Nat) (p : Packet) (t : State) (h : landData s n p = some t) : cells t = cells s := by
  unfold landData at h
  dsimp only at h
  repeat' split at h
  all_goals first | exact landRelay_cells _ _ _ _ h | (cases h; simp)

@[simp] theorem releaseData_cells (s : State) (n : Nat) : cells (releaseData s n) = cells s :=
  (foldl_cells _ (fun _ _ => gate_cells _ _ _ _ (fun _ => holdPacket_cells _ _ _) (fun _ _ _ h => landData_cells _ _ _ _ h)) _ _).trans rfl

@[simp] theorem reserveMoves_cells (s : State) (n : Nat) (rs : ReshardSt) : cells (reserveMoves s n rs).1 = cells s := by
  unfold reserveMoves
  dsimp only
  split
  · simp
  · rename_i u h; exact Eq.trans (updSlot_cells _ _ _) (allocRegions_cells _ _ _ _ h)

@[simp] theorem sendMove_cells (s : State) (n i rank : Nat) : cells (sendMove s n i rank) = cells s := by
  unfold sendMove
  dsimp only
  split
  · rfl
  · refine (?_ : ∀ (l : List _) (a : State × Nat), cells (l.foldl _ a).1 = cells a.1) _ _
    intro l
    induction l with
    | nil => intro a; rfl
    | cons x l ih => intro a; rw [List.foldl_cons, ih]; simp

@[simp] theorem sendLost_cells (s : State) (n : Nat) (rs : ReshardSt) : cells (sendLost s n rs) = cells s :=
  foldl_cells _ (fun s e => by
    split
    · split <;> simp
    · rfl) _ _

@[simp] theorem updReshard_cells (s : State) (n : Nat) (f : ReshardSt → ReshardSt) : cells (updReshard s n f) = cells s := by
  unfold updReshard
  simp

@[simp] theorem releaseGiven_cells (s : State) (n : Nat) : cells (releaseGiven s n) = cells s := by
  unfold releaseGiven
  simp [foldl_cells]

@[simp] theorem installLayout_cells (s : State) (n : Nat) : cells (installLayout s n) = cells s := by
  unfold installLayout
  dsimp only
  (repeat' split) <;> simp

@[simp] theorem answerMove_cells (s : State) (n : Nat) (p : Packet) : cells (answerMove s n p) = cells s := by
  unfold answerMove
  dsimp only
  (repeat' split) <;> simp

@[simp] theorem retryMove_cells (s : State) (n sh : Nat) : cells (retryMove s n sh).2 = cells s := by
  unfold retryMove
  dsimp only
  (repeat' split) <;> simp

@[simp] theorem updRound_cells (s : State) (n : Nat) (f : RoundSt → RoundSt) : cells (updRound s n f) = cells s := by
  unfold updRound
  simp

@[simp] theorem pushCut_cells (s : State) (n c : Nat) : cells (pushCut s n c) = cells s := by
  unfold pushCut
  dsimp only
  (repeat' split) <;> simp

@[simp] theorem keepPass_cells (s : State) (n : Nat) (p : Packet) : cells (keepPass s n p) = cells s := by
  unfold keepPass
  simp

@[simp] theorem releaseRound_cells (s : State) (n : Nat) : cells (releaseRound s n) = cells s := by
  refine (foldl_cells _ (fun s p => ?_) _ _).trans rfl
  split
  · simp
  · refine gate_cells _ _ _ _ (fun n => rfl) (fun u n t h => ?_)
    split at h <;> cases h <;> simp

@[simp] theorem commitStep_cells (s : State) (n : Nat) : cells (commitStep s n) = cells s := by
  unfold commitStep
  simp

@[simp] theorem sendLists_cells (s : State) (n : Nat) (ranks : List Nat) : cells (sendLists s n ranks) = cells s := rfl

@[simp] theorem resolve_cells (s : State) (n : Nat) (ds : List Nat) : cells (resolve s n ds) = cells s := by
  unfold resolve
  (repeat' split) <;> simp

@[simp] theorem sendFinals_cells (s : State) (n pk : Nat) (body : List Byte) (below : Nat) : cells (sendFinals s n pk body below) = cells s := by
  unfold sendFinals
  dsimp only
  rw [updRound_cells]
  exact foldl_cells _ (fun s c => sendRound_cells _ _ _ _ _ _) _ _

@[simp] theorem beginMoves_cells (s : State) (n : Nat) : cells (beginMoves s n) = cells s := by
  unfold beginMoves
  dsimp only
  (repeat' split) <;> simp

@[simp] theorem restartMoves_cells (s : State) (n code : Nat) : cells (restartMoves s n code) = cells s := by
  unfold restartMoves
  simp

@[simp] theorem replaySlot_cells (s : State) (n : Nat) : cells (replaySlot s n) = cells s := by
  unfold replaySlot
  simp

@[simp] theorem fenceArbiters_cells (s : State) (die : Nat) : cells (fenceArbiters s die) = cells s := by
  unfold fenceArbiters
  simp [foldl_cells]

@[simp] theorem discardParts_cells (s : State) (ps : List Nat) : cells (discardParts s ps) = cells s := by
  unfold discardParts
  simp [foldl_cells]

@[simp] theorem fenceDie_cells (s : State) (die code : Nat) : cells (fenceDie s die code) = cells s := by
  unfold fenceDie
  simp

@[simp] theorem noteRimLoss_cells (s : State) (n : Nat) : cells (noteRimLoss s n) = cells s := by
  unfold noteRimLoss
  split <;> simp

@[simp] theorem loseMirrored_cells (s : State) : cells (loseMirrored s) = cells s := by
  unfold loseMirrored
  (repeat' split) <;> simp [foldl_cells]

@[simp] theorem updChan_cells (s : State) (c : Nat) (f : ChanCnt → ChanCnt) : cells (updChan s c f) = cells s := by
  unfold updChan
  simp

@[simp] theorem updSlot?_cells (s : State) (n : Option Nat) (f : SlotSt → SlotSt) : cells (updSlot? s n f) = cells s := by
  unfold updSlot?
  (repeat' split) <;> simp

@[simp] theorem dropStalled_cells (s : State) (n a b : Nat) : cells (dropStalled s n a b) = cells s := by
  unfold dropStalled
  split <;> simp

@[simp] theorem noteLate_cells (s : State) (n c a b : Nat) : cells (noteLate s n c a b) = cells s := by
  unfold noteLate
  simp

@[simp] theorem injectRead_cells (s : State) (c : Nat) (f : ReadFate) : cells (injectRead s c f).1 = cells s := by
  unfold injectRead
  split
  · rename_i h; exact takeInject_cells _ _ _ _ h
  · split
    · rename_i h; exact takeInject_cells _ _ _ _ h
    · split
      · rename_i h; exact takeInject_cells _ _ _ _ h
      · rfl

theorem copyFailed_cells (a : CopyRead) (r : Option Region) (tier p o : Nat) : cells (copyFailed a r tier p o).s = cells a.s := by
  unfold copyFailed; (repeat' split) <;> simp

@[simp] theorem finishEntries_cells (s : State) (r id : Nat) : cells (finishEntries s r id) = cells s := by
  unfold finishEntries
  simp

@[simp] theorem takeHead_cells (s : State) (r : Nat) (ofRun : Option Nat) : cells (takeHead s r ofRun).2 = cells s := by
  unfold takeHead
  dsimp only
  (repeat' split) <;> simp

@[simp] theorem finishHead_cells (s : State) (r status detail : Nat) : cells (finishHead s r status detail) = cells s := by
  unfold finishHead
  simp

@[simp] theorem DescEnv.done_cells (e : DescEnv) (s : State) (status detail : Nat) : cells (DescEnv.done e s status detail) = cells s := by
  unfold DescEnv.done
  simp

@[simp] theorem startLoad_cells (e : DescEnv) (s : State) : cells (startLoad e s) = cells s := by
  unfold startLoad
  dsimp only
  (repeat' split) <;> simp

@[simp] theorem refuseGone_cells (s : State) (p : Nat) (cs : List Nat) : cells (refuseGone s p cs) = cells s := by
  unfold refuseGone
  rw [settleSwitch_cells]
  exact (foldl_cells _ (fun s r => by split <;> simp) _ _).trans rfl

@[simp] theorem startSwitch_cells (e : DescEnv) (s : State) : cells (startSwitch e s) = cells s := by
  unfold startSwitch
  simp

theorem changePlacement_cells (s : State) (n : Nat) (host : Bool) (t : State) (h : changePlacement s n host = .ok t) : cells t = cells s := by
  unfold changePlacement at h
  dsimp only at h
  split at h
  · cases h; rfl
  · split at h
    · cases h; simp
    · split at h
      · cases h
      · rename_i u hu; cases h; exact Eq.trans (updSlot_cells _ _ _) (allocRegions_cells _ _ _ _ hu)

@[simp] theorem setPolicy_cells (e : DescEnv) (s : State) : cells (setPolicy e s) = cells s := by
  unfold setPolicy
  dsimp only
  split
  · simp
  · split
    · simp
    · rename_i u h; rw [DescEnv.done_cells, updSlot_cells]; exact changePlacement_cells _ _ _ _ h

@[simp] theorem acceptReshard_cells (table : List UpdEntry) (e : DescEnv) (s : State) : cells (acceptReshard table e s) = cells s := by
  unfold acceptReshard
  simp

@[simp] theorem commitLanes_cells (s : State) (o : LaneOp) (i : Issue) (lat : Nat) (toPred : Bool) (rs : List (Nat × LaneRes × Bool)) : cells (commitLanes s o i lat toPred rs) = cells s := by
  unfold commitLanes
  simp

@[simp] theorem countConv_cells (s : State) (m n : Nat) (e : Conv4) : cells (countConv s m n e) = cells s := by
  unfold countConv
  simp

@[simp] theorem setBorder_cells (s : State) (m : Nat) (b : BorderSt) : cells (setBorder s m b) = cells s := by
  unfold setBorder
  simp

@[simp] theorem markStale_cells (s : State) (ns : List Nat) (load : Bool) : cells (markStale s ns load) = cells s := by
  unfold markStale
  simp [foldl_cells]

@[simp] theorem countCopy_cells (s : State) (k raw : Nat) (ev : Conv4) : cells (countCopy s k raw ev) = cells s := by
  unfold countCopy
  simp

@[simp] theorem setChk_cells (s : State) (k i : Nat) (c : ChkSet) : cells (setChk s k i c) = cells s := by
  unfold setChk
  simp

@[simp] theorem runChk_cells (s : State) (k buf addr : Nat) (bs : List Byte) : cells (runChk s k buf addr bs).2 = cells s := by
  unfold runChk
  (repeat' split) <;> simp

@[simp] theorem undefinedBytes_cells (s : State) (n : Nat) : cells (undefinedBytes s n).2 = cells s := by
  unfold undefinedBytes
  simp

@[simp] theorem holdBanks_cells (s : State) (r id : Nat) (bs : List (Nat × Nat)) : cells (holdBanks s r id bs) = cells s :=
  foldl_cells _ (fun s b => by simp) _ _

@[simp] theorem createDomain_cells (e : DescEnv) (s : State) : cells (createDomain e s) = cells s := by
  unfold createDomain
  simp

@[simp] theorem removeDomain_cells (e : DescEnv) (s : State) : cells (removeDomain e s) = cells s := by
  unfold removeDomain
  simp

@[simp] theorem setQuota_cells (e : DescEnv) (s : State) : cells (setQuota e s) = cells s := by
  unfold setQuota
  simp

@[simp] theorem allocBuffer_cells (e : DescEnv) (s : State) : cells (allocBuffer e s) = cells s := by
  unfold allocBuffer
  dsimp only
  split
  · simp
  · rename_i u h; rw [DescEnv.done_cells]; exact allocRegions_cells _ _ _ _ h

@[simp] theorem releaseBuffer_cells (e : DescEnv) (s : State) : cells (releaseBuffer e s) = cells s := by
  unfold releaseBuffer
  dsimp only
  (repeat' split) <;> simp

@[simp] theorem dropBuffers_cells (s : State) (p : Nat) (qs : List Nat) : cells (dropBuffers s p qs) = cells s := by
  unfold dropBuffers
  simp [foldl_cells]

@[simp] theorem placePart_cells (s : State) (p : Nat) (x : PartSt) : cells (placePart s p x) = cells s := by
  unfold placePart
  simp

theorem takeBuffers_cells (s : State) (p : Nat) (qs : List Nat) (t : State) (h : takeBuffers s p qs = some t) : cells t = cells s := by
  obtain ⟨u, hu, e⟩ := foldl_bind_cells _ (fun s q t h => by obtain ⟨x, _, rfl⟩ := Option.map_eq_some_iff.mp h; rfl) _ _ _ h
  cases hu; exact e

@[simp] theorem createPart_cells (e : DescEnv) (s : State) : cells (createPart e s) = cells s := by
  unfold createPart
  dsimp only
  split
  · simp
  · split
    · simp
    · rename_i u h; rw [DescEnv.done_cells, placePart_cells]; exact takeBuffers_cells _ _ _ _ h

@[simp] theorem resizePart_cells (e : DescEnv) (s : State) : cells (resizePart e s) = cells s := by
  unfold resizePart
  dsimp only
  split
  · simp
  · split
    · simp
    · split
      · simp
      · rename_i u h; rw [DescEnv.done_cells, placePart_cells, dropBuffers_cells]; exact takeBuffers_cells _ _ _ _ h

@[simp] theorem removePart_cells (e : DescEnv) (s : State) : cells (removePart e s) = cells s := by
  unfold removePart
  simp

@[simp] theorem setMode_cells (e : DescEnv) (s : State) : cells (setMode e s) = cells s := by
  unfold setMode
  simp

@[simp] theorem sizeStore_cells (e : DescEnv) (s : State) : cells (sizeStore e s) = cells s := by
  unfold sizeStore
  dsimp only
  (repeat' split) <;> simp

theorem takeCache_cells (s : State) (slot dom : Nat) (c : SlotCache) (t : State) (h : takeCache s slot dom c = some t) : cells t = cells s := by
  unfold takeCache at h
  refine map_cells _ _ _ (fun u hu => ?_) (fun u => ?_) _ h
  · obtain ⟨v, hv, e⟩ := foldl_bind_cells _ (fun s q t h => by obtain ⟨x, _, rfl⟩ := Option.map_eq_some_iff.mp h; rfl) _ _ _ hu
    cases hv; exact e
  · exact (setDom_cells _ _ _).trans (foldl_cells _ (fun s q => setSlath_cells _ _ _) _ _)

theorem allocSlot_cells (s : State) (slot dom : Nat) (c : SlotCache) (rs : List RegionReq) (t : State) (h : allocSlot s slot dom c rs = .ok t) : cells t = cells s := by
  unfold allocSlot at h
  split at h
  · cases h
  · split at h
    · cases h
    · rename_i u hu
      split at h
      · cases h
      · rename_i v hv; cases h; exact (takeCache_cells _ _ _ _ _ hv).trans (allocRegions_cells _ _ _ _ hu)

@[simp] theorem createSlot_cells (pat : Pattern) (e : DescEnv) (s : State) : cells (createSlot pat e s) = cells s := by
  unfold createSlot
  dsimp only
  split
  · simp
  · split
    · simp
    · rename_i u h
      split
      · simp
      · rw [DescEnv.done_cells, setSlot_cells]; exact allocSlot_cells _ _ _ _ _ _ h

@[simp] theorem releaseSlot_cells (s : State) (n : Nat) : cells (releaseSlot s n) = cells s := by
  unfold releaseSlot
  simp [foldl_cells]

@[simp] theorem raisePert_cells (s : State) (b : Nat) : cells (raisePert s b) = cells s := by
  unfold raisePert
  simp

@[simp] theorem enableLink_cells (s : State) (p : Nat) (x : LinkSt) : cells (enableLink s p x) = cells s := by
  unfold enableLink
  simp

@[simp] theorem checkPartner_cells (s : State) (p : Nat) (m : LinkMsg) : cells (checkPartner s p m) = cells s := by
  unfold checkPartner
  simp

@[simp] theorem takeAck_cells (s : State) (p : Nat) (ack : Word) : cells (takeAck s p ack) = cells s := by
  unfold takeAck
  dsimp only
  (repeat' split) <;> simp

@[simp] theorem startRetrain_cells (s : State) (p : Nat) (lasting send : Bool) : cells (startRetrain s p lasting send) = cells s := by
  unfold startRetrain
  simp

@[simp] theorem failedBlock_cells (s : State) (p : Nat) (b : Bool) (w : Word) : cells (failedBlock s p b w) = cells s := by
  unfold failedBlock
  simp

@[simp] theorem freshPseq_cells (s : State) (p : Nat) : cells (freshPseq s p) = cells s := by
  unfold freshPseq
  split
  · exact foldl_cells _ (fun s n => updSlot_cells _ _ _) _ _
  · rfl

@[simp] theorem helloIn_cells (s : State) (p : Nat) (m : LinkMsg) : cells (helloIn s p m) = cells s := by
  unfold helloIn
  dsimp only
  (repeat' split) <;> simp

@[simp] theorem retrainIn_cells (s : State) (p : Nat) (m : LinkMsg) : cells (retrainIn s p m) = cells s := by
  unfold retrainIn
  simp

@[simp] theorem writeTorus_cells (s : State) (k : Nat) (g : TorusSt → TorusSt) : cells (writeTorus s k g) = cells s := by
  unfold writeTorus
  simp

@[simp] theorem writeCoord_cells (s : State) (k v : Nat) : cells (writeCoord s k v) = cells s := by
  unfold writeCoord
  simp

@[simp] theorem writeLen_cells (s : State) (k v : Nat) : cells (writeLen s k v) = cells s := by
  unfold writeLen
  simp

@[simp] theorem mgmtReply_cells (s : State) (result : Nat) (data : List Byte) : cells (mgmtReply s result data) = cells s := by
  unfold mgmtReply
  simp

@[simp] theorem bmcReply_cells (s : State) (ok : Bool) : cells (bmcReply s ok) = cells s := by
  unfold bmcReply
  simp

@[simp] theorem updSpdm_cells (s : State) (f : SpdmSt → SpdmSt) : cells (updSpdm s f) = cells s := by rfl

@[simp] theorem writeHmCmd_cells (s : State) (k seq op : Nat) : cells (writeHmCmd s k seq op) = cells s := by
  unfold writeHmCmd
  simp

@[simp] theorem putSel_cells (s : State) (k off v : Nat) (snap : List Nat) : cells (putSel s k off v snap) = cells s := by
  unfold putSel
  simp

@[simp] theorem selectSlot_cells (s : State) (k off v : Nat) (g : SlotSt → List Nat) : cells (selectSlot s k off v g) = cells s := by
  unfold selectSlot
  simp

@[simp] theorem selectHidden_cells (s : State) (k off v : Nat) (snap : List Nat) : cells (selectHidden s k off v snap) = cells s := by
  unfold selectHidden
  simp

@[simp] theorem writeConvSel_cells (s : State) (k v : Nat) : cells (writeConvSel s k v) = cells s := by
  unfold writeConvSel
  simp

@[simp] theorem writeStepSel_cells (s : State) (k v : Nat) : cells (writeStepSel s k v) = cells s := by
  unfold writeStepSel
  simp

@[simp] theorem writeDevSel_cells (s : State) (k v : Nat) : cells (writeDevSel s k v) = cells s := by
  unfold writeDevSel
  simp

@[simp] theorem writeQuotaSel_cells (s : State) (k v : Nat) : cells (writeQuotaSel s k v) = cells s := by
  unfold writeQuotaSel
  simp

@[simp] theorem writeTierSlotSel_cells (s : State) (k v : Nat) : cells (writeTierSlotSel s k v) = cells s := by
  unfold writeTierSlotSel
  simp

@[simp] theorem writeTierChSel_cells (s : State) (k v : Nat) : cells (writeTierChSel s k v) = cells s := by
  unfold writeTierChSel
  simp

@[simp] theorem writeLayoutSel_cells (s : State) (k v : Nat) : cells (writeLayoutSel s k v) = cells s := by
  unfold writeLayoutSel
  simp

@[simp] theorem writeArbSel_cells (s : State) (k v : Nat) : cells (writeArbSel s k v) = cells s := by
  unfold writeArbSel
  simp

@[simp] theorem writeConvClr_cells (s : State) (k v : Nat) : cells (writeConvClr s k v) = cells s := by
  unfold writeConvClr
  simp

@[simp] theorem notePerturb_cells (s : State) : cells (notePerturb s) = cells s := by
  unfold notePerturb
  split <;> simp

@[simp] theorem writeArbCtl_cells (s : State) (k v : Nat) : cells (writeArbCtl s k v) = cells s := by
  unfold writeArbCtl
  simp

@[simp] theorem writeCycSnap_cells (s : State) (k v : Nat) : cells (writeCycSnap s k v) = cells s := by
  unfold writeCycSnap
  simp

@[simp] theorem writeWdogStatus_cells (s : State) (k v : Nat) : cells (writeWdogStatus s k v) = cells s := by
  unfold writeWdogStatus
  simp

@[simp] theorem dropHeld_cells (s : State) (k : Nat) (p : PairReg) : cells (dropHeld s k p) = cells s := by
  unfold dropHeld
  simp

@[simp] theorem pairSet_cells (s : State) (k v : Nat) (p : PairReg) : cells (pairSet s k v p) = cells s := by
  cases p <;> simp [pairSet]

theorem pairDiscard_cells (s : State) (k : Nat) (p : PairReg) (t : State) (h : pairDiscard s k p = some t) : cells t = cells s := by
  cases p <;> simp only [pairDiscard] at h <;> (repeat' split at h) <;> cases h <;> simp

@[simp] theorem writePairLo_cells (s : State) (k : Nat) (p : PairReg) (v : Nat) : cells (writePairLo s k p v) = cells s := by
  unfold writePairLo
  split
  · rename_i h; exact pairDiscard_cells _ _ _ _ h
  · simp

@[simp] theorem writePairHi_cells (s : State) (k : Nat) (p : PairReg) (v : Nat) : cells (writePairHi s k p v) = cells s := by
  unfold writePairHi
  split
  · rename_i h; exact pairDiscard_cells _ _ _ _ h
  · simp

@[simp] theorem writeRingSel_cells (s : State) (k v : Nat) : cells (writeRingSel s k v) = cells s := by
  unfold writeRingSel
  simp

@[simp] theorem writeChkCtl_cells (s : State) (k u v : Nat) : cells (writeChkCtl s k u v) = cells s := by
  unfold writeChkCtl
  simp

theorem pertWrite_cells (s : State) (k : Nat) (g : State → State) (h : ∀ u, cells (g u) = cells u) : cells (pertWrite s k g) = cells s := by
  unfold pertWrite
  dsimp only
  split
  · rfl
  · split
    · rfl
    · exact h s

@[simp] theorem setFlags_cells (s : State) (k : Nat) (x : FlagReg) (b : FlagBlock) : cells (setFlags s k x b) = cells s := by
  cases b <;> simp [setFlags]

@[simp] theorem writeFlags_cells (s : State) (k : Nat) (b : FlagBlock) (v : Nat) : cells (writeFlags s k b v) = cells s := by
  unfold writeFlags
  dsimp only
  split
  · simp
  · simp
  · simp
  · exact pertWrite_cells _ _ _ (fun u => by simp)
  · split
    · exact setFlags_cells _ _ _ _
    · rfl
  · split <;> simp

@[simp] theorem updPert_cells (s : State) (g : PertSt → PertSt) : cells (updPert s g) = cells s := by
  unfold updPert
  simp

@[simp] theorem writePertCtl_cells (s : State) (k v : Nat) : cells (writePertCtl s k v) = cells s :=
  pertWrite_cells _ _ _ (fun u => by (repeat' split) <;> rfl)

@[simp] theorem writePtSel_cells (s : State) (k v : Nat) : cells (writePtSel s k v) = cells s := pertWrite_cells _ _ _ (fun _ => rfl)

@[simp] theorem pointWrite_cells (s : State) (k : Nat) (keeps : PointSt → Bool) (g : PointSt → PointSt) : cells (pointWrite s k keeps g) = cells s :=
  pertWrite_cells _ _ _ (fun u => by dsimp only; split <;> rfl)

@[simp] theorem writePtCtl_cells (s : State) (k v : Nat) : cells (writePtCtl s k v) = cells s := by
  unfold writePtCtl
  simp

@[simp] theorem writePtTarget_cells (s : State) (k v : Nat) : cells (writePtTarget s k v) = cells s := by
  unfold writePtTarget
  simp

@[simp] theorem writePtParam_cells (s : State) (k v : Nat) : cells (writePtParam s k v) = cells s := by
  unfold writePtParam
  simp

@[simp] theorem writePtSeed_cells (s : State) (k v : Nat) : cells (writePtSeed s k v) = cells s := by
  unfold writePtSeed
  simp

@[simp] theorem noteLoopback_cells (s : State) (lanes errors : Nat) : cells (noteLoopback s lanes errors) = cells s := by
  unfold noteLoopback
  simp

@[simp] theorem writeLpbkCtl_cells (s : State) (k v : Nat) : cells (writeLpbkCtl s k v) = cells s :=
  pertWrite_cells _ _ _ (fun u => by dsimp only; split <;> first | rfl | simp)

@[simp] theorem writeBistCtl_cells (s : State) (k v : Nat) : cells (writeBistCtl s k v) = cells s :=
  pertWrite_cells _ _ _ (fun u => by dsimp only; (repeat' split) <;> first | rfl | simp)

@[simp] theorem driveLands_cells (s : State) : cells (driveLands s) = cells s := by
  unfold driveLands
  simp

@[simp] theorem writeMsix_cells (s : State) (k w v : Nat) : cells (writeMsix s k w v) = cells s := by
  unfold writeMsix
  simp

@[simp] theorem writeCheckBlock_cells (s : State) (k o v : Nat) : cells (writeCheckBlock s k o v) = cells s := by
  unfold writeCheckBlock
  (repeat' split) <;> simp

theorem writeGated_cells (s : State) (k : Nat) (g : State → State) (h : ∀ u, cells (g u) = cells u) : cells (writeGated s k g) = cells s := by
  unfold writeGated
  split
  · exact h s
  · rfl

@[simp] theorem writeDeviceBlocks_cells (s : State) (k o v : Nat) : cells (writeDeviceBlocks s k o v) = cells s := by
  unfold writeDeviceBlocks
  split <;> first | rfl | (simp; done) | exact writeGated_cells _ _ _ (fun _ => rfl)

@[simp] theorem sendPending_cells (s : State) (k : Nat) : cells (sendPending s k) = cells s := by
  unfold sendPending
  exact foldl_cells _ (fun s v => by dsimp only; split <;> simp) _ _

@[simp] theorem bar0Read_cells (s : State) (k o : Nat) : cells (bar0Read s k o).2 = cells s := by
  unfold bar0Read
  simp

end Sys2Proof.Machine
end

section
/-! PROOFS. Every operation on the byte stores keeps their canonical form. -/

namespace Sys2Proof.Machine

open Sys2Proof.Safety

/-- Both byte stores are in canonical form. -/
def CellsOk (c : List Host.Cell × List Host.Cell) : Prop := mwf 0 c.1 = true ∧ mwf 0 c.2 = true

theorem memCanonical_cells (s : State) : MemCanonical s ↔ CellsOk (cells s) := Iff.rfl

@[simp] theorem ite_cellsOk (c : Prop) [Decidable c] (a b : List Host.Cell × List Host.Cell) : CellsOk (if c then a else b) ↔ if c then CellsOk a else CellsOk b := by
  split <;> rfl

theorem foldl_canonical {β : Type} (f : State → β → State) (h : ∀ s x, CellsOk (cells s) → CellsOk (cells (f s x))) (l : List β) (s : State)
    (hs : CellsOk (cells s)) : CellsOk (cells (l.foldl f s)) := by
  induction l generalizing s with
  | nil => exact hs
  | cons a l ih => exact ih _ (h _ _ hs)

theorem foldl_bind_canonical {β : Type} (f : State → β → Option State) (h : ∀ s x t, f s x = some t → CellsOk (cells s) → CellsOk (cells t)) (l : List β)
    (a : Option State) (t : State) (ht : l.foldl (fun a x => a.bind (fun s => f s x)) a = some t) (ha : ∀ s, a = some s → CellsOk (cells s)) : CellsOk (cells t) := by
  induction l generalizing a with
  | nil => exact ha t ht
  | cons x l ih =>
    refine ih _ ht fun s hs => ?_
    obtain ⟨u, rfl, hu⟩ := Option.bind_eq_some_iff.mp hs
    exact h u x s hu (ha u rfl)

@[simp] theorem writeStream_canonical (s : State) (slot : Nat) (st : Stream) (off : Nat) (bs : List Byte) (hs : CellsOk (cells s)) : CellsOk (cells (writeStream s slot st off bs)) := writeStream_ok _ _ _ _ _ hs

@[simp] theorem writeCodes_canonical (s : State) (slot : Nat) (st : Stream) (w off : Nat) (cs : List Nat) (hs : CellsOk (cells s)) : CellsOk (cells (writeCodes s slot st w off cs)) := by
  exact writeCodes_ok (h := hs) ..

@[simp] theorem setRecord_canonical (s : State) (slot t v : Nat) (hs : CellsOk (cells s)) : CellsOk (cells (setRecord s slot t v)) := by
  exact setRecord_ok (h := hs) ..

theorem retireAll_canonical (s : State) (fs : List (Nat × Nat × Nat)) (t : State) (h : retireAll s fs = some t) (hs : CellsOk (cells s)) : CellsOk (cells t) := retireAll_ok (hs := hs) (h := h) ..

theorem retireFailed_canonical (s : State) (slot : Nat) (t : State) (h : retireFailed s slot = some t) (hs : CellsOk (cells s)) : CellsOk (cells t) := by
  unfold retireFailed at h
  exact retireAll_canonical _ _ _ h hs

@[simp] theorem regenTile_canonical (s : State) (n t : Nat) (hs : CellsOk (cells s)) : CellsOk (cells (regenTile s n t)) := by
  unfold regenTile
  simp [hs]

@[simp] theorem regenWc_canonical (s : State) (n : Nat) (hs : CellsOk (cells s)) : CellsOk (cells (regenWc s n)) := by
  unfold regenWc
  dsimp only
  split
  · exact foldl_canonical _ (fun s t h => regenTile_canonical s n t h) _ _ hs
  · exact hs

@[simp] theorem beginRun_canonical (s : State) (p n : Nat) (hs : CellsOk (cells s)) : CellsOk (cells (beginRun s p n)) := by
  unfold beginRun
  dsimp only
  (repeat' split) <;> simp [hs]

@[simp] theorem startFrom_canonical (p : Nat) (l : List Nat) (s : State) (hs : CellsOk (cells s)) : CellsOk (cells (startFrom p l s)) := by
  induction l generalizing s with
  | nil => exact hs
  | cons n l ih =>
    rw [startFrom]
    split
    · exact hs
    · split
      · simp [hs]
      · exact ih _ (by simp [hs])

@[simp] theorem startRuns_canonical (s : State) (p : Nat) (hs : CellsOk (cells s)) : CellsOk (cells (startRuns s p)) := by
  unfold startRuns
  simp [hs]

@[simp] theorem spoilGranule_canonical (s : State) (p : Nat) (hs : CellsOk (cells s)) : CellsOk (cells (spoilGranule s p)) := spoilGranule_ok _ _ hs

@[simp] theorem beginAttempt_canonical (s : State) (n : Nat) (hs : CellsOk (cells s)) : CellsOk (cells (beginAttempt s n)) := by
  unfold beginAttempt
  simp [hs, foldl_canonical spoilGranule spoilGranule_canonical, foldl_cells (spoilStaging n) (spoilStaging_cells n)]

@[simp] theorem endRun_canonical (s : State) (n status detail : Nat) (hs : CellsOk (cells s)) : CellsOk (cells (endRun s n status detail)) := by
  unfold endRun
  (repeat' split) <;> simp [hs]

@[simp] theorem clearErrors_canonical (s : State) (n : Nat) (all : Bool) (hs : CellsOk (cells s)) : CellsOk (cells (clearErrors s n all).2) := by
  unfold clearErrors
  refine List.foldlRecOn (motive := fun a : Bool × State => CellsOk (cells a.2)) _ _ hs fun a h t _ => ?_
  generalize List.replicate 1024 0 = zeros, 2048 * t = o
  split
  · exact setRecord_canonical _ _ _ _ (writeCodes_canonical _ _ _ _ _ _ h)
  · split
    · exact writeCodes_canonical _ _ _ _ _ _ h
    · exact h

@[simp] theorem reportAbort_canonical (s : State) (n code : Nat) (hs : CellsOk (cells s)) : CellsOk (cells (reportAbort s n code)) := by
  unfold reportAbort
  simp [hs]

@[simp] theorem afterDrain_canonical (s : State) (p : Nat) (hs : CellsOk (cells s)) : CellsOk (cells (afterDrain s p)) := by
  unfold afterDrain
  simp [hs]

@[simp] theorem endCollecting_canonical (s : State) (r : Nat) (hs : CellsOk (cells s)) : CellsOk (cells (endCollecting s r)) := by
  unfold endCollecting
  dsimp only
  split <;> simp [hs]

@[simp] theorem settleCollect_canonical (s : State) (r : Nat) (hs : CellsOk (cells s)) : CellsOk (cells (settleCollect s r)) := by
  unfold settleCollect
  dsimp only
  split <;> simp [hs]

@[simp] theorem closeSession_canonical (s : State) (k : Nat) (hs : CellsOk (cells s)) : CellsOk (cells (closeSession s k)) := by
  unfold closeSession
  dsimp only
  (repeat' split) <;> simp [hs, foldl_canonical settleCollect settleCollect_canonical]

@[simp] theorem closeWhere_canonical (s : State) (pick : FnSt → Bool) (pickCmd : MbCmd → Bool) (hs : CellsOk (cells s)) : CellsOk (cells (closeWhere s pick pickCmd)) := by
  unfold closeWhere
  refine foldl_canonical _ (fun s p h => ?_) _ _ hs
  simp [h]

@[simp] theorem takeMb_canonical (s : State) (k seq op : Nat) (hs : CellsOk (cells s)) : CellsOk (cells (takeMb s k seq op)) := by
  unfold takeMb
  dsimp only
  (repeat' split) <;> simp [hs]

@[simp] theorem writeMbCmd_canonical (s : State) (k seq op : Nat) (hs : CellsOk (cells s)) : CellsOk (cells (writeMbCmd s k seq op)) := by
  unfold writeMbCmd
  simp [hs]

@[simp] theorem openSession_canonical (s : State) (k seq role keyId domain : Nat) (mac : List Byte) (thenClose : Bool) (hs : CellsOk (cells s)) : CellsOk (cells (openSession s k seq role keyId domain mac thenClose)) := by
  unfold openSession
  simp [hs]

@[simp] theorem endProve_canonical (s : State) (k : Nat) (c : MbCmd) (hs : CellsOk (cells s)) : CellsOk (cells (endProve s k c)) := by
  unfold endProve
  simp [hs]

@[simp] theorem endPassword_canonical (s : State) (k : Nat) (c : MbCmd) (hs : CellsOk (cells s)) : CellsOk (cells (endPassword s k c)) := by
  unfold endPassword
  simp [hs]

@[simp] theorem resetRing_canonical (s : State) (r : Nat) (hs : CellsOk (cells s)) : CellsOk (cells (resetRing s r)) := by
  unfold resetRing
  simp [hs]

@[simp] theorem resetFn_canonical (s : State) (k : Nat) (keepRings : Bool) (hs : CellsOk (cells s)) : CellsOk (cells (resetFn s k keepRings)) := by
  unfold resetFn
  refine foldl_canonical _ (fun s p h => by split <;> simp [h]) _ _ ?_
  simpa using foldl_canonical resetRing resetRing_canonical _ _ hs

@[simp] theorem resetPort_canonical (s : State) (p : Nat) (hs : CellsOk (cells s)) : CellsOk (cells (resetPort s p)) := by
  unfold resetPort
  simpa using foldl_canonical _ (fun s n h => resetFn_canonical s _ false h) _ _ hs

@[simp] theorem writeRingCtl_canonical (s : State) (k : Nat) (enable : Bool) (v : Nat) (hs : CellsOk (cells s)) : CellsOk (cells (writeRingCtl s k enable v)) := by
  unfold writeRingCtl
  simp [hs]

@[simp] theorem startAttempt_canonical (s : State) (n : Nat) (hs : CellsOk (cells s)) : CellsOk (cells (startAttempt s n)) := by
  unfold startAttempt
  simp [hs]

@[simp] theorem requestStart_canonical (s : State) (n : Nat) (hs : CellsOk (cells s)) : CellsOk (cells (requestStart s n)) := by
  unfold requestStart
  simp [hs]

@[simp] theorem grantHeld_canonical (s : State) (n : Nat) (hs : CellsOk (cells s)) : CellsOk (cells (grantHeld s n)) := by
  unfold grantHeld
  simp [hs]

theorem writePartsOf_canonical (n : Nat) (l : List (Stream × Nat × Nat × Nat)) (a : State × List Byte) (ha : CellsOk (cells a.1)) :
    CellsOk (cells (l.foldl (fun (a : State × List Byte) p => (writeStream a.1 n p.1 p.2.2.1 (a.2.take p.2.2.2), a.2.drop p.2.2.2)) a).1) := by
  induction l generalizing a with
  | nil => exact ha
  | cons x l ih => exact ih _ (by simp [ha])

@[simp] theorem storeShard_canonical (s : State) (n : Nat) (rs : ReshardSt) (sh : Nat) (bs : List Byte) (hs : CellsOk (cells s)) : CellsOk (cells (storeShard s n rs sh bs)) := by
  unfold storeShard
  dsimp only
  split
  · exact hs
  · rw [setSlot_cells]
    refine foldl_canonical _ (fun s t h => setRecord_canonical s n _ _ h) _ _ (writePartsOf_canonical _ _ _ ?_)
    rwa [setSlot_cells]

/-- The state after a retirement, or after its failure is forgotten. -/
@[simp] theorem retired_canonical (s : State) (n : Nat) (hs : CellsOk (cells s)) : CellsOk (cells ((retireFailed s n).getD (forgetFailed s n))) := by
  cases h : retireFailed s n with
  | none => simp [hs]
  | some t => exact retireFailed_canonical _ _ _ h hs

@[simp] theorem dropReshard_canonical (s : State) (n code : Nat) (hs : CellsOk (cells s)) : CellsOk (cells (dropReshard s n code)) := by
  unfold dropReshard
  dsimp only
  (repeat' split) <;> simp [hs]

@[simp] theorem landMove_canonical (s : State) (n : Nat) (p : Packet) (hs : CellsOk (cells s)) : CellsOk (cells (landMove s n p).2) := by
  unfold landMove
  dsimp only
  (repeat' split) <;> simp [hs]

@[simp] theorem finishCommit_canonical (s : State) (n : Nat) (hs : CellsOk (cells s)) : CellsOk (cells (finishCommit s n)) := by
  unfold finishCommit
  dsimp only
  (repeat' split) <;> simp [hs]

@[simp] theorem finishSwitch_canonical (s : State) (n : Nat) (hs : CellsOk (cells s)) : CellsOk (cells (finishSwitch s n)) := by
  unfold finishSwitch
  (repeat' split) <;> simp [hs]

@[simp] theorem settleRound_canonical (s : State) (n : Nat) (hs : CellsOk (cells s)) : CellsOk (cells (settleRound s n)) := by
  unfold settleRound
  dsimp only
  (repeat' split) <;> simp [hs]

@[simp] theorem act_canonical (s : State) (n : Nat) (hs : CellsOk (cells s)) : CellsOk (cells (act s n)) := by
  unfold act
  (repeat' split) <;> simp [hs]

@[simp] theorem failReshard_canonical (s : State) (n code : Nat) (hs : CellsOk (cells s)) : CellsOk (cells (failReshard s n code)) := by
  unfold failReshard
  simp [hs]

@[simp] theorem decided_canonical (s : State) (n : Nat) (hs : CellsOk (cells s)) : CellsOk (cells (decide_ s n)) := by
  unfold decide_
  simp [hs]

@[simp] theorem pushOnce_canonical (s : State) (n : Nat) (hs : CellsOk (cells s)) : CellsOk (cells (pushOnce s n)) := by
  unfold pushOnce
  (repeat' split) <;> simp [foldl_canonical, hs]

@[simp] theorem pushRound_canonical (s : State) (n : Nat) (hs : CellsOk (cells s)) : CellsOk (cells (pushRound s n)) := by
  unfold pushRound
  simp [hs]

@[simp] theorem landPass_canonical (s : State) (n : Nat) (p : Packet) (hs : CellsOk (cells s)) : CellsOk (cells (landPass s n p)) := by
  unfold landPass
  dsimp only
  (repeat' split) <;> simp [hs]

@[simp] theorem landFinal_canonical (s : State) (n : Nat) (p : Packet) (hs : CellsOk (cells s)) : CellsOk (cells (landFinal s n p)) := by
  unfold landFinal
  dsimp only
  (repeat' split) <;> simp [hs]

@[simp] theorem takeCommit_canonical (s : State) (n : Nat) (p : Packet) (hs : CellsOk (cells s)) : CellsOk (cells (takeCommit s n p)) := by
  unfold takeCommit
  simp [hs]

@[simp] theorem landAbort_canonical (s : State) (n : Nat) (p : Packet) (hs : CellsOk (cells s)) : CellsOk (cells (landAbort s n p)) := by
  unfold landAbort
  simp [hs]

@[simp] theorem joinRestart_canonical (s : State) (n : Nat) (hs : CellsOk (cells s)) : CellsOk (cells (joinRestart s n)) := by
  unfold joinRestart
  dsimp only
  (repeat' split) <;> simp [hs]

@[simp] theorem beginReplay_canonical (s : State) (n : Nat) (hs : CellsOk (cells s)) : CellsOk (cells (beginReplay s n)) := by
  unfold beginReplay
  simp [hs]

@[simp] theorem endDiscard_canonical (s : State) (p : Nat) (hs : CellsOk (cells s)) : CellsOk (cells (endDiscard s p)) := by
  unfold endDiscard
  dsimp only
  have hset := (setPart_cells s p { getPart s p with drain := .idle }).symm ▸ hs
  generalize setPart s p { getPart s p with drain := .idle } = u at hset ⊢
  split
  · simp [hset]
  · rename_i n _
    have hcut : CellsOk (cells (discardTokens u p (ownCtxs u n))) := by simpa using hset
    generalize discardTokens u p (ownCtxs u n) = v at hcut ⊢
    split
    · simp [hcut]
    · have htaken : ∀ q, CellsOk (cells (takeCommit ((retireFailed v n).getD (forgetFailed v n)) n q)) := fun q => by simp [hcut]
      split
      · refine afterDrain_canonical _ _ ?_
        split <;> simp [htaken]
      · exact afterDrain_canonical _ _ (joinRestart_canonical _ _ (by simp [hcut]))
    · refine afterDrain_canonical _ _ ?_
      split
      · rename_i w h
        simp [retireFailed_canonical _ _ _ h hcut]
      · simp [hcut]
    · split
      · rename_i w h
        simp [retireFailed_canonical _ _ _ h hcut]
      · simp [hcut]

@[simp] theorem failRun_canonical (s : State) (n code : Nat) (hs : CellsOk (cells s)) : CellsOk (cells (failRun s n code)) := by
  unfold failRun
  (repeat' split) <;> simp [hs]

@[simp] theorem failParts_canonical (s : State) (ps : List Nat) (code : Nat) (hs : CellsOk (cells s)) : CellsOk (cells (failParts s ps code)) := by
  refine foldl_canonical _ (fun s p h => ?_) _ _ hs
  dsimp only
  have hq := foldl_canonical (fun s n => failRun s n code) (fun s n h => failRun_canonical s n code h) (getPart s p).runQueue s h
  split
  · exact hq
  · exact failRun_canonical _ _ _ hq

@[simp] theorem failSlot_canonical (s : State) (n code : Nat) (hs : CellsOk (cells s)) : CellsOk (cells (failSlot s n code)) := by
  unfold failSlot
  simp [hs]

@[simp] theorem dieFault_canonical (s : State) (die det : Nat) (hs : CellsOk (cells s)) : CellsOk (cells (dieFault s die det)) := by
  unfold dieFault
  (repeat' split) <;> simp [hs]

@[simp] theorem slathFault_canonical (s : State) (q det : Nat) (hs : CellsOk (cells s)) : CellsOk (cells (slathFault s q det)) := by
  unfold slathFault
  simp [hs]

@[simp] theorem bridgeFault_canonical (s : State) (g det : Nat) (hs : CellsOk (cells s)) : CellsOk (cells (bridgeFault s g det)) := by
  unfold bridgeFault
  simp [hs]

@[simp] theorem portDieFault_canonical (s : State) (d det : Nat) (hs : CellsOk (cells s)) : CellsOk (cells (portDieFault s d det)) := by
  unfold portDieFault
  split
  · exact hs
  · have hfail := foldl_canonical (fun s n => failSlot s n sFaultUncovered) (fun s n h => failSlot_canonical s n _ h)
    have hlose := foldl_cells (fun s p => if (getLink s p).state == .up || (getLink s p).state == .retrain then drainAll (loseLink s p) else s)
      (fun s p => by split <;> simp)
    simp only [setPort_cells]
    refine resetPort_canonical _ _ ?_
    rw [hlose]
    exact hfail _ _ (by simpa using hs)

theorem replaceHbm_canonical (dom : Nat) (s : State) (g : Nat) (t : State) (h : replaceHbm dom s g = some t) (hs : CellsOk (cells s)) : CellsOk (cells t) := replaceHbm_ok (hs := hs) (h := h) ..

theorem replaceLost_canonical (s : State) (n : Nat) (t : State) (h : replaceLost s n = some t) (hs : CellsOk (cells s)) : CellsOk (cells t) := by
  unfold replaceLost at h
  obtain ⟨u, hu, rfl⟩ := Option.map_eq_some_iff.mp h
  have hu := foldl_bind_canonical _ (fun s k t h => replaceHbm_canonical _ s _ t h) _ _ _ hu (fun u hu => by cases hu; exact hs)
  split <;> simp [hu]

@[simp] theorem rimLossSlot_canonical (covered : Bool) (s : State) (n : Nat) (hs : CellsOk (cells s)) : CellsOk (cells (rimLossSlot covered s n)) := by
  unfold rimLossSlot
  split
  · simp [hs]
  · dsimp only
    split
    · rename_i t h; exact replaceLost_canonical _ _ _ h (by split <;> simp [hs])
    · exact failSlot_canonical _ _ _ (by split <;> simp [hs])

@[simp] theorem rimFault_canonical (s : State) (d det : Nat) (hs : CellsOk (cells s)) : CellsOk (cells (rimFault s d det)) := by
  unfold rimFault
  split
  · exact hs
  · refine foldl_canonical _ (fun s n h => rimLossSlot_canonical _ s n h) _ _ ?_
    dsimp only
    rw [loseMirrored_cells, raiseTier_cells]
    split <;> simpa using hs

@[simp] theorem rimFailure_canonical (s : State) (c : Nat) (hs : CellsOk (cells s)) : CellsOk (cells (rimFailure s c)) := by
  unfold rimFailure
  simp [hs]

@[simp] theorem linkFault_canonical (s : State) (p : Nat) (ring : Bool) (hs : CellsOk (cells s)) : CellsOk (cells (linkFault s p ring)) := by
  unfold linkFault
  dsimp only
  split
  · exact foldl_canonical _ (fun s n h => by simp [h]) _ _ (by simpa using hs)
  · exact foldl_canonical _ (fun s n h => by simp [h]) _ _ (by simpa using hs)

@[simp] theorem bondTransient_canonical (s : State) (die : Nat) (hs : CellsOk (cells s)) : CellsOk (cells (bondTransient s die)) := by
  unfold bondTransient
  simp [hs]

@[simp] theorem sramError_canonical (s : State) (die word n : Nat) (hs : CellsOk (cells s)) : CellsOk (cells (sramError s die word n)) := by
  unfold sramError
  simp [hs]

@[simp] theorem loadSpare_canonical (s : State) (ks : List Nat) (o : SpareOp) (hs : CellsOk (cells s)) : CellsOk (cells (loadSpare s ks o)) := by
  refine foldl_canonical _ (fun s p h => ?_) _ _ hs
  have hcores : ∀ u : State, ∀ l : List Nat, cells (l.foldl (fun u c => if coreCluster c ∈ ks then setCore u c (spareCore (getPart s p) (getCore u c)) else u) u) = cells u :=
    fun u l => foldl_cells _ (fun u c => by split <;> simp) _ _
  dsimp only
  split
  · split <;> simp [hcores, h]
  · refine joinRestart_canonical _ _ ?_
    split <;> simp [hcores, h]

@[simp] theorem requestLate_canonical (s : State) (n c due : Nat) (write : Bool) (hs : CellsOk (cells s)) : CellsOk (cells (requestLate s n c due write)) := by
  unfold requestLate
  (repeat' split) <;> simp [hs]

@[simp] theorem countRead_canonical (s : State) (n : Option Nat) (c : Nat) (f : ReadFate) (hs : CellsOk (cells s)) : CellsOk (cells (countRead s n c f)) := by
  unfold countRead
  simp [hs]

@[simp] theorem readAborts_canonical (s : State) (n : Nat) (report : Bool) (code : Nat) (hs : CellsOk (cells s)) : CellsOk (cells (readAborts s n report code)) := by
  unfold readAborts
  split <;> simp [hs]

@[simp] theorem failedRead_canonical (s : State) (n tier p o : Nat) (hs : CellsOk (cells s)) : CellsOk (cells (failedRead s n tier p o)) := by
  unfold failedRead
  dsimp only
  (repeat' split) <;> simp [hs]

theorem copyBlock_canonical (dom : Nat) (bad : Bool) (a : CopyRead) (addr : Nat) (hs : CellsOk (cells a.s)) : CellsOk (cells (copyBlock dom bad a addr).s) := by
  unfold copyBlock
  dsimp only
  split
  · exact hs
  · split
    · exact hs
    · split
      · rw [copyFailed_cells]; simp [hs]
      · simp [hs]

@[simp] theorem copyReadsAt_canonical (s : State) (dom : Nat) (addrs fails : List Nat) (hs : CellsOk (cells s)) : CellsOk (cells (copyReadsAt s dom addrs fails).2) := by
  have hf := List.foldlRecOn (motive := fun a : CopyRead => CellsOk (cells a.s)) addrs
    (fun a x => copyBlock dom (fails.any (fun f => f / 4096 == x / 4096)) a x) (b := { s := s }) hs (fun a h x _ => copyBlock_canonical _ _ _ _ h)
  unfold copyReadsAt
  dsimp only
  split
  · rwa [raiseQuota_cells]
  · rename_i h
    exact retireAll_canonical _ _ _ h hf

@[simp] theorem copyReads_canonical (s : State) (dom a n : Nat) (fails : List Nat) (hs : CellsOk (cells s)) : CellsOk (cells (copyReads s dom a n fails).2) := by
  unfold copyReads
  simp [hs]

@[simp] theorem setTierBytes_canonical (s : State) (dom a : Nat) (bs : List Byte) (hs : CellsOk (cells s)) : CellsOk (cells (setTierBytes s dom a bs)) := by
  exact setTierBytes_ok (h := hs) ..

@[simp] theorem putElem_canonical (x : SlotSt) (u : TierPut) (s : State) (i : Nat) (hs : CellsOk (cells s)) : CellsOk (cells (putElem x u s i)) := by
  unfold putElem
  dsimp only
  (repeat' split) <;> simp [hs]

@[simp] theorem putTile_canonical (s : State) (n : Option Nat) (u : Option TierPut) (hs : CellsOk (cells s)) : CellsOk (cells (putTile s n u)) := by
  unfold putTile
  split
  · split
    · exact foldl_canonical _ (fun s i h => putElem_canonical _ _ s i h) _ _ hs
    · exact hs
  · exact hs

@[simp] theorem admitRun_canonical (s : State) (n : Nat) (es : List ProbEntry) (hs : CellsOk (cells s)) : CellsOk (cells (admitRun s n es)) := by
  unfold admitRun
  dsimp only
  (repeat' split) <;> simp [hs]

@[simp] theorem admitCollected_canonical (s : State) (r id : Nat) (hs : CellsOk (cells s)) : CellsOk (cells (admitCollected s r id)) := by
  unfold admitCollected
  dsimp only
  (repeat' split) <;> simp [hs]

@[simp] theorem collectHead_canonical (s : State) (r : Nat) (c : Nat × Nat) (hs : CellsOk (cells s)) : CellsOk (cells (collectHead s r c)) := by
  unfold collectHead
  simp [hs]

@[simp] theorem dropContexts_canonical (s : State) (n : Nat) (hs : CellsOk (cells s)) : CellsOk (cells (dropContexts s n).2) := by
  unfold dropContexts
  generalize hv : evictSlot s n = v
  have hs : CellsOk (cells v.2) := by rw [← hv, evictSlot_cells]; exact hs
  dsimp only
  rw [tryLoads_cells]
  split
  · exact endRun_canonical _ _ _ _ (by simpa using hs)
  · simpa using hs

@[simp] theorem startEvict_canonical (e : DescEnv) (s : State) (hs : CellsOk (cells s)) : CellsOk (cells (startEvict e s)) := by
  unfold startEvict
  simp [hs]

@[simp] theorem acceptRun_canonical (e : DescEnv) (s : State) (hs : CellsOk (cells s)) : CellsOk (cells (acceptRun e s)) := by
  unfold acceptRun
  dsimp only
  (repeat' split) <;> simp [hs]

@[simp] theorem quantiseNow_canonical (s : State) (n t : Nat) (g : List Nat) (hs : CellsOk (cells s)) : CellsOk (cells (quantiseNow s n t g)) := by
  unfold quantiseNow
  dsimp only
  rw [updRun_cells, countConv_cells]
  exact setRecord_canonical _ _ _ _ (writeCodes_canonical _ _ _ _ _ _ (writeCodes_canonical _ _ _ _ _ _ hs))

@[simp] theorem writeState_canonical (s : State) (m : Nat) (x : SlotSt) (b : BorderSt) (k bank q : Nat) (vs : List Nat) (hs : CellsOk (cells s)) : CellsOk (cells (writeState s m x b k bank q vs)) := by
  unfold writeState
  dsimp only
  rw [countConv_cells]
  exact writeCodes_canonical _ _ _ _ _ _ hs

@[simp] theorem writeTotals_canonical (s : State) (m : Nat) (x : SlotSt) (b : BorderSt) (k len : Nat) (t : SMap PairAcc) (hs : CellsOk (cells s)) : CellsOk (cells (writeTotals s m x b k len t)) := by
  unfold writeTotals
  simp [hs]

@[simp] theorem sideWrite_canonical (s : State) (bs : List Byte) (x : CopySide) (hs : CellsOk (cells s)) : CellsOk (cells (sideWrite s bs x)) := by
  exact sideWrite_ok (h := hs) ..

@[simp] theorem copyWrite_canonical (s : State) (raw : Nat) (bs : List Byte) (hs : CellsOk (cells s)) : CellsOk (cells (copyWrite s raw bs).1) := sideWrite_canonical _ _ _ hs

@[simp] theorem copyIn_canonical (e : DescEnv) (s : State) (hs : CellsOk (cells s)) : CellsOk (cells (copyIn e s)) := by
  have hw : ∀ u r bs, CellsOk (cells u) → CellsOk (cells (copyWrite u r bs).1) := fun u r bs h => copyWrite_canonical u r bs h
  have h2 : ∀ u r bs r' bs', CellsOk (cells u) → CellsOk (cells (copyWrite (copyWrite u r bs).1 r' bs').1) := fun u r bs r' bs' h => by simp [h]
  unfold copyIn
  dsimp only
  (repeat' split) <;> simp [h2, hs]

@[simp] theorem copyOut_canonical (e : DescEnv) (s : State) (hs : CellsOk (cells s)) : CellsOk (cells (copyOut e s)) := by
  unfold copyOut
  dsimp only
  (repeat' split) <;> simp [hs]

@[simp] theorem fill_canonical (e : DescEnv) (s : State) (hs : CellsOk (cells s)) : CellsOk (cells (fill e s)) := by
  unfold fill
  dsimp only
  split
  · simp [hs]
  · split <;> simp [hs]

@[simp] theorem checkpoint_canonical (e : DescEnv) (s : State) (hs : CellsOk (cells s)) : CellsOk (cells (checkpoint e s)) := by
  unfold checkpoint
  dsimp only
  (repeat' split) <;> simp [hs]

@[simp] theorem writeParts_canonical (n : Nat) (ps : List (Stream × Nat × Nat)) (bs : List Byte) (s : State) (hs : CellsOk (cells s)) : CellsOk (cells (writeParts n ps bs s)) := by
  induction ps generalizing bs s with
  | nil => exact hs
  | cons p ps ih => exact ih _ _ (by simp [hs])

@[simp] theorem restore_canonical (e : DescEnv) (s : State) (hs : CellsOk (cells s)) : CellsOk (cells (restore e s)) := by
  unfold restore
  dsimp only
  split
  · simp [hs]
  · split
    · simp [hs]
    · split
      · simp [hs]
      · rw [DescEnv.done_cells]
        exact foldl_canonical _ (fun s i h => setRecord_canonical s _ _ _ h) _ _ (writeParts_canonical _ _ _ _ (by simpa using hs))

@[simp] theorem removeSlot_canonical (e : DescEnv) (s : State) (hs : CellsOk (cells s)) : CellsOk (cells (removeSlot e s)) := by
  unfold removeSlot
  simp [hs]

@[simp] theorem disableLink_canonical (s : State) (p : Nat) (x : LinkSt) (hs : CellsOk (cells s)) : CellsOk (cells (disableLink s p x)) := by
  unfold disableLink
  simp [hs]

@[simp] theorem linkLoss_canonical (s : State) (p : Nat) (hs : CellsOk (cells s)) : CellsOk (cells (linkLoss s p)) := by
  unfold linkLoss
  simp [hs]

@[simp] theorem breakIn_canonical (s : State) (p : Nat) (m : LinkMsg) (hs : CellsOk (cells s)) : CellsOk (cells (breakIn s p m)) := by
  unfold breakIn
  simp [hs]

@[simp] theorem linkIn_canonical (s : State) (p : Nat) (b : Block) (hs : CellsOk (cells s)) : CellsOk (cells (linkIn s p b)) := by
  unfold linkIn
  simp [hs]

@[simp] theorem acceptBlock_canonical (s : State) (p : Nat) (b : Block) (hs : CellsOk (cells s)) : CellsOk (cells (acceptBlock s p b)) := by
  unfold acceptBlock
  dsimp only
  (repeat' split) <;> simp [hs]

@[simp] theorem writeLinkCtl_canonical (s : State) (k p v : Nat) (hs : CellsOk (cells s)) : CellsOk (cells (writeLinkCtl s k p v)) := by
  unfold writeLinkCtl
  simp [hs]

@[simp] theorem closeKey_canonical (s : State) (id : Nat) (hs : CellsOk (cells s)) : CellsOk (cells (closeKey s id)) := by
  unfold closeKey
  simp [hs]

@[simp] theorem endMarchDram_canonical (s : State) (tkind target : Nat) (fails : List Nat) (hs : CellsOk (cells s)) : CellsOk (cells (endMarchDram s tkind target fails)) := endMarchDram_ok _ _ _ _ hs

@[simp] theorem endMarchCores_canonical (s : State) (k : Nat) (failed : Bool) (hs : CellsOk (cells s)) : CellsOk (cells (endMarchCores s k failed)) := by
  unfold endMarchCores
  (repeat' split) <;> simp [foldl_canonical, hs]

@[simp] theorem writeHostBlock_canonical (s : State) (k o v : Nat) (hs : CellsOk (cells s)) : CellsOk (cells (writeHostBlock s k o v)) := by
  unfold writeHostBlock
  (repeat' split) <;> simp [hs]

@[simp] theorem writeLinkBlock_canonical (s : State) (k p o v : Nat) (hs : CellsOk (cells s)) : CellsOk (cells (writeLinkBlock s k p o v)) := by
  unfold writeLinkBlock
  simp [hs]

@[simp] theorem bar0Write_canonical (s : State) (k o v : Nat) (hs : CellsOk (cells s)) : CellsOk (cells (bar0Write s k o v)) := by
  unfold bar0Write
  simp [hs]

@[simp] theorem writeSriov_canonical (s : State) (p v : Nat) (hs : CellsOk (cells s)) : CellsOk (cells (writeSriov s p v)) := by
  unfold writeSriov
  dsimp only
  split
  · exact foldl_canonical _ (fun s i h => resetFn_canonical s _ true h) _ _ (by simpa using hs)
  · simp [hs]

@[simp] theorem cfgWrite_canonical (s : State) (k : Nat) (r : CfgReg) (v : Nat) (hs : CellsOk (cells s)) : CellsOk (cells (cfgWrite s k r v)) := by
  unfold cfgWrite
  dsimp only
  split <;> (repeat' split) <;> simp [hs]

@[simp] theorem bar2Write_canonical (s : State) (k o v : Nat) (hs : CellsOk (cells s)) : CellsOk (cells (bar2Write s k o v)) := by
  unfold bar2Write
  simp [hs]

end Sys2Proof.Machine
end

section
/-! PROOFS. What a command answers keeps the queue, the latch and the Handle dies, and the canonical form of the byte stores: the shared shapes of commands. -/

namespace Sys2Proof.Machine

/-- Every state that an outcome answers has a property. -/
structure Yields (P : State → Prop) (r : Res) : Prop where
  of_next : ∀ t, r = .next t → P t

@[simp] theorem yields_next (P : State → Prop) (t : State) : Yields P (.next t) ↔ P t := ⟨fun h => h.of_next t rfl, fun h => ⟨fun _ e => by cases e; exact h⟩⟩
@[simp] theorem yields_refused (P : State → Prop) (r : Refusal) : Yields P (.refused r) := ⟨fun _ e => by cases e⟩
@[simp] theorem yields_fault (P : State → Prop) (r : Fault) : Yields P (.fault r) := ⟨fun _ e => by cases e⟩

/-- The queue, the latch and the dies are as they were, and the byte stores stay canonical. -/
def Keeps (s t : State) : Prop := kept t = kept s ∧ (CellsOk (cells s) → CellsOk (cells t))

@[simp] theorem keeps_iff (s t : State) : Keeps s t ↔ kept t = kept s ∧ (CellsOk (cells s) → CellsOk (cells t)) := Iff.rfl

theorem atCore_keeps {s : State} {k : Issue → Res} (c : Nat) (h : ∀ i, Yields (Keeps s) (k i)) : Yields (Keeps s) (atCore s c k) := by
  unfold atCore
  (repeat' split) <;> simp [h]
  
theorem atAHalf_keeps {s : State} {k : Issue → Res} (c : Nat) (h : ∀ i, Yields (Keeps s) (k i)) : Yields (Keeps s) (atAHalf s c k) :=
  atCore_keeps c fun i => by split <;> simp [h]

theorem laneOp_keeps (k lat toPred srcs o f) (s : State) : Yields (Keeps s) (laneOp k lat toPred srcs o f s) := by
  unfold laneOp
  (repeat' split) <;> simp [atAHalf_keeps]

theorem reduceOp_keeps (lat o f) (s : State) : Yields (Keeps s) (reduceOp lat o f s) := by
  unfold reduceOp
  (repeat' split) <;> simp [atAHalf_keeps]

theorem sfuInstr_keeps (op o) (s : State) : Yields (Keeps s) (sfuInstr op o s) := by
  unfold sfuInstr
  dsimp only
  split <;> simp [atAHalf_keeps]

theorem predReduce_keeps (f o) (s : State) : Yields (Keeps s) (predReduce f o s) := atCore_keeps _ fun i => by simp

theorem gsInstr_keeps {s : State} {k : Issue → Res} (o : GsOp) (h : ∀ i, Yields (Keeps s) (k i)) : Yields (Keeps s) (gsInstr o s k) := by
  unfold gsInstr
  split
  · simp
  · exact atCore_keeps _ h

theorem indexResult_keeps (o s i extra rs) : Yields (Keeps s) (indexResult o s i extra rs) := by
  unfold indexResult
  simp

theorem fnWrite_keeps {s : State} (f : FnAddr) {g : Nat → Res} (h : ∀ k, Yields (Keeps s) (g k)) : Yields (Keeps s) (fnWrite f s g) := by
  unfold fnWrite
  (repeat' split) <;> simp [h]

@[simp] theorem arrivalLate_kept (s : State) (p : Packet) : kept (arrivalLate s p) = kept s := by
  unfold arrivalLate
  split
  · dsimp only
    (repeat' split) <;> simp
  · rfl

@[simp] theorem arrivalLate_cells (s : State) (p : Packet) : cells (arrivalLate s p) = cells s := by
  unfold arrivalLate
  split
  · dsimp only
    (repeat' split) <;> simp
  · rfl

theorem gate_keeps (s : State) (p : Packet) {f : State → Nat → Option State} (h : ∀ u n t, f u n = some t → Keeps u t) : Keeps s (gate s p (fun _ => s) f) := by
  unfold gate
  split
  case h_6 n _ =>
    cases hf : f (takePseq s n p) n with
    | none => simp
    | some t => simpa using h _ _ _ hf
  all_goals simp +contextual

theorem packetRow_keeps (k : Nat) (p : Packet) (s : State) {f : State → Nat → Option State} (h : ∀ u n t, f u n = some t → Keeps u t) :
    Yields (Keeps s) (packetRow k p s f) := by
  unfold packetRow
  split
  · simpa using gate_keeps (arrivalLate s p) p h
  · simp

theorem coreRead_keeps {s : State} (c : Nat) {k : Res} (h : Yields (Keeps s) k) : Yields (Keeps s) (coreRead s c k) := by
  unfold coreRead
  split
  · exact h
  · split
    · exact h
    · split
      · exact h
      · rename_i u hu
        have hk := takeInject_kept _ _ _ _ hu
        have hc := takeInject_cells _ _ _ _ hu
        simp +contextual [hk, hc]

theorem decideRow_keeps (code o plan) {go : DescEnv → State → State} (s : State) (h : ∀ e u, Keeps u (go e u)) : Yields (Keeps s) (decideRow code o plan go s) := by
  unfold decideRow
  dsimp only
  split
  · split
    · simp
    · split
      · simp +contextual
      · split
        · simp
        · split
          · simp
          · split
            · simp
            · simp
            · simpa using h _ (takeHead s o.ring.toNat none).2
  · simp

theorem borderOp_keeps (op o) (s : State) {f : SlotSt → BorderSt → State → State × BorderSt} (h : ∀ x b u, Keeps u (f x b u).1) : Yields (Keeps s) (borderOp op o s f) := by
  unfold borderOp
  dsimp only
  have h := h (getSlot s (getBorder s o.rim.toNat).slot) (getBorder s o.rim.toNat) s
  split
  · simp
  · simpa using h

theorem atLink_keeps {s : State} (port : PortNo) {k : Nat → LinkSt → Res} (h : ∀ p x, Yields (Keeps s) (k p x)) : Yields (Keeps s) (atLink s port k) := by
  unfold atLink
  split <;> simp [h]

theorem inSecured_keeps {s : State} {k : State → State} (h : Keeps s (k s)) : Yields (Keeps s) (inSecured s k) := by
  unfold inSecured
  (repeat' split) <;> simp_all

theorem inMgmt_keeps {s : State} {k : State → State} (h : Keeps s (k s)) : Yields (Keeps s) (inMgmt s k) := by
  unfold inMgmt
  (repeat' split) <;> simp_all
@[simp] theorem raiseStall_kept (s : State) (p : Nat) : kept (raiseStall s p) = kept s := by
  simp only [raiseStall]
  simp [*]

@[simp] theorem raiseStall_canonical (s : State) (p : Nat) (hs : CellsOk (cells s)) : CellsOk (cells (raiseStall s p)) := by
  simp only [raiseStall]
  simp [*]

@[simp] theorem stallRun_kept (s : State) (p : Nat) : kept (stallRun s p) = kept s := by
  simp only [stallRun]
  (repeat' split) <;> simp [*]

@[simp] theorem stallRun_canonical (s : State) (p : Nat) (hs : CellsOk (cells s)) : CellsOk (cells (stallRun s p)) := by
  simp only [stallRun]
  (repeat' split) <;> simp [*]

/-- The end of a secured session, stated over a state of its own so that no event of the log is evaluated. -/
theorem spdmEnded_kept (s : State) : kept (updHandle s (fun h => { h with spdm := none })) = kept s := by
  simp

@[simp] theorem mgAuth_kept (s : State) (p : SpdmSt) (mac : List Byte) : kept (mgAuth s p mac) = kept s := by
  unfold mgAuth
  dsimp only
  split
  · simp
  · split
    · simp
    · split
      · simp
      · split
        · simp
        · rw [mgmtReply_kept, spdmEnded_kept]
          simp

@[simp] theorem mgAuth_canonical (s : State) (p : SpdmSt) (mac : List Byte) (hs : CellsOk (cells s)) : CellsOk (cells (mgAuth s p mac)) := by
  unfold mgAuth
  dsimp only
  (repeat' split) <;> simp [*]

@[simp] theorem logKeyStore_kept (s : State) (args : List Byte) : kept (logKeyStore s args) = kept s := by
  simp only [logKeyStore]
  simp [*]

@[simp] theorem logKeyStore_canonical (s : State) (args : List Byte) (hs : CellsOk (cells s)) : CellsOk (cells (logKeyStore s args)) := by
  simp only [logKeyStore]
  simp [*]

@[simp] theorem dropSession_kept (s : State) (k : Nat) : kept (dropSession s k) = kept s := by
  simp only [dropSession]
  simp [*]

@[simp] theorem dropSession_canonical (s : State) (k : Nat) (hs : CellsOk (cells s)) : CellsOk (cells (dropSession s k)) := by
  simp only [dropSession]
  simp [*]

@[simp] theorem sendEntries_kept (s : State) (n rank : Nat) (is : List Nat) : kept (sendEntries s n rank is) = kept s := by
  simp only [sendEntries]
  simp [*]

@[simp] theorem sendEntries_canonical (s : State) (n rank : Nat) (is : List Nat) (hs : CellsOk (cells s)) : CellsOk (cells (sendEntries s n rank is)) := by
  simp only [sendEntries]
  simp [*]

@[simp] theorem failedMove_kept (s : State) (n tier p o : Nat) : kept (failedMove s n tier p o) = kept s := by
  simp only [failedMove]
  (repeat' split) <;> simp [*]

@[simp] theorem failedMove_canonical (s : State) (n tier p o : Nat) (hs : CellsOk (cells s)) : CellsOk (cells (failedMove s n tier p o)) := by
  simp only [failedMove]
  (repeat' split) <;> simp [*]

@[simp] theorem countCorrected_kept (s : State) (w : SramWord) : kept (countCorrected s w) = kept s := by
  simp only [countCorrected]
  simp [*]

@[simp] theorem countCorrected_canonical (s : State) (w : SramWord) (hs : CellsOk (cells s)) : CellsOk (cells (countCorrected s w)) := by
  simp only [countCorrected]
  simp [*]

@[simp] theorem tableFailed_kept (s : State) (x : Ctx) : kept (tableFailed s x) = kept s := by
  simp only [tableFailed]
  simp [*]

@[simp] theorem tableFailed_canonical (s : State) (x : Ctx) (hs : CellsOk (cells s)) : CellsOk (cells (tableFailed s x)) := by
  simp only [tableFailed]
  simp [*]

@[simp] theorem repairDone_kept (s : State) (n r : Nat) : kept (repairDone s n r) = kept s := by
  simp only [repairDone]
  simp [*]

@[simp] theorem repairDone_canonical (s : State) (n r : Nat) (hs : CellsOk (cells s)) : CellsOk (cells (repairDone s n r)) := by
  simp only [repairDone]
  simp [*]

@[simp] theorem endRepair_kept (s : State) (n : Nat) : kept (endRepair s n) = kept s := by
  simp only [endRepair]
  (repeat' split) <;> simp [*]

@[simp] theorem endRepair_canonical (s : State) (n : Nat) (hs : CellsOk (cells s)) : CellsOk (cells (endRepair s n)) := by
  simp only [endRepair]
  (repeat' split) <;> simp [*]

@[simp] theorem askEntries_kept (s : State) (n : Nat) (is : List Nat) : kept (askEntries s n is) = kept s := by
  simp only [askEntries]
  simp [*]

@[simp] theorem askEntries_canonical (s : State) (n : Nat) (is : List Nat) (hs : CellsOk (cells s)) : CellsOk (cells (askEntries s n is)) := by
  simp only [askEntries]
  simp [*]

@[simp] theorem landList_kept (s : State) (n rank : Nat) (crcs : List Nat) : kept (landList s n rank crcs) = kept s := by
  simp only [landList]
  (repeat' split) <;> simp [*]

@[simp] theorem landList_canonical (s : State) (n rank : Nat) (crcs : List Nat) (hs : CellsOk (cells s)) : CellsOk (cells (landList s n rank crcs)) := by
  simp only [landList]
  (repeat' split) <;> simp [*]

@[simp] theorem measureSites_kept (s : State) : kept (measureSites s) = kept s := by
  simp only [measureSites]
  simp [*]

@[simp] theorem measureSites_canonical (s : State) (hs : CellsOk (cells s)) : CellsOk (cells (measureSites s)) := by
  simp only [measureSites]
  simp [*]

@[simp] theorem measureStandby_kept (s : State) (i : Option ImageSt) : kept (measureStandby s i) = kept s := by
  simp only [measureStandby]
  simp [*]

@[simp] theorem measureStandby_canonical (s : State) (i : Option ImageSt) (hs : CellsOk (cells s)) : CellsOk (cells (measureStandby s i)) := by
  simp only [measureStandby]
  simp [*]

theorem Keeps.trans {s t u : State} (h : Keeps s t) (h' : Keeps t u) : Keeps s u := ⟨h'.1.trans h.1, h'.2 ∘ h.2⟩

end Sys2Proof.Machine
end

section
/-! PROOFS. The commands that keep the queue, the latch, the Handle dies and the canonical form, one lemma per command. -/

namespace Sys2Proof.Machine

theorem execGather_keeps (o : GsOp) (s : State) : Yields (Keeps s) (execGather o s) := gsInstr_keeps _ fun i => by
  dsimp only
  (repeat' split) <;> simp +contextual

theorem execGatherDelivery_keeps (core : BitVec 12) (s : State) : Yields (Keeps s) (execGatherDelivery core s) := by
  simp only [execGatherDelivery]
  (repeat' split) <;> simp +contextual

theorem execRecv_keeps (o : TokOp) (s : State) : Yields (Keeps s) (execRecv o s) := atCore_keeps _ fun i => by
  dsimp only
  (repeat' split) <;> simp +contextual

theorem execRel_keeps (o : TokOp) (s : State) : Yields (Keeps s) (execRel o s) := atCore_keeps _ fun i => by
  dsimp only
  (repeat' split) <;> simp +contextual

theorem execTokenArrival_keeps (t : Token) (s : State) : Yields (Keeps s) (execTokenArrival t s) := by
  simp only [execTokenArrival]
  (repeat' split) <;> simp +contextual

theorem execLoop_keeps (core : BitVec 12) (body : BitVec 9) (count : LoopCount) (s : State) : Yields (Keeps s) (execLoop core body count s) := atCore_keeps _ fun i => by
  dsimp only
  (repeat' split) <;> simp +contextual

theorem execYield_keeps (core : BitVec 12) (pinv : Bool) (preg : BitVec 3) (s : State) : Yields (Keeps s) (execYield core pinv preg s) := atCore_keeps _ fun i => by
  dsimp only
  (repeat' split) <;> simp +contextual

theorem execFold_keeps (core : BitVec 12) (pinv : Bool) (preg : BitVec 3) (s : State) : Yields (Keeps s) (execFold core pinv preg s) := atCore_keeps _ fun i => by
  dsimp only
  (repeat' split) <;> simp +contextual

theorem execPmark_keeps (core : BitVec 12) (pinv : Bool) (preg : BitVec 3) (bundle : BitVec 12) (s : State) : Yields (Keeps s) (execPmark core pinv preg bundle s) := atCore_keeps _ fun i => by
  dsimp only
  (repeat' split) <;> simp +contextual

theorem execStoreRegister_keeps (o : LdstOp) (s : State) : Yields (Keeps s) (execStoreRegister o s) := atCore_keeps _ fun i => by
  dsimp only
  simp +contextual

theorem execContextSwitch_keeps (core : BitVec 12) (s : State) : Yields (Keeps s) (execContextSwitch core s) := by
  simp only [execContextSwitch]
  (repeat' split) <;> simp +contextual

theorem execLoadProceed_keeps (part : BitVec 6) (s : State) : Yields (Keeps s) (execLoadProceed part s) := by
  simp only [execLoadProceed]
  simp +contextual

theorem execLoadBlocked_keeps (part : BitVec 6) (ctx : BitVec 2) (s : State) : Yields (Keeps s) (execLoadBlocked part ctx s) := by
  simp only [execLoadBlocked]
  (repeat' split) <;> simp +contextual

theorem execStallWatchdog_keeps (part : BitVec 6) (s : State) : Yields (Keeps s) (execStallWatchdog part s) := by
  simp only [execStallWatchdog]
  (repeat' split) <;> simp +contextual

theorem execDrainEnd_keeps (part : BitVec 6) (s : State) : Yields (Keeps s) (execDrainEnd part s) := by
  simp only [execDrainEnd]
  (repeat' split) <;> simp +contextual

theorem execWdogStatus_keeps (f : FnAddr) (value : Word) (s : State) : Yields (Keeps s) (execWdogStatus f value s) := fnWrite_keeps _ fun k => by simp +contextual

theorem execStepStart_keeps (slot : BitVec 12) (s : State) : Yields (Keeps s) (execStepStart slot s) := by
  simp only [execStepStart]
  (repeat' split) <;> simp +contextual

theorem execQuantiseTile_keeps (slot : BitVec 12) (tile : Word) (s : State) : Yields (Keeps s) (execQuantiseTile slot tile s) := by
  simp only [execQuantiseTile]
  (repeat' split) <;> simp +contextual

theorem execBorderNop_keeps (o : BorderOp) (s : State) : Yields (Keeps s) (execBorderNop o s) := borderOp_keeps _ _ _ fun x b u => by simp +contextual

theorem execLdg_keeps (o : BorderOp) (s : State) : Yields (Keeps s) (execLdg o s) := borderOp_keeps _ _ _ fun x b u => by simp +contextual

theorem execLdw_keeps (o : BorderOp) (s : State) : Yields (Keeps s) (execLdw o s) := borderOp_keeps _ _ _ fun x b u => by simp +contextual

theorem execLds_keeps (o : BorderOp) (s : State) : Yields (Keeps s) (execLds o s) := borderOp_keeps _ _ _ fun x b u => by simp +contextual

theorem execStw_keeps (o : BorderOp) (s : State) : Yields (Keeps s) (execStw o s) := borderOp_keeps _ _ _ fun x b u => by simp +contextual

theorem execSts_keeps (o : BorderOp) (s : State) : Yields (Keeps s) (execSts o s) := borderOp_keeps _ _ _ fun x b u => by simp +contextual

theorem execSumsq_keeps (o : BorderOp) (s : State) : Yields (Keeps s) (execSumsq o s) := borderOp_keeps _ _ _ fun x b u => by simp +contextual

theorem execArsum_keeps (o : BorderOp) (s : State) : Yields (Keeps s) (execArsum o s) := borderOp_keeps _ _ _ fun x b u => by simp +contextual

theorem execAcsum_keeps (o : BorderOp) (s : State) : Yields (Keeps s) (execAcsum o s) := borderOp_keeps _ _ _ fun x b u => by simp +contextual

theorem execKacc_keeps (o : BorderOp) (s : State) : Yields (Keeps s) (execKacc o s) := borderOp_keeps _ _ _ fun x b u => by simp +contextual

theorem execGradReady_keeps (slot : BitVec 12) (s : State) : Yields (Keeps s) (execGradReady slot s) := by
  simp only [execGradReady]
  (repeat' split) <;> simp +contextual

theorem execWcReadyPoll_keeps (slot : BitVec 12) (word : DWord) (data : List Byte) (s : State) : Yields (Keeps s) (execWcReadyPoll slot word data s) := by
  simp only [execWcReadyPoll]
  (repeat' split) <;> simp +contextual

theorem execHostTimeout_keeps (slot : BitVec 12) (s : State) : Yields (Keeps s) (execHostTimeout slot s) := by
  simp only [execHostTimeout]
  (repeat' split) <;> simp +contextual

theorem execPeerLost_keeps (slot : BitVec 12) (s : State) : Yields (Keeps s) (execPeerLost slot s) := by
  simp only [execPeerLost]
  (repeat' split) <;> simp +contextual

theorem execFenceRound_keeps (slot : BitVec 12) (s : State) : Yields (Keeps s) (execFenceRound slot s) := by
  simp only [execFenceRound]
  (repeat' split) <;> simp +contextual

theorem execTrainingDone_keeps (port : PortNo) (txBad rxBad : Word) (s : State) : Yields (Keeps s) (execTrainingDone port txBad rxBad s) := atLink_keeps _ fun p x => by
  dsimp only
  (repeat' split) <;> simp +contextual

theorem execBlockReceive_keeps (port : PortNo) (a : Arrival) (fecCorr fecUncorr : Nat) (badLanes : Word) (s : State) : Yields (Keeps s) (execBlockReceive port a fecCorr fecUncorr badLanes s) := atLink_keeps _ fun p x => by
  dsimp only
  (repeat' split) <;> simp +contextual

theorem execLaneTestEnd_keeps (port : PortNo) (txBad rxBad : Word) (s : State) : Yields (Keeps s) (execLaneTestEnd port txBad rxBad s) := atLink_keeps _ fun p x => by
  dsimp only
  (repeat' split) <;> simp +contextual

theorem execTorusCoord_keeps (f : FnAddr) (value : Word) (s : State) : Yields (Keeps s) (execTorusCoord f value s) := fnWrite_keeps _ fun k => by simp +contextual

theorem execTorusLen_keeps (f : FnAddr) (value : Word) (s : State) : Yields (Keeps s) (execTorusLen f value s) := fnWrite_keeps _ fun k => by simp +contextual

theorem execPortReset_keeps (port : BitVec 1) (kind : PortResetKind) (s : State) : Yields (Keeps s) (execPortReset port kind s) := by
  simp only [execPortReset]
  (repeat' split) <;> simp +contextual

theorem execFunctionLevelReset_keeps (f : FnAddr) (s : State) : Yields (Keeps s) (execFunctionLevelReset f s) := by
  simp only [execFunctionLevelReset]
  (repeat' split) <;> simp +contextual

theorem execD3hot_keeps (f : FnAddr) (enter : Bool) (s : State) : Yields (Keeps s) (execD3hot f enter s) := by
  simp only [execD3hot]
  (repeat' split) <;> simp +contextual

theorem execMbCommandEnd_keeps (f : FnAddr) (s : State) : Yields (Keeps s) (execMbCommandEnd f s) := by
  simp only [execMbCommandEnd]
  (repeat' split) <;> simp +contextual

theorem execAuthExpired_keeps (f : FnAddr) (s : State) : Yields (Keeps s) (execAuthExpired f s) := by
  simp only [execAuthExpired]
  (repeat' split) <;> simp +contextual

theorem execLockExpiry_keeps (key : BitVec 11) (s : State) : Yields (Keeps s) (execLockExpiry key s) := by
  simp only [execLockExpiry]
  simp +contextual

theorem execRingEnable_keeps (f : FnAddr) (value : BitVec 31) (s : State) : Yields (Keeps s) (execRingEnable f value s) := fnWrite_keeps _ fun k => by simp +contextual

theorem execRingDisable_keeps (f : FnAddr) (value : BitVec 31) (s : State) : Yields (Keeps s) (execRingDisable f value s) := fnWrite_keeps _ fun k => by simp +contextual

theorem execFnRings_keeps (f : FnAddr) (value : Word) (s : State) : Yields (Keeps s) (execFnRings f value s) := fnWrite_keeps _ fun k => by simp +contextual

theorem execDescriptorFetch_keeps (ring : BitVec 14) (o : FetchRead) (s : State) : Yields (Keeps s) (execDescriptorFetch ring o s) := by
  simp only [execDescriptorFetch]
  (repeat' split) <;> simp +contextual

theorem execModerationTimer_keeps (ring : BitVec 14) (s : State) : Yields (Keeps s) (execModerationTimer ring s) := by
  simp only [execModerationTimer]
  (repeat' split) <;> simp +contextual

theorem execArbitration_keeps (o : ArbOp) (s : State) : Yields (Keeps s) (execArbitration o s) := by
  simp only [execArbitration]
  (repeat' split) <;> simp +contextual

theorem execWithdraw_keeps (cls : BitVec 4) (index : BitVec 12) (input : BitVec 4) (s : State) : Yields (Keeps s) (execWithdraw cls index input s) := by
  simp only [execWithdraw]
  (repeat' split) <;> simp +contextual

theorem execSramUncorrectable_keeps (e : SramError) (s : State) : Yields (Keeps s) (execSramUncorrectable e s) := by
  simp only [execSramUncorrectable]
  (repeat' split) <;> simp +contextual

theorem execSelfTest_keeps (core : BitVec 12) (engine : BitVec 2) (pass : Bool) (s : State) : Yields (Keeps s) (execSelfTest core engine pass s) := by
  simp only [execSelfTest]
  (repeat' split) <;> simp +contextual

theorem execDieFault_keeps (die : BitVec 6) (detect : BitVec 4) (s : State) : Yields (Keeps s) (execDieFault die detect s) := by
  simp only [execDieFault]
  (repeat' split) <;> simp +contextual

theorem execSpareSubstitution_keeps (die : BitVec 6) (s : State) : Yields (Keeps s) (execSpareSubstitution die s) := by
  simp only [execSpareSubstitution]
  (repeat' split) <;> simp +contextual

theorem execSparePowered_keeps (o : SpareOp) (s : State) : Yields (Keeps s) (execSparePowered o s) := by
  simp only [execSparePowered]
  (repeat' split) <;> simp +contextual

theorem execRimFault_keeps (rim : BitVec 3) (detect : BitVec 4) (s : State) : Yields (Keeps s) (execRimFault rim detect s) := by
  simp only [execRimFault]
  simp +contextual

theorem execSensorSample_keeps (index : BitVec 9) (value : Int) (s : State) : Yields (Keeps s) (execSensorSample index value s) := by
  simp only [execSensorSample]
  (repeat' split) <;> simp +contextual

theorem execVoutCommand_keeps (rail : BitVec 2) (mv : BitVec 10) (s : State) : Yields (Keeps s) (execVoutCommand rail mv s) := by
  simp only [execVoutCommand]
  (repeat' split) <;> simp +contextual

theorem execDerate_keeps (s : State) : Yields (Keeps s) (execDerate s) := by
  simp only [execDerate]
  (repeat' split) <;> simp +contextual

theorem execPowerCorrection_keeps (measured : BitVec 16) (s : State) : Yields (Keeps s) (execPowerCorrection measured s) := by
  simp only [execPowerCorrection]
  simp +contextual

theorem execMgChallenge_keeps (s : State) : Yields (Keeps s) (execMgChallenge s) := inSecured_keeps (by
  dsimp only
  simp +contextual)

theorem execMgOwn_keeps (mkey : BitVec 256) (s : State) : Yields (Keeps s) (execMgOwn mkey s) := inSecured_keeps (by
  dsimp only
  (repeat' split) <;> simp +contextual)

theorem execKeySet_keeps (keyId : BitVec 16) (role domain : Byte) (key : BitVec 256) (s : State) : Yields (Keeps s) (execKeySet keyId role domain key s) := inMgmt_keeps (by
  dsimp only
  (repeat' split) <;> simp +contextual)

theorem execKeyClear_keeps (keyId : BitVec 16) (s : State) : Yields (Keeps s) (execKeyClear keyId s) := inMgmt_keeps (by
  dsimp only
  (repeat' split) <;> simp +contextual)

theorem execPwSet_keeps (password : List Byte) (s : State) : Yields (Keeps s) (execPwSet password s) := inMgmt_keeps (by
  dsimp only
  (repeat' split) <;> simp +contextual)

theorem execLockReset_keeps (keyId : BitVec 16) (s : State) : Yields (Keeps s) (execLockReset keyId s) := inMgmt_keeps (by
  dsimp only
  (repeat' split) <;> simp +contextual)

theorem execBoardGet_keeps (s : State) : Yields (Keeps s) (execBoardGet s) := inMgmt_keeps (by
  dsimp only
  simp +contextual)

theorem execKeyExchange_keeps (reqId : BitVec 16) (s : State) : Yields (Keeps s) (execKeyExchange reqId s) := by
  simp only [execKeyExchange]
  (repeat' split) <;> simp +contextual

theorem execFinish_keeps (valid : Bool) (s : State) : Yields (Keeps s) (execFinish valid s) := by
  simp only [execFinish]
  (repeat' split) <;> simp +contextual

theorem execSetCertificate_keeps (chain : List Byte) (s : State) : Yields (Keeps s) (execSetCertificate chain s) := by
  simp only [execSetCertificate]
  (repeat' split) <;> simp +contextual

theorem execConvSel_keeps (f : FnAddr) (value : Word) (s : State) : Yields (Keeps s) (execConvSel f value s) := fnWrite_keeps _ fun k => by simp +contextual

theorem execConvClr_keeps (f : FnAddr) (value : Word) (s : State) : Yields (Keeps s) (execConvClr f value s) := fnWrite_keeps _ fun k => by simp +contextual

theorem execStepSel_keeps (f : FnAddr) (value : Word) (s : State) : Yields (Keeps s) (execStepSel f value s) := fnWrite_keeps _ fun k => by simp +contextual

theorem execDevSel_keeps (f : FnAddr) (value : Word) (s : State) : Yields (Keeps s) (execDevSel f value s) := fnWrite_keeps _ fun k => by simp +contextual

theorem execQuotaSel_keeps (f : FnAddr) (value : Word) (s : State) : Yields (Keeps s) (execQuotaSel f value s) := fnWrite_keeps _ fun k => by simp +contextual

theorem execTierSlotSel_keeps (f : FnAddr) (value : Word) (s : State) : Yields (Keeps s) (execTierSlotSel f value s) := fnWrite_keeps _ fun k => by simp +contextual

theorem execTierChSel_keeps (f : FnAddr) (value : Word) (s : State) : Yields (Keeps s) (execTierChSel f value s) := fnWrite_keeps _ fun k => by simp +contextual

theorem execLayoutSel_keeps (f : FnAddr) (value : Word) (s : State) : Yields (Keeps s) (execLayoutSel f value s) := fnWrite_keeps _ fun k => by simp +contextual

theorem execArbSel_keeps (f : FnAddr) (value : Word) (s : State) : Yields (Keeps s) (execArbSel f value s) := fnWrite_keeps _ fun k => by simp +contextual

theorem execArbCtl_keeps (f : FnAddr) (value : Word) (s : State) : Yields (Keeps s) (execArbCtl f value s) := fnWrite_keeps _ fun k => by simp +contextual

theorem execRingSel_keeps (f : FnAddr) (value : Word) (s : State) : Yields (Keeps s) (execRingSel f value s) := fnWrite_keeps _ fun k => by simp +contextual

theorem execPairCommit_keeps (f : FnAddr) (pair : PairReg) (hi : Word) (s : State) : Yields (Keeps s) (execPairCommit f pair hi s) := fnWrite_keeps _ fun k => by simp +contextual

theorem execCycSnap_keeps (f : FnAddr) (value : Word) (s : State) : Yields (Keeps s) (execCycSnap f value s) := fnWrite_keeps _ fun k => by simp +contextual

theorem execFlagClear_keeps (f : FnAddr) (block : FlagBlock) (value : Word) (s : State) : Yields (Keeps s) (execFlagClear f block value s) := fnWrite_keeps _ fun k => by simp +contextual

theorem execChkCtl_keeps (f : FnAddr) (unit : BitVec 5) (value : Word) (s : State) : Yields (Keeps s) (execChkCtl f unit value s) := fnWrite_keeps _ fun k => by simp +contextual

theorem execChkRun_keeps (f : FnAddr) (unit : BitVec 5) (hi : Word) (s : State) : Yields (Keeps s) (execChkRun f unit hi s) := fnWrite_keeps _ fun k => by simp +contextual

theorem execPertCtl_keeps (f : FnAddr) (value : Word) (s : State) : Yields (Keeps s) (execPertCtl f value s) := fnWrite_keeps _ fun k => by simp +contextual

theorem execPtSel_keeps (f : FnAddr) (value : Word) (s : State) : Yields (Keeps s) (execPtSel f value s) := fnWrite_keeps _ fun k => by simp +contextual

theorem execPtCtl_keeps (f : FnAddr) (value : Word) (s : State) : Yields (Keeps s) (execPtCtl f value s) := fnWrite_keeps _ fun k => by simp +contextual

theorem execPtSeed_keeps (f : FnAddr) (value : Word) (s : State) : Yields (Keeps s) (execPtSeed f value s) := fnWrite_keeps _ fun k => by simp +contextual

theorem execQdelayRelease_keeps (core : BitVec 12) (q : BitVec 4) (s : State) : Yields (Keeps s) (execQdelayRelease core q s) := by
  simp only [execQdelayRelease]
  (repeat' split) <;> simp +contextual

theorem execLpbkCtl_keeps (f : FnAddr) (value lanes errors : Word) (s : State) : Yields (Keeps s) (execLpbkCtl f value lanes errors s) := fnWrite_keeps _ fun k => by simp +contextual

theorem execPhyloop_keeps (f : FnAddr) (tkind : BitVec 2) (target : BitVec 9) (s : State) : Yields (Keeps s) (execPhyloop f tkind target s) := fnWrite_keeps _ fun k => by simp +contextual

theorem execMarch_keeps (f : FnAddr) (tkind : BitVec 2) (target : BitVec 9) (s : State) : Yields (Keeps s) (execMarch f tkind target s) := fnWrite_keeps _ fun k => by simp +contextual

theorem execPerstRelease_keeps (port : BitVec 1) (s : State) : Yields (Keeps s) (execPerstRelease port s) := by
  simp only [execPerstRelease]
  (repeat' split) <;> simp +contextual

theorem execEndSession_keeps (s : State) : Yields (Keeps s) (execEndSession s) := by
  simp only [execEndSession]
  (repeat' split) <;> simp +contextual

theorem execSetEndpointId_keeps (eid : Byte) (s : State) : Yields (Keeps s) (execSetEndpointId eid s) := by
  simp only [execSetEndpointId]
  (repeat' split) <;> simp +contextual

theorem execTap_keeps (o : TapOp) (s : State) : Yields (Keeps s) (execTap o s) := by
  simp only [execTap]
  (repeat' split) <;> simp +contextual

@[simp] theorem updHandle_handle (s : State) (f : HandleSt → HandleSt) : (updHandle s f).handle = f s.handle := rfl

@[simp] theorem reapplyFences_cells (s : State) : cells (reapplyFences s) = cells s := rfl
@[simp] theorem reapplyFences_kept (s : State) : kept (reapplyFences s) = kept s := rfl

@[simp] theorem writeEntry_kept (s : State) (n i : Nat) (bs : List Byte) : kept (writeEntry s n i bs) = kept s := by
  rw [writeEntry_tiersOnly s n i bs, kept_tiers]

@[simp] theorem writeEntry_canonical (s : State) (n i : Nat) (bs : List Byte) (hs : CellsOk (cells s)) : CellsOk (cells (writeEntry s n i bs)) :=
  writePartsOf_canonical n _ (s, bs) hs

theorem landEntry_keeps (s : State) (n i crc : Nat) (bs : List Byte) : Keeps s (landEntry s n i crc bs) := by
  unfold landEntry
  dsimp only
  (repeat' split) <;> simp +contextual

@[simp] theorem endCopy_kept (s : State) (r id : Nat) : kept (endCopy s r id) = kept s := by rfl
@[simp] theorem endCopy_cells (s : State) (r id : Nat) : cells (endCopy s r id) = cells s := by rfl

theorem logAnswer_keeps (s : State) (seq : Nat) : Keeps s (logAnswer s seq).2.2 := by
  unfold logAnswer
  split <;> simp
theorem execCoreNop_keeps (core : BitVec 12) (bHalf : Bool) (s : State) : Yields (Keeps s) (execCoreNop core bHalf s) := by
  unfold execCoreNop
  split
  · exact atCore_keeps _ fun i => by simp
  · exact atAHalf_keeps _ fun i => by simp

theorem execGwait_keeps (o : GsOp) (s : State) : Yields (Keeps s) (execGwait o s) := gsInstr_keeps _ fun i => by split <;> simp
theorem execImod_keeps (o : GsOp) (s : State) : Yields (Keeps s) (execImod o s) := gsInstr_keeps _ fun _ => indexResult_keeps _ _ _ _ _
theorem execIoff_keeps (o : GsOp) (s : State) : Yields (Keeps s) (execIoff o s) := gsInstr_keeps _ fun _ => indexResult_keeps _ _ _ _ _
theorem execIuniq_keeps (o : GsOp) (s : State) : Yields (Keeps s) (execIuniq o s) := gsInstr_keeps _ fun _ => indexResult_keeps _ _ _ _ _

theorem execSend_keeps (o : TokOp) (s : State) : Yields (Keeps s) (execSend o s) := atCore_keeps _ fun i => by
  dsimp only
  split
  · simp
  · split
    · simp
    · exact coreRead_keeps _ (by simp +contextual)

theorem execLoadRegister_keeps (o : LdstOp) (s : State) : Yields (Keeps s) (execLoadRegister o s) := atCore_keeps _ fun i => by
  exact coreRead_keeps _ (by simp +contextual)

theorem execFill_keeps (core : BitVec 12) (q : BitVec 4) (s : State) : Yields (Keeps s) (execFill core q s) := by
  unfold execFill
  dsimp only
  split
  · simp
  · split
    · simp
    · split
      · exact coreRead_keeps _ (by simp +contextual)
      · simp

theorem execHello_keeps (port : PortNo) (m : LinkMsg) (s : State) : Yields (Keeps s) (execHello port m s) := atLink_keeps _ fun p x => by simp +contextual

theorem execHelloEcho_keeps (port : PortNo) (m : LinkMsg) (excess : Nat) (s : State) : Yields (Keeps s) (execHelloEcho port m excess s) := atLink_keeps _ fun p x => by
  (repeat' split) <;> simp +contextual

theorem execHelloTimer_keeps (port : PortNo) (s : State) : Yields (Keeps s) (execHelloTimer port s) := atLink_keeps _ fun p x => by
  (repeat' split) <;> simp +contextual

theorem execResendTimeout_keeps (port : PortNo) (s : State) : Yields (Keeps s) (execResendTimeout port s) := atLink_keeps _ fun p x => by
  split <;> simp +contextual

theorem execRetrainReceived_keeps (port : PortNo) (m : LinkMsg) (s : State) : Yields (Keeps s) (execRetrainReceived port m s) := atLink_keeps _ fun p x => by
  simp +contextual

theorem execBreakBlock_keeps (port : PortNo) (m : LinkMsg) (s : State) : Yields (Keeps s) (execBreakBlock port m s) := atLink_keeps _ fun p x => by
  simp +contextual

theorem execMgAuth_keeps (mac : BitVec 256) (s : State) : Yields (Keeps s) (execMgAuth mac s) := inSecured_keeps (by
  split <;> simp +contextual)

theorem execBoardSet_keeps (r : BoardRec) (s : State) : Yields (Keeps s) (execBoardSet r s) := inMgmt_keeps (by
  simp +contextual)

theorem execTimeMark_keeps (time : DWord) (format : Byte) (s : State) : Yields (Keeps s) (execTimeMark time format s) := inMgmt_keeps (by
  simp +contextual)

theorem execGranuleZeroing_keeps (tier : BitVec 2) (gran : BitVec 19) (s : State) : Yields (Keeps s) (execGranuleZeroing tier gran s) := by
  unfold execGranuleZeroing
  dsimp only
  split
  · simp
  · split
    · split <;> simp
    · split
      · split
        · simp
        · simp only [yields_next, keeps_iff, kept_tiers, true_and]
          exact fun hs => ⟨dropGranule_ok _ _ hs.1, hs.2⟩
      · split
        · simp
        · simp only [yields_next, keeps_iff, kept_tiers, true_and]
          exact fun hs => ⟨hs.1, dropGranule_ok _ _ hs.2⟩

theorem execReady_keeps (s : State) : Yields (Keeps s) (execReady s) := by
  unfold execReady
  split
  · simp
  · simp +contextual

theorem execColdResetRelease_keeps (busSel ownN testN : Bool) (s : State) : Yields (Keeps s) (execColdResetRelease busSel ownN testN s) := by
  unfold execColdResetRelease
  split
  · simp
  · simp +contextual

theorem execBootStageEnd_keeps (s : State) : Yields (Keeps s) (execBootStageEnd s) := by
  unfold execBootStageEnd
  dsimp only
  split
  · split <;> simp +contextual
  · split <;> simp +contextual
  · simp +contextual
  · simp +contextual
  · simp

theorem execRequestUpdate_keeps (image : ImageSt) (s : State) : Yields (Keeps s) (execRequestUpdate image s) := by
  unfold execRequestUpdate
  split
  · simp
  · dsimp only
    split
    · simp
    · split
      · simp
      · simp

theorem execRegisterWrite_keeps (f : FnAddr) (place : RegPlace) (offset : BitVec 24) (value : Word) (s : State) : Yields (Keeps s) (execRegisterWrite f place offset value s) := by
  unfold execRegisterWrite
  split
  · exact fnWrite_keeps _ fun k => by simp +contextual
  · exact fnWrite_keeps _ fun k => by simp +contextual
  · (repeat' split) <;> simp +contextual

theorem execHopCrc_keeps (place : HopPlace) (first again : Bool) (s : State) : Yields (Keeps s) (execHopCrc place first again s) := by
  unfold execHopCrc
  split
  · dsimp only
    split
    · simp
    · split
      · simp
      · split
        · split <;> simp +contextual
        · split
          · simp
          · rename_i t h
            simp +contextual [takeInject_kept _ _ _ _ h, takeInject_cells _ _ _ _ h]
  · (repeat' split) <;> simp +contextual
  · (repeat' split) <;> simp +contextual

theorem execLogRead_keeps (seq : DWord) (s : State) : Yields (Keeps s) (execLogRead seq s) := inMgmt_keeps (by
  simpa using logAnswer_keeps s seq.toNat)

theorem hmEnd_keeps {s t : State} (c : HmOp) (code : Nat) (data : List Nat) (h : Keeps s t) : Keeps s (hmEnd t c code data) := h

theorem execHmCommandEnd_keeps (s : State) : Yields (Keeps s) (execHmCommandEnd s) := by
  have hs : Keeps s s := by simp
  unfold execHmCommandEnd
  split
  · simp
  · dsimp only
    (repeat' split) <;> simp only [yields_next]
    case isFalse.isFalse.isTrue => exact hmEnd_keeps _ _ _ (logAnswer_keeps s _)
    all_goals exact hs

theorem execBistEnd_keeps (fails : List (BitVec 19)) (failed : Bool) (s : State) : Yields (Keeps s) (execBistEnd fails failed s) := by
  unfold execBistEnd
  dsimp only
  (repeat' split) <;> simp +contextual

theorem execRepair_keeps (slot : BitVec 12) (m : RepairMsg) (s : State) : Yields (Keeps s) (execRepair slot m s) := by
  unfold execRepair
  dsimp only
  split
  · simp
  · split <;> rw [yields_next]
    case h_4 => exact landEntry_keeps ..
    all_goals simp +contextual

theorem execDescriptorComplete_keeps (ring : BitVec 14) (s : State) : Yields (Keeps s) (execDescriptorComplete ring s) := by
  unfold execDescriptorComplete
  dsimp only
  (repeat' split) <;> simp +contextual

theorem execDoorbellPoll_keeps (f : FnAddr) (r : PollRead) (s : State) : Yields (Keeps s) (execDoorbellPoll f r s) := fnWrite_keeps _ fun k => by
  dsimp only
  split
  · simp
  · have h := (polled_kept s k r).1
    unfold polled at h
    rw [yields_next, h]
    exact ⟨rfl, id⟩

theorem countRead_keeps (s : State) (n : Option Nat) (c : Nat) (f : ReadFate) : Keeps s (countRead s n c f) := by simp +contextual
theorem requestLate_keeps (s : State) (n c due : Nat) (write : Bool) : Keeps s (requestLate s n c due write) := by simp +contextual

/-- A request meets its channel's armed points and its fate is counted. -/
theorem injectedRead_keeps (s : State) (n : Option Nat) (c : Nat) (f : ReadFate) :
    Keeps s (countRead (injectRead s c f).1 n c (injectRead s c f).2) :=
  Keeps.trans (by simp) (countRead_keeps ..)

theorem execTierRead_keeps (o : TierReadOp) (s : State) : Yields (Keeps s) (execTierRead o s) := by
  unfold execTierRead
  dsimp only
  generalize channelOf o.tier.toNat o.gran.toNat (4096 * o.block.toNat) = c, ReadFate.mk o.corrected.toNat o.bad1 (o.bad1 && o.bad2) false = fate
  split
  · simp
  · split
    · simp
    · cases o.slot with
      | none =>
        dsimp only [Option.map]
        split <;> rw [yields_next]
        · simp +contextual
        · exact injectedRead_keeps ..
      | some m =>
        have hs : Keeps s (requestLate s m.toNat c o.due o.write) := requestLate_keeps ..
        dsimp only [Option.map]
        split
        · rw [yields_next]
          exact hs.trans (by simp +contextual)
        · split <;> rw [yields_next]
          · exact hs.trans (injectedRead_keeps ..)
          · refine (hs.trans (injectedRead_keeps _ (some m.toNat) c fate)).trans ?_
            (repeat' split) <;> simp +contextual

theorem execUpdateSweep_keeps (slot : BitVec 12) (s : State) : Yields (Keeps s) (execUpdateSweep slot s) := by
  unfold execUpdateSweep
  dsimp only
  split
  · simp
  · rw [yields_next, keeps_iff, updRun_kept, updRun_cells, foldl_kept _ fun u m => by split <;> simp, foldl_cells _ fun u m => by split <;> simp]
    exact ⟨rfl, id⟩

theorem execInterlude_keeps (slot : BitVec 12) (s : State) : Yields (Keeps s) (execInterlude slot s) := by
  unfold execInterlude
  dsimp only
  split
  · simp
  · split
    · simp
    · rw [yields_next, keeps_iff, foldl_kept _ fun u m => by simp, foldl_cells _ fun u m => by simp]
      (repeat' split) <;> simp +contextual

theorem execStepReady_keeps (slot : BitVec 12) (s : State) : Yields (Keeps s) (execStepReady slot s) := by
  unfold execStepReady
  dsimp only
  split
  · simp
  · rename_i r _
    generalize (if (getSlot s slot.toNat).hostPlaced then r.installed else sweepDone s slot.toNat) = ready
    split
    · simp
    · split
      · simp +contextual
      · split
        · simp +contextual
        · rename_i t ht
          rw [yields_next, keeps_iff, ← retireFailed_kept _ _ _ ht]
          have hc := retireFailed_canonical _ _ _ ht
          split <;> simp +contextual [hc]

theorem vecOp_keeps (op o s f) : Yields (Keeps s) (vecOp op o s f) := borderOp_keeps _ _ _ fun _ _ _ => by simp
theorem scalarOp_keeps (op o s f) : Yields (Keeps s) (scalarOp op o s f) := borderOp_keeps _ _ _ fun _ _ _ => by simp
theorem loadStat_keeps (op o s f) : Yields (Keeps s) (loadStat op o s f) := borderOp_keeps _ _ _ fun _ _ _ => by simp
theorem mbWrite_keeps (f seq op s) : Yields (Keeps s) (mbWrite f seq op s) := fnWrite_keeps _ fun _ => by simp +contextual
theorem hmWrite_keeps (f seq op s) : Yields (Keeps s) (hmWrite f seq op s) := fnWrite_keeps _ fun _ => by simp +contextual
theorem linkWrite_keeps {s : State} (f : FnAddr) (port : PortNo) {k : Nat → LinkSt → Res} (h : ∀ p x, Yields (Keeps s) (k p x)) : Yields (Keeps s) (linkWrite f s port k) :=
  fnWrite_keeps _ fun _ => atLink_keeps _ fun p x => by split <;> simp [h]

theorem execLinkEnable_keeps (f port s) : Yields (Keeps s) (execLinkEnable f port s) := linkWrite_keeps _ _ fun _ _ => by split <;> simp +contextual
theorem execLinkDisable_keeps (f port s) : Yields (Keeps s) (execLinkDisable f port s) := linkWrite_keeps _ _ fun _ _ => by simp +contextual
theorem execRetrain_keeps (f port s) : Yields (Keeps s) (execRetrain f port s) := linkWrite_keeps _ _ fun _ _ => by split <;> simp +contextual

theorem packetRow_keeps_of (k : Nat) (p : Packet) (s : State) {f : State → Nat → State} (h : ∀ u n, Keeps u (f u n)) :
    Yields (Keeps s) (packetRow k p s fun u n => some (f u n)) := packetRow_keeps _ _ _ fun u n t ht => by
  cases ht
  exact h u n

theorem execPrepare_keeps (p s) : Yields (Keeps s) (execPrepare p s) := packetRow_keeps_of _ _ _ fun u n => by simp +contextual
theorem execCommit_keeps (p s) : Yields (Keeps s) (execCommit p s) := packetRow_keeps_of _ _ _ fun u n => by simp +contextual
theorem execAbort_keeps (p s) : Yields (Keeps s) (execAbort p s) := packetRow_keeps_of _ _ _ fun u n => by simp +contextual
theorem execGo_keeps (p s) : Yields (Keeps s) (execGo p s) := packetRow_keeps_of _ _ _ fun u n => by simp +contextual
theorem execReduce_keeps (p s) : Yields (Keeps s) (execReduce p s) := packetRow_keeps_of _ _ _ fun u n => by simp +contextual
theorem execGatherPacket_keeps (p s) : Yields (Keeps s) (execGatherPacket p s) := packetRow_keeps_of _ _ _ fun u n => by simp +contextual
theorem execGrad_keeps (p s) : Yields (Keeps s) (execGrad p s) := packetRow_keeps_of _ _ _ fun u n => by simp +contextual
theorem execShardReq_keeps (p s) : Yields (Keeps s) (execShardReq p s) := packetRow_keeps _ _ _ fun u n t ht => by
  split at ht <;> cases ht <;> simp +contextual
theorem execShard_keeps (p s) : Yields (Keeps s) (execShard p s) := packetRow_keeps_of _ _ _ fun u n => by simp +contextual
theorem execFencePass_keeps (p s) : Yields (Keeps s) (execFencePass p s) := packetRow_keeps_of _ _ _ fun u n => by simp +contextual
theorem execSwitchPass_keeps (p s) : Yields (Keeps s) (execSwitchPass p s) := packetRow_keeps_of _ _ _ fun u n => by simp +contextual

theorem execNop_keeps (o s) : Yields (Keeps s) (execNop o s) := decideRow_keeps _ _ _ _ fun e u => by simp +contextual

theorem execLoadPattern_keeps (o s) : Yields (Keeps s) (execLoadPattern o s) := decideRow_keeps _ _ _ _ fun e u => by simp +contextual

theorem execEvict_keeps (o s) : Yields (Keeps s) (execEvict o s) := decideRow_keeps _ _ _ _ fun e u => by simp +contextual

theorem execSwitch_keeps (o s) : Yields (Keeps s) (execSwitch o s) := decideRow_keeps _ _ _ _ fun e u => by simp +contextual

theorem execRun_keeps (o s) : Yields (Keeps s) (execRun o s) := decideRow_keeps _ _ _ _ fun e u => by simp +contextual

theorem execCopyIn_keeps (o s) : Yields (Keeps s) (execCopyIn o s) := decideRow_keeps _ _ _ _ fun e u => by simp +contextual

theorem execCopyOut_keeps (o s) : Yields (Keeps s) (execCopyOut o s) := decideRow_keeps _ _ _ _ fun e u => by simp +contextual

theorem execCheckpoint_keeps (o s) : Yields (Keeps s) (execCheckpoint o s) := decideRow_keeps _ _ _ _ fun e u => by simp +contextual

theorem execRestore_keeps (o s) : Yields (Keeps s) (execRestore o s) := decideRow_keeps _ _ _ _ fun e u => by simp +contextual

theorem execReshard_keeps (o table s) : Yields (Keeps s) (execReshard o table s) := decideRow_keeps _ _ _ _ fun e u => by simp +contextual

theorem execFence_keeps (o s) : Yields (Keeps s) (execFence o s) := decideRow_keeps _ _ _ _ fun e u => by simp +contextual

theorem execCommitPolicy_keeps (o s) : Yields (Keeps s) (execCommitPolicy o s) := decideRow_keeps _ _ _ _ fun e u => by simp +contextual

theorem execProblem_keeps (o s) : Yields (Keeps s) (execProblem o s) := decideRow_keeps _ _ _ _ fun e u => by simp +contextual

theorem execDomainCreate_keeps (o s) : Yields (Keeps s) (execDomainCreate o s) := decideRow_keeps _ _ _ _ fun e u => by simp +contextual

theorem execDomainRemove_keeps (o s) : Yields (Keeps s) (execDomainRemove o s) := decideRow_keeps _ _ _ _ fun e u => by simp +contextual

theorem execQuotaSet_keeps (o s) : Yields (Keeps s) (execQuotaSet o s) := decideRow_keeps _ _ _ _ fun e u => by simp +contextual

theorem execSlotCreate_keeps (o pat s) : Yields (Keeps s) (execSlotCreate o pat s) := decideRow_keeps _ _ _ _ fun e u => by simp +contextual

theorem execSlotRemove_keeps (o s) : Yields (Keeps s) (execSlotRemove o s) := decideRow_keeps _ _ _ _ fun e u => by simp +contextual

theorem execRegionAlloc_keeps (o s) : Yields (Keeps s) (execRegionAlloc o s) := decideRow_keeps _ _ _ _ fun e u => by simp +contextual

theorem execRegionRelease_keeps (o s) : Yields (Keeps s) (execRegionRelease o s) := decideRow_keeps _ _ _ _ fun e u => by simp +contextual

theorem execPartCreate_keeps (o s) : Yields (Keeps s) (execPartCreate o s) := decideRow_keeps _ _ _ _ fun e u => by simp +contextual

theorem execPartResize_keeps (o s) : Yields (Keeps s) (execPartResize o s) := decideRow_keeps _ _ _ _ fun e u => by simp +contextual

theorem execPartRemove_keeps (o s) : Yields (Keeps s) (execPartRemove o s) := decideRow_keeps _ _ _ _ fun e u => by simp +contextual

theorem execPartMode_keeps (o s) : Yields (Keeps s) (execPartMode o s) := decideRow_keeps _ _ _ _ fun e u => by simp +contextual

theorem execPsSize_keeps (o s) : Yields (Keeps s) (execPsSize o s) := decideRow_keeps _ _ _ _ fun e u => by simp +contextual

theorem execServiceEnter_keeps (o s) : Yields (Keeps s) (execServiceEnter o s) := decideRow_keeps _ _ _ _ fun e u => by simp +contextual

theorem execServiceLeave_keeps (o s) : Yields (Keeps s) (execServiceLeave o s) := decideRow_keeps _ _ _ _ fun e u => by simp +contextual

theorem execDescriptorFill_keeps (o s) : Yields (Keeps s) (execDescriptorFill o s) := decideRow_keeps _ _ _ _ fun e u => by simp +contextual

theorem Yields.of_keeps {s t : State} {r : Res} (h : Keeps s t) (hr : Yields (Keeps t) r) : Yields (Keeps s) r := ⟨fun u hu => h.trans (hr.of_next u hu)⟩

theorem execRelay_keeps (p s) : Yields (Keeps s) (execRelay p s) :=
  Yields.of_keeps (by (repeat' split) <;> simp +contextual) (packetRow_keeps _ _ _ fun u n t ht => by
    simp [landRelay_kept _ _ _ _ ht, landRelay_cells _ _ _ _ ht])

theorem execMove_keeps (p s) : Yields (Keeps s) (execMove p s) := packetRow_keeps _ _ _ fun u n t ht => by
  have hm : Keeps u (landMove u n p).2 := by simp +contextual
  dsimp only at ht
  split at ht
  · cases ht
    exact hm.trans (by simp +contextual)
  · split at ht <;> cases ht
    · exact hm.trans (by simp +contextual)
    · exact hm

theorem tokenMoved_keeps (s : State) (c : Nat) : Keeps s (tokenMoved s c) := by simp
theorem emitTokens_keeps (c r : Nat) (x : Ctx) (s : State) (ts : List Token) : Keeps s (emitTokens c r x s ts) := by simp
theorem raiseConv_keeps (s : State) (c : Nat) (e : Conv4) : Keeps s (raiseConv s c e) := by simp
theorem setCore_keeps (s : State) (c : Nat) (co : CoreSt) : Keeps s (setCore s c co) := by simp

theorem yields_ite {P : State → Prop} {c : Prop} [Decidable c] {a b : Res} (ha : Yields P a) (hb : Yields P b) : Yields P (if c then a else b) := by
  split <;> assumption

theorem execEng_keeps (o : EngOp) (s : State) : Yields (Keeps s) (execEng o s) := atCore_keeps _ fun i => by
  have hset (co e) : Keeps s (raiseConv (setCore s o.core.toNat co) o.core.toNat e) := (setCore_keeps ..).trans (raiseConv_keeps ..)
  have hmoved (c : Bool) (u : State) (h : Keeps s u) : Keeps s (if c then tokenMoved u o.core.toNat else u) := by
    split
    · exact h.trans (tokenMoved_keeps ..)
    · exact h
  refine yields_ite (yields_refused _ _) (yields_ite ?_ (yields_ite ?_ ?_)) <;> rw [yields_next]
  · simp
  · exact setCore_keeps ..
  · exact (hmoved _ _ (hset _ _)).trans (emitTokens_keeps ..)

theorem scatterElem_keeps {dom t row e code : Nat} {r : Option (State × Nat)} {q : State × Nat} (h : scatterElem dom t row e code r = some q) :
    ∃ p, r = some p ∧ Keeps p.1 q.1 := by
  obtain ⟨p, hp, h⟩ := Option.bind_eq_some_iff.mp h
  refine ⟨p, hp, ?_⟩
  split at h
  · cases h
    simp
  · split at h <;> cases h
    simp +contextual

theorem scatterSum_keeps {o : GsOp} {s : State} {i : Issue} {q : State × Nat} (h : scatterSum o s i = some q) : Keeps s q.1 := by
  revert q
  unfold scatterSum
  dsimp only
  refine List.foldlRecOn (motive := fun r : Option (State × Nat) => ∀ {q}, r = some q → Keeps s q.1) _ _ (fun h => by cases h; simp) fun r ih k _ q h => ?_
  split at h
  · obtain ⟨p, hp, h⟩ := scatterElem_keeps h
    exact (ih hp).trans h
  · exact ih h

theorem execScatterAdd_keeps (o : GsOp) (s : State) : Yields (Keeps s) (execScatterAdd o s) := gsInstr_keeps _ fun i => by
  have hsum := @scatterSum_keeps o s i
  unfold scatterSum at hsum
  dsimp only at hsum ⊢
  split
  · simp
  · split
    · simp
    · split
      · simp +contextual
      · split
        · simp
        · rename_i t sats h
          rw [yields_next]
          exact ((hsum h).trans (raiseConv_keeps ..)).trans (setCore_keeps ..)

/-- The corrupted first readings of an image are counted as transients. -/
theorem loadRetries_keeps (s : State) (flag : Bool) (ks : List Nat) :
    Keeps s (ks.foldl (fun s _ => faultTransient s) { s with pipeFlags := raiseIf s.fc flag s.pipeFlags pipeLoadRetry }) := by
  rw [keeps_iff, foldl_kept _ fun u _ => faultTransient_kept u, foldl_cells _ fun u _ => faultTransient_cells u]
  exact ⟨rfl, id⟩

theorem endLoad_keeps (s : State) (p : Nat) (l : LoadSt) (status detail : Nat) : Keeps s (endLoad s p l status detail) := by simp
theorem setPart_keeps (s : State) (p : Nat) (x : PartSt) : Keeps s (setPart s p x) := by simp
theorem keeps_ite {s a b : State} {c : Prop} [Decidable c] (ha : Keeps s a) (hb : Keeps s b) : Keeps s (if c then a else b) := by
  split <;> assumption

theorem mapCores_keeps (s : State) (p : Nat) (f : Nat → CoreSt → CoreSt) : Keeps s (mapCores s p f) := by simp

theorem execContextLoadEnd_keeps (part ctx first second) (s : State) : Yields (Keeps s) (execContextLoadEnd part ctx first second s) := by
  unfold execContextLoadEnd
  dsimp only
  split
  · simp
  · split <;> try rw [yields_next]
    · exact (loadRetries_keeps ..).trans (endLoad_keeps ..)
    · split <;> try rw [yields_next]
      · exact (loadRetries_keeps ..).trans (endLoad_keeps ..)
      · split <;> rw [yields_next]
        · exact (loadRetries_keeps ..).trans (endLoad_keeps ..)
        · refine Keeps.trans ?_ (endLoad_keeps ..)
          refine keeps_ite ?_ ?_
          · exact (((loadRetries_keeps ..).trans (mapCores_keeps ..)).trans (mapCores_keeps ..)).trans (setPart_keeps ..)
          · exact (loadRetries_keeps ..).trans (mapCores_keeps ..)

end Sys2Proof.Machine
end

section
/-! PROOFS. The Handle pair: a command that changes the latch or a role leaves at most one die active, the one that holds the latch. -/

namespace Sys2Proof.Machine

open Sys2Proof.Safety

/-- The queue and the latch are as they were, no die has become the active one, and the byte stores stay canonical. -/
structure Calms (s t : State) : Prop where
  pending : t.pending = s.pending
  latch : t.handle.latch = s.handle.latch
  roles : ∀ d, (getDie t d).role = .active → (getDie s d).role = .active
  canonical : CellsOk (cells s) → CellsOk (cells t)

/-- What every step does: the queue is as it was, and the invariant is kept. -/
structure Steady (s t : State) : Prop where
  pending : t.pending = s.pending
  active : OneActive s → OneActive t
  canonical : CellsOk (cells s) → CellsOk (cells t)

theorem Keeps.calms {s t : State} (h : Keeps s t) : Calms s t where
  pending := congrArg Prod.fst h.1
  latch := congrArg (·.2.1) h.1
  roles d hd := by rwa [getDie_of_kept h.1] at hd
  canonical := h.2

theorem Calms.trans {s t u : State} (h : Calms s t) (h' : Calms t u) : Calms s u where
  pending := h'.pending.trans h.pending
  latch := h'.latch.trans h.latch
  roles d hd := h.roles d (h'.roles d hd)
  canonical := h'.canonical ∘ h.canonical

theorem Calms.steady {s t : State} (h : Calms s t) : Steady s t where
  pending := h.pending
  active hs d hd := h.latch.trans (hs d (h.roles d hd))
  canonical := h.canonical

theorem Keeps.steady {s t : State} (h : Keeps s t) : Steady s t := h.calms.steady

theorem Steady.trans {s t u : State} (h : Steady s t) (h' : Steady t u) : Steady s u where
  pending := h'.pending.trans h.pending
  active := h'.active ∘ h.active
  canonical := h'.canonical ∘ h.canonical

theorem Steady.refl (s : State) : Steady s s := ⟨rfl, id, id⟩

theorem setDie_calms (s : State) (d : Nat) (x : HandleDie) (h : x.role = .active → (getDie s d).role = .active) : Calms s (setDie s d x) where
  pending := rfl
  latch := rfl
  roles e he := by
    by_cases hed : e = d
    · subst hed
      rw [getDie_setDie_same] at he
      exact h he
    · rwa [getDie_setDie_other _ _ _ _ hed] at he
  canonical := id

theorem setRole_calms (s : State) (d : Nat) {r : DieRole} (h : r ≠ .active) : Calms s (setRole s d r) := setDie_calms _ _ _ fun hr => absurd hr h

/-- A change of Handle's state apart from the latch and the dies. -/
theorem updHandle_keeps (s : State) (f : HandleSt → HandleSt) (hl : (f s.handle).latch = s.handle.latch) (hd : (f s.handle).dies = s.handle.dies) : Keeps s (updHandle s f) := by
  simp [hl, hd]

theorem raiseHandle_keeps (s : State) (b : Nat) : Keeps s (raiseHandle s b) := by simp
theorem logEvent_keeps (s : State) (src code die sev : Nat) (args : List Byte) : Keeps s (logEvent s src code die sev args) := by simp
theorem recordFault_keeps (s : State) (cls detect code die : Nat) : Keeps s (recordFault s cls detect code die) := by simp
theorem measureStandby_keeps (s : State) (i : Option ImageSt) : Keeps s (measureStandby s i) := by simp +contextual
theorem measureSites_keeps (s : State) : Keeps s (measureSites s) := by simp +contextual

/-- What else is done when the standby is lost. -/
theorem standbyGone_keeps (s : State) :
    Keeps s (updHandle (measureStandby (raiseHandle s mfStandbyLost) none) fun h => { h with update := none, handover := false }) :=
  ((raiseHandle_keeps ..).trans (measureStandby_keeps ..)).trans (updHandle_keeps _ _ rfl rfl)

theorem loseStandby_calms (s : State) (d : Nat) : Calms s (loseStandby s d) :=
  (setRole_calms s d (r := .lost) (by decide)).trans (standbyGone_keeps _).calms

theorem bootDie_calms (s : State) (d : Nat) {r : DieRole} (h : r ≠ .active) : Calms s (bootDie s d r) := by
  unfold bootDie
  dsimp only
  split
  · exact setDie_calms _ _ _ fun hr => absurd hr h
  · split
    · exact (setDie_calms _ _ _ fun hr => absurd hr h).trans ((raiseHandle_keeps ..).trans (logEvent_keeps ..)).calms
    · exact setDie_calms _ _ _ fun hr => by cases hr

/-- An update that ends is taken away and logged. -/
theorem updateGone_calms (s : State) (sev : Nat) : Calms s (logEvent (updHandle s fun h => { h with update := none }) lgFirmware 0 0xFF sev []) :=
  ((updHandle_keeps _ _ (by rfl) (by rfl)).trans (logEvent_keeps ..)).calms

theorem endUpdate_calms (s : State) (success : Bool) : Calms s (endUpdate s success) := by
  have hlift (u : State) (d n : Nat) : Calms u (setDie u d { getDie u d with minSvn := n }) := setDie_calms _ _ _ id
  unfold endUpdate
  split
  · exact Keeps.calms (by simp)
  · cases success
    · exact updateGone_calms ..
    · exact ((hlift ..).trans (hlift ..)).trans (updateGone_calms ..)

/-- A die takes the latch over (R394). -/
def takenOver (s : State) (d : Nat) : State :=
  updHandle (setRole s d .active) fun h => { h with latch := some d, takeovers := min (h.takeovers + 1) 0xFF, handover := false }

theorem becomeActive_keeps (s : State) (d : Nat) : Keeps (takenOver s d) (becomeActive s d) :=
  (((measureStandby_keeps ..).trans (measureSites_keeps ..)).trans (raiseHandle_keeps ..)).trans (logEvent_keeps ..)

/-- A die becomes the active one where no other is. -/
theorem becomeActive_steady (s : State) (d : Nat) (h : OneActive s → ∀ e, (getDie s e).role = .active → e = d) : Steady s (becomeActive s d) := by
  refine Steady.trans (t := takenOver s d) ⟨rfl, fun hs e he => ?_, id⟩ (becomeActive_keeps s d).steady
  change (getDie (setRole s d .active) e).role = .active at he
  by_cases hed : e = d
  · rw [hed]
    rfl
  · rw [getDie_setRole_other _ _ _ _ hed] at he
    exact absurd (h hs e he) hed

theorem steady_ite {s a b : State} {c : Prop} [Decidable c] (ha : Steady s a) (hb : Steady s b) : Steady s (if c then a else b) := by
  split <;> assumption

/-- A die is lost and its fault recorded. -/
theorem lostDie_calms (s : State) (a cls det code die : Nat) : Calms s (recordFault (setRole s a .lost) cls det code die) :=
  (setRole_calms s a (r := .lost) (by decide)).trans (recordFault_keeps ..).calms

theorem getDie_lostDie (s : State) (a cls det code die : Nat) :
    getDie (recordFault (setRole s a .lost) cls det code die) a = { getDie s a with role := .lost } := by
  rw [getDie_of_kept (recordFault_keeps ..).1, getDie_setRole_same]

/-- The latch passes to another die once the one that held it is not active. -/
theorem latchPassed_steady {s u : State} (a b : Nat) (h : Calms s u) (ha : s.handle.latch = some a) (hrole : (getDie u a).role ≠ .active) :
    Steady s (updHandle u fun h => { h with latch := some b }) := by
  refine ⟨h.pending, fun hs e he => ?_, h.canonical⟩
  change (getDie u e).role = .active at he
  have hea : e = a := Option.some.inj ((hs e (h.roles e he)).symm.trans ha)
  exact absurd (hea ▸ he) hrole

/-- After the active die is lost the latch may pass to another. -/
theorem loseActive_steady (s : State) (a det : Nat) (ha : s.handle.latch = some a) : Steady s (loseActive s a det) := by
  unfold loseActive
  refine steady_ite ?_ ?_
  · exact latchPassed_steady _ _ (lostDie_calms ..) ha (by simp [getDie_lostDie])
  · exact (lostDie_calms ..).steady

theorem activeDie_latch {s : State} {d : Nat} (h : activeDie s = some d) : s.handle.latch = some d ∧ (getDie s d).role = .active := by
  obtain ⟨e, he, hd⟩ := Option.bind_eq_some_iff.mp h
  split at hd
  · cases hd
    exact ⟨he, ‹_›⟩
  · cases hd

theorem handleLost_steady (s : State) (d : Nat) : Steady s (handleLost s d) := by
  unfold handleLost
  split
  · exact loseActive_steady _ _ _ (activeDie_latch ‹_›).1
  · split
    · exact ((recordFault_keeps ..).calms.trans (loseStandby_calms ..)).steady
    · exact .refl s

theorem heartbeatFault_steady (s : State) (die : Nat) : Steady s (heartbeatFault s die) := by
  unfold heartbeatFault
  split
  · exact Keeps.steady (by simp +contextual)
  · split
    · exact Keeps.steady (by simp +contextual)
    · split
      · exact Keeps.steady (by simp +contextual)
      · split
        · exact handleLost_steady ..
        · exact Keeps.steady (by simp +contextual)

theorem execHeartbeat_steady (die : Byte) (received : Bool) (s : State) : Yields (Steady s) (execHeartbeat die received s) := by
  unfold execHeartbeat
  dsimp only
  generalize (if received then 0 else mget 0 s.fault.missed die.toNat + 1) = n
  have hmissed (m : SMap Nat) : Steady s { s with fault := { s.fault with missed := m } } := ⟨rfl, id, id⟩
  split
  · exact yields_refused _ _
  · split <;> rw [yields_next]
    · exact .refl s
    · split
      · exact (hmissed _).trans (heartbeatFault_steady ..)
      · exact hmissed _

theorem execTakeover_steady (s : State) : Yields (Steady s) (execTakeover s) := by
  unfold execTakeover
  split
  · exact (yields_next ..).mpr (.refl s)
  · rename_i d hd
    have hlatch (u : State) (h : Calms s u) (hu : OneActive u) (e : Nat) (he : (getDie u e).role = .active) : e = d :=
      Option.some.inj ((hu e he).symm.trans (h.latch.trans hd))
    have hactive (u : State) (h : Calms s u) : Steady s (becomeActive u d) := h.steady.trans (becomeActive_steady u d (hlatch u h))
    have hself : Calms s s := Keeps.calms (by simp)
    dsimp only
    split
    · rw [yields_next]
      refine hactive _ ?_
      split
      · exact endUpdate_calms ..
      · exact hself
    · rw [yields_next]
      exact steady_ite ((hactive s hself).trans (updateGone_calms ..).steady) (hactive s hself)
    · split <;> rw [yields_next]
      · have hstart := setRole_calms s d (r := .starting) (by decide)
        refine hstart.steady.trans (becomeActive_steady _ _ fun hu e he => ?_)
        rw [hlatch _ hstart hu e he, getDie_setRole_same] at he
        cases he
      · exact .refl s
    · exact (yields_next ..).mpr (.refl s)

theorem execAckTimeout_steady (s : State) : Yields (Steady s) (execAckTimeout s) := by
  unfold execAckTimeout
  split
  · exact (yields_next ..).mpr (.refl s)
  · split <;> rw [yields_next]
    · exact (loseStandby_calms ..).steady
    · exact .refl s

theorem execStandbySync_steady (die : BitVec 1) (s : State) : Yields (Steady s) (execStandbySync die s) := by
  unfold execStandbySync
  dsimp only
  split
  · exact (yields_next ..).mpr (.refl s)
  · have hsync : Calms s (updHandle (measureStandby (setRole s die.toNat .standby) (some (runningImage s die.toNat))) fun h => { h with handover := false }) :=
      (setRole_calms s _ (r := .standby) (by decide)).trans ((measureStandby_keeps ..).trans (updHandle_keeps _ _ (by rfl) (by rfl))).calms
    generalize updHandle (measureStandby (setRole s die.toNat .standby) (some (runningImage s die.toNat))) (fun h => { h with handover := false }) = t at hsync
    refine yields_ite ((yields_next ..).mpr (.refl s)) (yields_ite ((yields_next ..).mpr (loseStandby_calms ..).steady) (yields_ite ((yields_next ..).mpr hsync.steady) ?_))
    split
    · exact (yields_next ..).mpr hsync.steady
    · have hdone (u : UpdateSt) : Calms s (updHandle t fun h => { h with update := some u }) := hsync.trans (updHandle_keeps _ _ (by rfl) (by rfl)).calms
      refine yields_ite ?_ (yields_ite ?_ ?_) <;> rw [yields_next]
      · exact (hsync.trans (endUpdate_calms ..)).steady
      · exact ((hdone _).trans (endUpdate_calms ..)).steady
      · exact (hdone _).steady

theorem execRebootTimeout_steady (die : BitVec 1) (s : State) : Yields (Steady s) (execRebootTimeout die s) :=
  yields_ite ((yields_next ..).mpr (.refl s)) ((yields_next ..).mpr (loseStandby_calms ..).steady)

/-- After the volatile state is lost no die runs. -/
theorem getDie_coldState (s : State) (d : Nat) : (getDie (coldState s) d).role = .off := by
  suffices h : ∀ m : SMap HandleDie, (∀ p ∈ m, p.2.role = .off) → (mget {} m d).role = .off by
    refine h _ fun p hp => ?_
    obtain ⟨q, -, rfl⟩ := List.mem_map.mp (List.mem_filter.mp hp).1
    rfl
  intro m hm
  induction m with
  | nil => rfl
  | cons p m ih =>
    rw [mget]
    split
    · exact hm p (List.mem_cons_self ..)
    · exact ih fun q hq => hm q (List.mem_cons_of_mem _ hq)

theorem coldState_steady (s : State) (p : PowerSt) : Steady s { coldState s with power := p } where
  pending := rfl
  active _ d hd := by
    change (getDie (coldState s) d).role = .active at hd
    rw [getDie_coldState] at hd
    cases hd
  canonical _ := ⟨rfl, rfl⟩

theorem execColdReset_steady (s : State) : Yields (Steady s) (execColdReset s) :=
  yields_ite ((yields_next ..).mpr (.refl s)) ((yields_next ..).mpr (coldState_steady ..))

theorem execPowerLoss_steady (s : State) : Yields (Steady s) (execPowerLoss s) := (yields_next ..).mpr (coldState_steady ..)

theorem execRootLock_steady (s : State) : Yields (Steady s) (execRootLock s) := by
  refine yields_ite ((yields_next ..).mpr (.refl s)) ((yields_next ..).mpr (Calms.steady ?_))
  have hlocked : Calms s (lockedState s) := ⟨rfl, rfl, fun _ h => h, id⟩
  exact hlocked.trans ((bootDie_calms _ 0 (r := .starting) (by decide)).trans (bootDie_calms _ 1 (r := .starting) (by decide)))

theorem execLatchDecision_steady (h0 : Bool) (s : State) : Yields (Steady s) (execLatchDecision h0 s) := by
  unfold execLatchDecision
  dsimp only
  split
  · exact (yields_next ..).mpr (.refl s)
  · rename_i hcond
    have hlatch : s.handle.latch = none := by
      by_contra h
      exact hcond (.inr h)
    have htake (d : Nat) : Steady s (takeLatch s d) := by
      refine ⟨rfl, fun hs e he => ?_, id⟩
      by_cases hed : e = d
      · rw [hed]
        rfl
      · have hrole : (getDie s e).role = .active := by rwa [takeLatch, getDie_setRole_other _ _ _ _ hed] at he
        exact absurd (hlatch.symm.trans (hs e hrole)) (by simp)
    split
    · exact (yields_next ..).mpr (.refl s)
    · split <;> rw [yields_next]
      · exact htake _
      · exact (htake _).trans ((setRole_calms _ _ (r := .lost) (by decide)).trans (raiseHandle_keeps ..).calms).steady

theorem execImageWritten_steady (die : BitVec 1) (verified : Bool) (s : State) : Yields (Steady s) (execImageWritten die verified s) := by
  unfold execImageWritten
  dsimp only
  split
  · exact (yields_next ..).mpr (.refl s)
  · refine yields_ite ?_ (yields_ite ?_ ?_) <;> rw [yields_next]
    · exact .refl s
    · exact ((setDie_calms _ _ _ (by exact id)).trans (endUpdate_calms ..)).steady
    · exact (((setDie_calms _ _ _ (by exact id)).trans (updHandle_keeps _ _ (by rfl) (by rfl)).calms).trans (bootDie_calms _ _ (r := .rebooting) (by decide))).steady

theorem shutdown_keeps (s : State) (cause arg : Nat) (thermal : Bool) : Keeps s (shutdown s cause arg thermal) := by
  unfold shutdown
  refine keeps_ite (by simp) (keeps_ite (Keeps.trans ?_ (logEvent_keeps ..)) ?_) <;> exact ⟨rfl, fun _ => ⟨rfl, rfl⟩⟩

theorem execThermTrip_keeps (sensor s) : Yields (Keeps s) (execThermTrip sensor s) := (yields_next ..).mpr (shutdown_keeps ..)
theorem execPllLoss_keeps (s) : Yields (Keeps s) (execPllLoss s) := (yields_next ..).mpr (shutdown_keeps ..)
theorem execSysrefLoss_keeps (s) : Yields (Keeps s) (execSysrefLoss s) := (yields_next ..).mpr (shutdown_keeps ..)
theorem execCoreUv_keeps (sensor s) : Yields (Keeps s) (execCoreUv sensor s) := (yields_next ..).mpr (shutdown_keeps ..)
theorem execCoreOv_keeps (sensor s) : Yields (Keeps s) (execCoreOv sensor s) := (yields_next ..).mpr (shutdown_keeps ..)
theorem execSmbalert_keeps (stage fault s) : Yields (Keeps s) (execSmbalert stage fault s) :=
  yields_ite ((yields_next ..).mpr (shutdown_keeps ..)) ((yields_next ..).mpr (by simp))

end Sys2Proof.Machine
end

section
/-! PROOFS. Every command keeps the queue and the invariant. -/

namespace Sys2Proof.Machine

theorem Yields.steady {s : State} {r : Res} (h : Yields (Keeps s) r) : Yields (Steady s) r := ⟨fun t ht => (h.of_next t ht).steady⟩

/-- Every command keeps the queue and the invariant. -/
theorem exec_steady (c : Instr) (s : State) : Yields (Steady s) (exec c s) := by
  cases c with
  | coreNop core bHalf => exact Yields.steady (r := execCoreNop core bHalf s) (execCoreNop_keeps ..)
  | eng o => exact Yields.steady (r := execEng o s) (execEng_keeps ..)
  | fadd o => exact Yields.steady (r := execFadd o s) (laneOp_keeps ..)
  | fsub o => exact Yields.steady (r := execFsub o s) (laneOp_keeps ..)
  | fmul o => exact Yields.steady (r := execFmul o s) (laneOp_keeps ..)
  | fma o => exact Yields.steady (r := execFma o s) (laneOp_keeps ..)
  | fmin o => exact Yields.steady (r := execFmin o s) (laneOp_keeps ..)
  | fmax o => exact Yields.steady (r := execFmax o s) (laneOp_keeps ..)
  | fcmplt o => exact Yields.steady (r := execFcmplt o s) (laneOp_keeps ..)
  | fcmpeq o => exact Yields.steady (r := execFcmpeq o s) (laneOp_keeps ..)
  | fsel o => exact Yields.steady (r := execFsel o s) (laneOp_keeps ..)
  | frsum o => exact Yields.steady (r := execFrsum o s) (reduceOp_keeps ..)
  | frmax o => exact Yields.steady (r := execFrmax o s) (reduceOp_keeps ..)
  | iadd o => exact Yields.steady (r := execIadd o s) (laneOp_keeps ..)
  | isub o => exact Yields.steady (r := execIsub o s) (laneOp_keeps ..)
  | ineg o => exact Yields.steady (r := execIneg o s) (laneOp_keeps ..)
  | iabs o => exact Yields.steady (r := execIabs o s) (laneOp_keeps ..)
  | iand o => exact Yields.steady (r := execIand o s) (laneOp_keeps ..)
  | ior o => exact Yields.steady (r := execIor o s) (laneOp_keeps ..)
  | ixor o => exact Yields.steady (r := execIxor o s) (laneOp_keeps ..)
  | ishl o => exact Yields.steady (r := execIshl o s) (laneOp_keeps ..)
  | ishr o => exact Yields.steady (r := execIshr o s) (laneOp_keeps ..)
  | imul o => exact Yields.steady (r := execImul o s) (laneOp_keeps ..)
  | imad o => exact Yields.steady (r := execImad o s) (laneOp_keeps ..)
  | icmplt o => exact Yields.steady (r := execIcmplt o s) (laneOp_keeps ..)
  | icmpeq o => exact Yields.steady (r := execIcmpeq o s) (laneOp_keeps ..)
  | cvt o => exact Yields.steady (r := execCvt o s) (laneOp_keeps ..)
  | lmul o => exact Yields.steady (r := execLmul o s) (laneOp_keeps ..)
  | ldiv o => exact Yields.steady (r := execLdiv o s) (laneOp_keeps ..)
  | lsqrt o => exact Yields.steady (r := execLsqrt o s) (laneOp_keeps ..)
  | lrsqrt o => exact Yields.steady (r := execLrsqrt o s) (laneOp_keeps ..)
  | lexp o => exact Yields.steady (r := execLexp o s) (laneOp_keeps ..)
  | llog o => exact Yields.steady (r := execLlog o s) (laneOp_keeps ..)
  | ladd o => exact Yields.steady (r := execLadd o s) (laneOp_keeps ..)
  | lsub o => exact Yields.steady (r := execLsub o s) (laneOp_keeps ..)
  | lmax o => exact Yields.steady (r := execLmax o s) (laneOp_keeps ..)
  | lmin o => exact Yields.steady (r := execLmin o s) (laneOp_keeps ..)
  | lcmplt o => exact Yields.steady (r := execLcmplt o s) (laneOp_keeps ..)
  | sigmoid o => exact Yields.steady (r := execSigmoid o s) (sfuInstr_keeps ..)
  | silu o => exact Yields.steady (r := execSilu o s) (sfuInstr_keeps ..)
  | geluT o => exact Yields.steady (r := execGeluT o s) (sfuInstr_keeps ..)
  | softmax o => exact Yields.steady (r := execSoftmax o s) (sfuInstr_keeps ..)
  | layernorm o => exact Yields.steady (r := execLayernorm o s) (sfuInstr_keeps ..)
  | rmsnorm o => exact Yields.steady (r := execRmsnorm o s) (sfuInstr_keeps ..)
  | gather o => exact Yields.steady (r := execGather o s) (execGather_keeps ..)
  | gatherDelivery core => exact Yields.steady (r := execGatherDelivery core s) (execGatherDelivery_keeps ..)
  | scatterAdd o => exact Yields.steady (r := execScatterAdd o s) (execScatterAdd_keeps ..)
  | gwait o => exact Yields.steady (r := execGwait o s) (execGwait_keeps ..)
  | imod o => exact Yields.steady (r := execImod o s) (execImod_keeps ..)
  | ioff o => exact Yields.steady (r := execIoff o s) (execIoff_keeps ..)
  | iuniq o => exact Yields.steady (r := execIuniq o s) (execIuniq_keeps ..)
  | recv o => exact Yields.steady (r := execRecv o s) (execRecv_keeps ..)
  | rel o => exact Yields.steady (r := execRel o s) (execRel_keeps ..)
  | send o => exact Yields.steady (r := execSend o s) (execSend_keeps ..)
  | tokenArrival t => exact Yields.steady (r := execTokenArrival t s) (execTokenArrival_keeps ..)
  | fill core q => exact Yields.steady (r := execFill core q s) (execFill_keeps ..)
  | loop core body count => exact Yields.steady (r := execLoop core body count s) (execLoop_keeps ..)
  | yield core pinv preg => exact Yields.steady (r := execYield core pinv preg s) (execYield_keeps ..)
  | fold core pinv preg => exact Yields.steady (r := execFold core pinv preg s) (execFold_keeps ..)
  | pmark core pinv preg bundle => exact Yields.steady (r := execPmark core pinv preg bundle s) (execPmark_keeps ..)
  | pany o => exact Yields.steady (r := execPany o s) (predReduce_keeps ..)
  | pall o => exact Yields.steady (r := execPall o s) (predReduce_keeps ..)
  | loadRegister o => exact Yields.steady (r := execLoadRegister o s) (execLoadRegister_keeps ..)
  | storeRegister o => exact Yields.steady (r := execStoreRegister o s) (execStoreRegister_keeps ..)
  | contextSwitch core => exact Yields.steady (r := execContextSwitch core s) (execContextSwitch_keeps ..)
  | contextLoadEnd part ctx first second => exact Yields.steady (r := execContextLoadEnd part ctx first second s) (execContextLoadEnd_keeps ..)
  | loadProceed part => exact Yields.steady (r := execLoadProceed part s) (execLoadProceed_keeps ..)
  | loadBlocked part ctx => exact Yields.steady (r := execLoadBlocked part ctx s) (execLoadBlocked_keeps ..)
  | stallWatchdog part => exact Yields.steady (r := execStallWatchdog part s) (execStallWatchdog_keeps ..)
  | drainEnd part => exact Yields.steady (r := execDrainEnd part s) (execDrainEnd_keeps ..)
  | wdogStatus f value => exact Yields.steady (r := execWdogStatus f value s) (execWdogStatus_keeps ..)
  | stepStart slot => exact Yields.steady (r := execStepStart slot s) (execStepStart_keeps ..)
  | quantiseTile slot tile => exact Yields.steady (r := execQuantiseTile slot tile s) (execQuantiseTile_keeps ..)
  | updateSweep slot => exact Yields.steady (r := execUpdateSweep slot s) (execUpdateSweep_keeps ..)
  | interlude slot => exact Yields.steady (r := execInterlude slot s) (execInterlude_keeps ..)
  | borderNop o => exact Yields.steady (r := execBorderNop o s) (execBorderNop_keeps ..)
  | ldg o => exact Yields.steady (r := execLdg o s) (execLdg_keeps ..)
  | ldw o => exact Yields.steady (r := execLdw o s) (execLdw_keeps ..)
  | lds o => exact Yields.steady (r := execLds o s) (execLds_keeps ..)
  | stw o => exact Yields.steady (r := execStw o s) (execStw_keeps ..)
  | sts o => exact Yields.steady (r := execSts o s) (execSts_keeps ..)
  | borderFadd o => exact Yields.steady (r := execBorderFadd o s) (vecOp_keeps ..)
  | borderFsub o => exact Yields.steady (r := execBorderFsub o s) (vecOp_keeps ..)
  | borderFmul o => exact Yields.steady (r := execBorderFmul o s) (vecOp_keeps ..)
  | borderFma o => exact Yields.steady (r := execBorderFma o s) (vecOp_keeps ..)
  | fdiv o => exact Yields.steady (r := execFdiv o s) (vecOp_keeps ..)
  | fsqrt o => exact Yields.steady (r := execFsqrt o s) (vecOp_keeps ..)
  | frsqrt o => exact Yields.steady (r := execFrsqrt o s) (vecOp_keeps ..)
  | borderFmax o => exact Yields.steady (r := execBorderFmax o s) (vecOp_keeps ..)
  | borderFmin o => exact Yields.steady (r := execBorderFmin o s) (vecOp_keeps ..)
  | fabs o => exact Yields.steady (r := execFabs o s) (vecOp_keeps ..)
  | fsign o => exact Yields.steady (r := execFsign o s) (vecOp_keeps ..)
  | fmulk o => exact Yields.steady (r := execFmulk o s) (vecOp_keeps ..)
  | faddk o => exact Yields.steady (r := execFaddk o s) (vecOp_keeps ..)
  | fmak o => exact Yields.steady (r := execFmak o s) (vecOp_keeps ..)
  | ldr o => exact Yields.steady (r := execLdr o s) (loadStat_keeps ..)
  | ldc o => exact Yields.steady (r := execLdc o s) (loadStat_keeps ..)
  | sumsq o => exact Yields.steady (r := execSumsq o s) (execSumsq_keeps ..)
  | arsum o => exact Yields.steady (r := execArsum o s) (execArsum_keeps ..)
  | acsum o => exact Yields.steady (r := execAcsum o s) (execAcsum_keeps ..)
  | kadd o => exact Yields.steady (r := execKadd o s) (scalarOp_keeps ..)
  | ksub o => exact Yields.steady (r := execKsub o s) (scalarOp_keeps ..)
  | kmul o => exact Yields.steady (r := execKmul o s) (scalarOp_keeps ..)
  | kdiv o => exact Yields.steady (r := execKdiv o s) (scalarOp_keeps ..)
  | ksqrt o => exact Yields.steady (r := execKsqrt o s) (scalarOp_keeps ..)
  | kmov o => exact Yields.steady (r := execKmov o s) (scalarOp_keeps ..)
  | kpowt o => exact Yields.steady (r := execKpowt o s) (scalarOp_keeps ..)
  | kacc o => exact Yields.steady (r := execKacc o s) (execKacc_keeps ..)
  | gradReady slot => exact Yields.steady (r := execGradReady slot s) (execGradReady_keeps ..)
  | wcReadyPoll slot word data => exact Yields.steady (r := execWcReadyPoll slot word data s) (execWcReadyPoll_keeps ..)
  | hostTimeout slot => exact Yields.steady (r := execHostTimeout slot s) (execHostTimeout_keeps ..)
  | stepReady slot => exact Yields.steady (r := execStepReady slot s) (execStepReady_keeps ..)
  | prepare p => exact Yields.steady (r := execPrepare p s) (execPrepare_keeps ..)
  | repair slot m => exact Yields.steady (r := execRepair slot m s) (execRepair_keeps ..)
  | commit p => exact Yields.steady (r := execCommit p s) (execCommit_keeps ..)
  | abort p => exact Yields.steady (r := execAbort p s) (execAbort_keeps ..)
  | peerLost slot => exact Yields.steady (r := execPeerLost slot s) (execPeerLost_keeps ..)
  | go p => exact Yields.steady (r := execGo p s) (execGo_keeps ..)
  | reduce p => exact Yields.steady (r := execReduce p s) (execReduce_keeps ..)
  | gatherPacket p => exact Yields.steady (r := execGatherPacket p s) (execGatherPacket_keeps ..)
  | grad p => exact Yields.steady (r := execGrad p s) (execGrad_keeps ..)
  | shardReq p => exact Yields.steady (r := execShardReq p s) (execShardReq_keeps ..)
  | shard p => exact Yields.steady (r := execShard p s) (execShard_keeps ..)
  | relay p => exact Yields.steady (r := execRelay p s) (execRelay_keeps ..)
  | move p => exact Yields.steady (r := execMove p s) (execMove_keeps ..)
  | fenceRound slot => exact Yields.steady (r := execFenceRound slot s) (execFenceRound_keeps ..)
  | fencePass p => exact Yields.steady (r := execFencePass p s) (execFencePass_keeps ..)
  | switchPass p => exact Yields.steady (r := execSwitchPass p s) (execSwitchPass_keeps ..)
  | linkEnable f port => exact Yields.steady (r := execLinkEnable f port s) (execLinkEnable_keeps ..)
  | linkDisable f port => exact Yields.steady (r := execLinkDisable f port s) (execLinkDisable_keeps ..)
  | trainingDone port txBad rxBad => exact Yields.steady (r := execTrainingDone port txBad rxBad s) (execTrainingDone_keeps ..)
  | hello port m => exact Yields.steady (r := execHello port m s) (execHello_keeps ..)
  | helloEcho port m excess => exact Yields.steady (r := execHelloEcho port m excess s) (execHelloEcho_keeps ..)
  | helloTimer port => exact Yields.steady (r := execHelloTimer port s) (execHelloTimer_keeps ..)
  | blockReceive port a fecCorr fecUncorr badLanes => exact Yields.steady (r := execBlockReceive port a fecCorr fecUncorr badLanes s) (execBlockReceive_keeps ..)
  | resendTimeout port => exact Yields.steady (r := execResendTimeout port s) (execResendTimeout_keeps ..)
  | retrainReceived port m => exact Yields.steady (r := execRetrainReceived port m s) (execRetrainReceived_keeps ..)
  | retrain f port => exact Yields.steady (r := execRetrain f port s) (execRetrain_keeps ..)
  | laneTestEnd port txBad rxBad => exact Yields.steady (r := execLaneTestEnd port txBad rxBad s) (execLaneTestEnd_keeps ..)
  | breakBlock port m => exact Yields.steady (r := execBreakBlock port m s) (execBreakBlock_keeps ..)
  | torusCoord f value => exact Yields.steady (r := execTorusCoord f value s) (execTorusCoord_keeps ..)
  | torusLen f value => exact Yields.steady (r := execTorusLen f value s) (execTorusLen_keeps ..)
  | portReset port kind => exact Yields.steady (r := execPortReset port kind s) (execPortReset_keeps ..)
  | functionLevelReset f => exact Yields.steady (r := execFunctionLevelReset f s) (execFunctionLevelReset_keeps ..)
  | d3hot f enter => exact Yields.steady (r := execD3hot f enter s) (execD3hot_keeps ..)
  | openMb f seq => exact Yields.steady (r := execOpenMb f seq s) (mbWrite_keeps ..)
  | proveMb f seq => exact Yields.steady (r := execProveMb f seq s) (mbWrite_keeps ..)
  | closeMb f seq => exact Yields.steady (r := execCloseMb f seq s) (mbWrite_keeps ..)
  | passwordMb f seq => exact Yields.steady (r := execPasswordMb f seq s) (mbWrite_keeps ..)
  | mbCommandEnd f => exact Yields.steady (r := execMbCommandEnd f s) (execMbCommandEnd_keeps ..)
  | authExpired f => exact Yields.steady (r := execAuthExpired f s) (execAuthExpired_keeps ..)
  | lockExpiry key => exact Yields.steady (r := execLockExpiry key s) (execLockExpiry_keeps ..)
  | ringEnable f value => exact Yields.steady (r := execRingEnable f value s) (execRingEnable_keeps ..)
  | ringDisable f value => exact Yields.steady (r := execRingDisable f value s) (execRingDisable_keeps ..)
  | fnRings f value => exact Yields.steady (r := execFnRings f value s) (execFnRings_keeps ..)
  | doorbellPoll f r => exact Yields.steady (r := execDoorbellPoll f r s) (execDoorbellPoll_keeps ..)
  | descriptorFetch ring r => exact Yields.steady (r := execDescriptorFetch ring r s) (execDescriptorFetch_keeps ..)
  | nop o => exact Yields.steady (r := execNop o s) (execNop_keeps ..)
  | loadPattern o => exact Yields.steady (r := execLoadPattern o s) (execLoadPattern_keeps ..)
  | evict o => exact Yields.steady (r := execEvict o s) (execEvict_keeps ..)
  | switch o => exact Yields.steady (r := execSwitch o s) (execSwitch_keeps ..)
  | run o => exact Yields.steady (r := execRun o s) (execRun_keeps ..)
  | copyIn o => exact Yields.steady (r := execCopyIn o s) (execCopyIn_keeps ..)
  | copyOut o => exact Yields.steady (r := execCopyOut o s) (execCopyOut_keeps ..)
  | checkpoint o => exact Yields.steady (r := execCheckpoint o s) (execCheckpoint_keeps ..)
  | restore o => exact Yields.steady (r := execRestore o s) (execRestore_keeps ..)
  | reshard o table => exact Yields.steady (r := execReshard o table s) (execReshard_keeps ..)
  | fence o => exact Yields.steady (r := execFence o s) (execFence_keeps ..)
  | commitPolicy o => exact Yields.steady (r := execCommitPolicy o s) (execCommitPolicy_keeps ..)
  | problem o => exact Yields.steady (r := execProblem o s) (execProblem_keeps ..)
  | domainCreate o => exact Yields.steady (r := execDomainCreate o s) (execDomainCreate_keeps ..)
  | domainRemove o => exact Yields.steady (r := execDomainRemove o s) (execDomainRemove_keeps ..)
  | quotaSet o => exact Yields.steady (r := execQuotaSet o s) (execQuotaSet_keeps ..)
  | slotCreate o pat => exact Yields.steady (r := execSlotCreate o pat s) (execSlotCreate_keeps ..)
  | slotRemove o => exact Yields.steady (r := execSlotRemove o s) (execSlotRemove_keeps ..)
  | regionAlloc o => exact Yields.steady (r := execRegionAlloc o s) (execRegionAlloc_keeps ..)
  | regionRelease o => exact Yields.steady (r := execRegionRelease o s) (execRegionRelease_keeps ..)
  | partCreate o => exact Yields.steady (r := execPartCreate o s) (execPartCreate_keeps ..)
  | partResize o => exact Yields.steady (r := execPartResize o s) (execPartResize_keeps ..)
  | partRemove o => exact Yields.steady (r := execPartRemove o s) (execPartRemove_keeps ..)
  | partMode o => exact Yields.steady (r := execPartMode o s) (execPartMode_keeps ..)
  | psSize o => exact Yields.steady (r := execPsSize o s) (execPsSize_keeps ..)
  | serviceEnter o => exact Yields.steady (r := execServiceEnter o s) (execServiceEnter_keeps ..)
  | serviceLeave o => exact Yields.steady (r := execServiceLeave o s) (execServiceLeave_keeps ..)
  | descriptorComplete ring => exact Yields.steady (r := execDescriptorComplete ring s) (execDescriptorComplete_keeps ..)
  | moderationTimer ring => exact Yields.steady (r := execModerationTimer ring s) (execModerationTimer_keeps ..)
  | tierRead o => exact Yields.steady (r := execTierRead o s) (execTierRead_keeps ..)
  | granuleZeroing tier gran => exact Yields.steady (r := execGranuleZeroing tier gran s) (execGranuleZeroing_keeps ..)
  | arbitration o => exact Yields.steady (r := execArbitration o s) (execArbitration_keeps ..)
  | withdraw cls index input => exact Yields.steady (r := execWithdraw cls index input s) (execWithdraw_keeps ..)
  | hopCrc place first again => exact Yields.steady (r := execHopCrc place first again s) (execHopCrc_keeps ..)
  | sramUncorrectable e => exact Yields.steady (r := execSramUncorrectable e s) (execSramUncorrectable_keeps ..)
  | heartbeat die received => exact execHeartbeat_steady ..
  | selfTest core engine pass => exact Yields.steady (r := execSelfTest core engine pass s) (execSelfTest_keeps ..)
  | dieFault die detect => exact Yields.steady (r := execDieFault die detect s) (execDieFault_keeps ..)
  | spareSubstitution die => exact Yields.steady (r := execSpareSubstitution die s) (execSpareSubstitution_keeps ..)
  | sparePowered o => exact Yields.steady (r := execSparePowered o s) (execSparePowered_keeps ..)
  | rimFault rim detect => exact Yields.steady (r := execRimFault rim detect s) (execRimFault_keeps ..)
  | takeover => exact execTakeover_steady s
  | ackTimeout => exact execAckTimeout_steady s
  | standbySync die => exact execStandbySync_steady ..
  | requestUpdate image => exact Yields.steady (r := execRequestUpdate image s) (execRequestUpdate_keeps ..)
  | rebootTimeout die => exact execRebootTimeout_steady ..
  | coldReset => exact execColdReset_steady s
  | coldResetRelease busSel ownN testN => exact Yields.steady (r := execColdResetRelease busSel ownN testN s) (execColdResetRelease_keeps ..)
  | rootLock => exact execRootLock_steady s
  | latchDecision h0 => exact execLatchDecision_steady ..
  | bootStageEnd => exact Yields.steady (r := execBootStageEnd s) (execBootStageEnd_keeps s)
  | ready => exact Yields.steady (r := execReady s) (execReady_keeps s)
  | sensorSample index value => exact Yields.steady (r := execSensorSample index value s) (execSensorSample_keeps ..)
  | smbalert stage fault => exact Yields.steady (r := execSmbalert stage fault s) (execSmbalert_keeps ..)
  | voutCommand rail mv => exact Yields.steady (r := execVoutCommand rail mv s) (execVoutCommand_keeps ..)
  | derate => exact Yields.steady (r := execDerate s) (execDerate_keeps s)
  | powerCorrection measured => exact Yields.steady (r := execPowerCorrection measured s) (execPowerCorrection_keeps ..)
  | mgChallenge => exact Yields.steady (r := execMgChallenge s) (execMgChallenge_keeps s)
  | mgAuth mac => exact Yields.steady (r := execMgAuth mac s) (execMgAuth_keeps ..)
  | mgOwn mkey => exact Yields.steady (r := execMgOwn mkey s) (execMgOwn_keeps ..)
  | keySet keyId role domain key => exact Yields.steady (r := execKeySet keyId role domain key s) (execKeySet_keeps ..)
  | keyClear keyId => exact Yields.steady (r := execKeyClear keyId s) (execKeyClear_keeps ..)
  | pwSet password => exact Yields.steady (r := execPwSet password s) (execPwSet_keeps ..)
  | lockReset keyId => exact Yields.steady (r := execLockReset keyId s) (execLockReset_keeps ..)
  | boardSet r => exact Yields.steady (r := execBoardSet r s) (execBoardSet_keeps ..)
  | boardGet => exact Yields.steady (r := execBoardGet s) (execBoardGet_keeps s)
  | timeMark time format => exact Yields.steady (r := execTimeMark time format s) (execTimeMark_keeps ..)
  | logRead seq => exact Yields.steady (r := execLogRead seq s) (execLogRead_keeps ..)
  | keyExchange reqId => exact Yields.steady (r := execKeyExchange reqId s) (execKeyExchange_keeps ..)
  | finish valid => exact Yields.steady (r := execFinish valid s) (execFinish_keeps ..)
  | setCertificate chain => exact Yields.steady (r := execSetCertificate chain s) (execSetCertificate_keeps ..)
  | hmLogRead f seq => exact Yields.steady (r := execHmLogRead f seq s) (hmWrite_keeps ..)
  | sensorRead f seq => exact Yields.steady (r := execSensorRead f seq s) (hmWrite_keeps ..)
  | logHead f seq => exact Yields.steady (r := execLogHead f seq s) (hmWrite_keeps ..)
  | hmCommandEnd => exact Yields.steady (r := execHmCommandEnd s) (execHmCommandEnd_keeps s)
  | convSel f value => exact Yields.steady (r := execConvSel f value s) (execConvSel_keeps ..)
  | convClr f value => exact Yields.steady (r := execConvClr f value s) (execConvClr_keeps ..)
  | stepSel f value => exact Yields.steady (r := execStepSel f value s) (execStepSel_keeps ..)
  | devSel f value => exact Yields.steady (r := execDevSel f value s) (execDevSel_keeps ..)
  | quotaSel f value => exact Yields.steady (r := execQuotaSel f value s) (execQuotaSel_keeps ..)
  | tierSlotSel f value => exact Yields.steady (r := execTierSlotSel f value s) (execTierSlotSel_keeps ..)
  | tierChSel f value => exact Yields.steady (r := execTierChSel f value s) (execTierChSel_keeps ..)
  | layoutSel f value => exact Yields.steady (r := execLayoutSel f value s) (execLayoutSel_keeps ..)
  | arbSel f value => exact Yields.steady (r := execArbSel f value s) (execArbSel_keeps ..)
  | arbCtl f value => exact Yields.steady (r := execArbCtl f value s) (execArbCtl_keeps ..)
  | ringSel f value => exact Yields.steady (r := execRingSel f value s) (execRingSel_keeps ..)
  | pairCommit f pair hi => exact Yields.steady (r := execPairCommit f pair hi s) (execPairCommit_keeps ..)
  | cycSnap f value => exact Yields.steady (r := execCycSnap f value s) (execCycSnap_keeps ..)
  | flagClear f block value => exact Yields.steady (r := execFlagClear f block value s) (execFlagClear_keeps ..)
  | chkCtl f unit value => exact Yields.steady (r := execChkCtl f unit value s) (execChkCtl_keeps ..)
  | chkRun f unit hi => exact Yields.steady (r := execChkRun f unit hi s) (execChkRun_keeps ..)
  | pertCtl f value => exact Yields.steady (r := execPertCtl f value s) (execPertCtl_keeps ..)
  | ptSel f value => exact Yields.steady (r := execPtSel f value s) (execPtSel_keeps ..)
  | ptCtl f value => exact Yields.steady (r := execPtCtl f value s) (execPtCtl_keeps ..)
  | ptSeed f value => exact Yields.steady (r := execPtSeed f value s) (execPtSeed_keeps ..)
  | qdelayRelease core q => exact Yields.steady (r := execQdelayRelease core q s) (execQdelayRelease_keeps ..)
  | lpbkCtl f value lanes errors => exact Yields.steady (r := execLpbkCtl f value lanes errors s) (execLpbkCtl_keeps ..)
  | phyloop f tkind target => exact Yields.steady (r := execPhyloop f tkind target s) (execPhyloop_keeps ..)
  | march f tkind target => exact Yields.steady (r := execMarch f tkind target s) (execMarch_keeps ..)
  | bistEnd fails failed => exact Yields.steady (r := execBistEnd fails failed s) (execBistEnd_keeps ..)
  | registerWrite f place offset value => exact Yields.steady (r := execRegisterWrite f place offset value s) (execRegisterWrite_keeps ..)
  | thermTrip sensor => exact Yields.steady (r := execThermTrip sensor s) (execThermTrip_keeps ..)
  | pllLoss => exact Yields.steady (r := execPllLoss s) (execPllLoss_keeps s)
  | sysrefLoss => exact Yields.steady (r := execSysrefLoss s) (execSysrefLoss_keeps s)
  | coreUv sensor => exact Yields.steady (r := execCoreUv sensor s) (execCoreUv_keeps ..)
  | coreOv sensor => exact Yields.steady (r := execCoreOv sensor s) (execCoreOv_keeps ..)
  | powerLoss => exact execPowerLoss_steady s
  | descriptorFill o => exact Yields.steady (r := execDescriptorFill o s) (execDescriptorFill_keeps ..)
  | perstRelease port => exact Yields.steady (r := execPerstRelease port s) (execPerstRelease_keeps ..)
  | mbCmd f value => exact Yields.steady (r := execMbCmd f value s) (mbWrite_keeps ..)
  | hmCmd f value => exact Yields.steady (r := execHmCmd f value s) (hmWrite_keeps ..)
  | endSession => exact Yields.steady (r := execEndSession s) (execEndSession_keeps s)
  | setEndpointId eid => exact Yields.steady (r := execSetEndpointId eid s) (execSetEndpointId_keeps ..)
  | imageWritten die verified => exact execImageWritten_steady ..
  | tap o => exact Yields.steady (r := execTap o s) (execTap_keeps ..)

end Sys2Proof.Machine
end

section
/-! PROOFS. Every step keeps the queue and the invariant of `Safety.Inv`, and the front of the queue runs. -/

namespace Sys2Proof.Machine

/-- The generators of the blocking points advance in PERTURB alone. -/
theorem tickPoints_frame (s : State) : tickPoints s = { s with pert := (tickPoints s).pert } := by
  unfold tickPoints
  refine List.foldlRecOn (motive := fun t : State => t = { s with pert := t.pert }) _ _ rfl fun t ht p _ => ?_
  dsimp only
  split
  · rw [ht]
    rfl
  · exact ht

/-- What one fc changes in which no command takes effect. -/
theorem idleFc_frame (s : State) (h : s.rootLock = true) :
    idleFc s = { s with fc := s.fc + 1, slots := (idleFc s).slots, parts := (idleFc s).parts, pert := (idleFc s).pert } := by
  suffices hframe : ∃ slots parts pert, idleFc s = { s with fc := s.fc + 1, slots := slots, parts := parts, pert := pert } by
    obtain ⟨_, _, _, hframe⟩ := hframe
    rw [hframe]
  rw [idleFc, if_neg (by simp [h]), tickPoints_frame]
  exact ⟨_, _, _, rfl⟩

theorem idleFc_stopped (s : State) (h : s.rootLock = false) : idleFc s = s := by simp [idleFc, h]

theorem step_front (c : Instr) (cs : List Instr) (s : State) (h : s.pending = c :: cs) : step s = exec c { s with pending := cs } := by
  unfold step
  rw [h]

theorem step_empty (s : State) (h : s.pending = []) : step s = .next (idleFc s) := by
  unfold step
  rw [h]

theorem inv_iff (s : State) : Sys2Proof.Safety.Inv s ↔ CellsOk (cells s) ∧ Safety.OneActive s :=
  ⟨fun h => ⟨h.mem, h.active⟩, fun h => ⟨h.1, h.2⟩⟩

theorem Steady.inv {s t : State} (h : Steady s t) (hs : Sys2Proof.Safety.Inv s) : Sys2Proof.Safety.Inv t :=
  (inv_iff t).mpr ⟨h.canonical hs.mem, h.active hs.active⟩

end Sys2Proof.Machine

open Sys2Proof.Machine

/-- Settles O57: no command touches what waits behind it. -/
theorem queueUnchanged : Obligations.QueueUnchanged := fun c s t h => ((exec_steady c s).of_next t h).pending

/-- Settles O58: by the command at the front of the queue, or the fc that passes on an empty one. -/
theorem stepKeepsInv : Obligations.StepKeepsInv := by
  intro s t hs ht
  cases hp : s.pending with
  | nil =>
    rw [step_empty s hp] at ht
    cases ht
    exact (Keeps.steady (by simp)).inv hs
  | cons c cs =>
    rw [step_front c cs s hp] at ht
    have hrest : Sys2Proof.Safety.Inv { s with pending := cs } := ⟨hs.mem, hs.active⟩
    exact ((exec_steady c _).of_next t ht).inv hrest

/-- Settles O56: the two ways of `step`. -/
theorem stepRunsFront : Obligations.StepRunsFront :=
  ⟨fun _ _ _ => rfl, fun s hp => ⟨idleFc s, step_empty s hp, idleFc_stopped s, idleFc_frame s⟩⟩
end

section
/-! PROOFS. The Handle pair: synchronising, losing, taking over and updating. -/

namespace Sys2Proof.Machine

/-! ### Roles -/

/-- An update that ends changes no role: it lifts the minimum SVN of the dies alone. -/
theorem role_endUpdate (s : State) (ok : Bool) (e : Nat) : (getDie (endUpdate s ok) e).role = (getDie s e).role := by
  have hlift (u : State) (d n : Nat) : (getDie (setDie u d { getDie u d with minSvn := n }) e).role = (getDie u e).role := by
    by_cases he : e = d
    · rw [he, getDie_setDie_same]
    · rw [getDie_setDie_other _ _ _ _ he]
  have hend (u : State) (sev : Nat) : getDie (logEvent (updHandle u fun h => { h with update := none }) lgFirmware 0 0xFF sev []) e = getDie u e := by
    rw [getDie_logEvent]
    rfl
  unfold endUpdate
  split
  · rfl
  · rw [hend]
    cases ok
    · rfl
    · exact (hlift ..).trans (hlift ..)

/-- A die whose role changes leaves the other one active. -/
theorem activeDie_setRole_other {s : State} {a d : Nat} (r : DieRole) (ha : activeDie s = some a) (hd : d ≠ a) : activeDie (setRole s d r) = some a := by
  obtain ⟨hlatch, hrole⟩ := activeDie_latch ha
  exact activeDie_of_latch _ _ hlatch (by rw [getDie_setRole_other _ _ _ _ (Ne.symm hd), hrole])

theorem activeDie_of_kept {s t : State} (h : kept t = kept s) : activeDie t = activeDie s :=
  congrArg (fun k : List Instr × Option Nat × SMap HandleDie => k.2.1.bind fun d => if (mget ({} : HandleDie) k.2.2 d).role = .active then some d else none) h

/-! ### A die that is lost as standby -/

theorem loseStandby_keptAs (s : State) (d : Nat) : kept (loseStandby s d) = kept (setRole s d .lost) := (standbyGone_keeps _).1

theorem role_loseStandby (s : State) (d : Nat) : (getDie (loseStandby s d) d).role = .lost := by
  rw [getDie_of_kept (loseStandby_keptAs s d), getDie_setRole_same]

theorem activeDie_loseStandby {s : State} {a d : Nat} (ha : activeDie s = some a) (hd : d ≠ a) : activeDie (loseStandby s d) = some a :=
  (activeDie_of_kept (loseStandby_keptAs s d)).trans (activeDie_setRole_other _ ha hd)

/-! ### Synchronising (R393, R398) -/

/-- A die has received the protected state and is the standby. -/
def synced (s : State) (d : Nat) : State :=
  updHandle (measureStandby (setRole s d .standby) (some (runningImage s d))) fun h => { h with handover := false }

theorem synced_keptAs (s : State) (d : Nat) : kept (synced s d) = kept (setRole s d .standby) :=
  ((measureStandby_keeps ..).trans (updHandle_keeps _ _ rfl rfl)).1

theorem getDie_synced (s : State) (d : Nat) : getDie (synced s d) d = { getDie s d with role := .standby } := by
  rw [getDie_of_kept (synced_keptAs s d), getDie_setRole_same]

theorem activeDie_synced {s : State} {a d : Nat} (ha : activeDie s = some a) (hd : d ≠ a) : activeDie (synced s d) = some a :=
  (activeDie_of_kept (synced_keptAs s d)).trans (activeDie_setRole_other _ ha hd)

section
variable {die : BitVec 1} {s : State} {a : Nat} (ha : activeDie s = some a)
include ha

theorem standbySync_other (h : die.toNat = a ∨ (getDie s die.toNat).role ≠ .starting ∧ (getDie s die.toNat).role ≠ .rebooting) :
    exec (.standbySync die) s = .next s := by
  show execStandbySync die s = _
  unfold execStandbySync
  simp only [ha]
  exact if_pos (h.imp_left Eq.symm)

variable (hd : die.toNat ≠ a) (hrole : (getDie s die.toNat).role = .starting ∨ (getDie s die.toNat).role = .rebooting)
include hd hrole

theorem standbySync_unmet (hmeet : formatsMeet (runningImage s die.toNat) (runningImage s a) = false) :
    exec (.standbySync die) s = .next (loseStandby s die.toNat) := by
  show execStandbySync die s = _
  unfold execStandbySync
  simp only [ha, hmeet]
  rw [if_neg (by rintro (h | ⟨h, h'⟩) <;> simp_all)]
  rfl

/-- With formats that meet, a die that started is the standby; for one that rebooted the update goes on or ends. -/
theorem standbySync_met (hmeet : formatsMeet (runningImage s die.toNat) (runningImage s a) = true) :
    ∃ t, exec (.standbySync die) s = .next t ∧ (getDie t die.toNat).role = .standby ∧ ((getDie s die.toNat).role = .starting → t = synced s die.toNat) := by
  have hsynced : (getDie (synced s die.toNat) die.toNat).role = .standby := by rw [getDie_synced]
  show ∃ t, execStandbySync die s = .next t ∧ _
  unfold execStandbySync
  simp only [ha, hmeet]
  rw [if_neg (by rintro (h | ⟨h, h'⟩) <;> simp_all), if_neg (by simp)]
  split
  case isTrue => exact ⟨_, rfl, hsynced, fun _ => rfl⟩
  case isFalse hstart =>
    split
    · exact ⟨_, rfl, hsynced, fun h => absurd h hstart⟩
    · split
      · exact ⟨_, rfl, (role_endUpdate ..).trans hsynced, fun h => absurd h hstart⟩
      · split
        · exact ⟨_, rfl, (role_endUpdate ..).trans hsynced, fun h => absurd h hstart⟩
        · exact ⟨_, rfl, hsynced, fun h => absurd h hstart⟩
end

/-- The format condition, read as R398 states it. -/
theorem formatsMeet_iff (i j : ImageSt) : formatsMeet i j = true ↔ i.stateMin ≤ j.stateVer ∧ j.stateVer ≤ i.stateVer := by
  simp [formatsMeet]

theorem synced_frame (s : State) (d : Nat) : synced s d =
    { s with handle := { s.handle with dies := (synced s d).handle.dies, handover := false, measStandby := some (runningImage s d) } } := by
  simp only [synced, measureStandby, setRole, setDie, updHandle]

theorem loseStandby_frame (s : State) (d : Nat) : loseStandby s d = { s with handle := { s.handle with
      dies := (setRole s d .lost).handle.dies, flags := raise s.fc s.handle.flags mfStandbyLost, measStandby := none, update := none, handover := false } } := by
  simp only [loseStandby, raiseHandle, measureStandby, setRole, setDie, updHandle]

/-! ### Acknowledgement and reboot (R393, R411) -/

theorem ackTimeout_standby {s : State} {a : Nat} (ha : activeDie s = some a) (h : (getDie s (otherDie a)).role = .standby) :
    exec .ackTimeout s = .next (loseStandby s (otherDie a)) := by
  show execAckTimeout s = _
  unfold execAckTimeout
  simp only [ha]
  exact if_pos h

theorem ackTimeout_other {s : State} {a : Nat} (ha : activeDie s = some a) (h : (getDie s (otherDie a)).role ≠ .standby) :
    exec .ackTimeout s = .next s := by
  show execAckTimeout s = _
  unfold execAckTimeout
  simp only [ha]
  exact if_neg h

theorem rebootTimeout_lost {die : BitVec 1} {s : State} (hlatch : s.handle.latch ≠ some die.toNat) (h : (getDie s die.toNat).role = .rebooting) :
    exec (.rebootTimeout die) s = .next (loseStandby s die.toNat) := if_neg (by rintro (h' | h') <;> contradiction)

theorem rebootTimeout_other {die : BitVec 1} {s : State} (h : (getDie s die.toNat).role ≠ .rebooting) : exec (.rebootTimeout die) s = .next s :=
  if_pos (.inl h)

/-! ### Takeover (R394, R412) -/

/-- An event below SEV 2 after a change of Handle alone changes Handle alone. -/
theorem logEvent_frame {s u : State} (src code die sev : Nat) (args : List Byte) (hu : u = { s with handle := u.handle }) (h : sev ≠ 2) :
    logEvent u src code die sev args = { s with handle := (logEvent u src code die sev args).handle } := by
  have hlog := logEvent_handle_only u src code die sev args h
  generalize (logEvent u src code die sev args).handle = x at hlog ⊢
  rw [hlog, hu]

/-- What a takeover notes before its event: the measurements and TAKEOVER. -/
def takeoverNoted (s : State) (d : Nat) : State := raiseHandle (measureSites (measureStandby (takenOver s d) none)) mfTakeover

theorem becomeActive_eq (s : State) (d : Nat) : becomeActive s d = logEvent (takeoverNoted s d) lgFirmware 0 (0x3A + d) 1 [] := rfl

theorem takeoverNoted_handle (s : State) (d : Nat) : (takeoverNoted s d).handle = { s.handle with
    latch := some d, dies := (setRole s d .active).handle.dies, takeovers := min (s.handle.takeovers + 1) 0xFF, handover := false, measStandby := none,
    measSites := (List.range 4).map (siteMap s.fault), flags := raise s.fc s.handle.flags mfTakeover } := by
  simp only [takeoverNoted, takenOver, raiseHandle, measureSites, measureStandby, setRole, setDie, updHandle]

theorem becomeActive_frame (s : State) (d : Nat) : becomeActive s d = { s with handle := (becomeActive s d).handle } := by
  rw [becomeActive_eq]
  refine logEvent_frame _ _ _ _ _ ?_ (by decide)
  simp only [takeoverNoted, takenOver, raiseHandle, measureSites, measureStandby, setRole, setDie, updHandle]

/-- What becoming the active die changes of Handle. -/
theorem becomeActive_handle (s : State) (d : Nat) : ∃ log, (becomeActive s d).handle = { s.handle with
    latch := some d, dies := (setRole s d .active).handle.dies, takeovers := min (s.handle.takeovers + 1) 0xFF, handover := false, measStandby := none,
    measSites := (List.range 4).map (siteMap s.fault), flags := raise s.fc s.handle.flags mfTakeover, log := log, nextSeq := s.handle.nextSeq + 1 } := by
  rw [becomeActive_eq, logEvent_handle, takeoverNoted_handle]
  exact ⟨_, rfl⟩

theorem activeDie_becomeActive (s : State) (d : Nat) : activeDie (becomeActive s d) = some d := by
  rw [activeDie_of_kept (becomeActive_keeps s d).1]
  refine activeDie_of_latch _ _ rfl ?_
  change (getDie (setRole s d .active) d).role = .active
  rw [getDie_setRole_same]

theorem getDie_becomeActive_other (s : State) {d e : Nat} (h : e ≠ d) : getDie (becomeActive s d) e = getDie s e := by
  rw [getDie_of_kept (becomeActive_keeps s d).1]
  exact getDie_setRole_other s d e .active h

/-- An update that fails is taken away and logged. -/
theorem endUpdate_failed_handle {s : State} {u : UpdateSt} (hu : s.handle.update = some u) :
    ∃ log, (endUpdate s false).handle = { s.handle with update := none, log := log, nextSeq := s.handle.nextSeq + 1 } := by
  unfold endUpdate
  simp only [hu]
  rw [logEvent_handle]
  exact ⟨_, rfl⟩

section
variable {s : State} {d : Nat} (hd : s.handle.latch = some d)
include hd

theorem takeover_standby (hrole : (getDie s d).role = .standby) :
    exec .takeover s = .next (becomeActive (if s.handle.update.isSome then endUpdate s false else s) d) := by
  show execTakeover s = _
  simp only [execTakeover, hd, hrole]

theorem takeover_rebooting (hrole : (getDie s d).role = .rebooting) : exec .takeover s = .next (if s.handle.update.isSome then
    logEvent (updHandle (becomeActive s d) fun h => { h with update := none }) lgFirmware 0 0xFF 0 [] else becomeActive s d) := by
  have hupdate : (becomeActive s d).handle.update = s.handle.update := by
    obtain ⟨log, h⟩ := becomeActive_handle s d
    rw [h]
  show execTakeover s = _
  simp only [execTakeover, hd, hrole, hupdate]

theorem takeover_active (hrole : (getDie s d).role = .active) : exec .takeover s =
    if (runsUpdate s (otherDie d) && !runsUpdate s d && (getDie s (otherDie d)).role == .standby && !mbCommandOpen s) = true then
      .next (becomeActive (setRole s d .starting) (otherDie d)) else .next s := by
  show execTakeover s = _
  simp only [execTakeover, hd, hrole]

theorem takeover_unfit (hstandby : (getDie s d).role ≠ .standby) (hreboot : (getDie s d).role ≠ .rebooting) (hactive : (getDie s d).role ≠ .active) :
    exec .takeover s = .next s := by
  show execTakeover s = _
  unfold execTakeover
  simp only [hd]
end

theorem takeover_noLatch {s : State} (h : s.handle.latch = none) : exec .takeover s = .next s := by
  show execTakeover s = _
  simp only [execTakeover, h]

/-! ### Live update (R410 to R412) -/

theorem requestUpdate_refused {s : State} {a : Nat} (image : ImageSt) (ha : activeDie s = some a)
    (h : standbyOk s = false ∨ s.handle.update.isSome = true ∨ s.fault.latched ≠ [] ∨ s.fault.powering ≠ []) :
    exec (.requestUpdate image) s = .next { s with out := s.out ++ [.bmc false] } := by
  show execRequestUpdate image s = _
  unfold execRequestUpdate
  simp only [ha]
  exact if_pos (by simpa [or_assoc] using h)

section
variable {s : State} {a : Nat} (image : ImageSt) (ha : activeDie s = some a) (hok : standbyOk s = true) (hu : s.handle.update = none)
  (hlatched : s.fault.latched = []) (hpowering : s.fault.powering = [])
include ha hok hu hlatched hpowering

theorem requestUpdate_taken (hrom : romAccepts (getDie s (otherDie a)) image = true) (hmeet : formatsMeet image (runningImage s a) = true) :
    exec (.requestUpdate image) s = .next { s with
      out := s.out ++ [.bmc true], handle := { s.handle with update := some { image := image, done := [] } } } := by
  show execRequestUpdate image s = _
  simp [execRequestUpdate, ha, hok, hu, hlatched, hpowering, hrom, hmeet, updHandle]

theorem requestUpdate_unfit (h : romAccepts (getDie s (otherDie a)) image = false ∨ formatsMeet image (runningImage s a) = false) :
    exec (.requestUpdate image) s = .next (logEvent { s with out := s.out ++ [.bmc true] } lgFirmware 0 0xFF 1 []) := by
  show execRequestUpdate image s = _
  have hand : (romAccepts (getDie s (otherDie a)) image && formatsMeet image (runningImage s a)) = false := Bool.and_eq_false_iff.mpr h
  simp [execRequestUpdate, ha, hok, hu, hlatched, hpowering, hand]
end

/-- The image listed last for a slot is the one found there. -/
theorem find_minsert (m : SMap ImageSt) (k : Nat) (i : ImageSt) : (minsert m k i).find? (fun p => p.1 == k) = some (k, i) := by
  induction m with
  | nil => simp [minsert]
  | cons p m ih =>
    obtain ⟨j, w⟩ := p
    rw [minsert]
    split
    · simp
    · split
      · simp
      · have hj : (j == k) = false := by simpa using fun h => ‹¬k = j› h.symm
        simp [hj, ih]

/-- The die once the new image stands in its inactive slot. -/
def withImage (x : HandleDie) (i : ImageSt) : HandleDie := { x with images := minsert x.images (1 - x.slot) i }

theorem imageAt_of_images {s : State} {d k : Nat} {i : ImageSt} {m : SMap ImageSt} (h : (getDie s d).images = minsert m k i) : imageAt s d k = i := by
  unfold imageAt
  rw [h, find_minsert]

theorem bootSlot_writeBootsel (x : HandleDie) (k : Nat) : bootSlot (writeBootsel x k) = k := by
  simp only [writeBootsel, bootSlot]
  split <;> simp [nth]

section
variable {die : BitVec 1} {verified : Bool} {s : State}

theorem imageWritten_ignored (h : s.handle.update = none ∨ (getDie s die.toNat).role ≠ .standby ∨ ∃ u, s.handle.update = some u ∧ die.toNat ∈ u.done) :
    exec (.imageWritten die verified) s = .next s := by
  show execImageWritten die verified s = _
  unfold execImageWritten
  dsimp only
  split
  · rfl
  · rename_i u hu
    refine if_pos ?_
    rcases h with h | h | ⟨v, hv, hd⟩
    · rw [h] at hu
      cases hu
    · exact .inl h
    · rw [hv] at hu
      cases hu
      exact .inr (by simpa using hd)

variable {u : UpdateSt} (hu : s.handle.update = some u) (hrole : (getDie s die.toNat).role = .standby) (hd : die.toNat ∉ u.done)
include hu hrole hd

/-- A copy that does not verify ends the update as failed. -/
theorem imageWritten_bad (h : romAccepts (getDie s die.toNat) { u.image with ok := u.image.ok && verified } = false) :
    exec (.imageWritten die verified) s =
      .next (endUpdate (setDie s die.toNat (withImage (getDie s die.toNat) { u.image with ok := u.image.ok && verified })) false) := by
  show execImageWritten die verified s = _
  unfold execImageWritten
  simp only [hu]
  rw [if_neg (by simp [hrole, hd])]
  have hbad : romAccepts (withImage (getDie s die.toNat) { u.image with ok := u.image.ok && verified }) { u.image with ok := u.image.ok && verified } = false := h
  exact if_pos (by rw [withImage] at hbad; rw [hbad]; rfl)

theorem imageWritten_good (h : romAccepts (getDie s die.toNat) { u.image with ok := u.image.ok && verified } = true) :
    exec (.imageWritten die verified) s = .next (bootDie (updHandle (setDie s die.toNat
      (writeBootsel (withImage (getDie s die.toNat) { u.image with ok := u.image.ok && verified }) (1 - (getDie s die.toNat).slot)))
      fun h => { h with handover := true }) die.toNat .rebooting) := by
  show execImageWritten die verified s = _
  unfold execImageWritten
  simp only [hu]
  rw [if_neg (by simp [hrole, hd])]
  have hgood : romAccepts (withImage (getDie s die.toNat) { u.image with ok := u.image.ok && verified }) { u.image with ok := u.image.ok && verified } = true := h
  exact if_neg (by rw [withImage] at hgood; rw [hgood]; decide)
end

/-- What a reboot into the new image leaves: the die reboots from its former inactive slot, which holds the image and BOOTSEL names. -/
theorem reboot_intoImage {s : State} {d : Nat} {i : ImageSt} (h : romAccepts (getDie s d) i = true) :
    let k := 1 - (getDie s d).slot
    let w := writeBootsel (withImage (getDie s d) i) k
    let u := updHandle (setDie s d w) fun h => { h with handover := true }
    bootDie u d .rebooting = setDie u d { w with role := .rebooting, slot := k } := by
  intro k w u
  have hdie : getDie u d = w := getDie_setDie_same s d w
  have hslot : bootSlot w = k := bootSlot_writeBootsel _ _
  have himage : imageAt u d k = i := imageAt_of_images (by rw [hdie]; rfl)
  unfold bootDie
  simp only [hdie, hslot, himage]
  exact if_pos h

end Sys2Proof.Machine

open Sys2Proof.Machine

/-- Settles O55: by the format condition of R398, met or not. -/
theorem synchronisedFormats : Obligations.SynchronisedFormats := by
  intro die s a ha hd hrole i j
  rw [← formatsMeet_iff]
  cases hmeet : formatsMeet i j with
  | false => exact ⟨_, standbySync_unmet ha hd hrole hmeet, nofun, fun _ => role_loseStandby ..⟩
  | true =>
    obtain ⟨t, ht, hstandby, -⟩ := standbySync_met ha hd hrole hmeet
    exact ⟨t, ht, fun _ => hstandby, fun h => absurd rfl h⟩

/-- Settles O41: synchronising and losing by `synced` and `loseStandby`, the takeover by `becomeActive`, the update by what each of its commands answers. -/
theorem handlePair : Obligations.HandlePair := by
  refine ⟨?pair, ?takeover, ?noActive, ?offer, ?written⟩
  case pair =>
    intro die s a ha d
    have hlatch := (activeDie_latch ha).1
    refine ⟨fun h => standbySync_other ha (.inl h), fun _ h h' => standbySync_other ha (.inr ⟨h, h'⟩), fun hd hstart => ⟨fun hmeet => ?_, fun hmeet => ?_⟩,
      fun h => ⟨_, ackTimeout_standby ha h, role_loseStandby _ _, by rw [loseStandby_frame], by rw [loseStandby_frame], by rw [loseStandby_frame]⟩, ackTimeout_other ha,
      fun hd h => ⟨_, rebootTimeout_lost (by rw [hlatch]; exact fun h => hd (Option.some.inj h).symm) h, role_loseStandby _ _, by rw [loseStandby_frame]⟩, rebootTimeout_other⟩
    · obtain ⟨t, ht, -, hsynced⟩ := standbySync_met ha hd (.inl hstart) hmeet
      obtain rfl := hsynced hstart
      exact ⟨_, ht, synced_frame s d, getDie_synced s d, activeDie_synced ha hd⟩
    · exact ⟨_, standbySync_unmet ha hd (.inl hstart) hmeet, role_loseStandby _ _, by rw [loseStandby_frame], activeDie_loseStandby ha hd, by rw [loseStandby_frame]⟩
  case takeover =>
    intro s
    refine ⟨takeover_noLatch, fun d hd2 hd hrole hu => ?_, fun d u hd2 hd hrole hu => ?_, fun d hd2 hd hrole hu => ?_,
      fun d hd h h' h'' => takeover_unfit hd h h' h'', fun d _ hd hrole hu => ?_, fun d u hd2 hd hrole hu hother hself hstandby hmb => ?_⟩
    · have hother : otherDie d ≠ d := by
        unfold otherDie
        omega
      obtain ⟨log, h⟩ := becomeActive_handle s d
      refine ⟨_, by simpa [hu] using takeover_standby hd hrole, becomeActive_frame s d, activeDie_becomeActive s d, ?_, ?_, ?_, getDie_becomeActive_other s hother, ?_, ?_, ?_, ?_⟩ <;> rw [h]
    · rcases hrole with hrole | hrole
      · obtain ⟨log, h⟩ := endUpdate_failed_handle hu
        obtain ⟨log', h'⟩ := becomeActive_handle (endUpdate s false) d
        refine ⟨_, by simpa [hu] using takeover_standby hd hrole, activeDie_becomeActive _ d, ?_, ?_, ?_⟩ <;> rw [h', h]
      · obtain ⟨log, h⟩ := becomeActive_handle s d
        have ht := takeover_rebooting hd hrole
        rw [if_pos (by rw [hu]; rfl)] at ht
        refine ⟨_, ht, (activeDie_of_kept ((updHandle_keeps _ _ rfl rfl).trans (logEvent_keeps ..)).1).trans (activeDie_becomeActive s d), ?_, ?_, ?_⟩ <;>
          rw [logEvent_handle, updHandle_handle, h]
    · obtain ⟨log, h⟩ := becomeActive_handle s d
      refine ⟨_, by simpa [hu] using takeover_rebooting hd hrole, activeDie_becomeActive s d, ?_, ?_⟩ <;> rw [h]
      exact hu
    · rw [takeover_active hd hrole]
      exact if_neg (by simp [runsUpdate, hu])
    · have hne : d ≠ otherDie d := by
        unfold otherDie
        omega
      obtain ⟨log, h⟩ := becomeActive_handle (setRole s d .starting) (otherDie d)
      refine ⟨becomeActive (setRole s d .starting) (otherDie d), ?_, activeDie_becomeActive _ _, ?_, ?_, ?_⟩
      · rw [takeover_active hd hrole]
        exact if_pos (by simp [runsUpdate, hu, hother, hself, hstandby, hmb])
      · rw [getDie_becomeActive_other _ hne, getDie_setRole_same]
      · rw [h]
        exact hu
      · rw [h]
        rfl
  case noActive =>
    intro image die s ha
    refine ⟨?_, ?_, ?_⟩
    · show execRequestUpdate image s = _
      simp only [execRequestUpdate, ha]
    · show execStandbySync die s = _
      simp only [execStandbySync, ha]
    · show execAckTimeout s = _
      simp only [execAckTimeout, ha]
  case offer =>
    intro image s a ha
    refine ⟨requestUpdate_refused image ha, fun hok hu hlatched hpowering => ⟨requestUpdate_taken image ha hok hu hlatched hpowering, fun h => ?_⟩⟩
    refine ⟨_, requestUpdate_unfit image ha hok hu hlatched hpowering h, logEvent_handle_only _ _ _ _ 1 _ (by decide), ?_, ?_, ?_⟩ <;> rw [logEvent_handle]
    exact hu
  case written =>
    intro die verified s d x
    refine ⟨imageWritten_ignored, ?_⟩
    intro u hu hrole hd i
    refine ⟨fun h => ?_, fun h _ => ?_⟩
    · have hw : getDie (setDie s d (withImage x i)) d = withImage x i := getDie_setDie_same ..
      have hu' : (setDie s d (withImage x i)).handle.update = some u := hu
      have hend : getDie (endUpdate (setDie s d (withImage x i)) false) d = withImage x i := by
        unfold endUpdate
        simp only [hu']
        rw [getDie_logEvent]
        exact hw
      obtain ⟨log, hh⟩ := endUpdate_failed_handle hu'
      refine ⟨_, imageWritten_bad hu hrole hd h, by rw [hh], by rw [hend]; exact hrole, by rw [hend]; rfl, imageAt_of_images (by rw [hend]; rfl)⟩
    · have hboot := reboot_intoImage h
      refine ⟨_, imageWritten_good hu hrole hd h, ?_⟩
      dsimp only at hboot
      rw [hboot]
      refine ⟨hu, rfl, ?_, ?_, ?_, imageAt_of_images (m := x.images) ?_⟩ <;> rw [getDie_setDie_same]
      · exact bootSlot_writeBootsel _ _
      · rfl
end

section
/-! PROOFS. Event flags: a count in one fc and over several, a write of a flag register, and what each block's register leaves alone. -/

namespace Sys2Proof.Machine

open Sys2Proof.Claims

/-! ### Counts (R366, R367) -/

theorem flagSet_eq_false (x : FlagReg) (b : Nat) : flagSet x b = false ↔ flagCount x b = 0 := by simp [flagSet]

theorem flagCount_of_flagNow {fc : Nat} {x : FlagReg} {b : Nat} (h : flagNow fc x b = true) : flagCount x b ≠ 0 := by
  simp only [flagNow, Bool.and_eq_true, bne_iff_ne] at h
  exact h.1

theorem flagNow_of_flagCount {x : FlagReg} {b : Nat} (fc : Nat) (h : flagCount x b = 0) : flagNow fc x b = false := by simp [flagNow, h]

/-- An event of one fc is none of another. -/
theorem flagNow_raise_fc {fc e : Nat} {x : FlagReg} {b : Nat} (hne : e ≠ fc) (h : flagNow fc x b = false) : flagNow e (raise fc x b) b = false := by
  have hlast : (fc == e) = false := by simpa using Ne.symm hne
  have hraise : raise fc x b = mset {} x b { count := min (flagCount x b + 1) 255, last := fc } := if_neg (by simp [h])
  simp [hraise, flagNow, hlast]

/-- Events in n fc make a count rise by n, at most to 255. -/
theorem flagCount_raises (b : Nat) (fcs : List Nat) (x : FlagReg) (hfcs : fcs.Nodup) (hnow : ∀ fc ∈ fcs, flagNow fc x b = false) (hx : flagCount x b ≤ 255) :
    flagCount (fcs.foldl (fun y fc => raise fc y b) x) b = min (flagCount x b + fcs.length) 255 := by
  induction fcs generalizing x with
  | nil => simpa using hx
  | cons fc fcs ih =>
    obtain ⟨hfc, hfcs⟩ := List.nodup_cons.mp hfcs
    have hfirst := hnow fc (List.mem_cons_self ..)
    have hcount : flagCount (raise fc x b) b = min (flagCount x b + 1) 255 := by simp [hfirst]
    have hrest : ∀ e ∈ fcs, flagNow e (raise fc x b) b = false := fun e he => flagNow_raise_fc (fun h => hfc (h ▸ he)) hfirst
    rw [List.foldl_cons, ih (raise fc x b) hfcs hrest (by omega), hcount, List.length_cons]
    omega

/-- What a write with a 1 leaves of a flag whose event is raised in its fc: the flag with a count of 1. -/
theorem flagNow_flagClear {fc : Nat} {x : FlagReg} {w b : Nat} (hw : bit w b = true) (h : flagNow fc x b = true) : flagNow fc (flagClear fc x w) b = true := by
  suffices hg : ∀ g : FlagReg, mhas g b = true → (mget {} ((g.filter (fun p => !bit w p.1 || flagNow fc x p.1)).map
      (fun p => if bit w p.1 then (p.1, { p.2 with count := 1 }) else p)) b).last = (mget {} g b).last by
    have hhas : mhas x b = true := by
      by_contra hno
      refine flagCount_of_flagNow h ?_
      rw [flagCount, mget_of_not_mhas _ _ _ (by simpa using hno)]
    have hcount := flagCount_flagClear fc x w b
    simp only [hw, h, if_true] at hcount
    have hlast : (mget {} (flagClear fc x w) b).last = fc := by
      rw [flagClear, hg x hhas]
      simp only [flagNow, Bool.and_eq_true, beq_iff_eq] at h
      exact h.2
    simp [flagNow, hcount, hlast]
  intro g hg
  induction g with
  | nil => cases hg
  | cons p g ih =>
    obtain ⟨k, v⟩ := p
    have hm : mhas ((k, v) :: g) b = (decide (k = b) || mhas g b) := rfl
    by_cases hk : k = b
    · subst hk
      simp [hw, h, mget]
    · have hrest : mhas g b = true := by simpa [hm, hk] using hg
      by_cases hkeep : (!bit w k || flagNow fc x k) = true
      · simp only [List.filter_cons, hkeep, if_true, List.map_cons]
        split <;> simp [mget, hk, ih hrest]
      · simp only [List.filter_cons, hkeep, mget, hk, if_false]
        exact ih hrest

/-- Where the event is raised in the fc of the write, before or after it, the count is 1 (R367). -/
theorem flagCount_raise_flagClear (fc : Nat) (x : FlagReg) (w b : Nat) (hw : bit w b = true) : flagCount (raise fc (flagClear fc x w) b) b = 1 := by
  have hcount := flagCount_flagClear fc x w b
  simp only [hw, if_true] at hcount
  cases h : flagNow fc x b with
  | true => simpa [h, flagNow_flagClear hw h] using hcount
  | false =>
    have hcount : flagCount (flagClear fc x w) b = 0 := by simpa [h] using hcount
    simp [flagNow_of_flagCount fc hcount, hcount]

/-! ### The registers of the blocks (R432) -/

/-- The blocks of a function's own view. -/
def ownFlags (b : FlagBlock) : Prop := b = .ring ∨ b = .host ∨ b = .chk

theorem flagsOf_setFlags_same (s : State) (k : Nat) (x : FlagReg) (b : FlagBlock) (hp : ∀ p, b = .link p → p.toNat < 6) : flagsOf (setFlags s k x b) k b = x := by
  cases b with
  | link p => simp [flagsOf, setFlags, hp p rfl]
  | ring | host | chk => simp [flagsOf, setFlags]
  | _ => rfl

theorem flagsOf_setFlags_other (s : State) (k : Nat) (x : FlagReg) (b c : FlagBlock) (h : c ≠ b) : flagsOf (setFlags s k x b) k c = flagsOf s k c := by
  cases b with
  | link p =>
    by_cases hp : p.toNat < 6
    · rw [setFlags, if_pos hp]
      cases c with
      | link q =>
        have hq : q.toNat ≠ p.toNat := fun hqp => h (congrArg _ (BitVec.eq_of_toNat_eq hqp))
        simp only [flagsOf, getLink_updLink_other _ _ _ _ hq]
      | _ => rfl
    · rw [setFlags, if_neg hp]
  | ring | host | chk => cases c <;> simp_all [flagsOf, setFlags]
  | _ => cases c <;> first | rfl | contradiction

theorem setFlags_fnOnly (s : State) (k : Nat) (x : FlagReg) {b : FlagBlock} (h : ownFlags b) : FnOnly s (setFlags s k x b) k := by
  rcases h with rfl | rfl | rfl <;> exact ⟨rfl, fun j hj => getFn_updFn_other _ _ _ _ hj⟩
/-! ### A write of a flag register -/

/-- What a write that takes effect clears, whatever else it changes. -/
def FlagsCleared (s t : State) (k w : Nat) (b : FlagBlock) : Prop :=
  flagsOf t k b = flagClear s.fc (flagsOf s k b) w ∧ ∀ c, c ≠ b → flagsOf t k c = flagsOf s k c

section
variable (s : State) (k w : Nat) {b : FlagBlock}

theorem setFlags_cleared (hp : ∀ p, b = .link p → p.toNat < 6) : FlagsCleared s (setFlags s k (flagClear s.fc (flagsOf s k b) w) b) k w b :=
  ⟨flagsOf_setFlags_same _ _ _ _ hp, fun c hc => flagsOf_setFlags_other _ _ _ _ c hc⟩

theorem writeFlags_own (h : ownFlags b) : writeFlags s k b w = setFlags s k (flagClear s.fc (flagsOf s k b) w) b := by
  rcases h with rfl | rfl | rfl <;> rfl

theorem writeFlags_pf (hpf : fnIsPf k = true) (hb : b ≠ .pert) (hp : ∀ p, b = .link p → p.toNat < 6) : FlagsCleared s (writeFlags s k b w) k w b := by
  have hset := setFlags_cleared s k w hp
  cases b with
  | ring | host | chk => exact hset
  | pert => contradiction
  | conv =>
    simp only [writeFlags, hpf, if_true]
    exact ⟨rfl, fun c hc => hset.2 c hc⟩
  | _ =>
    simp only [writeFlags, hpf, if_true]
    exact hset

theorem writeFlags_hidden (hvf : fnIsPf k = false) (hb : b ≠ .pert) (hown : ¬ ownFlags b) : writeFlags s k b w = s := by
  cases b with
  | ring | host | chk => simp [ownFlags] at hown
  | pert => contradiction
  | _ => simp [writeFlags, hvf]
end

end Sys2Proof.Machine

open Sys2Proof.Machine Sys2Proof.Claims

/-- Settles O48: the counts by `raise` and `flagClear`, the registers by what a write of each block's reaches. -/
theorem flagsAndCounts : Obligations.FlagsAndCounts := by
  refine ⟨fun fc x w b => ⟨flagCount_flagClear fc x w b, flagCount_raise_flagClear fc x w b, flagSet_eq_false x b⟩,
    fun fc x b => ⟨flagCount_raise_same fc x b, flagSet_raise_same fc x b, raise_raise fc x b, fun d hd => flagCount_raise_other fc x b d hd⟩,
    fun fcs x b => flagCount_raises b fcs x, ?_⟩
  intro f b v s hf k own other
  have hexec : exec (.flagClear f b v) s = .next (writeFlags s k b v.toNat) := exec_of_answers hf (fun k => writeFlags s k b v.toNat) rfl
  rw [hexec]
  refine ⟨fun hb hmay hp => ?_, fun hb hown hvf => by rw [writeFlags_hidden s k _ hvf hb hown],
    fun hown => ⟨_, rfl, by rw [writeFlags_own s k _ hown]; exact setFlags_fnOnly _ _ _ hown⟩, ?_, ?_⟩
  · suffices h : FlagsCleared s (writeFlags s k b v.toNat) k v.toNat b from ⟨_, rfl, h⟩
    rcases hmay with hown | hpf
    · rw [writeFlags_own s k _ hown]
      exact setFlags_cleared s k _ hp
    · exact writeFlags_pf s k _ hpf hb hp
  · rintro rfl hmay
    have hwrite : writeFlags s k .pert v.toNat = setFlags s k (flagClear s.fc (flagsOf s k .pert) v.toNat) .pert :=
      pertWrite_permitted hmay fun u => setFlags u k (flagClear u.fc (flagsOf u k .pert) v.toNat) .pert
    rw [hwrite]
    exact ⟨_, rfl, setFlags_cleared s k _ nofun⟩
  · rintro rfl hdenied
    exact pertWrite_denied hdenied fun u => setFlags u k (flagClear u.fc (flagsOf u k .pert) v.toNat) .pert
end

section
/-! PROOFS. 64-bit pairs: a write of HI commits both halves in one step and drops what was held. -/

namespace Sys2Proof.Machine

open Sys2Proof.Claims

/-- The LO half that a commit takes: the held one, or the committed one where none is held. -/
theorem heldLo_eq (s : State) (k : Nat) (p : PairReg) :
    heldLo s k p = if mget 0 (getFn s k).hold (pairLo p) = 0 then pairGet s k p % 2 ^ 32 else mget 0 (getFn s k).hold (pairLo p) - 1 := by
  unfold heldLo
  split <;> simp [*]

/-- Only the holding register of pair `p` of function `k` is empty after a commit. -/
def HoldDropped (s t : State) (k : Nat) (p : PairReg) : Prop :=
  mget 0 (getFn t k).hold (pairLo p) = 0 ∧ ∀ o, o ≠ pairLo p → mget 0 (getFn t k).hold o = mget 0 (getFn s k).hold o

theorem hold_dropHeld (s : State) (k : Nat) (p : PairReg) : HoldDropped s (dropHeld s k p) k p := by
  refine ⟨?_, fun o ho => ?_⟩ <;> simp only [dropHeld, getFn_updFn_same]
  · exact mget_mset_same ..
  · exact mget_mset_other _ _ _ _ _ ho

theorem dropHeld_fnOnly (s : State) (k : Nat) (p : PairReg) : FnOnly s (dropHeld s k p) k := fnOnly_updFn ..

/-- No pair changes a holding register by its own commit. -/
theorem hold_pairSet (s : State) (k v : Nat) (p : PairReg) : (getFn (pairSet s k v p) k).hold = (getFn s k).hold := by
  cases p with
  | ringSq | ringCq | hmArg => rfl
  | dbBase | bufBase | chkFold u | chkRun u => simp [pairSet, setChk]

theorem hold_commit (s : State) (k v : Nat) (p : PairReg) : HoldDropped s (dropHeld (pairSet s k v p) k p) k p := by
  have h := hold_dropHeld (pairSet s k v p) k p
  unfold HoldDropped at h ⊢
  rwa [hold_pairSet] at h

theorem writePairHi_discarded {s u : State} {k v : Nat} {p : PairReg} (h : pairDiscard s k p = some u) : writePairHi s k p v = u := by
  unfold writePairHi
  rw [h]

theorem writePairHi_commits {s : State} {k v : Nat} {p : PairReg} (h : pairDiscard s k p = none) :
    writePairHi s k p v = dropHeld (pairSet s k (v * 2 ^ 32 + heldLo s k p) p) k p := by
  unfold writePairHi
  rw [h]

/-- A check set is untouched by what a holding register holds. -/
theorem getChk_dropHeld (s : State) (k : Nat) (p : PairReg) (u : Nat) : getChk (dropHeld s k p) k u = getChk s k u := by
  rw [getChk, dropHeld, getFn_updFn_same]
  rfl

theorem pairGet_dropHeld (s : State) (k : Nat) (p q : PairReg) : pairGet (dropHeld s k p) k q = pairGet s k q := by
  have hown (r : Nat) : ownsRing (dropHeld s k p) k r = ownsRing s k r := by simp [ownsRing, dropHeld]
  cases q with
  | ringSq | ringCq =>
    simp only [pairGet, hown]
    simp [dropHeld]
  | dbBase | bufBase => simp [pairGet, dropHeld]
  | chkFold u | chkRun u => simp [pairGet, getChk_dropHeld]
  | hmArg => rfl

end Sys2Proof.Machine

open Sys2Proof.Machine Sys2Proof.Claims

/-- Settles O46: by what discards a pair's write, and by the commit with the drop of what was held. -/
theorem pairCommits : Obligations.PairCommits := by
  refine ⟨?pairs, ?checks, ?select⟩
  case pairs =>
    intro f hi s hf k r v drops
    have hexec (p : Sys2Proof.PairReg) : exec (.pairCommit f p hi) s = .next (writePairHi s k p hi.toNat) := exec_of_answers hf (fun k => writePairHi s k p hi.toNat) rfl
    have hv (p : Sys2Proof.PairReg) : hi.toNat * 2 ^ 32 + heldLo s k p = v p := by rw [heldLo_eq]
    have hdrop (p : Sys2Proof.PairReg) : drops (dropHeld (pairSet s k (v p) p) k p) p := hold_commit s k (v p) p
    refine ⟨fun p hp => ?_, fun p hp => ⟨fun hown => ?_, fun hown hlive => ?_, fun hown hen hact => ?_⟩, fun hvf => ?_, fun hpf => ?_⟩
    · refine ⟨dropHeld (pairSet s k (v p) p) k p, ?_, ?_, ?_, hdrop p⟩
      · rw [hexec, writePairHi_commits (by rcases hp with rfl | rfl <;> rfl), hv]
      · rcases hp with rfl | rfl <;> exact fnOnly_trans (fnOnly_updFn ..) (dropHeld_fnOnly ..)
      · rw [pairGet_dropHeld]
        rcases hp with rfl | rfl <;> simp [pairGet, pairSet]
    · have hd : pairDiscard s k p = some s := by rcases hp with rfl | rfl <;> exact if_pos (by rw [hown]; rfl)
      rw [hexec, writePairHi_discarded hd]
    · have hlive : ringLive (getRing s r) = true := by simpa [ringLive] using hlive
      have hd : pairDiscard s k p = some (raiseRing s k rfCfgErr) := by
        rcases hp with rfl | rfl <;> exact (if_neg (by rw [hown]; decide)).trans (if_pos hlive)
      rw [hexec, writePairHi_discarded hd]
    · have hdead : ringLive (getRing s r) = false := by simp [ringLive, hen, hact]
      have hd : pairDiscard s k p = none := by
        rcases hp with rfl | rfl <;> exact (if_neg (by rw [hown]; decide)).trans (if_neg (by rw [hdead]; decide))
      refine ⟨dropHeld (pairSet s k (v p) p) k p, ?_, ?_, hdrop p, fun j hj => ?_, fun q hq => ?_, ?_⟩
      · rw [hexec, writePairHi_commits hd, hv]
      · rcases hp with rfl | rfl <;> rfl
      · rw [(dropHeld_fnOnly _ k p).2 j hj]
        rcases hp with rfl | rfl <;> rfl
      · rcases hp with rfl | rfl <;> exact getRing_setRing_other _ _ _ _ hq
      · rcases hp with rfl | rfl <;> exact getRing_setRing_same ..
    · have hd : pairDiscard s k .hmArg = some s := if_neg (by rw [hvf]; decide)
      rw [hexec, writePairHi_discarded hd]
    · have hd : pairDiscard s k .hmArg = none := if_pos hpf
      refine ⟨dropHeld (pairSet s k (v .hmArg) .hmArg) k .hmArg, ?_, rfl, hdrop .hmArg⟩
      rw [hexec, writePairHi_commits hd, hv]
  case checks =>
    intro f u hi s hf k c held v
    have hrun : exec (.chkRun f u hi) s = .next (writePairHi s k (.chkRun u) hi.toNat) :=
      exec_of_answers hf (fun k => writePairHi s k (.chkRun u) hi.toNat) rfl
    have hcommit (p : Sys2Proof.PairReg) : exec (.pairCommit f p hi) s = .next (writePairHi s k p hi.toNat) := exec_of_answers hf (fun k => writePairHi s k p hi.toNat) rfl
    refine ⟨by rw [hrun, hcommit], fun hbusy => ?_, fun hfree => ⟨?_, ?_⟩⟩
    · have hdr : pairDiscard s k (.chkRun u) = some (raiseChk s k cfCfgErr) := if_pos hbusy
      have hdf : pairDiscard s k (.chkFold u) = some (raiseChk s k cfCfgErr) := if_pos hbusy
      rw [hrun, hcommit, writePairHi_discarded hdr, writePairHi_discarded hdf]
      exact ⟨rfl, rfl⟩
    · have hd : pairDiscard s k (.chkRun u) = none := if_neg (by rw [hfree]; decide)
      rw [hrun, writePairHi_commits hd]
      refine ⟨_, rfl, fnOnly_trans (fnOnly_setChk ..) (dropHeld_fnOnly ..), ?_, fun w hw => ?_, (hold_commit ..).1⟩ <;> rw [getChk_dropHeld]
      · rw [heldLo_eq]
        exact getChk_setChk_same ..
      · exact getChk_setChk_other _ _ _ _ hw
    · have hd : pairDiscard s k (.chkFold u) = none := if_neg (by rw [hfree]; decide)
      rw [hcommit, writePairHi_commits hd]
      refine ⟨_, rfl, fnOnly_trans (fnOnly_setChk ..) (dropHeld_fnOnly ..), ?_, fun w hw => ?_, (hold_commit ..).1⟩ <;> rw [getChk_dropHeld]
      · rw [heldLo_eq]
        exact getChk_setChk_same ..
      · exact getChk_setChk_other _ _ _ _ hw
  case select =>
    intro f v s hf k
    refine ⟨writeRingSel s k v.toNat, exec_of_answers hf (fun k => writeRingSel s k v.toNat) rfl, ?_, ?_, ?_, ?_, fun o hsq hcq => ?_⟩
    · exact fnOnly_trans (fnOnly_trans (fnOnly_updFn ..) (dropHeld_fnOnly ..)) (dropHeld_fnOnly ..)
    all_goals simp only [writeRingSel, dropHeld, getFn_updFn_same]
    · rw [mget_mset_other _ _ _ _ _ (by decide), mget_mset_same]
    · rw [mget_mset_same]
    · rw [mget_mset_other _ _ _ _ _ hcq, mget_mset_other _ _ _ _ _ hsq]
end

section
/-! PROOFS. The HANDLE mailbox: what a write of HM_CMD begins and how each command ends. -/

namespace Sys2Proof.Machine

/-- How a command of the HANDLE mailbox ends, as one change of Handle. -/
theorem hmEnd_eq (s : State) (c : HmOp) (code : Nat) (words : List Nat) : hmEnd s c code words = { s with handle := { s.handle with
    hmBusy := none, hmSeq := c.seq, hmResult := code, hmData := if words = [] then s.handle.hmData else words ++ s.handle.hmData.drop words.length } } := by
  cases words <;> rfl

/-- A command is begun by a PF while none is in progress, with the refusal of its session where that does not permit it. -/
theorem writeHmCmd_begun {s : State} {k : Nat} (n op : Nat) (hpf : fnIsPf k = true) (hfree : s.handle.hmBusy = none) :
    writeHmCmd s k n op = { s with handle := { s.handle with
      hmCmd := n * 2 ^ 24 + op,
      hmBusy := some { op := op, seq := n, arg := s.handle.hmArg, refused := if (getFn s k).session = 0 then sNoSession else if (getFn s k).role < 2 then sRoleDenied else sSuccess } } } := by
  simp [writeHmCmd, hpf, hfree, updHandle]

theorem writeHmCmd_discarded {s : State} {k : Nat} (n op : Nat) (h : fnIsPf k = false ∨ s.handle.hmBusy.isSome = true) : writeHmCmd s k n op = s := by
  rcases h with h | h <;> simp [writeHmCmd, h]

section
variable {s : State} {c : HmOp} (hbusy : s.handle.hmBusy = some c)
include hbusy

/-- Without an active die nothing ends. -/
theorem hmCommandEnd_waits (hup : handleUp s = false) : exec .hmCommandEnd s = .next s := by
  show execHmCommandEnd s = _
  simp only [execHmCommandEnd, hbusy, hup]
  rfl

variable (hup : handleUp s = true)
include hup

theorem hmCommandEnd_refused (hrefused : c.refused ≠ 0) : exec .hmCommandEnd s = .next (hmEnd s c c.refused []) := by
  show execHmCommandEnd s = _
  simp only [execHmCommandEnd, hbusy, hup]
  rw [if_neg (by decide), if_pos hrefused]

variable (hok : c.refused = 0)
include hok

theorem hmCommandEnd_logRead {e : LogEntry} (hop : c.op = 1) (he : s.handle.log.find? (fun e => e.seq == c.arg) = some e) :
    exec .hmCommandEnd s = .next (hmEnd s c sSuccess (wordsOf 16 (logBytes e))) := by
  have hanswer : logAnswer s c.arg = (sSuccess, logBytes e, s) := by simp only [logAnswer, logEntryOf, he]
  show execHmCommandEnd s = _
  simp only [execHmCommandEnd, hbusy, hup, hok, hop, hanswer]
  rfl

theorem hmCommandEnd_sensor (hop : c.op = 2) : exec .hmCommandEnd s = if 293 < c.arg % 2 ^ 32 then .next (hmEnd s c sBadField [])
    else .next (hmEnd s c sSuccess [(mget 0 s.handle.sensors (c.arg % 2 ^ 32) % 2 ^ 32).toNat]) := by
  show execHmCommandEnd s = _
  simp only [execHmCommandEnd, hbusy, hup, hok, hop]
  rfl

theorem hmCommandEnd_logHead (hop : c.op = 3) :
    exec .hmCommandEnd s = .next (hmEnd s c sSuccess [(s.handle.nextSeq - 1) % 2 ^ 32, (s.handle.nextSeq - 1) / 2 ^ 32]) := by
  show execHmCommandEnd s = _
  simp only [execHmCommandEnd, hbusy, hup, hok, hop]
  rfl

theorem hmCommandEnd_unknown (hop : c.op = 0 ∨ 3 < c.op) : exec .hmCommandEnd s = .next (hmEnd s c sBadOpcode []) := by
  show execHmCommandEnd s = _
  simp only [execHmCommandEnd, hbusy, hup, hok]
  rw [if_neg (by decide), if_neg (by decide), if_neg (by omega), if_neg (by omega), if_neg (by omega)]
end

end Sys2Proof.Machine

open Sys2Proof.Machine

/-- Settles O44: by what a write of HM_CMD begins and by the end of each of its commands. -/
theorem handleMailbox : Obligations.HandleMailbox := by
  refine ⟨?begin, ?finish, fun s hfree => ?idle⟩
  case begin =>
    intro f seq value s hf k x code begun
    have hexec {c : Sys2Proof.Instr} (n op : Nat) (hrow : exec c s = hmWrite f n op s) : exec c s = .next (writeHmCmd s k n op) :=
      exec_of_answers hf (fun k => writeHmCmd s k n op) hrow
    refine ⟨fun h => ?_, fun hpf hfree => ?_⟩ <;>
      rw [hexec (c := .hmLogRead f seq) _ _ rfl, hexec (c := .sensorRead f seq) _ _ rfl, hexec (c := .logHead f seq) _ _ rfl, hexec (c := .hmCmd f value) _ _ rfl]
    · simp only [writeHmCmd_discarded _ _ h, and_self]
    · simp only [writeHmCmd_begun _ _ hpf hfree]
      exact ⟨rfl, rfl, rfl, rfl⟩
  case finish =>
    intro s c hbusy ended
    have hended (code : Nat) (words : List Nat) : hmEnd s c code words = ended s code words := hmEnd_eq s c code words
    simp only [← hended]
    refine ⟨hmCommandEnd_waits hbusy, hmCommandEnd_refused hbusy, fun hup hok => ⟨fun e hop he => hmCommandEnd_logRead hbusy hup hok hop he, fun hop h => ?_,
      fun hop h => ?_, hmCommandEnd_logHead hbusy hup hok, hmCommandEnd_unknown hbusy hup hok⟩⟩
    · rw [hmCommandEnd_sensor hbusy hup hok hop, if_neg (by omega)]
    · rw [hmCommandEnd_sensor hbusy hup hok hop, if_pos h]
  case idle =>
    show execHmCommandEnd s = _
    simp only [execHmCommandEnd, hfree]
end

section
/-! PROOFS. What the Wale ports send: one block sent, the blocks handed on, and what draining, aborts and the fault manager leave of a port. -/

namespace Sys2Proof.Machine

open Sys2Proof.Claims

/-! ### A block sent from a port -/

theorem recordAck_frame (s : State) (p : Nat) : recordAck s p = { s with pert := (recordAck s p).pert } := by
  unfold recordAck
  split <;> rfl

theorem noteAck_frame (s : State) (p : Nat) : noteAck s p = { s with pert := (noteAck s p).pert } := by
  have hframe : ∀ t i, t = { s with pert := t.pert } → countPoint t i = { s with pert := (countPoint t i).pert } := by
    intro t i ht
    rw [ht]
    rfl
  unfold noteAck
  dsimp only
  split
  · exact recordAck_frame s p
  · exact hframe _ _ (recordAck_frame s p)

theorem getLink_recordAck (s : State) (p q : Nat) : getLink (recordAck s p) q = getLink s q := by
  rw [recordAck_frame]
  rfl

theorem getLink_noteAck (s : State) (p q : Nat) : getLink (noteAck s p) q = getLink s q := by
  rw [noteAck_frame]
  rfl

theorem noteAck_of_none {s : State} {p : Nat} (h : ackPoint s p = none) : noteAck s p = s := by
  have hrecord : recordAck s p = s := by rw [recordAck, h]
  rw [noteAck, hrecord, h]

/-- What one block sent leaves of its port. -/
theorem getLink_emitBlock_same (s : State) (p seq : Nat) (b : Block) (spoil : Bool) (k : Nat) :
    getLink (emitBlock s p seq b spoil k) p = { getLink s p with nakDue := false, txBytes := (getLink s p).txBytes + 272, sinceSkip := k } := by
  refine (getLink_setLink_same _ _ _).trans ?_
  rw [getLink_noteAck]

theorem getLink_emitBlock_other (s : State) {p q : Nat} (h : q ≠ p) (seq : Nat) (b : Block) (spoil : Bool) (k : Nat) :
    getLink (emitBlock s p seq b spoil k) q = getLink s q :=
  (getLink_setLink_other _ _ _ _ h).trans (getLink_noteAck s p q)

theorem linkOnly_linkSends {s t : State} {p : Nat} (h : LinkOnly s t p) : LinkSends s t p := by
  obtain ⟨hframe, hother⟩ := h
  refine ⟨?_, ?_, hother⟩
  · rw [hframe]
  · rw [hframe]

theorem linkSends_trans {s t u : State} {p : Nat} (hst : LinkSends s t p) (htu : LinkSends t u p) : LinkSends s u p := by
  obtain ⟨hs, hsOut, hsOther⟩ := hst
  obtain ⟨ht, htOut, htOther⟩ := htu
  refine ⟨?_, hsOut.trans htOut, fun q hq => (htOther q hq).trans (hsOther q hq)⟩
  rw [ht, hs]

theorem setLink_linkOnly (s : State) (p : Nat) (x : LinkSt) : LinkOnly s (setLink s p x) p :=
  ⟨rfl, fun q hq => getLink_setLink_other s p x q hq⟩

theorem updLink_linkOnly (s : State) (p : Nat) (g : LinkSt → LinkSt) : LinkOnly s (updLink s p g) p := setLink_linkOnly s p _

theorem linkOnly_trans {s t u : State} {p : Nat} (hst : LinkOnly s t p) (htu : LinkOnly t u p) : LinkOnly s u p := by
  obtain ⟨hs, hsOther⟩ := hst
  obtain ⟨ht, htOther⟩ := htu
  refine ⟨?_, fun q hq => (htOther q hq).trans (hsOther q hq)⟩
  rw [ht, hs]

theorem linkSends_torus {s t : State} {p : Nat} (h : LinkSends s t p) : t.torus = s.torus := by
  rw [h.1]

theorem linkSends_fc {s t : State} {p : Nat} (h : LinkSends s t p) : t.fc = s.fc := by
  rw [h.1]

/-- The block that leaves, with its ACK word and CRC. -/
theorem emitBlock_out (s : State) (p seq : Nat) (b : Block) (spoil : Bool) (k : Nat) :
    ∃ lane, (emitBlock s p seq b spoil k).out = s.out ++
      [.block p (if spoil then spoilBlock (sealBlock (noteAck s p) p (getLink s p) seq b) else sealBlock (noteAck s p) p (getLink s p) seq b) lane] := by
  have hout : (noteAck s p).out = s.out := by rw [noteAck_frame]
  refine ⟨byteLane (getLink (noteAck s p) p).txGroups (getLink (noteAck s p) p).txBytes, ?_⟩
  rw [← hout, ← getLink_noteAck s p p]
  rfl

theorem emitBlock_linkSends (s : State) (p seq : Nat) (b : Block) (spoil : Bool) (k : Nat) : LinkSends s (emitBlock s p seq b spoil k) p := by
  refine ⟨?_, ?_, fun q hq => getLink_emitBlock_other s hq seq b spoil k⟩
  · unfold emitBlock
    rw [noteAck_frame]
    rfl
  · obtain ⟨lane, hout⟩ := emitBlock_out s p seq b spoil k
    exact ⟨_, hout.symm⟩

/-- A block sealed for a port under a sequence number: as handed in, with the CRC that its receiver expects. -/
def Sealed (s : State) (p seq : Nat) (b : Block) (o : Output) : Prop :=
  ∃ b' lane, o = .block p b' lane ∧ b'.hdr = b.hdr ∧ b'.payload = b.payload ∧
    b'.crc = BitVec.ofNat 32 (blockCrc seq (neighbour s p) (portOf (portAxis p) (!portNeg p)) b') ∧
    (ackPoint s p = none → b'.ack = ackWord (getLink s p))

theorem neighbour_of_torus {s t : State} (h : t.torus = s.torus) (p : Nat) : neighbour t p = neighbour s p := by
  unfold neighbour ownIdx axisLen
  rw [h]

theorem emitBlock_sealed (s : State) (p seq : Nat) (b : Block) (k : Nat) :
    ∃ o, (emitBlock s p seq b false k).out = s.out ++ [o] ∧ Sealed s p seq b o := by
  obtain ⟨lane, hout⟩ := emitBlock_out s p seq b false k
  have htorus : (noteAck s p).torus = s.torus := by rw [noteAck_frame]
  refine ⟨_, hout, sealBlock (noteAck s p) p (getLink s p) seq b, lane, rfl, rfl, rfl, ?_, fun h => ?_⟩
  · rw [← neighbour_of_torus htorus]
    rfl
  · unfold sealBlock ackNow
    rw [noteAck_of_none h, h]

/-! ### A block that takes no sequence number -/

/-- Blocks sent from a port, the last of them the one handed in; the first carries the acknowledgement of the half (R306, R308). -/
structure Sent (s t : State) (p : Nat) (b : Block) : Prop where
  sends : LinkSends s t p
  txOnly : TxOnly (getLink t p) (getLink s p)
  nakDue : (getLink t p).nakDue = false
  last : ∃ b' lane, t.out.getLast? = some (.block p b' lane) ∧ b'.hdr = b.hdr ∧ b'.payload = b.payload ∧
    b'.crc = BitVec.ofNat 32 (blockCrc (getLink s p).txNext (neighbour s p) (portOf (portAxis p) (!portNeg p)) b')
  first : ackPoint s p = none → ∃ b' lane, .block p b' lane ∈ t.out.drop s.out.length ∧ b'.ack = ackWord (getLink s p)

theorem txOnly_refl (x : LinkSt) : TxOnly x x := rfl

theorem txOnly_trans {x y z : LinkSt} (hxy : TxOnly x y) (hyz : TxOnly y z) : TxOnly x z := by
  unfold TxOnly at *
  rw [hxy, hyz]

theorem emitBlock_txOnly (s : State) (p seq : Nat) (b : Block) (spoil : Bool) (k : Nat) :
    TxOnly (getLink (emitBlock s p seq b spoil k) p) (getLink s p) := by
  rw [getLink_emitBlock_same]
  rfl

theorem emitBlock_sent (s : State) (p : Nat) (b : Block) (k : Nat) : Sent s (emitBlock s p (getLink s p).txNext b false k) p b := by
  obtain ⟨o, hout, b', lane, rfl, hhdr, hpayload, hcrc, hack⟩ := emitBlock_sealed s p (getLink s p).txNext b k
  exact {
    sends := emitBlock_linkSends _ _ _ _ _ _
    txOnly := emitBlock_txOnly _ _ _ _ _ _
    nakDue := by rw [getLink_emitBlock_same]
    last := ⟨b', lane, by rw [hout, List.getLast?_concat], hhdr, hpayload, hcrc⟩
    first := fun h => ⟨b', lane, by rw [hout, List.drop_left]; exact List.mem_singleton_self _, hack h⟩ }

theorem putPlain_sent (s : State) (p : Nat) (b : Block) : Sent s (putPlain s p b) p b := by
  unfold putPlain putBlock
  dsimp only
  split
  · let t := emitBlock s p (getLink s p).txNext (blankBlock s tySkip) false 0
    have hskip : Sent s t p (blankBlock s tySkip) := emitBlock_sent s p _ 0
    have htx : (getLink t p).txNext = (getLink s p).txNext := by rw [hskip.txOnly]
    have hblock : Sent t (emitBlock t p (getLink s p).txNext b false 1) p b := htx ▸ emitBlock_sent t p b 1
    exact {
      sends := linkSends_trans hskip.sends hblock.sends
      txOnly := txOnly_trans hblock.txOnly hskip.txOnly
      nakDue := hblock.nakDue
      last := by
        obtain ⟨b', lane, hlast⟩ := hblock.last
        rw [htx, neighbour_of_torus (linkSends_torus hskip.sends)] at hlast
        exact ⟨b', lane, hlast⟩
      first := fun h => by
        obtain ⟨b', lane, hmem, hack⟩ := hskip.first h
        obtain ⟨rest, hrest⟩ := hblock.sends.2.1
        refine ⟨b', lane, ?_, hack⟩
        obtain ⟨more, hmore⟩ := hskip.sends.2.1
        rw [← hmore, List.drop_left] at hmem
        rw [← hrest, ← hmore, List.append_assoc, List.drop_left]
        exact List.mem_append_left _ hmem }
  · exact emitBlock_sent s p b _

theorem lastBlock_of_sent {s t : State} {p ty : Nat} {payload : List Byte} (h : Sent s t p (bareBlock (ownHdr s ty) payload)) :
    LastBlock s t p ty payload := h.last

/-- A LINK block is sent last. -/
theorem sendLink_sent (s : State) (p sub : Nat) (m : LinkMsg) : Sent s (sendLink s p sub m) p (bareBlock (ownHdr s tyLink) (linkPayload sub m)) :=
  putPlain_sent s p _

theorem sendIdle_sent (s : State) (p : Nat) : Sent s (sendIdle s p) p (blankBlock s tyIdle) := putPlain_sent s p _

/-- The content of a LINK block depends on what the port has accepted, its groups and the place of the package. -/
theorem linkMsg_of_same {s t : State} {p : Nat} (htorus : t.torus = s.torus) (hfc : t.fc = s.fc)
    (haccepted : (getLink t p).accepted = (getLink s p).accepted) (htx : (getLink t p).txGroups = (getLink s p).txGroups)
    (hrx : (getLink t p).rxGroups = (getLink s p).rxGroups) (sub : Nat) (lasting : Bool) (brk : Nat) (echo : Word) :
    linkMsg t p sub lasting brk echo = linkMsg s p sub lasting brk echo := by
  unfold linkMsg
  rw [htorus, hfc]
  dsimp only
  rw [haccepted, htx, hrx]

/-- What was sent last after a change of the port that keeps its next number, seen from before the change. -/
theorem lastBlock_of_linkOnly {s t u : State} {p ty : Nat} {payload : List Byte} (h : LinkSends s t p) (htx : (getLink t p).txNext = (getLink s p).txNext)
    (hlast : LastBlock t u p ty payload) : LastBlock s u p ty payload := by
  unfold LastBlock at *
  rwa [htx, neighbour_of_torus (linkSends_torus h), linkSends_torus h] at hlast

end Sys2Proof.Machine
end

section
/-! PROOFS. What draining, aborts and the fault manager leave of the Wale ports and of the torus. -/

namespace Sys2Proof.Machine

open Sys2Proof.Claims

/-! ### The lasting part of the ports and the torus -/

/-- A port without what blocks handed on, acknowledgements and PAUSE move: of its transmit half nothing of a port that is UP. -/
def atRest (x : LinkSt) : LinkSt :=
  { x with txNext := 0, unacked := if x.state = .up then [] else x.unacked, nakDue := false, txBytes := 0, sinceSkip := 0, pauseOut := false, resend := 0 }

/-- The ports at rest, and the torus without its flags and the blocks it holds. -/
def netView (s : State) : (Nat → LinkSt) × TorusSt :=
  (fun p => atRest (getLink s p), { s.torus with transit := [], inject := [], flags := [] })

theorem netView_of_same {s t : State} (hlinks : t.links = s.links) (htorus : t.torus = s.torus) : netView t = netView s := by
  unfold netView getLink
  rw [hlinks, htorus]

theorem foldl_netView {β : Type} (f : State → β → State) (h : ∀ s b, netView (f s b) = netView s) (l : List β) (s : State) :
    netView (l.foldl f s) = netView s := by
  induction l generalizing s with
  | nil => rfl
  | cons b l ih => rw [List.foldl_cons, ih, h]

theorem netView_link {s t : State} (h : netView t = netView s) (p : Nat) : atRest (getLink t p) = atRest (getLink s p) :=
  congrFun (congrArg Prod.fst h) p

theorem netView_state {s t : State} (h : netView t = netView s) (p : Nat) : (getLink t p).state = (getLink s p).state := by
  have hstate := congrArg LinkSt.state (netView_link h p)
  exact hstate

/-- A change of one port that is not seen at rest. -/
theorem updLink_netView (s : State) (p : Nat) (g : LinkSt → LinkSt) (hg : atRest (g (getLink s p)) = atRest (getLink s p)) :
    netView (updLink s p g) = netView s := by
  refine Prod.ext (funext fun q => ?_) rfl
  show atRest (getLink (updLink s p g) q) = atRest (getLink s q)
  by_cases hq : q = p
  · subst hq
    rw [getLink_updLink_same, hg]
  · rw [getLink_updLink_other _ _ _ _ hq]

theorem atRest_of_txOnly {x y : LinkSt} (h : TxOnly x y) : atRest x = atRest y := by
  rw [h]
  rfl

/-- Blocks sent without a new number change nothing at rest. -/
theorem netView_of_sends {s t : State} {p : Nat} (hsends : LinkSends s t p) (htx : TxOnly (getLink t p) (getLink s p)) : netView t = netView s := by
  obtain ⟨hframe, -, hother⟩ := hsends
  refine Prod.ext (funext fun q => ?_) ?_
  · show atRest (getLink t q) = atRest (getLink s q)
    by_cases hq : q = p
    · rw [hq, atRest_of_txOnly htx]
    · rw [hother q hq]
  · rw [hframe]
    rfl

theorem emitBlock_netView (s : State) (p seq : Nat) (b : Block) (spoil : Bool) (k : Nat) : netView (emitBlock s p seq b spoil k) = netView s :=
  netView_of_sends (emitBlock_linkSends _ _ _ _ _ _) (emitBlock_txOnly _ _ _ _ _ _)

theorem putBlock_netView (s : State) (p seq : Nat) (b : Block) (spoil : Bool) : netView (putBlock s p seq b spoil) = netView s := by
  unfold putBlock
  dsimp only
  split <;> simp only [emitBlock_netView]

theorem sendLink_netView (s : State) (p sub : Nat) (m : LinkMsg) : netView (sendLink s p sub m) = netView s := putBlock_netView _ _ _ _ _

theorem sendBreak_netView (s : State) (p brk : Nat) : netView (sendBreak s p brk) = netView s := by
  unfold sendBreak
  dsimp only
  split
  · exact sendLink_netView _ _ _ _
  · rfl

theorem recordAck_netView (s : State) (p : Nat) : netView (recordAck s p) = netView s := by
  rw [recordAck_frame]
  rfl

theorem resendFrom_netView (s : State) (p : Nat) (bs : List (Nat × Block)) : netView (resendFrom s p bs) = netView s := by
  unfold resendFrom
  dsimp only
  refine (foldl_netView _ (fun t b => putBlock_netView t p _ _ _) _ _).trans ?_
  rw [updLink_netView _ _ _ rfl]
  rfl

/-! ### Handing blocks on -/

theorem takeInject_netView {s t : State} {mode target : Nat} (h : takeInject s mode target = some t) : netView t = netView s := by
  obtain ⟨p, -, rfl⟩ := Option.map_eq_some_iff.mp h
  rfl

theorem injectWale_netView (s : State) (p seq : Nat) : netView (injectWale s p seq).1 = netView s := by
  unfold injectWale
  split
  next hOnce => exact takeInject_netView hOnce
  split
  next hTwice =>
    have hview := takeInject_netView hTwice
    exact hview
  · rfl

theorem sendBlock_netView {s : State} {p : Nat} (hup : (getLink s p).state = .up) (b : Block) : netView (sendBlock s p b) = netView s := by
  unfold sendBlock
  dsimp only
  generalize hb : putBlock (injectWale s p (getLink s p).txNext).1 p _ _ _ = u
  have hsent : netView u = netView s := by rw [← hb, putBlock_netView, injectWale_netView]
  rw [updLink_netView, hsent]
  simp [atRest, (netView_state hsent p).trans hup]

theorem leaveBy_out {s : State} {b : Block} {a hops p : Nat} {h : DWord} (hout : leaveBy s b a hops = .out p h) : (getLink s p).state = .up := by
  unfold leaveBy at hout
  dsimp only at hout
  split at hout
  · cases hout
  split at hout
  next hup =>
    split at hout <;> cases hout
    exact hup
  split at hout
  · cases hout
  split at hout
  · split at hout <;> cases hout
  · cases hout
  split at hout
  · cases hout
  split at hout
  next hup =>
    split at hout <;> cases hout
    exact hup
  split at hout <;> cases hout

theorem routeBlock_out {s : State} {b : Block} {transit : Bool} {p : Nat} {h : DWord} (hout : routeBlock s b transit = .out p h) :
    (getLink s p).state = .up := by
  unfold routeBlock at hout
  split at hout
  · cases hout
  split at hout
  · cases hout
  · exact leaveBy_out hout

theorem handOn_netView {s t : State} {b : Block} {transit : Bool} (h : handOn s b transit = some t) : netView t = netView s := by
  unfold handOn at h
  split at h <;> cases h
  case h_2 p hdr hout => exact sendBlock_netView (routeBlock_out hout) _
  all_goals rfl

theorem drainTransit_netView (bs : List (Nat × Block)) (s : State) (stuck : List Nat) (keep : List (Nat × Block)) :
    netView (drainTransit s stuck bs keep) = netView s := by
  induction bs generalizing s stuck keep with
  | nil => rfl
  | cons b bs ih =>
    rw [drainTransit]
    split
    next h => rw [ih, handOn_netView (Option.ite_none_left_eq_some.mp h).2]
    · exact ih _ _ _

theorem drainLocal_netView (bs : List Block) (s : State) (keep : List Block) : netView (drainLocal s bs keep) = netView s := by
  induction bs generalizing s keep with
  | nil => rfl
  | cons b bs ih =>
    rw [drainLocal]
    split
    next h => rw [ih, handOn_netView h]
    · exact ih _ _

theorem fillGaps_netView (s0 s : State) : netView (fillGaps s0 s) = netView s := by
  refine foldl_netView _ (fun s p => ?_) _ _
  dsimp only
  split
  · exact putBlock_netView _ _ _ _ _
  · rfl

theorem drainAll_netView (s : State) : netView (drainAll s) = netView s := by
  unfold drainAll
  dsimp only
  rw [fillGaps_netView, drainLocal_netView, foldl_netView _ (fun s p => updLink_netView s p _ rfl), drainTransit_netView]

theorem injectBlock_netView (s : State) (b : Block) : netView (injectBlock s b) = netView s :=
  (drainAll_netView _).trans rfl

/-! ### The strikes of the fault manager on the slots -/

theorem sendPacket_netView (s : State) (slot dest kind stream : Nat) (a : PacketArgs) : netView (sendPacket s slot dest kind stream a) = netView s :=
  foldl_netView _ injectBlock_netView _ _

theorem sendAborts_netView (s : State) (n : Nat) (report : Bool) (code : Nat) : netView (sendAborts s n report code) = netView s :=
  foldl_netView _ (fun _ _ => foldl_netView _ (fun _ _ => sendPacket_netView _ _ _ _ _ _) _ _) _ _

theorem runWork_netView {s t : State} (h : RunWork s t) : netView t = netView s := by
  refine netView_of_same ?_ ?_ <;> rw [h.frame]

theorem setPart_netView (s : State) (p : Nat) (x : PartSt) : netView (setPart s p x) = netView s := rfl
theorem updSlot_netView (s : State) (n : Nat) (g : SlotSt → SlotSt) : netView (updSlot s n g) = netView s := rfl
theorem setStage_netView (s : State) (n : Nat) (g : RunStage) : netView (setStage s n g) = netView s := rfl
theorem chargeHeld_netView (s : State) (n : Nat) : netView (chargeHeld s n) = netView s := rfl

theorem noteBroken_netView (s : State) (n : Nat) : netView (noteBroken s n) = netView s := by
  unfold noteBroken
  split <;> rfl

theorem cancelSwitches_netView (s : State) (p : Nat) : netView (cancelSwitches s p) = netView s := by
  rw [cancelSwitches_frame]
  rfl

theorem abortAttempt_netView (s : State) (n : Nat) (report : Bool) (code : Nat) : netView (abortAttempt s n report code) = netView s := by
  unfold abortAttempt
  split
  · unfold stopAttempt
    dsimp only
    rw [cancelSwitches_netView, setPart_netView, setStage_netView, chargeHeld_netView, noteBroken_netView, updSlot_netView]
    split
    · exact sendAborts_netView _ _ _ _
    · rfl
  · rfl

/-- A fold of operations that may fail. -/
theorem foldl_bind_netView {β : Type} (f : State → β → Option State) (h : ∀ s b t, f s b = some t → netView t = netView s) (l : List β)
    (a : Option State) (t : State) (ht : l.foldl (fun a b => a.bind (fun s => f s b)) a = some t) : ∃ s, a = some s ∧ netView t = netView s := by
  induction l generalizing a with
  | nil => exact ⟨t, ht, rfl⟩
  | cons b l ih =>
    obtain ⟨u, hu, hview⟩ := ih _ ht
    obtain ⟨s, rfl, hs⟩ := Option.bind_eq_some_iff.mp hu
    exact ⟨s, rfl, hview.trans (h s b u hs)⟩

theorem unmapGranule_netView (dom tier : Nat) (s : State) (g : Nat) : netView (unmapGranule dom tier s g) = netView s := by
  unfold unmapGranule
  dsimp only
  split
  · rfl
  · split <;> rfl

theorem releaseRegion_netView (s : State) (dom : Nat) (r : Region) : netView (releaseRegion s dom r) = netView s :=
  foldl_netView _ (fun s k => unmapGranule_netView dom r.tier s (r.gidx + k)) _ _

theorem releaseWhere_netView (s : State) (dom : Nat) (f : Region → Bool) : netView (releaseWhere s dom f) = netView s :=
  foldl_netView _ (fun s r => releaseRegion_netView s dom r) _ _

theorem retireGranule_netView {s t : State} {tier p : Nat} {bad : List Nat} (h : retireGranule s tier p bad = some t) : netView t = netView s := by
  unfold retireGranule at h
  dsimp only at h
  split at h
  · cases h
    rfl
  · split at h
    all_goals
      obtain ⟨r, -, rfl⟩ := Option.map_eq_some_iff.mp h
      rfl

theorem retired_netView (s : State) (slot : Nat) : netView ((retireFailed s slot).getD (forgetFailed s slot)) = netView s := by
  cases h : retireFailed s slot with
  | none => rfl
  | some t =>
    obtain ⟨u, hu, hview⟩ := foldl_bind_netView _ (fun _ _ _ hr => retireGranule_netView hr) _ _ _ h
    cases hu
    exact hview

theorem dropReshard_netView (s : State) (n code : Nat) : netView (dropReshard s n code) = netView s := by
  unfold dropReshard
  dsimp only
  split
  · rfl
  · refine (retired_netView _ n).trans ?_
    split
    · rfl
    · exact releaseWhere_netView _ _ _

theorem failSlot_netView (s : State) (n code : Nat) : netView (failSlot s n code) = netView s := by
  unfold failSlot failRun failReshard
  split
  · rw [dropReshard_netView, sendAborts_netView]
  split
  · rfl
  split
  · exact runWork_netView (endRun_runWork _ _ _ _)
  · exact abortAttempt_netView _ _ _ _

theorem replaySlot_netView (s : State) (n : Nat) : netView (replaySlot s n) = netView s := by
  unfold replaySlot restartMoves
  dsimp only
  split
  · split
    · rfl
    · exact sendAborts_netView _ _ _ _
  · exact abortAttempt_netView _ _ _ _

theorem logEvent_netView (s : State) (src code die sev : Nat) (args : List Byte) : netView (logEvent s src code die sev args) = netView s :=
  netView_of_same (by rw [logEvent, updHandle]) (by rw [logEvent, updHandle])

theorem recordFault_netView (s : State) (cls detect code die : Nat) : netView (recordFault s cls detect code die) = netView s :=
  logEvent_netView _ _ _ _ _ _

theorem linkFault_netView (s : State) (p : Nat) (ring : Bool) : netView (linkFault s p ring) = netView s := by
  unfold linkFault
  dsimp only
  split
  · rw [foldl_netView _ replaySlot_netView, recordFault_netView]
  · rw [foldl_netView _ fun s n => failSlot_netView s n _, recordFault_netView]

end Sys2Proof.Machine
end

section
/-! PROOFS. Writes of LINK_CTL, TORUS_COORD and TORUS_LEN. -/

namespace Sys2Proof.Machine

open Sys2Proof.Claims

/-! ### BREAK and what a lost link announces -/

theorem txOnly_of_sends {s t : State} {p : Nat} (hsends : LinkSends s t p) (htx : TxOnly (getLink t p) (getLink s p)) (q : Nat) :
    TxOnly (getLink t q) (getLink s q) := by
  by_cases hq : q = p
  · rwa [hq]
  · rw [hsends.2.2 q hq]
    rfl

theorem sendBreak_txOnly (s : State) (p brk q : Nat) : TxOnly (getLink (sendBreak s p brk) q) (getLink s q) := by
  unfold sendBreak
  dsimp only
  split
  · have hsent := sendLink_sent s p subBreak (linkMsg s p subBreak false brk 0)
    exact txOnly_of_sends hsent.sends hsent.txOnly q
  · rfl

theorem sendBreak_netOnly (s : State) (p brk : Nat) : NetOnly s (sendBreak s p brk) := by
  unfold sendBreak
  dsimp only
  split
  · exact putBlock_netOnly _ _ _ _ _
  · rfl

/-- A change of the axis's mode touches the torus alone. -/
theorem ringBreak_frame (s : State) (a brk : Nat) : ringBreak s a brk = { s with torus := (ringBreak s a brk).torus } := by
  unfold ringBreak
  dsimp only
  split
  · rfl
  · split <;> rfl
  · rfl

theorem getLink_ringBreak (s : State) (a brk q : Nat) : getLink (ringBreak s a brk) q = getLink s q := by
  rw [ringBreak_frame]
  rfl

theorem announceBreak_txOnly (s : State) (p q : Nat) : TxOnly (getLink (announceBreak s p) q) (getLink s q) := by
  unfold announceBreak
  dsimp only
  rw [getLink_ringBreak]
  exact sendBreak_txOnly _ _ _ _

/-! ### LINK_CTL -/

variable {f : FnAddr} {port : PortNo} {s : State} {c : Instr} {g : Nat → LinkSt → Res}

theorem linkWrite_permitted (h : Answers f s) (hport : port.toNat < 6) (hop : operatorSession s (fnKeyOf f) = true) :
    linkWrite f s port g = g port.toNat (getLink s port.toNat) := by
  obtain ⟨hexists, hreach⟩ := h
  rw [linkWrite, fnWrite_reached f s _ hexists hreach, atLink, if_pos hport, if_pos hop]

theorem linkWrite_denied (h : Answers f s) (hport : port.toNat < 6) (hop : operatorSession s (fnKeyOf f) = false) : linkWrite f s port g = .next s := by
  obtain ⟨hexists, hreach⟩ := h
  rw [linkWrite, fnWrite_reached f s _ hexists hreach, atLink, if_pos hport, if_neg (by simp [hop])]

theorem exec_linkEnable (h : Answers f s) (hport : port.toNat < 6) (hop : operatorSession s (fnKeyOf f) = true) (hen : (getLink s port.toNat).en = false) :
    exec (.linkEnable f port) s = .next (enableLink s port.toNat (getLink s port.toNat)) := by
  refine (linkWrite_permitted h hport hop).trans ?_
  rw [hen]
  rfl

theorem exec_linkDisable (h : Answers f s) (hport : port.toNat < 6) (hop : operatorSession s (fnKeyOf f) = true) :
    exec (.linkDisable f port) s = .next (disableLink s port.toNat (getLink s port.toNat)) :=
  linkWrite_permitted h hport hop

theorem exec_retrain (h : Answers f s) (hport : port.toNat < 6) (hop : operatorSession s (fnKeyOf f) = true) :
    exec (.retrain f port) s = .next (if (getLink s port.toNat).state = .up then startRetrain s port.toNat false true else s) :=
  linkWrite_permitted h hport hop

theorem notLooped_of {s : State} {p : Nat} (h : s.pert.lpEn = false ∨ s.pert.lpPort ≠ p) : ¬ (s.pert.lpEn && s.pert.lpPort == p) = true := by
  rintro hboth
  simp only [Bool.and_eq_true, beq_iff_eq] at hboth
  rcases h with h | h
  · exact absurd hboth.1 (by simp [h])
  · exact h hboth.2

/-- The flag of a port that takes a new state with it. -/
theorem raiseLink_setLink (s : State) (p : Nat) (x : LinkSt) (b : Nat) :
    LinkOnly s (raiseLink (setLink s p x) p b) p ∧ getLink (raiseLink (setLink s p x) p b) p = { x with flags := raise s.fc x.flags b } := by
  refine ⟨linkOnly_trans (setLink_linkOnly _ _ _) (updLink_linkOnly _ _ _), ?_⟩
  rw [raiseLink, getLink_updLink_same, getLink_setLink_same]
  rfl

theorem enableLink_trains {p : Nat} {x : LinkSt} (hloop : ¬ (s.pert.lpEn && s.pert.lpPort == p) = true) (hlen : axisLen s (portAxis p) ≠ 1)
    (hfence : isFenced s (linkDie p) = false) (hcoord : coordOk s s.torus.coord = true) :
    enableLink s p x = setLink s p { x with en := true, state := .training, accepted := false, measured := false, echo := none, chdly := 0 } := by
  rw [enableLink, if_neg hloop, if_neg hlen, if_neg (by simp [hfence]), if_neg (by simp [hcoord])]

theorem enableLink_fenced {p : Nat} {x : LinkSt} (hloop : ¬ (s.pert.lpEn && s.pert.lpPort == p) = true) (hlen : axisLen s (portAxis p) ≠ 1)
    (hfence : isFenced s (linkDie p) = true) : enableLink s p x = raiseLink (setLink s p { x with en := true, state := .lost }) p lfPortLost := by
  rw [enableLink, if_neg hloop, if_neg hlen, if_pos hfence]

theorem enableLink_mismatch {p : Nat} {x : LinkSt} (hloop : ¬ (s.pert.lpEn && s.pert.lpPort == p) = true) (hlen : axisLen s (portAxis p) ≠ 1)
    (hfence : isFenced s (linkDie p) = false) (hcoord : coordOk s s.torus.coord = false) :
    enableLink s p x = raiseLink (setLink s p { x with en := true, state := .mismatch }) p lfCableErr := by
  rw [enableLink, if_neg hloop, if_neg hlen, if_neg (by simp [hfence]), if_pos (by simp [hcoord])]

theorem enableLink_alone {p : Nat} {x : LinkSt} (hloop : ¬ (s.pert.lpEn && s.pert.lpPort == p) = true) (hlen : axisLen s (portAxis p) = 1) :
    enableLink s p x = setLink s p { x with en := true } := by
  rw [enableLink, if_neg hloop, if_pos hlen]

theorem enableLink_looped {p : Nat} {x : LinkSt} (hen : s.pert.lpEn = true) (hport : s.pert.lpPort = p) : enableLink s p x = raisePert s pfCfgErr := by
  rw [enableLink, if_pos (by simp [hen, hport])]

/-- A port that is not in service goes DOWN, and what it had not acknowledged is discarded. -/
theorem disableLink_idle {p : Nat} (hup : (getLink s p).state ≠ .up) (hretrain : (getLink s p).state ≠ .retrain) :
    let t := disableLink s p (getLink s p)
    t = { s with links := t.links, out := t.out } ∧ (∀ q, q ≠ p → getLink t q = getLink s q) ∧
      getLink t p = { getLink s p with unacked := [], nakSeq := none, en := false, state := .down, accepted := false } := by
  dsimp only
  rw [disableLink, if_neg (not_or.mpr ⟨hup, hretrain⟩)]
  refine ⟨rfl, fun q hq => ?_, ?_⟩
  · rw [getLink_updLink_other _ _ _ _ hq]
    exact getLink_setLink_other _ _ _ _ hq
  · rw [getLink_updLink_same]
    have hdrop : getLink (dropUnacked s p) p = { getLink s p with unacked := [], nakSeq := none } := getLink_setLink_same _ _ _
    rw [hdrop]

theorem getLink_dropUnacked (s : State) (p : Nat) : getLink (dropUnacked s p) p = { getLink s p with unacked := [], nakSeq := none } :=
  getLink_setLink_same _ _ _

/-- What a port keeps, at rest, through the recovery of the fault manager while it is not UP. -/
theorem unacked_of_netView {s t : State} {p : Nat} (h : netView t = netView s) (hup : (getLink s p).state ≠ .up) :
    (getLink t p).unacked = (getLink s p).unacked := by
  have hrest := congrArg LinkSt.unacked (netView_link h p)
  have hup' : (getLink t p).state ≠ .up := by rwa [netView_state h]
  simpa [atRest, hup, hup'] using hrest

theorem flags_of_netView {s t : State} (h : netView t = netView s) (p : Nat) : (getLink t p).flags = (getLink s p).flags := by
  have hrest := congrArg LinkSt.flags (netView_link h p)
  exact hrest

theorem en_of_netView {s t : State} (h : netView t = netView s) (p : Nat) : (getLink t p).en = (getLink s p).en := by
  have hrest := congrArg LinkSt.en (netView_link h p)
  exact hrest

/-- A port that is disabled in service, before the recovery: DOWN, with PORT_LOST. -/
theorem getLink_taken_down (s : State) (p : Nat) :
    let u := announceBreak (raiseLink (dropUnacked (sendBreak s p (breakCoord s p)) p) p lfPortLost) p
    let t := updLink u p (fun x => { x with en := false, state := .down, accepted := false })
    (getLink t p).state = .down ∧ (getLink t p).en = false ∧ (getLink t p).unacked = [] ∧
      (getLink t p).flags = raise s.fc (getLink s p).flags lfPortLost := by
  have hsent : TxOnly (getLink (sendBreak s p (breakCoord s p)) p) (getLink s p) := sendBreak_txOnly _ _ _ _
  have hfc : (sendBreak s p (breakCoord s p)).fc = s.fc := by rw [sendBreak_netOnly]
  dsimp only
  generalize sendBreak s p (breakCoord s p) = v at hsent hfc ⊢
  have hlost : getLink (raiseLink (dropUnacked v p) p lfPortLost) p =
      { getLink v p with unacked := [], nakSeq := none, flags := raise s.fc (getLink v p).flags lfPortLost } := by
    rw [raiseLink, getLink_updLink_same, getLink_dropUnacked, ← hfc]
    rfl
  have hannounced := announceBreak_txOnly (raiseLink (dropUnacked v p) p lfPortLost) p p
  rw [hlost] at hannounced
  rw [getLink_updLink_same, hannounced, hsent]
  exact ⟨rfl, rfl, rfl, rfl⟩

theorem disableLink_inService {p : Nat} (h : (getLink s p).state = .up ∨ (getLink s p).state = .retrain) :
    let t := disableLink s p (getLink s p)
    (getLink t p).state = .down ∧ (getLink t p).en = false ∧ (getLink t p).unacked = [] ∧
      (getLink t p).flags = raise s.fc (getLink s p).flags lfPortLost := by
  have hdown := getLink_taken_down s p
  dsimp only at hdown ⊢
  rw [disableLink, if_pos h]
  dsimp only
  generalize updLink (announceBreak (raiseLink (dropUnacked (sendBreak s p (breakCoord s p)) p) p lfPortLost) p) p
    (fun x => { x with en := false, state := .down, accepted := false }) = u at hdown ⊢
  obtain ⟨hstate, hen, hunacked, hflags⟩ := hdown
  have hview : netView (linkFault (drainAll u) p (axisMode s (portAxis p) == .ring)) = netView u :=
    (linkFault_netView _ _ _).trans (drainAll_netView u)
  refine ⟨(netView_state hview p).trans hstate, (en_of_netView hview p).trans hen, ?_, (flags_of_netView hview p).trans hflags⟩
  rw [unacked_of_netView hview (by rw [hstate]; decide), hunacked]

/-- A retrain that starts at this end: RETRAIN leaves, and the port is in its lane test. -/
theorem startRetrain_sent (s : State) (p : Nat) (lasting : Bool) :
    let t := startRetrain s p lasting true
    LinkSends s t p ∧ LastBlock s t p tyLink (linkPayload subRetrain (linkMsg s p subRetrain lasting 0 0)) ∧
      TxOnly (getLink t p) { getLink s p with state := .retrain, retrain := satAdd32 (getLink s p).retrain 1 } := by
  have hsent := sendLink_sent s p subRetrain (linkMsg s p subRetrain lasting 0 0)
  dsimp only
  rw [startRetrain, if_pos rfl]
  generalize sendLink s p subRetrain (linkMsg s p subRetrain lasting 0 0) = u at hsent ⊢
  refine ⟨linkSends_trans hsent.sends (linkOnly_linkSends (updLink_linkOnly _ _ _)), hsent.last, ?_⟩
  rw [getLink_updLink_same]
  have htx := hsent.txOnly
  unfold TxOnly at htx ⊢
  rw [htx]

theorem linkControl : Claims.LinkControl := by
  intro f port s hans hport
  refine ⟨fun hop => ⟨linkWrite_denied hans hport hop, linkWrite_denied hans hport hop, linkWrite_denied hans hport hop⟩, fun hop => ?_⟩
  refine ⟨fun hen => ?enabled, fun hen hloop hlen hfence hcoord => ?trains, fun hen hloop hlen hfence => ?fenced,
    fun hen hloop hlen hfence hcoord => ?mismatch, fun hen hloop hlen => ?alone, fun hen hloop hlp => ?looped, fun hup hretrain => ?idle,
    fun hserv => ?inService, fun hup => ?retrainOff, fun hup => ?retrain⟩
  case enabled =>
    refine (linkWrite_permitted hans hport hop).trans ?_
    rw [hen]
    rfl
  case trains =>
    refine ⟨_, exec_linkEnable hans hport hop hen, ?_⟩
    rw [enableLink_trains (notLooped_of hloop) hlen hfence hcoord]
    exact ⟨setLink_linkOnly _ _ _, getLink_setLink_same _ _ _⟩
  case fenced =>
    refine ⟨_, exec_linkEnable hans hport hop hen, ?_⟩
    rw [enableLink_fenced (notLooped_of hloop) hlen hfence]
    exact raiseLink_setLink _ _ _ _
  case mismatch =>
    refine ⟨_, exec_linkEnable hans hport hop hen, ?_⟩
    rw [enableLink_mismatch (notLooped_of hloop) hlen hfence hcoord]
    exact raiseLink_setLink _ _ _ _
  case alone =>
    refine ⟨_, exec_linkEnable hans hport hop hen, ?_⟩
    rw [enableLink_alone (notLooped_of hloop) hlen]
    exact ⟨setLink_linkOnly _ _ _, getLink_setLink_same _ _ _⟩
  case looped => rw [exec_linkEnable hans hport hop hen, enableLink_looped hloop hlp]
  case idle =>
    obtain ⟨hframe, hother, hlink⟩ := disableLink_idle hup hretrain
    exact ⟨_, exec_linkDisable hans hport hop, hframe, hother, hlink, by rw [hlink]⟩
  case inService => exact ⟨_, exec_linkDisable hans hport hop, disableLink_inService hserv⟩
  case retrainOff => rw [exec_retrain hans hport hop, if_neg hup]
  case retrain =>
    refine ⟨_, exec_retrain hans hport hop, ?_⟩
    rw [if_pos hup]
    exact startRetrain_sent s port.toNat false

/-! ### TORUS_COORD and TORUS_LEN -/

theorem writeTorus_taken {k : Nat} (hk : fnIsPf k = true)
    (hdown : (List.range 6).all (fun p => !(getLink s p).en && (getLink s p).state == .down) = true) (hop : operatorSession s k = true)
    (g : TorusSt → TorusSt) : writeTorus s k g = { s with torus := g s.torus } := by
  rw [writeTorus, if_neg (by simp [hk]), if_pos (by rw [hdown, hop]; rfl)]

theorem writeTorus_refused {k : Nat} (hk : fnIsPf k = true)
    (hoff : (List.range 6).all (fun p => !(getLink s p).en && (getLink s p).state == .down) = false ∨ operatorSession s k = false)
    (g : TorusSt → TorusSt) : writeTorus s k g = raiseTorus s xfCfgErr := by
  rw [writeTorus, if_neg (by simp [hk]), if_neg]
  rw [Bool.and_eq_true, not_and_or, Bool.not_eq_true, Bool.not_eq_true]
  exact hoff

theorem torusRegisters : Claims.TorusRegisters := by
  intro f value s hans
  have hcoord : exec (.torusCoord f value) s = .next (writeCoord s (fnKeyOf f) value.toNat) :=
    exec_of_answers hans (fun k => writeCoord s k value.toNat) rfl
  have hlen : exec (.torusLen f value) s = .next (writeLen s (fnKeyOf f) value.toNat) :=
    exec_of_answers hans (fun k => writeLen s k value.toNat) rfl
  dsimp only
  rw [hcoord, hlen, writeCoord, writeLen]
  refine ⟨fun hk => ?vf, fun hk hdown hop => ?taken, fun hk hoff => ?refused⟩
  case vf => exact ⟨by rw [writeTorus_vf hk], by rw [writeTorus_vf hk]⟩
  case taken => exact ⟨by rw [writeTorus_taken hk hdown hop], by rw [writeTorus_taken hk hdown hop]⟩
  case refused => exact ⟨by rw [writeTorus_refused hk hoff, raiseTorus], by rw [writeTorus_refused hk hoff, raiseTorus]⟩

end Sys2Proof.Machine

open Sys2Proof.Machine

/-- Settles O23: each kind of write of LINK_CTL is one state of the port, and what the recovery after a lost link does leaves a port that is DOWN. -/
theorem linkAndTorusRegisters : Obligations.LinkAndTorusRegisters := ⟨linkControl, torusRegisters⟩
end

section
/-! PROOFS. Blocks at a receiving half: failed blocks, retrains, acknowledgements and accepted blocks. -/

namespace Sys2Proof.Machine

open Sys2Proof.Claims

/-! ### The ACK word and the gaps that carry it -/

/-- The kind of an ACK word: NAK where one is due. -/
theorem ackWord_kind (x : LinkSt) : bits (ackWord x).toNat 31 30 = if x.nakDue then 2 else 1 := by
  have hpause : boolNat x.pauseOut ≤ 1 := by cases x.pauseOut <;> decide
  have hkind : ∀ k ≤ 2, (k * 2 ^ 30 + boolNat x.pauseOut * 2 ^ 29 + x.rxNext % 2 ^ 29) % 2 ^ 32 / 2 ^ 30 % 2 ^ 2 = k := by
    intro k hk
    omega
  unfold ackWord bits
  rw [BitVec.toNat_ofNat]
  split
  · exact hkind 2 (by decide)
  · exact hkind 1 (by decide)

theorem ackWord_ne_of_nakDue {x y : LinkSt} (hx : x.nakDue = true) (hy : y.nakDue = false) : ackWord x ≠ ackWord y := by
  intro h
  have hkind := ackWord_kind x
  rw [h, ackWord_kind y, hx, hy] at hkind
  exact absurd hkind (by decide)

/-- A half that fills its gap. -/
def fillGap (s0 s : State) (p : Nat) : State :=
  if (getLink s p).state == .up && ackWord (getLink s p) != ackWord (getLink s0 p) && !sentOn p (s.out.drop s0.out.length) then sendIdle s p else s

theorem fillGaps_eq (s0 s : State) : fillGaps s0 s = (List.range 6).foldl (fillGap s0) s := rfl

/-- A half whose acknowledgement is as before, or that is not UP, sends nothing. -/
theorem fillGap_quiet {s0 s : State} {p : Nat} (h : (getLink s p).state ≠ .up ∨ ackWord (getLink s p) = ackWord (getLink s0 p)) : fillGap s0 s p = s := by
  unfold fillGap
  rw [if_neg]
  rcases h with h | h <;> simp [h]

theorem foldl_fillGap_quiet {s0 s : State} {l : List Nat}
    (h : ∀ p ∈ l, (getLink s p).state ≠ .up ∨ ackWord (getLink s p) = ackWord (getLink s0 p)) : l.foldl (fillGap s0) s = s := by
  induction l with
  | nil => rfl
  | cons p l ih => rw [List.foldl_cons, fillGap_quiet (h p List.mem_cons_self), ih fun q hq => h q (List.mem_cons_of_mem _ hq)]

theorem fillGaps_quiet {s0 s : State} (h : ∀ p, (getLink s p).state ≠ .up ∨ ackWord (getLink s p) = ackWord (getLink s0 p)) : fillGaps s0 s = s :=
  foldl_fillGap_quiet fun p _ => h p

/-- One half alone has a new acknowledgement and has sent nothing since: it alone sends an IDLE block. -/
theorem fillGaps_one {s0 s : State} {p : Nat} (hp : p < 6) (hup : (getLink s p).state = .up) (hack : ackWord (getLink s p) ≠ ackWord (getLink s0 p))
    (hout : s.out = s0.out) (hother : ∀ q, q ≠ p → ackWord (getLink s q) = ackWord (getLink s0 q)) : fillGaps s0 s = sendIdle s p := by
  obtain ⟨before, after, hsplit⟩ := List.append_of_mem (List.mem_range.mpr hp)
  have hnodup : (before ++ p :: after).Nodup := hsplit ▸ List.nodup_range
  have hbefore : ∀ q ∈ before, q ≠ p := fun q hq h => (List.nodup_append.mp hnodup).2.2 q hq p List.mem_cons_self h
  have hafter : ∀ q ∈ after, q ≠ p := fun q hq h => (List.nodup_cons.mp (List.nodup_append.mp hnodup).2.1).1 (h ▸ hq)
  have hgap : fillGap s0 s p = sendIdle s p := by
    unfold fillGap
    rw [hout, List.drop_length, if_pos]
    simp [hup, hack, sentOn]
  rw [fillGaps_eq, hsplit, List.foldl_append, foldl_fillGap_quiet fun q hq => .inr (hother q (hbefore q hq)), List.foldl_cons, hgap]
  refine foldl_fillGap_quiet fun q hq => .inr ?_
  rw [(sendIdle_sent s p).sends.2.2 q (hafter q hq)]
  exact hother q (hafter q hq)

/-! ### A block that fails -/

/-- The counts of the lane codes that an arrival brings. -/
def fecCounted (x : LinkSt) (fecCorr fecUncorr : Nat) : LinkSt :=
  { x with fecCorr := satAdd64 x.fecCorr fecCorr, fecUncorr := satAdd32 x.fecUncorr fecUncorr }

variable {port : PortNo} {s : State} {a : Arrival} {fecCorr fecUncorr : Nat} {badLanes : Word}

theorem atLink_of_port (hport : port.toNat < 6) (g : Nat → LinkSt → Res) : atLink s port g = g port.toNat (getLink s port.toNat) := if_pos hport

theorem exec_blockReceive_off (hport : port.toNat < 6) (hup : (getLink s port.toNat).state ≠ .up) :
    exec (.blockReceive port a fecCorr fecUncorr badLanes) s = .next s := by
  refine Eq.trans (b := execBlockReceive port a fecCorr fecUncorr badLanes s) rfl ?_
  rw [execBlockReceive, atLink_of_port hport, if_pos hup]

/-- What an UP half takes for a block that checks (R309). -/
def blockGood (s : State) (p : Nat) (b : Block) (fecUncorr : Nat) : Prop :=
  fecUncorr = 0 ∧ bType b.hdr ≤ 4 ∧ blockCrc (getLink s p).rxNext s.torus.coord p b = b.crc.toNat

theorem exec_blockReceive_good (hport : port.toNat < 6) (hup : (getLink s port.toNat).state = .up) (hgood : blockGood s port.toNat a.block fecUncorr) :
    exec (.blockReceive port a fecCorr fecUncorr badLanes) s =
      .next (fillGaps s (acceptBlock (setLink s port.toNat (fecCounted (getLink s port.toNat) fecCorr fecUncorr)) port.toNat a.block)) := by
  obtain ⟨hfec, htype, hcrc⟩ := hgood
  refine Eq.trans (b := execBlockReceive port a fecCorr fecUncorr badLanes s) rfl ?_
  rw [execBlockReceive, atLink_of_port hport, if_neg (not_not_intro hup)]
  dsimp only
  rw [if_pos]
  · rfl
  · simp [hfec, htype, hcrc]

theorem exec_blockReceive_bad (hport : port.toNat < 6) (hup : (getLink s port.toNat).state = .up) (hbad : ¬ blockGood s port.toNat a.block fecUncorr) :
    exec (.blockReceive port a fecCorr fecUncorr badLanes) s = .next (fillGaps s (recordAck (failedBlock
      (setLink s port.toNat (fecCounted (getLink s port.toNat) fecCorr fecUncorr)) port.toNat a.second badLanes) port.toNat)) := by
  refine Eq.trans (b := execBlockReceive port a fecCorr fecUncorr badLanes s) rfl ?_
  rw [execBlockReceive, atLink_of_port hport, if_neg (not_not_intro hup)]
  dsimp only
  rw [if_neg]
  · rfl
  · intro hall
    simp only [Bool.and_eq_true, beq_iff_eq, decide_eq_true_eq] at hall
    obtain ⟨⟨hfec, htype⟩, hcrc⟩ := hall
    exact hbad ⟨hfec, htype, hcrc⟩

/-- The first failure of the expected block: counted, and a NAK is due. -/
def failedFirst (y : LinkSt) : LinkSt := { y with crcFail := satAdd32 y.crcFail 1, attempts := 1, waiting := true, nakDue := true }

theorem failedBlock_first {p : Nat} {y : LinkSt} {second : Bool} (hwaiting : y.waiting = false) :
    failedBlock (setLink s p y) p second badLanes = setLink (setLink s p y) p (failedFirst y) := by
  unfold failedBlock
  dsimp only
  rw [getLink_setLink_same, if_pos (by simp [hwaiting])]
  rfl

theorem failedBlock_second {p : Nat} {y : LinkSt} (hwaiting : y.waiting = true) :
    failedBlock (setLink s p y) p true badLanes =
      startRetrain (setLink (setLink s p y) p { y with attempts := 2, badLanes := badLanes.toNat }) p true true := by
  unfold failedBlock
  dsimp only
  rw [getLink_setLink_same, if_neg (by simp [hwaiting]), if_pos rfl]

theorem failedBlock_waiting {p : Nat} {y : LinkSt} (hwaiting : y.waiting = true) :
    failedBlock (setLink s p y) p false badLanes = setLink s p y := by
  unfold failedBlock
  dsimp only
  rw [getLink_setLink_same, if_neg (by simp [hwaiting]), if_neg (by decide)]

theorem recordAck_of_none {p : Nat} (h : ackPoint s p = none) : recordAck s p = s := by
  rw [recordAck, h]

theorem recordAck_linkSends (s : State) (p : Nat) : LinkSends s (recordAck s p) p := by
  rw [recordAck_frame]
  exact ⟨rfl, List.prefix_refl _, fun _ _ => rfl⟩

/-- The first failure: the NAK leaves at once, in the IDLE block that fills the gap. -/
theorem firstFailure_sent {p : Nat} (hp : p < 6) (hnak : (getLink s p).nakDue = false)
    (hack : ackPoint s p = none) (y : LinkSt) (hy : y.state = .up) :
    let u := setLink (setLink s p y) p (failedFirst y)
    fillGaps s (recordAck u p) = sendIdle u p ∧ LinkSends s u p ∧ getLink u p = failedFirst y ∧ ackPoint u p = none ∧ u.out = s.out := by
  dsimp only
  have hlink : getLink (setLink (setLink s p y) p (failedFirst y)) p = failedFirst y := getLink_setLink_same _ _ _
  have hpoint : ackPoint (setLink (setLink s p y) p (failedFirst y)) p = none := hack
  have honly : LinkOnly s (setLink (setLink s p y) p (failedFirst y)) p := linkOnly_trans (setLink_linkOnly _ _ _) (setLink_linkOnly _ _ _)
  refine ⟨?_, linkOnly_linkSends honly, hlink, hpoint, rfl⟩
  rw [recordAck_of_none hpoint]
  refine fillGaps_one hp (by rw [hlink]; exact hy) ?_ rfl fun q hq => by rw [honly.2 q hq]
  rw [hlink]
  exact ackWord_ne_of_nakDue rfl hnak

/-- The failure of the second attempt: RETRAIN leaves, and the port is in its lane test. -/
theorem secondFailure_sent {v : State} {p : Nat} {y : LinkSt} (hv : LinkOnly s v p) (hy : getLink v p = y) (htx : y.txNext = (getLink s p).txNext)
    (haccepted : y.accepted = (getLink s p).accepted) (htxGroups : y.txGroups = (getLink s p).txGroups) (hrxGroups : y.rxGroups = (getLink s p).rxGroups) :
    let t := fillGaps s (recordAck (startRetrain v p true true) p)
    LinkSends s t p ∧ LastBlock s t p tyLink (linkPayload subRetrain (linkMsg s p subRetrain true 0 0)) ∧
      TxOnly (getLink t p) { y with state := .retrain, retrain := satAdd32 y.retrain 1 } := by
  subst hy
  have hmsg : linkMsg v p subRetrain true 0 0 = linkMsg s p subRetrain true 0 0 :=
    linkMsg_of_same (linkSends_torus (linkOnly_linkSends hv)) (linkSends_fc (linkOnly_linkSends hv)) haccepted htxGroups hrxGroups _ _ _ _
  obtain ⟨hsends, hlast, htxOnly⟩ := startRetrain_sent v p true
  dsimp only
  generalize startRetrain v p true true = u at hsends hlast htxOnly ⊢
  have hstate : (getLink u p).state = .retrain := by rw [htxOnly]
  have hsent : LinkSends s u p := linkSends_trans (linkOnly_linkSends hv) hsends
  rw [fillGaps_quiet]
  · refine ⟨linkSends_trans hsent (recordAck_linkSends u p), ?_, ?_⟩
    · rw [hmsg] at hlast
      have hout : (recordAck u p).out = u.out := by rw [recordAck_frame]
      have hlast := lastBlock_of_linkOnly (linkOnly_linkSends hv) htx hlast
      unfold LastBlock at hlast ⊢
      rwa [hout]
    · rw [getLink_recordAck]
      exact htxOnly
  · intro q
    rw [getLink_recordAck]
    by_cases hq : q = p
    · exact .inl (by rw [hq, hstate]; decide)
    · exact .inr (by rw [hsent.2.2 q hq])

/-! ### RETRAIN of the partner -/

/-- The retrain that a RETRAIN starts at an UP port, or goes on with: a NAK no longer names a block. -/
def retrained (x : LinkSt) : LinkSt :=
  { x with state := .retrain, retrain := if x.state = .up then satAdd32 x.retrain 1 else x.retrain, nakSeq := none }

theorem retrainIn_starts {p : Nat} (h : (getLink s p).state = .up ∨ (getLink s p).state = .retrain) :
    let u := updLink (if (getLink s p).state = .up then startRetrain s p lasting false else s) p (fun x => { x with nakSeq := none })
    LinkOnly s u p ∧ getLink u p = retrained (getLink s p) := by
  dsimp only
  split
  next hup =>
    refine ⟨linkOnly_trans (updLink_linkOnly _ _ _) (updLink_linkOnly _ _ _), ?_⟩
    rw [getLink_updLink_same, startRetrain, if_neg (by decide), getLink_updLink_same, retrained, if_pos hup]
  next hup =>
    refine ⟨updLink_linkOnly _ _ _, ?_⟩
    have hretrain := h.resolve_left hup
    rw [getLink_updLink_same, retrained, if_neg hup, ← hretrain]

theorem retrainIn_sound {p : Nat} (h : (getLink s p).state = .up ∨ (getLink s p).state = .retrain) (m : LinkMsg) :
    LinkOnly s (retrainIn s p m) p ∧ getLink (retrainIn s p m) p = (if m.lasting then
      { retrained (getLink s p) with lasting := satAdd32 (getLink s p).lasting 1, flags := raise s.fc (getLink s p).flags lfLasting }
      else retrained (getLink s p)) := by
  obtain ⟨honly, hlink⟩ := retrainIn_starts (lasting := m.lasting) h
  unfold retrainIn
  dsimp only
  rw [if_pos h]
  have hfc : (updLink (if (getLink s p).state = .up then startRetrain s p m.lasting false else s) p (fun x => { x with nakSeq := none })).fc = s.fc := by
    rw [honly.1]
  generalize updLink (if (getLink s p).state = .up then startRetrain s p m.lasting false else s) p (fun x => { x with nakSeq := none }) = u
    at honly hlink hfc ⊢
  split
  · refine ⟨linkOnly_trans honly (linkOnly_trans (updLink_linkOnly _ _ _) (updLink_linkOnly _ _ _)), ?_⟩
    rw [raiseLink, getLink_updLink_same, getLink_updLink_same, hlink, ← hfc]
    rfl
  · exact ⟨honly, hlink⟩

theorem exec_retrainReceived (hport : port.toNat < 6) (m : LinkMsg) : exec (.retrainReceived port m) s = .next (retrainIn s port.toNat m) := by
  refine Eq.trans (b := execRetrainReceived port m s) rfl ?_
  rw [execRetrainReceived, atLink_of_port hport]

theorem exec_resendTimeout (hport : port.toNat < 6) : exec (.resendTimeout port) s =
    .next (if (getLink s port.toNat).state = .up then resendFrom s port.toNat (getLink s port.toNat).unacked else s) := by
  refine Eq.trans (b := execResendTimeout port s) rfl ?_
  rw [execResendTimeout, atLink_of_port hport]

theorem linkBlocks : Claims.LinkBlocks := by
  intro port s hport
  refine ⟨fun a fecCorr fecUncorr badLanes => ⟨fun hup => ?off, fun hup hbad hwaiting hnak hack => ?first, fun hup hbad hwaiting hsecond => ?second,
    fun hup hbad hwaiting hsecond => ?waiting⟩, fun m => ⟨fun hup hretrain => ?ignored, fun h => ?retrains⟩, fun hup => ?timeout, fun hup => ?noTimeout⟩
  case off => exact exec_blockReceive_off hport hup
  case first =>
    refine ⟨_, exec_blockReceive_bad hport hup hbad, ?_⟩
    rw [failedBlock_first (y := fecCounted (getLink s port.toNat) fecCorr fecUncorr) hwaiting]
    obtain ⟨hgaps, hsends, hlink, hpoint, hout⟩ :=
      firstFailure_sent hport hnak hack (fecCounted (getLink s port.toNat) fecCorr fecUncorr) hup
    rw [hgaps]
    generalize setLink (setLink s port.toNat (fecCounted (getLink s port.toNat) fecCorr fecUncorr)) port.toNat
      (failedFirst (fecCounted (getLink s port.toNat) fecCorr fecUncorr)) = u at hsends hlink hpoint hout ⊢
    have hsent := sendIdle_sent u port.toNat
    refine ⟨linkSends_trans hsends hsent.sends, hsent.nakDue, ?_, ?_, ?_⟩
    · have htx := hsent.txOnly
      rw [hlink] at htx
      exact htx
    · exact lastBlock_of_linkOnly hsends (by rw [hlink]; rfl) hsent.last
    · obtain ⟨b, lane, hmem, hword⟩ := hsent.first hpoint
      rw [hlink] at hword
      have hsame : ackWord (failedFirst (fecCounted (getLink s port.toNat) fecCorr fecUncorr)) = ackWord { getLink s port.toNat with nakDue := true } := rfl
      refine ⟨b, lane, hout ▸ hmem, hword.trans hsame, ?_⟩
      rw [hword, ackWord_kind]
      rfl
  case second =>
    refine ⟨_, exec_blockReceive_bad hport hup hbad, ?_⟩
    rw [hsecond, failedBlock_second (y := fecCounted (getLink s port.toNat) fecCorr fecUncorr) hwaiting]
    obtain ⟨hsends, hlast, htx⟩ := secondFailure_sent (s := s) (p := port.toNat)
      (y := { fecCounted (getLink s port.toNat) fecCorr fecUncorr with attempts := 2, badLanes := badLanes.toNat })
      (linkOnly_trans (setLink_linkOnly _ _ _) (setLink_linkOnly _ _ _)) (getLink_setLink_same _ _ _) rfl rfl rfl rfl
    exact ⟨hsends, by rw [htx], by rw [htx], by rw [htx]; rfl, by rw [htx]; rfl, by rw [htx]; rfl, hlast⟩
  case waiting =>
    refine ⟨_, exec_blockReceive_bad hport hup hbad, ?_⟩
    rw [hsecond, failedBlock_waiting (y := fecCounted (getLink s port.toNat) fecCorr fecUncorr) hwaiting]
    have hlinks : ∀ q, getLink (recordAck (setLink s port.toNat (fecCounted (getLink s port.toNat) fecCorr fecUncorr)) port.toNat) q =
        getLink (setLink s port.toNat (fecCounted (getLink s port.toNat) fecCorr fecUncorr)) q := getLink_recordAck _ _
    rw [fillGaps_quiet]
    · refine ⟨?_, (hlinks _).trans (getLink_setLink_same _ _ _), fun q hq => (hlinks q).trans (getLink_setLink_other _ _ _ _ hq)⟩
      rw [recordAck_frame]
      rfl
    · intro q
      rw [hlinks]
      by_cases hq : q = port.toNat
      · rw [hq, getLink_setLink_same]
        exact .inr rfl
      · rw [getLink_setLink_other _ _ _ _ hq]
        exact .inr rfl
  case ignored =>
    rw [exec_retrainReceived hport, retrainIn]
    exact congrArg _ (if_neg (not_or.mpr ⟨hup, hretrain⟩))
  case retrains =>
    obtain ⟨honly, hlink⟩ := retrainIn_sound h m
    refine ⟨_, exec_retrainReceived hport m, honly, ?_⟩
    rw [hlink]
    cases m.lasting <;> simp [retrained]
  case timeout =>
    rw [exec_resendTimeout hport, if_pos hup]
  case noTimeout =>
    rw [exec_resendTimeout hport, if_neg hup]

/-! ### A block that is accepted -/

/-- A receiving half: its state, the number it expects, whether it waits, its failures. -/
def rxHalf (x : LinkSt) : LinkState × Nat × Bool × Nat × Nat := (x.state, x.rxNext, x.waiting, x.attempts, x.crcFail)

theorem rxHalf_of_netView {s t : State} (h : netView t = netView s) (p : Nat) : rxHalf (getLink t p) = rxHalf (getLink s p) := by
  have hrest := congrArg rxHalf (netView_link h p)
  exact hrest

/-- What the links' work leaves: cores, slots and functions. -/
def besideLinks (s : State) : SMap CoreSt × SMap SlotSt × SMap FnSt := (s.cores, s.slots, s.fns)

theorem NetOnly.besideLinks {s t : State} (h : NetOnly s t) : besideLinks t = besideLinks s := by
  rw [h]
  rfl

theorem resendFrom_netOnly (s : State) (p : Nat) (bs : List (Nat × Block)) : NetOnly s (resendFrom s p bs) := by
  refine NetOnly.trans ?_ (foldl_netOnly _ (fun s b => putBlock_netOnly s p b.1 b.2 _) bs _)
  rfl

/-- A change of the transmit half of a port, which neither the receiving half nor anything beside the links shows. -/
def TxHalf (s t : State) (p : Nat) : Prop := rxHalf (getLink t p) = rxHalf (getLink s p) ∧ besideLinks t = besideLinks s

theorem TxHalf.trans {s t u : State} {p : Nat} (hst : TxHalf s t p) (htu : TxHalf t u p) : TxHalf s u p :=
  ⟨htu.1.trans hst.1, htu.2.trans hst.2⟩

theorem updLink_txHalf (s : State) (p : Nat) {g : LinkSt → LinkSt} (hg : ∀ x, rxHalf (g x) = rxHalf x) : TxHalf s (updLink s p g) p :=
  ⟨by rw [getLink_updLink_same, hg], rfl⟩

theorem netWork_txHalf {s t : State} (hview : netView t = netView s) (hnet : NetOnly s t) (p : Nat) : TxHalf s t p :=
  ⟨rxHalf_of_netView hview p, hnet.besideLinks⟩

/-- The block a NAK named is acknowledged: the transient is classified. -/
theorem transientTaken_txHalf (s : State) (p : Nat) :
    TxHalf s (faultTransient (raiseLink (updLink s p (fun x => { x with nakSeq := none, transient := satAdd32 x.transient 1 })) p lfTransient)) p := by
  have hcounted := updLink_txHalf s p (g := fun x => { x with nakSeq := none, transient := satAdd32 x.transient 1 }) fun _ => rfl
  generalize updLink s p (fun x => { x with nakSeq := none, transient := satAdd32 x.transient 1 }) = u at hcounted ⊢
  have hraised : TxHalf u (raiseLink u p lfTransient) p := updLink_txHalf u p fun _ => rfl
  generalize raiseLink u p lfTransient = v at hraised ⊢
  exact (hcounted.trans hraised).trans ⟨rfl, rfl⟩

theorem resendFrom_txHalf (s : State) (p : Nat) (bs : List (Nat × Block)) : TxHalf s (resendFrom s p bs) p :=
  netWork_txHalf (resendFrom_netView _ _ _) (resendFrom_netOnly _ _ _) p

/-- What an ACK word of a kind does that acknowledges the first `k` blocks of the window of port state `x`. -/
def ackMoved (s : State) (p : Nat) (x : LinkSt) (kind k : Nat) : State :=
  if (kind ≠ 1 ∧ kind ≠ 2) ∨ x.unacked.length < k ∨ (kind = 2 ∧ x.unacked.length = k) then s
  else
    let covered := match x.nakSeq with | some q => (x.unacked.take k).any (fun b => b.1 == q) | none => false
    let s := updLink s p (fun x' => { x' with unacked := x.unacked.drop k })
    let s := if covered then
        faultTransient (raiseLink (updLink s p (fun x => { x with nakSeq := none, transient := satAdd32 x.transient 1 })) p lfTransient)
      else s
    if kind = 2 then
      match x.unacked.drop k with
      | [] => s
      | b :: _ => resendFrom (updLink s p (fun x => { x with nakSeq := some b.1 })) p (x.unacked.drop k)
    else s

theorem takeAck_eq (s : State) (p : Nat) (w : Word) : ∃ k, takeAck s p w =
    ackMoved (setLink s p { getLink s p with paused := bit w.toNat 29 }) p (getLink s p) (bits w.toNat 31 30) k := ⟨_, rfl⟩

theorem ackMoved_txHalf (s : State) (p : Nat) (x : LinkSt) (kind k : Nat) : TxHalf s (ackMoved s p x kind k) p := by
  unfold ackMoved
  dsimp only
  split
  · exact ⟨rfl, rfl⟩
  have hacked : TxHalf s (updLink s p (fun x' => { x' with unacked := x.unacked.drop k })) p := updLink_txHalf s p fun _ => rfl
  generalize updLink s p (fun x' => { x' with unacked := x.unacked.drop k }) = v at hacked ⊢
  have hcovered (c : Bool) : TxHalf s (if c then
      faultTransient (raiseLink (updLink v p (fun x => { x with nakSeq := none, transient := satAdd32 x.transient 1 })) p lfTransient) else v) p := by
    split
    · exact hacked.trans (transientTaken_txHalf v p)
    · exact hacked
  split
  · split
    · exact hcovered _
    · refine ((hcovered _).trans (updLink_txHalf _ p ?_)).trans (resendFrom_txHalf _ _ _)
      exact fun _ => rfl
  · exact hcovered _

/-- An acknowledgement moves the transmit half alone (R310). -/
theorem takeAck_txHalf (s : State) (p : Nat) (w : Word) : TxHalf s (takeAck s p w) p := by
  have hpaused : TxHalf s (setLink s p { getLink s p with paused := bit w.toNat 29 }) p := ⟨by rw [getLink_setLink_same]; rfl, rfl⟩
  obtain ⟨k, hk⟩ := takeAck_eq s p w
  rw [hk]
  exact hpaused.trans (ackMoved_txHalf _ _ _ _ _)

theorem fillGaps_txHalf (s0 s : State) (p : Nat) : TxHalf s (fillGaps s0 s) p := netWork_txHalf (fillGaps_netView _ _) (fillGaps_netOnly _ _) p

theorem drainAll_txHalf (s : State) (p : Nat) : TxHalf s (drainAll s) p := netWork_txHalf (drainAll_netView _) (drainAll_netOnly _) p

theorem recordAck_txHalf (s : State) (p : Nat) : TxHalf s (recordAck s p) p := netWork_txHalf (recordAck_netView _ _) (recordAck_netOnly _ _) p

/-- A half that accepts a block with a sequence number expects the next one. -/
def rxAdvanced (x : LinkSt) : LinkSt := { x with rxNext := (x.rxNext + 1) % 2 ^ 32, waiting := false, nakDue := false, attempts := 0 }

theorem acceptBlock_sequenced {p : Nat} {b : Block} (h : sequenced b.hdr = true) :
    rxHalf (getLink (acceptBlock s p b) p) = rxHalf (rxAdvanced (getLink s p)) ∧ besideLinks (acceptBlock s p b) = besideLinks s := by
  obtain ⟨hhalf, hbeside⟩ := takeAck_txHalf s p b.ack
  unfold acceptBlock
  dsimp only
  rw [if_pos h]
  generalize takeAck s p b.ack = u at hhalf hbeside ⊢
  generalize hv : updLink u p (fun x => { x with rxNext := (x.rxNext + 1) % 2 ^ 32, waiting := false, nakDue := false, attempts := 0 }) = v
  have hadvanced : rxHalf (getLink v p) = rxHalf (rxAdvanced (getLink s p)) := by
    rw [← hv, getLink_updLink_same]
    simp only [rxHalf, rxAdvanced, Prod.mk.injEq] at hhalf ⊢
    obtain ⟨hstate, hnext, -, -, hcrc⟩ := hhalf
    exact ⟨hstate, by rw [hnext], trivial, trivial, hcrc⟩
  have hsame : besideLinks v = besideLinks s := by
    rw [← hv, ← hbeside]
    rfl
  obtain ⟨hrest, hkept⟩ := (recordAck_txHalf { v with torus := { v.torus with transit := v.torus.transit ++ [(p, b)] } } p).trans (drainAll_txHalf _ p)
  exact ⟨hrest.trans hadvanced, hkept.trans hsame⟩

theorem acceptBlock_blank {p : Nat} {b : Block} (h : bType b.hdr = tyIdle ∨ bType b.hdr = tySkip) : TxHalf s (acceptBlock s p b) p := by
  have hseq : ¬ sequenced b.hdr = true := by rcases h with h | h <;> simp [sequenced, h, tyIdle, tySkip]
  have hlink : bType b.hdr ≠ tyLink := by rcases h with h | h <;> rw [h] <;> decide
  unfold acceptBlock
  dsimp only
  rw [if_neg hseq, if_neg hlink]
  exact (takeAck_txHalf s p b.ack).trans (drainAll_txHalf _ p)

theorem blockAccepted : Claims.BlockAccepted := by
  intro port s a fecCorr badLanes hport
  dsimp only
  intro hup hcrc
  have hlink : getLink (setLink s port.toNat (fecCounted (getLink s port.toNat) fecCorr 0)) port.toNat = fecCounted (getLink s port.toNat) fecCorr 0 :=
    getLink_setLink_same _ _ _
  have hsame : besideLinks (setLink s port.toNat (fecCounted (getLink s port.toNat) fecCorr 0)) = besideLinks s := rfl
  have hgood : bType a.block.hdr ≤ 4 → _ := fun htype =>
    exec_blockReceive_good (fecCorr := fecCorr) (badLanes := badLanes) hport hup (a := a) ⟨rfl, htype, hcrc⟩
  generalize setLink s port.toNat (fecCounted (getLink s port.toNat) fecCorr 0) = u at hlink hsame hgood
  refine ⟨fun hseq => ⟨_, hgood ?seqType, ?sequenced⟩, fun hblank => ⟨_, hgood ?blankType, ?blank⟩⟩
  case seqType =>
    simp only [sequenced, Bool.or_eq_true, beq_iff_eq] at hseq
    omega
  case sequenced =>
    obtain ⟨haccepted, hbeside⟩ := acceptBlock_sequenced (s := u) (p := port.toNat) hseq
    obtain ⟨hgaps, hkept⟩ := fillGaps_txHalf s (acceptBlock u port.toNat a.block) port.toNat
    have hhalf := (hgaps.trans haccepted).trans (congrArg (fun x => rxHalf (rxAdvanced x)) hlink)
    have hbeside := (hkept.trans hbeside).trans hsame
    simp only [rxHalf, rxAdvanced, fecCounted, besideLinks, Prod.mk.injEq] at hhalf hbeside
    obtain ⟨hstate, hnext, hwaiting, hattempts, hcrcFail⟩ := hhalf
    exact ⟨hnext, hwaiting, hattempts, hcrcFail, hstate.trans hup, hbeside⟩
  case blankType => rcases hblank with h | h <;> rw [h] <;> decide
  case blank =>
    obtain ⟨haccepted, hbeside⟩ := (acceptBlock_blank (s := u) (p := port.toNat) hblank).trans (fillGaps_txHalf s _ port.toNat)
    have hhalf := haccepted.trans (congrArg rxHalf hlink)
    have hbeside := hbeside.trans hsame
    simp only [rxHalf, fecCounted, besideLinks, Prod.mk.injEq] at hhalf hbeside
    obtain ⟨hstate, hnext, hwaiting, hattempts, hcrcFail⟩ := hhalf
    exact ⟨hnext, hwaiting, hattempts, hcrcFail, hstate.trans hup, hbeside⟩

end Sys2Proof.Machine

open Sys2Proof.Machine

/-- Settles O25: a failed block is followed to what leaves in the same fc, and acknowledgements and blocks handed on touch no receiving half. -/
theorem blocks : Obligations.Blocks := ⟨linkBlocks, blockAccepted⟩
end

section
/-! PROOFS. Bring-up of a link: training, HELLO and HELLO_ECHO, the partner's check. -/

namespace Sys2Proof.Machine

open Sys2Proof.Claims

variable {port : PortNo} {s : State}

/-! ### What the commands of a bring-up do -/

theorem exec_trainingDone (hport : port.toNat < 6) (txBad rxBad : Word) (hstate : (getLink s port.toNat).state = .training) :
    exec (.trainingDone port txBad rxBad) s =
      let y := retireLanes (getLink s port.toNat) txBad.toNat rxBad.toNat
      if y.txGroups = 0 ∨ y.rxGroups = 0 then .next (raiseLink (setLink s port.toNat { y with state := .lost }) port.toNat lfPortLost)
      else .next (sendHello (setLink s port.toNat { y with state := .hello, txNext := 0, rxNext := 0, waiting := false, nakDue := false }) port.toNat) := by
  refine Eq.trans (b := execTrainingDone port txBad rxBad s) rfl ?_
  rw [execTrainingDone, atLink_of_port hport, if_neg (not_not_intro hstate)]

theorem exec_trainingDone_off (hport : port.toNat < 6) (txBad rxBad : Word) (hstate : (getLink s port.toNat).state ≠ .training) :
    exec (.trainingDone port txBad rxBad) s = .next s := by
  refine Eq.trans (b := execTrainingDone port txBad rxBad s) rfl ?_
  rw [execTrainingDone, atLink_of_port hport, if_pos hstate]

theorem exec_hello (hport : port.toNat < 6) (m : LinkMsg) : exec (.hello port m) s = .next (helloIn s port.toNat m) := by
  refine Eq.trans (b := execHello port m s) rfl ?_
  rw [execHello, atLink_of_port hport]

theorem exec_helloTimer (hport : port.toNat < 6) : exec (.helloTimer port) s = .next (
    if greeting (getLink s port.toNat) then
      (if (getLink s port.toNat).echo.isSome then sendEcho (sendHello s port.toNat) port.toNat else sendHello s port.toNat)
    else s) := by
  refine Eq.trans (b := execHelloTimer port s) rfl ?_
  rw [execHelloTimer, atLink_of_port hport]

theorem exec_helloEcho_off (hport : port.toNat < 6) (m : LinkMsg) (excess : Nat) (h : greeting (getLink s port.toNat) = false) :
    exec (.helloEcho port m excess) s = .next s := by
  refine Eq.trans (b := execHelloEcho port m excess s) rfl ?_
  rw [execHelloEcho, atLink_of_port hport, if_pos (by rw [h]; rfl)]

theorem exec_helloEcho_late (hport : port.toNat < 6) (m : LinkMsg) {excess : Nat} (h : greeting (getLink s port.toNat) = true) (hlate : 114 < excess) :
    exec (.helloEcho port m excess) s =
      .next (raiseLink (setLink s port.toNat { getLink s port.toNat with state := .lost, chdly := min excess 255 }) port.toNat lfPortLost) := by
  refine Eq.trans (b := execHelloEcho port m excess s) rfl ?_
  rw [execHelloEcho, atLink_of_port hport, if_neg (by rw [h]; decide), if_pos hlate]

theorem exec_helloEcho (hport : port.toNat < 6) (m : LinkMsg) {excess : Nat} (h : greeting (getLink s port.toNat) = true) (hin : excess ≤ 114) :
    exec (.helloEcho port m excess) s = .next (freshPseq (updLink (checkPartner
      (setLink s port.toNat { getLink s port.toNat with chdly := excess, measured := true }) port.toNat m) port.toNat (settlePartner m)) port.toNat) := by
  refine Eq.trans (b := execHelloEcho port m excess s) rfl ?_
  rw [execHelloEcho, atLink_of_port hport, if_neg (by rw [h]; decide), if_neg (Nat.not_lt.mpr hin)]

/-! ### HELLO and HELLO_ECHO on their way out -/

theorem sendHello_sent (s : State) (p : Nat) :
    Sent s (sendHello s p) p (bareBlock (ownHdr s tyLink) (linkPayload subHello (linkMsg s p subHello false 0 0))) := sendLink_sent _ _ _ _

theorem sendEcho_sent {s : State} {p : Nat} {e : Word} (h : (getLink s p).echo = some e) :
    Sent s (sendEcho s p) p (bareBlock (ownHdr s tyLink) (linkPayload subEcho (linkMsg s p subEcho false 0 e))) := by
  rw [sendEcho, h]
  exact sendLink_sent _ _ _ _

theorem linkMsg_of_sent {s t : State} {p : Nat} {b : Block} (h : Sent s t p b) (sub : Nat) (lasting : Bool) (brk : Nat) (echo : Word) :
    linkMsg t p sub lasting brk echo = linkMsg s p sub lasting brk echo := by
  have htx := h.txOnly
  exact linkMsg_of_same (linkSends_torus h.sends) (linkSends_fc h.sends) (by rw [htx]) (by rw [htx]) (by rw [htx]) _ _ _ _

/-- Two LINK blocks, one after the other. -/
theorem helloThenEcho_sent {p : Nat} {e : Word} (h : (getLink s p).echo = some e) :
    LinkSends s (sendEcho (sendHello s p) p) p ∧ TxOnly (getLink (sendEcho (sendHello s p) p) p) (getLink s p) ∧
      LastBlock s (sendEcho (sendHello s p) p) p tyLink (linkPayload subEcho (linkMsg s p subEcho false 0 e)) := by
  have hhello := sendHello_sent s p
  generalize sendHello s p = u at hhello ⊢
  have hecho : (getLink u p).echo = some e := by rw [hhello.txOnly, ← h]
  have hsent := sendEcho_sent hecho
  rw [linkMsg_of_sent hhello] at hsent
  exact ⟨linkSends_trans hhello.sends hsent.sends, txOnly_trans hsent.txOnly hhello.txOnly,
    lastBlock_of_linkOnly hhello.sends (by rw [hhello.txOnly]) (lastBlock_of_sent hsent)⟩

/-! ### The partner's check -/

/-- A port whose partner has been checked. -/
def partnerChecked (s : State) (p : Nat) (m : LinkMsg) (x : LinkSt) : LinkSt :=
  if partnerOk s p m then { x with partner := partnerWord m, accepted := true }
  else { x with
    partner := partnerWord m, accepted := false, state := .mismatch,
    flags := if x.state = .mismatch ∧ x.accepted = false then x.flags else raise s.fc x.flags lfCableErr }

theorem checkPartner_sound (s : State) (p : Nat) (m : LinkMsg) :
    LinkOnly s (checkPartner s p m) p ∧ getLink (checkPartner s p m) p = partnerChecked s p m (getLink s p) := by
  unfold checkPartner partnerChecked
  dsimp only
  cases hok : partnerOk s p m with
  | true => exact ⟨setLink_linkOnly _ _ _, getLink_setLink_same _ _ _⟩
  | false =>
    rw [if_neg Bool.false_ne_true, if_neg Bool.false_ne_true]
    split
    · exact ⟨setLink_linkOnly _ _ _, getLink_setLink_same _ _ _⟩
    · exact raiseLink_setLink _ _ _ _

/-- The check of a port that has taken note of the message. -/
theorem checkPartner_noted (s : State) (p : Nat) (m : LinkMsg) (y : LinkSt) :
    LinkOnly s (checkPartner (setLink s p y) p m) p ∧ getLink (checkPartner (setLink s p y) p m) p = partnerChecked s p m y := by
  obtain ⟨honly, hlink⟩ := checkPartner_sound (setLink s p y) p m
  rw [getLink_setLink_same] at hlink
  exact ⟨linkOnly_trans (setLink_linkOnly _ _ _) honly, hlink⟩

theorem settlePartner_kept (m : LinkMsg) (x : LinkSt) : (settlePartner m x).partner = x.partner ∧ (settlePartner m x).echo = x.echo ∧
    (settlePartner m x).accepted = x.accepted ∧ (settlePartner m x).flags = x.flags ∧ (settlePartner m x).chdly = x.chdly ∧
    (settlePartner m x).measured = x.measured := by
  unfold settlePartner
  split
  · exact ⟨rfl, rfl, rfl, rfl, rfl, rfl⟩
  split
  · exact ⟨rfl, rfl, rfl, rfl, rfl, rfl⟩
  · split <;> exact ⟨rfl, rfl, rfl, rfl, rfl, rfl⟩

theorem settlePartner_refused {m : LinkMsg} {x : LinkSt} (h : x.accepted = false) : settlePartner m x = x := if_pos (by rw [h]; rfl)

theorem settlePartner_noMatch {m : LinkMsg} {x : LinkSt} (h : x.accepted = true) (hm : m.mtch = false) :
    settlePartner m x = { x with state := .mismatch } := by
  rw [settlePartner, if_neg (by rw [h]; decide), if_pos (by rw [hm]; rfl)]

theorem settlePartner_waits {m : LinkMsg} {x : LinkSt} (h : x.accepted = true) (hm : m.mtch = true) (hmeasured : x.measured = false) :
    settlePartner m x = x := by
  rw [settlePartner, if_neg (by rw [h]; decide), if_neg (by rw [hm]; decide), if_neg (by rw [hmeasured]; decide)]

theorem settlePartner_up {m : LinkMsg} {x : LinkSt} (h : x.accepted = true) (hm : m.mtch = true) (hmeasured : x.measured = true) :
    settlePartner m x = goUp x := by
  rw [settlePartner, if_neg (by rw [h]; decide), if_neg (by rw [hm]; decide), if_pos hmeasured]

/-- What an exchange leaves of a port that noted the message as `y`: the flags, and the state it settles in. -/
structure Exchanged (s : State) (p : Nat) (m : LinkMsg) (y z : LinkSt) : Prop where
  partner : z.partner = partnerWord m
  accepted : z.accepted = partnerOk s p m
  echo : z.echo = y.echo
  chdly : z.chdly = y.chdly
  measured : z.measured = y.measured
  kept : partnerOk s p m = true → z.flags = y.flags
  up : partnerOk s p m = true → m.mtch = true → y.measured = true → z.state = .up ∧ z.txNext = 0 ∧ z.rxNext = 0
  noMatch : partnerOk s p m = true → m.mtch = false → z.state = .mismatch
  waits : partnerOk s p m = true → m.mtch = true → y.measured = false → z.state = y.state
  refused : partnerOk s p m = false → z.state = .mismatch ∧
    z.flags = (if y.state = .mismatch ∧ y.accepted = false then y.flags else raise s.fc y.flags lfCableErr)

theorem settlePartner_exchanged {p : Nat} {m : LinkMsg} {y z : LinkSt} (h : TxOnly z (partnerChecked s p m y)) :
    Exchanged s p m y (settlePartner m z) := by
  obtain ⟨hpartner, hecho, haccepted, hflags, hchdly, hmeasured⟩ := settlePartner_kept m z
  cases hok : partnerOk s p m with
  | true =>
    have hz : partnerChecked s p m y = { y with partner := partnerWord m, accepted := true } := if_pos hok
    rw [hz] at h
    have hacc : z.accepted = true := by rw [h]
    have hmeas : z.measured = y.measured := by rw [h]
    exact {
      partner := by rw [hpartner, h]
      accepted := by rw [haccepted, hacc, hok]
      echo := by rw [hecho, h]
      chdly := by rw [hchdly, h]
      measured := by rw [hmeasured, h]
      kept := fun _ => by rw [hflags, h]
      up := fun _ hm hy => by
        rw [settlePartner_up hacc hm (hmeas.trans hy)]
        exact ⟨rfl, rfl, rfl⟩
      noMatch := fun _ hm => by rw [settlePartner_noMatch hacc hm]
      waits := fun _ hm hy => by rw [settlePartner_waits hacc hm (hmeas.trans hy), h]
      refused := fun hbad => absurd (hok.symm.trans hbad) (by decide) }
  | false =>
    have hno : ¬ partnerOk s p m = true := by rw [hok]; decide
    have hz : partnerChecked s p m y = { y with
        partner := partnerWord m, accepted := false, state := .mismatch,
        flags := if y.state = .mismatch ∧ y.accepted = false then y.flags else raise s.fc y.flags lfCableErr } := if_neg hno
    rw [hz] at h
    have hacc : z.accepted = false := by rw [h]
    exact {
      partner := by rw [hpartner, h]
      accepted := by rw [haccepted, hacc, hok]
      echo := by rw [hecho, h]
      chdly := by rw [hchdly, h]
      measured := by rw [hmeasured, h]
      kept := fun hgood => absurd hgood hno
      up := fun hgood => absurd hgood hno
      noMatch := fun hgood => absurd hgood hno
      waits := fun hgood => absurd hgood hno
      refused := fun _ => by
        rw [settlePartner_refused hacc, h]
        exact ⟨rfl, rfl⟩ }

/-! ### Expected PSEQ values -/

/-- A slot whose expected PSEQ values are 0 again. -/
def pseqFresh (x : SlotSt) : SlotSt := { x with coll := { x.coll with pseqIn := [] } }

theorem getSlot_foldl_pseqFresh (ns : List Nat) (s : State) (n : Nat) :
    getSlot (ns.foldl (fun s n => updSlot s n pseqFresh) s) n = if n ∈ ns then pseqFresh (getSlot s n) else getSlot s n := by
  induction ns generalizing s with
  | nil => rfl
  | cons m ns ih =>
    rw [List.foldl_cons, ih]
    by_cases hm : n = m
    · subst hm
      rw [getSlot_updSlot_same, if_pos List.mem_cons_self]
      split <;> rfl
    · rw [getSlot_updSlot_other _ _ _ _ hm]
      simp [hm]

/-- A slot that no table lists holds no PSEQ value. -/
theorem pseqFresh_of_unlisted {n : Nat} (h : n ∉ s.slots.map (·.1)) : pseqFresh (getSlot s n) = getSlot s n := by
  have hslot : getSlot s n = {} := by
    refine mget_of_not_mhas _ _ _ ?_
    rw [mhas, List.any_eq_false]
    intro e he hkey
    exact h (List.mem_map.mpr ⟨e, he, beq_iff_eq.mp hkey⟩)
  rw [hslot]
  rfl

theorem freshPseq_frame (s : State) (p : Nat) : freshPseq s p = { s with slots := (freshPseq s p).slots } := by
  unfold freshPseq
  split
  · exact foldl_updSlot_frame _ _ _ _
  · rfl

theorem getLink_freshPseq (s : State) (p q : Nat) : getLink (freshPseq s p) q = getLink s q := by
  rw [freshPseq_frame]
  rfl

theorem freshPseq_pseqAt (s : State) (p : Nat) : PseqAt s (freshPseq s p) p := by
  unfold PseqAt
  rw [getLink_freshPseq]
  refine ⟨fun hup => by rw [freshPseq, if_neg hup], fun hup n => ?_⟩
  rw [freshPseq, if_pos hup]
  refine (getSlot_foldl_pseqFresh _ s n).trans ?_
  split
  · rfl
  next h => exact (pseqFresh_of_unlisted h).symm

/-- The end of an exchange: the partner is settled with, and a link that has come up expects PSEQ 0 everywhere. -/
theorem exchange_sound {u : State} {p : Nat} {m : LinkMsg} {y : LinkSt} (hsends : LinkSends s u p) (htx : TxOnly (getLink u p) (partnerChecked s p m y)) :
    let t := freshPseq (updLink u p (settlePartner m)) p
    t.out = u.out ∧ { t with slots := s.slots } = updLink u p (settlePartner m) ∧ PseqAt s t p ∧ Exchanged s p m y (getLink t p) := by
  have hsettled := settlePartner_exchanged (m := m) htx
  have hlink : getLink (updLink u p (settlePartner m)) p = settlePartner m (getLink u p) := getLink_updLink_same _ _ _
  have hcome : LinkSends s (updLink u p (settlePartner m)) p := linkSends_trans hsends (linkOnly_linkSends (updLink_linkOnly _ _ _))
  have hout : (updLink u p (settlePartner m)).out = u.out := rfl
  dsimp only
  generalize updLink u p (settlePartner m) = v at hlink hcome hout ⊢
  have hslots : v.slots = s.slots := by rw [hcome.1]
  have hframe := freshPseq_frame v p
  have hpseq := freshPseq_pseqAt v p
  refine ⟨by rw [hframe, hout], by rw [hframe, ← hslots], ?_, by rw [getLink_freshPseq, hlink]; exact hsettled⟩
  have hslot : ∀ n, getSlot v n = getSlot s n := fun n => by rw [getSlot, hslots, getSlot]
  obtain ⟨hstay, hzero⟩ := hpseq
  exact ⟨fun hup => (hstay hup).trans hslots, fun hup n => by rw [hzero hup n, hslot]⟩

/-- HELLO at a port in its exchange: it is answered, and the exchange goes on. -/
theorem helloIn_greeting {p : Nat} (h : greeting (getLink s p) = true) (m : LinkMsg) :
    let t := helloIn s p m
    LinkSends s { t with slots := s.slots } p ∧ PseqAt s t p ∧ Exchanged s p m { getLink s p with echo := some m.fc } (getLink t p) ∧
      LastBlock s t p tyLink (linkPayload subEcho { linkMsg s p subEcho false 0 m.fc with mtch := partnerOk s p m }) := by
  obtain ⟨honly, hlink⟩ := checkPartner_noted s p m { getLink s p with echo := some m.fc }
  dsimp only
  rw [helloIn, if_pos h]
  generalize checkPartner (setLink s p { getLink s p with echo := some m.fc }) p m = u at honly hlink ⊢
  have hecho : (getLink u p).echo = some m.fc := by
    rw [hlink, partnerChecked]
    split <;> rfl
  have hsent := sendEcho_sent hecho
  have hmsg : linkMsg u p subEcho false 0 m.fc = { linkMsg s p subEcho false 0 m.fc with mtch := partnerOk s p m } := by
    have htorus := linkSends_torus (linkOnly_linkSends honly)
    have hfc := linkSends_fc (linkOnly_linkSends honly)
    rw [linkMsg, hlink, htorus, hfc, partnerChecked, linkMsg]
    cases partnerOk s p m <;> rfl
  have htxNext : (getLink u p).txNext = (getLink s p).txNext := by
    rw [hlink, partnerChecked]
    split <;> rfl
  have hsends : LinkSends s (sendEcho u p) p := linkSends_trans (linkOnly_linkSends honly) hsent.sends
  have hlast := lastBlock_of_linkOnly (linkOnly_linkSends honly) htxNext (lastBlock_of_sent hsent)
  rw [hmsg] at hlast
  obtain ⟨hout, hframe, hpseq, hexchanged⟩ := exchange_sound (m := m) hsends (hlink ▸ hsent.txOnly)
  refine ⟨?_, hpseq, hexchanged, ?_⟩
  · rw [hframe]
    exact linkSends_trans hsends (linkOnly_linkSends (updLink_linkOnly _ _ _))
  unfold LastBlock at hlast ⊢
  rwa [hout]

/-- HELLO at a port in service: it is answered. -/
theorem helloIn_inService {p : Nat} (h : (getLink s p).state = .up ∨ (getLink s p).state = .retrain) (m : LinkMsg) :
    let t := helloIn s p m
    LinkSends s t p ∧ TxOnly (getLink t p) { getLink s p with echo := some m.fc } ∧
      LastBlock s t p tyLink (linkPayload subEcho (linkMsg s p subEcho false 0 m.fc)) := by
  have hgreet : ¬ greeting (getLink s p) = true := by rcases h with h | h <;> simp [greeting, h]
  have hserv : ((getLink s p).state == .up || (getLink s p).state == .retrain) = true := by simpa using h
  dsimp only
  rw [helloIn, if_neg hgreet, if_pos hserv]
  have honly := setLink_linkOnly s p { getLink s p with echo := some m.fc }
  have hlink := getLink_setLink_same s p { getLink s p with echo := some m.fc }
  generalize setLink s p { getLink s p with echo := some m.fc } = u at honly hlink ⊢
  have hsent := sendEcho_sent (e := m.fc) (by rw [hlink] : (getLink u p).echo = some m.fc)
  have hmsg : linkMsg u p subEcho false 0 m.fc = linkMsg s p subEcho false 0 m.fc :=
    linkMsg_of_same (linkSends_torus (linkOnly_linkSends honly)) (linkSends_fc (linkOnly_linkSends honly)) (by rw [hlink]) (by rw [hlink])
      (by rw [hlink]) _ _ _ _
  have hlast := lastBlock_of_linkOnly (linkOnly_linkSends honly) (by rw [hlink]) (lastBlock_of_sent hsent)
  rw [hmsg] at hlast
  exact ⟨linkSends_trans (linkOnly_linkSends honly) hsent.sends, hlink ▸ hsent.txOnly, hlast⟩

/-- Training that leaves a group in each half: HELLO leaves, with the groups in it. -/
theorem trained_sent (s : State) (p : Nat) (y : LinkSt) (hkept : y.accepted = (getLink s p).accepted) :
    let t := sendHello (setLink s p { y with state := .hello, txNext := 0, rxNext := 0, waiting := false, nakDue := false }) p
    LinkSends s t p ∧ (getLink t p).txGroups = y.txGroups ∧ (getLink t p).rxGroups = y.rxGroups ∧ (getLink t p).state = .hello ∧
      ∃ b lane, t.out.getLast? = some (.block p b lane) ∧ b.payload = linkPayload subHello { linkMsg s p subHello false 0 0 with
        groups := BitVec.ofNat 8 (y.txGroups + 16 * y.rxGroups) } := by
  dsimp only
  have honly := setLink_linkOnly s p { y with state := .hello, txNext := 0, rxNext := 0, waiting := false, nakDue := false }
  have hlink := getLink_setLink_same s p { y with state := .hello, txNext := 0, rxNext := 0, waiting := false, nakDue := false }
  generalize setLink s p { y with state := .hello, txNext := 0, rxNext := 0, waiting := false, nakDue := false } = u at honly hlink ⊢
  have hsent := sendHello_sent u p
  have hmsg : linkMsg u p subHello false 0 0 = { linkMsg s p subHello false 0 0 with groups := BitVec.ofNat 8 (y.txGroups + 16 * y.rxGroups) } := by
    have htorus := linkSends_torus (linkOnly_linkSends honly)
    have hfc := linkSends_fc (linkOnly_linkSends honly)
    rw [linkMsg, hlink, htorus, hfc, linkMsg, ← hkept]
  have htx := hsent.txOnly
  rw [hlink] at htx
  obtain ⟨b, lane, hlast, -, hpayload, -⟩ := hsent.last
  exact ⟨linkSends_trans (linkOnly_linkSends honly) hsent.sends, by rw [htx], by rw [htx], by rw [htx], b, lane, hlast, hpayload.trans (congrArg (linkPayload subHello) hmsg)⟩

theorem linkBringUp : Claims.LinkBringUp := by
  intro port s hport
  refine ⟨fun txBad rxBad hstate => ?training, fun txBad rxBad hstate => exec_trainingDone_off hport txBad rxBad hstate,
    fun hgreet => ⟨?timer, fun m => ?hello, fun m excess hlate => ?late, fun m excess hin => ?echo⟩, fun hserv m => ?answered,
    fun hgreet => ⟨?timerOff, fun m excess => exec_helloEcho_off hport m excess hgreet, fun hup hretrain m => ?helloOff⟩⟩
  case training =>
    by_cases hgroups : (retireLanes (getLink s port.toNat) txBad.toNat rxBad.toNat).txGroups = 0 ∨
      (retireLanes (getLink s port.toNat) txBad.toNat rxBad.toNat).rxGroups = 0
    · refine ⟨_, (exec_trainingDone hport txBad rxBad hstate).trans (if_pos hgroups), ?_⟩
      obtain ⟨honly, hlink⟩ := raiseLink_setLink s port.toNat
        { retireLanes (getLink s port.toNat) txBad.toNat rxBad.toNat with state := .lost } lfPortLost
      refine ⟨linkOnly_linkSends honly, by rw [hlink]; rfl, by rw [hlink]; rfl, fun _ => ⟨by rw [hlink], by rw [hlink]; rfl⟩, fun htx hrx => ?_⟩
      exact absurd hgroups (not_or.mpr ⟨htx, hrx⟩)
    · refine ⟨_, (exec_trainingDone hport txBad rxBad hstate).trans (if_neg hgroups), ?_⟩
      obtain ⟨hsends, htx, hrx, hhello, hlast⟩ :=
        trained_sent s port.toNat (retireLanes (getLink s port.toNat) txBad.toNat rxBad.toNat) rfl
      exact ⟨hsends, htx, hrx, fun hlost => absurd hlost hgroups, fun _ _ => ⟨hhello, hlast⟩⟩
  case timer =>
    refine ⟨_, exec_helloTimer hport, ?_⟩
    rw [if_pos hgreet]
    cases hecho : (getLink s port.toNat).echo with
    | none =>
      have hsent := sendHello_sent s port.toNat
      refine ⟨hsent.sends, hsent.txOnly, fun _ => lastBlock_of_sent hsent, fun e he => ?_⟩
      cases he
    | some e =>
      obtain ⟨hsends, htx, hlast⟩ := helloThenEcho_sent hecho
      refine ⟨hsends, htx, fun hnone => ?_, fun e' he => ?_⟩
      · cases hnone
      · cases he
        exact hlast
  case hello =>
    obtain ⟨hframe, hpseq, hexchanged, hlast⟩ := helloIn_greeting hgreet m
    refine ⟨_, exec_hello hport m, hframe, hpseq, hexchanged.partner, hexchanged.echo, hexchanged.accepted, hlast, hexchanged.up, ?_,
      hexchanged.kept, hexchanged.refused⟩
    intro hok hor
    dsimp only
    cases hm : m.mtch with
    | false => exact hexchanged.noMatch hok hm
    | true => exact hexchanged.waits hok hm (hor.resolve_left (by rw [hm]; decide))
  case late =>
    refine ⟨_, exec_helloEcho_late hport m hgreet hlate, ?_⟩
    obtain ⟨honly, hlink⟩ := raiseLink_setLink s port.toNat { getLink s port.toNat with state := .lost, chdly := min excess 255 } lfPortLost
    exact ⟨honly, by rw [hlink], by rw [hlink]⟩
  case echo =>
    obtain ⟨honly, hlink⟩ := checkPartner_noted s port.toNat m { getLink s port.toNat with chdly := excess, measured := true }
    have hcome := linkOnly_trans honly (updLink_linkOnly _ _ (settlePartner m))
    obtain ⟨-, hframe, hpseq, hexchanged⟩ := exchange_sound (m := m) (y := { getLink s port.toNat with chdly := excess, measured := true })
      (linkOnly_linkSends honly) (by rw [hlink]; exact txOnly_refl _)
    refine ⟨_, exec_helloEcho hport m hgreet hin, ?_, hpseq, hexchanged.chdly, hexchanged.measured, fun hok => ⟨?_, hexchanged.kept hok⟩, hexchanged.refused⟩
    · rw [hframe]
      exact hcome
    · dsimp only
      cases hm : m.mtch with
      | false => exact hexchanged.noMatch hok hm
      | true => exact (hexchanged.up hok hm rfl).1
  case answered =>
    obtain ⟨hsends, htx, hlast⟩ := helloIn_inService hserv m
    exact ⟨_, exec_hello hport m, hsends, htx, hlast⟩
  case timerOff => rw [exec_helloTimer hport, if_neg (by rw [hgreet]; decide)]
  case helloOff =>
    rw [exec_hello hport, helloIn, if_neg (by rw [hgreet]; decide), if_neg (by simp [hup, hretrain])]

end Sys2Proof.Machine
end

section
/-! PROOFS. The end of a lane test, and BREAK. -/

namespace Sys2Proof.Machine

open Sys2Proof.Claims

variable {port : PortNo} {s : State}

/-! ### A link that is lost -/

theorem loseLink_state (s : State) (p : Nat) : (getLink (loseLink s p) p).state = .lost := by
  have hlost : (getLink (raiseLink (updLink (dropUnacked s p) p (fun x => { x with state := .lost, accepted := false })) p lfPortLost) p).state = .lost := by
    rw [raiseLink, getLink_updLink_same, getLink_updLink_same]
  have hannounced := announceBreak_txOnly (raiseLink (updLink (dropUnacked s p) p (fun x => { x with state := .lost, accepted := false })) p lfPortLost) p p
  rw [loseLink, hannounced]
  exact hlost

/-- The recovery of the fault manager leaves the port lost. -/
theorem linkLoss_state (s : State) (p : Nat) : (getLink (linkLoss s p) p).state = .lost := by
  have hview : netView (linkLoss s p) = netView (loseLink s p) := (linkFault_netView _ _ _).trans (drainAll_netView _)
  rw [netView_state hview, loseLink_state]

/-! ### The end of a lane test -/

/-- Whether a lane test retires no lane. -/
def laneSpared (x : LinkSt) (txBad rxBad : Nat) : Bool :=
  decide ((retireLanes x txBad (rxBad ||| x.badLanes)).txRetired = x.txRetired) && decide ((retireLanes x txBad (rxBad ||| x.badLanes)).rxRetired = x.rxRetired)

/-- The retrains of the last second that retired no lane (R312). -/
def laneIdles (s : State) (x : LinkSt) : List Nat := (x.idle ++ [s.fc]).filter (fun t => decide (s.fc < t + 1200000000))

/-- A port whose lane test has ended, before its state is settled. -/
def laneTested (s : State) (x : LinkSt) (txBad rxBad : Nat) : LinkSt :=
  { retireLanes x txBad (rxBad ||| x.badLanes) with
    idle := if laneSpared x txBad rxBad then laneIdles s x else x.idle, badLanes := 0, attempts := 0, waiting := false, nakDue := false }

/-- Whether a lane test loses the link: a half without a group, or the third retrain within 1 s that retires no lane. -/
def laneLost (s : State) (x : LinkSt) (txBad rxBad : Nat) : Prop :=
  (laneTested s x txBad rxBad).txGroups = 0 ∨ (laneTested s x txBad rxBad).rxGroups = 0 ∨
    (laneSpared x txBad rxBad = true ∧ 3 ≤ (laneTested s x txBad rxBad).idle.length)

theorem laneSpared_iff {x : LinkSt} {txBad rxBad : Nat} :
    laneSpared x txBad rxBad = true ↔ x.txRetired ||| txBad = x.txRetired ∧ x.rxRetired ||| (rxBad ||| x.badLanes) = x.rxRetired := by
  rw [laneSpared, Bool.and_eq_true, decide_eq_true_iff, decide_eq_true_iff]
  rfl

/-- The lanes and groups of a port after its lane test. -/
theorem laneTested_lanes (s : State) (x : LinkSt) (txBad rxBad : Nat) :
    (laneTested s x txBad rxBad).txRetired = x.txRetired ||| txBad ∧
      (laneTested s x txBad rxBad).rxRetired = x.rxRetired ||| (rxBad ||| x.badLanes) ∧
      (laneTested s x txBad rxBad).txGroups = groupsOf (x.txRetired ||| txBad) ∧
      (laneTested s x txBad rxBad).rxGroups = groupsOf (x.rxRetired ||| (rxBad ||| x.badLanes)) ∧ (laneTested s x txBad rxBad).rxNext = x.rxNext :=
  ⟨rfl, rfl, rfl, rfl, rfl⟩

/-- A port that its lane test leaves in service again: HELLO leaves, and what was not acknowledged is sent again. -/
def laneResumed (s : State) (p : Nat) (y : LinkSt) : State :=
  drainAll (if y.unacked.isEmpty then sendHello s p else resendFrom (sendHello s p) p y.unacked)

theorem laneResumed_view (s : State) (p : Nat) (y : LinkSt) : netView (laneResumed s p y) = netView s ∧ NetOnly s (laneResumed s p y) := by
  have hsent : netView (sendHello s p) = netView s ∧ NetOnly s (sendHello s p) := ⟨sendLink_netView _ _ _ _, putBlock_netOnly _ _ _ _ _⟩
  obtain ⟨hview, hnet⟩ := hsent
  unfold laneResumed
  generalize sendHello s p = u at hview hnet ⊢
  split
  · exact ⟨(drainAll_netView _).trans hview, hnet.trans (drainAll_netOnly _)⟩
  · exact ⟨(drainAll_netView _).trans ((resendFrom_netView _ _ _).trans hview), hnet.trans ((resendFrom_netOnly _ _ _).trans (drainAll_netOnly _))⟩

theorem exec_laneTestEnd_off (hport : port.toNat < 6) (txBad rxBad : Word) (h : (getLink s port.toNat).state ≠ .retrain) :
    exec (.laneTestEnd port txBad rxBad) s = .next s := by
  refine Eq.trans (b := execLaneTestEnd port txBad rxBad s) rfl ?_
  rw [execLaneTestEnd, atLink_of_port hport, if_pos h]

/-- The state in which a port resumes: UP, and a retired lane is a fault of class LANE. -/
def laneSettled (s : State) (p : Nat) (y : LinkSt) (spared : Bool) : State :=
  let u := recordAck (setLink s p { y with state := .up }) p
  if spared then u else recordFault u fcLane dtWale sFaultCovered (linkDie p)

theorem exec_laneTestEnd_lost (hport : port.toNat < 6) (txBad rxBad : Word) (h : (getLink s port.toNat).state = .retrain)
    (hlost : laneLost s (getLink s port.toNat) txBad.toNat rxBad.toNat) :
    exec (.laneTestEnd port txBad rxBad) s =
      .next (linkLoss (setLink s port.toNat (laneTested s (getLink s port.toNat) txBad.toNat rxBad.toNat)) port.toNat) := by
  refine Eq.trans (b := execLaneTestEnd port txBad rxBad s) rfl ?_
  rw [execLaneTestEnd, atLink_of_port hport, if_neg (not_not_intro h)]
  exact if_pos hlost

theorem exec_laneTestEnd_resumed (hport : port.toNat < 6) (txBad rxBad : Word) (h : (getLink s port.toNat).state = .retrain)
    (hkept : ¬ laneLost s (getLink s port.toNat) txBad.toNat rxBad.toNat) :
    let y := laneTested s (getLink s port.toNat) txBad.toNat rxBad.toNat
    exec (.laneTestEnd port txBad rxBad) s =
      .next (laneResumed (laneSettled s port.toNat y (laneSpared (getLink s port.toNat) txBad.toNat rxBad.toNat)) port.toNat y) := by
  refine Eq.trans (b := execLaneTestEnd port txBad rxBad s) rfl ?_
  rw [execLaneTestEnd, atLink_of_port hport, if_neg (not_not_intro h)]
  exact if_neg hkept

theorem laneSettled_view (s : State) (p : Nat) (y : LinkSt) (spared : Bool) :
    netView (laneSettled s p y spared) = netView (setLink s p { y with state := .up }) := by
  unfold laneSettled
  dsimp only
  split
  · exact recordAck_netView _ _
  · exact (recordFault_netView _ _ _ _ _).trans (recordAck_netView _ _)

/-- A port in service again: everything of it that a block sent does not move is as the lane test left it. -/
theorem laneResumed_link (s : State) (p : Nat) (y : LinkSt) (spared : Bool) :
    atRest (getLink (laneResumed (laneSettled s p y spared) p y) p) = atRest { y with state := .up } := by
  have hview := (laneResumed_view (laneSettled s p y spared) p y).1.trans (laneSettled_view s p y spared)
  have hlink := netView_link hview p
  rwa [getLink_setLink_same] at hlink

/-- What the resumed port shows of `y`. -/
theorem laneResumed_shows (s : State) (p : Nat) (y : LinkSt) (spared : Bool) :
    let z := getLink (laneResumed (laneSettled s p y spared) p y) p
    z.state = .up ∧ z.txRetired = y.txRetired ∧ z.rxRetired = y.rxRetired ∧ z.txGroups = y.txGroups ∧ z.rxGroups = y.rxGroups ∧
      z.rxNext = y.rxNext ∧ z.idle = y.idle := by
  have hlink := laneResumed_link s p y spared
  dsimp only
  generalize getLink (laneResumed (laneSettled s p y spared) p y) p = z at hlink ⊢
  have hstate := congrArg LinkSt.state hlink
  have htx := congrArg LinkSt.txRetired hlink
  have hrx := congrArg LinkSt.rxRetired hlink
  have htxGroups := congrArg LinkSt.txGroups hlink
  have hrxGroups := congrArg LinkSt.rxGroups hlink
  have hnext := congrArg LinkSt.rxNext hlink
  have hidle := congrArg LinkSt.idle hlink
  exact ⟨hstate, htx, hrx, htxGroups, hrxGroups, hnext, hidle⟩

theorem laneSettled_fault (s : State) (p : Nat) (y : LinkSt) :
    (laneSettled s p y false).fault.cls = fcLane ∧ (laneSettled s p y true).fault = s.fault := by
  refine ⟨?_, ?_⟩
  · show (recordFault _ fcLane dtWale sFaultCovered (linkDie p)).fault.cls = fcLane
    rw [recordFault, logEvent, updHandle]
    rfl
  · show (recordAck _ p).fault = s.fault
    rw [recordAck_frame]
    rfl

theorem laneResumed_fault (s : State) (p : Nat) (y : LinkSt) : (laneResumed s p y).fault = s.fault := by
  rw [(laneResumed_view s p y).2]

/-! ### BREAK -/

theorem torus_of_netView {s t : State} (h : netView t = netView s) : t.torus.mode = s.torus.mode ∧ t.torus.brk = s.torus.brk := by
  have htorus := congrArg Prod.snd h
  have hmode := congrArg TorusSt.mode htorus
  have hbrk := congrArg TorusSt.brk htorus
  exact ⟨hmode, hbrk⟩

theorem exec_breakBlock (hport : port.toNat < 6) (m : LinkMsg) : exec (.breakBlock port m) s = .next (breakIn s port.toNat m) := by
  refine Eq.trans (b := execBreakBlock port m s) rfl ?_
  rw [execBreakBlock, atLink_of_port hport]

/-- BREAK of another link, or at a port that is not in service: the axis's mode changes, and BREAK goes on. -/
theorem breakIn_other {p : Nat} {m : LinkMsg}
    (h : ¬ (m.port.toNat % 4 = portAxis p ∧ m.brk.toNat % 2 ^ 15 = breakCoord s p) ∨ ((getLink s p).state ≠ .up ∧ (getLink s p).state ≠ .retrain)) :
    breakIn s p m = drainAll (sendBreak (ringBreak s (m.port.toNat % 4) m.brk.toNat) (portOf (portAxis p) (!portNeg p)) m.brk.toNat) := by
  refine if_neg ?_
  simp only [Bool.and_eq_true, Bool.or_eq_true, beq_iff_eq]
  rintro ⟨hown, hserv⟩
  rcases h with h | ⟨hup, hretrain⟩
  · exact h hown
  · exact hserv.elim hup hretrain

theorem breakIn_own {p : Nat} {m : LinkMsg} (hown : m.port.toNat % 4 = portAxis p ∧ m.brk.toNat % 2 ^ 15 = breakCoord s p)
    (hserv : (getLink s p).state = .up ∨ (getLink s p).state = .retrain) : breakIn s p m = linkLoss s p := by
  refine if_pos ?_
  simp only [Bool.and_eq_true, Bool.or_eq_true, beq_iff_eq]
  exact ⟨hown, hserv⟩

theorem laneTestAndBreak : Claims.LaneTestAndBreak := by
  intro port s hport
  refine ⟨fun txBad rxBad h => exec_laneTestEnd_off hport txBad rxBad h, fun txBad rxBad h =>
    ⟨fun htx hrx hretired => ?retired, fun htx hrx htxKept hrxKept hfew => ?spared, fun htxKept hrxKept hmany => ?third, fun hgroups => ?dark⟩,
    fun m => ⟨fun hother => ?other, fun hown hserv => ?own⟩⟩
  case retired =>
    have hspared : laneSpared (getLink s port.toNat) txBad.toNat rxBad.toNat = false := by
      rw [← Bool.not_eq_true, laneSpared_iff, not_and_or]
      exact hretired
    obtain ⟨htxR, hrxR, htxG, hrxG, hnext⟩ := laneTested_lanes s (getLink s port.toNat) txBad.toNat rxBad.toNat
    have hkept : ¬ laneLost s (getLink s port.toNat) txBad.toNat rxBad.toNat := by
      rw [laneLost, htxG, hrxG, hspared]
      rintro (hlost | hlost | ⟨hlost, -⟩)
      · exact htx hlost
      · exact hrx hlost
      · exact absurd hlost Bool.false_ne_true
    refine ⟨_, exec_laneTestEnd_resumed hport txBad rxBad h hkept, ?_⟩
    rw [hspared]
    obtain ⟨hup, htxS, hrxS, htxGS, hrxGS, hnextS, -⟩ :=
      laneResumed_shows s port.toNat (laneTested s (getLink s port.toNat) txBad.toNat rxBad.toNat) false
    refine ⟨hup, htxS.trans htxR, hrxS.trans hrxR, htxGS.trans htxG, hrxGS.trans hrxG, hnextS.trans hnext, ?_⟩
    rw [laneResumed_fault]
    exact (laneSettled_fault _ _ _).1
  case spared =>
    have hspared : laneSpared (getLink s port.toNat) txBad.toNat rxBad.toNat = true := laneSpared_iff.mpr ⟨htxKept, hrxKept⟩
    have hidle : (laneTested s (getLink s port.toNat) txBad.toNat rxBad.toNat).idle = laneIdles s (getLink s port.toNat) := if_pos hspared
    obtain ⟨-, -, htxG, hrxG, hnext⟩ := laneTested_lanes s (getLink s port.toNat) txBad.toNat rxBad.toNat
    have hkept : ¬ laneLost s (getLink s port.toNat) txBad.toNat rxBad.toNat := by
      rw [laneLost, htxG, hrxG, hidle]
      rintro (hlost | hlost | ⟨-, hlost⟩)
      · exact htx hlost
      · exact hrx hlost
      · exact absurd hlost (Nat.not_le.mpr hfew)
    refine ⟨_, exec_laneTestEnd_resumed hport txBad rxBad h hkept, ?_⟩
    rw [hspared]
    obtain ⟨hup, -, -, -, -, hnextS, hidleS⟩ :=
      laneResumed_shows s port.toNat (laneTested s (getLink s port.toNat) txBad.toNat rxBad.toNat) true
    refine ⟨hup, hidleS.trans hidle, hnextS.trans hnext, ?_⟩
    rw [laneResumed_fault, (laneSettled_fault _ _ _).2]
  case third =>
    have hspared : laneSpared (getLink s port.toNat) txBad.toNat rxBad.toNat = true := laneSpared_iff.mpr ⟨htxKept, hrxKept⟩
    have hidle : (laneTested s (getLink s port.toNat) txBad.toNat rxBad.toNat).idle = laneIdles s (getLink s port.toNat) := if_pos hspared
    exact ⟨_, exec_laneTestEnd_lost hport txBad rxBad h (.inr (.inr ⟨hspared, by rw [hidle]; exact hmany⟩)), linkLoss_state _ _⟩
  case dark =>
    obtain ⟨-, -, htxG, hrxG, -⟩ := laneTested_lanes s (getLink s port.toNat) txBad.toNat rxBad.toNat
    have hlost : laneLost s (getLink s port.toNat) txBad.toNat rxBad.toNat := by
      rw [laneLost, htxG, hrxG]
      exact hgroups.imp id .inl
    exact ⟨_, exec_laneTestEnd_lost hport txBad rxBad h hlost, linkLoss_state _ _⟩
  case other =>
    refine ⟨_, exec_breakBlock hport m, ?_⟩
    rw [breakIn_other hother]
    have hcores : (ringBreak s (m.port.toNat % 4) m.brk.toNat).cores = s.cores := by rw [ringBreak_frame]
    generalize ringBreak s (m.port.toNat % 4) m.brk.toNat = u at hcores ⊢
    generalize portOf (portAxis port.toNat) (!portNeg port.toNat) = q
    have hview : netView (drainAll (sendBreak u q m.brk.toNat)) = netView u := (drainAll_netView _).trans (sendBreak_netView _ _ _)
    have hnet : NetOnly u (drainAll (sendBreak u q m.brk.toNat)) := (sendBreak_netOnly _ _ _).trans (drainAll_netOnly _)
    obtain ⟨hmode, hbrk⟩ := torus_of_netView hview
    exact ⟨hmode, hbrk, by rw [hnet, hcores]⟩
  case own =>
    refine ⟨_, exec_breakBlock hport m, ?_⟩
    rw [breakIn_own hown hserv]
    exact linkLoss_state _ _

end Sys2Proof.Machine

open Sys2Proof.Machine

/-- Settles O24: the exchange is one check and one settling of the port, and what is sent, drained or recovered keeps a port as its lane test left it. -/
theorem linkTrainingAndBreaks : Obligations.LinkTrainingAndBreaks := ⟨linkBringUp, laneTestAndBreak⟩
end

section
/-! PROOFS. Management over the BMC interface: sessions, provisioning and the event log as read. -/

namespace Sys2Proof.Machine

open Sys2Proof.Claims

/-! ### What is served, and in which session -/

variable {s : State}

theorem inSecured_down (h : mgmtUp s = false) (k : State → State) : inSecured s k = .next s := if_pos (by rw [h]; rfl)

theorem inSecured_refused (hup : mgmtUp s = true) (h : secured s = false) (k : State → State) : inSecured s k = .next (replies s sNoSession []) := by
  rw [inSecured, if_neg (by rw [hup]; decide), if_pos (by rw [h]; rfl)]
  rfl

theorem inSecured_served (hup : mgmtUp s = true) (h : secured s = true) (k : State → State) : inSecured s k = .next (k s) := by
  rw [inSecured, if_neg (by rw [hup]; decide), if_neg (by rw [h]; decide)]

theorem inMgmt_down (h : mgmtUp s = false) (k : State → State) : inMgmt s k = .next s := if_pos (by rw [h]; rfl)

theorem inMgmt_refused (hup : mgmtUp s = true) (h : mgmtOpen s = false) (k : State → State) : inMgmt s k = .next (replies s sNoSession []) := by
  rw [inMgmt, if_neg (by rw [hup]; decide), if_pos (by rw [h]; rfl)]
  rfl

theorem inMgmt_served (hup : mgmtUp s = true) (h : mgmtOpen s = true) (k : State → State) : inMgmt s k = .next (k s) := by
  rw [inMgmt, if_neg (by rw [hup]; decide), if_neg (by rw [h]; decide)]

/-- A session that is secured, or is not. -/
theorem secured_of_spdm {p : SpdmSt} (h : s.handle.spdm = some p) : secured s = p.secured := by
  rw [secured, h]
  rfl

/-! ### Sessions that close with a key entry or a password (R407) -/

/-- A session and a command in progress, as `closeWhere` meets them. -/
def closeOne (pick : FnSt → Bool) (pickCmd : MbCmd → Bool) (s : State) (k : Nat) : State :=
  let f := getFn s k
  let s := if f.mbState == .opened && pick f then closeSession s k else s
  if f.cmd.any pickCmd then updFn s k (fun f => { f with cmd := f.cmd.map (fun c => { c with thenClose := true }) }) else s

theorem closeWhere_eq (s : State) (pick : FnSt → Bool) (pickCmd : MbCmd → Bool) :
    closeWhere s pick pickCmd = (s.fns.map (·.1)).foldl (closeOne pick pickCmd) s := by
  rw [List.foldl_map]
  rfl

theorem closeSession_other {k j : Nat} (h : j ≠ k) : getFn (closeSession s k) j = getFn s j := by
  by_cases hopen : (getFn s k).mbState = .opened
  · rw [getFn_closeSession hopen, closingFn, getFn_updFn_other _ _ _ _ h]
  · rw [closeSession, if_neg (by simpa using hopen)]

theorem closeOne_other {k j : Nat} (h : j ≠ k) (pick : FnSt → Bool) (pickCmd : MbCmd → Bool) : getFn (closeOne pick pickCmd s k) j = getFn s j := by
  have hclosed : getFn (if (getFn s k).mbState == .opened && pick (getFn s k) then closeSession s k else s) j = getFn s j := by
    split
    · exact closeSession_other h
    · rfl
  unfold closeOne
  dsimp only
  split
  · rw [getFn_updFn_other _ _ _ _ h, hclosed]
  · exact hclosed

theorem closeOne_state (pick : FnSt → Bool) (pickCmd : MbCmd → Bool) (k : Nat) :
    (getFn (closeOne pick pickCmd s k) k).mbState =
      if (getFn s k).mbState = .opened ∧ pick (getFn s k) = true then .closing else (getFn s k).mbState := by
  have hclosed : (getFn (if (getFn s k).mbState == .opened && pick (getFn s k) then closeSession s k else s) k).mbState =
      if (getFn s k).mbState = .opened ∧ pick (getFn s k) = true then .closing else (getFn s k).mbState := by
    by_cases h : (getFn s k).mbState = .opened ∧ pick (getFn s k) = true
    · rw [if_pos h, if_pos (by simpa using h), getFn_closeSession h.1, closingFn, getFn_updFn_same]
    · rw [if_neg h, if_neg (by simpa using h)]
  unfold closeOne
  dsimp only
  split
  · rw [getFn_updFn_same]
    exact hclosed
  · exact hclosed

/-- A picked session of the list closes, and one that closes goes on. -/
theorem foldl_closeOne_closing (pick : FnSt → Bool) (pickCmd : MbCmd → Bool) (ks : List Nat) {s : State} {k : Nat}
    (h : (k ∈ ks ∧ (getFn s k).mbState = .opened ∧ pick (getFn s k) = true) ∨ (getFn s k).mbState = .closing) :
    (getFn (ks.foldl (closeOne pick pickCmd) s) k).mbState = .closing := by
  induction ks generalizing s with
  | nil => exact h.resolve_left fun hmem => List.not_mem_nil hmem.1
  | cons j ks ih =>
    refine ih ?_
    by_cases hj : k = j
    · subst hj
      rw [closeOne_state]
      rcases h with ⟨-, hpicked⟩ | hclosing
      · exact .inr (if_pos hpicked)
      · exact .inr (by rw [hclosing]; exact if_neg fun hopen => by simp at hopen)
    · rw [closeOne_other hj]
      exact h.imp_left fun ⟨hmem, hpicked⟩ => ⟨List.mem_of_ne_of_mem hj hmem, hpicked⟩

theorem closeWhere_closes (s : State) (pick : FnSt → Bool) (pickCmd : MbCmd → Bool) : Closes s (closeWhere s pick pickCmd) pick := by
  intro k hlisted hopen hpick
  rw [closeWhere_eq]
  refine foldl_closeOne_closing pick pickCmd _ (.inl ⟨?_, hopen, hpick⟩)
  obtain ⟨e, he, hkey⟩ := List.any_eq_true.mp hlisted
  exact List.mem_map.mpr ⟨e, he, beq_iff_eq.mp hkey⟩

/-- What closing sessions leaves: Handle, the output and the draws. -/
def mgmtView (s : State) : HandleSt × List Output × Nat := (s.handle, s.out, s.draws)

theorem closeSession_mgmtView (s : State) (k : Nat) : mgmtView (closeSession s k) = mgmtView s := by
  by_cases hopen : (getFn s k).mbState = .opened
  · have hoff : mgmtView (closingOff s k) = mgmtView s := by
      rw [mgmtView, (closingOff_ringsOf s k).frame]
      rfl
    rw [closeSession_opened hopen, ← hoff, mgmtView, (foldl_runWork _ settleCollect_runWork _ (closingOff s k)).frame]
    rfl
  · rw [closeSession, if_neg (by simpa using hopen)]

theorem closeOne_mgmtView (pick : FnSt → Bool) (pickCmd : MbCmd → Bool) (s : State) (k : Nat) : mgmtView (closeOne pick pickCmd s k) = mgmtView s := by
  have hclosed : mgmtView (if (getFn s k).mbState == .opened && pick (getFn s k) then closeSession s k else s) = mgmtView s := by
    split
    · exact closeSession_mgmtView s k
    · rfl
  unfold closeOne
  dsimp only
  split
  · exact hclosed
  · exact hclosed

theorem closeWhere_mgmtView (s : State) (pick : FnSt → Bool) (pickCmd : MbCmd → Bool) : mgmtView (closeWhere s pick pickCmd) = mgmtView s := by
  rw [closeWhere_eq]
  generalize s.fns.map (·.1) = ks
  induction ks generalizing s with
  | nil => rfl
  | cons k ks ih => rw [List.foldl_cons, ih, closeOne_mgmtView]

/-- `t` differs from `s` in functions and rings alone. -/
def FnsAndRings (s t : State) : Prop := t = { s with fns := t.fns, rings := t.rings }

theorem FnsAndRings.trans {s t u : State} (hst : FnsAndRings s t) (htu : FnsAndRings t u) : FnsAndRings s u := by
  unfold FnsAndRings at *
  rw [htu, hst]

theorem FnsAndRings.collecting {s t : State} (h : FnsAndRings s t) (r : Nat) : collecting t r = collecting s r := by
  rw [h]
  rfl

/-- Where no RUN collects its entries, a session that closes touches functions and rings alone. -/
theorem closeOne_free (pick : FnSt → Bool) (pickCmd : MbCmd → Bool) {s : State} (h : ∀ r, collecting s r = none) (k : Nat) :
    FnsAndRings s (closeOne pick pickCmd s k) := by
  have hclosed : FnsAndRings s (if (getFn s k).mbState == .opened && pick (getFn s k) then closeSession s k else s) := by
    split
    next hpicked =>
      have hopen : (getFn s k).mbState = .opened := by
        rw [Bool.and_eq_true, beq_iff_eq] at hpicked
        exact hpicked.1
      exact (closeSession_frame hopen fun r _ => h r).1
    · rfl
  unfold closeOne
  dsimp only
  split
  · exact hclosed.trans rfl
  · exact hclosed

theorem closeWhere_free (pick : FnSt → Bool) (pickCmd : MbCmd → Bool) {s : State} (h : ∀ r, collecting s r = none) :
    FnsAndRings s (closeWhere s pick pickCmd) := by
  rw [closeWhere_eq]
  generalize s.fns.map (·.1) = ks
  induction ks generalizing s with
  | nil => rfl
  | cons k ks ih =>
    have hone := closeOne_free pick pickCmd h k
    exact hone.trans (ih fun r => (hone.collecting r).trans (h r))

/-! ### Records -/

/-- An entry of the event log that is not reported (R404). -/
theorem logEvent_quiet (s : State) {src code die sev : Nat} {args : List Byte} (h : sev ≠ 2) : logEvent s src code die sev args =
    { s with handle := { s.handle with log := keepLast 32768 (s.handle.log ++ [newEntry s src code die sev args]), nextSeq := s.handle.nextSeq + 1 } } := by
  rw [logEvent_handle_only _ _ _ _ _ _ h, logEvent_handle]

/-- The same where the log itself does not matter. -/
theorem logEvent_logged (s : State) {src code die sev : Nat} {args : List Byte} (h : sev ≠ 2) :
    ∃ log, logEvent s src code die sev args = { s with handle := { s.handle with log := log, nextSeq := s.handle.nextSeq + 1 } } :=
  ⟨_, logEvent_quiet s h⟩

/-! ### Secured sessions (R405) -/

theorem managementServed_not (h : mgmtUp s = false) (id : BitVec 16) (v : Bool) (chain : List Byte) (eid : Byte) (mac key : BitVec 256) :
    exec (.keyExchange id) s = .next s ∧ exec (.finish v) s = .next s ∧ exec .endSession s = .next s ∧ exec (.setEndpointId eid) s = .next s ∧
    exec (.setCertificate chain) s = .next s ∧ exec .mgChallenge s = .next s ∧ exec (.mgAuth mac) s = .next s ∧ exec (.mgOwn key) s = .next s := by
  have hdown : (!mgmtUp s) = true := by rw [h]; rfl
  refine ⟨if_pos hdown, if_pos hdown, if_pos hdown, if_pos hdown, if_pos hdown, ?_, ?_, ?_⟩
  · show execMgChallenge s = _
    exact inSecured_down h _
  · show execMgAuth mac s = _
    exact inSecured_down h _
  · show execMgOwn key s = _
    exact inSecured_down h _

/-- A request of the BMC that answers once the target is up. -/
theorem bmcServed (hup : mgmtUp s = true) (t u : Res) : (if !mgmtUp s then t else u) = u := if_neg (by rw [hup]; decide)

theorem exec_keyExchange_busy (hup : mgmtUp s = true) (h : mgmtOpen s = true) (id : BitVec 16) :
    exec (.keyExchange id) s = .next (answers s false) := (bmcServed hup _ _).trans (if_pos h)

/-- The session that KEY_EXCHANGE begins. -/
def exchanged (s : State) (id : BitVec 16) : SpdmSt := { sid := id.toNat + 2 ^ 16 * ofBytesLE ((List.range 2).map (Config.randomByte s.draws)) }

theorem exec_keyExchange (hup : mgmtUp s = true) (h : mgmtOpen s = false) (id : BitVec 16) : exec (.keyExchange id) s =
    .next (answers { s with handle := { s.handle with spdm := some (exchanged s id) }, draws := s.draws + 1 } true) :=
  (bmcServed hup _ _).trans (if_neg (by rw [h]; decide))

theorem exec_finish_true (hup : mgmtUp s = true) {p : SpdmSt} (hp : s.handle.spdm = some p) (h : p.secured = false) :
    exec (.finish true) s = .next (answers { s with handle := { s.handle with spdm := some { p with secured := true } } } true) := by
  refine (bmcServed hup _ _).trans ((if_pos (by simp [hp, h])).trans ?_)
  rw [updSpdm, updHandle, hp]
  rfl

theorem exec_finish_refused (hup : mgmtUp s = true) {v : Bool} (h : (v && s.handle.spdm.any (fun p => !p.secured)) = false) :
    exec (.finish v) s = .next (answers s false) :=
  (bmcServed hup _ _).trans (if_neg (by rw [h]; decide))

theorem notFinishing_of {v : Bool} (h : s.handle.spdm = none ∨ secured s = true) : (v && s.handle.spdm.any (fun p => !p.secured)) = false := by
  rcases h with h | h
  · simp [h]
  · cases hp : s.handle.spdm with
    | none => simp
    | some p =>
      have hsec : p.secured = true := (secured_of_spdm hp).symm.trans h
      simp [hsec]

/-! ### MG_CHALLENGE, MG_AUTH and MG_OWN (R405, R406) -/

theorem updSpdm_some {p : SpdmSt} (hp : s.handle.spdm = some p) (g : SpdmSt → SpdmSt) :
    updSpdm s g = { s with handle := { s.handle with spdm := some (g p) } } := by
  rw [updSpdm, updHandle, hp]
  rfl

theorem exec_mgChallenge (hup : mgmtUp s = true) {p : SpdmSt} (hp : s.handle.spdm = some p) (hsec : p.secured = true) :
    let nonce := (List.range 32).map (Config.randomByte s.draws)
    exec .mgChallenge s = .next (replies { s with
      handle := { s.handle with spdm := some { p with nonce := some nonce } }, draws := s.draws + 1 } sSuccess nonce) := by
  show execMgChallenge s = _
  rw [execMgChallenge, inSecured_served hup ((secured_of_spdm hp).trans hsec)]
  dsimp only
  rw [updSpdm_some (p := p) (show (drawBytes s 32).2.handle.spdm = some p from hp)]
  rfl

theorem exec_mgAuth (hup : mgmtUp s = true) {p : SpdmSt} (hp : s.handle.spdm = some p) (hsec : p.secured = true) (mac : BitVec 256) :
    exec (.mgAuth mac) s = .next (mgAuth s p (bytesLE 32 mac.toNat)) := by
  show execMgAuth mac s = _
  rw [execMgAuth, inSecured_served hup ((secured_of_spdm hp).trans hsec), hp]

section
variable {p : SpdmSt} {mac : List Byte}

theorem mgAuth_lockedOut (hp : s.handle.spdm = some p) (hkey : s.handle.mkey.isSome = true) (hlock : (getLock s lockMkey).locked = true) :
    mgAuth s p mac = replies { s with handle := { s.handle with spdm := some { p with nonce := none } } } sAuthLocked [] := by
  unfold mgAuth
  dsimp only
  rw [if_pos (by rw [hkey, hlock]; rfl), updSpdm_some hp]
  rfl

theorem notLockedOut_of (h : s.handle.mkey = none ∨ (getLock s lockMkey).locked = false) :
    ¬ (s.handle.mkey.isSome && (getLock s lockMkey).locked) = true := by
  rcases h with h | h <;> simp [h]

theorem mgAuth_expired (hlock : s.handle.mkey = none ∨ (getLock s lockMkey).locked = false) (hnonce : p.nonce = none) :
    mgAuth s p mac = replies s sAuthExpired [] := by
  unfold mgAuth
  dsimp only
  rw [if_neg (notLockedOut_of hlock), hnonce]
  rfl

variable {n k : List Byte} (hp : s.handle.spdm = some p) (hlock : (getLock s lockMkey).locked = false) (hnonce : p.nonce = some n)
  (hkey : s.handle.mkey = some k)
include hp hlock hnonce hkey

/-- The state once the nonce is consumed, and what is evaluated with it. -/
theorem mgAuth_evaluates : mgAuth s p mac =
    let u : State := { s with handle := { s.handle with spdm := some { p with nonce := none } } }
    if hmac k ([0x03] ++ bytesLE 4 p.sid ++ n) = mac then
      mgmtReply (updSpdm (setLock u lockMkey (passLock (getLock s lockMkey))) (fun p => { p with auth := true })) sSuccess []
    else
      mgmtReply (updHandle (logEvent (setLock u lockMkey (failLock (getLock s lockMkey))) lgAuth sAuthFail 0xFF 1 [])
        (fun h => { h with spdm := none })) sAuthFail [] := by
  unfold mgAuth
  dsimp only
  rw [if_neg (notLockedOut_of (.inr hlock)), hnonce]
  dsimp only
  rw [updSpdm_some hp]
  dsimp only
  rw [hkey]

theorem mgAuth_passes (hmac : hmac k ([0x03] ++ bytesLE 4 p.sid ++ n) = mac) :
    let t := mgAuth s p mac
    t = replies { s with handle := { s.handle with spdm := some { p with nonce := none, auth := true }, locks := t.handle.locks } } sSuccess [] ∧
      getLock t lockMkey = passLock (getLock s lockMkey) := by
  dsimp only
  rw [mgAuth_evaluates hp hlock hnonce hkey]
  dsimp only
  rw [if_pos hmac, updSpdm_some (p := { p with nonce := none }) rfl]
  exact ⟨rfl, mget_mset_same _ _ _ _⟩

theorem mgAuth_fails (hmac : hmac k ([0x03] ++ bytesLE 4 p.sid ++ n) ≠ mac) :
    let t := mgAuth s p mac
    t.handle.spdm = none ∧ getLock t lockMkey = failLock (getLock s lockMkey) ∧ t.handle.nextSeq = s.handle.nextSeq + 1 ∧
      t.out = s.out ++ [.mgmt sAuthFail []] := by
  dsimp only
  rw [mgAuth_evaluates hp hlock hnonce hkey]
  dsimp only
  rw [if_neg hmac]
  obtain ⟨log, hlog⟩ := logEvent_logged (setLock { s with handle := { s.handle with spdm := some { p with nonce := none } } } lockMkey
    (failLock (getLock s lockMkey))) (src := lgAuth) (code := sAuthFail) (die := 0xFF) (args := []) (by decide : (1 : Nat) ≠ 2)
  rw [hlog]
  exact ⟨rfl, mget_mset_same _ _ _ _, rfl, rfl⟩

end

/-- MG_OWN once MKEY may be set: on an owned device everything of the owner's is erased first. -/
theorem exec_mgOwn (hup : mgmtUp s = true) (hsec : secured s = true) (hown : s.handle.ownN = false) (key : BitVec 256) :
    exec (.mgOwn key) s = .next (mgmtReply (logKeyStore (updHandle (if s.handle.mkey.isSome then
      closeWhere (updHandle s (fun h => { h with keys := [], verifier := none, cert := [] })) (fun _ => true) (fun c => c.op == mbProve || c.op == mbPassword)
      else s) (fun h => { h with mkey := some (bytesLE 32 key.toNat) })) []) sSuccess []) := by
  show execMgOwn key s = _
  rw [execMgOwn, inSecured_served hup hsec, if_neg (by rw [hown]; decide)]

theorem exec_mgOwn_denied (hup : mgmtUp s = true) (hsec : secured s = true) (hown : s.handle.ownN = true) (key : BitVec 256) :
    exec (.mgOwn key) s = .next (replies s sRoleDenied []) := by
  show execMgOwn key s = _
  rw [execMgOwn, inSecured_served hup hsec, if_pos hown]
  rfl

/-- A session that closes is not opened again by an entry of the event log or an answer. -/
theorem closes_of_fns {s t u : State} {pick : FnSt → Bool} (h : Closes s t pick) (hfns : u.fns = t.fns) : Closes s u pick := by
  intro k hlisted hopen hpick
  rw [getFn_of_fns hfns]
  exact h k hlisted hopen hpick

theorem logKeyStore_quiet (s : State) (args : List Byte) : logKeyStore s args =
    { s with handle := { s.handle with log := keepLast 32768 (s.handle.log ++ [newEntry s lgProvision 0 0xFF 0 args]), nextSeq := s.handle.nextSeq + 1 } } :=
  logEvent_quiet s (by decide)

theorem mgmtView_handle {s t : State} (h : mgmtView t = mgmtView s) : t.handle = s.handle ∧ t.out = s.out ∧ t.draws = s.draws := by
  simpa [mgmtView] using h

/-- MG_OWN on an owned device. -/
theorem owned_sound (s : State) (key : BitVec 256) :
    let u := closeWhere (updHandle s (fun h => { h with keys := [], verifier := none, cert := [] })) (fun _ => true) (fun c => c.op == mbProve || c.op == mbPassword)
    let t := mgmtReply (logKeyStore (updHandle u (fun h => { h with mkey := some (bytesLE 32 key.toNat) })) []) sSuccess []
    t.handle.mkey = some (bytesLE 32 key.toNat) ∧ t.handle.keys = [] ∧ t.handle.verifier = none ∧ t.handle.cert = [] ∧ Closes s t (fun _ => true) := by
  have hcloses := closeWhere_closes (updHandle s (fun h => { h with keys := [], verifier := none, cert := [] })) (fun _ => true)
    (fun c => c.op == mbProve || c.op == mbPassword)
  obtain ⟨hhandle, -, -⟩ := mgmtView_handle (closeWhere_mgmtView (updHandle s (fun h => { h with keys := [], verifier := none, cert := [] })) (fun _ => true)
    (fun c => c.op == mbProve || c.op == mbPassword))
  dsimp only
  generalize closeWhere (updHandle s (fun h => { h with keys := [], verifier := none, cert := [] })) (fun _ => true)
    (fun c => c.op == mbProve || c.op == mbPassword) = u at hcloses hhandle ⊢
  have hcloses : Closes s u (fun _ => true) := hcloses
  rw [logKeyStore_quiet, updHandle, hhandle]
  exact ⟨rfl, rfl, rfl, rfl, closes_of_fns hcloses rfl⟩

theorem managementSessions : Claims.ManagementSessions := by
  refine ⟨fun s id v chain eid mac key h => managementServed_not h id v chain eid mac key, fun s id v chain eid hup => ?sessions,
    fun s mac hup => ⟨fun hsec => ?refused, fun p hp hsec => ?auth⟩, fun s key hup hsec => ?own⟩
  case sessions =>
    refine ⟨fun hopen => ⟨exec_keyExchange_busy hup hopen id, ?install⟩, fun hopen => ⟨?noInstall, ?exchange⟩, fun p hp hsec => ⟨?finish, ?fail⟩,
      fun hnot => exec_finish_refused hup (notFinishing_of hnot), bmcServed hup _ _, bmcServed hup _ _⟩
    case install => exact (bmcServed hup _ _).trans (if_pos hopen)
    case noInstall => exact (bmcServed hup _ _).trans (if_neg (by rw [hopen]; decide))
    case exchange =>
      refine ⟨_, exchanged s id, exec_keyExchange hup hopen id, rfl, ?_, rfl, rfl, rfl⟩
      have hid : id.toNat < 2 ^ 16 := id.isLt
      exact (Nat.add_mul_mod_self_left _ _ _).trans (Nat.mod_eq_of_lt hid)
    case finish => exact exec_finish_true hup hp hsec
    case fail => exact exec_finish_refused hup (Bool.false_and _)
  case refused =>
    refine ⟨?_, ?_⟩
    · show execMgChallenge s = _
      exact inSecured_refused hup hsec _
    · show execMgAuth mac s = _
      exact inSecured_refused hup hsec _
  case auth =>
    have hexec := exec_mgAuth hup hp hsec mac
    refine ⟨exec_mgChallenge hup hp hsec, fun hnonce hlock => hexec.trans (congrArg _ (mgAuth_expired hlock hnonce)),
      fun hkey hlock => hexec.trans (congrArg _ (mgAuth_lockedOut hp hkey hlock)), fun n k hnonce hkey => ⟨fun hlock hmac => ?_, fun hlock hmac => ?_⟩⟩
    · exact ⟨_, hexec, mgAuth_passes hp hlock hnonce hkey hmac⟩
    · exact ⟨_, hexec, mgAuth_fails hp hlock hnonce hkey hmac⟩
  case own =>
    refine ⟨fun hown => exec_mgOwn_denied hup hsec hown key, fun hown hkey => ?_, fun hown hkey => ?_⟩
    · refine ⟨_, exec_mgOwn hup hsec hown key, ?_⟩
      rw [hkey, if_neg (by decide), logKeyStore_quiet]
      simp only [mgmtReply, updHandle, replies]
    · refine ⟨_, exec_mgOwn hup hsec hown key, ?_⟩
      rw [if_pos hkey]
      exact owned_sound s key

end Sys2Proof.Machine
end

section
/-! PROOFS. Provisioning inside a management session, and the event log as the BMC reads it. -/

namespace Sys2Proof.Machine

open Sys2Proof.Claims

variable {s : State}

/-- What is answered alike to every command of a management session. -/
theorem provisioning_alike {t : State} (h : ∀ k, inMgmt s k = .next t) (id : BitVec 16) (role dom : Byte) (key : BitVec 256) (pw : List Byte) (r : BoardRec)
    (time seq : DWord) (fmt : Byte) : exec (.keySet id role dom key) s = .next t ∧ exec (.keyClear id) s = .next t ∧ exec (.pwSet pw) s = .next t ∧
      exec (.lockReset id) s = .next t ∧ exec (.boardSet r) s = .next t ∧ exec .boardGet s = .next t ∧ exec (.timeMark time fmt) s = .next t ∧
      exec (.logRead seq) s = .next t := by
  refine ⟨?_, ?_, ?_, ?_, ?_, ?_, ?_, ?_⟩
  · show execKeySet id role dom key s = _
    exact h _
  · show execKeyClear id s = _
    exact h _
  · show execPwSet pw s = _
    exact h _
  · show execLockReset id s = _
    exact h _
  · show execBoardSet r s = _
    exact h _
  · show execBoardGet s = _
    exact h _
  · show execTimeMark time fmt s = _
    exact h _
  · show execLogRead seq s = _
    exact h _

/-- Closing sessions seen from a state with the same functions. -/
theorem closes_of_base {s u t : State} {pick : FnSt → Bool} (hfns : u.fns = s.fns) (h : Closes u t pick) : Closes s t pick := by
  intro k hlisted hopened hpick
  have hfn : getFn u k = getFn s k := getFn_of_fns hfns k
  rw [← hfn] at hopened hpick
  exact h k (by rw [hfns]; exact hlisted) hopened hpick

section
variable (hup : mgmtUp s = true) (hopen : mgmtOpen s = true)
include hup hopen

/-! ### Key entries -/

theorem exec_keySet_badId {id : BitVec 16} (role dom : Byte) (key : BitVec 256) (hid : 1023 < id.toNat) :
    exec (.keySet id role dom key) s = .next (replies s sBadField []) := by
  show execKeySet id role dom key s = _
  rw [execKeySet, inMgmt_served hup hopen, if_pos hid]
  rfl

theorem exec_keySet_badRole {id : BitVec 16} {role : Byte} (dom : Byte) (key : BitVec 256) (hid : id.toNat ≤ 1023) (hrole : role.toNat = 0 ∨ 3 < role.toNat) :
    exec (.keySet id role dom key) s = .next (replies s sBadRole []) := by
  show execKeySet id role dom key s = _
  rw [execKeySet, inMgmt_served hup hopen, if_neg (Nat.not_lt.mpr hid), if_pos hrole]
  rfl

theorem exec_keyClear_badId {id : BitVec 16} (hid : 1023 < id.toNat) : exec (.keyClear id) s = .next (replies s sBadField []) := by
  show execKeyClear id s = _
  rw [execKeyClear, inMgmt_served hup hopen, if_pos hid]
  rfl

theorem exec_keyClear_absent {id : BitVec 16} (hid : id.toNat ≤ 1023) (habsent : mhas s.handle.keys id.toNat = false) :
    exec (.keyClear id) s = .next (replies s sSuccess []) := by
  show execKeyClear id s = _
  rw [execKeyClear, inMgmt_served hup hopen, if_neg (Nat.not_lt.mpr hid), if_pos (by rw [habsent]; rfl)]
  rfl

end

/-- A key entry as KEY_SET writes it. -/
def keyEntry (role dom : Byte) (key : BitVec 256) : KeyEntry := { role := role.toNat, domain := dom.toNat, key := bytesLE 32 key.toNat }

/-- The sessions of an entry that is replaced close. -/
def keyReplaced (s : State) (n : Nat) : State := if mhas s.handle.keys n then closeKey s n else s

/-- The end of KEY_SET and KEY_CLEAR: the key store is written, logged and the command answered. -/
def keysWritten (u : State) (keys : SMap KeyEntry) (args : List Byte) : State :=
  mgmtReply (logKeyStore (updHandle u (fun h => { h with keys := keys })) args) sSuccess []

theorem keysWritten_sound (u : State) (keys : SMap KeyEntry) (args : List Byte) : ∃ log, keysWritten u keys args =
    { u with handle := { u.handle with keys := keys, log := log, nextSeq := u.handle.nextSeq + 1 }, out := u.out ++ [.mgmt sSuccess []] } := by
  obtain ⟨log, hlog⟩ := logEvent_logged (updHandle u (fun h => { h with keys := keys })) (src := lgProvision) (code := 0) (die := 0xFF) (args := args)
    (by decide : (0 : Nat) ≠ 2)
  exact ⟨log, by rw [keysWritten, logKeyStore, hlog]; rfl⟩

theorem exec_keySet (hup : mgmtUp s = true) (hopen : mgmtOpen s = true) {id : BitVec 16} {role : Byte} (dom : Byte) (key : BitVec 256)
    (hid : id.toNat ≤ 1023) (hlow : 1 ≤ role.toNat) (hhigh : role.toNat ≤ 3) :
    let u := keyReplaced s id.toNat
    exec (.keySet id role dom key) s = .next (keysWritten u (mset {} u.handle.keys id.toNat (keyEntry role dom key)) (bytesLE 2 id.toNat)) := by
  show execKeySet id role dom key s = _
  rw [execKeySet, inMgmt_served hup hopen, if_neg (Nat.not_lt.mpr hid), if_neg (by omega)]
  rfl

theorem keyReplaced_handle (s : State) (n : Nat) : (keyReplaced s n).handle = s.handle ∧ (keyReplaced s n).out = s.out := by
  unfold keyReplaced
  split
  · obtain ⟨hhandle, hout, -⟩ := mgmtView_handle (closeWhere_mgmtView s (fun f => f.role != 4 && f.keyId == n) (fun c => c.op == mbProve && keyNo c.key == n))
    exact ⟨hhandle, hout⟩
  · exact ⟨rfl, rfl⟩

theorem keyReplaced_free {n : Nat} (h : mhas s.handle.keys n = false ∨ (∀ r, collecting s r = none)) : FnsAndRings s (keyReplaced s n) := by
  unfold keyReplaced
  split
  next hhas => exact closeWhere_free _ _ (h.resolve_left (by rw [hhas]; decide))
  · rfl

/-- A key entry is written: the store, the log, and the sessions of an entry it replaces. -/
theorem keySet_sound (s : State) (n : Nat) (e : KeyEntry) (args : List Byte) :
    let u := keyReplaced s n
    let t := keysWritten u (mset {} u.handle.keys n e) args
    t.handle = { s.handle with keys := t.handle.keys, log := t.handle.log, nextSeq := s.handle.nextSeq + 1 } ∧ t.out = s.out ++ [.mgmt sSuccess []] ∧
      (mhas s.handle.keys n = false ∨ (∀ r, collecting s r = none) → t = { s with handle := t.handle, fns := t.fns, rings := t.rings, out := t.out }) ∧
      mget {} t.handle.keys n = e ∧ (∀ m, m ≠ n → mget {} t.handle.keys m = mget {} s.handle.keys m) ∧
      (mhas s.handle.keys n = false → t.fns = s.fns) ∧
      (mhas s.handle.keys n = true → Closes s t (fun f => f.role != 4 && f.keyId == n)) := by
  obtain ⟨hhandle, hout⟩ := keyReplaced_handle s n
  have hfree := keyReplaced_free (s := s) (n := n)
  have hkept : mhas s.handle.keys n = false → (keyReplaced s n).fns = s.fns := fun h => by rw [keyReplaced, if_neg (by rw [h]; decide)]
  have hcloses : mhas s.handle.keys n = true → Closes s (keyReplaced s n) (fun f => f.role != 4 && f.keyId == n) := fun h => by
    rw [keyReplaced, if_pos h]
    exact closeWhere_closes _ _ _
  dsimp only
  generalize keyReplaced s n = u at hhandle hout hfree hkept hcloses ⊢
  obtain ⟨log, hlog⟩ := keysWritten_sound u (mset {} u.handle.keys n e) args
  rw [hlog, hhandle, hout]
  refine ⟨rfl, rfl, fun h => ?_, mget_mset_same _ _ _ _, fun m hm => mget_mset_other _ _ _ _ _ hm, hkept, fun h => closes_of_fns (hcloses h) rfl⟩
  have hframe := hfree h
  unfold FnsAndRings at hframe
  rw [hframe]

/-- A key entry is cleared: its sessions close first. -/
theorem exec_keyClear (hup : mgmtUp s = true) (hopen : mgmtOpen s = true) {id : BitVec 16} (hid : id.toNat ≤ 1023) (hhas : mhas s.handle.keys id.toNat = true) :
    exec (.keyClear id) s = .next (mgmtReply (logKeyStore (closeKey (updHandle s (fun h => { h with keys := merase h.keys id.toNat })) id.toNat)
      (bytesLE 2 id.toNat)) sSuccess []) := by
  show execKeyClear id s = _
  rw [execKeyClear, inMgmt_served hup hopen, if_neg (Nat.not_lt.mpr hid), if_neg (by rw [hhas]; decide)]

theorem keyClear_sound (s : State) (n : Nat) (args : List Byte) :
    let t := mgmtReply (logKeyStore (closeKey (updHandle s (fun h => { h with keys := merase h.keys n })) n) args) sSuccess []
    mhas t.handle.keys n = false ∧ (∀ m, m ≠ n → mget {} t.handle.keys m = mget {} s.handle.keys m) ∧
      Closes s t (fun f => f.role != 4 && f.keyId == n) := by
  have hcloses : Closes s (closeKey (updHandle s (fun h => { h with keys := merase h.keys n })) n) (fun f => f.role != 4 && f.keyId == n) :=
    closes_of_base (u := updHandle s (fun h => { h with keys := merase h.keys n })) rfl (closeWhere_closes _ _ _)
  obtain ⟨hhandle, -, -⟩ := mgmtView_handle (closeWhere_mgmtView (updHandle s (fun h => { h with keys := merase h.keys n }))
    (fun f => f.role != 4 && f.keyId == n) (fun c => c.op == mbProve && keyNo c.key == n))
  rw [← closeKey] at hhandle
  dsimp only
  generalize closeKey (updHandle s (fun h => { h with keys := merase h.keys n })) n = u at hcloses hhandle ⊢
  obtain ⟨log, hlog⟩ := logEvent_logged u (src := lgProvision) (code := 0) (die := 0xFF) (args := args) (by decide : (0 : Nat) ≠ 2)
  rw [logKeyStore, hlog, hhandle]
  exact ⟨mhas_merase_same _ _, fun m hm => mget_merase_other _ _ _ _ hm, closes_of_fns hcloses rfl⟩

/-! ### Locks, the password and the board record -/

section
variable (hup : mgmtUp s = true) (hopen : mgmtOpen s = true)
include hup hopen

theorem exec_lockReset_service {id : BitVec 16} (hid : id.toNat = 0xFFFF) :
    exec (.lockReset id) s = .next (mgmtReply (setLock s lockService {}) sSuccess []) := by
  show execLockReset id s = _
  rw [execLockReset, inMgmt_served hup hopen, if_pos hid]

theorem exec_lockReset_badId {id : BitVec 16} (hid : 1023 < id.toNat) (hservice : id.toNat ≠ 0xFFFF) :
    exec (.lockReset id) s = .next (replies s sBadField []) := by
  show execLockReset id s = _
  rw [execLockReset, inMgmt_served hup hopen, if_neg hservice, if_pos hid]
  rfl

theorem exec_lockReset {id : BitVec 16} (hid : id.toNat ≤ 1023) : exec (.lockReset id) s = .next (mgmtReply (setLock s id.toNat {}) sSuccess []) := by
  show execLockReset id s = _
  rw [execLockReset, inMgmt_served hup hopen, if_neg (by omega), if_neg (Nat.not_lt.mpr hid)]

theorem exec_pwSet_badLength {pw : List Byte} (h : pw.length < 8 ∨ 64 < pw.length) : exec (.pwSet pw) s = .next (replies s sBadField []) := by
  show execPwSet pw s = _
  rw [execPwSet, inMgmt_served hup hopen, if_pos h]
  rfl

theorem exec_pwSet {pw : List Byte} (hlong : 8 ≤ pw.length) (hshort : pw.length ≤ 64) :
    exec (.pwSet pw) s = .next (mgmtReply (logKeyStore (closeWhere (updHandle (drawBytes s 32).2
      (fun h => { h with verifier := some ((drawBytes s 32).1, verify (drawBytes s 32).1 pw) })) (fun f => f.role == 4) (fun c => c.op == mbPassword)) [])
      sSuccess []) := by
  show execPwSet pw s = _
  rw [execPwSet, inMgmt_served hup hopen, if_neg (by omega)]

theorem exec_boardSet (r : BoardRec) : exec (.boardSet r) s = .next (replies { s with handle := { s.handle with board := some r } } sSuccess []) := by
  show execBoardSet r s = _
  rw [execBoardSet, inMgmt_served hup hopen]
  rfl

theorem exec_boardGet : exec .boardGet s = .next { s with out := s.out ++ [.mgmt sSuccess [], .board s.handle.board] } := by
  show execBoardGet s = _
  rw [execBoardGet, inMgmt_served hup hopen]
  dsimp only
  rw [mgmtReply, List.append_assoc]
  rfl

theorem exec_timeMark (time : DWord) (fmt : Byte) :
    exec (.timeMark time fmt) s = .next (mgmtReply (logEvent s lgTime 0 0xFF 0 (bytesLE 8 time.toNat ++ [fmt])) sSuccess []) := by
  show execTimeMark time fmt s = _
  rw [execTimeMark, inMgmt_served hup hopen]

theorem exec_logRead (seq : DWord) {e : LogEntry} (h : logEntryOf s seq.toNat = some e) : exec (.logRead seq) s = .next (replies s sSuccess (logBytes e)) := by
  show execLogRead seq s = _
  rw [execLogRead, inMgmt_served hup hopen, logAnswer, h]
  rfl

end

theorem lockReset_sound (s : State) (k : Nat) :
    let t := mgmtReply (setLock s k {}) sSuccess []
    t = { s with handle := { s.handle with locks := t.handle.locks }, out := s.out ++ [.mgmt sSuccess []] } ∧
      getLock t k = {} ∧ ∀ j, j ≠ k → getLock t j = getLock s j :=
  ⟨rfl, getLock_setLock_same s k {}, fun _ hj => getLock_setLock_other s {} hj⟩

/-- A new password: the sessions of the old one close. -/
theorem pwSet_sound (s : State) (salt pw : List Byte) (v : State) (hv : v = { s with draws := v.draws }) :
    let u := updHandle v (fun h => { h with verifier := some (salt, verify salt pw) })
    let t := mgmtReply (logKeyStore (closeWhere u (fun f => f.role == 4) (fun c => c.op == mbPassword)) []) sSuccess []
    t.handle.verifier = some (salt, verify salt pw) ∧ t.handle.keys = s.handle.keys ∧ t.out = s.out ++ [.mgmt sSuccess []] ∧
      Closes s t (fun f => f.role == 4) := by
  dsimp only
  have hu : updHandle v (fun h => { h with verifier := some (salt, verify salt pw) }) =
      { s with handle := { s.handle with verifier := some (salt, verify salt pw) }, draws := v.draws } := by
    rw [hv]
    rfl
  rw [hu]
  have hcloses : Closes s (closeWhere { s with handle := { s.handle with verifier := some (salt, verify salt pw) }, draws := v.draws }
      (fun f => f.role == 4) (fun c => c.op == mbPassword)) (fun f => f.role == 4) :=
    closes_of_base (u := { s with handle := { s.handle with verifier := some (salt, verify salt pw) }, draws := v.draws }) rfl (closeWhere_closes _ _ _)
  obtain ⟨hhandle, hout, -⟩ := mgmtView_handle (closeWhere_mgmtView { s with handle := { s.handle with verifier := some (salt, verify salt pw) }, draws := v.draws }
    (fun f => f.role == 4) (fun c => c.op == mbPassword))
  generalize closeWhere { s with handle := { s.handle with verifier := some (salt, verify salt pw) }, draws := v.draws }
    (fun f => f.role == 4) (fun c => c.op == mbPassword) = w at hcloses hhandle hout ⊢
  obtain ⟨log, hlog⟩ := logEvent_logged w (src := lgProvision) (code := 0) (die := 0xFF) (args := []) (by decide : (0 : Nat) ≠ 2)
  rw [logKeyStore, hlog, hhandle, mgmtReply, hout]
  exact ⟨rfl, rfl, rfl, closes_of_fns hcloses rfl⟩

/-! ### The event log -/

/-- The entry that TIME_MARK makes. -/
theorem timeMark_sound (s : State) (time : DWord) (fmt : Byte) :
    let e := newEntry s lgTime 0 0xFF 0 (bytesLE 8 time.toNat ++ [fmt])
    let t := mgmtReply (logEvent s lgTime 0 0xFF 0 (bytesLE 8 time.toNat ++ [fmt])) sSuccess []
    t = replies { s with handle := { s.handle with log := t.handle.log, nextSeq := s.handle.nextSeq + 1 } } sSuccess [] ∧
      t.handle.log = keepLast 32768 (s.handle.log ++ [e]) ∧ e.args.take 9 = bytesLE 8 time.toNat ++ [fmt] := by
  dsimp only
  rw [logEvent_quiet s (by decide : (0 : Nat) ≠ 2)]
  generalize hlog : keepLast 32768 (s.handle.log ++ [newEntry s lgTime 0 0xFF 0 (bytesLE 8 time.toNat ++ [fmt])]) = log
  refine ⟨rfl, rfl, ?_⟩
  have hlength : (bytesLE 8 time.toNat ++ [fmt]).length = 9 := by rw [List.length_append, bytesLE_length]; rfl
  rw [newEntry]
  dsimp only
  rw [List.take_take]
  exact List.take_left' hlength

theorem logBytes_length (e : LogEntry) : (logBytes e).length = 64 := by
  simp [logBytes, bytesLE_length]

theorem logEntryOf_kept {seq : Nat} {e : LogEntry} (h : s.handle.log.find? (fun e => e.seq == seq) = some e) : logEntryOf s seq = some e := by
  rw [logEntryOf, h]

/-- The entry of a SEQ that is overwritten: the oldest one retained. -/
theorem logEntryOf_overwritten {seq : Nat} {e : LogEntry} {l : List LogEntry} (hlog : s.handle.log = e :: l) (hpast : seq < s.handle.nextSeq)
    (hgone : ∀ e ∈ s.handle.log, e.seq ≠ seq) : logEntryOf s seq = some e := by
  have hnone : s.handle.log.find? (fun e => e.seq == seq) = none :=
    List.find?_eq_none.mpr fun e he hseq => hgone e he (beq_iff_eq.mp hseq)
  rw [logEntryOf, hnone]
  dsimp only
  rw [if_pos hpast, hlog]
  rfl

theorem provisioning : Claims.Provisioning := by
  refine ⟨fun s id role dom key pw r time seq fmt => ⟨fun hdown => ?down, fun hup hopen => ?refused⟩, fun s id role dom key hup hopen => ?keys,
    fun s pw r time seq fmt hup hopen => ?records⟩
  case down => exact provisioning_alike (inMgmt_down hdown) id role dom key pw r time seq fmt
  case refused => exact provisioning_alike (inMgmt_refused hup hopen) id role dom key pw r time seq fmt
  case keys =>
    refine ⟨fun hid => ⟨exec_keySet_badId hup hopen role dom key hid, exec_keyClear_badId hup hopen hid⟩,
      fun hid hrole => exec_keySet_badRole hup hopen dom key hid hrole, fun hid hlow hhigh => ?set, fun hid habsent => exec_keyClear_absent hup hopen hid habsent,
      fun hid hhas => ?clear, fun hid => ?service, fun hid hservice => exec_lockReset_badId hup hopen hid hservice, fun hid => ?lock⟩
    case set => exact ⟨_, exec_keySet hup hopen dom key hid hlow hhigh, keySet_sound s id.toNat (keyEntry role dom key) (bytesLE 2 id.toNat)⟩
    case clear => exact ⟨_, exec_keyClear hup hopen hid hhas, keyClear_sound s id.toNat (bytesLE 2 id.toNat)⟩
    case service => exact ⟨_, exec_lockReset_service hup hopen hid, lockReset_sound s lockService⟩
    case lock => exact ⟨_, exec_lockReset hup hopen hid, lockReset_sound s id.toNat⟩
  case records =>
    refine ⟨fun hlength => exec_pwSet_badLength hup hopen hlength, fun hlong hshort => ?password, exec_boardSet hup hopen r, exec_boardGet hup hopen, ?time,
      fun e he => ⟨exec_logRead hup hopen seq (logEntryOf_kept he), logBytes_length e⟩,
      fun e l hlog hpast hgone => exec_logRead hup hopen seq (logEntryOf_overwritten hlog hpast hgone)⟩
    case password => exact ⟨_, _, exec_pwSet hup hopen hlong hshort, rfl, pwSet_sound s (drawBytes s 32).1 pw (drawBytes s 32).2 rfl⟩
    case time =>
      obtain ⟨hframe, hlog, hargs⟩ := timeMark_sound s time fmt
      exact ⟨_, _, exec_timeMark hup hopen time fmt, hframe, hlog, rfl, rfl, hargs⟩

end Sys2Proof.Machine

open Sys2Proof.Machine

/-- Settles O43: each command of the BMC is one equation, and a session that closes is followed through the list of functions. -/
theorem managementAndProvisioning : Obligations.ManagementAndProvisioning := ⟨managementSessions, provisioning⟩
end

section
/-! PROOFS. Link loopback, the memory tests and the test access port (R424 to R427). -/

namespace Sys2Proof.Machine

open Sys2Proof.Claims

variable {s : State}

/-! ### Link loopback (R424) -/

theorem noteLoopback_eq (s : State) (lanes errors : Nat) : noteLoopback s lanes errors = noted s lanes errors := by
  cases hen : s.pert.lpEn with
  | false => simp [noteLoopback, noted, hen]
  | true => by_cases herrors : errors = 0 <;> simp [noteLoopback, noted, hen, herrors, updPert, raisePert]

theorem noted_frame (s : State) (lanes errors : Nat) : noted s lanes errors = { s with pert := (noted s lanes errors).pert } := by
  unfold noted
  split <;> rfl

theorem noted_kept (s : State) (lanes errors : Nat) : (noted s lanes errors).pert.en = s.pert.en ∧ (noted s lanes errors).pert.owner = s.pert.owner ∧
    (noted s lanes errors).pert.lpEn = s.pert.lpEn := by
  unfold noted
  split <;> exact ⟨rfl, rfl, rfl⟩

theorem mayPerturb_noted (s : State) (lanes errors k : Nat) : MayPerturb (noted s lanes errors) k ↔ MayPerturb s k := by
  obtain ⟨hen, howner, -⟩ := noted_kept s lanes errors
  have hfn : getFn (noted s lanes errors) k = getFn s k := by
    rw [noted_frame]
    rfl
  rw [MayPerturb, hfn, hen, howner, MayPerturb]

theorem getLink_noted (s : State) (lanes errors p : Nat) : getLink (noted s lanes errors) p = getLink s p := by
  rw [noted_frame]
  rfl

/-- A port on which no loopback can start. -/
def LoopRefused (s : State) (w : Nat) : Prop := bit w 31 = true ∧ (6 ≤ w % 8 ∨ (getLink s (w % 8)).en = true ∨ (getLink s (w % 8)).state ≠ .down)

theorem loopRefused_iff {w : Nat} : (bit w 31 && (decide (6 ≤ w % 8) || (getLink s (w % 8)).en || (getLink s (w % 8)).state != .down)) = true ↔
    LoopRefused s w := by
  simp only [LoopRefused, Bool.and_eq_true, Bool.or_eq_true, decide_eq_true_eq, bne_iff_ne, or_assoc]

section
variable {k w : Nat} (hmay : MayPerturb s k)
include hmay

theorem writeLpbkCtl_refused (h : LoopRefused s w) : writeLpbkCtl s k w = raisePert s pfCfgErr := by
  rw [writeLpbkCtl, pertWrite_permitted hmay]
  exact if_pos (loopRefused_iff.mpr h)

theorem writeLpbkCtl_fresh (h : ¬ LoopRefused s w) (hen : bit w 31 = true) (hoff : s.pert.lpEn = false) : writeLpbkCtl s k w =
    notePerturb { s with pert := { s.pert with lpEn := true, lpMode := bit w 30, lpPort := w % 8, lpLanes := 0, lpErrs := 0 } } := by
  rw [writeLpbkCtl, pertWrite_permitted hmay]
  refine (if_neg (mt loopRefused_iff.mp h)).trans ?_
  dsimp only
  rw [hen, hoff]
  rfl

theorem writeLpbkCtl_again (h : ¬ LoopRefused s w) (hold : ¬ (bit w 31 = true ∧ s.pert.lpEn = false)) : writeLpbkCtl s k w =
    notePerturb { s with pert := { s.pert with lpEn := bit w 31, lpMode := bit w 30, lpPort := w % 8 } } := by
  have hfresh : (bit w 31 && !s.pert.lpEn) = false := by
    rw [← Bool.not_eq_true, Bool.and_eq_true, Bool.not_eq_true']
    exact hold
  rw [writeLpbkCtl, pertWrite_permitted hmay]
  refine (if_neg (mt loopRefused_iff.mp h)).trans ?_
  dsimp only
  rw [hfresh]
  rfl

end

/-! ### Starting a memory test (R425, R426) -/

theorem bistWord_fields {op : Nat} (hop : op < 4) (tkind : BitVec 2) (target : BitVec 9) : bits (bistWord op tkind target) 31 30 = op ∧
    bits (bistWord op tkind target) 29 28 = tkind.toNat ∧ bits (bistWord op tkind target) 8 0 = target.toNat := by
  have hkind := tkind.isLt
  have htarget := target.isLt
  unfold bistWord bits
  omega

/-- What BIST_CTL names. -/
def bistNamed (p : PertSt) (op : Nat) (tkind : BitVec 2) (target : BitVec 9) : PertSt :=
  { p with bistOp := op, bistKind := tkind.toNat, bistTarget := target.toNat }

section
variable {k op : Nat} (hmay : MayPerturb s k) (hop : op = 1 ∨ op = 2) (tkind : BitVec 2) (target : BitVec 9)
include hmay

theorem writeBistCtl_running (hrun : s.pert.bistRun = true) (w : Nat) : writeBistCtl s k w = raisePert s pfCfgErr := by
  rw [writeBistCtl, pertWrite_permitted hmay]
  exact if_pos hrun

include hop

theorem writeBistCtl_named (hrun : s.pert.bistRun = false) : writeBistCtl s k (bistWord op tkind target) =
    let u : State := { s with pert := bistNamed s.pert op tkind target }
    if bistFree s tkind.toNat target.toNat then
      notePerturb { s with
        pert := { bistNamed s.pert op tkind target with bistRun := true, bistFail := false, bistResult := sSuccess, bistRetired := 0 },
        tiers := { s.tiers with testing := if tkind.toNat < 2 then some (tkind.toNat, target.toNat) else none } }
    else { u with pert := { u.pert with bistResult := sRegionBusy } } := by
  obtain ⟨hopField, hkind, htarget⟩ := bistWord_fields (by omega : op < 4) tkind target
  rw [writeBistCtl, pertWrite_permitted hmay]
  refine (if_neg (by rw [hrun]; decide)).trans ?_
  dsimp only
  rw [hopField, hkind, htarget, if_neg (by omega)]
  rfl

end

/-- PHYLOOP and MARCH, as the words of BIST_CTL that they are. -/
theorem bistStart_sound {c : Instr} {k op : Nat} {tkind : BitVec 2} {target : BitVec 9} (hop : op = 1 ∨ op = 2)
    (hexec : exec c s = .next (writeBistCtl s k (bistWord op tkind target))) :
    (¬ MayPerturb s k → exec c s = PertDenied s k) ∧ (MayPerturb s k → s.pert.bistRun = true → exec c s = PertCfgErr s) ∧
    (MayPerturb s k → s.pert.bistRun = false → bistFree s tkind.toNat target.toNat = false →
      exec c s = .next { s with pert := { bistNamed s.pert op tkind target with bistResult := sRegionBusy } }) ∧
    (MayPerturb s k → s.pert.bistRun = false → bistFree s tkind.toNat target.toNat = true →
      exec c s = .next (notePerturb { s with
        pert := { bistNamed s.pert op tkind target with bistRun := true, bistFail := false, bistResult := sSuccess, bistRetired := 0 },
        tiers := { s.tiers with testing := if tkind.toNat < 2 then some (tkind.toNat, target.toNat) else none } })) := by
  rw [hexec]
  refine ⟨fun hdenied => pertWrite_denied hdenied _, fun hmay hrun => congrArg _ (writeBistCtl_running hmay hrun _), fun hmay hrun hbusy => ?_,
    fun hmay hrun hfree => ?_⟩
  · rw [writeBistCtl_named hmay hop tkind target hrun, hbusy, if_neg (by decide)]
  · rw [writeBistCtl_named hmay hop tkind target hrun, hfree, if_pos rfl]

theorem bistFree_hbm {target : Nat} : bistFree s 0 target = true ↔ target < 16 ∧ ∀ g ∈ s.tiers.hbmGran, g.1 % 16 = target → g.2 ≠ .mapped := by
  rw [bistFree, if_pos rfl, Bool.and_eq_true, decide_eq_true_eq, List.all_eq_true]
  simp only [Bool.or_eq_true, bne_iff_ne, imp_iff_not_or]

theorem bistFree_lp {target : Nat} : bistFree s 1 target = true ↔ target < 8 ∧ ∀ g ∈ s.tiers.lpGran, g.2 ≠ .mapped := by
  rw [bistFree, if_neg (by decide), if_pos rfl, Bool.and_eq_true, decide_eq_true_eq, List.all_eq_true]
  simp only [bne_iff_ne]

theorem bistFree_cluster {target : Nat} : bistFree s 2 target = true ↔ target < 288 ∧ partOfCluster s (clusterOfBit target) = none := by
  rw [bistFree, if_neg (by decide), if_neg (by decide), if_pos rfl, Bool.and_eq_true, decide_eq_true_eq, Option.isNone_iff_eq_none]

theorem bistFree_none {target : Nat} : bistFree s 3 target = false := by
  rw [bistFree, if_neg (by decide), if_neg (by decide), if_neg (by decide)]

/-! ### The end of a march over DRAM (R426) -/

/-- Granules that are retired one after the other. -/
theorem mget_foldl_retired (l : List Nat) (m : SMap Granule) (g : Nat) :
    mget .free (l.foldl (fun m p => mset .free m p .retired) m) g = if g ∈ l then .retired else mget .free m g := by
  induction l generalizing m with
  | nil => rfl
  | cons p l ih =>
    rw [List.foldl_cons, ih]
    by_cases hp : g = p
    · subst hp
      rw [mget_mset_same, if_pos List.mem_cons_self]
      split <;> rfl
    · rw [mget_mset_other _ _ _ _ _ hp]
      simp [hp]

theorem mget_freeTested_off {m : SMap Granule} {on : Nat → Bool} {g : Nat} (h : on g = false) : mget .free (freeTested m on) g = mget .free m g :=
  mget_filter_kept _ _ fun _ => by simp [h]

theorem mget_freeTested_on {m : SMap Granule} {on : Nat → Bool} {g : Nat} (h : on g = true) :
    mget .free (freeTested m on) g = .retired ↔ mget .free m g = .retired := by
  by_cases hretired : mget .free m g = .retired
  · rw [freeTested, mget_filter_kept _ _ fun _ => by simp [hretired]]
  · rw [freeTested, mget_filter_removed _ _ fun _ => by simp [h, hretired]]
    exact iff_of_false (by decide) hretired

/-- The failing granules of a target that a march finds. -/
def marchFound (old : SMap Granule) (on : Nat → Bool) (fails : List Nat) : List Nat :=
  (fails.filter (fun p => on p && mget .free old p != .retired)).eraseDups

/-- The granules of the tier after the march. -/
def marched (old : SMap Granule) (on : Nat → Bool) (fails : List Nat) : SMap Granule :=
  (marchFound old on fails).foldl (fun m p => mset .free m p .retired) (freeTested old on)

theorem mem_marchFound {old : SMap Granule} {on : Nat → Bool} {fails : List Nat} {g : Nat} :
    g ∈ marchFound old on fails ↔ g ∈ fails ∧ on g = true ∧ mget .free old g ≠ .retired := by
  rw [marchFound, List.mem_eraseDups, List.mem_filter, Bool.and_eq_true, bne_iff_ne]

theorem marched_on {old : SMap Granule} {on : Nat → Bool} {fails : List (BitVec 19)} {g : Nat} (h : on g = true) :
    mget .free (marched old on (fails.map (·.toNat))) g = .retired ↔ mget .free old g = .retired ∨ ∃ x ∈ fails, x.toNat = g := by
  rw [marched, mget_foldl_retired]
  split
  next hbad =>
    obtain ⟨hfail, -, -⟩ := mem_marchFound.mp hbad
    exact iff_of_true rfl (.inr (List.mem_map.mp hfail))
  next hgood =>
    rw [mget_freeTested_on h]
    refine ⟨.inl, fun hor => ?_⟩
    by_contra hfresh
    exact hgood (mem_marchFound.mpr ⟨List.mem_map.mpr (hor.resolve_left hfresh), h, hfresh⟩)

theorem marched_off {old : SMap Granule} {on : Nat → Bool} {fails : List Nat} {g : Nat} (h : on g = false) :
    mget .free (marched old on fails) g = mget .free old g := by
  rw [marched, mget_foldl_retired, if_neg, mget_freeTested_off h]
  exact fun hbad => absurd (h.symm.trans (mem_marchFound.mp hbad).2.1) (by decide)

/-- A test that has ended. -/
def bistEnded (s : State) : State := { s with pert := { s.pert with bistRun := false }, tiers := { s.tiers with testing := none } }

section
variable {fails : List (BitVec 19)} {failed : Bool}

theorem exec_bistEnd_idle (h : s.pert.bistRun = false) : exec (.bistEnd fails failed) s = .next s := by
  show execBistEnd fails failed s = _
  rw [execBistEnd, if_pos (by rw [h]; rfl)]

variable (hrun : s.pert.bistRun = true)
include hrun

theorem exec_bistEnd_loop (hop : s.pert.bistOp = 1) : exec (.bistEnd fails failed) s =
    .next (if failed then raisePert (updPert (bistEnded s) (fun p => { p with bistFail := true })) pfBistFail else bistEnded s) := by
  show execBistEnd fails failed s = _
  rw [execBistEnd, if_neg (by rw [hrun]; decide)]
  exact if_pos hop

theorem exec_bistEnd_dram (hop : s.pert.bistOp = 2) (hkind : s.pert.bistKind < 2) : exec (.bistEnd fails failed) s =
    .next (endMarchDram (bistEnded s) s.pert.bistKind s.pert.bistTarget (fails.map (·.toNat))) := by
  show execBistEnd fails failed s = _
  rw [execBistEnd, if_neg (by rw [hrun]; decide)]
  exact (if_neg (fun h : s.pert.bistOp = 1 => by omega)).trans (if_pos hkind)

theorem exec_bistEnd_cores (hop : s.pert.bistOp = 2) (hkind : s.pert.bistKind = 2) : exec (.bistEnd fails failed) s =
    .next (endMarchCores (bistEnded s) (clusterOfBit s.pert.bistTarget) failed) := by
  show execBistEnd fails failed s = _
  rw [execBistEnd, if_neg (by rw [hrun]; decide)]
  exact (if_neg (fun h : s.pert.bistOp = 1 => by omega)).trans (if_neg (fun h : s.pert.bistKind < 2 => by omega))

end

end Sys2Proof.Machine
end

section
/-! PROOFS. What a march leaves of its target, and the scans of the test access port. -/

namespace Sys2Proof.Machine

open Sys2Proof.Claims

variable {s : State}

/-! ### A march over DRAM -/

/-- The granules that a march over a target writes. -/
def marchOn (tkind target p : Nat) : Bool := if tkind = 0 then decide (p < hbmGranules) && p % 16 == target else decide (p < lpGranules)

/-- The granules of the tier of a target. -/
def marchOld (t : TierSt) (tkind : Nat) : SMap Granule := if tkind = 0 then t.hbmGran else t.lpGran

/-- The tiers after a march. -/
def marchTiers (t : TierSt) (tkind target : Nat) (fails : List Nat) : TierSt :=
  if tkind = 0 then
    { t with
      hbmGran := marched (marchOld t tkind) (marchOn tkind target) fails
      hbm := t.hbm.filter (fun c => !marchOn tkind target (c.1 / granBytes))
      undef := t.undef.filter (fun g => !marchOn tkind target g.1) }
  else
    { t with
      lpGran := marched (marchOld t tkind) (marchOn tkind target) fails
      lp := t.lp.filter (fun c => !marchOn tkind target (c.1 / granBytes)) }

/-- What the PERTURB block shows of the failing granules. -/
def marchShown (u : State) (bad : List Nat) : State :=
  let u := updPert u (fun p => { p with bistFail := !bad.isEmpty, bistRetired := min bad.length 0xFFFF })
  if bad.isEmpty then u else raisePert u pfBistFail

theorem marchShown_frame (u : State) (bad : List Nat) :
    marchShown u bad = { u with pert := (marchShown u bad).pert } ∧ (marchShown u bad).pert.bistRun = u.pert.bistRun := by
  unfold marchShown
  dsimp only
  split <;> exact ⟨rfl, rfl⟩

theorem endMarchDram_eq (s : State) (tkind target : Nat) (fails : List Nat) : endMarchDram s tkind target fails =
    marchShown { s with tiers := marchTiers s.tiers tkind target fails } (marchFound (marchOld s.tiers tkind) (marchOn tkind target) fails) := rfl

/-- The march changes the tiers, and of the PERTURB block what it found. -/
theorem endMarchDram_sound (s : State) (tkind target : Nat) (fails : List Nat) :
    endMarchDram s tkind target fails = { s with tiers := marchTiers s.tiers tkind target fails, pert := (endMarchDram s tkind target fails).pert } ∧
      (endMarchDram s tkind target fails).pert.bistRun = s.pert.bistRun := by
  rw [endMarchDram_eq]
  exact marchShown_frame _ _

theorem marchOn_hbm {target p : Nat} : marchOn 0 target p = true ↔ p < hbmGranules ∧ p % 16 = target := by
  rw [marchOn, if_pos rfl, Bool.and_eq_true, decide_eq_true_eq, beq_iff_eq]

theorem marchOn_lp {target p : Nat} : marchOn 1 target p = true ↔ p < lpGranules := by
  rw [marchOn, if_neg (by decide), decide_eq_true_eq]

/-- A granule of the target reads 0. -/
theorem physByte_marched_on {t : TierSt} {target p j : Nat} (fails : List Nat) (h : marchOn 0 target p = true) (hj : j < granBytes) :
    physByte (marchTiers t 0 target fails) 1 p j = 0 := by
  have hcell : mget 0 (t.hbm.filter (fun c => !marchOn 0 target (c.1 / granBytes))) (p * granBytes + j) = 0 :=
    mget_filter_removed _ _ fun _ => by rw [cell_granule p hj, h]; rfl
  have hundef : mget 0 (t.undef.filter (fun g => !marchOn 0 target g.1)) p = 0 := mget_filter_removed _ _ fun _ => by rw [h]; rfl
  have hopen : openByte (marchTiers t 0 target fails) 1 p j = 0 := by simp [openByte, marchTiers, hundef]
  rw [physByte, hopen, if_pos rfl, marchTiers, if_pos rfl, hcell]
  rfl

/-- Every other granule reads as before. -/
theorem physByte_marched_off {t : TierSt} {target p j : Nat} (fails : List Nat) (h : marchOn 0 target p = false) (hj : j < granBytes) :
    physByte (marchTiers t 0 target fails) 1 p j = physByte t 1 p j := by
  have hcell : mget 0 (t.hbm.filter (fun c => !marchOn 0 target (c.1 / granBytes))) (p * granBytes + j) = mget 0 t.hbm (p * granBytes + j) :=
    mget_filter_kept _ _ fun _ => by rw [cell_granule p hj, h]; rfl
  have hopen : mget 0 (t.undef.filter (fun g => !marchOn 0 target g.1)) p = mget 0 t.undef p := mget_filter_kept _ _ fun _ => by rw [h]; rfl
  rw [physByte, openByte, if_pos rfl, if_pos rfl, marchTiers, if_pos rfl, physByte, openByte, if_pos rfl, if_pos rfl]
  dsimp only
  rw [hcell, hopen]

/-! ### A march over the stores of a cluster -/

/-- A core whose store holds 0. -/
def storeCleared (x : CoreSt) : CoreSt := { x with store := [] }

/-- The cores of a cluster whose stores are cleared. -/
def clearStores (s : State) (k : Nat) : State :=
  (List.range 8).foldl (fun s i => setCore s (8 * k + i) (storeCleared (getCore s (8 * k + i)))) s

theorem foldl_clearStores (k : Nat) (l : List Nat) (s : State) :
    let t := l.foldl (fun s i => setCore s (8 * k + i) (storeCleared (getCore s (8 * k + i)))) s
    t = { s with cores := t.cores } ∧ ∀ d, getCore t d = if ∃ i ∈ l, d = 8 * k + i then storeCleared (getCore s d) else getCore s d := by
  induction l generalizing s with
  | nil => exact ⟨rfl, fun d => (if_neg (by simp)).symm⟩
  | cons i l ih =>
    obtain ⟨hframe, hcores⟩ := ih (setCore s (8 * k + i) (storeCleared (getCore s (8 * k + i))))
    dsimp only at hframe hcores ⊢
    rw [List.foldl_cons]
    refine ⟨hframe, fun d => ?_⟩
    rw [hcores]
    by_cases hd : d = 8 * k + i
    · subst hd
      rw [getCore_setCore_same, if_pos (c := ∃ j ∈ i :: l, 8 * k + i = 8 * k + j) ⟨i, List.mem_cons_self, rfl⟩]
      split <;> rfl
    · rw [getCore_setCore_other _ _ _ _ hd]
      simp [hd]

theorem clearStores_frame (s : State) (k : Nat) : clearStores s k = { s with cores := (clearStores s k).cores } := (foldl_clearStores k _ s).1

theorem getCore_clearStores_in (s : State) (k : Nat) {i : Nat} (h : i < 8) : getCore (clearStores s k) (8 * k + i) = { getCore s (8 * k + i) with store := [] } :=
  ((foldl_clearStores k _ s).2 _).trans (if_pos ⟨i, List.mem_range.mpr h, rfl⟩)

theorem getCore_clearStores_out (s : State) {k d : Nat} (h : d / 8 ≠ k) : getCore (clearStores s k) d = getCore s d := by
  refine ((foldl_clearStores k _ s).2 d).trans (if_neg ?_)
  rintro ⟨i, hi, rfl⟩
  have hlt := List.mem_range.mp hi
  omega

theorem endMarchCores_passed (s : State) (k : Nat) : endMarchCores s k false = clearStores s k := rfl

/-- A failing word is a fault of the die. -/
theorem endMarchCores_failed (s : State) (k : Nat) : endMarchCores s k true =
    dieFault { clearStores s k with pert := { (clearStores s k).pert with bistFail := true, flags := raise s.fc s.pert.flags pfBistFail } }
      (posDie s (k / 128) (k / 8 % 16)) dtSram := by
  have hframe := clearStores_frame s k
  have hfailed : endMarchCores s k true =
      dieFault (raisePert (updPert (clearStores s k) (fun p => { p with bistFail := true })) pfBistFail) (posDie (clearStores s k) (k / 128) (k / 8 % 16)) dtSram := rfl
  rw [hfailed]
  generalize clearStores s k = u at hframe ⊢
  rw [hframe]
  rfl

/-! ### The two claims of loopback and self-test put together -/

theorem loopbackAndSelfTest : Claims.LoopbackAndSelfTest := by
  refine ⟨fun f v lanes errors s hans => ?loop, fun f tkind target s hans => ?start, fun fails failed s => ⟨exec_bistEnd_idle, fun hrun hop => ?looped,
    fun hrun hop hkind => ?hbm, fun hrun hop hkind => ?lp, fun hrun hop hkind => ?cores⟩⟩
  case loop =>
    have hexec : exec (.lpbkCtl f v lanes errors) s = .next (writeLpbkCtl (noted s lanes.toNat errors.toNat) (fnKeyOf f) v.toNat) :=
      (exec_of_answers hans (fun k => writeLpbkCtl (noteLoopback s lanes.toNat errors.toNat) k v.toNat) rfl).trans (by rw [noteLoopback_eq])
    have hlpEn : (noted s lanes.toNat errors.toNat).pert.lpEn = s.pert.lpEn := (noted_kept _ _ _).2.2
    have hrefused : LoopRefused (noted s lanes.toNat errors.toNat) v.toNat ↔ LoopRefused s v.toNat := by
      rw [LoopRefused, getLink_noted, LoopRefused]
    have hmay := mayPerturb_noted s lanes.toNat errors.toNat (fnKeyOf f)
    dsimp only
    rw [hexec]
    generalize noted s lanes.toNat errors.toNat = u at hlpEn hrefused hmay ⊢
    refine ⟨fun hdenied => pertWrite_denied (mt hmay.mp hdenied) _, fun hok hbad => ?_, fun hok hgood hfresh => ?_, fun hok hgood hold => ?_⟩
    · exact congrArg _ (writeLpbkCtl_refused (hmay.mpr hok) (hrefused.mpr hbad))
    · exact congrArg _ (writeLpbkCtl_fresh (hmay.mpr hok) (mt hrefused.mp hgood) hfresh.1 (hlpEn.trans hfresh.2))
    · exact congrArg _ (writeLpbkCtl_again (hmay.mpr hok) (mt hrefused.mp hgood) (by rw [hlpEn]; exact hold))
  case start =>
    have hloop : exec (.phyloop f tkind target) s = .next (writeBistCtl s (fnKeyOf f) (bistWord 1 tkind target)) :=
      exec_of_answers hans (fun k => writeBistCtl s k (bistWord 1 tkind target)) rfl
    have hmarch : exec (.march f tkind target) s = .next (writeBistCtl s (fnKeyOf f) (bistWord 2 tkind target)) :=
      exec_of_answers hans (fun k => writeBistCtl s k (bistWord 2 tkind target)) rfl
    exact ⟨bistStart_sound (.inl rfl) hloop, bistStart_sound (.inr rfl) hmarch, bistFree_hbm, bistFree_lp, bistFree_cluster, bistFree_none⟩
  case looped =>
    refine ⟨_, exec_bistEnd_loop hrun hop, ?_⟩
    cases failed with
    | false => exact ⟨rfl, rfl, rfl, rfl⟩
    | true => exact ⟨rfl, rfl, rfl, flagSet_raise_same _ _ _⟩
  case hbm =>
    obtain ⟨hframe, hended⟩ := endMarchDram_sound (bistEnded s) 0 s.pert.bistTarget (fails.map (·.toNat))
    refine ⟨_, exec_bistEnd_dram hrun hop (by omega), ?_⟩
    rw [hkind]
    generalize endMarchDram (bistEnded s) 0 s.pert.bistTarget (fails.map (·.toNat)) = t at hframe hended ⊢
    have htiers : t.tiers = marchTiers (bistEnded s).tiers 0 s.pert.bistTarget (fails.map (·.toNat)) := by rw [hframe]
    have hon (g : Nat) (hin : g < hbmGranules) (hmod : g % 16 = s.pert.bistTarget) : marchOn 0 s.pert.bistTarget g = true := marchOn_hbm.mpr ⟨hin, hmod⟩
    have hoff (g : Nat) (hout : hbmGranules ≤ g ∨ g % 16 ≠ s.pert.bistTarget) : marchOn 0 s.pert.bistTarget g = false := by
      rw [← Bool.not_eq_true, marchOn_hbm]
      omega
    refine ⟨by rw [hframe]; rfl, hended, by rw [htiers]; rfl, by rw [htiers]; rfl, fun p j hin hmod hj => ?_, fun p j hout hj => ?_,
      fun g hin hmod => ?_, fun g hout => ?_⟩
    · rw [htiers, physByte_marched_on _ (hon p hin hmod) hj]
    · rw [htiers, physByte_marched_off _ (hoff p hout) hj]
      rfl
    · rw [htiers]
      exact marched_on (hon g hin hmod)
    · rw [htiers]
      exact marched_off (hoff g hout)
  case lp =>
    obtain ⟨hframe, hended⟩ := endMarchDram_sound (bistEnded s) 1 s.pert.bistTarget (fails.map (·.toNat))
    refine ⟨_, exec_bistEnd_dram hrun hop (by omega), ?_⟩
    rw [hkind]
    generalize endMarchDram (bistEnded s) 1 s.pert.bistTarget (fails.map (·.toNat)) = t at hframe hended ⊢
    have htiers : t.tiers = marchTiers (bistEnded s).tiers 1 s.pert.bistTarget (fails.map (·.toNat)) := by rw [hframe]
    have hon (g : Nat) (hin : g < lpGranules) : marchOn 1 s.pert.bistTarget g = true := marchOn_lp.mpr hin
    refine ⟨by rw [hframe]; rfl, hended, by rw [htiers]; rfl, by rw [htiers]; rfl, fun a hin => ?_, fun a hout => ?_, fun g hin => ?_⟩
    · rw [htiers]
      exact mget_filter_removed _ _ fun _ => by rw [hon _ hin]; rfl
    · have hoff : marchOn 1 s.pert.bistTarget (a / granBytes) = false := by
        rw [← Bool.not_eq_true, marchOn_lp]
        omega
      rw [htiers]
      exact mget_filter_kept _ _ fun _ => by rw [hoff]; rfl
    · rw [htiers]
      exact marched_on (hon g hin)
  case cores =>
    have hframe := clearStores_frame (bistEnded s) (clusterOfBit s.pert.bistTarget)
    have hin (i : Nat) (hi : i < 8) := getCore_clearStores_in (bistEnded s) (clusterOfBit s.pert.bistTarget) hi
    have hout (d : Nat) (hd : d / 8 ≠ clusterOfBit s.pert.bistTarget) := getCore_clearStores_out (bistEnded s) hd
    have hpassed := exec_bistEnd_cores (fails := fails) (failed := false) hrun hop hkind
    have hfailed := exec_bistEnd_cores (fails := fails) (failed := true) hrun hop hkind
    rw [endMarchCores_passed] at hpassed
    rw [endMarchCores_failed] at hfailed
    dsimp only
    generalize clearStores (bistEnded s) (clusterOfBit s.pert.bistTarget) = t at hframe hin hout hpassed hfailed
    exact ⟨t, hpassed, hframe, hin, hout, hfailed⟩

/-! ### The test access port (R427) -/

/-- EXTEST is in effect only where TEST_MODE_N was low. -/
theorem tapInstr_eq (s : State) : tapInstr s = if s.tap.instr = .extest ∧ s.handle.testN = true then .bypass else s.tap.instr := by
  unfold tapInstr
  cases s.tap.instr <;> cases s.handle.testN <;> rfl

theorem tap_off (h : s.power.on = false) (o : TapOp) : exec (.tap o) s = .next s := by
  show execTap o s = _
  unfold execTap
  rw [if_pos (by rw [h]; rfl)]

section
variable (hon : s.power.on = true)
include hon

theorem tap_reset : exec (.tap .reset) s = .next (driveLands { s with tap := { s.tap with instr := .idcode } }) := by
  show execTap .reset s = _
  unfold execTap
  rw [if_neg (by rw [hon]; decide)]

theorem tap_load (i : TapInstr) : exec (.tap (.load i)) s = .next (driveLands { s with tap := { s.tap with instr := i } }) := by
  show execTap (.load i) s = _
  unfold execTap
  rw [if_neg (by rw [hon]; decide)]

variable (tdi lands : List Bool)

theorem tap_scan_bypass (h : tapInstr s = .bypass) : exec (.tap (.scan tdi lands)) s =
    .next { s with out := s.out ++ [.tdo ((false :: tdi).take tdi.length)] } := by
  show execTap (.scan tdi lands) s = _
  unfold execTap
  rw [if_neg (by rw [hon]; decide)]
  dsimp only
  rw [h]
  rfl

theorem tap_scan_idcode (h : tapInstr s = .idcode) : exec (.tap (.scan tdi lands)) s =
    .next { s with out := s.out ++ [.tdo (((List.range 32).map (bit idcode) ++ tdi).take tdi.length)] } := by
  show execTap (.scan tdi lands) s = _
  unfold execTap
  rw [if_neg (by rw [hon]; decide)]
  dsimp only
  rw [h]
  rfl

theorem tap_scan_boundary (hbypass : tapInstr s ≠ .bypass) (hidcode : tapInstr s ≠ .idcode) : exec (.tap (.scan tdi lands)) s =
    .next (let u := driveLands { s with tap := { s.tap with boundary := (lands ++ tdi).drop tdi.length } }
      { u with out := u.out ++ [.tdo ((lands ++ tdi).take tdi.length)] }) := by
  show execTap (.scan tdi lands) s = _
  unfold execTap
  rw [if_neg (by rw [hon]; decide)]
  dsimp only
  cases hinstr : tapInstr s with
  | bypass => exact absurd hinstr hbypass
  | idcode => exact absurd hinstr hidcode
  | sample => rfl
  | extest => rfl

end

/-- The lands are driven from the boundary register while EXTEST is in effect. -/
theorem driveLands_eq (s : State) : driveLands s = { s with tap := { s.tap with
    driven := if s.tap.instr = .extest ∧ s.handle.testN = false then s.tap.boundary else [] } } := by
  unfold driveLands
  rw [tapInstr_eq]
  cases s.tap.instr <;> cases s.handle.testN <;> rfl

theorem idcode_fields : bits idcode 31 28 = 1 ∧ bits idcode 27 12 = 0x7064 ∧ bit idcode 0 = true ∧ bits idcode 11 1 = Config.jtagManufacturer.toNat := by
  have hmanufacturer := Config.jtagManufacturer.isLt
  unfold idcode bits bit
  simp only [beq_iff_eq]
  omega

theorem testAccessPort : Claims.TestAccessPort := by
  intro s
  refine ⟨fun hoff o => tap_off hoff o, fun hon => ⟨⟨_, tap_reset hon, ?reset⟩, fun i => ⟨_, tap_load hon i, ?load⟩, fun tdi lands =>
    ⟨fun hbypass => tap_scan_bypass hon tdi lands ?bypass, fun hidcode => tap_scan_idcode hon tdi lands ?idcode, fun hboundary => ?boundary⟩, idcode_fields⟩⟩
  case reset =>
    rw [driveLands_eq]
    exact ⟨rfl, rfl, rfl, rfl⟩
  case load =>
    rw [driveLands_eq]
    exact ⟨rfl, rfl, rfl, rfl⟩
  case bypass =>
    rw [tapInstr_eq]
    rcases hbypass with hbypass | hextest
    · rw [hbypass, if_neg (by simp)]
    · exact if_pos hextest
  case idcode => rw [tapInstr_eq, hidcode, if_neg (by simp)]
  case boundary =>
    have hinstr : tapInstr s = s.tap.instr := by
      rw [tapInstr_eq, if_neg]
      rintro ⟨hextest, htest⟩
      rcases hboundary with hsample | ⟨-, hlow⟩
      · exact absurd (hextest.symm.trans hsample) (by decide)
      · exact absurd (htest.symm.trans hlow) (by decide)
    have hnot : tapInstr s ≠ .bypass ∧ tapInstr s ≠ .idcode := by
      rw [hinstr]
      rcases hboundary with hsample | ⟨hextest, -⟩
      · rw [hsample]; decide
      · rw [hextest]; decide
    refine ⟨_, tap_scan_boundary hon tdi lands hnot.1 hnot.2, ?_⟩
    rw [driveLands_eq]
    refine ⟨rfl, rfl, rfl, by simp, ?_⟩
    rcases hboundary with hsample | ⟨hextest, hlow⟩
    · simp [hsample]
    · simp [hextest, hlow]

end Sys2Proof.Machine

open Sys2Proof.Machine

/-- Settles O52: the loopback by its control word, a march granule by granule and core by core, and the test access port by the instruction in effect. -/
theorem testModes : Obligations.TestModes := ⟨loopbackAndSelfTest, testAccessPort⟩
end
